-- ==== Sys2Proof/Word.lean ====
section
/-! DEFINITION. The word types of the Velene 880 and their plainest arithmetic (00 R4, R5, R10). -/

namespace Sys2Proof

/-- A byte of memory. -/
abbrev Byte := BitVec 8
/-- A 32-bit lane or group register value (R66). -/
abbrev W32 := BitVec 32
/-- A 64-bit scalar register, address or pair value (R5, R66). -/
abbrev W64 := BitVec 64
/-- One bit per lane of a group, beat 0 in the lowest word (R22). -/
abbrev Mask := BitVec 96
/-- A vector register: one value per lane (R66). -/
abbrev LaneVec := Vector W32 96

/-- A sparse table: a list of keys and values. What an unlisted key reads as is the reader's default. -/
abbrev Store (α : Type) := List (Nat × α)

end Sys2Proof
end

