-- ==== Sys2Proof/Config.lean ====
section
/-! DEFINITION. What the manual leaves open: the free values. None has a body, so nothing can be proved of its value
(DESIGN CHOICE, log 9). -/

namespace Sys2Proof.Config
open Sys2Proof

/-- A free value for a purpose, indexed by the machine's counter of free values (State.freeCount). -/
opaque free (purpose index : Nat) : W64

/-- The value an approximated function gives for an operand, where the manual bounds only its error: the function's lane
opcode, its format code and the operand (04 R112). -/
opaque approx (op fmt : Nat) (x : W32) : W32

/-- The level of detail the texture unit forms, in units of 2^-32 level, within its error
bound: of the squared length of the larger derivative, in texels, in units of 2^-298 (12 R355). -/
opaque lod (squared : Nat) : Int

end Sys2Proof.Config
end

