-- ==== Sys2Proof/Machine/Store.lean ====
section
/-! DEFINITION. The sparse tables that hold memories, register files and tables: reading, writing, canonical form. -/

namespace Sys2Proof

/-- The value of a key, or the default where it is not listed. -/
def Store.get {α : Type} (d : α) : Store α → Nat → α
  | [], _ => d
  | (k, v) :: m, i => if k = i then v else if i < k then d else Store.get d m i

/-- Listing a key at its place; an older entry of the key is replaced. -/
def Store.set {α : Type} : Store α → Nat → α → Store α
  | [], i, x => [(i, x)]
  | (k, v) :: m, i, x =>
    if k = i then (i, x) :: m
    else if i < k then (i, x) :: (k, v) :: m
    else (k, v) :: Store.set m i x

/-- Unlisting a key. Only larger keys stand behind it in a rising table; the filter says so for every table, so that
unlisting never shows another key. -/
def Store.erase {α : Type} : Store α → Nat → Store α
  | [], _ => []
  | (k, v) :: m, i => if k = i then m.filter fun p => decide (i < p.1) else if i < k then (k, v) :: m else (k, v) :: Store.erase m i

/-- Writing a key in canonical form: the default value is unlisted. -/
def Store.put {α : Type} [DecidableEq α] (d : α) (m : Store α) (i : Nat) (x : α) : Store α :=
  if x = d then m.erase i else m.set i x

/-- The canonical form: keys strictly rising, no entry equal to the default. -/
def Store.canonFrom {α : Type} [DecidableEq α] (d : α) : Nat → Store α → Bool
  | _, [] => true
  | lo, (k, v) :: m => decide (lo ≤ k) && decide (v ≠ d) && Store.canonFrom d (k + 1) m

/-- The canonical form of a whole table. -/
def Store.canon {α : Type} [DecidableEq α] (d : α) (m : Store α) : Bool := Store.canonFrom d 0 m

end Sys2Proof
end

