-- ==== Sys2Proof/Syntax.lean ====
section
/-! DEFINITION. The instruction formats (02 R41-R47) and the one inductive of instructions and events. -/

namespace Sys2Proof

/-- The fields of an L32 word (R41). -/
structure L32 where
  g : Bool
  f : BitVec 4
  b : BitVec 6
  a : BitVec 6
  d : BitVec 6
  deriving DecidableEq, Repr

/-- What stands in bits [49:40] and the third word: the C field of L64 (R43), or X and the literal of L96 (R44). -/
inductive Ext where
  /-- L64: the third source register. -/
  | reg (c : BitVec 10)
  /-- L96: X.SUB, X.SLOT and the literal. -/
  | lit (sub : BitVec 8) (slot : BitVec 2) (imm : W32)
  deriving DecidableEq, Repr

/-- The fields of an L64 or L96 instruction (R43, R44). -/
structure LOp where
  pn : Bool
  ps : BitVec 5
  f : BitVec 4
  la : BitVec 4
  x : Ext
  b : BitVec 10
  a : BitVec 10
  d : BitVec 10
  deriving DecidableEq, Repr

/-- The fields of an S32 word (R47). -/
structure S32 where
  f : BitVec 2
  b : BitVec 7
  a : BitVec 7
  d : BitVec 7
  deriving DecidableEq, Repr

/-- The fields of an S64 instruction: E1 is a literal or an extension word (R47). -/
structure S64 where
  w : S32
  e1 : W32
  deriving DecidableEq, Repr

/-- The fields of an S96 instruction (R47). -/
structure S96 where
  w : S32
  e1 : W32
  e2 : W32
  deriving DecidableEq, Repr

/-- What the two low bits of the first word choose among: which stream fetched it (02, opening). -/
inductive Page where
  /-- Group code. -/
  | lane
  /-- A team's scalar stream. -/
  | scalar
  /-- A Scan Engine head's line sequencer (R364). -/
  | sequencer
  deriving DecidableEq, Repr

/-- What a register field of an instruction names (R46), with the alignment and range its row gives. -/
inductive Kind where
  /-- The field must be 0 (R43). -/
  | unused
  /-- n v registers from a multiple of al, none beyond v1023. -/
  | v (n al : Nat)
  /-- A result or operand block of a ring instruction (09 R249): n v registers from a multiple of al. Only the group's count
  bounds it (02 R58). -/
  | ring (n al : Nat)
  /-- n g registers from lo or above, even when n is 2. -/
  | g (n lo : Nat)
  /-- A predicate triple k = 1-20. -/
  | triple
  /-- n s registers. -/
  | s (n : Nat)
  /-- A rendezvous point 0-23. -/
  | point
  /-- Any value below n. -/
  | below (n : Nat)
  deriving DecidableEq, Repr

/-- What the encoding of a lane instruction allows, for its F value and length. -/
structure LSpec where
  /-- F has a defined value. -/
  fOk : Bool
  d : Kind
  a : Kind
  b : Kind
  c : Kind
  /-- L64 is accepted. -/
  l64 : Bool
  /-- The SLOT values L96 accepts; none when L96 is not accepted. -/
  slots : List Nat
  /-- X.SUB has a defined value (L96). -/
  subOk : Bool := true
  /-- The literal has a defined value (L96). -/
  litOk : Bool := true
  /-- Long-latency: LA may be non-zero. -/
  ll : Bool := false
  /-- A predicate may be named. -/
  ps : Bool := true
  /-- SUB is not a sub-opcode but a record index or type. -/
  subFree : Bool := false
  deriving DecidableEq, Repr

/-- What the management processor found at bring-up (00 R16), one field per failure it reports (DESIGN CHOICE, log 24). -/
structure BringUpReport where
  firmwareOk : Bool
  linksOk : Bool
  /-- UCIe links that failed, which the recovery mailbox reports. -/
  failedLinks : List Nat := []
  /-- Every HBM4E stack has a usable channel. -/
  stacksOk : Bool
  /-- Every strand's slots returned. -/
  strandsOk : Bool
  /-- Per cluster, its good physical cores; a cluster not listed has all 26. -/
  goodCores : Store (BitVec 26)
  /-- Per physical core (26 × cluster + core), its failed co-processors (raster 1, traversal 0, texture 2 by FEAT0 order). -/
  badCoprocessors : Store (BitVec 3)
  /-- Logical channels whose physical channel failed. -/
  failedChannels : List Nat
  /-- Stack matrix-vector units that work. -/
  stackUnits : BitVec 8
  scanOk : Bool
  linkOk : Bool
  deriving DecidableEq, Repr

/-- What the cap controller reads at a window end (15 R402, 00 R15) (DESIGN CHOICE, log 24). -/
structure PowerReading where
  /-- Package power in watts, from the rail monitors. -/
  watts : Rat
  /-- Power of each cluster in watts, for the estimate. -/
  clusterWatts : Store Rat
  /-- Coolant inlet in degrees Celsius, at any resolution; none when the sensor is unreadable. -/
  inlet : Option Rat
  /-- Some die junction is at or above 95 degrees. -/
  hot : Bool
  deriving DecidableEq, Repr

/-- Where an uncorrectable error was found (06 R158, 09 R246, 11 R326, 13 R376, 14 R387). -/
inductive ErrorSite where
  /-- State that a context owns. -/
  | context (vf ctx : Nat)
  /-- A ring slot whose tag can be read. -/
  | ringSlot (index : Nat)
  /-- A ring slot whose tag cannot be read. -/
  | ringSlotNoTag (index : Nat)
  /-- A save, or the state it reads. -/
  | save (vf ctx : Nat)
  /-- A program or weight bank of a head. -/
  | bank (head : Nat)
  /-- A band slot of a head. -/
  | bandSlot (head : Nat)
  deriving DecidableEq, Repr


/-- The instructions and events of the part, one constructor per row of the opcode table.
An event row has no encoding: State.agenda presents it. -/
inductive Instr where
  /-- ADD_L32 (R78). -/
  | addL32 (o : L32)
  /-- ADD (R78). -/
  | add (o : LOp)
  /-- SUB_L32 (R78). -/
  | subL32 (o : L32)
  /-- SUB (R78). -/
  | sub (o : LOp)
  /-- MUL_L32 (R78). -/
  | mulL32 (o : L32)
  /-- MUL (R78). -/
  | mul (o : LOp)
  /-- MULHI_L32 (R78). -/
  | mulhiL32 (o : L32)
  /-- MULHI (R78). -/
  | mulhi (o : LOp)
  /-- MAD (R78). -/
  | mad (o : LOp)
  /-- DIV (R79). -/
  | div (o : LOp)
  /-- REM (R79). -/
  | rem (o : LOp)
  /-- MIN_L32 (R78). -/
  | minL32 (o : L32)
  /-- MIN (R78). -/
  | min (o : LOp)
  /-- MAX_L32 (R78). -/
  | maxL32 (o : L32)
  /-- MAX (R78). -/
  | max (o : LOp)
  /-- ABS_L32 (R78). -/
  | absL32 (o : L32)
  /-- ABS (R78). -/
  | abs (o : LOp)
  /-- NEG_L32 (R78). -/
  | negL32 (o : L32)
  /-- NEG (R78). -/
  | neg (o : LOp)
  /-- AND_L32 (R80). -/
  | andL32 (o : L32)
  /-- AND (R80). -/
  | and (o : LOp)
  /-- OR_L32 (R80). -/
  | orL32 (o : L32)
  /-- OR (R80). -/
  | or (o : LOp)
  /-- XOR_L32 (R80). -/
  | xorL32 (o : L32)
  /-- XOR (R80). -/
  | xor (o : LOp)
  /-- NOT_L32 (R80). -/
  | notL32 (o : L32)
  /-- NOT (R80). -/
  | not (o : LOp)
  /-- ANDN_L32 (R80). -/
  | andnL32 (o : L32)
  /-- ANDN (R80). -/
  | andn (o : LOp)
  /-- SHL_L32 (R80). -/
  | shlL32 (o : L32)
  /-- SHL (R80). -/
  | shl (o : LOp)
  /-- SHR_L32 (R80). -/
  | shrL32 (o : L32)
  /-- SHR (R80). -/
  | shr (o : LOp)
  /-- SRA_L32 (R80). -/
  | sraL32 (o : L32)
  /-- SRA (R80). -/
  | sra (o : LOp)
  /-- ROTL_L32 (R80). -/
  | rotlL32 (o : L32)
  /-- ROTL (R80). -/
  | rotl (o : LOp)
  /-- BFE_L32 (R80). -/
  | bfeL32 (o : L32)
  /-- BFE (R80). -/
  | bfe (o : LOp)
  /-- BFI (R80). -/
  | bfi (o : LOp)
  /-- POPC_L32 (R80). -/
  | popcL32 (o : L32)
  /-- POPC (R80). -/
  | popc (o : LOp)
  /-- CLZ_L32 (R80). -/
  | clzL32 (o : L32)
  /-- CLZ (R80). -/
  | clz (o : LOp)
  /-- CTZ_L32 (R80). -/
  | ctzL32 (o : L32)
  /-- CTZ (R80). -/
  | ctz (o : LOp)
  /-- BREV_L32 (R80). -/
  | brevL32 (o : L32)
  /-- BREV (R80). -/
  | brev (o : LOp)
  /-- CMP (R81). -/
  | cmp (o : LOp)
  /-- SEL (R81). -/
  | sel (o : LOp)
  /-- MOV_L32 (R82). -/
  | movL32 (o : L32)
  /-- MOV (R82). -/
  | mov (o : LOp)
  /-- CVTI_L32 (R83). -/
  | cvtiL32 (o : L32)
  /-- CVTI (R83). -/
  | cvti (o : LOp)
  /-- LEA (R84). -/
  | lea (o : LOp)
  /-- PERM (R85). -/
  | perm (o : LOp)
  /-- PADD_L32 (R86). -/
  | paddL32 (o : L32)
  /-- PADD (R86). -/
  | padd (o : LOp)
  /-- PSUB_L32 (R86). -/
  | psubL32 (o : L32)
  /-- PSUB (R86). -/
  | psub (o : LOp)
  /-- PMUL_L32 (R86). -/
  | pmulL32 (o : L32)
  /-- PMUL (R86). -/
  | pmul (o : LOp)
  /-- PMIN_L32 (R86). -/
  | pminL32 (o : L32)
  /-- PMIN (R86). -/
  | pmin (o : LOp)
  /-- PMAX_L32 (R86). -/
  | pmaxL32 (o : L32)
  /-- PMAX (R86). -/
  | pmax (o : LOp)
  /-- PABS_L32 (R86). -/
  | pabsL32 (o : L32)
  /-- PABS (R86). -/
  | pabs (o : LOp)
  /-- PSHL_L32 (R87). -/
  | pshlL32 (o : L32)
  /-- PSHL (R87). -/
  | pshl (o : LOp)
  /-- PSHR_L32 (R87). -/
  | pshrL32 (o : L32)
  /-- PSHR (R87). -/
  | pshr (o : LOp)
  /-- PSRA_L32 (R87). -/
  | psraL32 (o : L32)
  /-- PSRA (R87). -/
  | psra (o : LOp)
  /-- PCMP_L32 (R86). -/
  | pcmpL32 (o : L32)
  /-- PCMP (R86). -/
  | pcmp (o : LOp)
  /-- PDOT (R86). -/
  | pdot (o : LOp)
  /-- PPACK_L32 (R88). -/
  | ppackL32 (o : L32)
  /-- PPACK (R88). -/
  | ppack (o : LOp)
  /-- PUNPK_L32 (R88). -/
  | punpkL32 (o : L32)
  /-- PUNPK (R88). -/
  | punpk (o : LOp)
  /-- SAD (R86). -/
  | sad (o : LOp)
  /-- VGIVE (R72). -/
  | vgive (o : LOp)
  /-- VCLAIM (R72). -/
  | vclaim (o : LOp)
  /-- VCLAIM_TRY (R72). -/
  | vclaimTry (o : LOp)
  /-- FADD_L32 (R105). -/
  | faddL32 (o : L32)
  /-- FADD (R105). -/
  | fadd (o : LOp)
  /-- FSUB_L32 (R105). -/
  | fsubL32 (o : L32)
  /-- FSUB (R105). -/
  | fsub (o : LOp)
  /-- FMUL_L32 (R105). -/
  | fmulL32 (o : L32)
  /-- FMUL (R105). -/
  | fmul (o : LOp)
  /-- FMA (R105). -/
  | fma (o : LOp)
  /-- FMIN_L32 (R106). -/
  | fminL32 (o : L32)
  /-- FMIN (R106). -/
  | fmin (o : LOp)
  /-- FMAX_L32 (R106). -/
  | fmaxL32 (o : L32)
  /-- FMAX (R106). -/
  | fmax (o : LOp)
  /-- FSGN_L32 (R107). -/
  | fsgnL32 (o : L32)
  /-- FSGN (R107). -/
  | fsgn (o : LOp)
  /-- FCMP (R108). -/
  | fcmp (o : LOp)
  /-- FCLASS_L32 (R109). -/
  | fclassL32 (o : L32)
  /-- FCLASS (R109). -/
  | fclass (o : LOp)
  /-- FRND_L32 (R110). -/
  | frndL32 (o : L32)
  /-- FRND (R110). -/
  | frnd (o : LOp)
  /-- FSCALE (R110). -/
  | fscale (o : LOp)
  /-- FEXPO_L32 (R110). -/
  | fexpoL32 (o : L32)
  /-- FEXPO (R110). -/
  | fexpo (o : LOp)
  /-- FDOT2 (R105). -/
  | fdot2 (o : LOp)
  /-- FDIV (R111). -/
  | fdiv (o : LOp)
  /-- FSQRT (R111). -/
  | fsqrt (o : LOp)
  /-- FRCP (R111). -/
  | frcp (o : LOp)
  /-- FRSQ (R112). -/
  | frsq (o : LOp)
  /-- FEXP2 (R112). -/
  | fexp2 (o : LOp)
  /-- FLOG2 (R112). -/
  | flog2 (o : LOp)
  /-- FSIN (R112). -/
  | fsin (o : LOp)
  /-- FCOS (R112). -/
  | fcos (o : LOp)
  /-- FTANH (R112). -/
  | ftanh (o : LOp)
  /-- CVT_L32 (R113). -/
  | cvtL32 (o : L32)
  /-- CVT (R113). -/
  | cvt (o : LOp)
  /-- CVTFI_L32 (R114). -/
  | cvtfiL32 (o : L32)
  /-- CVTFI (R114). -/
  | cvtfi (o : LOp)
  /-- CVTIF_L32 (R115). -/
  | cvtifL32 (o : L32)
  /-- CVTIF (R115). -/
  | cvtif (o : LOp)
  /-- CVTX_L32 (R116). -/
  | cvtxL32 (o : L32)
  /-- CVTX (R116). -/
  | cvtx (o : LOp)
  /-- CVTQ (R119). -/
  | cvtq (o : LOp)
  /-- CVTN (R117). -/
  | cvtn (o : LOp)
  /-- AMXCOM (R120). -/
  | amxcom (o : LOp)
  /-- WFUP (R123). -/
  | wfup (o : LOp)
  /-- WFMERGE (R124). -/
  | wfmerge (o : LOp)
  /-- BRA (R129). -/
  | bra (o : LOp)
  /-- JOIN (R130). -/
  | join (o : LOp)
  /-- JOINT (R133). -/
  | joint (o : LOp)
  /-- CALL (R137). -/
  | call (o : LOp)
  /-- RET (R137). -/
  | ret (o : LOp)
  /-- EXIT (R131). -/
  | exit (o : LOp)
  /-- DQTAKE (R138). -/
  | dqtake (o : LOp)
  /-- ALLON (R142). -/
  | allon (o : LOp)
  /-- ALLOFF (R142). -/
  | alloff (o : LOp)
  /-- VOTE (R145). -/
  | vote (o : LOp)
  /-- SHFL (R146). -/
  | shfl (o : LOp)
  /-- QSWAP (R147). -/
  | qswap (o : LOp)
  /-- QDIFF (R148). -/
  | qdiff (o : LOp)
  /-- SCAN (R149). -/
  | scan (o : LOp)
  /-- REDC (R149). -/
  | redc (o : LOp)
  /-- LDS (R177). -/
  | lds (o : LOp)
  /-- STS (R177). -/
  | sts (o : LOp)
  /-- LDB (R189). -/
  | ldb (o : LOp)
  /-- STB (R189). -/
  | stb (o : LOp)
  /-- ATOMS (R201). -/
  | atoms (o : LOp)
  /-- ATOM (R201). -/
  | atom (o : LOp)
  /-- GRED (R203). -/
  | gred (o : LOp)
  /-- PATOM (R205). -/
  | patom (o : LOp)
  /-- PFB (R190). -/
  | pfb (o : LOp)
  /-- ACC_RD (R230). -/
  | accRd (o : LOp)
  /-- BOARD (R256). -/
  | board (o : LOp)
  /-- ALIGHT (R254). -/
  | alight (o : LOp)
  /-- WCAP (R254). -/
  | wcap (o : LOp)
  /-- WCAP_UNTIL (R254). -/
  | wcapUntil (o : LOp)
  /-- WREW (R253). -/
  | wrew (o : LOp)
  /-- FENCE (R274). -/
  | fence (o : LOp)
  /-- EMITV (R331). -/
  | emitv (o : LOp)
  /-- EMITP (R331). -/
  | emitp (o : LOp)
  /-- EMITEND (R332). -/
  | emitend (o : LOp)
  /-- VBLD (R342). -/
  | vbld (o : LOp)
  /-- VBARY (R343). -/
  | vbary (o : LOp)
  /-- VINTERP (R344). -/
  | vinterp (o : LOp)
  /-- COVER (R339). -/
  | cover (o : LOp)
  /-- TRACE (R347). -/
  | trace (o : LOp)
  /-- HITACC (R348). -/
  | hitacc (o : LOp)
  /-- HITIGN (R348). -/
  | hitign (o : LOp)
  /-- TSAMP (R355). -/
  | tsamp (o : LOp)
  /-- TGATH (R355). -/
  | tgath (o : LOp)
  /-- TLOAD (R356). -/
  | tload (o : LOp)
  /-- TQUERY (R356). -/
  | tquery (o : LOp)
  /-- RDV_ARR (R397). -/
  | rdvArr (o : LOp)
  /-- RDV_WAIT (R397). -/
  | rdvWait (o : LOp)
  /-- RDV_DROP (R397). -/
  | rdvDrop (o : LOp)
  /-- SETPERF (R407). -/
  | setperf (o : LOp)
  /-- CTRRD (R410). -/
  | ctrrd (o : LOp)
  /-- SYSRD (R164). -/
  | sysrd (o : LOp)
  /-- SYSWR (R164). -/
  | syswr (o : LOp)
  /-- TRAP (R164). -/
  | trap (o : LOp)
  /-- BRK (R164). -/
  | brk (o : LOp)
  /-- ERET (R165). -/
  | eret (o : LOp)
  /-- NOP (R164). -/
  | nop (o : LOp)
  /-- SADD_S32 (R89). -/
  | saddS32 (o : S32)
  /-- SADD_S64 (R89). -/
  | saddS64 (o : S64)
  /-- SSUB_S32 (R89). -/
  | ssubS32 (o : S32)
  /-- SSUB_S64 (R89). -/
  | ssubS64 (o : S64)
  /-- SMUL_S32 (R89). -/
  | smulS32 (o : S32)
  /-- SMUL_S64 (R89). -/
  | smulS64 (o : S64)
  /-- SMULHI_S32 (R89). -/
  | smulhiS32 (o : S32)
  /-- SMULHI_S64 (R89). -/
  | smulhiS64 (o : S64)
  /-- SDIV_S32 (R89). -/
  | sdivS32 (o : S32)
  /-- SDIV_S64 (R89). -/
  | sdivS64 (o : S64)
  /-- SREM_S32 (R89). -/
  | sremS32 (o : S32)
  /-- SREM_S64 (R89). -/
  | sremS64 (o : S64)
  /-- SMIN_S32 (R89). -/
  | sminS32 (o : S32)
  /-- SMIN_S64 (R89). -/
  | sminS64 (o : S64)
  /-- SMAX_S32 (R89). -/
  | smaxS32 (o : S32)
  /-- SMAX_S64 (R89). -/
  | smaxS64 (o : S64)
  /-- SAND_S32 (R89). -/
  | sandS32 (o : S32)
  /-- SAND_S64 (R89). -/
  | sandS64 (o : S64)
  /-- SOR_S32 (R89). -/
  | sorS32 (o : S32)
  /-- SOR_S64 (R89). -/
  | sorS64 (o : S64)
  /-- SXOR_S32 (R89). -/
  | sxorS32 (o : S32)
  /-- SXOR_S64 (R89). -/
  | sxorS64 (o : S64)
  /-- SANDN_S32 (R89). -/
  | sandnS32 (o : S32)
  /-- SANDN_S64 (R89). -/
  | sandnS64 (o : S64)
  /-- SSHL_S32 (R89). -/
  | sshlS32 (o : S32)
  /-- SSHL_S64 (R89). -/
  | sshlS64 (o : S64)
  /-- SSHR_S32 (R89). -/
  | sshrS32 (o : S32)
  /-- SSHR_S64 (R89). -/
  | sshrS64 (o : S64)
  /-- SSRA_S32 (R89). -/
  | ssraS32 (o : S32)
  /-- SSRA_S64 (R89). -/
  | ssraS64 (o : S64)
  /-- SBFE_S32 (R89). -/
  | sbfeS32 (o : S32)
  /-- SBFE_S64 (R89). -/
  | sbfeS64 (o : S64)
  /-- SBFI_S32 (R89). -/
  | sbfiS32 (o : S32)
  /-- SBFI_S64 (R89). -/
  | sbfiS64 (o : S64)
  /-- SPOPC (R89). -/
  | spopc (o : S32)
  /-- SCLZ (R89). -/
  | sclz (o : S32)
  /-- SCTZ (R89). -/
  | sctz (o : S32)
  /-- SMOV_S32 (R89). -/
  | smovS32 (o : S32)
  /-- SMOV_S64 (R89). -/
  | smovS64 (o : S64)
  /-- SLI (R89). -/
  | sli (o : S96)
  /-- SCMP_S32 (R89). -/
  | scmpS32 (o : S32)
  /-- SCMP_S64 (R89). -/
  | scmpS64 (o : S64)
  /-- SSEL_S32 (R89). -/
  | sselS32 (o : S32)
  /-- SSEL_S64 (R89). -/
  | sselS64 (o : S64)
  /-- SLEA_S32 (R89). -/
  | sleaS32 (o : S32)
  /-- SLEA_S64 (R89). -/
  | sleaS64 (o : S64)
  /-- SBR (R141). -/
  | sbr (o : S64)
  /-- SJMP_S32 (R141). -/
  | sjmpS32 (o : S32)
  /-- SJMP_S64 (R141). -/
  | sjmpS64 (o : S64)
  /-- SCALL_S32 (R141). -/
  | scallS32 (o : S32)
  /-- SCALL_S64 (R141). -/
  | scallS64 (o : S64)
  /-- SRET (R141). -/
  | sret (o : S32)
  /-- SEXIT (R141). -/
  | sexit (o : S32)
  /-- SDQPUSH (R139). -/
  | sdqpush (o : S32)
  /-- SLDS_S32 (R179). -/
  | sldsS32 (o : S32)
  /-- SLDS_S64 (R179). -/
  | sldsS64 (o : S64)
  /-- SSTS_S32 (R179). -/
  | sstsS32 (o : S32)
  /-- SSTS_S64 (R179). -/
  | sstsS64 (o : S64)
  /-- SLDG_S32 (R179). -/
  | sldgS32 (o : S32)
  /-- SLDG_S64 (R179). -/
  | sldgS64 (o : S64)
  /-- SSTG_S32 (R179). -/
  | sstgS32 (o : S32)
  /-- SSTG_S64 (R179). -/
  | sstgS64 (o : S64)
  /-- SATOM (R201). -/
  | satom (o : S96)
  /-- MMUL (R219). -/
  | mmul (o : S96)
  /-- MMULP (R236). -/
  | mmulp (o : S96)
  /-- MACC_LD (R232). -/
  | maccLd (o : S64)
  /-- MACC_ST (R232). -/
  | maccSt (o : S64)
  /-- MACC_RB (R232). -/
  | maccRb (o : S64)
  /-- MACC_CLR (R232). -/
  | maccClr (o : S64)
  /-- MMV (R238). -/
  | mmv (o : S96)
  /-- SBOARD (R251). -/
  | sboard (o : S96)
  /-- SALIGHT (R251). -/
  | salight (o : S96)
  /-- SWCAP (R251). -/
  | swcap (o : S96)
  /-- SWREW (R251). -/
  | swrew (o : S96)
  /-- XCOPY (R280). -/
  | xcopy (o : S96)
  /-- XPUB (R286). -/
  | xpub (o : S32)
  /-- XDRAIN (R283). -/
  | xdrain (o : S32)
  /-- XCOLL (R289). -/
  | xcoll (o : S96)
  /-- SFENCE (R275). -/
  | sfence (o : S32)
  /-- SLAUNCH (R308). -/
  | slaunch (o : S32)
  /-- SFSNEW (R309). -/
  | sfsnew (o : S32)
  /-- SFSWAIT (R310). -/
  | sfswait (o : S32)
  /-- SQFENCE (R312). -/
  | sqfence (o : S32)
  /-- SRDV_INIT (R398). -/
  | srdvInit (o : S32)
  /-- SRDV_ARR_S32 (R398). -/
  | srdvArrS32 (o : S32)
  /-- SRDV_ARR_S64 (R398). -/
  | srdvArrS64 (o : S64)
  /-- SRDV_WAIT (R398). -/
  | srdvWait (o : S32)
  /-- SSETPERF (R407). -/
  | ssetperf (o : S32)
  /-- SSYSRD (R166). -/
  | ssysrd (o : S64)
  /-- SSYSWR (R166). -/
  | ssyswr (o : S64)
  /-- STRAP_S32 (R166). -/
  | strapS32 (o : S32)
  /-- STRAP_S64 (R166). -/
  | strapS64 (o : S64)
  /-- SERET (R166). -/
  | seret (o : S32)
  /-- LGEN (R365). -/
  | lgen (o : S32)
  /-- LGEN_WAIT (R365). -/
  | lgenWait (o : S32)
  /-- LLATCH (R366). -/
  | llatch (o : S32)
  /-- LFETCH (R365). -/
  | lfetch (o : S64)
  /-- LME (R368). -/
  | lme (o : S64)
  /-- LWARP (R369). -/
  | lwarp (o : S64)
  /-- LNET (R367). -/
  | lnet (o : S32)
  /-- LPUT (R371). -/
  | lput (o : S32)
  /-- LPOSE (R365). -/
  | lpose (o : S32)
  /-- LTIME (R365). -/
  | ltime (o : S32)
  /-- LEND (R365). -/
  | lend (o : S32)
  /-- POWER_UP_BRING_UP: an event (R16). -/
  | powerUpBringUp (report : BringUpReport)
  /-- POWER_REMOVAL: an event (R14). -/
  | powerRemoval
  /-- JUNCTION_SHUTDOWN: an event (R15). -/
  | junctionShutdown (celsius : Rat)
  /-- CAP_WINDOW_END: an event (R402). -/
  | capWindowEnd (reading : PowerReading)
  /-- CLOCK_RATIO_CHANGE: an event (R402). -/
  | clockRatioChange (core : Nat)
  /-- CLUSTER_POWER_ON: an event (R408). -/
  | clusterPowerOn (cluster : Nat)
  /-- VF_FUNCTION_LEVEL_RESET: an event (R292). -/
  | vfFunctionLevelReset (vf : Nat)
  /-- PF_FUNCTION_LEVEL_RESET: an event (R393). -/
  | pfFunctionLevelReset
  /-- UNCORRECTABLE_ERROR: an event (R159). -/
  | uncorrectableError (site : ErrorSite) (loc : W64)
  /-- HOST_ABORT: an event (R159). -/
  | hostAbort (vf ctx : Nat)
  /-- CORRECTED_ERROR: an event (R412). -/
  | correctedError (kind unit count : Nat) (inOneSecond : Bool)
  /-- RUN_TIME_REPAIR: an event (R392). -/
  | runTimeRepair (core : Nat) (coprocessors : BitVec 3)
  /-- DOORBELL_WRITE: an event (R294). -/
  | doorbellWrite (vf queue : Nat) (tail : W64)
  /-- PACKET_TAKE: an event (R296). -/
  | packetTake (vf queue : Nat)
  /-- LAUNCH_CHECK: an event (R29). -/
  | launchCheck (vf ctx : Nat)
  /-- TEAM_START: an event (R30). -/
  | teamStart (core : Nat)
  /-- TEAM_END: an event (R34). -/
  | teamEnd (team : Nat)
  /-- QRESUME: an event (R294). -/
  | qresume (vf : Nat) (value : W64)
  /-- QCFG_WRITE: an event (R294). -/
  | qcfgWrite (vf : Nat) (value : W64)
  /-- HCINV: an event (R61). -/
  | hcinv (vf : Nat) (value : W64)
  /-- FQCFG_WRITE: an event (R161). -/
  | fqcfgWrite (vf : Nat) (value : W64)
  /-- FQCONS_WRITE: an event (R161). -/
  | fqconsWrite (vf : Nat) (value : W64)
  /-- FQRESP_REPLAY: an event (R161). -/
  | fqrespReplay (vf : Nat) (page : W64)
  /-- FQRESP_FAILURE: an event (R161). -/
  | fqrespFailure (vf : Nat) (page : W64)
  /-- FAULT_POST_RETRY: an event (R161). -/
  | faultPostRetry (vf : Nat)
  /-- FSRESET: an event (R306). -/
  | fsreset (vf : Nat) (value : W64)
  /-- VFSTAT_CLEAR: an event (R294). -/
  | vfstatClear (vf : Nat) (value : W64)
  /-- CTXCMD_CREATE: an event (R317). -/
  | ctxcmdCreate (vf : Nat)
  /-- CTXCMD_DESTROY: an event (R294). -/
  | ctxcmdDestroy (vf : Nat)
  /-- CTXCMD_PREEMPT: an event (R319). -/
  | ctxcmdPreempt (vf : Nat)
  /-- TIME_SLICE_END: an event (R316). -/
  | timeSliceEnd (vf : Nat)
  /-- GRACE_PHASE_END: an event (R319). -/
  | gracePhaseEnd (vf : Nat)
  /-- STOP_PHASE_SETTLED: an event (R320). -/
  | stopPhaseSettled (vf : Nat)
  /-- SAVE_COMPLETE: an event (R319). -/
  | saveComplete (vf : Nat)
  /-- CONTEXT_RESUME: an event (R324). -/
  | contextResume (vf : Nat)
  /-- CONTEXT_WATCHDOG_EXPIRY: an event (R318). -/
  | contextWatchdogExpiry (vf : Nat)
  /-- WINDOW_CLOSE: an event (R49). -/
  | windowClose (team group : Nat)
  /-- JOIN_TIMER_EXPIRY: an event (R133). -/
  | joinTimerExpiry (team group token : Nat)
  /-- JOIN_DEADLOCK: an event (R136). -/
  | joinDeadlock (team group : Nat)
  /-- PAIR_TIMEOUT: an event (R236). -/
  | pairTimeout (core : Nat)
  /-- HOME_SLICE_ACCESS: an event (R171). -/
  | homeSliceAccess (slice : Nat)
  /-- MATRIX_K_STEP: an event (R224). -/
  | matrixKStep (core : Nat)
  /-- GOVERNOR_STEP: an event (R403). -/
  | governorStep (cluster : Nat)
  /-- MACC_COMPLETE: an event (R232). -/
  | maccComplete (core : Nat)
  /-- RING_SLOT_PASSAGE: an event (R258). -/
  | ringSlotPassage
  /-- RING_WATCH_EXPIRY: an event (R256). -/
  | ringWatchExpiry
  /-- WCAP_UNTIL_TIMEOUT: an event (R254). -/
  | wcapUntilTimeout
  /-- SEAM_REVOLUTION: an event (R247). -/
  | seamRevolution
  /-- COPY_COMPLETE: an event (R280). -/
  | copyComplete (core entry : Nat)
  /-- COLLECTIVE_JOIN: an event (R289). -/
  | collectiveJoin (die : Nat)
  /-- COLLECTIVE_RANK_DONE: an event (R289). -/
  | collectiveRankDone (die rank : Nat)
  /-- RDV_UNITS_ARRIVE: an event (R395). -/
  | rdvUnitsArrive (team : Nat)
  /-- RASTER_PRIMITIVE: an event (R333). -/
  | rasterPrimitive (core batch : Nat)
  /-- COVERAGE_TEAM_START: an event (R338). -/
  | coverageTeamStart (core batch : Nat)
  /-- PIXEL_TEAM_START: an event (R340). -/
  | pixelTeamStart (core batch : Nat)
  /-- EMITEND_RESULT: an event (R332). -/
  | emitendResult (core batch : Nat)
  /-- TRAVERSAL_RESULT: an event (R347). -/
  | traversalResult (team group lane : Nat)
  /-- HEAD_ENABLE: an event (R360). -/
  | headEnable (vf head : Nat) (value : W64)
  /-- HEAD_DISABLE: an event (R377). -/
  | headDisable (vf head : Nat) (value : W64)
  /-- HCTL_SWAP: an event (R376). -/
  | hctlSwap (vf head : Nat)
  /-- BANK_SWAP: an event (R376). -/
  | bankSwap (head : Nat)
  /-- HLOAD: an event (R375). -/
  | hload (vf head : Nat) (value : W64)
  /-- HLOAD_DONE: an event (R375). -/
  | hloadDone (head : Nat)
  /-- HPOSE_WRITE: an event (R359). -/
  | hposeWrite (vf head : Nat) (value : W64)
  /-- BAND_PROGRAM_START: an event (R363). -/
  | bandProgramStart (head : Nat)
  /-- BAND_DEADLINE: an event (R371). -/
  | bandDeadline (head : Nat)
  /-- FALLBACK_WRITE_DONE: an event (R371). -/
  | fallbackWriteDone (head : Nat)
  /-- FALLBACK_MODE_BAND: an event (R372). -/
  | fallbackModeBand (head : Nat)
  /-- FRAME_START: an event (R372). -/
  | frameStart (head : Nat)
  /-- BAND_SCANOUT: an event (R373). -/
  | bandScanout (head : Nat)
  /-- SHARED_UNIT_GRANT: an event (R370). -/
  | sharedUnitGrant (motion : Bool)
  /-- TLBINV: an event (R382). -/
  | tlbinv (vf : Nat) (value : W64)
  /-- PFTLBINV: an event (R382). -/
  | pftlbinv (value : W64)
  /-- ATRCMD_REGISTER: an event (R385). -/
  | atrcmdRegister (vf count : Nat)
  /-- ATRCMD_REMOVE: an event (R385). -/
  | atrcmdRemove (vf : Nat)
  /-- PFPSCMD_CONFIGURE: an event (R384). -/
  | pfpscmdConfigure
  /-- PFPSCMD_INVALIDATE: an event (R384). -/
  | pfpscmdInvalidate
  /-- PFPART_WRITE: an event (R393). -/
  | pfpartWrite (value : W64)
  /-- PFQRANGE_WRITE: an event (R393). -/
  | pfqrangeWrite (value : W64)
  /-- PFRING_WRITE: an event (R393). -/
  | pfringWrite (value : W64)
  /-- PFSAVE_WRITE: an event (R393). -/
  | pfsaveWrite (value : W64)
  /-- PFHEADS_WRITE: an event (R393). -/
  | pfheadsWrite (value : W64)
  /-- PFPCAP_WRITE: an event (R405). -/
  | pfpcapWrite (value : W64)
  /-- PFPERF_WRITE: an event (R405). -/
  | pfperfWrite (value : W64)
  /-- PFGOV_WRITE: an event (R405). -/
  | pfgovWrite (value : W64)
  /-- PFGOV2_WRITE: an event (R405). -/
  | pfgov2Write (value : W64)
  /-- PFWDOG_WRITE: an event (R318). -/
  | pfwdogWrite (value : W64)
  /-- PFERR_READ: an event (R393). -/
  | pferrRead
  /-- CTXROOT_WRITE: an event (R393). -/
  | ctxrootWrite (vf : Nat) (value : W64)
  /-- PFS2ROOT_WRITE: an event (R393). -/
  | pfs2rootWrite (value : W64)
  /-- PMCTL_WRITE: an event (R411). -/
  | pmctlWrite (vf : Nat) (value : W64)
  /-- PMEV_WRITE: an event (R411). -/
  | pmevWrite (vf index : Nat) (value : W64)
  /-- REGISTER_WRITE: an event (R294). -/
  | registerWrite (fn offset : Nat) (value : W64)
  /-- COPY_WORD_WRITE: an event (R280). -/
  | copyWordWrite (core entry word : Nat)
  /-- WOLYN_LINK_PORT_FAILURE: an event (R290). -/
  | wolynLinkPortFailure (port : Nat)
  /-- VF_ENABLE: an event (R16). -/
  | vfEnable (count : Nat)
  /-- SPDM_REQUEST: an event (R16). -/
  | spdmRequest
  deriving DecidableEq, Repr

end Sys2Proof
end

