-- ==== Sys2Proof/Machine/Encoding.lean ====
section
/-! DEFINITION. What the encoding of each instruction allows: field kinds, F values, lengths and literals (02 R39-R48,
R57 check 3, and the encoding tables of the chapters), and the special register numbers (03 R68). -/

namespace Sys2Proof

/-- Bits [hi:lo] of a word, as a number (R4). -/
def bits {n : Nat} (w : BitVec n) (hi lo : Nat) : Nat := (w.toNat >>> lo) % 2 ^ (hi + 1 - lo)

/-- Bit i of a word (R4). -/
def bit {n : Nat} (w : BitVec n) (i : Nat) : Bool := w.getLsbD i

/-- The L64 instruction that a short word means (R42). -/
def L32.toLOp (w : L32) : LOp :=
  { pn := false, ps := 0, f := w.f, la := 0, x := .reg 0, b := w.b.zeroExtend 10, a := w.a.zeroExtend 10, d := w.d.zeroExtend 10 }

/-- An L96 instruction. -/
def LOp.isLit (o : LOp) : Bool := match o.x with | .reg _ => false | .lit .. => true
/-- The literal, 0 in L64. -/
def LOp.imm (o : LOp) : W32 := match o.x with | .reg _ => 0 | .lit _ _ i => i
/-- X.SUB, 0 in L64. -/
def LOp.sub (o : LOp) : BitVec 8 := match o.x with | .reg _ => 0 | .lit s _ _ => s
/-- X.SLOT of an L96 instruction. -/
def LOp.slot? (o : LOp) : Option Nat := match o.x with | .reg _ => none | .lit _ s _ => some s.toNat
/-- Length in bytes. -/
def LOp.size (o : LOp) : Nat := if o.isLit then 12 else 8

/-- The B field as a register field; none when the literal stands there (R44). -/
def LOp.bField (o : LOp) : Option (BitVec 10) := if o.slot? = some 0 then none else some o.b
/-- The C field as a register field: in L96 with SLOT 0 the B field names it, with SLOT 1 the literal is it (R44). -/
def LOp.cField (o : LOp) : Option (BitVec 10) :=
  match o.x with
  | .reg c => some c
  | .lit _ s _ => if s = 0 then some o.b else if s = 1 then none else some 0

/-- A field value allowed by its kind (R46) (DEDUCED, log 31). -/
def Kind.ok : Kind → Nat → Bool
  | .unused, x => x == 0
  | .v n al, x => x % al == 0 && decide (x + n ≤ 1024)
  | .ring _ al, x => x % al == 0
  | .g n lo, x => decide (lo ≤ x) && decide (x + n ≤ 64) && (n != 2 || x % 2 == 0)
  | .triple, x => decide (1 ≤ x) && decide (x ≤ 20)
  | .s n, x => decide (x + n ≤ 128)
  | .point, x => decide (x < 24)
  | .below n, x => decide (x < n)

/-- A lane instruction obeys its encoding: check 3 of R57 (R43, R44, R46, R48). -/
def LSpec.ok (p : LSpec) (o : LOp) : Bool :=
  p.fOk && p.d.ok o.d.toNat && p.a.ok o.a.toNat
  && (match o.x with
      | .reg c => p.l64 && p.b.ok o.b.toNat && p.c.ok c.toNat
      | .lit s sl _ => p.slots.contains sl.toNat && p.litOk && (p.subFree || s == 0) && p.subOk
          && (if sl = 0 then p.c.ok o.b.toNat else p.b.ok o.b.toNat))
  && (p.ll || o.la == 0) && decide (o.ps.toNat ≤ 20) && (p.ps || o.ps == 0) && (o.ps != 0 || !o.pn)

/-- Registers an operand of width 64 or 32 takes. -/
def wide (w : Bool) : Kind := if w then .v 2 2 else .v 1 1

/-- F is the integer type IT (R76): SAT and U where the opcode gives them a meaning. -/
def itOk (f : BitVec 4) (sat u : Bool) : Bool := !bit f 1 && (sat || !bit f 3) && (u || !bit f 0)
/-- F holds W64 alone (R77). -/
def w64Only (f : BitVec 4) : Bool := (f &&& 0xB#4) == 0

/-- D, A, B of one width, literal in B. -/
def spec3 (f : Bool) (k : Kind) : LSpec := { fOk := f, d := k, a := k, b := k, c := .unused, l64 := true, slots := [0] }
/-- D, A of one width. -/
def spec2 (f : Bool) (k : Kind) : LSpec := { fOk := f, d := k, a := k, b := .unused, c := .unused, l64 := true, slots := [] }
/-- D, A, B, C of one width, literal in B or C. -/
def spec4 (f : Bool) (k : Kind) : LSpec := { fOk := f, d := k, a := k, b := k, c := k, l64 := true, slots := [0, 1] }

/-- The floating type FT names f64 (R103). -/
def isF64 (f : BitVec 4) : Bool := bits f 1 0 == 1
/-- FT names a 16-bit format. -/
def isF16 (f : BitVec 4) : Bool := bits f 1 0 ≥ 2
/-- A literal of an f16 or bf16 operand has zero upper bits (R103). -/
def ftLitOk (o : LOp) : Bool := !o.isLit || !isF16 o.f || (o.imm >>> 16 == 0)
/-- Floating D, A, B. -/
def fspec3 (o : LOp) (f : Bool) : LSpec := { spec3 f (wide (isF64 o.f)) with litOk := ftLitOk o }

/-- Registers of one window element, by F[2:0] of lds and sts (R176). -/
def spadRegs (f : BitVec 4) : Kind :=
  match bits f 2 0 with | 5 => .v 2 2 | 6 => .v 4 4 | _ => .v 1 1

/-- The special registers of R68: width in bits, by number. -/
def srWidth (n : Nat) : Option Nat :=
  match n with
  | 0x000 | 0x001 | 0x002 | 0x003 | 0x004 | 0x005 | 0x006 | 0x007 | 0x008 => some 32
  | 0x010 => some 64 | 0x012 => some 32 | 0x013 => some 64 | 0x014 => some 32 | 0x018 => some 64
  | 0x01A | 0x01B => some 32 | 0x100 => some 64 | 0x102 => some 32
  | 0x104 | 0x105 | 0x106 | 0x107 | 0x108 => some 32 | 0x10A => some 64 | 0x10C => some 32 | 0x10E => some 64
  | 0x200 | 0x201 | 0x202 | 0x204 | 0x205 | 0x206 | 0x207 | 0x208 => some 32
  | _ => none

/-- The registers marked W in R68. -/
def srWritable (n : Nat) : Bool := [0x008, 0x010, 0x012, 0x013, 0x014, 0x102].contains n

/-- The numbers the scalar stream may name (R69): every number but those of group scope, of which it has its own copies
of six. TEAMID is listed in R68 as read by ssysrd (DEDUCED, log 20). -/
def srScalar (n : Nat) : Bool :=
  (srWidth n).isSome && (decide (0x100 ≤ n) || [0x001, 0x008, 0x010, 0x012, 0x013, 0x014, 0x018].contains n)

/-- The number that sysrd or syswr names: F[1:0] and a register field (R164). -/
def srNumber (f : BitVec 4) (x : BitVec 10) : Nat := bits f 1 0 * 1024 + x.toNat

/-- A ring instruction's control word is allowed (R249, R252): operation code op for wrew, until for wcap.until. -/
def ringCwOk (cw : W32) (isWrew isUntil modeOk : Bool) (op : Nat) : Bool :=
  let w64 := bit cw 12
  let field := bits cw 3 0
  let deque := isWrew && (op == 11 || op == 12 || op == 13)
  bits cw 7 5 == 0 && (isUntil || bits cw 31 16 == 0) && (isUntil || bits cw 10 8 == 0) && bits cw 10 8 != 7
  && (modeOk || !bit cw 11) && (!w64 || decide (field < 8)) && (!isUntil || !w64)
  && (!isWrew || (decide (op ≤ 13) && (op != 10 || !w64) && (!deque || (w64 && field == 0 && !bit cw 4))))

/-- The registers of a ring operand block (R249, R253) (DEDUCED, log 31) (DEDUCED, log 38). -/
def ringOperand (w64 : Bool) (op : Nat) : Kind :=
  if op = 11 || op = 12 then .unused
  else if op = 9 then (if w64 then .ring 4 2 else .ring 2 1)
  else if w64 then .ring 2 2 else .ring 1 1

/-- A lane ring instruction: literal control word standing as C (R249). -/
def ringSpec (o : LOp) (fOk : Bool) (b : Kind) (lit : Bool) : LSpec :=
  { fOk := fOk, d := if bit o.imm 12 then .ring 3 2 else .ring 2 1, a := .v 1 1, b := b, c := .below 1024, l64 := false, slots := [1], litOk := lit, ll := true }

/-- A record instruction (R184): L96, SLOT 2, SUB is the record index. -/
def recSpec (f : Bool) (d b : Kind) : LSpec :=
  { fOk := f, d := d, a := .v 1 1, b := b, c := .unused, l64 := false, slots := [2], ll := true, subFree := true }

/-- The registers of an element of register type T, F[2:0] of ldb and stb (R185). -/
def recRegs (f : BitVec 4) : Kind := wide (bits f 2 0 == 1 || bits f 2 0 == 4)

/-- A sampler word without reserved values (R354). -/
def samplerOk (w : W32) : Bool :=
  bits w 31 29 == 0 && !bit w 12 && !bit w 9 && !bit w 6 && bits w 3 2 != 3

/-- A selector of ctrrd (R410). -/
def ctrSelOk (w : W32) : Bool :=
  bits w 31 8 == 0 && (let k := bits w 7 4; let i := bits w 3 0; (k == 0 && decide (i ≤ 7)) || (decide (1 ≤ k ∧ k ≤ 4) && decide (i ≤ 3)))

/-- A lane instruction's short form as the long instruction it means, everything else as it stands (R42). -/
def Instr.long : Instr → Instr
  | .addL32 w => .add w.toLOp
  | .subL32 w => .sub w.toLOp
  | .mulL32 w => .mul w.toLOp
  | .mulhiL32 w => .mulhi w.toLOp
  | .minL32 w => .min w.toLOp
  | .maxL32 w => .max w.toLOp
  | .absL32 w => .abs w.toLOp
  | .negL32 w => .neg w.toLOp
  | .andL32 w => .and w.toLOp
  | .orL32 w => .or w.toLOp
  | .xorL32 w => .xor w.toLOp
  | .notL32 w => .not w.toLOp
  | .andnL32 w => .andn w.toLOp
  | .shlL32 w => .shl w.toLOp
  | .shrL32 w => .shr w.toLOp
  | .sraL32 w => .sra w.toLOp
  | .rotlL32 w => .rotl w.toLOp
  | .bfeL32 w => .bfe w.toLOp
  | .popcL32 w => .popc w.toLOp
  | .clzL32 w => .clz w.toLOp
  | .ctzL32 w => .ctz w.toLOp
  | .brevL32 w => .brev w.toLOp
  | .movL32 w => .mov w.toLOp
  | .cvtiL32 w => .cvti w.toLOp
  | .paddL32 w => .padd w.toLOp
  | .psubL32 w => .psub w.toLOp
  | .pmulL32 w => .pmul w.toLOp
  | .pminL32 w => .pmin w.toLOp
  | .pmaxL32 w => .pmax w.toLOp
  | .pabsL32 w => .pabs w.toLOp
  | .pshlL32 w => .pshl w.toLOp
  | .pshrL32 w => .pshr w.toLOp
  | .psraL32 w => .psra w.toLOp
  | .pcmpL32 w => .pcmp w.toLOp
  | .ppackL32 w => .ppack w.toLOp
  | .punpkL32 w => .punpk w.toLOp
  | .faddL32 w => .fadd w.toLOp
  | .fsubL32 w => .fsub w.toLOp
  | .fmulL32 w => .fmul w.toLOp
  | .fminL32 w => .fmin w.toLOp
  | .fmaxL32 w => .fmax w.toLOp
  | .fsgnL32 w => .fsgn w.toLOp
  | .fclassL32 w => .fclass w.toLOp
  | .frndL32 w => .frnd w.toLOp
  | .fexpoL32 w => .fexpo w.toLOp
  | .cvtL32 w => .cvt w.toLOp
  | .cvtfiL32 w => .cvtfi w.toLOp
  | .cvtifL32 w => .cvtif w.toLOp
  | .cvtxL32 w => .cvtx w.toLOp
  | i => i

/-- A short form accepts G = 1 (R77), and which F values (R82: mov copies g to g alone). -/
def shortGOk : Instr → Bool
  | .movL32 w => !w.g || w.f == 0 || w.f == 4
  | .mulhiL32 w | .absL32 w | .negL32 w | .bfeL32 w | .brevL32 w | .cvtiL32 w | .paddL32 w | .psubL32 w
  | .pmulL32 w | .pminL32 w | .pmaxL32 w | .pabsL32 w | .pshlL32 w | .pshrL32 w | .psraL32 w | .pcmpL32 w
  | .ppackL32 w | .punpkL32 w | .faddL32 w | .fsubL32 w | .fmulL32 w | .fminL32 w | .fmaxL32 w | .fsgnL32 w
  | .fclassL32 w | .frndL32 w | .fexpoL32 w | .cvtL32 w | .cvtfiL32 w | .cvtifL32 w | .cvtxL32 w => !w.g
  | _ => true

/-- The g registers a short form with G = 1 names must be even where they hold pairs (R46). -/
def shortPairsOk : Instr → Bool
  | .addL32 w => !w.g || !bit w.f 2 || (w.d.toNat % 2 == 0 && w.a.toNat % 2 == 0 && w.b.toNat % 2 == 0)
  | .subL32 w => !w.g || !bit w.f 2 || (w.d.toNat % 2 == 0 && w.a.toNat % 2 == 0 && w.b.toNat % 2 == 0)
  | .mulL32 w => !w.g || !bit w.f 2 || (w.d.toNat % 2 == 0 && w.a.toNat % 2 == 0 && w.b.toNat % 2 == 0)
  | .minL32 w => !w.g || !bit w.f 2 || (w.d.toNat % 2 == 0 && w.a.toNat % 2 == 0 && w.b.toNat % 2 == 0)
  | .maxL32 w => !w.g || !bit w.f 2 || (w.d.toNat % 2 == 0 && w.a.toNat % 2 == 0 && w.b.toNat % 2 == 0)
  | .andL32 w => !w.g || !bit w.f 2 || (w.d.toNat % 2 == 0 && w.a.toNat % 2 == 0 && w.b.toNat % 2 == 0)
  | .orL32 w => !w.g || !bit w.f 2 || (w.d.toNat % 2 == 0 && w.a.toNat % 2 == 0 && w.b.toNat % 2 == 0)
  | .xorL32 w => !w.g || !bit w.f 2 || (w.d.toNat % 2 == 0 && w.a.toNat % 2 == 0 && w.b.toNat % 2 == 0)
  | .andnL32 w => !w.g || !bit w.f 2 || (w.d.toNat % 2 == 0 && w.a.toNat % 2 == 0 && w.b.toNat % 2 == 0)
  | .notL32 w => !w.g || !bit w.f 2 || (w.d.toNat % 2 == 0 && w.a.toNat % 2 == 0)
  | .shlL32 w => !w.g || !bit w.f 2 || (w.d.toNat % 2 == 0 && w.a.toNat % 2 == 0)
  | .shrL32 w => !w.g || !bit w.f 2 || (w.d.toNat % 2 == 0 && w.a.toNat % 2 == 0)
  | .sraL32 w => !w.g || !bit w.f 2 || (w.d.toNat % 2 == 0 && w.a.toNat % 2 == 0)
  | .rotlL32 w => !w.g || !bit w.f 2 || (w.d.toNat % 2 == 0 && w.a.toNat % 2 == 0)
  | .popcL32 w => !w.g || !bit w.f 2 || (w.a.toNat % 2 == 0)
  | .clzL32 w => !w.g || !bit w.f 2 || (w.a.toNat % 2 == 0)
  | .ctzL32 w => !w.g || !bit w.f 2 || (w.a.toNat % 2 == 0)
  | .movL32 w => !w.g || !bit w.f 2 || (w.d.toNat % 2 == 0 && w.b.toNat % 2 == 0)
  | _ => true

/-- What the encoding of each lane instruction allows, from the encoding tables of the chapters; none for an instruction
that is no lane instruction in its long form (DEDUCED, log 31). fsgn.abs and fsgn.neg have no L96 form, since no operand of theirs
is left to a literal. -/
def laneSpec : Instr → Option LSpec
  -- 03 R77
  | .add o | .sub o | .mul o | .div o => some (spec3 (itOk o.f true true) (wide (bit o.f 2)))
  | .mulhi o | .rem o | .min o | .max o => some (spec3 (itOk o.f false true) (wide (bit o.f 2)))
  | .mad o => some (spec4 (itOk o.f true true) (wide (bit o.f 2)))
  | .abs o | .neg o => some (spec2 (itOk o.f true false) (wide (bit o.f 2)))
  | .and o | .or o | .xor o | .andn o => some (spec3 (w64Only o.f) (wide (bit o.f 2)))
  | .not o | .brev o => some (spec2 (w64Only o.f) (wide (bit o.f 2)))
  | .shl o | .shr o | .sra o | .rotl o => some { spec3 (w64Only o.f) (wide (bit o.f 2)) with b := .v 1 1 }
  | .bfe o => some { spec3 ((o.f &&& 0xA#4) == 0) (wide (bit o.f 2)) with b := .v 1 1 }
  | .bfi o => some { spec4 (w64Only o.f) (wide (bit o.f 2)) with c := .v 1 1 }
  | .popc o | .clz o | .ctz o => some { spec2 (w64Only o.f) (wide (bit o.f 2)) with d := .v 1 1 }
  | .cmp o => some { spec3 (decide (bits o.f 2 0 ≤ 5)) (wide (bit o.f 3)) with d := .triple }
  | .sel o => some { spec3 (w64Only o.f) (wide (bit o.f 2)) with c := .triple }
  | .mov o =>
    let b : Kind := if bits o.f 1 0 = 1 then .g (if bit o.f 2 then 2 else 1) 0 else if bits o.f 1 0 = 2 then .s 1 else wide (bit o.f 2)
    some { spec3 (!bit o.f 3 && bits o.f 1 0 != 3) (wide (bit o.f 2)) with a := .unused, b := b }
  | .cvti o => some { spec2 (o.f != 15) (.v 1 1) with d := wide (o.f == 4 || o.f == 5), a := wide (o.f == 6 || o.f == 7 || o.f == 8) }
  | .lea _ => some { spec3 true (.v 2 2) with b := .v 1 1 }
  | .perm o => some (spec4 (o.f == 0) (.v 1 1))
  -- 03 R86
  | .padd o | .psub o | .pmul o | .ppack o => some (spec3 (!bit o.f 2) (.v 1 1))
  | .pmin o | .pmax o => some (spec3 (bits o.f 3 2 == 0) (.v 1 1))
  | .pabs o => some (spec2 (!bit o.f 0 && !bit o.f 2) (.v 1 1))
  | .pshl o | .pshr o | .psra o => some (spec3 ((o.f &&& 0xD#4) == 0) (.v 1 1))
  | .pcmp _ => some (spec3 true (.v 1 1))
  | .pdot o => some (spec4 (!bit o.f 2) (.v 1 1))
  | .punpk o => some (spec2 (!bit o.f 3) (.v 1 1))
  | .sad o => some (spec4 (decide (o.f.toNat ≤ 1)) (.v 1 1))
  -- 03 R71
  | .vgive _ | .vclaim _ => some { spec2 true .unused with ps := false }
  | .vclaimTry _ => some { spec2 true .unused with d := .triple, ps := false }
  -- 04 R104
  | .fadd o | .fsub o | .fmul o => some (fspec3 o true)
  | .fma o => some { spec4 true (wide (isF64 o.f)) with litOk := ftLitOk o }
  | .fmin o | .fmax o => some (fspec3 o (!bit o.f 3))
  | .fsgn o => some (if bit o.f 3 then fspec3 o true else spec2 true (wide (isF64 o.f)))
  | .fcmp o => some { fspec3 o true with d := .triple }
  | .fclass o | .fexpo o => some { spec2 (bits o.f 3 2 == 0) (wide (isF64 o.f)) with d := .v 1 1 }
  | .frnd o => some (spec2 true (wide (isF64 o.f)))
  | .fscale o => some { spec3 true (wide (isF64 o.f)) with b := .v 1 1 }
  | .fdot2 o => some (spec4 (isF16 o.f) (.v 1 1))
  | .fdiv o => some { fspec3 o true with ll := true }
  | .fsqrt o | .frcp o => some { spec2 true (wide (isF64 o.f)) with ll := true }
  | .frsq o | .fexp2 o | .flog2 o | .fsin o | .fcos o | .ftanh o =>
    some { spec2 (!isF64 o.f && bits o.f 3 2 == 0) (.v 1 1) with ll := true }
  | .cvt o => some { spec2 (bits o.f 1 0 != bits o.f 3 2) (wide (bits o.f 3 2 == 1)) with d := wide (isF64 o.f) }
  | .cvtfi o => some { spec2 true (wide (isF64 o.f)) with d := wide (bit o.f 3) }
  | .cvtif o => some { spec2 true (wide (bit o.f 3)) with d := wide (isF64 o.f) }
  | .cvtx o => some (spec2 (if bit o.f 3 then bits o.f 1 0 != 3 else (bits o.f 1 0 ≤ 1 || !bit o.f 2)) (.v 1 1))
  | .cvtq o => some { spec2 (bit o.f 3 || bits o.f 1 0 ≤ 1) (.v 1 1) with b := .s 1, ll := true }
  | .cvtn o => some { spec2 (bits o.f 1 0 != 3 && (bits o.f 1 0 != 2 || bit o.f 2)) (.v 1 1) with ll := true }
  | .amxcom o => some { spec2 (o.f == 0) (.v 1 1) with a := .unused, b := .s 1, ll := true }
  | .wfup o => some { spec2 (bits o.f 1 0 ≤ 1) (wide (isF64 o.f)) with d := if isF64 o.f then .v 6 2 else .v 3 1 }
  | .wfmerge o => some (spec2 (bits o.f 1 0 ≤ 1) (if isF64 o.f then .v 6 2 else .v 3 1))
  -- 05 R127, R137, R138, R142, R145-R149
  | .bra o => some { fOk := o.f == 0, d := if o.ps = 0 then .unused else .below 1024, a := if o.ps = 0 then .unused else .below 64, b := .unused, c := .unused, l64 := false, slots := [2] }
  | .join o => some { fOk := o.f == 0, d := .below 1024, a := .below 64, b := .unused, c := .unused, l64 := true, slots := [], ps := false }
  | .joint o => some { fOk := o.f == 0, d := .below 1024, a := .below 64, b := .unused, c := .unused, l64 := false, slots := [0], litOk := decide (1 ≤ o.imm.toNat ∧ o.imm.toNat < 65536), ps := false }
  | .call o => some { fOk := o.f == 0, d := .v 2 2, a := .unused, b := .unused, c := .unused, l64 := false, slots := [2], ps := false }
  | .ret o => some { spec2 (o.f == 0) (.v 2 2) with d := .unused, ps := false }
  | .exit o | .allon o | .alloff o => some { spec2 (o.f == 0) .unused with ps := false }
  | .dqtake o => some { spec2 (decide (o.f.toNat ≤ 1)) .unused with d := if o.f = 0 then .g 2 4 else .v 2 2, ps := false }
  | .vote o => some (spec2 (bits o.f 3 2 == 0) .triple)
  | .shfl o => some { spec3 (!bit o.f 3) (wide (bit o.f 2)) with b := .v 1 1 }
  | .qswap o => some (spec2 (bits o.f 3 2 == 0 || bits o.f 1 0 == 0) (.v 1 1))
  | .qdiff _ => some (spec2 true (.v 1 1))
  | .scan o | .redc o => some (spec2 (decide (o.f.toNat < 12)) (.v 1 1))
  -- 07 R176, R184, R199, R205
  | .lds o => some { fOk := bits o.f 2 0 != 7, d := spadRegs o.f, a := if bit o.f 3 then .s 1 else .v 1 1, b := .unused, c := .unused, l64 := true, slots := [2], ll := true }
  | .sts o => some { fOk := bits o.f 2 0 != 7 && bits o.f 2 0 != 1 && bits o.f 2 0 != 3, d := .unused, a := if bit o.f 3 then .s 1 else .v 1 1, b := spadRegs o.f, c := .unused, l64 := true, slots := [2], ll := true }
  | .ldb o => some (recSpec (decide (o.f.toNat < 7)) (recRegs o.f) .unused)
  | .stb o => some (recSpec (bits o.f 2 0 != 7) .unused (recRegs o.f))
  | .pfb o => some (recSpec (decide (o.f.toNat ≤ 1)) .unused .unused)
  | .atoms o => some { recSpec true (wide (bit o.f 3)) (if bits o.f 2 0 = 7 then (if bit o.f 3 then .v 4 4 else .v 2 2) else wide (bit o.f 3)) with subOk := decide (o.sub.toNat ≤ 2) }
  | .atom o => some (recSpec true (wide (bit o.f 3)) (if bits o.f 2 0 = 7 then (if bit o.f 3 then .v 4 4 else .v 2 2) else wide (bit o.f 3)))
  | .gred o => some (recSpec (decide (bits o.f 2 0 ≤ 5)) .unused (wide (bit o.f 3)))
  | .patom o => some { recSpec (o.f == 0) (.v 4 4) .unused with slots := [0], litOk := decide (o.imm.toNat < 64) }
  -- 08 R229
  | .accRd o =>
    let lay := match o.x with | .reg c => c.toNat | .lit .. => 3
    some { fOk := lay != 0 || o.f == 0, d := wide (lay != 0 && isF64 o.f), a := .v 1 1, b := if lay = 2 then (if o.b = 0 then .unused else if o.b = 8 then .below 9 else .unused) else if lay = 1 then .below 14 else .below 16, c := .below 3, l64 := true, slots := [], ll := true }
  -- 09 R249
  | .board o => some (ringSpec o (o.f == 0) (ringOperand (bit o.imm 12) 0) (ringCwOk o.imm false false false 0))
  | .alight o => some (ringSpec o (o.f == 0) .unused (ringCwOk o.imm false false true 0))
  | .wcap o => some (ringSpec o (o.f == 0) .unused (ringCwOk o.imm false false false 0))
  | .wcapUntil o => some (ringSpec o (o.f == 0) (.ring 1 1) (bit o.imm 11 && ringCwOk o.imm false true true 0))
  | .wrew o => some (ringSpec o true (ringOperand (bit o.imm 12) o.f.toNat) (ringCwOk o.imm true false false o.f.toNat))
  -- 10 R274
  | .fence o => some { spec2 (!bit o.f 3 && bits o.f 2 0 != 7 && o.d != 0) .unused with d := .below 4, ps := false }
  -- 12 R328
  | .emitv o => some { spec2 (o.f == 0) (.v 4 4) with d := .unused, b := .v 1 1, c := .v 1 1, ll := true }
  | .emitp o => some { spec2 (o.f == 0) (.v 1 1) with d := .unused, b := .v 1 1, c := .v 1 1, ll := true }
  | .emitend o => some { spec2 (o.f == 0) (.v 2 2) with d := .v 1 1, b := .v 1 1, ll := true }
  | .vbld o => some { fOk := o.f == 0, d := .v 3 2, a := .v 1 1, b := .unused, c := .unused, l64 := false, slots := [0], litOk := decide (o.imm.toNat < 8), ll := true, subFree := true }
  | .vbary o => some { fOk := bits o.f 3 2 == 0, d := .v 2 2, a := .v 12 4, b := .v 1 1, c := .s 1, l64 := true, slots := [], ll := true }
  | .vinterp o => some { fOk := bits o.f 1 0 == 0, d := .v 1 1, a := .v 2 2, b := .v 3 1, c := .unused, l64 := true, slots := [] }
  | .cover o => some { fOk := decide (o.f.toNat ≤ 1), d := .unused, a := .v 1 1, b := .v 1 1, c := .unused, l64 := true, slots := [] }
  | .trace o => some { fOk := decide (o.f.toNat ≤ 1), d := .v 8 8, a := .v 8 8, b := .s 3, c := .v 1 1, l64 := true, slots := [], ll := true }
  | .hitacc o => some { fOk := decide (o.f.toNat ≤ 1), d := .v 8 8, a := .v 1 1, b := .v 1 1, c := .unused, l64 := true, slots := [] }
  | .hitign o => some (spec2 (o.f == 0) .unused)
  | .tsamp o => some { fOk := bits o.f 1 0 != 3 && bits o.f 3 2 != 3, d := .v 4 1, a := .v 3 1, b := .v 1 1, c := .below 1024, l64 := false, slots := [1], litOk := samplerOk o.imm, ll := true, subFree := true }
  | .tgath o => some { fOk := bits o.f 3 2 != 3, d := .v 4 1, a := .v 3 1, b := .unused, c := .below 1024, l64 := false, slots := [1], litOk := samplerOk o.imm, ll := true, subFree := true }
  | .tload o => some { fOk := bits o.f 1 0 == 0 && bits o.f 3 2 != 3, d := .v 4 1, a := .v 3 1, b := .unused, c := .unused, l64 := false, slots := [0], litOk := decide (o.imm.toNat ≤ 14), ll := true, subFree := true }
  | .tquery o => some { fOk := o.f == 0, d := .v 4 1, a := .unused, b := .unused, c := .unused, l64 := false, slots := [0], litOk := decide (o.imm.toNat ≤ 14), ll := true, subFree := true }
  -- 15 R396, R407, R410
  | .rdvArr o => some { fOk := decide (o.f.toNat ≤ 1), d := if bit o.f 0 then .g 1 3 else .unused, a := .point, b := .unused, c := .unused, l64 := true, slots := [0], litOk := decide (1 ≤ o.imm.toNat ∧ o.imm.toNat < 65536), ps := false }
  | .rdvWait o => some { fOk := o.f == 0, d := .unused, a := .point, b := .g 1 0, c := .unused, l64 := true, slots := [], ps := false }
  | .rdvDrop o => some { fOk := decide (o.f.toNat ≤ 1), d := if bit o.f 0 then .g 1 3 else .unused, a := .point, b := .unused, c := .unused, l64 := true, slots := [], ps := false }
  | .setperf o => some { fOk := o.f == 0, d := .unused, a := if o.isLit then .unused else .v 1 1, b := .unused, c := .unused, l64 := true, slots := [0], litOk := decide (o.imm.toNat < 16) }
  | .ctrrd o => some { fOk := o.f == 0, d := .v 2 2, a := .unused, b := .unused, c := .unused, l64 := false, slots := [0], litOk := ctrSelOk o.imm, ll := true }
  -- 06 R164
  | .sysrd o =>
    let n := srNumber o.f o.a
    let two := srWidth n == some 64
    some { fOk := !bit o.f 2 && (srWidth n).isSome && (n != 7 || !bit o.f 3), a := .below 1024, d := if bit o.f 3 then .g (if two then 2 else 1) 3 else wide two, b := .unused, c := .unused, l64 := true, slots := [] }
  | .syswr o =>
    let n := srNumber o.f o.d
    let two := srWidth n == some 64
    some { fOk := !bit o.f 2 && srWritable n, d := .below 1024, a := if o.isLit then .unused else if bit o.f 3 then .g (if two then 2 else 1) 0 else wide two, b := .unused, c := .unused, l64 := true, slots := [0] }
  | .trap o | .brk o => some { spec2 (o.f == 0) .unused with slots := [0] }
  | .eret o | .nop o => some { spec2 (o.f == 0) .unused with ps := false }
  | _ => none

/-- The S32 fields of a scalar or sequencer instruction, whatever its length. -/
def S32.regsBelow (w : S32) (n : Nat) : Bool := decide (w.d.toNat < n ∧ w.a.toNat < n ∧ w.b.toNat < n)

/-- D, A and F as a scalar row of three operands allows, S32 (R89). -/
def sAluOk (w : S32) (fMax : Nat) : Bool := decide (w.f.toNat ≤ fMax)
/-- The same in S64: the literal replaces B, which must be 0 (R47). -/
def sLitOk (w : S64) (fMax : Nat) : Bool := decide (w.w.f.toNat ≤ fMax) && w.w.b == 0

/-- A completion or feed point field: 0-23, or 31 for none (R216, R231, R278). -/
def pointFieldOk (p : Nat) : Bool := decide (p < 24) || p == 31

/-- The extension words of a matrix command (R216): reserved bits and point fields. -/
def matrixOk (o : S96) (tagOk : Bool) : Bool :=
  o.w.f == 0 && bits o.e2 31 26 == 0 && tagOk && pointFieldOk (bits o.e2 13 9) && pointFieldOk (bits o.e2 8 4)

/-- E1 of macc.ld, macc.st and macc.rb (R231). -/
def maccOk (o : S64) : Bool :=
  o.w.f == 0 && o.w.d == 0 && bits o.e1 31 23 == 0 && pointFieldOk (bits o.e1 21 17) && bits o.e1 5 4 != 3

/-- The words of a scalar ring instruction (R251). -/
def sRingOk (o : S96) (isWrew isUntil modeOk scOk needsB : Bool) : Bool :=
  let op := bits o.e1 31 28
  let cw : W32 := (o.e2 &&& 0xFFFF0000#32) ||| (o.e1 &&& 0xFFFF#32)
  o.w.f == 0 && bits o.e1 27 16 == 0 && (isWrew || op == 0) && !bit o.e1 13 && !bit o.e1 4
  && ringCwOk cw isWrew isUntil modeOk op && bits o.e2 15 14 == 0 && (scOk || bits o.e2 13 7 == 0)
  && (needsB || o.w.b == 0)

/-- The words of xcopy (R278). -/
def xcopyOk (o : S96) : Bool :=
  let rowb := bits o.e2 19 0 + 1
  let stride := bits o.e1 11 0
  o.w.f != 3 && (o.w.f == 0) == (o.w.d == 0) && pointFieldOk (bits o.e1 27 23)
  && (!bit o.e1 22 || bits o.e1 29 28 == 1) && (bit o.e1 22 || bits o.e1 21 12 == 0)
  && (stride == 0 || decide (rowb ≤ 16 * stride))
  && rowb % (match o.w.f.toNat with | 1 => 32 | 2 => 16 | _ => 4) == 0

/-- The words of xcoll (R288). -/
def xcollOk (o : S96) : Bool :=
  decide (o.w.f.toNat ≤ 1) && decide (bits o.e1 31 28 ≤ 3) && bits o.e1 27 26 != 3
  && (decide (bits o.e1 31 28 ≤ 1) || bits o.e1 27 26 == 0)
  && [4, 5, 7, 8, 9].contains (bits o.e1 25 21) && pointFieldOk (bits o.e1 20 16)
  && (bit o.e1 15 || bits o.e1 14 5 == 0) && bits o.e1 4 0 == 0 && o.e2 != 0

/-- What the encoding of each scalar and sequencer instruction allows (check 3 of R57; R364 for the sequencer). -/
def scalarOk : Instr → Bool
  -- 03 R89
  | .saddS32 w | .ssubS32 w | .smulS32 w => sAluOk w 2
  | .saddS64 w | .ssubS64 w | .smulS64 w => sLitOk w 2
  | .smulhiS32 w | .sdivS32 w | .sremS32 w | .sminS32 w | .smaxS32 w | .sbfeS32 w | .scmpS32 w => sAluOk w 1
  | .smulhiS64 w | .sdivS64 w | .sremS64 w | .sminS64 w | .smaxS64 w | .sbfeS64 w | .scmpS64 w => sLitOk w 1
  | .sandS32 w | .sorS32 w | .sxorS32 w | .sandnS32 w | .sshlS32 w | .sshrS32 w | .ssraS32 w | .sbfiS32 w | .sselS32 w => sAluOk w 0
  | .sandS64 w | .sorS64 w | .sxorS64 w | .sandnS64 w | .sshlS64 w | .sshrS64 w | .ssraS64 w | .sbfiS64 w | .sselS64 w => sLitOk w 0
  | .spopc w | .sclz w | .sctz w => w.f == 0 && w.b == 0
  | .smovS32 w => w.f == 0 && w.a == 0
  | .smovS64 w => sLitOk w 0 && w.w.a == 0
  | .sli w => w.w.f == 0 && w.w.a == 0 && w.w.b == 0
  | .sleaS32 _ => true
  | .sleaS64 w => w.w.b == 0
  -- 05 R141, R139
  | .sbr w => w.w.d == 0 && w.w.b == 0
  | .sjmpS32 w => w.f == 0 && w.d == 0 && w.b == 0
  | .sjmpS64 w => w.w.f == 0 && w.w.d == 0 && w.w.a == 0 && w.w.b == 0
  | .scallS32 w => w.f == 0 && w.b == 0
  | .scallS64 w => w.w.f == 0 && w.w.a == 0 && w.w.b == 0
  | .sret w | .sdqpush w => w.f == 0 && w.d == 0 && w.b == 0
  | .sexit w => w.f == 0 && w.d == 0 && w.a == 0 && w.b == 0
  -- 07 R178, R199
  | .sldsS32 w | .sldgS32 w => w.b == 0
  | .sldsS64 w | .sldgS64 w => w.w.b == 0
  | .sstsS32 w | .sstgS32 w => w.d == 0
  | .sstsS64 w | .sstgS64 w => w.w.d == 0
  | .satom o => decide (o.w.f.toNat ≤ 1) && bits o.e2 5 4 != 3 && bits o.e2 31 6 == 0
  -- 08 R216, R231
  | .mmul o => matrixOk o (bits o.e2 25 18 == 0)
  | .mmulp o => matrixOk o true
  | .mmv o => matrixOk o (bits o.e2 25 21 == 0)
  | .maccLd o | .maccSt o | .maccRb o => maccOk o
  | .maccClr o => o.w.f == 0 && o.w.d == 0 && o.w.a == 0 && o.w.b == 0 && bits o.e1 31 8 == 0
  -- 09 R251
  | .sboard o => sRingOk o false false true (bit o.e1 11) true
  | .salight o => sRingOk o false false true false false
  | .swcap o => sRingOk o false (bit o.e1 11) (bit o.e1 11) false (bit o.e1 11)
  | .swrew o => sRingOk o true false false (bits o.e1 31 28 == 9) (bits o.e1 31 28 != 11 && bits o.e1 31 28 != 12)
  -- 10 R278, R283, R286, R288, R275
  | .xcopy o => xcopyOk o
  | .xpub w => decide (w.f.toNat ≤ 1) && w.b == 0
  | .xdrain w => w.d == 0 && w.a == 0 && w.b == 0
  | .xcoll o => xcollOk o
  | .sfence w => w.f != 0 && decide (w.a.toNat ≤ 6) && w.d == 0 && w.b == 0
  -- 11 R307-R312
  | .slaunch w => decide (w.f.toNat ≤ 1)
  | .sfsnew w => w.f == 0 && w.b == 0
  | .sfswait w => w.f != 3 && w.b == 0
  | .sqfence w => decide (w.f.toNat ≤ 1) && (w.f == 1 || w.b == 0)
  -- 15 R398, R407
  | .srdvInit w => w.f == 0 && w.d == 0 && decide (w.a.toNat < 24)
  | .srdvArrS32 w => decide (w.f.toNat ≤ 1) && w.b == 0 && decide (w.a.toNat < 24)
  | .srdvArrS64 o => o.w.f == 0 && o.w.b == 0 && decide (o.w.a.toNat < 24) && decide (1 ≤ o.e1.toNat ∧ o.e1.toNat < 65536)
  | .srdvWait w => w.f == 0 && w.d == 0 && decide (w.a.toNat < 24)
  | .ssetperf w => w.f == 0 && w.d == 0 && w.b == 0
  -- 06 R166
  | .ssysrd o => o.w.f == 0 && o.w.a == 0 && o.w.b == 0 && bits o.e1 31 12 == 0 && srScalar (bits o.e1 11 0)
  | .ssyswr o => o.w.f == 0 && o.w.d == 0 && o.w.b == 0 && bits o.e1 31 12 == 0 && srScalar (bits o.e1 11 0) && srWritable (bits o.e1 11 0)
  | .strapS32 w => decide (w.f.toNat ≤ 1) && w.d == 0 && w.a == 0 && w.b == 0
  | .strapS64 o => decide (o.w.f.toNat ≤ 1) && o.w.d == 0 && o.w.a == 0 && o.w.b == 0
  | .seret w => w.f == 0 && w.d == 0 && w.a == 0 && w.b == 0
  -- 13 R365: registers below 32 (R364)
  | .lgen w => w.regsBelow 32 && !bit w.f 1 && w.a == 0 && w.b == 0
  | .lgenWait w => w.regsBelow 32 && bit w.f 1 && w.b == 0
  | .llatch w => w.regsBelow 32 && !bit w.f 1 && w.a == 0 && w.b == 0
  | .lfetch o => o.w.regsBelow 32 && !bit o.w.f 1 && o.w.d == 0 && bits o.e1 31 6 == 0
  | .lme o => o.w.regsBelow 32 && o.w.f == 0 && o.w.d == 0 && o.w.b == 0 && bits o.e1 31 8 == 0
  | .lwarp o => o.w.regsBelow 32 && !bit o.w.f 1 && o.w.d == 0 && bits o.e1 15 9 == 0 && bits o.e1 31 24 == 0 && decide (bits o.e1 23 16 < 64)
  | .lnet w | .lput w => w.regsBelow 32 && w.f == 0 && w.d == 0 && w.b == 0
  | .lpose w | .ltime w => w.regsBelow 32 && w.f == 0 && w.a == 0 && w.b == 0
  | .lend w => w.f == 0 && w.d == 0 && w.a == 0 && w.b == 0
  | _ => false

end Sys2Proof
end

