-- ==== Sys2Proof/WellFormed.lean ====
section
/-! DEFINITION. Well-formed instructions: those whose fields the encoding tables allow (check 3 of R57). Events have no
encoding and are well-formed as they stand. -/

namespace Sys2Proof

/-- The L64 or L96 fields of a lane instruction in its long form. -/
def Instr.lop? : Instr → Option LOp
  | .add o | .sub o | .mul o | .mulhi o | .mad o | .div o | .rem o | .min o | .max o
  | .abs o | .neg o | .and o | .or o | .xor o | .not o | .andn o | .shl o | .shr o
  | .sra o | .rotl o | .bfe o | .bfi o | .popc o | .clz o | .ctz o | .brev o | .cmp o
  | .sel o | .mov o | .cvti o | .lea o | .perm o | .padd o | .psub o | .pmul o | .pmin o
  | .pmax o | .pabs o | .pshl o | .pshr o | .psra o | .pcmp o | .pdot o | .ppack o | .punpk o
  | .sad o | .vgive o | .vclaim o | .vclaimTry o | .fadd o | .fsub o | .fmul o | .fma o | .fmin o
  | .fmax o | .fsgn o | .fcmp o | .fclass o | .frnd o | .fscale o | .fexpo o | .fdot2 o | .fdiv o
  | .fsqrt o | .frcp o | .frsq o | .fexp2 o | .flog2 o | .fsin o | .fcos o | .ftanh o | .cvt o
  | .cvtfi o | .cvtif o | .cvtx o | .cvtq o | .cvtn o | .amxcom o | .wfup o | .wfmerge o | .bra o
  | .join o | .joint o | .call o | .ret o | .exit o | .dqtake o | .allon o | .alloff o | .vote o
  | .shfl o | .qswap o | .qdiff o | .scan o | .redc o | .lds o | .sts o | .ldb o | .stb o
  | .atoms o | .atom o | .gred o | .patom o | .pfb o | .accRd o | .board o | .alight o | .wcap o
  | .wcapUntil o | .wrew o | .fence o | .emitv o | .emitp o | .emitend o | .vbld o | .vbary o | .vinterp o
  | .cover o | .trace o | .hitacc o | .hitign o | .tsamp o | .tgath o | .tload o | .tquery o | .rdvArr o
  | .rdvWait o | .rdvDrop o | .setperf o | .ctrrd o | .sysrd o | .syswr o | .trap o | .brk o | .eret o
  | .nop o => some o
  | _ => none

/-- The L32 fields of a short form. -/
def Instr.l32? : Instr → Option L32
  | .addL32 w | .subL32 w | .mulL32 w | .mulhiL32 w | .minL32 w | .maxL32 w | .absL32 w | .negL32 w | .andL32 w
  | .orL32 w | .xorL32 w | .notL32 w | .andnL32 w | .shlL32 w | .shrL32 w | .sraL32 w | .rotlL32 w | .bfeL32 w
  | .popcL32 w | .clzL32 w | .ctzL32 w | .brevL32 w | .movL32 w | .cvtiL32 w | .paddL32 w | .psubL32 w | .pmulL32 w
  | .pminL32 w | .pmaxL32 w | .pabsL32 w | .pshlL32 w | .pshrL32 w | .psraL32 w | .pcmpL32 w | .ppackL32 w | .punpkL32 w
  | .faddL32 w | .fsubL32 w | .fmulL32 w | .fminL32 w | .fmaxL32 w | .fsgnL32 w | .fclassL32 w | .frndL32 w | .fexpoL32 w
  | .cvtL32 w | .cvtfiL32 w | .cvtifL32 w | .cvtxL32 w => some w
  | _ => none

/-- The D, A, B and F fields of a scalar or sequencer instruction. -/
def Instr.s32? : Instr → Option S32
  | .saddS32 w | .ssubS32 w | .smulS32 w | .smulhiS32 w | .sdivS32 w | .sremS32 w | .sminS32 w | .smaxS32 w | .sandS32 w
  | .sorS32 w | .sxorS32 w | .sandnS32 w | .sshlS32 w | .sshrS32 w | .ssraS32 w | .sbfeS32 w | .sbfiS32 w | .spopc w
  | .sclz w | .sctz w | .smovS32 w | .scmpS32 w | .sselS32 w | .sleaS32 w | .sjmpS32 w | .scallS32 w | .sret w
  | .sexit w | .sdqpush w | .sldsS32 w | .sstsS32 w | .sldgS32 w | .sstgS32 w | .xpub w | .xdrain w | .sfence w
  | .slaunch w | .sfsnew w | .sfswait w | .sqfence w | .srdvInit w | .srdvArrS32 w | .srdvWait w | .ssetperf w | .strapS32 w
  | .seret w | .lgen w | .lgenWait w | .llatch w | .lnet w | .lput w | .lpose w | .ltime w | .lend w => some w
  | .saddS64 o | .ssubS64 o | .smulS64 o | .smulhiS64 o | .sdivS64 o | .sremS64 o | .sminS64 o | .smaxS64 o | .sandS64 o
  | .sorS64 o | .sxorS64 o | .sandnS64 o | .sshlS64 o | .sshrS64 o | .ssraS64 o | .sbfeS64 o | .sbfiS64 o | .smovS64 o
  | .scmpS64 o | .sselS64 o | .sleaS64 o | .sbr o | .sjmpS64 o | .scallS64 o | .sldsS64 o | .sstsS64 o | .sldgS64 o
  | .sstgS64 o | .maccLd o | .maccSt o | .maccRb o | .maccClr o | .srdvArrS64 o | .ssysrd o | .ssyswr o | .strapS64 o
  | .lfetch o | .lme o | .lwarp o => some o.w
  | .sli o | .satom o | .mmul o | .mmulp o | .mmv o | .sboard o | .salight o | .swcap o | .swrew o
  | .xcopy o | .xcoll o => some o.w
  | _ => none

/-- A short form with G = 1: its g registers, its F value, and zero in a field it has no use for (R42, R77). -/
def gFormOk (i : Instr) (w : L32) (p : LSpec) : Bool :=
  shortGOk i && p.fOk && shortPairsOk i && (p.a != .unused || w.a == 0) && (p.b != .unused || w.b == 0)

/-- A lane instruction obeys its encoding (R42, R43, R44, R77, R104). -/
def laneOk (i : Instr) : Bool :=
  match i.l32?, laneSpec i.long with
  | some w, some p => if w.g then gFormOk i w p else p.ok w.toLOp
  | none, some p => match i.lop? with | some o => p.ok o | none => false
  | _, none => false

/-- The instruction is one of group code. -/
def Instr.isLane (i : Instr) : Bool := i.lop?.isSome || i.l32?.isSome
/-- The instruction is one of the scalar formats. -/
def Instr.isScalar (i : Instr) : Bool := i.s32?.isSome
/-- The constructor is an event of the opcode table, not an encoded instruction. -/
def Instr.isEvent (i : Instr) : Bool := !i.isLane && !i.isScalar

/-- Well-formed: the encoding allows it. -/
def Instr.wf (i : Instr) : Bool :=
  if i.isLane then laneOk i else if i.isScalar then scalarOk i else true

end Sys2Proof
end

