-- ==== Sys2Proof/Decode.lean ====
section
/-! DEFINITION. The decoder, total on any words, and the encoder, from the formats (02 R39-R47) and the opcode maps
(02 R53, R54; 13 R364, R365). -/

namespace Sys2Proof

/-- The field of a word from bit lo, of the width asked for. -/
def fieldAt (n : Nat) {m : Nat} (w : BitVec m) (lo : Nat) : BitVec n := w.extractLsb' lo n

/-- Reading an L32 word (R41). -/
def L32.read (w : W32) : L32 :=
  { g := bit w 31, f := fieldAt 4 w 27, b := fieldAt 6 w 21, a := fieldAt 6 w 15, d := fieldAt 6 w 9 }
/-- Writing an L32 word (R41). -/
def L32.word (o : L32) (op : BitVec 7) : W32 :=
  ((BitVec.ofBool o.g ++ o.f ++ o.b ++ o.a ++ o.d ++ op ++ 1#2 : BitVec 32))

/-- Reading the two words of L64 (R43). -/
def LOp.read64 (w : BitVec 64) : LOp :=
  { pn := bit w 63, ps := fieldAt 5 w 58, f := fieldAt 4 w 54, la := fieldAt 4 w 50, x := .reg (fieldAt 10 w 40),
    b := fieldAt 10 w 30, a := fieldAt 10 w 20, d := fieldAt 10 w 10 }
/-- Reading the three words of L96 (R44). -/
def LOp.read96 (w : BitVec 64) (imm : W32) : LOp :=
  { LOp.read64 w with x := .lit (fieldAt 8 w 42) (fieldAt 2 w 40) imm }
/-- The first two words of L64 or L96 (R43, R44): x10 is C or X. -/
def LOp.words64 (o : LOp) (op : BitVec 8) (x10 : BitVec 10) (len : BitVec 2) : BitVec 64 :=
  (BitVec.ofBool o.pn ++ o.ps ++ o.f ++ o.la ++ x10 ++ o.b ++ o.a ++ o.d ++ op ++ len : BitVec 64)
/-- The words of a lane instruction in its long form. -/
def LOp.words (o : LOp) (op : BitVec 8) : List W32 :=
  match o.x with
  | .reg c => let w := o.words64 op c 2#2; [fieldAt 32 w 0, fieldAt 32 w 32]
  | .lit s sl i => let w := o.words64 op (s ++ sl) 3#2; [fieldAt 32 w 0, fieldAt 32 w 32, i]

/-- Reading the first word of a scalar instruction (R47). -/
def S32.read (w : W32) : S32 := { f := fieldAt 2 w 30, b := fieldAt 7 w 23, a := fieldAt 7 w 16, d := fieldAt 7 w 9 }
/-- Writing the first word of a scalar instruction (R47). -/
def S32.word (o : S32) (op : BitVec 7) (len : BitVec 2) : W32 :=
  (o.f ++ o.b ++ o.a ++ o.d ++ op ++ len : BitVec 32)

/-- The lane opcode map in the long formats (R53). -/
def laneTable : List (Nat × (LOp → Instr)) :=
  [(0x00, .add), (0x01, .sub), (0x02, .mul), (0x03, .mulhi), (0x04, .mad), (0x05, .div),
   (0x06, .rem), (0x07, .min), (0x08, .max), (0x09, .abs), (0x0A, .neg), (0x0B, .and),
   (0x0C, .or), (0x0D, .xor), (0x0E, .not), (0x0F, .andn), (0x10, .shl), (0x11, .shr),
   (0x12, .sra), (0x13, .rotl), (0x14, .bfe), (0x15, .bfi), (0x16, .popc), (0x17, .clz),
   (0x18, .ctz), (0x19, .brev), (0x1A, .cmp), (0x1B, .sel), (0x1C, .mov), (0x1D, .cvti),
   (0x1E, .lea), (0x1F, .perm), (0x20, .padd), (0x21, .psub), (0x22, .pmul), (0x23, .pmin)] ++
  [(0x24, .pmax), (0x25, .pabs), (0x26, .pshl), (0x27, .pshr), (0x28, .psra), (0x29, .pcmp),
   (0x2A, .pdot), (0x2B, .ppack), (0x2C, .punpk), (0x2D, .sad), (0x2E, .vgive), (0x2F, fun o => if o.d = 0 then .vclaim o else .vclaimTry o),
   (0x40, .fadd), (0x41, .fsub), (0x42, .fmul), (0x43, .fma), (0x44, .fmin), (0x45, .fmax),
   (0x46, .fsgn), (0x47, .fcmp), (0x48, .fclass), (0x49, .frnd), (0x4A, .fscale), (0x4B, .fexpo),
   (0x4C, .fdot2), (0x4D, .fdiv), (0x4E, .fsqrt), (0x4F, .frcp), (0x50, .frsq), (0x51, .fexp2),
   (0x52, .flog2), (0x53, .fsin), (0x54, .fcos), (0x55, .ftanh), (0x56, .cvt), (0x57, .cvtfi)] ++
  [(0x58, .cvtif), (0x59, .cvtx), (0x5A, .cvtq), (0x5B, .cvtn), (0x5C, .amxcom), (0x5D, .wfup),
   (0x5E, .wfmerge), (0x80, .bra), (0x81, .join), (0x82, .joint), (0x83, .call), (0x84, .ret),
   (0x85, .exit), (0x86, .dqtake), (0x87, .allon), (0x88, .alloff), (0x89, .vote), (0x8A, .shfl),
   (0x8B, .qswap), (0x8C, .qdiff), (0x8D, .scan), (0x8E, .redc), (0xA0, .lds), (0xA1, .sts),
   (0xA2, .ldb), (0xA3, .stb), (0xA4, .atoms), (0xA5, .atom), (0xA6, .gred), (0xA7, .patom),
   (0xA8, .pfb), (0xA9, .accRd), (0xC0, .board), (0xC1, .alight), (0xC2, fun o => if bit o.imm 11 then .wcapUntil o else .wcap o), (0xC3, .wrew)] ++
  [(0xD0, .fence), (0xD8, .emitv), (0xD9, .emitp), (0xDA, .emitend), (0xDB, .vbld), (0xDC, .vbary),
   (0xDD, .vinterp), (0xDE, .cover), (0xDF, .trace), (0xE0, .hitacc), (0xE1, .hitign), (0xE2, .tsamp),
   (0xE3, .tgath), (0xE4, .tload), (0xE5, .tquery), (0xF0, .rdvArr), (0xF1, .rdvWait), (0xF2, .rdvDrop),
   (0xF3, .setperf), (0xF4, .ctrrd), (0xF8, .sysrd), (0xF9, .syswr), (0xFA, .trap), (0xFB, .brk),
   (0xFC, .eret), (0xFD, .nop)]

/-- The short forms (R42, R77, R86, R104). -/
def shortTable : List (Nat × (L32 → Instr)) :=
  [(0x00, .addL32), (0x01, .subL32), (0x02, .mulL32), (0x03, .mulhiL32), (0x07, .minL32), (0x08, .maxL32),
   (0x09, .absL32), (0x0A, .negL32), (0x0B, .andL32), (0x0C, .orL32), (0x0D, .xorL32), (0x0E, .notL32),
   (0x0F, .andnL32), (0x10, .shlL32), (0x11, .shrL32), (0x12, .sraL32), (0x13, .rotlL32), (0x14, .bfeL32),
   (0x16, .popcL32), (0x17, .clzL32), (0x18, .ctzL32), (0x19, .brevL32), (0x1C, .movL32), (0x1D, .cvtiL32),
   (0x20, .paddL32), (0x21, .psubL32), (0x22, .pmulL32), (0x23, .pminL32), (0x24, .pmaxL32), (0x25, .pabsL32),
   (0x26, .pshlL32), (0x27, .pshrL32), (0x28, .psraL32), (0x29, .pcmpL32), (0x2B, .ppackL32), (0x2C, .punpkL32)] ++
  [(0x40, .faddL32), (0x41, .fsubL32), (0x42, .fmulL32), (0x44, .fminL32), (0x45, .fmaxL32), (0x46, .fsgnL32),
   (0x48, .fclassL32), (0x49, .frndL32), (0x4B, .fexpoL32), (0x56, .cvtL32), (0x57, .cvtfiL32), (0x58, .cvtifL32),
   (0x59, .cvtxL32)]

/-- The scalar integer instructions, sbr and sjmp, which the scalar stream, the line sequencer and atomic
routines share, in S32 (R54, R364, R206). -/
def baseS32Table : List (Nat × (S32 → Instr)) :=
  [(0x00, .saddS32), (0x01, .ssubS32), (0x02, .smulS32), (0x03, .smulhiS32), (0x04, .sdivS32), (0x05, .sremS32),
   (0x06, .sminS32), (0x07, .smaxS32), (0x08, .sandS32), (0x09, .sorS32), (0x0A, .sxorS32), (0x0B, .sandnS32),
   (0x0C, .sshlS32), (0x0D, .sshrS32), (0x0E, .ssraS32), (0x0F, .sbfeS32), (0x10, .sbfiS32), (0x11, .spopc),
   (0x12, .sclz), (0x13, .sctz), (0x14, .smovS32), (0x16, .scmpS32), (0x17, .sselS32), (0x18, .sleaS32),
   (0x31, .sjmpS32)]

/-- The scalar integer instructions, sbr and sjmp, which the scalar stream, the line sequencer and atomic
routines share, in S64 (R54, R364, R206). -/
def baseS64Table : List (Nat × (S64 → Instr)) :=
  [(0x00, .saddS64), (0x01, .ssubS64), (0x02, .smulS64), (0x03, .smulhiS64), (0x04, .sdivS64), (0x05, .sremS64),
   (0x06, .sminS64), (0x07, .smaxS64), (0x08, .sandS64), (0x09, .sorS64), (0x0A, .sxorS64), (0x0B, .sandnS64),
   (0x0C, .sshlS64), (0x0D, .sshrS64), (0x0E, .ssraS64), (0x0F, .sbfeS64), (0x10, .sbfiS64), (0x14, .smovS64),
   (0x16, .scmpS64), (0x17, .sselS64), (0x18, .sleaS64), (0x30, .sbr), (0x31, .sjmpS64)]

/-- The scalar integer instructions, sbr and sjmp, which the scalar stream, the line sequencer and atomic
routines share, in S96 (R54, R364, R206). -/
def baseS96Table : List (Nat × (S96 → Instr)) :=
  [(0x15, .sli)]

/-- The scalar opcodes that accept S32 (R54). -/
noncomputable def scalarS32Table : List (Nat × (S32 → Instr)) :=
  baseS32Table ++
  [(0x32, .scallS32), (0x33, .sret), (0x34, .sexit), (0x35, .sdqpush), (0x40, .sldsS32), (0x41, .sstsS32),
   (0x42, .sldgS32), (0x43, .sstgS32), (0x69, .xpub), (0x6A, .xdrain), (0x6C, .sfence), (0x70, .slaunch),
   (0x71, .sfsnew), (0x72, .sfswait), (0x73, .sqfence), (0x78, .srdvInit), (0x79, .srdvArrS32), (0x7A, .srdvWait),
   (0x7B, .ssetperf), (0x7E, .strapS32), (0x7F, .seret)]

/-- The scalar opcodes that accept S64 (R54). -/
noncomputable def scalarS64Table : List (Nat × (S64 → Instr)) :=
  baseS64Table ++
  [(0x32, .scallS64), (0x40, .sldsS64), (0x41, .sstsS64), (0x42, .sldgS64), (0x43, .sstgS64), (0x52, .maccLd),
   (0x53, .maccSt), (0x54, .maccRb), (0x55, .maccClr), (0x79, .srdvArrS64), (0x7C, .ssysrd), (0x7D, .ssyswr),
   (0x7E, .strapS64)]

/-- The scalar opcodes that accept S96 (R54). -/
noncomputable def scalarS96Table : List (Nat × (S96 → Instr)) :=
  baseS96Table ++
  [(0x44, .satom), (0x50, .mmul), (0x51, .mmulp), (0x56, .mmv), (0x60, .sboard), (0x61, .salight),
   (0x62, .swcap), (0x63, .swrew), (0x68, .xcopy), (0x6B, .xcoll)]

/-- The line sequencer's page: the base instructions and the band instructions (R364). -/
noncomputable def seqS32Table : List (Nat × (S32 → Instr)) :=
  baseS32Table ++
  [(0x40, fun w => if bit w.f 1 then .lgenWait w else .lgen w), (0x41, .llatch), (0x45, .lnet), (0x46, .lput), (0x47, .lpose), (0x48, .ltime),
   (0x49, .lend)]

/-- The same in S64. -/
noncomputable def seqS64Table : List (Nat × (S64 → Instr)) :=
  baseS64Table ++
  [(0x42, .lfetch), (0x43, .lme), (0x44, .lwarp)]

/-- What the decoder makes of the words at a program counter. -/
inductive Decoded where
  | instr (i : Instr)
  /-- The first word is all zero (R39). -/
  | zeroWord
  /-- Check 2 of R57: an EXT_EMU code point, or an extension whose feature bit reads 0. -/
  | extEmu
  /-- Check 1 (length code 0b00, word not zero) or check 3 of R57. -/
  | illegal
  deriving DecidableEq, Repr

/-- The length of the instruction in words, from bits [1:0] of its first word; 0 for the code 0b00 (R39) (DEDUCED, log 31). -/
def lengthWords (w : W32) : Nat := bits w 1 0

/-- The FEAT0 bit an opcode needs (R55); xcoll needs EXT.LINK only with F = 01. -/
def extBit (p : Page) (w : W32) : Option Nat :=
  match p with
  | .lane =>
    if bits w 1 0 = 1 then none
    else
      let op := bits w 9 2
      if op = 0xA7 then some 6
      else if 0xD8 ≤ op ∧ op ≤ 0xDE then some 2
      else if 0xDF ≤ op ∧ op ≤ 0xE1 then some 1
      else if 0xE2 ≤ op ∧ op ≤ 0xE5 then some 3
      else none
  | .scalar =>
    let op := bits w 8 2
    if op = 0x56 then some 0 else if op = 0x6B ∧ bits w 31 30 = 1 then some 5 else none
  | .sequencer => none

/-- The code points that trap EXT_EMU whatever the feature bits (R53, R54). -/
def emuPoint (p : Page) (w : W32) : Bool :=
  match p with
  | .lane => bits w 1 0 != 1 && decide (0xE6 ≤ bits w 9 2 ∧ bits w 9 2 ≤ 0xEF)
  | .scalar => decide (0x58 ≤ bits w 8 2 ∧ bits w 8 2 ≤ 0x5F)
  | .sequencer => false

/-- The base instruction of a word, without the checks of its fields: what an atomic routine can hold (R206). -/
def parseBase (w0 w1 w2 : W32) : Option Instr :=
  match bits w0 1 0 with
  | 1 => (baseS32Table.lookup (bits w0 8 2)).map fun k => k (S32.read w0)
  | 2 => (baseS64Table.lookup (bits w0 8 2)).map fun k => k { w := S32.read w0, e1 := w1 }
  | 3 => (baseS96Table.lookup (bits w0 8 2)).map fun k => k { w := S32.read w0, e1 := w1, e2 := w2 }
  | _ => none

/-- The scalar instruction of a word, without the checks of its fields. -/
noncomputable def parseScalar (w0 w1 w2 : W32) : Option Instr :=
  match bits w0 1 0 with
  | 1 => (scalarS32Table.lookup (bits w0 8 2)).map fun k => k (S32.read w0)
  | 2 => (scalarS64Table.lookup (bits w0 8 2)).map fun k => k { w := S32.read w0, e1 := w1 }
  | 3 => (scalarS96Table.lookup (bits w0 8 2)).map fun k => k { w := S32.read w0, e1 := w1, e2 := w2 }
  | _ => none

/-- The same for the line sequencer. -/
noncomputable def parseSequencer (w0 w1 w2 : W32) : Option Instr :=
  match bits w0 1 0 with
  | 1 => (seqS32Table.lookup (bits w0 8 2)).map fun k => k (S32.read w0)
  | 2 => (seqS64Table.lookup (bits w0 8 2)).map fun k => k { w := S32.read w0, e1 := w1 }
  | 3 => (baseS96Table.lookup (bits w0 8 2)).map fun k => k { w := S32.read w0, e1 := w1, e2 := w2 }
  | _ => none

/-- The same for group code. -/
def parseLane (w0 w1 w2 : W32) : Option Instr :=
  let w : BitVec 64 := w1 ++ w0
  match bits w0 1 0 with
  | 1 => (shortTable.lookup (bits w0 8 2)).map fun k => k (L32.read w0)
  | 2 => (laneTable.lookup (bits w0 9 2)).map fun k => k (LOp.read64 w)
  | 3 => (laneTable.lookup (bits w0 9 2)).map fun k => k (LOp.read96 w w2)
  | _ => none

/-- The instruction of a word on its page. -/
noncomputable def parse (p : Page) (w0 w1 w2 : W32) : Option Instr :=
  match p with
  | .lane => parseLane w0 w1 w2
  | .scalar => parseScalar w0 w1 w2
  | .sequencer => parseSequencer w0 w1 w2

/-- The fields of a parsed instruction are allowed on the page: the sequencer has registers 0-31 alone (R364). -/
def pageOk (p : Page) (i : Instr) : Bool :=
  i.wf && (p != .sequencer || (match i.s32? with | some w => w.regsBelow 32 | none => false))

/-- The decode checks 1 to 3 of R57, in their order, on a core whose FEAT0 is feat (DEDUCED, log 31). -/
noncomputable def decode (p : Page) (feat w0 w1 w2 : W32) : Decoded :=
  if w0 = 0 then .zeroWord
  else if bits w0 1 0 = 0 then .illegal
  else if emuPoint p w0 || (match extBit p w0 with | some b => !bit feat b | none => false) then .extEmu
  else match parse p w0 w1 w2 with
    | some i => if pageOk p i then .instr i else .illegal
    | none => .illegal

/-- The words of an instruction; none for an event (R41-R47). -/
def encode : Instr → List W32
  | .addL32 w => [w.word 0x00]
  | .add o => o.words 0x00
  | .subL32 w => [w.word 0x01]
  | .sub o => o.words 0x01
  | .mulL32 w => [w.word 0x02]
  | .mul o => o.words 0x02
  | .mulhiL32 w => [w.word 0x03]
  | .mulhi o => o.words 0x03
  | .mad o => o.words 0x04
  | .div o => o.words 0x05
  | .rem o => o.words 0x06
  | .minL32 w => [w.word 0x07]
  | .min o => o.words 0x07
  | .maxL32 w => [w.word 0x08]
  | .max o => o.words 0x08
  | .absL32 w => [w.word 0x09]
  | .abs o => o.words 0x09
  | .negL32 w => [w.word 0x0A]
  | .neg o => o.words 0x0A
  | .andL32 w => [w.word 0x0B]
  | .and o => o.words 0x0B
  | .orL32 w => [w.word 0x0C]
  | .or o => o.words 0x0C
  | .xorL32 w => [w.word 0x0D]
  | .xor o => o.words 0x0D
  | .notL32 w => [w.word 0x0E]
  | .not o => o.words 0x0E
  | .andnL32 w => [w.word 0x0F]
  | .andn o => o.words 0x0F
  | .shlL32 w => [w.word 0x10]
  | .shl o => o.words 0x10
  | .shrL32 w => [w.word 0x11]
  | .shr o => o.words 0x11
  | .sraL32 w => [w.word 0x12]
  | .sra o => o.words 0x12
  | .rotlL32 w => [w.word 0x13]
  | .rotl o => o.words 0x13
  | .bfeL32 w => [w.word 0x14]
  | .bfe o => o.words 0x14
  | .bfi o => o.words 0x15
  | .popcL32 w => [w.word 0x16]
  | .popc o => o.words 0x16
  | .clzL32 w => [w.word 0x17]
  | .clz o => o.words 0x17
  | .ctzL32 w => [w.word 0x18]
  | .ctz o => o.words 0x18
  | .brevL32 w => [w.word 0x19]
  | .brev o => o.words 0x19
  | .cmp o => o.words 0x1A
  | .sel o => o.words 0x1B
  | .movL32 w => [w.word 0x1C]
  | .mov o => o.words 0x1C
  | .cvtiL32 w => [w.word 0x1D]
  | .cvti o => o.words 0x1D
  | .lea o => o.words 0x1E
  | .perm o => o.words 0x1F
  | .paddL32 w => [w.word 0x20]
  | .padd o => o.words 0x20
  | .psubL32 w => [w.word 0x21]
  | .psub o => o.words 0x21
  | .pmulL32 w => [w.word 0x22]
  | .pmul o => o.words 0x22
  | .pminL32 w => [w.word 0x23]
  | .pmin o => o.words 0x23
  | .pmaxL32 w => [w.word 0x24]
  | .pmax o => o.words 0x24
  | .pabsL32 w => [w.word 0x25]
  | .pabs o => o.words 0x25
  | .pshlL32 w => [w.word 0x26]
  | .pshl o => o.words 0x26
  | .pshrL32 w => [w.word 0x27]
  | .pshr o => o.words 0x27
  | .psraL32 w => [w.word 0x28]
  | .psra o => o.words 0x28
  | .pcmpL32 w => [w.word 0x29]
  | .pcmp o => o.words 0x29
  | .pdot o => o.words 0x2A
  | .ppackL32 w => [w.word 0x2B]
  | .ppack o => o.words 0x2B
  | .punpkL32 w => [w.word 0x2C]
  | .punpk o => o.words 0x2C
  | .sad o => o.words 0x2D
  | .vgive o => o.words 0x2E
  | .vclaim o => o.words 0x2F
  | .vclaimTry o => o.words 0x2F
  | .faddL32 w => [w.word 0x40]
  | .fadd o => o.words 0x40
  | .fsubL32 w => [w.word 0x41]
  | .fsub o => o.words 0x41
  | .fmulL32 w => [w.word 0x42]
  | .fmul o => o.words 0x42
  | .fma o => o.words 0x43
  | .fminL32 w => [w.word 0x44]
  | .fmin o => o.words 0x44
  | .fmaxL32 w => [w.word 0x45]
  | .fmax o => o.words 0x45
  | .fsgnL32 w => [w.word 0x46]
  | .fsgn o => o.words 0x46
  | .fcmp o => o.words 0x47
  | .fclassL32 w => [w.word 0x48]
  | .fclass o => o.words 0x48
  | .frndL32 w => [w.word 0x49]
  | .frnd o => o.words 0x49
  | .fscale o => o.words 0x4A
  | .fexpoL32 w => [w.word 0x4B]
  | .fexpo o => o.words 0x4B
  | .fdot2 o => o.words 0x4C
  | .fdiv o => o.words 0x4D
  | .fsqrt o => o.words 0x4E
  | .frcp o => o.words 0x4F
  | .frsq o => o.words 0x50
  | .fexp2 o => o.words 0x51
  | .flog2 o => o.words 0x52
  | .fsin o => o.words 0x53
  | .fcos o => o.words 0x54
  | .ftanh o => o.words 0x55
  | .cvtL32 w => [w.word 0x56]
  | .cvt o => o.words 0x56
  | .cvtfiL32 w => [w.word 0x57]
  | .cvtfi o => o.words 0x57
  | .cvtifL32 w => [w.word 0x58]
  | .cvtif o => o.words 0x58
  | .cvtxL32 w => [w.word 0x59]
  | .cvtx o => o.words 0x59
  | .cvtq o => o.words 0x5A
  | .cvtn o => o.words 0x5B
  | .amxcom o => o.words 0x5C
  | .wfup o => o.words 0x5D
  | .wfmerge o => o.words 0x5E
  | .bra o => o.words 0x80
  | .join o => o.words 0x81
  | .joint o => o.words 0x82
  | .call o => o.words 0x83
  | .ret o => o.words 0x84
  | .exit o => o.words 0x85
  | .dqtake o => o.words 0x86
  | .allon o => o.words 0x87
  | .alloff o => o.words 0x88
  | .vote o => o.words 0x89
  | .shfl o => o.words 0x8A
  | .qswap o => o.words 0x8B
  | .qdiff o => o.words 0x8C
  | .scan o => o.words 0x8D
  | .redc o => o.words 0x8E
  | .lds o => o.words 0xA0
  | .sts o => o.words 0xA1
  | .ldb o => o.words 0xA2
  | .stb o => o.words 0xA3
  | .atoms o => o.words 0xA4
  | .atom o => o.words 0xA5
  | .gred o => o.words 0xA6
  | .patom o => o.words 0xA7
  | .pfb o => o.words 0xA8
  | .accRd o => o.words 0xA9
  | .board o => o.words 0xC0
  | .alight o => o.words 0xC1
  | .wcap o => o.words 0xC2
  | .wcapUntil o => o.words 0xC2
  | .wrew o => o.words 0xC3
  | .fence o => o.words 0xD0
  | .emitv o => o.words 0xD8
  | .emitp o => o.words 0xD9
  | .emitend o => o.words 0xDA
  | .vbld o => o.words 0xDB
  | .vbary o => o.words 0xDC
  | .vinterp o => o.words 0xDD
  | .cover o => o.words 0xDE
  | .trace o => o.words 0xDF
  | .hitacc o => o.words 0xE0
  | .hitign o => o.words 0xE1
  | .tsamp o => o.words 0xE2
  | .tgath o => o.words 0xE3
  | .tload o => o.words 0xE4
  | .tquery o => o.words 0xE5
  | .rdvArr o => o.words 0xF0
  | .rdvWait o => o.words 0xF1
  | .rdvDrop o => o.words 0xF2
  | .setperf o => o.words 0xF3
  | .ctrrd o => o.words 0xF4
  | .sysrd o => o.words 0xF8
  | .syswr o => o.words 0xF9
  | .trap o => o.words 0xFA
  | .brk o => o.words 0xFB
  | .eret o => o.words 0xFC
  | .nop o => o.words 0xFD
  | .saddS32 w => [w.word 0x00 1]
  | .saddS64 o => [o.w.word 0x00 2, o.e1]
  | .ssubS32 w => [w.word 0x01 1]
  | .ssubS64 o => [o.w.word 0x01 2, o.e1]
  | .smulS32 w => [w.word 0x02 1]
  | .smulS64 o => [o.w.word 0x02 2, o.e1]
  | .smulhiS32 w => [w.word 0x03 1]
  | .smulhiS64 o => [o.w.word 0x03 2, o.e1]
  | .sdivS32 w => [w.word 0x04 1]
  | .sdivS64 o => [o.w.word 0x04 2, o.e1]
  | .sremS32 w => [w.word 0x05 1]
  | .sremS64 o => [o.w.word 0x05 2, o.e1]
  | .sminS32 w => [w.word 0x06 1]
  | .sminS64 o => [o.w.word 0x06 2, o.e1]
  | .smaxS32 w => [w.word 0x07 1]
  | .smaxS64 o => [o.w.word 0x07 2, o.e1]
  | .sandS32 w => [w.word 0x08 1]
  | .sandS64 o => [o.w.word 0x08 2, o.e1]
  | .sorS32 w => [w.word 0x09 1]
  | .sorS64 o => [o.w.word 0x09 2, o.e1]
  | .sxorS32 w => [w.word 0x0A 1]
  | .sxorS64 o => [o.w.word 0x0A 2, o.e1]
  | .sandnS32 w => [w.word 0x0B 1]
  | .sandnS64 o => [o.w.word 0x0B 2, o.e1]
  | .sshlS32 w => [w.word 0x0C 1]
  | .sshlS64 o => [o.w.word 0x0C 2, o.e1]
  | .sshrS32 w => [w.word 0x0D 1]
  | .sshrS64 o => [o.w.word 0x0D 2, o.e1]
  | .ssraS32 w => [w.word 0x0E 1]
  | .ssraS64 o => [o.w.word 0x0E 2, o.e1]
  | .sbfeS32 w => [w.word 0x0F 1]
  | .sbfeS64 o => [o.w.word 0x0F 2, o.e1]
  | .sbfiS32 w => [w.word 0x10 1]
  | .sbfiS64 o => [o.w.word 0x10 2, o.e1]
  | .spopc w => [w.word 0x11 1]
  | .sclz w => [w.word 0x12 1]
  | .sctz w => [w.word 0x13 1]
  | .smovS32 w => [w.word 0x14 1]
  | .smovS64 o => [o.w.word 0x14 2, o.e1]
  | .sli o => [o.w.word 0x15 3, o.e1, o.e2]
  | .scmpS32 w => [w.word 0x16 1]
  | .scmpS64 o => [o.w.word 0x16 2, o.e1]
  | .sselS32 w => [w.word 0x17 1]
  | .sselS64 o => [o.w.word 0x17 2, o.e1]
  | .sleaS32 w => [w.word 0x18 1]
  | .sleaS64 o => [o.w.word 0x18 2, o.e1]
  | .sbr o => [o.w.word 0x30 2, o.e1]
  | .sjmpS32 w => [w.word 0x31 1]
  | .sjmpS64 o => [o.w.word 0x31 2, o.e1]
  | .scallS32 w => [w.word 0x32 1]
  | .scallS64 o => [o.w.word 0x32 2, o.e1]
  | .sret w => [w.word 0x33 1]
  | .sexit w => [w.word 0x34 1]
  | .sdqpush w => [w.word 0x35 1]
  | .sldsS32 w => [w.word 0x40 1]
  | .sldsS64 o => [o.w.word 0x40 2, o.e1]
  | .sstsS32 w => [w.word 0x41 1]
  | .sstsS64 o => [o.w.word 0x41 2, o.e1]
  | .sldgS32 w => [w.word 0x42 1]
  | .sldgS64 o => [o.w.word 0x42 2, o.e1]
  | .sstgS32 w => [w.word 0x43 1]
  | .sstgS64 o => [o.w.word 0x43 2, o.e1]
  | .satom o => [o.w.word 0x44 3, o.e1, o.e2]
  | .mmul o => [o.w.word 0x50 3, o.e1, o.e2]
  | .mmulp o => [o.w.word 0x51 3, o.e1, o.e2]
  | .maccLd o => [o.w.word 0x52 2, o.e1]
  | .maccSt o => [o.w.word 0x53 2, o.e1]
  | .maccRb o => [o.w.word 0x54 2, o.e1]
  | .maccClr o => [o.w.word 0x55 2, o.e1]
  | .mmv o => [o.w.word 0x56 3, o.e1, o.e2]
  | .sboard o => [o.w.word 0x60 3, o.e1, o.e2]
  | .salight o => [o.w.word 0x61 3, o.e1, o.e2]
  | .swcap o => [o.w.word 0x62 3, o.e1, o.e2]
  | .swrew o => [o.w.word 0x63 3, o.e1, o.e2]
  | .xcopy o => [o.w.word 0x68 3, o.e1, o.e2]
  | .xpub w => [w.word 0x69 1]
  | .xdrain w => [w.word 0x6A 1]
  | .xcoll o => [o.w.word 0x6B 3, o.e1, o.e2]
  | .sfence w => [w.word 0x6C 1]
  | .slaunch w => [w.word 0x70 1]
  | .sfsnew w => [w.word 0x71 1]
  | .sfswait w => [w.word 0x72 1]
  | .sqfence w => [w.word 0x73 1]
  | .srdvInit w => [w.word 0x78 1]
  | .srdvArrS32 w => [w.word 0x79 1]
  | .srdvArrS64 o => [o.w.word 0x79 2, o.e1]
  | .srdvWait w => [w.word 0x7A 1]
  | .ssetperf w => [w.word 0x7B 1]
  | .ssysrd o => [o.w.word 0x7C 2, o.e1]
  | .ssyswr o => [o.w.word 0x7D 2, o.e1]
  | .strapS32 w => [w.word 0x7E 1]
  | .strapS64 o => [o.w.word 0x7E 2, o.e1]
  | .seret w => [w.word 0x7F 1]
  | .lgen w => [w.word 0x40 1]
  | .lgenWait w => [w.word 0x40 1]
  | .llatch w => [w.word 0x41 1]
  | .lfetch o => [o.w.word 0x42 2, o.e1]
  | .lme o => [o.w.word 0x43 2, o.e1]
  | .lwarp o => [o.w.word 0x44 2, o.e1]
  | .lnet w => [w.word 0x45 1]
  | .lput w => [w.word 0x46 1]
  | .lpose w => [w.word 0x47 1]
  | .ltime w => [w.word 0x48 1]
  | .lend w => [w.word 0x49 1]
  | _ => []

/-- The page an instruction belongs to; the sequencer shares the scalar integer codes with the scalar stream. -/
def Instr.page : Instr → Page
  | .lgen _ | .lgenWait _ | .llatch _ | .lfetch _ | .lme _ | .lwarp _ | .lnet _ | .lput _ | .lpose _ | .ltime _ | .lend _ => .sequencer
  | i => if i.isLane then .lane else .scalar

/-- The length of an instruction in bytes (R39). -/
def Instr.size (i : Instr) : Nat := 4 * (encode i).length

/-- The first word, which TVAL receives from ILLEGAL_ENC, EXT_EMU and MATRIX_CFG (R57, R158). -/
def Instr.firstWord (i : Instr) : W32 := (encode i).headD 0

/-- Every feature bit reads one. -/
def allFeatures : W32 := 0x7F#32

/-- The instruction a table row's word stands for. One word can mean a lane, a scalar and a sequencer instruction, by the
stream that fetched it (02, opening): the pages are tried in that order (DESIGN CHOICE, log 4). -/
noncomputable def decodeTableWord (_nbits w : Nat) : Option Instr :=
  let w0 := BitVec.ofNat 32 w
  let w1 := BitVec.ofNat 32 (w >>> 32)
  let w2 := BitVec.ofNat 32 (w >>> 64)
  match decode .lane allFeatures w0 w1 w2, decode .scalar allFeatures w0 w1 w2, decode .sequencer allFeatures w0 w1 w2 with
  | .instr i, _, _ => some i
  | _, .instr i, _ => some i
  | _, _, .instr i => some i
  | _, _, _ => none

end Sys2Proof
end

