-- ==== Sys2Proof/Machine/Flags.lean ====
section
/-! DEFINITION. The floating flags and rounding (04 R95, R98, R103). -/

namespace Sys2Proof.Machine
open Sys2Proof

/-- NV, DZ, OF, UF, NX and AB as bits of FPCTL (04 R95). -/
def flagNV : W32 := 0x010
def flagDZ : W32 := 0x020
def flagOF : W32 := 0x040
def flagUF : W32 := 0x080
def flagNX : W32 := 0x100
def flagAB : W32 := 0x200

/-- The flag where it holds. -/
def flagIf (b : Bool) (f : W32) : W32 := if b then f else 0

/-- FPCTL's writable bits (04 R95): the others read as zero (00 R8). -/
def fpctlMask : W32 := 0x3F7

/-- A rounding direction, with FPCTL.RM's codes (04 R95): 0 nearest even, 1 zero, 2 down, 3 up. -/
abbrev Rounding := Nat

/-- The rounding of an instruction: RO, or FPCTL.RM (04 R103). -/
def roundingOf (ro : Nat) (fpctl : W32) : Rounding :=
  match ro with | 1 => 0 | 2 => 2 | 3 => 3 | _ => bits fpctl 1 0

/-- FPCTL.FTZ (04 R95). -/
def ftzOf (fpctl : W32) : Bool := bit fpctl 2

/-- The magnitude rounds away from zero: k is the truncated magnitude, r out of d what lies beyond it. -/
def roundsUp (rm : Rounding) (neg : Bool) (k r d : Nat) : Bool :=
  match rm with
  | 0 => decide (2 * r > d) || (2 * r == d && k % 2 == 1)
  | 1 => false
  | 2 => neg && r != 0
  | _ => !neg && r != 0

end Sys2Proof.Machine
end

