-- ==== Sys2Proof/Machine/Float.lean ====
section
/-! DEFINITION. Floating formats, their values, rounding and the arithmetic of 04 R90-R101, R105-R111, exactly. -/

namespace Sys2Proof.Machine
open Sys2Proof

/-- A floating format (04 R90). -/
structure Fmt where
  ebits : Nat
  mbits : Nat
  bias : Nat
  /-- The exponent of all ones holds infinities and NaNs. -/
  ieee : Bool := true
  deriving DecidableEq, Repr

def fmtF16 : Fmt := { ebits := 5, mbits := 10, bias := 15 }
def fmtBf16 : Fmt := { ebits := 8, mbits := 7, bias := 127 }
def fmtF32 : Fmt := { ebits := 8, mbits := 23, bias := 127 }
def fmtF64 : Fmt := { ebits := 11, mbits := 52, bias := 1023 }
def fmtE5m2 : Fmt := { ebits := 5, mbits := 2, bias := 15 }
def fmtE4m3 : Fmt := { ebits := 4, mbits := 3, bias := 7, ieee := false }
def fmtE2m1 : Fmt := { ebits := 2, mbits := 1, bias := 1, ieee := false }
def fmtE2m3 : Fmt := { ebits := 2, mbits := 3, bias := 1, ieee := false }
def fmtE3m2 : Fmt := { ebits := 3, mbits := 2, bias := 3, ieee := false }

/-- The floating type FT (04 R103). -/
def ftFmt (ft : Nat) : Fmt := match ft with | 0 => fmtF32 | 1 => fmtF64 | 2 => fmtF16 | _ => fmtBf16

def Fmt.width (f : Fmt) : Nat := 1 + f.ebits + f.mbits
/-- The all-ones exponent. -/
def Fmt.emaxField (f : Fmt) : Nat := 2 ^ f.ebits - 1
/-- The sign bit in place. -/
def Fmt.sign (f : Fmt) (s : Bool) : Nat := if s then 2 ^ (f.ebits + f.mbits) else 0
def Fmt.infBits (f : Fmt) (s : Bool) : Nat := f.sign s + f.emaxField * 2 ^ f.mbits
/-- The largest finite magnitude of an IEEE-style format. -/
def Fmt.maxBits (f : Fmt) (s : Bool) : Nat := f.sign s + f.emaxField * 2 ^ f.mbits - 1
/-- The canonical NaN (04 R100). -/
def Fmt.nanBits (f : Fmt) : Nat := f.emaxField * 2 ^ f.mbits + 2 ^ (f.mbits - 1)

/-- The value of a code: a finite value is (-1)^neg × m × 2^e. -/
inductive FVal where
  | nan (neg : Bool) (frac : Nat)
  | inf (neg : Bool)
  | fin (neg : Bool) (m : Nat) (e : Int)
  deriving DecidableEq, Repr

/-- Reading a code (04 R90, R91). -/
def Fmt.read (f : Fmt) (x : Nat) : FVal :=
  let s := x.testBit (f.ebits + f.mbits)
  let e := (x >>> f.mbits) % 2 ^ f.ebits
  let m := x % 2 ^ f.mbits
  if f.ieee && e == f.emaxField then (if m = 0 then .inf s else .nan s m)
  else if f == fmtE4m3 && e == 15 && m == 7 then .nan s m
  else if e = 0 then .fin s m (1 - f.bias - f.mbits)
  else .fin s (m + 2 ^ f.mbits) (e - f.bias - f.mbits)

def FVal.isNan : FVal → Bool | .nan .. => true | _ => false
def FVal.isZero : FVal → Bool | .fin _ 0 _ => true | _ => false
def FVal.neg? : FVal → Bool | .nan s _ => s | .inf s => s | .fin s _ _ => s
/-- The opposite value. -/
def FVal.negate : FVal → FVal | .nan s m => .nan (!s) m | .inf s => .inf (!s) | .fin s m e => .fin (!s) m e

/-- A signalling NaN of an IEEE-style format (04 R91, R100): the quiet bit is the highest fraction bit. -/
def Fmt.isSnan (f : Fmt) (x : Nat) : Bool :=
  f.ieee && (f.read x).isNan && !x.testBit (f.mbits - 1)
/-- The same NaN made quiet. -/
def Fmt.quiet (f : Fmt) (x : Nat) : Nat := x ||| 2 ^ (f.mbits - 1)
/-- A subnormal code. -/
def Fmt.isSub (f : Fmt) (x : Nat) : Bool := (x >>> f.mbits) % 2 ^ f.ebits == 0 && x % 2 ^ f.mbits != 0

/-- The floor of the binary logarithm of n / d, both positive. -/
def floorLog2 (n d : Nat) : Int :=
  let k : Int := Nat.log2 n - Nat.log2 d
  if (if k ≥ 0 then d * 2 ^ k.toNat ≤ n else d ≤ n * 2 ^ (-k).toNat) then k else k - 1

/-- n / d divided by 2^q, as a fraction. -/
def scaleFrac (n d : Nat) (q : Int) : Nat × Nat :=
  if q ≥ 0 then (n, d * 2 ^ q.toNat) else (n * 2 ^ (-q).toNat, d)

/-- The magnitude n / d rounded to a multiple of 2^q: how many, and whether it was inexact. -/
def roundMag (rm : Rounding) (neg : Bool) (n d : Nat) (q : Int) : Nat × Bool :=
  let (a, b) := scaleFrac n d q
  let k := a / b
  let r := a % b
  (k + (if roundsUp rm neg k r b then 1 else 0), r != 0)

/-- The positive fraction n / d with a sign, rounded once to an IEEE-style format (04 R98, R99): code and flags. Tininess
is detected after rounding. -/
def Fmt.round (f : Fmt) (rm : Rounding) (ftz : Bool) (neg : Bool) (n d : Nat) : Nat × W32 :=
  let emin : Int := 1 - f.bias
  let e := floorLog2 n d
  let eq := if e < emin then emin else e
  let (k, inexact) := roundMag rm neg n d (eq - f.mbits)
  let mag := ((eq + f.bias - 1).toNat) * 2 ^ f.mbits + k
  let unbounded := (roundMag rm neg n d (e - f.mbits)).1
  let tiny := decide (e < emin) && !(e == emin - 1 && unbounded == 2 ^ (f.mbits + 1))
  if mag ≥ f.emaxField * 2 ^ f.mbits then
    (if rm = 0 ∨ (rm = 2 ∧ neg) ∨ (rm = 3 ∧ !neg) then f.infBits neg else f.maxBits neg, flagOF ||| flagNX)
  else if ftz && f == fmtF32 && mag < 2 ^ f.mbits then
    (f.sign neg, if mag = 0 ∧ !inexact then 0 else flagUF ||| flagNX)
  else (f.sign neg + mag, flagIf inexact flagNX ||| flagIf (tiny && inexact) flagUF)

/-- The same for m × 2^e. -/
def Fmt.roundDyadic (f : Fmt) (rm : Rounding) (ftz : Bool) (neg : Bool) (m : Nat) (e : Int) : Nat × W32 :=
  if m = 0 then (f.sign neg, 0)
  else if e ≥ 0 then f.round rm ftz neg (m * 2 ^ e.toNat) 1 else f.round rm ftz neg m (2 ^ (-e).toNat)

/-- Reading an operand under FTZ (04 R99). -/
def Fmt.operand (f : Fmt) (ftz : Bool) (x : Nat) : Nat :=
  if ftz && f == fmtF32 && f.isSub x then x - x % 2 ^ f.mbits else x

/-- The NaN result where an operand is a NaN (04 R100): the first one, made quiet; NV for a signalling one. -/
def Fmt.nanOf (f : Fmt) (xs : List Nat) : Option (Nat × W32) :=
  match xs.find? fun x => (f.read x).isNan with
  | some x => some (f.quiet x, flagIf (xs.any f.isSnan) flagNV)
  | none => none

/-- An invalid operation (04 R100). -/
def Fmt.invalid (f : Fmt) : Nat × W32 := (f.nanBits, flagNV)

/-- Signed value of a term over 2^e0. -/
def termOver (neg : Bool) (m : Nat) (e e0 : Int) : Int :=
  let v : Int := (m * 2 ^ (e - e0).toNat : Nat)
  if neg then -v else v

/-- The exact sum of finite terms. -/
def sumTerms (ts : List (Bool × Nat × Int)) : Int × Int :=
  let e0 := ts.foldl (fun a t => if t.2.2 < a then t.2.2 else a) 0
  (ts.foldl (fun a t => a + termOver t.1 t.2.1 t.2.2 e0) 0, e0)

/-- Rounding an exact sum, with the sign of a zero sum (04 R101). -/
def Fmt.roundSum (f : Fmt) (rm : Rounding) (ftz : Bool) (ts : List (Bool × Nat × Int)) : Nat × W32 :=
  let (v, e0) := sumTerms ts
  if v = 0 then
    let same := ts.all (fun t => t.2.1 == 0) && (ts.all (fun t => t.1) || ts.all (fun t => !t.1))
    (f.sign (if same then (ts.headD (false, 0, 0)).1 else rm == 2), 0)
  else f.roundDyadic rm ftz (decide (v < 0)) v.natAbs e0

/-- The sum of values without NaN: opposite infinities are invalid. -/
def Fmt.addVals (f : Fmt) (rm : Rounding) (ftz : Bool) (vs : List FVal) : Nat × W32 :=
  let pinf := vs.any (fun v => v == .inf false)
  let ninf := vs.any (fun v => v == .inf true)
  if pinf && ninf then f.invalid
  else if pinf then (f.infBits false, 0)
  else if ninf then (f.infBits true, 0)
  else f.roundSum rm ftz (vs.filterMap fun v => match v with | .fin s m e => some (s, m, e) | _ => none)

/-- The exact product of values without NaN; none for 0 × ∞. -/
def mulVals : FVal → FVal → Option FVal
  | .fin s m e, .fin t n k => some (.fin (s != t) (m * n) (e + k))
  | .inf s, .fin t n _ => if n = 0 then none else some (.inf (s != t))
  | .fin s m _, .inf t => if m = 0 then none else some (.inf (s != t))
  | .inf s, .inf t => some (.inf (s != t))
  | _, _ => none

/-- Rounding one value without NaN. -/
def Fmt.ofVal (f : Fmt) (rm : Rounding) (ftz : Bool) : FVal → Nat × W32
  | .inf s => (f.infBits s, 0)
  | .fin s m e => f.roundDyadic rm ftz s m e
  | .nan .. => f.invalid

/-- fadd and fsub (04 R105). -/
def fAdd (f : Fmt) (rm : Rounding) (ftz : Bool) (sub : Bool) (x y : Nat) : Nat × W32 :=
  let a := f.operand ftz x
  let b := f.operand ftz y
  match f.nanOf [a, b] with
  | some r => r
  | none => f.addVals rm ftz [f.read a, if sub then (f.read b).negate else f.read b]

/-- fmul (04 R105). -/
def fMul (f : Fmt) (rm : Rounding) (ftz : Bool) (x y : Nat) : Nat × W32 :=
  let a := f.operand ftz x
  let b := f.operand ftz y
  match f.nanOf [a, b], mulVals (f.read a) (f.read b) with
  | some r, _ => r
  | none, some v => f.ofVal rm ftz v
  | none, none => f.invalid

/-- fma (04 R105). -/
def fMa (f : Fmt) (rm : Rounding) (ftz : Bool) (x y z : Nat) : Nat × W32 :=
  let a := f.operand ftz x
  let b := f.operand ftz y
  let c := f.operand ftz z
  match f.nanOf [a, b, c], mulVals (f.read a) (f.read b) with
  | some r, _ => r
  | none, some v => f.addVals rm ftz [v, f.read c]
  | none, none => f.invalid

/-- A code of one format as a code of another, its value kept or rounded (04 R100, R113). -/
def fConvert (src dst : Fmt) (rm : Rounding) (ftz : Bool) (x : Nat) : Nat × W32 :=
  match src.read x with
  | .nan s m =>
    let frac := if dst.mbits ≥ src.mbits then m * 2 ^ (dst.mbits - src.mbits) else m / 2 ^ (src.mbits - dst.mbits)
    (dst.quiet (dst.infBits s + frac), flagIf (src.isSnan x) flagNV)
  | v => dst.ofVal rm ftz v

/-- fdot2 (04 R105): two 16-bit products and an f32 addend, one rounding. -/
def fDot2 (h : Fmt) (rm : Rounding) (ftz : Bool) (x y z : Nat) : Nat × W32 :=
  let c := fmtF32.operand ftz z
  let hs := [x % 65536, x / 65536, y % 65536, y / 65536]
  let snan := hs.any h.isSnan || fmtF32.isSnan c
  match hs.find? fun v => (h.read v).isNan with
  | some v => ((fConvert h fmtF32 0 false v).1, flagIf snan flagNV)
  | none =>
    if (fmtF32.read c).isNan then (fmtF32.quiet c, flagIf snan flagNV)
    else match mulVals (h.read (x % 65536)) (h.read (y % 65536)), mulVals (h.read (x / 65536)) (h.read (y / 65536)) with
      | some p, some q => fmtF32.addVals rm ftz [fmtF32.read c, p, q]
      | _, _ => fmtF32.invalid

/-- The order of two values without NaN, -0 below +0: a value as a signed magnitude. -/
def Fmt.ordKey (f : Fmt) (x : Nat) : Int :=
  let m : Int := (x % 2 ^ (f.ebits + f.mbits) : Nat)
  if x.testBit (f.ebits + f.mbits) then -m - 1 else m

/-- fmin and fmax, and their .num forms (04 R106). -/
def fMinMax (f : Fmt) (ftz max num : Bool) (x y : Nat) : Nat × W32 :=
  let a := f.operand ftz x
  let b := f.operand ftz y
  let pick := if (f.ordKey a < f.ordKey b) != max then a else b
  let nv := flagIf (f.isSnan a || f.isSnan b) flagNV
  if num then
    match (f.read a).isNan, (f.read b).isNan with
    | false, false => (pick, nv)
    | true, false => (b, nv)
    | false, true => (a, nv)
    | true, true => (f.quiet a, nv)
  else match f.nanOf [a, b] with
    | some r => r
    | none => (pick, 0)

/-- fsgn (04 R107). -/
def fSgn (f : Fmt) (op x y : Nat) : Nat :=
  let h := 2 ^ (f.ebits + f.mbits)
  let sx := x.testBit (f.ebits + f.mbits)
  let sy := y.testBit (f.ebits + f.mbits)
  let s := match op with | 0 => false | 1 => !sx | 2 => sy | _ => sx != sy
  f.sign s + x % h

/-- Two values without NaN compare equal or less: zeros of both signs are equal. -/
def Fmt.cmpEq (f : Fmt) (x y : Nat) : Bool := x == y || ((f.read x).isZero && (f.read y).isZero)
def Fmt.cmpLt (f : Fmt) (x y : Nat) : Bool := decide (f.ordKey x < f.ordKey y) && !f.cmpEq x y

/-- fcmp (04 R108): the bit, and NV. -/
def fCmp (f : Fmt) (ftz : Bool) (cond x y : Nat) : Bool × W32 :=
  let a := f.operand ftz x
  let b := f.operand ftz y
  let nan := (f.read a).isNan || (f.read b).isNan
  let snan := f.isSnan a || f.isSnan b
  match cond with
  | 0 => (!nan && f.cmpEq a b, flagIf snan flagNV)
  | 1 => (!nan && f.cmpLt a b, flagIf nan flagNV)
  | 2 => (!nan && (f.cmpLt a b || f.cmpEq a b), flagIf nan flagNV)
  | _ => (nan, flagIf snan flagNV)

/-- fclass (04 R109). -/
def fClass (f : Fmt) (x : Nat) : Nat :=
  match f.read x with
  | .nan .. => if f.isSnan x then 1 else 2
  | .inf s => if s then 4 else 512
  | .fin s m _ =>
    if m = 0 then (if s then 32 else 64)
    else if f.isSub x then (if s then 16 else 128)
    else (if s then 8 else 256)

/-- frnd (04 R110): NX is never set. -/
def fRnd (f : Fmt) (rm : Rounding) (ftz : Bool) (x : Nat) : Nat × W32 :=
  let a := f.operand ftz x
  match f.nanOf [a], f.read a with
  | some r, _ => r
  | none, .fin s m e =>
    if e ≥ 0 then (a, 0)
    else ((f.roundDyadic rm ftz s (roundMag rm s m (2 ^ (-e).toNat) 0).1 0).1, 0)
  | none, _ => (a, 0)

/-- fscale (04 R110): a power beyond any format's range is cut to one that gives the same result. -/
def fScale (f : Fmt) (rm : Rounding) (ftz : Bool) (x : Nat) (k : Int) : Nat × W32 :=
  let a := f.operand ftz x
  match f.nanOf [a], f.read a with
  | some r, _ => r
  | none, .fin s m e => f.roundDyadic rm ftz s m (e + max (-8192) (min 8192 k))
  | none, _ => (a, 0)

/-- fexpo (04 R110), as an i32. -/
def fExpo (f : Fmt) (ftz : Bool) (x : Nat) : W32 × W32 :=
  match f.read (f.operand ftz x) with
  | .nan .. => (0x80000000, flagNV)
  | .inf _ => (0x7FFFFFFF, flagNV)
  | .fin _ m e => if m = 0 then (0x80000000, flagNV) else (BitVec.ofInt 32 (Nat.log2 m + e), 0)

/-- The quotient of two finite non-zero values, rounded. -/
def Fmt.roundQuot (f : Fmt) (rm : Rounding) (ftz : Bool) (neg : Bool) (m : Nat) (e : Int) (n : Nat) (k : Int) : Nat × W32 :=
  let q := e - k
  if q ≥ 0 then f.round rm ftz neg (m * 2 ^ q.toNat) n else f.round rm ftz neg m (n * 2 ^ (-q).toNat)

/-- fdiv (04 R111). -/
def fDiv (f : Fmt) (rm : Rounding) (ftz : Bool) (x y : Nat) : Nat × W32 :=
  let a := f.operand ftz x
  let b := f.operand ftz y
  match f.nanOf [a, b] with
  | some r => r
  | none =>
    match f.read a, f.read b with
    | .inf _, .inf _ => f.invalid
    | .inf s, v => (f.infBits (s != v.neg?), 0)
    | v, .inf t => (f.sign (v.neg? != t), 0)
    | .fin s m e, .fin t n k =>
      if n = 0 then (if m = 0 then f.invalid else (f.infBits (s != t), flagDZ))
      else if m = 0 then (f.sign (s != t), 0)
      else f.roundQuot rm ftz (s != t) m e n k
    | _, _ => f.invalid

/-- frcp is 1 / A (04 R111). -/
def fRcp (f : Fmt) (rm : Rounding) (ftz : Bool) (x : Nat) : Nat × W32 :=
  match f.nanOf [f.operand ftz x] with
  | some r => r
  | none => fDiv f rm ftz (f.bias * 2 ^ f.mbits) x

/-- The integer square root, bit by bit from 2^k. -/
def isqrtFrom : Nat → Nat → Nat → Nat
  | 0, _, r => r
  | k + 1, n, r => let t := r + 2 ^ k; isqrtFrom k n (if t * t ≤ n then t else r)
/-- The integer square root. -/
def isqrt (n : Nat) : Nat := isqrtFrom (Nat.log2 n / 2 + 1) n 0

/-- fsqrt (04 R111): 2r + 1 stands for a root between r and r + 1. -/
def fSqrt (f : Fmt) (rm : Rounding) (ftz : Bool) (x : Nat) : Nat × W32 :=
  let a := f.operand ftz x
  match f.nanOf [a], f.read a with
  | some r, _ => r
  | none, .inf s => if s then f.invalid else (a, 0)
  | none, .fin s m e =>
    if m = 0 then (a, 0)
    else if s then f.invalid
    else
      let e2 := if e % 2 = 0 then e else e - 1
      let n := (if e % 2 = 0 then m else 2 * m) * 2 ^ 128
      let r := isqrt n
      f.roundDyadic rm ftz false (if r * r = n then 2 * r else 2 * r + 1) (e2 / 2 - 65)
  | none, .nan .. => f.invalid

/-- cvtfi (04 R114): towards zero, saturating; width w, unsigned u. -/
def fToInt (f : Fmt) (w : Nat) (u : Bool) (x : Nat) : Nat × W32 :=
  let lo : Int := if u then 0 else -(2 ^ (w - 1) : Nat)
  let hi : Int := if u then (2 ^ w : Nat) - 1 else (2 ^ (w - 1) : Nat) - 1
  let wrap (v : Int) : Nat := (v % (2 ^ w : Nat)).toNat
  match f.read x with
  | .nan .. => (0, flagNV)
  | .inf s => (wrap (if s then lo else hi), flagNV)
  | .fin s m e =>
    let t : Nat := if e ≥ 0 then m * 2 ^ e.toNat else m / 2 ^ (-e).toNat
    let v : Int := if s then -(t : Int) else t
    if v < lo then (wrap lo, flagNV) else if hi < v then (wrap hi, flagNV) else (wrap v, 0)

/-- cvtif (04 R115). -/
def intToF (f : Fmt) (rm : Rounding) (ftz : Bool) (v : Int) : Nat × W32 :=
  f.roundDyadic rm ftz (decide (v < 0)) v.natAbs 0

end Sys2Proof.Machine
end

