-- ==== Sys2Proof/Machine/IntAlu.lean ====
section
/-! DEFINITION. Integer, bit, field and packed arithmetic of both streams (03 R76-R89), on unsigned codes of w bits. -/

namespace Sys2Proof.Machine
open Sys2Proof

/-- The low w bits of x as a two's-complement value (00 R10). -/
def sext (w x : Nat) : Int := let v := x % 2 ^ w; if v < 2 ^ (w - 1) then v else (v : Int) - (2 ^ w : Nat)
/-- The low w bits as an unsigned value. -/
def zext (w x : Nat) : Int := ((x % 2 ^ w : Nat) : Int)
/-- ext of R78. -/
def extOf (u : Bool) (w x : Nat) : Int := if u then zext w x else sext w x
/-- The low w bits of an integer. -/
def wrap (w : Nat) (v : Int) : Nat := (v % (2 ^ w : Nat)).toNat
/-- The smallest and largest value of a type. -/
def tyMin (u : Bool) (w : Nat) : Int := if u then 0 else -(2 ^ (w - 1) : Nat)
def tyMax (u : Bool) (w : Nat) : Int := if u then (2 ^ w : Nat) - 1 else (2 ^ (w - 1) : Nat) - 1
/-- clamp of R78. -/
def clampTo (u : Bool) (w : Nat) (v : Int) : Int := max (tyMin u w) (min (tyMax u w) v)
/-- fit of R78. -/
def fit (sat u : Bool) (w : Nat) (v : Int) : Nat := wrap w (if sat then clampTo u w v else v)

/-- Arithmetic of R78. -/
def iAdd (sat u : Bool) (w a b : Nat) : Nat := fit sat u w (extOf u w a + extOf u w b)
def iSub (sat u : Bool) (w a b : Nat) : Nat := fit sat u w (extOf u w a - extOf u w b)
def iMul (sat u : Bool) (w a b : Nat) : Nat := fit sat u w (extOf u w a * extOf u w b)
def iMad (sat u : Bool) (w a b c : Nat) : Nat := fit sat u w (extOf u w a * extOf u w b + extOf u w c)
def iMulhi (u : Bool) (w a b : Nat) : Nat := wrap w ((extOf u w a * extOf u w b) / (2 ^ w : Nat))
def iMin (u : Bool) (w a b : Nat) : Nat := wrap w (min (extOf u w a) (extOf u w b))
def iMax (u : Bool) (w a b : Nat) : Nat := wrap w (max (extOf u w a) (extOf u w b))
def iAbs (sat : Bool) (w a : Nat) : Nat := fit sat false w ((sext w a).natAbs : Int)
def iNeg (sat : Bool) (w a : Nat) : Nat := fit sat false w (-(sext w a))

/-- Division of R79, towards zero, with its borderline cases. -/
def iDiv (sat u : Bool) (w a b : Nat) : Nat :=
  let x := extOf u w a
  let y := extOf u w b
  if y = 0 then wrap w (if sat then (if x < 0 then tyMin u w else tyMax u w) else -1)
  else fit sat u w (x.tdiv y)
/-- Remainder of R79: the sign of the dividend. -/
def iRem (u : Bool) (w a b : Nat) : Nat :=
  let x := extOf u w a
  let y := extOf u w b
  if y = 0 then wrap w x else wrap w (x.tmod y)

/-- Bitwise operations of R80. -/
def iAnd (a b : Nat) : Nat := a &&& b
def iOr (a b : Nat) : Nat := a ||| b
def iXor (a b : Nat) : Nat := a ^^^ b
def iNot (w a : Nat) : Nat := 2 ^ w - 1 - a % 2 ^ w
def iAndn (w a b : Nat) : Nat := a &&& iNot w b

/-- Shifts of R80: the amount is not masked. -/
def iShl (w a s : Nat) : Nat := if s ≥ w then 0 else a <<< s % 2 ^ w
def iShr (w a s : Nat) : Nat := if s ≥ w then 0 else (a % 2 ^ w) >>> s
def iSra (w a s : Nat) : Nat := if s ≥ w then (if (a % 2 ^ w).testBit (w - 1) then 2 ^ w - 1 else 0) else wrap w (sext w a / (2 ^ s : Nat))
def iRotl (w a s : Nat) : Nat := let r := s % w; (a % 2 ^ w) <<< r % 2 ^ w ||| (a % 2 ^ w) >>> (w - r)

/-- The number of one bits among the low n. -/
def popcount : Nat → Nat → Nat
  | 0, _ => 0
  | n + 1, a => popcount n (a / 2) + a % 2
def iPopc (w a : Nat) : Nat := popcount w a
def iClz (w a : Nat) : Nat := let v := a % 2 ^ w; if v = 0 then w else w - 1 - Nat.log2 v
/-- Trailing zeros among the low n bits. -/
def iCtz : Nat → Nat → Nat
  | 0, _ => 0
  | n + 1, a => if a % 2 = 1 then 0 else iCtz n (a / 2) + 1
/-- The low n bits in reverse order. -/
def iBrev : Nat → Nat → Nat
  | 0, _ => 0
  | n + 1, a => (a % 2) * 2 ^ n + iBrev n (a / 2)

/-- bfe of R80: the source is extended without bound. -/
def iBfe (u : Bool) (w a b : Nat) : Nat :=
  let pos := b % 256
  let len := b / 256 % 256
  if len = 0 then 0 else wrap w (extOf u len (wrap len (extOf u w a / (2 ^ pos : Nat))))
/-- bfi of R80: bits pos to pos + len - 1 of a take the low bits of b. -/
def iBfi (w a b c : Nat) : Nat :=
  let pos := c % 256
  let len := c / 256 % 256
  let hi := min (pos + len) w
  if hi ≤ pos then a % 2 ^ w
  else
    let m := 2 ^ hi - 2 ^ pos
    (a &&& iNot w m) ||| ((b % 2 ^ (hi - pos)) <<< pos)

/-- The conditions of R81, F[2:0]. -/
def iCmp (cc w a b : Nat) : Bool :=
  match cc with
  | 0 => a == b
  | 1 => a != b
  | 2 => decide (sext w a < sext w b)
  | 3 => decide (sext w b ≤ sext w a)
  | 4 => decide (a < b)
  | _ => decide (b ≤ a)

/-- cvti of R83; a is 64 bits for the forms that read a pair. -/
def iCvt (f a : Nat) : Nat :=
  match f with
  | 0x0 => wrap 32 (sext 8 a)
  | 0x1 => a % 2 ^ 8
  | 0x2 => wrap 32 (sext 16 a)
  | 0x3 => a % 2 ^ 16
  | 0x4 => wrap 64 (sext 32 a)
  | 0x5 => a % 2 ^ 32
  | 0x6 => a % 2 ^ 32
  | 0x7 => wrap 32 (clampTo false 32 (sext 64 a))
  | 0x8 => wrap 32 (clampTo true 32 (zext 64 a))
  | 0x9 => wrap 32 (clampTo false 16 (sext 32 a))
  | 0xA => wrap 32 (clampTo true 16 (zext 32 a))
  | 0xB => wrap 32 (clampTo false 8 (sext 32 a))
  | 0xC => wrap 32 (clampTo true 8 (zext 32 a))
  | 0xD => wrap 32 (max 0 (sext 32 a))
  | _ => wrap 32 (min (2 ^ 31 - 1) (zext 32 a))

/-- lea of R84: F[3] zero-extends B, F[2:0] is the scale. -/
def iLea (f : BitVec 4) (a b : Nat) : Nat := wrap 64 (a + extOf (bit f 3) 32 b * (2 ^ bits f 2 0 : Nat))

/-- One byte of perm (R85). -/
def permByte (a b sel : Nat) : Nat :=
  let k := sel % 8
  let x := if k < 4 then a / 2 ^ (8 * k) % 256 else b / 2 ^ (8 * (k - 4)) % 256
  if sel ≥ 8 then (if x ≥ 128 then 255 else 0) else x
/-- perm of R85. -/
def iPerm (a b c : Nat) : Nat :=
  permByte a b (c % 16) + permByte a b (c / 16 % 16) * 2 ^ 8 + permByte a b (c / 256 % 16) * 2 ^ 16 + permByte a b (c / 4096 % 16) * 2 ^ 24

/-- Sub-element j of width e (R86). -/
def subEl (e x j : Nat) : Nat := x / 2 ^ (e * j) % 2 ^ e
/-- The register whose sub-elements are f 0, f 1, … -/
def packEls (e : Nat) (f : Nat → Nat) : Nat := (List.range (32 / e)).foldl (fun a j => a + f j % 2 ^ e * 2 ^ (e * j)) 0
/-- The sub-element width of PT (R86). -/
def ptWidth (f : BitVec 4) : Nat := if bit f 1 then 16 else 8

/-- padd, psub, pmul, pmin, pmax, pabs (R86), by opcode. -/
def iPacked (op : Nat) (f : BitVec 4) (a b : Nat) : Nat :=
  let e := ptWidth f
  let u := bit f 0
  let sat := bit f 3
  packEls e fun j =>
    let x := subEl e a j
    let y := subEl e b j
    match op with
    | 0x20 => iAdd sat u e x y
    | 0x21 => iSub sat u e x y
    | 0x22 => iMul sat u e x y
    | 0x23 => iMin u e x y
    | 0x24 => iMax u e x y
    | _ => iAbs sat e x

/-- pshl, pshr, psra (R87), by opcode. -/
def iPshift (op : Nat) (f : BitVec 4) (a b : Nat) : Nat :=
  let e := ptWidth f
  packEls e fun j =>
    let s := subEl e b j % 256
    match op with
    | 0x26 => iShl e (subEl e a j) s
    | 0x27 => iShr e (subEl e a j) s
    | _ => iSra e (subEl e a j) s

/-- pcmp (R86). -/
def iPcmp (f : BitVec 4) (a b : Nat) : Nat :=
  let e := ptWidth f
  let u := bit f 0
  packEls e fun j =>
    let x := extOf u e (subEl e a j)
    let y := extOf u e (subEl e b j)
    let t := match bits f 3 2 with | 0 => x == y | 1 => decide (x < y) | 2 => decide (y ≤ x) | _ => x != y
    if t then 2 ^ e - 1 else 0

/-- A sum over sub-elements. -/
def sumEls (e : Nat) (f : Nat → Int) : Int := (List.range (32 / e)).foldl (fun a j => a + f j) 0

/-- pdot (R86). -/
def iPdot (f : BitVec 4) (a b c : Nat) : Nat :=
  let e := ptWidth f
  let u := bit f 0
  fit (bit f 3) u 32 (extOf u 32 c + sumEls e fun j => extOf u e (subEl e a j) * extOf u e (subEl e b j))

/-- ppack (R88). -/
def iPpack (f : BitVec 4) (a b : Nat) : Nat :=
  let u := bit f 0
  let sat := bit f 3
  if bit f 1 then
    fit sat u 8 (sext 16 (subEl 16 a 0)) + fit sat u 8 (sext 16 (subEl 16 a 1)) * 2 ^ 8
      + fit sat u 8 (sext 16 (subEl 16 b 0)) * 2 ^ 16 + fit sat u 8 (sext 16 (subEl 16 b 1)) * 2 ^ 24
  else fit sat u 16 (sext 32 a) + fit sat u 16 (sext 32 b) * 2 ^ 16

/-- punpk (R88). -/
def iPunpk (f : BitVec 4) (a : Nat) : Nat :=
  let u := bit f 0
  let h := if bit f 2 then 1 else 0
  if bit f 1 then wrap 32 (extOf u 16 (subEl 16 a h))
  else wrap 16 (extOf u 8 (subEl 8 a (2 * h))) + wrap 16 (extOf u 8 (subEl 8 a (2 * h + 1))) * 2 ^ 16

/-- sad (R86). -/
def iSad (f : BitVec 4) (a b c : Nat) : Nat :=
  let e := if f == 1 then 16 else 8
  wrap 32 (zext 32 c + sumEls e fun j => ((zext e (subEl e a j) - zext e (subEl e b j)).natAbs : Int))

/-- The scalar integer instructions of R89, by opcode: F, the old D, A and B as 64-bit codes. -/
def sAlu (op f : Nat) (d a b : Nat) : Nat :=
  let u := f == 1
  match op with
  | 0x00 => iAdd (f != 0) (f == 2) 64 a b
  | 0x01 => iSub (f != 0) (f == 2) 64 a b
  | 0x02 => iMul (f != 0) (f == 2) 64 a b
  | 0x03 => iMulhi u 64 a b
  | 0x04 => iDiv false u 64 a b
  | 0x05 => iRem u 64 a b
  | 0x06 => iMin u 64 a b
  | 0x07 => iMax u 64 a b
  | 0x08 => iAnd a b
  | 0x09 => iOr a b
  | 0x0A => iXor a b
  | 0x0B => iAndn 64 a b
  | 0x0C => iShl 64 a b
  | 0x0D => iShr 64 a b
  | 0x0E => iSra 64 a b
  | 0x0F => iBfe (f == 0) 64 a b
  | 0x10 => iBfi 64 d a b
  | 0x11 => iPopc 64 a
  | 0x12 => iClz 64 a
  | 0x13 => iCtz 64 a
  | 0x14 => b
  | 0x16 => if extOf u 64 a < extOf u 64 b then 2 ^ 64 - 1 else if a = b then 0 else 1
  | 0x17 => if d ≠ 0 then a else b
  | _ => wrap 64 (a + b * 2 ^ f)

end Sys2Proof.Machine
end

