-- ==== Sys2Proof/Machine/TeamState.lean ====
section
/-! DEFINITION. The state of a group, of a team and of its scalar stream (01 R21-R27; 02 R49, R60; 03 R66-R68; 05 R125;
06 R150; 15 R394), as plain data. -/

namespace Sys2Proof.Machine
open Sys2Proof

/-- A class-H cause with its TVAL (06 R158). -/
structure Trap where
  cause : Nat
  tval : W64
  deriving DecidableEq, Repr

/-- A replayable translation fault, as its fault-queue entry holds it (06 R160). -/
structure PageReq where
  vaddr : W64
  kind : Nat
  write : Bool
  exec : Bool
  /-- STAGE: the host's tables. -/
  stage2 : Bool
  /-- HOST: host memory, served through ATS and PRI. -/
  host : Bool := false
  /-- The post stands in the fault queue (06 R161). -/
  posted : Bool := false
  /-- The driver has answered it with failure. -/
  failed : Bool := false
  deriving DecidableEq, Repr

/-- A hit or candidate of a ray, with the words trace returns (12 R347). -/
structure Hit where
  /-- A procedural candidate. -/
  proc : Bool
  /-- Its place in the structure: the child numbers that lead to it. -/
  path : List Nat
  t : W32
  b1 : W32
  b2 : W32
  prim : W32
  /-- INSTID, and the hit kind in bits 31:24. -/
  inst : W32
  geom : W32
  /-- The record index, and that it was at or above the count. -/
  index : W32
  range : Bool
  deriving DecidableEq, Repr

/-- The operands of a trace in one lane (12 R346): A to A+7, C, and the three s registers. -/
structure RayArgs where
  regs : List W32 := []
  ctl : W32 := 0
  root : W64 := 0
  tableBase : W64 := 0
  tableLen : W64 := 0
  deriving DecidableEq, Repr

/-- The ray slot of one lane (12 R346-R349). -/
structure RaySlot where
  /-- The ray it carries, and the operands of the last trace: a pre-emption starts it again from them (12 R357). -/
  args : RayArgs := {}
  again : RayArgs := {}
  /-- The first word of the last trace. -/
  word : W32 := 0
  /-- A trace is in flight: the window that receives its result, and the first register. -/
  busy : Bool := false
  window : Nat := 0
  dest : Nat := 0
  /-- The current upper limit of t. -/
  limit : W32 := 0
  /-- The hits and candidates that traversal has dealt with. -/
  found : List (List Nat) := []
  /-- Its entries of the core's candidate queue, oldest first. -/
  queue : List Hit := []
  best : Option Hit := none
  /-- The pending candidate. -/
  candidate : Option Hit := none
  /-- The ray ends: FIRST, and an acceptance. -/
  finished : Bool := false
  nested : Bool := false
  badNode : Bool := false
  /-- INSTID of a hit outside instances, which the manual does not give (DESIGN CHOICE, log 28). -/
  outside : W32 := 0
  park : List PageReq := []
  deriving DecidableEq, Repr

/-- What a long-latency instruction reads at its issue (02 R49): v, g and s registers, and its fragment's mask. -/
structure Issued where
  v : Store LaneVec
  g : Store W32
  s : Store W64
  mask : Mask
  deriving DecidableEq, Repr

/-- The fault of a long-latency instruction whose window is open (01 R33). -/
inductive Late where
  /-- A trap of class H, not reported yet. -/
  | trap (t : Trap)
  /-- Replayable faults, not posted yet. -/
  | page (ps : List PageReq) (r : Issued)
  /-- The fragment has parked on them: the access replays with what the instruction read. -/
  | parked (r : Issued)
  deriving DecidableEq, Repr

/-- A lookahead window and its return-buffer entry (02 R49, R50) (DESIGN CHOICE, log 14) (DESIGN CHOICE, log 53). -/
structure Window where
  /-- Names the entry for answers that arrive later. -/
  id : Nat
  /-- Following instructions that may still issue before the close. -/
  left : Nat
  /-- Registers, lanes and values written at the close. -/
  writes : List (Nat × Mask × LaneVec) := []
  /-- FPCTL flags ORed at the close (04 R96). -/
  flags : W32 := 0
  /-- MBND and the MSTAT bits of a readout, applied at the close (08 R230). -/
  readout : Option (W64 × W32) := none
  /-- Answers still to arrive. -/
  waiting : Nat := 0
  /-- Address and length of the long-latency instruction. -/
  pc : W64 := 0
  len : Nat := 0
  /-- Its fault, and how many following instructions complete before it is reported (01 R33). -/
  fault : Option Late := none
  after : Nat := 0
  /-- Following instructions issued so far. -/
  passed : Nat := 0
  /-- Of a patom that a replayable fault holds: its routine index (14 R385). -/
  patom : Option Nat := none
  /-- The lane of its fault, where lanes fail one by one: the lowest counts (06 R156). -/
  faultLane : Nat := 0
  /-- Of a trace: its lanes, and the slots they had before it, which a trap of it gives back (14 R389). -/
  rays : Option (Mask × Store RaySlot) := none
  deriving DecidableEq, Repr

/-- A PC slot (05 R125) (DESIGN CHOICE, log 53). -/
structure Fragment where
  valid : Bool := false
  pc : W64 := 0
  mask : Mask := 0
  bracket : Bool := false
  bsave : Mask := 0
  windows : List Window := []
  /-- Window instructions that eret passes over (06 R165); hold: once the instruction at pc has executed. -/
  skip : Nat := 0
  hold : Bool := false
  /-- Windows of instructions among them whose own fault is not reported yet: each stands again when its instruction is
  passed over (DESIGN CHOICE, log 14). -/
  kept : List Window := []
  /-- Parked on these replayable faults (06 R161). -/
  park : List PageReq := []
  /-- Address and routine index of a patom that a replayable fault holds at its issue (14 R385). -/
  patom : Option (W64 × Nat) := none
  /-- A unit of a rdv.arr or rdv.drop is on its way to its point (15 R397). -/
  inRdv : Bool := false
  /-- Its dqtake has begun to wait (15 R411). -/
  dqWait : Bool := false
  deriving DecidableEq, Repr

/-- A record of the split table (05 R125, R129-R133; 14 R387). The list of a group is in creation order. -/
structure SplitRec where
  token : Nat
  expected : Mask
  arrived : Mask := 0
  cont : W64 := 0
  /-- The join at which the first arrival waited (05 R136). -/
  joinPc : W64 := 0
  pending : Bool := false
  armed : Bool := false
  budget : Nat := 0
  /-- The fragments that its timer's expiries released and that wait for a slot, oldest first: lanes, and where they go on
  (05 R133). -/
  released : List (Mask × W64) := []
  deriving DecidableEq, Repr

/-- A trap of the other fragment, held while a handler runs (06 R151). -/
structure HeldTrap where
  slotB : Bool
  pc : W64
  len : Nat
  wdone : Nat
  trap : Trap
  deriving DecidableEq, Repr

/-- A group (01 R21). -/
structure Group where
  gid : Nat := 0
  role : Nat := 0
  /-- v registers that have been written; the others read their launch or fill value (03 R66). -/
  v : Store LaneVec := []
  /-- g3-g63 (03 R66); g0:g2 are the fragment's mask. -/
  g : Store W32 := []
  vcount : Nat := 32
  helper : Mask := 0
  fpctl : W32 := 0
  tpc : W64 := 0
  tcause : W32 := 0
  tval : W64 := 0
  tstat : W32 := 0
  held : Option HeldTrap := none
  /-- Cause and address of the last trap entry: eret asks whether TPC still names them (06 R165). -/
  trapCause : Nat := 0
  trapPc : W64 := 0
  /-- The trap came as the instruction at trapPc was to be passed over: eret does not execute it again (01 R33). -/
  trapPass : Bool := false
  slotA : Fragment := {}
  slotB : Fragment := {}
  split : List SplitRec := []
  spills : Nat := 0
  dormant : Mask := 0
  /-- Decision-queue entries taken (05 R140). -/
  taken : Nat := 0
  /-- One ray slot per lane (12 R346). -/
  rays : Store RaySlot := []
  /-- Residency slot 0-15 (11 R313). -/
  slot : Nat := 0
  /-- The group has ended (05 R132). -/
  ended : Bool := false
  /-- Windows opened so far: the next window's name. -/
  opened : Nat := 0
  deriving DecidableEq, Repr

/-- A kernel header (02 R60). -/
structure Header where
  groups : Nat := 1
  vregs32 : Nat := 1
  rdv : Nat := 0
  spill : Nat := 0
  poison : Bool := false
  raceCheck : Bool := false
  spad : Nat := 384
  recCount : Nat := 0
  featMask : BitVec 128 := 0
  roleMap : W64 := 0
  laneEntry : W64 := 0
  scalarEntry : W64 := 0
  trapHandler : W64 := 0
  emuHandler : W64 := 0
  recTab : W64 := 0
  deriving DecidableEq, Repr

/-- A rendezvous point (15 R394). -/
structure Point where
  arrived : W32 := 0
  expected : W32 := 0
  phase : W32 := 0
  init : Bool := false
  deriving DecidableEq, Repr

/-- A unit on its way to a point (15 R395, R397), and where its phase goes. -/
structure ArrUnit where
  point : Nat
  units : Nat
  drop : Bool := false
  /-- Sent by the fragment of this group and slot; none for the scalar stream or an engine. -/
  frag : Option (Nat × Bool) := none
  /-- Sent by the scalar stream. -/
  scalar : Bool := false
  /-- The g register (fragment) or s register (scalar stream) that receives the phase. -/
  dest : Option Nat := none
  deriving DecidableEq, Repr

/-- An operation slot of the matrix engine (08 R209, R218, R219). Its k-steps done are MPROGn (DESIGN CHOICE, log 53). -/
structure MatOp where
  /-- 0 mmul, 1 mmulp, 2 mmv. -/
  kind : Nat
  word : W32
  e1 : W32
  e2 : W32
  pc : W64
  /-- Issue order among the team's matrix commands. -/
  order : Nat
  /-- Values of the s registers that A and B name, at issue. -/
  a : W64
  b : W64
  feedBase : W32 := 0
  /-- The governor has granted the array. -/
  granted : Bool := false
  /-- It lost the grant in a wait on its feed point or its partner, and asks again when the wait ends (08 R220). -/
  feedWait : Bool := false
  /-- Parked on replayable faults (08 R239). -/
  park : List PageReq := []
  deriving DecidableEq, Repr

/-- A queued accumulator command (08 R231, R232). -/
structure MaccOp where
  /-- 0 macc.ld, 1 macc.st, 2 macc.rb, 3 macc.clr. -/
  kind : Nat
  e1 : W32
  order : Nat
  a : W64
  b : W64
  deriving DecidableEq, Repr

/-- One lane of a ring action: its field, operand and new value, the unsatisfied passages of a wcap.until and the field at
the last one, and its result once it has performed (09 R249, R254). The scalar forms have one lane. -/
structure RingLane where
  lane : Nat
  field : Nat := 0
  b : W64 := 0
  new : W64 := 0
  passes : Nat := 0
  last : W64 := 0
  /-- Value and status code (09 R252). -/
  result : Option (W64 × Nat) := none
  deriving DecidableEq, Repr

/-- What a ring action in a stop's queue is doing (09 R256, R257). -/
inductive RingPhase where
  /-- Watching the slots that pass. -/
  | watch
  /-- A board waits for an alighting slot of its key. -/
  | alightWait (slot : Nat)
  /-- A board holds a pending claim. -/
  | claimed (slot : Nat)
  /-- A board has lost and waits for a landed slot of its key. -/
  | lost
  /-- A home write has been issued; it has performed when stored. -/
  | home (slot : Nat) (stored : Bool)
  /-- A home write has failed: the slot is landed again at its next passage, and the issuer traps. -/
  | homeFail (slot : Nat) (t : Trap)
  deriving DecidableEq, Repr

/-- A ring action: the lanes of one instruction that name one key (09 R258). -/
structure RingAct where
  /-- 0 board, 1 alight, 2 wcap, 3 wcap.until, 4 wrew, 5 cvtq, 6 amxcom. -/
  kind : Nat
  /-- Issue order in the package: queue order at a stop. -/
  id : Nat
  uid : Nat
  vf : Nat
  ctx : Nat
  /-- Group and window of a lane instruction; none for the scalar stream. -/
  win : Option (Nat × Nat) := none
  pc : W64 := 0
  /-- First register of the result block, or the s registers of value and status. -/
  dest : Nat := 0
  stReg : Nat := 0
  key : W32
  /-- The control word (09 R249), or cvtq's F and maximum. -/
  cw : W32 := 0
  op : Nat := 0
  amax : W32 := 0
  home : Option W64 := none
  lanes : List RingLane := []
  phase : RingPhase := .watch
  /-- It has entered the queue (09 R259). -/
  entered : Bool := false
  /-- The ring step from which its present revolution counts. -/
  since : Nat := 0
  /-- A home write parked on a replayable fault. -/
  park : List PageReq := []
  deriving DecidableEq, Repr

/-- A draw descriptor (12 R330). -/
structure Draw where
  ordered : Bool := false
  larger : Bool := false
  cull : Nat := 0
  vrec : Nat := 0
  draw : Nat := 0
  /-- XS, XO, YS, YO, ZS, ZO. -/
  view : List W32 := []
  x0 : Nat := 0
  y0 : Nat := 0
  x1 : Nat := 0
  y1 : Nat := 0
  phdr : W64 := 0
  pargs : W64 := 0
  deriving DecidableEq, Repr

/-- A tile of a primitive for which a coverage or pixel team runs (12 R338, R340): coverage and depths of its 64 pixels, in
the order of the team's lanes. -/
structure RasterJob where
  tx : Nat
  ty : Nat
  id : W64
  /-- DW, where it has a meaning. -/
  dw : Bool
  cov : List Nat
  depth : List (List W32)
  deriving DecidableEq, Repr

/-- What a raster team knows of its draw (12 R338-R340). -/
structure Raster where
  /-- The emitting team, and the issue number of the batch. -/
  parent : Nat
  batch : Nat
  draw : Draw
  /-- The visibility image's record. -/
  img : Nat
  job : RasterJob
  /-- The last cover of each lane: its mask, and its depth where that has a meaning. -/
  covers : Store (Nat × Option W32) := []
  deriving DecidableEq, Repr

/-- A triangle in the viewport: X, Y and W of its vertices as integers, and z where it is finite. -/
structure Tri where
  x : List Int
  y : List Int
  w : List Int
  z : List (Option Int)
  deriving DecidableEq, Repr

/-- A batch progress record (12 R327, R332). -/
structure Batch where
  /-- The number of its emitend. -/
  order : Nat
  gid : Nat
  /-- The window that receives the status, its register and lanes, and the emitend's first word. -/
  window : Nat
  dest : Nat
  mask : Mask
  word : W32
  /-- Offset of the batch, its header fields, and its bytes at the emitend. -/
  off : Nat
  vcount : Nat
  pcount : Nat
  pbase : Nat
  bytes : Nat
  /-- The descriptor's address and content, the record of the visibility image, the raster teams' header. -/
  desc : W64
  draw : Draw
  img : Nat
  hdr : Header
  /-- The next primitive; once it is set up, its word and triangle, and the next of its tiles (12 R357). -/
  next : Nat := 0
  setup : Option (Nat × Tri) := none
  tile : Nat := 0
  drawn : Nat := 0
  culled : Nat := 0
  hz : Nat := 0
  /-- Tiles that wait for their team, in order, and teams that run, with the tile of each. -/
  jobs : List RasterJob := []
  running : List (Nat × Nat × Nat) := []
  park : List PageReq := []
  fault : Option Trap := none
  deriving DecidableEq, Repr

/-- A team (01 R21) and its scalar stream (DESIGN CHOICE, log 53). -/
structure Team where
  /-- Where it lives. -/
  live : Bool := false
  vf : Nat := 0
  ctx : Nat := 0
  launch : Nat := 0
  core : Nat := 0
  index : Nat := 0
  teams : Nat := 1
  /-- SPAN of the launch: teams of a span; 0 without spans (11 R298). -/
  span : Nat := 0
  prio : Nat := 0
  hdr : Header := {}
  groups : Store Group := []
  /-- s1-s127 (03 R66). -/
  s : Store W64 := []
  spc : W64 := 0
  /-- The scalar stream has not executed sexit. -/
  srun : Bool := true
  spark : List PageReq := []
  sinRdv : Bool := false
  /-- Set while a scalar instruction has begun and waits to complete: its phase (08-11). -/
  sphase : Nat := 0
  /-- Its words, as they were fetched (02 R51). -/
  begun : Option (W32 × W32 × W32) := none
  sFpctl : W32 := 0
  sTpc : W64 := 0
  sTcause : W32 := 0
  sTval : W64 := 0
  sTstat : W32 := 0
  sTrapCause : Nat := 0
  sTrapPc : W64 := 0
  /-- Failed engine operations, taken at the scalar stream's next issue (06 R161); one that names its own instruction has its
  address (06 R163). -/
  engineFault : List (Trap × Option W64) := []
  /-- Decision queue: entries held, and entries freed so far (05 R125). -/
  dq : List W64 := []
  dqFreed : Nat := 0
  vpool : Nat := 0
  winBase : Nat := 0
  win : Store Byte := []
  points : Store Point := []
  units : List ArrUnit := []
  raceGen : W32 := 0
  race : Store (Nat × W32) := []
  perfReq : Nat := 15
  mbnd : W64 := 0
  mstat : W32 := 0
  mprog : Store W32 := []
  matOps : Store MatOp := []
  maccOps : List MaccOp := []
  /-- Matrix commands issued so far. -/
  matIssued : Nat := 0
  /-- ACM slots that the team's commands have named (08 R209). -/
  acmUsed : BitVec 16 := 0
  /-- The ACM bytes a save holds, and that the team owned the ACM (08 R235). -/
  acmSaved : Option (Store Byte) := none
  /-- A team that the raster co-processor started (12 R338). -/
  raster : Option Raster := none
  /-- The batches of its groups, by progress record 0-15 of its core (12 R327). -/
  batches : Store Batch := []
  /-- Ring actions cancelled by a pre-emption: they issue again on resume (09 R260). -/
  ringHeld : List RingAct := []
  /-- The word, packet and scope of a slaunch that waits for room (11 R308). -/
  launching : Option (S32 × List W64 × Nat) := none
  /-- Engine commands an xdrain waits for, by kind, issuer and number (10 R283). -/
  drain : List (Nat × Nat × Nat) := []
  /-- Stopped for a pre-emption or an abort: nothing of it issues (11 R319, 06 R155). -/
  stopped : Bool := false
  /-- Stopped by a launch abort or a context stop (06 R155, R159). -/
  aborted : Bool := false
  /-- By a context stop: its cores are scrubbed (06 R159). -/
  scrubbed : Bool := false
  deriving DecidableEq, Repr

end Sys2Proof.Machine
end

