-- ==== Sys2Proof/Machine/HostState.lean ====
section
/-! DEFINITION. The state of functions, contexts, queues, launches, cores and clusters (11 R294-R326; 14 R383-R393;
15 R400-R412), as plain data. -/

namespace Sys2Proof.Machine
open Sys2Proof

/-- A host packet that was taken (11 R296, R300): whether its completion advances QFENCE, and whether it completed. -/
structure Taken where
  launch : Nat
  fence : Bool
  done : Bool := false
  deriving DecidableEq, Repr

/-- A work queue (11 R295, R297) (DESIGN CHOICE, log 3). -/
structure Queue where
  base : W64 := 0
  n : Nat := 0
  ctx : Nat := 0
  enable : Bool := false
  tail : Nat := 0
  head : Nat := 0
  /-- QSTAT. -/
  stat : W64 := 0
  fence : Nat := 0
  /-- Packets taken and not yet retired, oldest first. -/
  taken : List Taken := []
  deriving DecidableEq, Repr

/-- A finish scope (11 R302, R306). -/
structure Scope where
  valid : Bool := false
  hasParent : Bool := false
  parent : Nat := 0
  count : Nat := 0
  err : Bool := false
  cause : Nat := 0
  team : Nat := 0
  tpc : W64 := 0
  tval : W64 := 0
  deriving DecidableEq, Repr

/-- An entry of a home slice's write queue (07 R203). -/
structure RedEntry where
  line : Nat
  op : Nat
  /-- Element type: 0 i, 1 n, 2 f; and width in bytes. -/
  ty : Nat
  width : Nat
  /-- Partial operand of each element, by its offset in the line. -/
  partials : Store W64
  deriving DecidableEq, Repr

/-- What memory held when a launch's packet arrived (02 R40, R61): device memory with the write queues of its home slices, and host
memory (DESIGN CHOICE, log 58). -/
structure Snapshot where
  mem : Store Byte := []
  hostMem : Store Byte := []
  redQueues : Store (List RedEntry) := []
  deriving DecidableEq, Repr

/-- A launch packet that was taken, from a host queue or from slaunch (11 R298, R308). -/
structure Packet where
  words : List W64
  /-- Address of the packet (02 R61, R306). -/
  addr : W64
  /-- Host packets: the queue and the ring index; none for a device packet. -/
  queue : Option (Nat × Nat) := none
  /-- The slaunch's address (11 R306). -/
  tpc : W64 := 0
  /-- The scope that holds the launch token; none when FSCOPE names no host scope (11 R303). -/
  scope : Option Nat := none
  launch : Nat := 0
  /-- When it arrived: the kernel header it names, where that could be read (02 R61), and memory (02 R40). -/
  seen : Option Nat := none
  code : Snapshot := {}
  deriving DecidableEq, Repr

/-- An accepted launch (01 R28). -/
structure Launch where
  vf : Nat
  ctx : Nat
  hdr : Header
  args : W64
  teams : Nat
  span : Nat
  prio : Nat
  scope : Nat
  queue : Option Nat := none
  /-- Logical core of each team (11 R299). -/
  place : List Nat := []
  /-- Teams that have not started, ascending (11 R301). -/
  waiting : List Nat := []
  /-- Teams that have ended, stopped or been discarded. -/
  ended : Nat := 0
  aborted : Bool := false
  /-- Acceptance order. -/
  order : Nat := 0
  /-- Memory when its packet arrived: a fetch may still see it (02 R40). -/
  code : Option Snapshot := none
  deriving DecidableEq, Repr

/-- The phase of a pre-emption (11 R319). -/
inductive Phase where
  | none
  | grace
  | stop
  | save
  deriving DecidableEq, Repr

/-- A publish set (10 R284; 14 R383). -/
structure PubSet where
  valid : Bool := false
  vbase : W64 := 0
  len : Nat := 0
  pbase0 : Nat := 0
  pbase1 : Nat := 0
  cur : Bool := false
  gen : W32 := 0
  inflight : Nat := 0
  deriving DecidableEq, Repr

/-- A core entry of the repair map, and what HEALTH adds (14 R390, R391). -/
structure CoreMap where
  phys : Nat := 0
  present : Bool := false
  feat0 : BitVec 16 := 0
  featLoss : Bool := false
  deriving DecidableEq, Repr

/-- A measurement of the repair map that bring-up built (00 R16): cores, channels and stack units. -/
structure Measurement where
  coreMap : Store CoreMap := []
  channelMap : Store (BitVec 9) := []
  stackMap : Store Bool := []
  deriving DecidableEq, Repr

/-- A copy command in a copy engine (10 R276-R281). -/
structure CopyOp where
  /-- Names the command among the package's engine commands. -/
  order : Nat
  uid : Nat
  vf : Nat
  ctx : Nat
  e1 : W32
  e2 : W32
  f : Nat
  src : W64
  dst : W64
  /-- SCD in MX mode. -/
  scd : W64 := 0
  /-- Bound at issue: the team and window offset of a source or destination in a window (10 R279). -/
  srcTeam : Option (Nat × Nat) := none
  dstTeam : Option (Nat × Nat) := none
  /-- The publish set written, if any, and the backing: the shadow when the command issued (10 R285). -/
  pub : Option (Nat × Bool) := none
  /-- Words (blocks in MX mode) written so far, by number. -/
  written : List Nat := []
  /-- Source words read before an overlapping destination word was written over them (10 R280). -/
  held : Store Nat := []
  park : List PageReq := []
  failed : Bool := false
  deriving DecidableEq, Repr

/-- A collective command of a rank (10 R288, R289). -/
structure CollOp where
  /-- Names the command among the package's engine commands. -/
  order : Nat
  uid : Nat
  vf : Nat
  ctx : Nat
  core : Nat
  e1 : W32
  e2 : W32
  f : Nat
  src : W64
  dst : W64
  /-- The participation word. -/
  part : W64
  pub : Option (Nat × Bool) := none
  /-- The rank is of a peer device, and comes over Wolyn Link (10 R289). -/
  peer : Bool := false
  park : List PageReq := []
  /-- Its destination is complete, and its arrival has not been made. -/
  written : Bool := false
  /-- Its destination is complete and its arrival made. -/
  done : Bool := false
  deriving DecidableEq, Repr

/-- A context (11 R294, R302, R316-R326) (DESIGN CHOICE, log 3). -/
structure Context where
  /-- CTXSTAT[1:0]: 0 free, 1 ready, 2 running, 3 lost. -/
  state : Nat := 0
  error : Nat := 0
  saveBase : W64 := 0
  saveSize : W64 := 0
  root : W64 := 0
  scopes : Store Scope := []
  /-- Device packets that wait (11 R308). -/
  devq : List Packet := []
  /-- Taken packets that wait for their check (01 R28). -/
  checking : List Packet := []
  phase : Phase := .none
  /-- Teams written into the save area (11 R322), with the core each left. -/
  saved : Store Team := []
  /-- Copies stopped by the save, with the core each left, and collectives withdrawn by it (11 R320). -/
  heldCopies : List (Nat × CopyOp) := []
  heldColls : List CollOp := []
  /-- What the save wrote, page by page: a resume compares it (14 R388). -/
  saveImage : List Nat := []
  deriving DecidableEq, Repr

/-- An entry written into the fault queue and not yet answered (06 R161). -/
structure FaultEntry where
  page : W64
  ctx : Nat
  deriving DecidableEq, Repr

/-- A function: the registers of a VF's window (11 R294; 14 R393; 15 R411) and of the PF's window that are kept per VF (DESIGN CHOICE, log 3) (DESIGN CHOICE, log 52). -/
structure Vf where
  enabled : Bool := false
  errPending : Bool := false
  errCause : Nat := 0
  qsel : Nat := 0
  queues : Store Queue := []
  hcinv : W64 := 0
  fqBase : W64 := 0
  fqN : Nat := 0
  /-- E, entries written since FQCFG was written (06 R161). -/
  fqWritten : Nat := 0
  fqCons : W32 := 0
  fqSeq : W32 := 0
  faults : List FaultEntry := []
  fssel : Nat := 0
  ctxsel : Nat := 0
  ctxs : Store Context := []
  atrSel : Nat := 0
  atrAddr : W64 := 0
  atrStat : Nat := 0
  routines : Store (List W32) := []
  /-- ATRSTAT.BUSY: the entry that is to change, and its new words; none for a removal (14 R385). -/
  atrPending : Option (Nat × Option (List W32)) := none
  pmEn : Bool := false
  pmEv : Store Nat := []
  pmCev : Store Nat := []
  pubs : Store PubSet := []
  /-- The device of the link group that holds a rank; 0, this device, for one not listed (10 R290) (DESIGN CHOICE, log 57). -/
  rankDevice : Store Nat := []
  ringHeld : Nat := 0
  /-- The context that ran last, and the queue served last: the rotation goes on after them (11 R296, R316), and it begins
  at the lowest of each (DESIGN CHOICE, log 3). -/
  lastCtx : Nat := 15
  lastQueue : Nat := 65535
  -- PF registers kept per VF
  part : W32 := 0
  qFirst : Nat := 0
  qCount : Nat := 0
  quota : Nat := 0
  saveB : Nat := 0
  saveG : Nat := 0
  slice : Nat := 0
  s2root : W64 := 0
  heads : BitVec 16 := 0
  wdog : W32 := 1000000
  perfMin : Nat := 5
  perfMax : Nat := 15
  perfDef : Nat := 15
  deriving DecidableEq, Repr

/-- A collective that its first command has opened in the engine of a die (10 R289). -/
structure Coll where
  vf : Nat
  key : W32
  /-- Joined commands, by rank. -/
  ranks : Store CollOp := []
  /-- The elements that the destinations receive, once every rank's source has been read. -/
  result : Option (List Nat) := none
  deriving DecidableEq, Repr

/-- A slot of the Weft Ring (09 R244, R245). -/
structure RingSlot where
  key : W32 := 0
  /-- 0 empty, 1 pending, 2 landed, 3 alighting (09 R244). -/
  st : Nat := 0
  vf : Nat := 0
  /-- Position of the stop that claimed it. -/
  bpos : Nat := 0
  /-- HOME with HV = 1. -/
  home : Option W64 := none
  /-- The payload's 64 bytes, little-endian. -/
  payload : BitVec 512 := 0
  /-- The action that claimed it, while pending. -/
  claim : Nat := 0
  /-- The claim has lost: the slot becomes empty when it next passes BPOS (09 R256). -/
  lost : Bool := false
  /-- An abandoned home write: landed again when it next passes this position (09 R260). -/
  revert : Option Nat := none
  deriving DecidableEq, Repr

/-- A logical core (01 R19) (DESIGN CHOICE, log 3). -/
structure Core where
  /-- The last value a read of CYC gave (03 R68). -/
  cyc : W64 := 0
  /-- The record cache: records by launch × 256 + index (14 R379). -/
  recs : Store Nat := []
  /-- ACM bytes by flat offset 16 KiB × slot (08 R209). -/
  acm : Store Byte := []
  acmOwner : Option Nat := none
  copies : Store CopyOp := []
  /-- Stop queues, one per strand (09 R259). -/
  stops : Store (List RingAct) := []
  pmc : Store Nat := []
  laneIssued : Nat := 0
  ksteps : Nat := 0
  scalarIssued : Nat := 0
  sramErrors : Nat := 0
  /-- Of them, those counted in the present second of the management processor's clock (15 R412). -/
  sramSecond : Nat := 0
  eff : Nat := 15
  grant : Nat := 15
  /-- The level the core's clock runs at: a changed EFF takes effect later (15 R402). -/
  clock : Nat := 15
  quarantined : Bool := false
  deriving DecidableEq, Repr

/-- A cluster: its current record, governor and counters (15 R400-R409), and its spares (14 R391) (DESIGN CHOICE, log 3) (DESIGN CHOICE, log 23). -/
structure Cluster where
  crec : W32 := 0
  crecLast : W32 := 0
  /-- PAIRTH, which the scheduler compares charges with: who issues next is the agenda's (11 R314; DESIGN CHOICE, log 1). -/
  pairTh : Nat := 1536
  /-- Arrays (cores) that asked for a start, in order of arrival. -/
  requests : List Nat := []
  /-- Arrays that run a k-step, and arrays that run ballast, in the present step. -/
  running : List Nat := []
  ballast : List Nat := []
  /-- Step index of the ramp in the next step; 16 stands for beyond 15. -/
  ramp : Nat := 0
  /-- Steps since an array last ran; idle at reset (15 R403, DESIGN CHOICE, log 23). -/
  idle : Nat := 16
  /-- The governor parameters in force, taken at an idle period. -/
  rampTab : W64 := 0x8888444422221111
  down : Nat := 2
  idleMax : Nat := 16
  ccs : Store Nat := []
  ballastSteps : Nat := 0
  ungranted : Nat := 0
  effCuts : Nat := 0
  spares : List Nat := []
  degraded : Bool := false
  disabled : Bool := false
  /-- Powered: it belongs to a partition and its 20 µs have passed (15 R408). -/
  on : Bool := false
  deriving DecidableEq, Repr

end Sys2Proof.Machine
end

