-- ==== Sys2Proof/Machine/ScanState.lean ====
section
/-! DEFINITION. The state of a Scan Engine head and its line sequencer (13 R359-R377), as plain data. -/

namespace Sys2Proof.Machine
open Sys2Proof

/-- A latched frame (13 R362, R366): where it lies, and the bytes it held when it was latched. A pixel written since reads
as an unspecified value. -/
structure Latched where
  base : Nat
  gen : W32
  snap : Store Byte
  deriving DecidableEq, Repr

/-- What has become of a band of the present frame (13 R363, R371, R372). -/
structure BandInfo where
  /-- Its program has ended, or the fallback mode has begun to write it. -/
  ended : Bool := false
  /-- Its lput has completed. -/
  put : Bool := false
  faulted : Bool := false
  /-- A frame had been latched by its end. -/
  latched : Bool := false
  /-- Written, or being written, in fallback mode. -/
  mode : Bool := false
  /-- An uncorrectable error in its slot (13 R376). -/
  ue : Bool := false
  /-- Where its lput has completed: the cycles left to its deadline then, div 64, saturated (13 R374). -/
  margin : Nat := 0
  deriving DecidableEq, Repr

/-- A fallback write that has begun (13 R371): its band, its code, and what it reads; no frame for a blank band. -/
structure Fallback where
  band : Nat
  code : Nat
  frame : Option Latched
  motion : Bool
  phase : Nat
  pose : W64
  deriving DecidableEq, Repr

/-- A head (13 R358) (DESIGN CHOICE, log 3) (DESIGN CHOICE, log 53). -/
structure Head where
  /-- s1-s31 of the line sequencer (13 R362). -/
  s : Store W64 := []
  /-- Program counter, in words of the program bank (13 R362). -/
  pc : Nat := 0
  /-- The engine cycle at which the next instruction issues, and that of End of the last program (13 R363, R365). -/
  now : Int := 0
  /-- The next instruction waits, or does not complete by the deadline. -/
  held : Bool := false
  /-- It has waited, for a time that the machine does not fix (DESIGN CHOICE, log 1). -/
  waited : Bool := false
  /-- A program fault that the instruction in focus makes: its cause (13 R364). -/
  fault : Option Nat := none
  -- registers (13 R359)
  en : Bool := false
  outsel : Nat := 0
  swap : Bool := false
  enError : Nat := 0
  tim1 : W64 := 0
  tim2 : W64 := 0
  src : W64 := 0
  sets : W64 := 0
  srcOff : W64 := 0
  alloc : W64 := 0
  pose : W64 := 0
  fb : W64 := 0
  log : W64 := 0
  logCfg : W64 := 0
  hfault : W64 := 0
  loadSrc : W64 := 0
  loadLen : W64 := 0
  loadErr : Bool := false
  encBase : W64 := 0
  encCfg : W64 := 0
  /-- A load in progress: weights, its source and its length (13 R375). -/
  load : Option (Bool × W64 × W64) := none
  /-- The active bank, and the two program and weight banks. -/
  bank : Bool := false
  prog0 : Store Byte := []
  prog1 : Store Byte := []
  wts0 : Store Byte := []
  wts1 : Store Byte := []
  work : Store Byte := []
  /-- The three band slots, slot k at 2^20 × k. -/
  slots : Store Byte := []
  f0 : Option Latched := none
  f1 : Option Latched := none
  mfv : Bool := false
  run : Nat := 0
  /-- E of R360, in engine cycles. -/
  start : Nat := 0
  frame : Nat := 0
  /-- Programs of the frame that have started, deadlines that have passed, and bands whose scan-out has begun. -/
  next : Nat := 0
  dead : Nat := 0
  shown : Nat := 0
  /-- A band's program runs. -/
  running : Bool := false
  /-- The first band of fallback mode (13 R372). -/
  mode : Option Nat := none
  bands : Store BandInfo := []
  /-- Log code of the last band of the frame before (13 R363). -/
  lastCode : Nat := 0
  /-- Fallback writes that have begun, oldest first. -/
  pending : List Fallback := []
  /-- An error in a bank holds the head in fallback mode; the banks loaded since (13 R376). -/
  stuck : Bool := false
  /-- Its program fault falls on band 0 of the next frame. -/
  faultNext : Bool := false
  fresh0 : Bool := false
  fresh1 : Bool := false
  /-- The unit the program waits for or holds: true the motion block, false the tensor array (13 R370). -/
  request : Option Bool := none
  granted : Bool := false
  /-- Blocks that a granted operation has written. -/
  progress : Nat := 0
  /-- The last band scanned out: frame, band and bytes (13 R373). -/
  output : Option (Nat × Nat × Store Byte) := none
  deriving DecidableEq, Repr

end Sys2Proof.Machine
end

