-- ==== Sys2Proof/Machine/State.lean ====
section
/-! DEFINITION. The machine's state: everything the manual gives the package, with an agenda that says which agent moves
next (DESIGN CHOICE, log 1), and the state after reset. -/

namespace Sys2Proof.Machine
open Sys2Proof

/-- What the world outside the package does where the opcode table has no row for it (DESIGN CHOICE, log 57). -/
inductive Outside where
  /-- The PF sets the size of the link group (10 R290). -/
  | linkGroup (devices : Nat)
  /-- The PF maps a rank of a VF to a device of the link group (10 R290). -/
  | mapRank (vf rank device : Nat)
  /-- A peer device's collective command reaches its engine over Wolyn Link (10 R289): E1, E2, participation word. -/
  | peerJoin (vf : Nat) (e1 e2 : W32) (part : W64)
  /-- The host's translation takes a 4 KiB page of host memory out, or maps it again (07 R168). -/
  | hostPage (page : Nat) (mapped : Bool)
  /-- The host completes AtomicOps on a 4 KiB page of host memory, or no longer (07 R204). -/
  | hostAtomics (page : Nat) (complete : Bool)
  deriving DecidableEq, Repr

/-- Who takes the next step (DESIGN CHOICE, log 1). -/
inductive Turn where
  /-- The fragment in slot A (false) or B (true) of a group of a team. -/
  | lane (team group : Nat) (slotB : Bool)
  /-- The scalar stream of a team. -/
  | scalar (team : Nat)
  /-- The line sequencer of a head. -/
  | sequencer (head : Nat)
  /-- An event row of the opcode table. -/
  | event (e : Instr)
  /-- Something outside the package. -/
  | outside (o : Outside)
  deriving DecidableEq, Repr

/-- Which kind of stream is in focus. -/
inductive Stream where
  | none
  | lane
  | scalar
  | sequencer
  deriving DecidableEq, Repr

/-- The stream whose instruction executes: its place. While it executes, State.team, State.grp, State.frag and State.head
hold its team, group, fragment and head (DESIGN CHOICE, log 53). -/
structure Focus where
  stream : Stream := .none
  uid : Nat := 0
  gid : Nat := 0
  slotB : Bool := false
  hid : Nat := 0
  /-- The instruction did not issue: it waits (01 R27). -/
  waited : Bool := false
  deriving DecidableEq, Repr

/-- The machine's whole state (DESIGN CHOICE, log 3) (DESIGN CHOICE, log 53). -/
structure State where
  agenda : List Turn := []
  /-- Free values taken so far (DESIGN CHOICE, log 9). -/
  freeCount : Nat := 0
  cur : Focus := {}
  team : Team := {}
  grp : Group := {}
  frag : Fragment := {}
  head : Head := {}
  /-- Package power (00 R14). -/
  power : Bool := true
  /-- The part is in recovery mode or marked failed (00 R16), and the step that failed. -/
  recovery : Option Nat := none
  /-- The recovery mailbox: the UCIe links reported as failing (00 R16). -/
  mailbox : List Nat := []
  bringUpDone : Bool := false
  /-- The host's link is up (00 R15). -/
  linkUp : Bool := false
  /-- Device memory, 0 to 384 GiB - 1 (07 R169), and host memory (07 R168): an unlisted byte reads 0 (DESIGN CHOICE, log 2). -/
  mem : Store Byte := []
  hostMem : Store Byte := []
  /-- 4 KiB pages of host memory that the host's translation does not map at present (07 R168). -/
  hostOut : List Nat := []
  /-- 4 KiB pages of host memory on which the host completes no AtomicOp (07 R204) (DESIGN CHOICE, log 57). -/
  hostNoAtomic : List Nat := []
  teams : Store Team := []
  /-- Teams started so far: the next team's name. -/
  nextTeam : Nat := 1
  launches : Store Launch := []
  nextLaunch : Nat := 1
  vfs : Store Vf := []
  /-- The header cache (02 R61): VF, context, address and the 128 bytes; at most 256 entries. -/
  hdrCache : List ((Nat × Nat × W64) × Nat) := []
  /-- MSI-X messages sent, oldest first: function and vector (11 R292). -/
  msix : List (Nat × Nat) := []
  cores : Store Core := []
  clusters : Store Cluster := []
  heads : Store Head := []
  /-- The repair map (14 R390). -/
  coreMap : Store CoreMap := []
  channelMap : Store (BitVec 9) := []
  stackMap : Store Bool := []
  /-- The repair map as steps 3 to 5 of bring-up built it, and the SPDM answers given, oldest first (00 R16, DESIGN CHOICE, log 19). -/
  measured : Measurement := {}
  spdm : List Measurement := []
  /-- Failed co-processors of each physical core, 26 × cluster + core, by FEAT0 bits 1 to 3 (14 R390). -/
  badCoprocessors : Store (BitVec 3) := []
  /-- EPOCH of HEALTH (14 R391). -/
  epoch : BitVec 8 := 0
  /-- Write queues of the home slices, by slice, oldest entry first (07 R203). -/
  redQueues : Store (List RedEntry) := []
  -- Weft Ring (09)
  ringStep : Nat := 0
  /-- Ring actions issued so far: the next action's name. -/
  ringIssued : Nat := 0
  ringRev : W32 := 0
  slots : Store RingSlot := []
  /-- What is left of the present step's visits: strand, core and action (DESIGN CHOICE, log 53). -/
  ringLeft : List (Nat × Nat × Nat) := []
  /-- Batches handed over so far (12 R332). -/
  batchIssued : Nat := 0
  -- collective engines (10)
  /-- Copies and collectives issued so far: the next command's name. -/
  engineIssued : Nat := 0
  /-- Collective commands that have not reached their engine. -/
  collWait : List CollOp := []
  colls : List Coll := []
  /-- Devices of the link group (10 R290) (DESIGN CHOICE, log 57). -/
  linkGroup : Nat := 1
  -- dies: corrected errors of home slices, stacks and links (15 R409)
  dieErrors : Store W32 := []
  -- PF window (14 R393, 15 R405)
  pfVfSel : Nat := 0
  pfErr : Nat := 0
  /-- What the last read of PFERR gave (14 R393). -/
  pfErrRead : Nat := 0
  pfPsSel : Nat := 0
  pfPsVbase : W64 := 0
  pfPsLen : W64 := 0
  pfPsB0 : W64 := 0
  pfPsB1 : W64 := 0
  pfRepSel : W64 := 0
  pfPcap : Nat := 2000
  pfGov : W64 := 0x8888444422221111
  pfGov2Down : Nat := 2
  pfGov2Idle : Nat := 16
  deriving DecidableEq, Repr

/-- Why the machine stops. The manual gives no instruction and no event that does: every trap is taken, and a launch or
context that stops leaves the machine running; so there is no constructor. Safe. -/
inductive Fault where
  deriving DecidableEq, Repr

/-- Why an instruction has no meaning. -/
inductive Refusal where
  /-- Raised by exec for an instruction the model gives no meaning yet. Safe. -/
  | notModelled (mnemonic : String)
  deriving DecidableEq, Repr

/-- The package with power applied, before the management processor has brought it up (00 R16): every register at its
reset value, memory with nothing listed, no team, no context (DESIGN CHOICE, log 2) (DESIGN CHOICE, log 3) (DESIGN CHOICE, log 5). -/
def State.reset : State := {}

end Sys2Proof.Machine
end

