-- ==== Sys2Proof/Machine/Memory.lean ====
section
/-! DEFINITION. Device and host memory, the home slices' write queues, and two-stage translation (07 R167-R173, R203;
14 R380-R382). -/

namespace Sys2Proof.Machine
open Sys2Proof

/-- The canonical form of memory: addresses strictly rising, no entry equal to what an unlisted address reads as (DESIGN CHOICE, log 2). -/
abbrev Memory.wf (m : Store Byte) : Bool := Store.canon (0 : Byte) m

/-- One byte of memory: an unlisted byte reads 0 (DESIGN CHOICE, log 2). -/
def readByte (m : Store Byte) (a : Nat) : Byte := m.get 0 a
/-- Writing one byte, in canonical form (DESIGN CHOICE, log 2). -/
def writeByte (m : Store Byte) (a : Nat) (x : Byte) : Store Byte := m.put 0 a x

/-- n bytes from address a, little-endian (00 R5). -/
def readBytes (m : Store Byte) (a : Nat) : Nat → Nat
  | 0 => 0
  | n + 1 => (readByte m a).toNat + 256 * readBytes m (a + 1) n
/-- Writing n bytes at a, little-endian. -/
def writeBytes (m : Store Byte) (a : Nat) : Nat → Nat → Store Byte
  | 0, _ => m
  | n + 1, x => writeBytes (writeByte m a (BitVec.ofNat 8 x)) (a + 1) n (x / 256)

/-- The atomic operations of 07 R198 on elements of w bytes: type 0 i, 1 n, 2 f. -/
def atomOp (op ty w old b : Nat) : Nat :=
  let f := if w = 8 then fmtF64 else fmtF32
  match op with
  | 0 => if ty = 2 then (fAdd f 0 false false old b).1 else iAdd false false (8 * w) old b
  | 1 => if ty = 2 then (fMinMax f false false false old b).1 else iMin (ty == 1) (8 * w) old b
  | 2 => if ty = 2 then (fMinMax f false true false old b).1 else iMax (ty == 1) (8 * w) old b
  | 3 => iAnd old b
  | 4 => iOr old b
  | 5 => iXor old b
  | _ => b

/-- The home slice of a device physical address (07 R169). -/
def channelOf (pa : Nat) : Nat := (pa / 2 ^ 8 % 256) ^^^ (pa / 2 ^ 16 % 256) ^^^ (pa / 2 ^ 24 % 256) ^^^ (pa / 2 ^ 32 % 256)
def sliceOf (pa : Nat) : Nat := channelOf pa / 2

/-- Applying a write-queue entry to its line: one rounding per element (07 R203). -/
def RedEntry.apply (e : RedEntry) (m : Store Byte) : Store Byte :=
  e.partials.foldl (fun m p =>
    let a := e.line * 128 + p.1
    writeBytes m a e.width (atomOp e.op e.ty e.width (readBytes m a e.width) p.2.toNat)) m

/-- Draining the entry of a line before another access to it (07 R203). -/
def State.drainLine (s : State) (line : Nat) : State :=
  let k := sliceOf (line * 128)
  let q := s.redQueues.get [] k
  match q.find? (fun e => e.line == line) with
  | none => s
  | some e => { s with mem := e.apply s.mem, redQueues := s.redQueues.put [] k (q.filter fun e => e.line != line) }

/-- Draining every line of n bytes at pa. -/
def State.drain (s : State) (pa n : Nat) : State :=
  if s.redQueues = [] then s
  else (List.range ((pa + n - 1) / 128 + 1 - pa / 128)).foldl (fun s i => s.drainLine (pa / 128 + i)) s

/-- Where a translated access goes (07 R168). -/
inductive Loc where
  | dev (pa : Nat)
  | host (pa : Nat)
  deriving DecidableEq, Repr

def Loc.add : Loc → Nat → Loc
  | .dev a, n => .dev (a + n)
  | .host a, n => .host (a + n)

/-- Reading n bytes of a location, after the drain its home slice makes (DEDUCED, log 6) (DEDUCED, log 18). -/
def State.loadLoc (s : State) (l : Loc) (n : Nat) : State × Nat :=
  match l with
  | .dev a => let s := s.drain a n; (s, readBytes s.mem a n)
  | .host a => (s, readBytes s.hostMem a n)
/-- Writing n bytes of a location (DEDUCED, log 6) (DEDUCED, log 18). -/
def State.storeLoc (s : State) (l : Loc) (n x : Nat) : State :=
  match l with
  | .dev a => let s := s.drain a n; { s with mem := writeBytes s.mem a n x }
  | .host a => { s with hostMem := writeBytes s.hostMem a n x }

/-- Why an access does not complete (06 R152). -/
inductive Stop where
  /-- A class-H trap. -/
  | trap (t : Trap)
  /-- A replayable fault. -/
  | page (p : PageReq)
  /-- An uncorrectable error, with its location. -/
  | ue (loc : W64)
  deriving DecidableEq, Repr

/-- What an access does, and the KIND of its fault-queue entry (06 R160). -/
structure Acc where
  kind : Nat
  write : Bool := false
  exec : Bool := false
  deriving DecidableEq, Repr

def causePage : Nat := 0x10
def causePerm : Nat := 0x11

/-- A canonical address (07 R168). -/
def canonical (va : W64) : Bool := bits va 63 57 == (if bit va 56 then 127 else 0)

/-- A leaf that a walk found (14 R381). -/
structure Leaf where
  addr : Nat
  host : Bool
  w : Bool
  x : Bool
  /-- Page size, as a power of two. -/
  size : Nat

/-- The fields of a table entry that must be zero or consistent (14 R380, R381), at a level (DEDUCED, log 34). -/
def entryOk (stage2 : Bool) (level idx : Nat) (e : W64) : Bool :=
  let leaf := bit e 1
  bits e 62 52 == 0 && bits e 11 6 == 0 && (!bit e 5 || (stage2 && leaf))
  && (!bit e 4 || (level == 0 && idx % 16 == 0))
  && (!leaf || level != 3) && (leaf || level != 0)
  && (!leaf || (bits e 51 12 * 4096) % 2 ^ (if bit e 4 then 16 else 12 + 9 * level) == 0)

/-- One stage's walk (14 R380): the levels still to go, the table reached. An entry at level 0 whose group of sixteen is
headed by a 64 KiB page is not read (DEDUCED, log 7) (DEDUCED, log 34). -/
def walk (rd : Nat → Except Stop W64) (stage2 : Bool) (replay fatal : Stop) (addr : Nat) : List Nat → Nat → Except Stop Leaf
  | [], _ => .error fatal
  | level :: rest, table =>
    let own := addr / 2 ^ (12 + 9 * level) % 2 ^ (if level = 3 then 18 else 9)
    let head := own / 16 * 16
    match (if level = 0 then rd (table + 8 * head) else rd (table + 8 * own)) with
    | .error e => .error e
    | .ok first =>
      let grouped := level == 0 && bit first 0 && bit first 4
      match (if level = 0 ∧ !grouped ∧ own ≠ head then rd (table + 8 * own) else .ok first) with
      | .error e => .error e
      | .ok e =>
        if !bit e 0 then .error (if bit e 63 then fatal else replay)
        else if !entryOk stage2 level (if grouped then head else own) e then .error fatal
        else if bit e 1 then
          let size := if bit e 4 then 16 else 12 + 9 * level
          .ok { addr := bits e 51 12 * 4096 + addr % 2 ^ size, host := bit e 5, w := bit e 2, x := bit e 3, size := size }
        else walk rd stage2 replay fatal addr rest (bits e 51 12 * 4096)

/-- A device physical address that exists (07 R169, R170; 14 R381): 384 GiB, and the lower half of the offsets of a
channel pair one of which is mapped out; the error's location is the physical address (DESIGN CHOICE, log 67). -/
def State.devCheck (s : State) (va : W64) (pa : Nat) : Except Stop Unit :=
  if pa ≥ 384 * 2 ^ 30 then .error (.trap { cause := causePage, tval := va })
  else
    let c := channelOf pa
    let out := bit (s.channelMap.get 0 c) 8 || bit (s.channelMap.get 0 (c ^^^ 1)) 8
    if out && decide (pa / 2 ^ 16 * 256 + pa % 256 ≥ 3 * 2 ^ 28) then .error (.ue (BitVec.ofNat 64 pa)) else .ok ()

/-- The same for n bytes: the channel changes every 256 (07 R169). The error taken is the lowest address's. -/
def State.devRange (s : State) (va : W64) (pa n : Nat) : Except Stop Unit :=
  ((List.range ((pa + n - 1) / 256 + 1 - pa / 256)).map fun k => s.devCheck va (max pa (256 * (pa / 256 + k)))).foldr
    (fun r rest => match r with | .error e => .error e | .ok _ => rest) (.ok ())

/-- Reading a table entry at a location: the value its home slice would give. -/
def State.entryAt (s : State) (l : Loc) : W64 := BitVec.ofNat 64 (s.loadLoc l 8).2

def walkLevels : List Nat := [3, 2, 1, 0]

/-- Stage 2 of a VF: a guest-physical address to its leaf. -/
def State.stage2 (s : State) (vf : Nat) (va : W64) (a : Acc) (gpa : Nat) : Except Stop Leaf :=
  let rd (pa : Nat) : Except Stop W64 := match s.devCheck va pa with | .error e => .error e | .ok _ => .ok (s.entryAt (.dev pa))
  walk rd true (.page { vaddr := va, kind := a.kind, write := a.write, exec := a.exec, stage2 := true })
    (.trap { cause := causePage, tval := va }) gpa walkLevels (s.vfs.get {} vf).s2root.toNat

/-- The location of a guest-physical address that exists; a page that the host does not map is a replayable fault, which
ATS and PRI serve (06 R160, 07 R168) (DEDUCED, log 18). -/
def State.leafLoc (s : State) (va : W64) (a : Acc) (l : Leaf) : Except Stop Loc :=
  if l.host then
    if s.hostOut.contains (l.addr / 4096) then
      .error (.page { vaddr := va, kind := a.kind, write := a.write, exec := a.exec, stage2 := true, host := true })
    else .ok (.host l.addr)
  else match s.devCheck va l.addr with | .error e => .error e | .ok _ => .ok (.dev l.addr)

/-- Two-stage translation of one byte's address in a context of a VF (07 R168; 14 R380-R382), with the size of the smaller
page on its way, as a power of two (DEDUCED, log 34). -/
def State.xlateSized (s : State) (vf ctx : Nat) (a : Acc) (va : W64) : Except Stop (Loc × Nat) :=
  let fatal : Stop := .trap { cause := causePage, tval := va }
  let perm : Stop := .trap { cause := causePerm, tval := va }
  if !canonical va then .error fatal
  else
    let rd (gpa : Nat) : Except Stop W64 :=
      match s.stage2 vf va a gpa with
      | .error e => .error e
      | .ok l => match s.leafLoc va a l with | .error e => .error e | .ok loc => .ok (s.entryAt loc)
    match walk rd false (.page { vaddr := va, kind := a.kind, write := a.write, exec := a.exec, stage2 := false }) fatal
        va.toNat walkLevels ((s.vfs.get {} vf).ctxs.get {} ctx).root.toNat with
    | .error e => .error e
    | .ok l1 =>
      -- a missing permission is of class H: it comes before what stage 2 may post (06 R156)
      if (a.write && !l1.w) || (a.exec && !l1.x) then .error perm
      else
        match s.stage2 vf va a l1.addr with
        | .error e => .error e
        | .ok l2 =>
          if (a.write && !l2.w) || (a.exec && !l2.x) then .error perm
          else match s.leafLoc va a l2 with | .error e => .error e | .ok loc => .ok (loc, min l1.size l2.size)

/-- Two-stage translation of one byte's address (DEDUCED, log 7) (DEDUCED, log 34). -/
def State.xlate (s : State) (vf ctx : Nat) (a : Acc) (va : W64) : Except Stop Loc :=
  match s.xlateSized vf ctx a va with | .error e => .error e | .ok p => .ok p.1

/-- The parts of n bytes at va that lie in one 4 KiB page each: at most k parts. -/
def pageParts : Nat → W64 → Nat → List (W64 × Nat)
  | 0, _, _ => []
  | k + 1, va, n =>
    let m := min n (4096 - va.toNat % 4096)
    if n = 0 then [] else (va, m) :: pageParts k (va + BitVec.ofNat 64 m) (n - m)

/-- The stop is a trap. -/
def Stop.isTrap : Stop → Bool
  | .trap _ => true
  | _ => false
/-- The place of a fault in the order of 06 R156 within a lane; an uncorrectable error comes after the traps, a replayable
fault last (DEDUCED, log 33). -/
def Stop.rank : Stop → Nat
  | .trap t =>
    match t.cause with
    | 0x0B => 0
    | 0x12 => 1
    | 0x13 => 2
    | 0x06 => 3
    | 0x11 => 4
    | 0x10 => 5
    | 0x14 => 6
    | _ => 7
  | .ue _ => 8
  | .page _ => 9
/-- The fault taken of several of one lane: the first of the order of 06 R156 (DEDUCED, log 33). -/
def firstStop : List Stop → Option Stop
  | [] => none
  | e :: es => match firstStop es with | some f => if f.rank < e.rank then some f else some e | none => some e

/-- The location of one part of a range, which exists whole. -/
def State.xlatePart (s : State) (vf ctx : Nat) (a : Acc) (va : W64) (n : Nat) : Except Stop Loc :=
  match s.xlate vf ctx a va with
  | .ok (.dev pa) => match s.devRange va pa n with | .error e => .error e | .ok _ => .ok (.dev pa)
  | r => r

/-- The locations of n bytes at va, part by part. -/
def State.xlateRange (s : State) (vf ctx : Nat) (a : Acc) (va : W64) (n : Nat) : Except Stop (List (Loc × Nat)) :=
  let rs := (pageParts (n / 4096 + 2) va n).map fun p => (s.xlatePart vf ctx a p.1 p.2, p.2)
  match firstStop (rs.filterMap fun r => match r.1 with | .error e => some e | .ok _ => none) with
  | some e => .error e
  | none => .ok (rs.filterMap fun r => match r.1 with | .ok l => some (l, r.2) | .error _ => none)

/-- What memory holds now, for a launch whose packet arrives (02 R40, R61) (DESIGN CHOICE, log 58). -/
def State.snapshot (s : State) : Snapshot := { mem := s.mem, hostMem := s.hostMem, redQueues := s.redQueues }
/-- The state with memory as a launch's packet found it (DESIGN CHOICE, log 58). -/
def State.asOf (s : State) (m : Snapshot) : State := { s with mem := m.mem, hostMem := m.hostMem, redQueues := m.redQueues }

/-- Reading translated parts, lowest address first. -/
def State.loadParts (s : State) : List (Loc × Nat) → State × Nat
  | [] => (s, 0)
  | (l, n) :: ps =>
    let (s, x) := s.loadLoc l n
    let (s, y) := State.loadParts s ps
    (s, x + 2 ^ (8 * n) * y)
/-- Writing translated parts. -/
def State.storeParts (s : State) : List (Loc × Nat) → Nat → State
  | [], _ => s
  | (l, n) :: ps, x => State.storeParts (s.storeLoc l n (x % 2 ^ (8 * n))) ps (x / 2 ^ (8 * n))

/-- A load of n bytes at a virtual address (DEDUCED, log 6). -/
def State.loadVa (s : State) (vf ctx : Nat) (a : Acc) (va : W64) (n : Nat) : Except Stop (State × Nat) :=
  match s.xlateRange vf ctx a va n with | .error e => .error e | .ok ps => .ok (s.loadParts ps)
/-- A store of n bytes at a virtual address (DEDUCED, log 6). -/
def State.storeVa (s : State) (vf ctx : Nat) (a : Acc) (va : W64) (n x : Nat) : Except Stop State :=
  match s.xlateRange vf ctx a va n with | .error e => .error e | .ok ps => .ok (s.storeParts ps x)

end Sys2Proof.Machine
end

