-- ==== Sys2Proof/Machine/Ops.lean ====
section
/-! DEFINITION. The named operations every meaning is written over: the focus, registers, memory accesses of a stream,
windows, and taking and leaving a trap (02 R49-R52, R58, R59; 06 R150-R166; 11 R303, R306). -/

namespace Sys2Proof.Machine
open Sys2Proof

/-! ### The focus -/

/-- Writing the fragment in focus into its slot of the group in focus. -/
def Group.setSlot (g : Group) (b : Bool) (f : Fragment) : Group := if b then { g with slotB := f } else { g with slotA := f }
def Group.slotOf (g : Group) (b : Bool) : Fragment := if b then g.slotB else g.slotA

/-- Writing what is in focus back to where it lives; the focus stays (DESIGN CHOICE, log 53). -/
def State.flush (s : State) : State :=
  match s.cur.stream with
  | .none => s
  | .lane =>
    let g := s.grp.setSlot s.cur.slotB s.frag
    let t := { s.team with groups := s.team.groups.set s.cur.gid g }
    { s with grp := g, team := t, teams := s.teams.set s.cur.uid t }
  | .scalar => { s with teams := s.teams.set s.cur.uid s.team }
  | .sequencer => { s with heads := s.heads.set s.cur.hid s.head }

/-- Reading what is in focus from where it lives. -/
def State.reload (s : State) : State :=
  match s.cur.stream with
  | .none => s
  | .lane =>
    let t := s.teams.get {} s.cur.uid
    let g := t.groups.get {} s.cur.gid
    { s with team := t, grp := g, frag := g.slotOf s.cur.slotB }
  | .scalar => { s with team := s.teams.get {} s.cur.uid }
  | .sequencer => { s with head := s.heads.get {} s.cur.hid }

/-- Ending the focus (DESIGN CHOICE, log 53). -/
def State.unfocus (s : State) : State :=
  { s.flush with cur := {}, team := {}, grp := {}, frag := {}, head := {} }

/-- Putting a stream in focus (DESIGN CHOICE, log 53). -/
def State.focus (s : State) (c : Focus) : State := ({ s with cur := c }).reload

/-- A change of all teams, those in focus included. -/
def State.mapTeams (s : State) (f : Nat → Team → Team) : State :=
  let s := s.flush
  ({ s with teams := s.teams.map fun (p : Nat × Team) => (p.1, f p.1 p.2) }).reload

/-- A team by name, the one in focus included. -/
def State.teamOf (s : State) (uid : Nat) : Team := s.flush.teams.get {} uid
/-- Changing one team. -/
def State.onTeam (s : State) (uid : Nat) (f : Team → Team) : State :=
  let s := s.flush
  ({ s with teams := s.teams.set uid (f (s.teams.get {} uid)) }).reload

def State.vf (s : State) (k : Nat) : Vf := s.vfs.get {} k
def State.onVf (s : State) (k : Nat) (f : Vf → Vf) : State := { s with vfs := s.vfs.set k (f (s.vf k)) }
def State.ctx (s : State) (v c : Nat) : Context := (s.vf v).ctxs.get {} c
def State.onCtx (s : State) (v c : Nat) (f : Context → Context) : State :=
  s.onVf v fun x => { x with ctxs := x.ctxs.set c (f (x.ctxs.get {} c)) }
def State.core (s : State) (k : Nat) : Core := s.cores.get {} k
def State.onCore (s : State) (k : Nat) (f : Core → Core) : State := { s with cores := s.cores.set k (f (s.core k)) }
def State.cluster (s : State) (k : Nat) : Cluster := s.clusters.get {} k
def State.onCluster (s : State) (k : Nat) (f : Cluster → Cluster) : State := { s with clusters := s.clusters.set k (f (s.cluster k)) }
def State.launch (s : State) (k : Nat) : Launch :=
  s.launches.get { vf := 0, ctx := 0, hdr := {}, args := 0, teams := 0, span := 0, prio := 0, scope := 0 } k
def State.onLaunch (s : State) (k : Nat) (f : Launch → Launch) : State := { s with launches := s.launches.set k (f (s.launch k)) }

/-- Taking a free value (DESIGN CHOICE, log 9). -/
def State.free (s : State) (purpose : Nat) : State × W64 := ({ s with freeCount := s.freeCount + 1 }, Config.free purpose s.freeCount)

/-- The instruction in focus does not issue: it waits (01 R27, 02 R49). -/
def State.wait (s : State) : State := { s with cur := { s.cur with waited := true } }

/-! ### Masks and registers -/

def allLanes : Mask := BitVec.allOnes 96
/-- The lanes of a mask, ascending (00 R10). -/
def lanesOf (m : Mask) : List Nat := (List.range 96).filter fun l => m.getLsbD l
def laneCount (m : Mask) : Nat := popcount 96 m.toNat
/-- Beat word b of a mask (01 R22). -/
def maskWord (m : Mask) (b : Nat) : W32 := m.extractLsb' (32 * b) 32
/-- A mask with beat word b replaced. -/
def setMaskWord (m : Mask) (b : Nat) (w : W32) : Mask :=
  (if b = 2 then w else maskWord m 2) ++ (if b = 1 then w else maskWord m 1) ++ (if b = 0 then w else maskWord m 0)
/-- The mask of the lanes where a test holds. -/
def maskOf (f : Nat → Bool) : Mask := (List.range 96).foldl (fun m l => if f l then m ||| BitVec.twoPow 96 l else m) 0

/-- The value a v register holds when nothing has written it since its launch or fill (03 R66, R72). -/
def vInit (poison : Bool) (r : Nat) : LaneVec := Vector.replicate 96 (if poison then BitVec.ofNat 32 (0x7F810000 + r) else 0)

/-- A v register of the group in focus. -/
def State.rv (s : State) (r : Nat) : LaneVec := s.grp.v.get (vInit s.team.hdr.poison r) r
/-- One lane of it. -/
def State.lane (s : State) (r l : Nat) : W32 := (s.rv r).getD l 0
/-- A 32-bit value, or the pair r, r + 1 (00 R5). -/
def State.laneVal (s : State) (wide : Bool) (r l : Nat) : Nat :=
  (s.lane r l).toNat + (if wide then (s.lane (r + 1) l).toNat * 2 ^ 32 else 0)
/-- A register with the lanes of a mask replaced. -/
def blend (m : Mask) (old : LaneVec) (f : Nat → W32) : LaneVec :=
  Vector.ofFn fun l : Fin 96 => if m.getLsbD l.val then f l.val else old.get l
/-- Writing the lanes of a mask. -/
def State.wv (s : State) (r : Nat) (m : Mask) (f : Nat → W32) : State :=
  { s with grp := { s.grp with v := s.grp.v.set r (blend m (s.rv r) f) } }
/-- Writing 32-bit values or pairs. -/
def State.wlanes (s : State) (wide : Bool) (r : Nat) (m : Mask) (f : Nat → Nat) : State :=
  let s := s.wv r m fun l => BitVec.ofNat 32 (f l)
  if wide then s.wv (r + 1) m fun l => BitVec.ofNat 32 (f l / 2 ^ 32) else s

/-- The lanes that pass the mask test (02 R52): all of them inside a bracket (05 R142). -/
def Fragment.lanes (f : Fragment) : Mask := if f.bracket then allLanes else f.mask
/-- A g register; g0:g2 are the fragment's mask, all ones inside a bracket (05 R135). -/
def State.rg (s : State) (n : Nat) : W32 := if n < 3 then maskWord s.frag.lanes n else s.grp.g.get 0 n
/-- Writing one of g3-g63. -/
def State.wg (s : State) (n : Nat) (x : W32) : State := { s with grp := { s.grp with g := s.grp.g.set n x } }
/-- A predicate triple (02 R46). -/
def State.triple (s : State) (k : Nat) : Mask := s.rg (3 * k + 2) ++ s.rg (3 * k + 1) ++ s.rg (3 * k)
/-- Writing the lanes of m of a triple. -/
def State.wtriple (s : State) (k : Nat) (m x : Mask) : State :=
  let v := (s.triple k &&& ~~~m) ||| (x &&& m)
  ((s.wg (3 * k) (maskWord v 0)).wg (3 * k + 1) (maskWord v 1)).wg (3 * k + 2) (maskWord v 2)

/-- The enabled lanes of an instruction (02 R52). -/
def State.enabled (s : State) (o : LOp) : Mask :=
  let p := if o.ps = 0 then allLanes else if o.pn then ~~~(s.triple o.ps.toNat) else s.triple o.ps.toNat
  s.frag.lanes &&& p

/-- An s register of the stream in focus, s0 reading as zero (02 R47): the team's, or the line sequencer's (13 R362). -/
def State.rs (s : State) (n : Nat) : W64 :=
  if n = 0 then 0 else match s.cur.stream with | .sequencer => s.head.s.get 0 n | _ => s.team.s.get 0 n
/-- Writing it; writes to s0 are discarded (02 R47). -/
def State.ws (s : State) (n : Nat) (x : W64) : State :=
  if n = 0 then s
  else match s.cur.stream with
    | .sequencer => { s with head := { s.head with s := s.head.s.set n x } }
    | _ => { s with team := { s.team with s := s.team.s.set n x } }

/-- ORing flags into the group's FPCTL (04 R96). -/
def State.orFlags (s : State) (f : W32) : State := { s with grp := { s.grp with fpctl := s.grp.fpctl ||| f } }

/-! ### Cores and counters -/

/-- The cluster of a logical core (01 R19). -/
def clusterOfCore (l : Nat) : Nat := l / 24
def dieOfCore (l : Nat) : Nat := l / 192

/-- Counting n of an event on a core, where the VF selects it (15 R409, R411). -/
def State.countCore (s : State) (core code n : Nat) (vf : Nat) : State :=
  let v := s.vf vf
  if !v.pmEn then s
  else s.onCore core fun c => { c with pmc := (List.range 8).foldl (fun p k => if v.pmEv.get 0 k = code then p.set k ((p.get 0 k + n) % 2 ^ 48) else p) c.pmc }
/-- The same on a cluster. -/
def State.countCluster (s : State) (cl code n : Nat) (vf : Nat) : State :=
  let v := s.vf vf
  if !v.pmEn then s
  else s.onCluster cl fun c => { c with ccs := (List.range 4).foldl (fun p k => if v.pmCev.get 0 k = code then p.set k ((p.get 0 k + n) % 2 ^ 48) else p) c.ccs }
/-- An event of the team in focus. -/
def State.count (s : State) (code n : Nat) : State := s.countCore s.team.core code n s.team.vf

/-! ### Finish scopes, launches, aborts -/

def Context.scope (c : Context) (k : Nat) : Scope := c.scopes.get { valid := decide (k < 64) } k
def Context.onScope (c : Context) (k : Nat) (f : Scope → Scope) : Context := { c with scopes := c.scopes.set k (f (c.scope k)) }

/-- Setting ERR on the ancestors of a scope (11 R306), the chain at most n long. -/
def Context.markAncestors (cause team : Nat) (tpc tval : W64) : Nat → Context → Nat → Context
  | 0, c, _ => c
  | n + 1, c, k =>
    let c := c.onScope k fun x => if x.err then x else { x with err := true, cause := cause, team := team, tpc := tpc, tval := tval }
    if (c.scope k).hasParent then Context.markAncestors cause team tpc tval n c (c.scope k).parent else c

/-- Recording an error in a scope, once, and on its ancestors (11 R306). -/
def State.scopeError (s : State) (vf ctx scope cause team : Nat) (tpc tval : W64) : State :=
  s.onCtx vf ctx fun c => c.markAncestors cause team tpc tval 257 scope
/-- A scope is done (11 R303): its count is 0 and so is that of every valid scope below it. -/
def Context.done : Nat → Context → Nat → Bool
  | 0, _, _ => true
  | n + 1, c, k =>
    (c.scope k).count == 0 &&
      (List.range' 64 192).all fun j => !((c.scope j).valid && (c.scope j).hasParent && (c.scope j).parent == k) || Context.done n c j

/-- The host scope above a scope. -/
def Context.hostScope : Nat → Context → Nat → Nat
  | 0, _, k => k
  | n + 1, c, k => if (c.scope k).hasParent then Context.hostScope n c (c.scope k).parent else k
/-- Sending an MSI-X message (11 R292) (DESIGN CHOICE, log 52). -/
def State.sendMsix (s : State) (vf vector : Nat) : State := { s with msix := s.msix ++ [(vf, vector)] }
/-- Lowering a scope's count by n, which is not 0 (11 R303); the completion of a host scope raises vector 1. -/
def State.scopeDown (s : State) (vf ctx scope n : Nat) : State :=
  let s := s.onCtx vf ctx fun c => c.onScope scope fun x => { x with count := x.count - n }
  let c := s.ctx vf ctx
  let h := c.hostScope 257 scope
  if h < 64 ∧ Context.done 257 c h then s.sendMsix vf 1 else s

/-- Retiring completed packets of a queue in order: QFENCE rises for each with FENCE = 1 (11 R300). -/
def retireTaken : List Taken → Nat → List Taken × Nat
  | [], f => ([], f)
  | t :: ts, f => if t.done then retireTaken ts (if t.fence then f + 1 else f) else (t :: ts, f)
def Queue.retire (q : Queue) : Queue :=
  let r := retireTaken q.taken q.fence
  { q with taken := r.1, fence := r.2 % 2 ^ 48 }
/-- A packet of a queue has completed (11 R296). -/
def State.packetDone (s : State) (vf queue launch : Nat) : State :=
  s.onVf vf fun v =>
    let q : Queue := v.queues.get {} queue
    let q := { q with taken := q.taken.map fun (t : Taken) => if t.launch = launch then { t with done := true } else t }
    { v with queues := v.queues.set queue q.retire }

/-- n teams of a launch have ended, been stopped or been discarded: the scope's count falls, and the packet completes with
the last of them (11 R296, R303). -/
def State.teamsGone (s : State) (launch n : Nat) : State :=
  let l := s.launch launch
  let s := (s.scopeDown l.vf l.ctx l.scope n).onLaunch launch fun l => { l with ended := l.ended + n }
  if l.ended + n ≥ l.teams then
    let s := { s with launches := s.launches.erase launch }
    match l.queue with | some q => s.packetDone l.vf q launch | none => s
  else s

/-- A launch abort (06 R155): every team of the launch stops, those not started are discarded, the scope records the first
cause. The stopped teams are freed by their team end, once their engine operations have completed. -/
def State.abortLaunch (s : State) (launch cause team : Nat) (tpc tval : W64) : State :=
  let l := s.launch launch
  if l.aborted then s
  else
    let s := s.onLaunch launch fun l => { l with aborted := true, waiting := [] }
    let s := s.scopeError l.vf l.ctx l.scope cause team tpc tval
    let s := s.mapTeams fun _ t => if t.launch = launch && t.live then { t with stopped := true, aborted := true } else t
    if l.waiting = [] then s else s.teamsGone launch l.waiting.length

/-- Counting an engine write to a set in flight, or its completion (10 R284). -/
def State.pubCount (s : State) (vf : Nat) (p : Option (Nat × Bool)) (up : Bool) : State :=
  match p with
  | some (k, _) => s.onVf vf fun v =>
      let x : PubSet := v.pubs.get {} k
      { v with pubs := v.pubs.set k { x with inflight := if up then x.inflight + 1 else x.inflight - 1 } }
  | none => s

/-- A context stop, class C (06 R159, 11 R306): every launch of the context stops; the VF gets a function-level error (DEDUCED, log 26). -/
def State.stopContext (s : State) (vf ctx cause : Nat) (tval : W64) : State :=
  let ls := (s.launches.filter fun p => p.2.vf == vf && p.2.ctx == ctx).map (·.1)
  let s := ls.foldl (fun s k => s.abortLaunch k cause 0xFFFFFF 0 tval) s
  let s := s.mapTeams fun _ t => if t.vf = vf && t.ctx = ctx && t.live then { t with scrubbed := true } else t
  -- teams in the save area are stopped where they lie
  let gone := (s.ctx vf ctx).saved
  let s := gone.foldl (fun s p => if p.2.raster.isSome then s else s.teamsGone p.2.launch 1) s
  let held := (s.ctx vf ctx).heldCopies.map (fun c => c.2.pub) ++ (s.ctx vf ctx).heldColls.map (fun c => c.pub)
  let s := held.foldl (fun s p => s.pubCount vf p false) s
  -- device packets not yet accepted are dropped and return their tokens (DEDUCED, log 26)
  let c := s.ctx vf ctx
  let dropped := c.devq ++ c.checking.filter fun p => p.queue.isNone
  let s := s.onCtx vf ctx fun c => { c with saved := [], heldCopies := [], heldColls := [], devq := [], checking := c.checking.filter fun p => p.queue.isSome }
  let s := dropped.foldl (fun s p => match p.scope with
    | some k => (s.scopeError vf ctx k cause 0xFFFFFF 0 tval).scopeDown vf ctx k 1
    | none => s) s
  s.onVf vf fun v => { v with errPending := true, errCause := cause }

/-! ### The fault queue -/

/-- The key under which faults coalesce: the 4 KiB page (06 R161). -/
def pageOf (va : W64) : W64 := va &&& 0xFFFFFFFFFFFFF000#64

/-- The words of a fault-queue entry (06 R160) (DEDUCED, log 18). -/
def faultEntry (p : PageReq) (iaddr : W64) (ctx core seq phase : Nat) : Nat :=
  let ctl := ctx * 2 ^ 16 + (if p.host then 0x80 else 0) + (if p.stage2 then 0x40 else 0) + (if p.exec then 0x20 else 0) + (if p.write then 0x10 else 0) + p.kind
  p.vaddr.toNat + iaddr.toNat * 2 ^ 64 + ctl * 2 ^ 128 + core * 2 ^ 160 + seq * 2 ^ 192 + phase * 2 ^ 224

/-- Posting a replayable fault (06 R161): coalesced with an unserved entry of the page, written, or, where the queue is
full, left for the retry. The buffer is reached through the translation of context 0 (DEDUCED, log 12). PHASE is 1 in the
first pass, and an entry that cannot be stored is lost, though it counts (DESIGN CHOICE, log 56). -/
def State.postFault (s : State) (vf ctx core : Nat) (iaddr : W64) (p : PageReq) : State × PageReq :=
  let v := s.vf vf
  if v.faults.any fun e => e.ctx == ctx && e.page == pageOf p.vaddr then (s, { p with posted := true })
  else if (v.fqWritten + 2 ^ 32 - v.fqCons.toNat) % 2 ^ 32 ≥ 2 ^ v.fqN then (s, p)
  else
    let e := faultEntry p iaddr ctx core v.fqSeq.toNat (if v.fqWritten / 2 ^ v.fqN % 2 = 0 then 1 else 0)
    let a := v.fqBase + BitVec.ofNat 64 (32 * (v.fqWritten % 2 ^ v.fqN))
    let s := match s.storeVa vf 0 { kind := 0, write := true } a 32 e with | .ok s => s | .error _ => s
    let s := s.onVf vf fun v => { v with fqWritten := v.fqWritten + 1, fqSeq := v.fqSeq + 1, faults := v.faults ++ [{ page := pageOf p.vaddr, ctx := ctx }] }
    ((s.countCore core 0x0C 1 vf).sendMsix vf 0, { p with posted := true })

/-- Posting several, in order. -/
def State.postFaults (s : State) (vf ctx core : Nat) (iaddr : W64) : List PageReq → State × List PageReq
  | [] => (s, [])
  | p :: ps =>
    let (s, q) := s.postFault vf ctx core iaddr p
    let (s, qs) := State.postFaults s vf ctx core iaddr ps
    (s, q :: qs)

/-! ### Windows -/

/-- Writing a window's results and flags, and what a readout reports (02 R49, 04 R96, 08 R230). -/
def State.writeWindow (s : State) (w : Window) : State :=
  let s := (w.writes.foldl (fun s x => s.wv x.1 x.2.1 fun l => x.2.2.getD l 0) s).orFlags w.flags
  match w.readout with
  | some (b, m) => { s with team := { s.team with mbnd := b, mstat := s.team.mstat ||| m } }
  | none => s

/-- Closing every window of the fragment in focus, in issue order (02 R50); one with a fault writes nothing. -/
def State.closeAll (s : State) : State :=
  (s.frag.windows.filter fun w => w.fault.isNone).foldl State.writeWindow { s with frag := { s.frag with windows := [] } }

/-- Counting an issued instruction against the open windows. -/
def tickWindows (ws : List Window) : List Window := ws.map fun w => { w with left := w.left - 1, passed := w.passed + 1 }

/-- The instruction in focus has issued: the windows count it, and the program counter goes on. -/
def State.retire (s : State) (size : Nat) : State :=
  { s with frag := { s.frag with pc := s.frag.pc + BitVec.ofNat 64 size, windows := tickWindows s.frag.windows, hold := false } }

/-- The same for a branch. -/
def State.retireTo (s : State) (pc : W64) : State :=
  { s with frag := { s.frag with pc := pc, windows := tickWindows s.frag.windows, hold := false } }

/-- Return-buffer entries the group holds (02 R50): one for each open window, stores included (DESIGN CHOICE, log 64). -/
def Group.buffered (g : Group) (slotB : Bool) (f : Fragment) : Nat := f.windows.length + (g.slotOf !slotB).windows.length

/-- A long-latency instruction issues with lookahead la: its results stand in the window; with la = 0 and every result
there, the window closes at once. -/
def State.openWindow (s : State) (la size waiting : Nat) (writes : List (Nat × Mask × LaneVec)) (flags : W32)
    (readout : Option (W64 × W32) := none) (rays : Option (Mask × Store RaySlot) := none) : State :=
  let w : Window :=
    { id := s.grp.opened, left := la, writes := writes, flags := flags, readout := readout, waiting := waiting, pc := s.frag.pc,
      len := size, rays := rays }
  let s := { s.retire size with grp := { s.grp with opened := s.grp.opened + 1 } }
  if la == 0 && waiting == 0 && s.frag.windows.isEmpty then s.writeWindow w
  else { s with frag := { s.frag with windows := s.frag.windows ++ [w] } }

/-! ### Taking a trap -/

def causeIllegal : Nat := 0x01
def causeZero : Nat := 0x02
def causeEmu : Nat := 0x03
def causeRegRange : Nat := 0x04
def causeRdvRange : Nat := 0x05
def causeSpad : Nat := 0x06
def causeUninit : Nat := 0x07
def causeDeadlock : Nat := 0x08
def causeSplit : Nat := 0x09
def causeAllon : Nat := 0x0A
def causeMisalign : Nat := 0x0B
def causeRecord : Nat := 0x12
def causeBounds : Nat := 0x13
def causeRace : Nat := 0x14
def causeQuota : Nat := 0x15
def causePublish : Nat := 0x16
def causeMatrix : Nat := 0x18
def causePair : Nat := 0x19
def causeUe : Nat := 0x20
def causeWatchdog : Nat := 0x21
def causeHostAbort : Nat := 0x22
def causeTrap : Nat := 0x30
def causeBreak : Nat := 0x31
def causeLaunch : Nat := 0x40
def causeFeature : Nat := 0x41
def causeFinish : Nat := 0x42

/-- TSTAT at trap entry (06 R150, R153): JTO and PEND stay. -/
def tstatEntry (old : W32) (len : Nat) (emu brkt slotB : Bool) (wdone : Nat) : W32 :=
  (old &&& 0x300#32) ||| BitVec.ofNat 32 (len % 256 * 2 ^ 16) ||| (if emu then 0x80 else 0) ||| 0x40
    ||| (if brkt then 0x20 else 0) ||| (if slotB then 0x10 else 0) ||| BitVec.ofNat 32 (wdone % 16)

/-- TSTAT.INH (06 R150). -/
def inh (tstat : W32) : Bool := bit tstat 6

/-- The instruction at the fragment's program counter completed before a trap and is passed over next (06 R165). -/
def Fragment.passing (f : Fragment) : Bool := f.skip != 0 && !f.hold

/-- Trap entry of the lane fragment in focus, one indivisible step (06 R153): a double trap (R154) or a missing handler
aborts the launch (R155) (DEDUCED, log 32). -/
def State.enterTrap (s : State) (t : Trap) (pc : W64) (len wdone : Nat) : State :=
  if inh s.grp.tstat then s.abortLaunch s.team.launch t.cause s.team.index pc t.tval
  else
    let emu := t.cause == causeEmu && s.team.hdr.emuHandler != 0
    let h := if emu then s.team.hdr.emuHandler else s.team.hdr.trapHandler
    let g := { s.grp with tpc := pc, tcause := BitVec.ofNat 32 t.cause, tval := t.tval, trapCause := t.cause, trapPc := pc,
                          trapPass := s.frag.passing && pc == s.frag.pc, tstat := tstatEntry s.grp.tstat len emu s.frag.bracket s.cur.slotB wdone }
    let s := { s with grp := g }
    if h = 0 then s.abortLaunch s.team.launch t.cause s.team.index pc t.tval
    else { s with frag := { s.frag with pc := h, skip := 0, hold := false } }

/-- Trap entry of the scalar stream (06 R153): at the handler's address plus 64. -/
def State.enterScalarTrap (s : State) (t : Trap) (pc : W64) (len : Nat) : State :=
  if inh s.team.sTstat then s.abortLaunch s.team.launch t.cause s.team.index pc t.tval
  else
    let emu := t.cause == causeEmu && s.team.hdr.emuHandler != 0
    let h := if emu then s.team.hdr.emuHandler else s.team.hdr.trapHandler
    let s := { s with team := { s.team with sTpc := pc, sTcause := BitVec.ofNat 32 t.cause, sTval := t.tval, sTrapCause := t.cause, sTrapPc := pc,
                                            sTstat := tstatEntry s.team.sTstat len emu false false 0, sphase := 0 } }
    if h = 0 then s.abortLaunch s.team.launch t.cause s.team.index pc t.tval
    else { s with team := { s.team with spc := h + 64 } }

/-- The oldest window with a fault. -/
def firstFault (ws : List Window) : Option (Window × Late) := ws.findSome? fun w => w.fault.map fun t => (w, t)
/-- A window waits for an answer. -/
def answersOpen (ws : List Window) : Bool := ws.any fun w => w.waiting != 0

/-- The fault of a window of the fragment in focus is reported (01 R33). A trap waits for the answers still to come (DESIGN
CHOICE, log 14); WDONE counts the window instructions that completed, every one of them writes its results, and a
younger fault is kept. A replayable fault is posted, and the fragment parks with its windows as they stand (06 R161). -/
def State.reportLate (s : State) (w : Window) : Late → State
  | .trap t =>
    if answersOpen s.frag.windows then s.wait
    else
      let kept := s.frag.windows.filter fun x => x.id != w.id && x.fault.isSome
      let s := s.closeAll
      ({ s with frag := { s.frag with kept := s.frag.kept ++ kept } }).enterTrap t w.pc w.len (min (w.passed + s.frag.skip) 15)
  | .page ps r =>
    let (s, qs) := s.postFaults s.team.vf s.team.ctx s.team.core w.pc ps
    let ws := s.frag.windows.map fun x => if x.id = w.id then { x with fault := some (.parked r) } else x
    { s with frag := { s.frag with windows := ws, park := qs } }
  | .parked _ => s

/-- A lane instruction traps at pc. An older long-latency instruction whose fault is not reported yet comes first: this one
has not issued (01 R33). Where answers are still to come, the trap waits for them (DESIGN CHOICE, log 14). -/
def State.raiseAt (s : State) (t : Trap) (pc : W64) (len : Nat) : State :=
  match firstFault s.frag.windows with
  | some (w, l) => s.reportLate w l
  | none => if answersOpen s.frag.windows then s.wait else (s.closeAll).enterTrap t pc len s.frag.skip

/-- The instruction in focus traps. -/
def State.raise (s : State) (t : Trap) (len : Nat) : State := s.raiseAt t s.frag.pc len

/-- An access of the lane instruction in focus does not complete: class H, a park on the fault queue (06 R161), or a
context stop (DEDUCED, log 33). -/
def State.stopLane (s : State) (len : Nat) (ps : List PageReq) : Stop → State
  | .trap t => s.raise t len
  | .page p =>
    match firstFault s.frag.windows with
    | some (w, l) => s.reportLate w l
    | none =>
      let (s, qs) := s.postFaults s.team.vf s.team.ctx s.team.core s.frag.pc (if ps = [] then [p] else ps)
      { s with frag := { s.frag with park := qs } }
  | .ue loc => s.stopContext s.team.vf s.team.ctx causeUe loc

/-- The fault of a long-latency instruction that may be reported after some instructions of its window; none for an error (DESIGN CHOICE, log 14). -/
def State.lateOf (s : State) (ps : List PageReq) : Stop → Option Late
  | .trap t => some (.trap t)
  | .page p => some (.page (if ps = [] then [p] else ps) { v := s.grp.v, g := s.grp.g, s := s.team.s, mask := s.frag.mask })
  | .ue _ => none

/-- A fault of a long-latency instruction with lookahead la is reported at once, or after some of its window's
instructions have completed: which is free (01 R33, DESIGN CHOICE, log 14). While an older answer or fault stands, it is
at once. -/
def State.stopLong (s : State) (la size : Nat) (ps : List PageReq) (st : Stop) : State :=
  match s.lateOf ps st with
  | none => s.stopLane size ps st
  | some l =>
    if la = 0 ∨ s.frag.hold ∨ s.frag.windows.any (fun w => w.waiting != 0 || w.fault.isSome) then s.stopLane size ps st
    else
      let (s, x) := s.free 14
      let k := x.toNat % (la + 1)
      if k = 0 then s.stopLane size ps st
      else
        let w : Window := { id := s.grp.opened, left := la, pc := s.frag.pc, len := size, fault := some l, after := k }
        let s := { s.retire size with grp := { s.grp with opened := s.grp.opened + 1 } }
        { s with frag := { s.frag with windows := s.frag.windows ++ [w] } }

/-- The scalar instruction in focus traps. -/
def State.raiseScalar (s : State) (t : Trap) (len : Nat) : State := s.enterScalarTrap t s.team.spc len
/-- An access of the scalar instruction in focus does not complete (DEDUCED, log 33). -/
def State.stopScalar (s : State) (len : Nat) : Stop → State
  | .trap t => s.raiseScalar t len
  | .page p =>
    let (s, q) := s.postFault s.team.vf s.team.ctx s.team.core s.team.spc p
    { s with team := { s.team with spark := [q] } }
  | .ue loc => s.stopContext s.team.vf s.team.ctx causeUe loc
/-- The scalar instruction in focus has completed. -/
def State.retireScalar (s : State) (size : Nat) : State :=
  { s with team := { s.team with spc := s.team.spc + BitVec.ofNat 64 size, sphase := 0 } }

/-! ### Fetch (02 R39, R40) -/

/-- The n bytes of code at a program counter. Fetch is not ordered with stores: it may still see what memory held when the
launch's packet arrived, and which of the two is free (02 R40) (DESIGN CHOICE, log 58). -/
def State.codeVa (s : State) (vf ctx : Nat) (pc : W64) (n : Nat) : Except Stop (State × Nat) :=
  match s.xlateRange vf ctx { kind := 3, exec := true } pc n with
  | .error e => .error e
  | .ok ps =>
    let (u, x) := s.loadParts ps
    match (s.launch s.team.launch).code with
    | none => .ok (u, x)
    | some m =>
      let old := ((s.asOf m).loadParts ps).2
      if old = x then .ok (u, x) else let (u, f) := u.free 58; .ok (u, if bit f 0 then old else x)

/-- The words at a program counter, the second and third 0 where the instruction has none; or why they cannot be read,
with the length as far as it is known. -/
def State.fetch (s : State) (vf ctx : Nat) (pc : W64) : Except (Stop × Nat) (State × W32 × W32 × W32) :=
  if bits pc 1 0 ≠ 0 then .error (.trap { cause := causeMisalign, tval := pc }, 0)
  else
    match s.codeVa vf ctx pc 4 with
    | .error e => .error (e, 0)
    | .ok (s, x) =>
      let w0 : W32 := BitVec.ofNat 32 x
      let n := lengthWords w0
      if n ≤ 1 then .ok (s, w0, 0, 0)
      else
        match s.codeVa vf ctx pc (4 * n) with
        | .error e => .error (e, 4 * n)
        | .ok (s, y) => .ok (s, w0, BitVec.ofNat 32 (y / 2 ^ 32), BitVec.ofNat 32 (y / 2 ^ 64))

/-- The length in bytes of the instruction at a program counter; 0 where it cannot be read. -/
def State.peekLen (s : State) (vf ctx : Nat) (pc : W64) : Nat :=
  match s.fetch vf ctx pc with
  | .ok (_, w0, _, _) => 4 * max 1 (lengthWords w0)
  | .error (_, n) => n

/-! ### Returning from a trap -/

/-- The first failed request of a park. -/
def failedOf (ps : List PageReq) : Option Trap := (ps.find? (·.failed)).map fun p => { cause := causePage, tval := p.vaddr }

/-- The window whose access the fragment is parked on, or will make again. -/
def Fragment.parkedWindow (f : Fragment) : Option (Window × Issued) :=
  f.windows.findSome? fun w => match w.fault with | some (.parked r) => some (w, r) | _ => none
/-- The instruction that a fragment is parked on. -/
def Fragment.parkPc (f : Fragment) : W64 := match f.parkedWindow with | some (w, _) => w.pc | none => f.pc

/-- The fault of a window of the fragment in focus is a trap now, and is due. -/
def State.failLate (s : State) (w : Window) (t : Trap) : State :=
  { s with frag := { s.frag with
      park := [], windows := s.frag.windows.map fun x => if x.id = w.id then { x with fault := some (.trap t), after := 0 } else x } }

/-- A failed access of a window of the fragment in focus is that window's trap. -/
def State.failPark (s : State) : State :=
  match failedOf s.frag.park, s.frag.parkedWindow with
  | some e, some (w, _) => s.failLate w e
  | _, _ => s

/-- The trap of the fragment in focus that an instruction in flight has raised and that can be taken now, the oldest
instruction's first (01 R33): the first unreported fault of its windows, or else the failed access at its program counter. -/
def State.trapInFlight (s : State) : Option (W64 × Nat × Nat × Trap) :=
  let f := s.frag
  match firstFault f.windows, failedOf f.park with
  | some (w, .trap e), _ => some (w.pc, w.len, w.passed + f.skip, e)
  | some _, _ => none
  | none, some e => some (f.pc, s.peekLen s.team.vf s.team.ctx f.pc, f.skip, e)
  | none, none => none

/-- The fragment in focus is not eligible while the other is in its handler: a trap that an instruction of it in flight
raises is held, and PEND is set; a replayable fault parks it (06 R151) (DEDUCED, log 32). -/
def State.holdTrap (s : State) : State :=
  let s := s.failPark
  match s.trapInFlight, firstFault s.frag.windows with
  | some (pc, len, wdone, t), _ =>
    if s.grp.held.isSome || answersOpen s.frag.windows then s
    else
      let kept := s.frag.windows.filter fun w => w.pc != pc && w.fault.isSome
      let h : HeldTrap := { slotB := s.cur.slotB, pc := pc, len := len, wdone := min wdone 15, trap := t }
      let s := s.closeAll
      { s with grp := { s.grp with held := some h, tstat := s.grp.tstat ||| 0x200 },
               frag := { s.frag with park := [], kept := s.frag.kept ++ kept } }
  | none, some (w, .page ps r) => s.reportLate w (.page ps r)
  | none, _ => s

/-- A change of the group's other fragment, which is put in focus for it. -/
def State.onOther (s : State) (f : State → State) : State :=
  let c := s.cur
  ((f (s.flush.focus { c with slotB := !c.slotB })).flush).focus c

/-- eret (06 R165): back to TPC, past a trap or brk that TPC still names; the window instructions that completed will be
passed over; a trap of the other fragment that is held, or that an instruction of it in flight has raised, is taken (06
R151) (DEDUCED, log 32). -/
def State.returnTrap (s : State) : State :=
  let s := if (s.grp.slotOf !s.cur.slotB).valid then s.onOther State.holdTrap else s
  let g := s.grp
  let w := bits g.tstat 3 0
  let same := g.tpc == g.trapPc
  let past := (g.trapCause == causeTrap || g.trapCause == causeBreak) && same
  let pass := g.trapPass && same
  let pc := if past then g.tpc + BitVec.ofNat 64 (bits g.tstat 23 16) else g.tpc
  let s := { s with
    grp := { g with tstat := g.tstat &&& 0xFFFFFD30#32, held := none },
    frag := { s.frag with pc := pc, skip := w, hold := !past && !pass && w != 0, kept := if w = 0 then [] else s.frag.kept } }
  match g.held with
  | none => s
  | some h => s.onOther fun s => s.enterTrap h.trap h.pc h.len h.wdone

/-- seret (06 R166). -/
def State.returnScalarTrap (s : State) : State :=
  let t := s.team
  let past := (t.sTrapCause == causeTrap || t.sTrapCause == causeBreak) && t.sTpc == t.sTrapPc
  let pc := if past then t.sTpc + BitVec.ofNat 64 (bits t.sTstat 23 16) else t.sTpc
  { s with team := { t with spc := pc, sTstat := t.sTstat &&& 0xFFFFFF3F#32 } }

end Sys2Proof.Machine
end

