-- ==== Sys2Proof/Machine/Special.lean ====
section
/-! DEFINITION. The approximated functions (04 R112), minifloat conversions (R116, R117, R119) and the Welford
statistics (R122-R124). An approximated result is a free value held within the error bound the manual sets: the bound is
checked against the function computed in fixed point with 160 fraction bits (DESIGN CHOICE, log 9). -/

namespace Sys2Proof.Machine
open Sys2Proof

/-- Fixed-point one, and ln 2, π and log2 e over it. -/
def fxOne : Nat := 2 ^ 160
def fxLn2 : Nat := 1013035739299659071135698605846798551586536899366
def fxPi : Nat := 4591442807048218921384805199743311128454155024418
def fxLog2e : Nat := 2108501164428393954197770173035669514763056903505

/-- The sum of a series whose next term is the last one times x, divided by the divisors in turn: fixed point. -/
def fxSeries (x : Nat) : List Nat → Nat → Nat → Nat
  | [], _, acc => acc
  | d :: ds, t, acc => let t' := t * x / (fxOne * d); fxSeries x ds t' (acc + t')

/-- e^x for 0 ≤ x < 1, fixed point. -/
def fxExp (x : Nat) : Nat := fxSeries x (List.range' 1 44) fxOne fxOne

/-- 2^(i + r) for a fraction r: the fixed-point mantissa of 2^r. -/
def fxExp2Frac (r : Nat) : Nat := fxExp (r * fxLn2 / fxOne)

/-- An alternating series in the square of x: the terms' divisors in pairs. -/
def fxAltSeries (x2 : Nat) : List Nat → Int → Int → Int
  | [], _, acc => acc
  | d :: ds, t, acc => let t' := -(t * x2 / (fxOne * d : Nat)); fxAltSeries x2 ds t' (acc + t')

/-- sin and cos of x, 0 ≤ x < 2 in fixed point. -/
def fxSin (x : Nat) : Int := fxAltSeries (x * x / fxOne) ((List.range' 1 26).map fun k => 2 * k * (2 * k + 1)) x x
def fxCos (x : Nat) : Int :=
  fxAltSeries (x * x / fxOne) ((List.range' 1 26).map fun k => (2 * k - 1) * (2 * k)) fxOne fxOne

/-- The fraction bits of log2 m for 1 ≤ m < 2 in fixed point, by squaring: n bits. -/
def fxLog2Bits : Nat → Nat → Nat → Nat
  | 0, _, acc => acc
  | n + 1, m, acc =>
    let s := m * m / fxOne
    if s ≥ 2 * fxOne then fxLog2Bits n (s / 2) (2 * acc + 1) else fxLog2Bits n s (2 * acc)

/-- A value as sign and fraction. -/
structure Approx where
  neg : Bool
  num : Nat
  den : Nat
  /-- The value is exactly the fraction. -/
  exact : Bool := false

/-- The reference value of an approximated function at m × 2^e, with its operand's sign; the special values of R112 are
taken before. Lane opcodes 0x50 frsq, 0x51 fexp2, 0x52 flog2, 0x53 fsin, 0x54 fcos, 0x55 ftanh. -/
def approxRef (op : Nat) (neg : Bool) (m : Nat) (e : Int) : Approx :=
  -- the operand as a fixed-point magnitude, and whether it is tiny
  let fx : Nat := if e ≥ -160 then m * 2 ^ (e + 160).toNat else m / 2 ^ (-e - 160).toNat
  let tiny := decide (floorLog2 m 1 + e < -40)
  let asFrac (k : Nat) : Approx := -- k × operand, for a tiny operand
    if e ≥ 0 then { neg := neg, num := m * 2 ^ e.toNat * k, den := fxOne } else { neg := neg, num := m * k, den := fxOne * 2 ^ (-e).toNat }
  match op with
  | 0x50 =>
    let e2 := if e % 2 = 0 then e else e - 1
    let m2 := if e % 2 = 0 then m else 2 * m
    -- 1 / sqrt(m2 × 2^e2) = sqrt(2^300 / m2) × 2^(-e2/2 - 150)
    let r := isqrt (2 ^ 300 / m2)
    let h := -(e2 / 2) - 150
    let ex := r * r * m2 == 2 ^ 300
    if h ≥ 0 then { neg := false, num := r * 2 ^ h.toNat, den := 1, exact := ex } else { neg := false, num := r, den := 2 ^ (-h).toNat, exact := ex }
  | 0x51 =>
    -- an operand of magnitude 512 or more is cut to 512
    let fx := min fx (512 * fxOne)
    let i : Int := if neg then -((fx + fxOne - 1) / fxOne : Nat) else (fx / fxOne : Nat)
    let r : Nat := if neg then (fxOne - fx % fxOne) % fxOne else fx % fxOne
    let ex := decide (e ≥ 0) || m % 2 ^ (-e).toNat == 0
    let v := fxExp2Frac r
    if i ≥ 0 then { neg := false, num := v * 2 ^ i.toNat, den := fxOne, exact := ex } else { neg := false, num := v, den := fxOne * 2 ^ (-i).toNat, exact := ex }
  | 0x52 =>
    let k : Int := Nat.log2 m + e
    let mant := m * fxOne / 2 ^ Nat.log2 m
    let fr := fxLog2Bits 120 mant 0
    let v : Int := k * (2 ^ 120 : Nat) + fr
    { neg := decide (v < 0), num := v.natAbs, den := 2 ^ 120, exact := m == 2 ^ Nat.log2 m }
  | 0x53 =>
    if tiny then asFrac fxPi
    else
      let t := fx % (2 * fxOne)
      let (s, t) := if t ≥ fxOne then (true, t - fxOne) else (false, t)
      let t := if 2 * t > fxOne then fxOne - t else t
      { neg := neg != s, num := (fxSin (t * fxPi / fxOne)).natAbs, den := fxOne }
  | 0x54 =>
    let t := fx % (2 * fxOne)
    let t := if t > fxOne then 2 * fxOne - t else t
    let v := if 2 * t > fxOne then -(fxCos ((fxOne - t) * fxPi / fxOne)) else fxCos (t * fxPi / fxOne)
    { neg := decide (v < 0), num := v.natAbs, den := fxOne }
  | _ =>
    if tiny then asFrac fxOne
    else
      let y := 2 * (min fx (64 * fxOne)) * fxLog2e / fxOne
      let v := fxExp2Frac (y % fxOne) * 2 ^ (y / fxOne)
      { neg := neg, num := v - fxOne, den := v + fxOne }

/-- The special values of R112; the zero and one signs of R101. Integers n and n + 0.5 of fsin and fcos included. -/
def approxSpecial (op : Nat) (v : FVal) : Option (Nat × W32) :=
  let one (s : Bool) : Nat := fmtF32.sign s + 0x3F800000
  match op, v with
  | 0x50, .fin s 0 _ => some (fmtF32.infBits s, flagDZ)
  | 0x50, .fin s _ _ => if s then some fmtF32.invalid else none
  | 0x50, .inf s => if s then some fmtF32.invalid else some (0, 0)
  | 0x51, .fin _ 0 _ => some (one false, 0)
  | 0x51, .inf s => some (if s then 0 else fmtF32.infBits false, 0)
  | 0x52, .fin _ 0 _ => some (fmtF32.infBits true, flagDZ)
  | 0x52, .fin s m e => if s then some fmtF32.invalid else if Nat.log2 m + e = 0 ∧ m = 2 ^ Nat.log2 m then some (0, 0) else none
  | 0x52, .inf s => if s then some fmtF32.invalid else some (fmtF32.infBits false, 0)
  | 0x53, .inf _ => some fmtF32.invalid
  | 0x54, .inf _ => some fmtF32.invalid
  | 0x53, .fin s 0 _ => some (fmtF32.sign s, 0)
  | 0x54, .fin _ 0 _ => some (one false, 0)
  | 0x53, .fin s m e =>
    let h : Nat := if e ≥ -1 then m * 2 ^ (e + 1).toNat else if m % 2 ^ (-e - 1).toNat = 0 then m / 2 ^ (-e - 1).toNat else 0
    -- h is twice the magnitude where that is an integer
    if h = 0 then none else if h % 2 = 0 then some (fmtF32.sign s, 0) else some (one (s != (h % 4 == 3)), 0)
  | 0x54, .fin _ m e =>
    let h : Nat := if e ≥ -1 then m * 2 ^ (e + 1).toNat else if m % 2 ^ (-e - 1).toNat = 0 then m / 2 ^ (-e - 1).toNat else 0
    if h = 0 then none else if h % 2 = 1 then some (0, 0) else some (one (h % 4 == 2), 0)
  | _, .inf s => some (one s, 0)
  | _, .fin s 0 _ => some (fmtF32.sign s, 0)
  | _, _ => none

/-- A result code is within n units in the last place of a reference value, less a margin of 2^-40 of a unit where the
reference is not exact, so that it is within n units of the true value (DESIGN CHOICE, log 9). -/
def withinUlps (n : Nat) (code : Nat) (a : Approx) : Bool :=
  match fmtF32.read code with
  | .fin s m e =>
    let q := max (floorLog2 (max a.num 1) a.den) (-126) - 23
    -- everything over den × 2^min(e, q)
    let lo := min e (q - 40)
    let res : Int := (if s then -1 else 1) * (m * 2 ^ (e - lo).toNat * a.den : Nat)
    let (x, y) := scaleFrac a.num 1 lo
    let ref : Int := (if a.neg then -1 else 1) * (x : Int)
    let margin := if a.exact then 0 else a.den * y * 2 ^ (q - 40 - lo).toNat
    decide ((res * y - ref).natAbs + margin ≤ n * a.den * y * 2 ^ (q - lo).toNat)
  | _ => false

/-- An approximated function of an f32 code (04 R112): the special values, and otherwise a free value within the bound
where the free value obeys it, the reference rounded to nearest where it does not. An exact reference is given as it is,
and one that rounds to infinity rounded (DESIGN CHOICE, log 9). -/
def fApproxF32 (op : Nat) (ftz : Bool) (x : Nat) : Nat × W32 :=
  let a := fmtF32.operand ftz x
  match fmtF32.nanOf [a], approxSpecial op (fmtF32.read a), fmtF32.read a with
  | some r, _, _ => r
  | none, some r, _ => r
  | none, none, .fin s m e =>
    let r := approxRef op s m e
    let near := fmtF32.round 0 ftz r.neg (max r.num 1) r.den
    let free := (Config.approx op 0 (BitVec.ofNat 32 a)).toNat
    if r.exact && withinUlps 0 near.1 r then near
    else if near.1 % 2 ^ 31 = 0x7F800000 then near
    else (if withinUlps (if op = 0x50 then 1 else 2) free r && !(ftz && fmtF32.isSub free) then free else near.1,
      flagNX ||| (near.2 &&& flagUF))
  | none, none, _ => fmtF32.invalid

/-- The same in a 16-bit format: the f32 result rounded to nearest even (04 R112) (DESIGN CHOICE, log 9). -/
def fApprox (op ft : Nat) (ftz : Bool) (x : Nat) : Nat × W32 :=
  if ft = 0 then fApproxF32 op ftz x
  else
    let f := ftFmt ft
    match f.nanOf [x] with
    | some r => r
    | none =>
      let r := fApproxF32 op false (fConvert f fmtF32 0 false x).1
      if r.1 = fmtF32.nanBits then (f.nanBits, r.2)
      else let c := fConvert fmtF32 f 0 false r.1; (c.1, r.2 ||| c.2)

/-- A minifloat code's finite value rounded to nearest even in a format without its overflow rule: the magnitude code,
which may lie beyond the largest finite one, and the flags UF and NX. -/
def miniMag (f : Fmt) (m : Nat) (e : Int) : Nat × W32 :=
  if m = 0 then (0, 0)
  else
    let (n, d) := scaleFrac m 1 (-e)
    let emin : Int := 1 - f.bias
    let ex := floorLog2 n d
    let eq := if ex < emin then emin else ex
    let (k, inexact) := roundMag 0 false n d (eq - f.mbits)
    let unbounded := (roundMag 0 false n d (ex - f.mbits)).1
    let tiny := decide (ex < emin) && !(ex == emin - 1 && unbounded == 2 ^ (f.mbits + 1))
    ((eq + f.bias - 1).toNat * 2 ^ f.mbits + k, flagIf inexact flagNX ||| flagIf (tiny && inexact) flagUF)

/-- cvtn's formats: 0 e4m3, 1 e5m2, 2 e2m1 (04 R117). -/
def miniFmt (k : Nat) : Fmt := match k with | 0 => fmtE4m3 | 1 => fmtE5m2 | _ => fmtE2m1
/-- The largest finite magnitude code of each. -/
def miniMax (k : Nat) : Nat := match k with | 0 => 0x7E | 1 => 0x7B | _ => 0x7

/-- cvtn of a value, with the flags (04 R117). nanFrac is the operand's fraction bit below its quiet bit. -/
def cvtNarrow (k : Nat) (sat : Bool) (v : FVal) (snan nanFrac : Bool) : Nat × W32 :=
  let f := miniFmt k
  let sgn (s : Bool) : Nat := f.sign s
  let beyond (s : Bool) : Nat × W32 :=
    (if sat || k == 2 then sgn s + miniMax k else sgn s + (if k = 0 then 0x7F else 0x7C), flagOF ||| flagNX)
  match v with
  | .nan s _ =>
    if k = 0 then (sgn s + 0x7F, flagIf snan flagNV)
    else if k = 1 then (sgn s + 0x7E + (if nanFrac then 1 else 0), flagIf snan flagNV)
    else (0, flagNV)
  | .inf s => if k = 1 && !sat then (sgn s + 0x7C, 0) else beyond s
  | .fin s m e =>
    let (c, fl) := miniMag f m e
    if c > miniMax k then beyond s else (sgn s + c, fl)

/-- cvtn of an f32 or bf16 code (04 R117). -/
def fCvtn (k : Nat) (sat bf : Bool) (x : Nat) : Nat × W32 :=
  let f := if bf then fmtBf16 else fmtF32
  cvtNarrow k sat (f.read x) (f.isSnan x) (x.testBit (f.mbits - 2))

/-- The exact expansion of a small format's code into e4m3 (04 R94, R116). -/
def toE4m3 (v : FVal) : Nat :=
  match v with
  | .fin s m e => fmtE4m3.sign s + (miniMag fmtE4m3 m e).1
  | _ => 0x7F

/-- cvtx (04 R116). -/
def fCvtx (f : BitVec 4) (x : Nat) : Nat :=
  let h := if bit f 2 then 4 else 0
  let bytes (g : Nat → Nat) : Nat := g 0 + g 1 * 2 ^ 8 + g 2 * 2 ^ 16 + g 3 * 2 ^ 24
  if !bit f 3 then
    match bits f 1 0 with
    | 0 => bytes fun j => let n := (x >>> (4 * (h + j))) % 16; toE4m3 (.fin (decide (n ≥ 8)) (if n ≥ 8 then 16 - n else n) 0)
    | 1 => bytes fun j => toE4m3 (.fin false ((x >>> (4 * (h + j))) % 16) 0)
    | 2 => bytes fun j => toE4m3 (fmtE2m3.read ((x >>> (6 * j)) % 64))
    | _ => bytes fun j => toE4m3 (fmtE3m2.read ((x >>> (6 * j)) % 64))
  else
    let dst := if bit f 2 then fmtBf16 else fmtF32
    match bits f 1 0 with
    | 0 => match fmtE4m3.read (x % 256) with
           | .nan s _ => dst.sign s + dst.nanBits
           | v => (dst.ofVal 0 false v).1
    | 1 => (fConvert fmtE5m2 dst 0 false (x % 256)).1
    | _ => (dst.ofVal 0 false (fmtE2m1.read (x % 16))).1

/-- The exponent code of a magnitude (04 R118). A PEND that software has boarded may be no magnitude: bit 31 is dropped, and an
infinity or NaN has code 254 (DESIGN CHOICE, log 55). -/
def amaxCode (x : Nat) : Nat :=
  match fmtF32.read (x % 2 ^ 31) with
  | .fin _ m e => if m = 0 then 0 else (min (max (Nat.log2 m + e + 127) 1) 254).toNat
  | _ => 254

/-- emax of cvtq's formats 0-3: mxe4m3, mxe5m2, mxe2m1, mxi8 (04 R92). -/
def mxEmax (k : Nat) : Nat := match k with | 0 => 8 | 1 => 15 | 2 => 2 | _ => 0

/-- An element of cvtq for scale code s (04 R119). A NaN has no mxi8 element: it is free, and NV is set (DESIGN CHOICE, log 9); an
inexact one sets NX alone, a clamped one OF and NX (DESIGN CHOICE, log 65). -/
def cvtqElement (k s : Nat) (sat bf : Bool) (x : Nat) : Nat × W32 :=
  let f := if bf then fmtBf16 else fmtF32
  let v := match f.read x with | .fin n m e => FVal.fin n m (e + 127 - s) | v => v
  if k < 3 then cvtNarrow k sat v (f.isSnan x) (x.testBit (f.mbits - 2))
  else match v with
    | .nan .. => ((Config.approx 0x5A 3 (BitVec.ofNat 32 x)).toNat % 256, flagNV)
    | .inf n => (if n then 0x80 else 0x7F, flagOF ||| flagNX)
    | .fin n m e =>
      let (a, b) := scaleFrac m 1 (-(e + 6))
      let (r, inexact) := roundMag 0 n a b 0
      let lim := if n then 128 else 127
      if r > lim then (if n then 0x80 else 0x7F, flagOF ||| flagNX)
      else ((if n then 256 - r else r) % 256, flagIf inexact flagNX)

/-- A Welford triple: count, mean and M2 as codes of the format (04 R122). -/
structure Welford where
  count : Nat
  mean : Nat
  m2 : Nat
  deriving DecidableEq, Repr

/-- wfup (04 R123). Of several NaNs in the step of M2, that of d1 is kept, then d2's, then M2's (DESIGN CHOICE, log 55). -/
def wfUp (f : Fmt) (rm : Rounding) (ftz : Bool) (w : Welford) (x : Nat) : Welford × W32 :=
  if w.count = 2 ^ 32 - 1 then (w, flagNV)
  else
    let n := w.count + 1
    let d1 := fAdd f rm ftz true x w.mean
    let q := match f.nanOf [d1.1], f.read d1.1 with
      | some r, _ => r
      | none, .fin s m e => if m = 0 then (f.sign s, 0) else f.roundQuot rm ftz s m e n 0
      | none, _ => (d1.1, 0)
    let m := fAdd f rm ftz false w.mean q.1
    let d2 := fAdd f rm ftz true x m.1
    let m2 := fMa f rm ftz d1.1 d2.1 w.m2
    ({ count := n, mean := m.1, m2 := m2.1 }, d1.2 ||| q.2 ||| m.2 ||| d2.2 ||| m2.2)

/-- x + (y × num / den) with one rounding, x a list of codes summed exactly with it (04 R124); of several NaNs the first in
the written order is kept (DESIGN CHOICE, log 55). -/
def fAddScaled (f : Fmt) (rm : Rounding) (ftz : Bool) (xs : List Nat) (y num den : Nat) : Nat × W32 :=
  let xs := xs.map (f.operand ftz)
  let y := f.operand ftz y
  match f.nanOf (xs ++ [y]) with
  | some r => r
  | none =>
    -- everything times den: the exact sum over den
    let scaled (v : FVal) : FVal := match v with | .fin s m e => .fin s (m * den) e | v => v
    let vs := xs.map (fun x => scaled (f.read x))
    let yv := match f.read y with | .fin s m e => .fin s (m * num) e | v => v
    let all := vs ++ [yv]
    let pinf := all.any (fun v => v == .inf false)
    let ninf := all.any (fun v => v == .inf true)
    if pinf && ninf then f.invalid
    else if pinf then (f.infBits false, 0)
    else if ninf then (f.infBits true, 0)
    else
      let ts := all.filterMap fun v => match v with | .fin s m e => some (s, m, e) | _ => none
      let (v, e0) := sumTerms ts
      if v = 0 then f.roundSum rm ftz ts
      else if e0 ≥ 0 then f.round rm ftz (decide (v < 0)) (v.natAbs * 2 ^ e0.toNat) den
      else f.round rm ftz (decide (v < 0)) v.natAbs (den * 2 ^ (-e0).toNat)

/-- wfmerge of Q into P (04 R124) (DESIGN CHOICE, log 55). -/
def wfMerge (f : Fmt) (rm : Rounding) (ftz : Bool) (p q : Welford) : Welford × W32 :=
  if q.count = 0 then (p, 0)
  else if p.count = 0 then (q, 0)
  else if p.count + q.count ≥ 2 ^ 32 then (p, flagNV)
  else
    let n := p.count + q.count
    let delta := fAdd f rm ftz true q.mean p.mean
    let m := fAddScaled f rm ftz [p.mean] delta.1 q.count n
    let sq := fMul f rm ftz delta.1 delta.1
    let m2 := fAddScaled f rm ftz [p.m2, q.m2] sq.1 (p.count * q.count) n
    ({ count := n, mean := m.1, m2 := m2.1 }, delta.2 ||| m.2 ||| sq.2 ||| m2.2)

end Sys2Proof.Machine
end

