-- ==== Sys2Proof/Machine/Operands.lean ====
section
/-! DEFINITION. Every operand form of both streams, the checks made before an instruction has an effect (02 R44-R46, R57,
R58; 04 R102), and the shapes of the register instructions. -/

namespace Sys2Proof.Machine
open Sys2Proof

/-- What exec answers. -/
abbrev Out := Host.Outcome State Fault Refusal

/-! ### Checks 4 and 5 of R57 -/

/-- The lowest register of a field's block at or above the count (02 R58). -/
def beyond (count : Nat) (k : Kind) (x : Nat) : Option Nat :=
  match k with
  | .v n _ | .ring n _ => if x + n > count then some (max x count) else none
  | _ => none

/-- A rendezvous point at or beyond the declared count (02 R57). -/
def beyondPoint (count : Nat) (k : Kind) (x : Nat) : Option Nat :=
  match k with | .point => if x ≥ count then some x else none | _ => none

/-- The register fields of a lane instruction in the order they are examined: A, B, C, D. The B field of an L96
instruction with SLOT 0 is examined in C's place (02 R57). -/
def specFields (p : LSpec) (o : LOp) : List (Kind × Nat) :=
  [(p.a, o.a.toNat)] ++ (match o.bField with | some b => [(p.b, b.toNat)] | none => [])
  ++ (match o.cField with | some c => [(p.c, c.toNat)] | none => []) ++ [(p.d, o.d.toNat)]

/-- Checks 4 and 5 of R57 on a lane instruction. -/
def State.laneCheck (s : State) (i : Instr) (o : LOp) : Option Trap :=
  match laneSpec i.long with
  | none => none
  | some p =>
    let fs := specFields p o
    match fs.findSome? (fun f => beyond s.grp.vcount f.1 f.2) with
    | some r => some { cause := causeRegRange, tval := BitVec.ofNat 64 r }
    | none =>
      match fs.findSome? (fun f => beyondPoint s.team.hdr.rdv f.1 f.2) with
      | some r => some { cause := causeRdvRange, tval := BitVec.ofNat 64 r }
      | none => none

/-- A lane instruction: it traps in its decode checks, or has its effect. -/
def laneExec (i : Instr) (o : LOp) (s : State) (effect : State → State) : Out :=
  match s.laneCheck i o with
  | some t => .next (s.raise t i.size)
  | none => .next (effect s)

/-! ### Sources -/

/-- A literal as an integer operand (02 R45): sign- or zero-extended for a 64-bit operand. -/
def litVal (imm : W32) (wide signed : Bool) : Nat := if wide && signed then wrap 64 (sext 32 imm.toNat) else imm.toNat

/-- Operand A of a lane. -/
def State.srcA (s : State) (o : LOp) (wide : Bool) (l : Nat) : Nat := s.laneVal wide o.a.toNat l
/-- Operand B of a lane: a register, or the literal in SLOT 0 (02 R44). -/
def State.srcB (s : State) (o : LOp) (wide signed : Bool) (l : Nat) : Nat :=
  if o.slot? = some 0 then litVal o.imm wide signed else s.laneVal wide o.b.toNat l
/-- Operand C of a lane: the C field, the B field in SLOT 0, or the literal in SLOT 1 (02 R44). -/
def State.srcC (s : State) (o : LOp) (wide signed : Bool) (l : Nat) : Nat :=
  match o.cField with
  | some c => s.laneVal wide c.toNat l
  | none => litVal o.imm wide signed
/-- The predicate triple that C names (02 R44). -/
def cTripleOf (o : LOp) : Nat := match o.cField with | some c => c.toNat | none => 0

/-! ### Register instructions in lanes -/

/-- Writing D in the enabled lanes; every source is read before (03 R75). -/
def State.setD (s : State) (o : LOp) (wide : Bool) (f : Nat → Nat) : State := s.wlanes wide o.d.toNat (s.enabled o) f

/-- A short-latency instruction that writes D. -/
def lanePure (i : Instr) (o : LOp) (s : State) (wide : Bool) (f : Nat → Nat) : Out :=
  laneExec i o s fun s => (s.setD o wide f).retire i.size

/-- D from A. dw and aw: 64-bit D and A. -/
def lane1 (i : Instr) (o : LOp) (s : State) (dw aw : Bool) (f : Nat → Nat) : Out :=
  lanePure i o s dw fun l => f (s.srcA o aw l)
/-- D from A and B; signed: a literal B is sign-extended. -/
def lane2 (i : Instr) (o : LOp) (s : State) (w bw signed : Bool) (f : Nat → Nat → Nat) : Out :=
  lanePure i o s w fun l => f (s.srcA o w l) (s.srcB o bw signed l)
/-- D from A, B and C. -/
def lane3 (i : Instr) (o : LOp) (s : State) (w cw signed : Bool) (f : Nat → Nat → Nat → Nat) : Out :=
  lanePure i o s w fun l => f (s.srcA o w l) (s.srcB o w signed l) (s.srcC o cw signed l)

/-- One bit per enabled lane into triple D, the others left (03 R81). -/
def lanePred (i : Instr) (o : LOp) (s : State) (f : Nat → Bool) : Out :=
  laneExec i o s fun s => (s.wtriple o.d.toNat (s.enabled o) (maskOf f)).retire i.size

/-! ### The G = 1 short forms -/

/-- A g register or pair. -/
def State.gVal (s : State) (wide : Bool) (r : Nat) : Nat := (s.rg r).toNat + (if wide then (s.rg (r + 1)).toNat * 2 ^ 32 else 0)

/-- The fragment in focus leaves its slot (05 R130). -/
def State.leaveSlot (s : State) : State := { s with frag := { s.frag with valid := false } }

/-- A write of w to the fragment's mask (05 R135). -/
def State.writeMask (s : State) (w : Mask) : State :=
  let m := s.frag.mask
  let new := w &&& (m ||| s.grp.dormant)
  let s := { s with grp := { s.grp with dormant := (s.grp.dormant ||| m) &&& ~~~new }, frag := { s.frag with mask := new } }
  if new = 0 then s.leaveSlot else s

/-- Writing one g register. -/
def State.writeG (s : State) (r : Nat) (x : W32) : State :=
  if r < 3 then s.writeMask (setMaskWord s.frag.mask r x) else s.wg r x
/-- Writing a g register or pair. Two words of the mask are one write of it (05 R135). -/
def State.writeGVal (s : State) (wide : Bool) (r x : Nat) : State :=
  let lo : W32 := BitVec.ofNat 32 x
  let hi : W32 := BitVec.ofNat 32 (x / 2 ^ 32)
  if wide && decide (r + 1 < 3) then s.writeMask (setMaskWord (setMaskWord s.frag.mask r lo) (r + 1) hi)
  else
    let s := s.writeG r lo
    if wide then s.writeG (r + 1) hi else s

/-- The instruction in focus has issued and leads to s', unless its fragment leaves its slot while a fault stands or answers
are to come: these come first, and with it every window closes. -/
def State.issued (s s' : State) : State :=
  if s'.frag.valid then s'
  else
    match firstFault s.frag.windows with
    | some (w, l) => s.reportLate w l
    | none => if answersOpen s.frag.windows then s.wait else s'.closeAll

/-- A G = 1 instruction (02 R42): once for the fragment. A write to g0:g2 traps inside a bracket (05 R143); a fragment
that leaves its slot closes its windows, whose answers it waits for. -/
def gExec (i : Instr) (s : State) (wide : Bool) (d x : Nat) : Out :=
  if d < 3 ∧ s.frag.bracket then .next (s.raise { cause := causeAllon, tval := 3 } i.size)
  else .next (s.issued ((s.writeGVal wide d x).retire i.size))

/-- A short form of two sources (02 R42): in lanes, or on g registers. -/
def short2 (i : Instr) (w : L32) (s : State) (wide bw signed : Bool) (f : Nat → Nat → Nat) : Out :=
  if w.g then gExec i s wide w.d.toNat (f (s.gVal wide w.a.toNat) (s.gVal bw w.b.toNat))
  else lane2 i w.toLOp s wide bw signed f
/-- A short form of one source. -/
def short1 (i : Instr) (w : L32) (s : State) (dw aw : Bool) (f : Nat → Nat) : Out :=
  if w.g then gExec i s dw w.d.toNat (f (s.gVal aw w.a.toNat)) else lane1 i w.toLOp s dw aw f

/-! ### Floating instructions -/

/-- A register value is launch poison (04 R102). -/
def isPoison (x : W32) : Bool := x.toNat / 1024 == 0x7F810000 / 1024

/-- Registers of a field that a poison check reads: count of them from reg + off; reg is the number the instruction
names. -/
structure PoisonField where
  reg : Nat
  count : Nat
  off : Nat := 0

/-- The poison check of R102: fields in order, within a field lanes ascending, then its registers. -/
def State.poisonCheck (s : State) (m : Mask) (fs : List PoisonField) : Option Trap :=
  if !s.team.hdr.poison then none
  else
    fs.findSome? fun f => (lanesOf m).findSome? fun l => (List.range f.count).findSome? fun k =>
      let x := s.lane (f.reg + f.off + k) l
      if isPoison x then some { cause := causeUninit, tval := BitVec.ofNat 64 (f.reg % 1024 + x.toNat % 1024 * 2 ^ 16) } else none

/-- The poison fields A, B and C of an instruction with the widths given in registers, 0 for an operand it has not (DEDUCED, log 33). -/
def poisonOf (o : LOp) (a b c : Nat) : List PoisonField :=
  [{ reg := o.a.toNat, count := a }]
  ++ (match o.bField with | some x => [{ reg := x.toNat, count := b }] | none => [])
  ++ (match o.cField with | some x => [{ reg := x.toNat, count := c }] | none => [])

/-- A floating operand's literal (02 R45; 04 R103): widened exactly for f64. A signalling NaN becomes quiet and sets no flag
(DESIGN CHOICE, log 55). -/
def fLit (ft : Nat) (imm : W32) : Nat := if ft = 1 then (fConvert fmtF32 fmtF64 0 false imm.toNat).1 else imm.toNat
/-- The code of a floating register operand: its low 16 bits for f16 and bf16 (04 R93). -/
def fCode (ft x : Nat) : Nat := if ft ≥ 2 then x % 2 ^ 16 else x
def ftWide (ft : Nat) : Bool := ft == 1
def ftRegs (ft : Nat) : Nat := if ft = 1 then 2 else 1

def State.fA (s : State) (o : LOp) (ft l : Nat) : Nat := fCode ft (s.laneVal (ftWide ft) o.a.toNat l)
def State.fB (s : State) (o : LOp) (ft l : Nat) : Nat :=
  if o.slot? = some 0 then fLit ft o.imm else fCode ft (s.laneVal (ftWide ft) o.b.toNat l)
def State.fC (s : State) (o : LOp) (ft l : Nat) : Nat :=
  match o.cField with | some c => fCode ft (s.laneVal (ftWide ft) c.toNat l) | none => fLit ft o.imm

/-- A lane instruction with a poison check after its decode checks (06 R156). -/
def laneExecP (i : Instr) (o : LOp) (s : State) (fs : List PoisonField) (effect : State → State) : Out :=
  laneExec i o s fun s =>
    match s.poisonCheck (s.enabled o) fs with
    | some t => s.raise t i.size
    | none => effect s

/-- The union of flags over the enabled lanes (04 R96). -/
def unionFlags (m : Mask) (f : Nat → W32) : W32 := (lanesOf m).foldl (fun a l => a ||| f l) 0

/-- A floating instruction that writes D and flags, at issue. -/
def floatPure (i : Instr) (o : LOp) (s : State) (fs : List PoisonField) (dw : Bool) (f : Nat → Nat × W32) : Out :=
  laneExecP i o s fs fun s =>
    ((s.setD o dw fun l => (f l).1).orFlags (unionFlags (s.enabled o) fun l => (f l).2)).retire i.size

/-- The registers, lanes and values a long-latency result of 32 or 64 bits writes (02 R49). -/
def resultOf (d : Nat) (m : Mask) (wide : Bool) (f : Nat → Nat) : List (Nat × Mask × LaneVec) :=
  [(d, m, Vector.ofFn fun l : Fin 96 => BitVec.ofNat 32 (f l.val))]
  ++ (if wide then [(d + 1, m, Vector.ofFn fun l : Fin 96 => BitVec.ofNat 32 (f l.val / 2 ^ 32))] else [])

/-- Room in the group's return buffer for one more long-latency instruction (02 R50) (DESIGN CHOICE, log 64). -/
def State.bufferFull (s : State) : Bool := decide (s.grp.buffered s.cur.slotB s.frag ≥ 16)

/-- A long-latency instruction after its checks: it waits while the return buffer is full. -/
def longExec (i : Instr) (o : LOp) (s : State) (effect : State → State) : Out :=
  laneExec i o s fun s => if s.bufferFull then s.wait else effect s

/-- A long-latency floating instruction: results and flags at the close of its window (04 R96). -/
def floatLong (i : Instr) (o : LOp) (s : State) (fs : List PoisonField) (dw : Bool) (f : Nat → Nat × W32) : Out :=
  longExec i o s fun s =>
    match s.poisonCheck (s.enabled o) fs with
    | some t => s.stopLong o.la.toNat i.size [] (.trap t)
    | none => s.openWindow o.la.toNat i.size 0 (resultOf o.d.toNat (s.enabled o) dw fun l => (f l).1)
        (unionFlags (s.enabled o) fun l => (f l).2)

/-! ### Scalar instructions -/

/-- The line sequencer goes on at a word of its bank; a word outside the bank is a program fault (13 R364). -/
def State.seqTo (s : State) (w : Int) : State :=
  if w < 0 ∨ w ≥ 4096 then { s with head := { s.head with fault := some causeMisalign } } else { s with head := { s.head with pc := w.toNat } }

/-- A scalar instruction of 64-bit sources that writes D and completes (02 R51). It serves the scalar stream and the line
sequencer, which counts words (13 R362). -/
def scalarDone (s : State) (size : Nat) : State :=
  match s.cur.stream with
  | .sequencer => s.seqTo ((s.head.pc + size / 4 : Nat) : Int)
  | _ => s.retireScalar size

def scalarPure (size : Nat) (w : S32) (s : State) (x : Nat) : Out :=
  .next (scalarDone (s.ws w.d.toNat (BitVec.ofNat 64 x)) size)

/-- The S32 form of a scalar integer instruction (03 R89). -/
def scalar32 (op : Nat) (w : S32) (s : State) : Out :=
  scalarPure 4 w s (sAlu op w.f.toNat (s.rs w.d.toNat).toNat (s.rs w.a.toNat).toNat (s.rs w.b.toNat).toNat)
/-- The S64 form: E1, sign-extended, replaces B (02 R47). -/
def scalar64 (op : Nat) (o : S64) (s : State) : Out :=
  scalarPure 8 o.w s (sAlu op o.w.f.toNat (s.rs o.w.d.toNat).toNat (s.rs o.w.a.toNat).toNat (wrap 64 (sext 32 o.e1.toNat)))

end Sys2Proof.Machine
end

