-- ==== Sys2Proof/Machine/Control.lean ====
section
/-! DEFINITION. Control flow of group code and of the scalar stream, the decision queue, and exchanges among lanes
(05 R125-R149). -/

namespace Sys2Proof.Machine
open Sys2Proof

/-! ### Fragments and records -/

/-- A join token (05 R128). -/
def tokenOf (o : LOp) : Nat := bits o.a 5 0 * 1024 + o.d.toNat

/-- Records after a change: those whose lanes have all arrived become pending, those that expect nobody and hold nobody
are deleted (05 R130). A timer of a pending record is disarmed (R134). -/
def settleRecs (rs : List SplitRec) : List SplitRec :=
  (rs.map fun r => if r.arrived != 0 && r.arrived == r.expected then { r with pending := true, armed := false } else r).filter
    fun r => r.expected != 0 || r.released != []

/-- An arrival of lanes m at the record holding a token (05 R130): its record, and the newer ones. -/
def arriveRecs (t : Nat) (m : Mask) (pc cont : W64) (budget : Option Nat) : List SplitRec → List SplitRec
  | [] => []
  | r :: rs =>
    if r.token = t then
      let r := if r.arrived = 0 then { r with cont := cont, joinPc := pc } else r
      let r := match budget with | some b => if r.armed then r else { r with armed := true, budget := b } | none => r
      { r with expected := r.expected ||| m, arrived := r.arrived ||| m } :: rs.map fun q => { q with expected := q.expected &&& ~~~m }
    else r :: arriveRecs t m pc cont budget rs

/-- The byte offset of spill entry i of a group in the window (02 R59, 14 R387). -/
def spillAt (t : Team) (gid i : Nat) : Nat := t.hdr.spad - t.hdr.groups * t.hdr.spill * 32 + 32 * (gid * t.hdr.spill + i)

/-- Pushing a fragment onto the spill stack of the group in focus (14 R387). -/
def State.pushSpill (s : State) (m : Mask) (pc : W64) : State :=
  let a := spillAt s.team s.cur.gid s.grp.spills
  let s := { s with team := { s.team with win := writeBytes s.team.win a 32 (m.toNat + pc.toNat * 2 ^ 128) } }
  { s with grp := { s.grp with spills := s.grp.spills + 1 } }

/-- A slot may be filled (05 R132, R143; 06 R151): the other fragment is neither in a bracket nor in a handler. -/
def mayFill (g : Group) (other : Fragment) : Bool := !(other.valid && other.bracket) && !inh g.tstat

/-- The newest pending record, with the records before and after it. -/
def newestPending : List SplitRec → Option (List SplitRec × SplitRec × List SplitRec)
  | [] => none
  | r :: rs =>
    match newestPending rs with
    | some (a, x, b) => some (r :: a, x, b)
    | none => if r.pending then some ([], r, rs) else none

/-- Filling one empty slot of a group (05 R132): the newest pending record, otherwise the newest spill entry. A record
whose timer expired gives its released fragments first, the oldest before the others (R133) (DESIGN CHOICE, log 54). -/
def fillSlot (t : Team) (gid : Nat) (g : Group) (b : Bool) : Group :=
  if (g.slotOf b).valid || !mayFill g (g.slotOf !b) then g
  else
    match newestPending g.split with
    | some (pre, r, post) =>
      match r.released with
      | (m, pc) :: ms =>
        let r' := { r with released := ms, pending := ms != [] || (r.arrived != 0 && r.arrived == r.expected) }
        { g.setSlot b { valid := true, pc := pc, mask := m } with split := settleRecs (pre ++ r' :: post) }
      | [] => { g.setSlot b { valid := true, pc := r.cont, mask := r.arrived } with split := pre ++ post }
    | none =>
      if g.spills = 0 then g
      else
        let a := spillAt t gid (g.spills - 1)
        let m : Mask := BitVec.ofNat 96 (readBytes t.win a 12)
        { g.setSlot b { valid := true, pc := BitVec.ofNat 64 (readBytes t.win (a + 16) 8), mask := m } with spills := g.spills - 1 }

/-- A group has no slot, spill entry or arrived lane left: it ends (05 R132). -/
def groupOver (g : Group) : Bool :=
  !g.slotA.valid && !g.slotB.valid && g.spills == 0 && g.split.all fun r => r.arrived == 0 && r.released == []

/-- Freeing decision-queue entries that every live group has taken (01 R25). -/
def freeDq (t : Team) : Team :=
  let live := t.groups.filter fun p => !p.2.ended
  let upTo := live.foldl (fun a p => min a p.2.taken) (t.dqFreed + t.dq.length)
  { t with dq := t.dq.drop (upTo - t.dqFreed), dqFreed := upTo }

/-- After a lane instruction: empty slots are filled, and a group that is over ends: its registers enter the pool (03 R73),
its dormant lanes end with it, and its ray slots are empty (12 R327). Of two empty slots A is filled first (DESIGN CHOICE, log 54). -/
def settleGroup (t : Team) (gid : Nat) : Team :=
  let g := t.groups.get {} gid
  if g.ended then t
  else
    let g := fillSlot t gid (fillSlot t gid g false) true
    if groupOver g then
      freeDq { t with groups := t.groups.set gid { g with ended := true, dormant := 0, split := [], v := [], rays := [] }, vpool := t.vpool + g.vcount / 32 }
    else { t with groups := t.groups.set gid g }

/-! ### Branches -/

def State.nest (s : State) (tval : Nat) (size : Nat) : State := s.raise { cause := causeAllon, tval := BitVec.ofNat 64 tval } size
def State.misalign (s : State) (target : W64) (size : Nat) : State := s.raise { cause := causeMisalign, tval := target } size
def aligned4 (x : W64) : Bool := bits x 1 0 == 0

/-- A signed byte offset from an address. -/
def offsetBy (pc : W64) (imm : W32) : W64 := pc + imm.signExtend 64

/-- A predicated bra that divides its fragment (05 R129). taken and left are the two parts. Where the records and the spill
stack are both full, the trap is the record's (DESIGN CHOICE, log 54). -/
def State.diverge (s : State) (tok : Nat) (target : W64) (taken left : Mask) (size : Nat) : State :=
  let known := s.grp.split.any fun r => r.token == tok
  let other := s.grp.slotOf !s.cur.slotB
  if !known && decide (s.grp.split.length ≥ 16) then s.raise { cause := causeSplit, tval := BitVec.ofNat 64 tok } size
  else if other.valid && decide (s.grp.spills ≥ s.team.hdr.spill) then
    s.raise { cause := causeSplit, tval := BitVec.ofNat 64 (0x10000 + tok) } size
  else
    let m := s.frag.mask
    let rs := if known then s.grp.split.map fun r => if r.token == tok then { r with expected := r.expected ||| m } else r
              else s.grp.split ++ [{ token := tok, expected := m }]
    let s := { s with grp := { s.grp with split := rs } }
    let next := s.frag.pc + BitVec.ofNat 64 size
    if !other.valid then
      let s := { s with grp := s.grp.setSlot (!s.cur.slotB) { valid := true, pc := target, mask := taken } }
      { s.retire size with frag := { (s.retire size).frag with mask := left } }
    else if laneCount taken > laneCount left then
      let s := (s.pushSpill left next).count 0x08 1
      { s.retireTo target with frag := { (s.retireTo target).frag with mask := taken } }
    else
      let s := (s.pushSpill taken target).count 0x08 1
      { s.retire size with frag := { (s.retire size).frag with mask := left } }

/-- bra (05 R129, R137) (DEDUCED, log 21). -/
def execBra (o : LOp) (s : State) : Out :=
  laneExec (.bra o) o s fun s =>
    let target := offsetBy s.frag.pc o.imm
    if s.frag.bracket && o.ps != 0 then s.nest 2 12
    else if !aligned4 target then s.misalign target 12
    else if o.ps = 0 then s.retireTo target
    else
      let taken := s.frag.mask &&& s.enabled o
      let left := s.frag.mask &&& ~~~taken
      if left = 0 then s.retireTo target
      else if taken = 0 then s.retire 12
      else s.diverge (tokenOf o) target taken left 12

/-- join and joint (05 R130, R133). -/
def joinAt (i : Instr) (o : LOp) (budget : Option Nat) (s : State) : Out :=
  laneExec i o s fun s =>
    if s.frag.bracket then s.nest 2 i.size
    else if !(s.grp.split.any fun r => r.token == tokenOf o) then s.retire i.size
    else
      let rs := arriveRecs (tokenOf o) s.frag.mask s.frag.pc (s.frag.pc + BitVec.ofNat 64 i.size) budget s.grp.split
      ({ s with grp := { s.grp with split := settleRecs rs } }).leaveSlot
/-- join (05 R130). -/
def execJoin (o : LOp) (s : State) : Out := joinAt (.join o) o none s
/-- joint (05 R133). -/
def execJoint (o : LOp) (s : State) : Out := joinAt (.joint o) o (some o.imm.toNat) s

/-- call (05 R137) (DEDUCED, log 21). -/
def execCall (o : LOp) (s : State) : Out :=
  laneExec (.call o) o s fun s =>
    let target := offsetBy s.frag.pc o.imm
    if s.frag.bracket then s.nest 2 12
    else if !aligned4 target then s.misalign target 12
    else (s.wlanes true o.d.toNat (s.enabled o) fun _ => (s.frag.pc + 12).toNat).retireTo target

/-- ret (05 R137): to the pair of the lowest enabled lane; a fragment without lanes goes to a free address (DESIGN CHOICE, log 9) (DEDUCED, log 21). -/
def execRet (o : LOp) (s : State) : Out :=
  laneExec (.ret o) o s fun s =>
    let (s', free) := s.free 5
    let (s, target) := match (lanesOf (s.enabled o)).head? with
      | some l => (s, BitVec.ofNat 64 (s.laneVal true o.a.toNat l))
      | none => (s', free &&& 0xFFFFFFFFFFFFFFFC#64)
    if s.frag.bracket then s.nest 2 8
    else if !aligned4 target then s.misalign target 8
    else s.retireTo target

/-- exit (05 R131). -/
def execExit (o : LOp) (s : State) : Out :=
  laneExec (.exit o) o s fun s =>
    if s.frag.bracket then s.nest 2 8
    else
      let m := s.frag.mask
      let rs := s.grp.split.map fun r => { r with expected := r.expected &&& ~~~m }
      ({ s with grp := { s.grp with split := settleRecs rs } }).leaveSlot

/-- allon (05 R142). -/
def execAllon (o : LOp) (s : State) : Out :=
  laneExec (.allon o) o s fun s =>
    if s.frag.bracket then s.nest 0 8
    else ({ s with frag := { s.frag with bsave := s.frag.mask, bracket := true } }).retire 8
/-- alloff (05 R142). -/
def execAlloff (o : LOp) (s : State) : Out :=
  laneExec (.alloff o) o s fun s =>
    if !s.frag.bracket then s.nest 1 8
    else ({ s with frag := { s.frag with mask := s.frag.bsave, bracket := false } }).retire 8

/-! ### The decision queue -/

/-- Entries pushed and not yet taken by a group (05 R140). -/
def untaken (t : Team) (g : Group) : Nat := t.dqFreed + t.dq.length - g.taken

/-- DQSTAT of a group (05 R140). -/
def dqstat (t : Team) (g : Group) : W32 :=
  BitVec.ofNat 32 (g.taken % 256 * 2 ^ 24 + (if t.srun then 0 else 2 ^ 16) + t.dq.length * 2 ^ 8 + untaken t g)

/-- dqtake (05 R138; 01 R25). -/
def execDqtake (o : LOp) (s : State) : Out :=
  laneExec (.dqtake o) o s fun s =>
    if untaken s.team s.grp = 0 then
      if s.team.srun then (if s.frag.dqWait then s.wait else ({ s with frag := { s.frag with dqWait := true } }).wait.count 0x0A 1)
      else s.raise { cause := causeWatchdog, tval := (dqstat s.team s.grp).zeroExtend 64 } 8
    else
      let x := s.team.dq.getD (s.grp.taken - s.team.dqFreed) 0
      let s := { s with grp := { s.grp with taken := s.grp.taken + 1 }, frag := { s.frag with dqWait := false } }
      let s := if o.f = 0 then s.writeGVal true o.d.toNat x.toNat else s.wlanes true o.d.toNat (s.enabled o) fun _ => x.toNat
      -- the entry is freed when every live group has taken it
      let t := freeDq { s.team with groups := s.team.groups.set s.cur.gid s.grp }
      ({ s with team := t }).retire 8

/-! ### Exchanges among lanes -/

/-- vote (05 R145). -/
def execVote (o : LOp) (s : State) : Out :=
  laneExec (.vote o) o s fun s =>
    let m := s.enabled o
    let a := s.triple o.a.toNat &&& m
    let r : Mask × Mask := match bits o.f 1 0 with
      | 0 => (allLanes, a)
      | 1 => (m, if a != 0 then allLanes else 0)
      | 2 => (m, if a == m then allLanes else 0)
      | _ => (m, if a == m || a == 0 then allLanes else 0)
    (s.wtriple o.d.toNat r.1 r.2).retire 8

/-- The source lane of shfl (05 R146). -/
def shflLane (f : BitVec 4) (l d : Nat) : Int :=
  match bits f 1 0 with
  | 0 => d
  | 1 => (l : Int) - d
  | 2 => (l : Int) + d
  | _ => ((l ^^^ d : Nat) : Int)

/-- shfl (05 R146): a source lane that does not participate gives the lane's own A. -/
def execShfl (o : LOp) (s : State) : Out :=
  let wide := bit o.f 2
  let m := s.enabled o
  lanePure (.shfl o) o s wide fun l =>
    let k := shflLane o.f l (s.srcB o false false l)
    if 0 ≤ k ∧ k ≤ 95 ∧ m.getLsbD k.toNat then s.srcA o wide k.toNat else s.srcA o wide l

/-- The source lane of qswap (05 R147). -/
def qswapLane (f : BitVec 4) (l : Nat) : Nat :=
  l / 4 * 4 + (if bits f 1 0 = 0 then bits f 3 2 else (l % 4) ^^^ bits f 1 0)

/-- qswap (05 R147). -/
def execQswap (o : LOp) (s : State) : Out :=
  let m := s.enabled o
  lanePure (.qswap o) o s false fun l => s.srcA o false (if m.getLsbD (qswapLane o.f l) then qswapLane o.f l else l)

/-- The two lanes of qdiff: the value is the first less the second (05 R148). -/
def qdiffLanes (f : BitVec 4) (l : Nat) : Nat × Nat :=
  let q := l / 4 * 4
  let p := l % 4
  match bit f 0, bit f 1 with
  | false, false => (q + (p ||| 1), q + (p &&& 2))
  | true, false => (q + (p ||| 2), q + (p &&& 1))
  | false, true => (q + 1, q)
  | true, true => (q + 2, q)

/-- qdiff (05 R148). -/
def execQdiff (o : LOp) (s : State) : Out :=
  let m := s.enabled o
  let r (l : Nat) : Nat × W32 :=
    let (x, y) := qdiffLanes o.f l
    if m.getLsbD x && m.getLsbD y then
      fAdd fmtF32 (roundingOf (bits o.f 3 2) s.grp.fpctl) (ftzOf s.grp.fpctl) true (s.srcA o false x) (s.srcA o false y)
    else (0, 0)
  laneExec (.qdiff o) o s fun s => ((s.setD o false fun l => (r l).1).orFlags (unionFlags m fun l => (r l).2)).retire 8

/-- One step of scan and redc (05 R149). -/
def foldOp (op : Nat) (fpctl : W32) (a b : Nat) : Nat × W32 :=
  match op with
  | 0x0 => (iAdd false false 32 a b, 0)
  | 0x1 => fAdd fmtF32 (bits fpctl 1 0) (ftzOf fpctl) false a b
  | 0x2 => (iMin false 32 a b, 0)
  | 0x3 => (iMin true 32 a b, 0)
  | 0x4 => fMinMax fmtF32 (ftzOf fpctl) false false a b
  | 0x5 => (iMax false 32 a b, 0)
  | 0x6 => (iMax true 32 a b, 0)
  | 0x7 => fMinMax fmtF32 (ftzOf fpctl) true false a b
  | 0x8 => (iAnd a b, 0)
  | 0x9 => (iOr a b, 0)
  | 0xA => (iXor a b, 0)
  | _ => (iAdd true false 32 a b, 0)

/-- The prefixes of a fold over lanes in ascending order: each lane with its inclusive prefix, and the flags. -/
def foldLanes (op : Nat) (fpctl : W32) (a : Nat → Nat) : List Nat → Option Nat → List (Nat × Nat) × W32
  | [], _ => ([], 0)
  | l :: ls, acc =>
    let (x, f) := match acc with | none => (a l, 0) | some c => foldOp op fpctl c (a l)
    let (r, g) := foldLanes op fpctl a ls (some x)
    ((l, x) :: r, f ||| g)

/-- scan and redc over the participating lanes (05 R149). -/
def foldExec (i : Instr) (o : LOp) (total : Bool) (s : State) : Out :=
  laneExec i o s fun s =>
    let (ps, fl) := foldLanes o.f.toNat s.grp.fpctl (fun l => s.srcA o false l) (lanesOf (s.enabled o)) none
    let last := (ps.getLast?.map Prod.snd).getD 0
    ((s.setD o false fun l => if total then last else (ps.lookup l).getD 0).orFlags fl).retire 8
/-- scan (05 R149). -/
def execScan (o : LOp) (s : State) : Out := foldExec (.scan o) o false s
/-- redc (05 R149). -/
def execRedc (o : LOp) (s : State) : Out := foldExec (.redc o) o true s

/-! ### The scalar stream -/

/-- A scalar branch instruction of the given size: its target is checked whether or not it is taken (02 R39). The line
sequencer's addresses are byte offsets in its bank (13 R362). -/
def State.scalarBranch (s : State) (size : Nat) (rel : Option W32) (abs : W64) (taken : Bool) (k : State → State) : State :=
  match s.cur.stream with
  | .sequencer =>
    let t : Int := match rel with | some e => 4 * (s.head.pc : Int) + e.toInt | none => abs.toNat
    if t % 4 != 0 ∨ t < 0 ∨ t ≥ 16384 then { s with head := { s.head with fault := some causeMisalign } }
    else if taken then (k s).seqTo (t / 4) else s.seqTo ((s.head.pc + size / 4 : Nat) : Int)
  | _ =>
    let t := match rel with | some e => offsetBy s.team.spc e | none => abs
    if !aligned4 t then s.raiseScalar { cause := causeMisalign, tval := t } size
    else if taken then let s := k s; { s with team := { s.team with spc := t, sphase := 0 } } else s.retireScalar size

/-- The conditions of sbr (05 R141). -/
def sbrTaken (f : Nat) (a : W64) : Bool :=
  match f with
  | 0 => a == 0
  | 1 => a != 0
  | 2 => decide (a.toInt < 0)
  | _ => decide (0 < a.toInt)

/-- sbr (05 R141). -/
def execSbr (o : S64) (s : State) : Out := .next (s.scalarBranch 8 (some o.e1) 0 (sbrTaken o.w.f.toNat (s.rs o.w.a.toNat)) id)
/-- sjmp sa (05 R141). -/
def execSjmpS32 (w : S32) (s : State) : Out := .next (s.scalarBranch 4 none (s.rs w.a.toNat) true id)
/-- sjmp label (05 R141). -/
def execSjmpS64 (o : S64) (s : State) : Out := .next (s.scalarBranch 8 (some o.e1) 0 true id)
/-- scall sd, sa (05 R141): to the value sA held before the link is written (DESIGN CHOICE, log 54). -/
def execScallS32 (w : S32) (s : State) : Out :=
  .next (s.scalarBranch 4 none (s.rs w.a.toNat) true fun s => s.ws w.d.toNat (s.team.spc + 4))
/-- scall sd, label (05 R141). -/
def execScallS64 (o : S64) (s : State) : Out :=
  .next (s.scalarBranch 8 (some o.e1) 0 true fun s => s.ws o.w.d.toNat (s.team.spc + 8))
/-- sret (05 R141). -/
def execSret (w : S32) (s : State) : Out := .next (s.scalarBranch 4 none (s.rs w.a.toNat) true id)
/-- sexit (05 R141). -/
def execSexit (_ : S32) (s : State) : Out := .next { s with team := { (s.retireScalar 4).team with srun := false } }
/-- sdqpush (05 R139): it waits while 32 entries are held; with every group ended the entry is freed at once. -/
def execSdqpush (w : S32) (s : State) : Out :=
  if s.team.dq.length ≥ 32 then .next s.wait
  else .next (({ s with team := freeDq { s.team with dq := s.team.dq ++ [s.rs w.a.toNat] } }).retireScalar 4)

end Sys2Proof.Machine
end

