-- ==== Sys2Proof/Machine/Records.lean ====
section
/-! DEFINITION. Buffer records, element positions, places and conversions, sector compression, publish-set backings, and
the window with its race records (07 R174-R197; 14 R378, R379, R383). -/

namespace Sys2Proof.Machine
open Sys2Proof

/-! ### Element formats -/

/-- Bits of an element of a format; 0 for a reserved code (04 R90; 07 R182). -/
def elemWidth (fmt : Nat) : Nat :=
  match fmt with
  | 0x00 | 0x01 | 0x0A | 0x0B | 0x10 | 0x11 | 0x12 => 8
  | 0x02 | 0x03 | 0x06 | 0x07 => 16
  | 0x04 | 0x05 | 0x08 => 32
  | 0x09 => 64
  | 0x0C | 0x13 | 0x14 | 0x15 => 4
  | 0x16 | 0x17 => 6
  | _ => 0

/-- An integer format: whether it is unsigned. -/
def intFmt (fmt : Nat) : Option Bool :=
  match fmt with
  | 0x00 | 0x02 | 0x04 | 0x14 => some false
  | 0x01 | 0x03 | 0x05 | 0x15 => some true
  | _ => none

/-- A floating format, or the element of an MX format; mxi8 apart. -/
def floatFmt (fmt : Nat) : Option Fmt :=
  match fmt with
  | 0x06 => some fmtF16 | 0x07 => some fmtBf16 | 0x08 => some fmtF32 | 0x09 => some fmtF64
  | 0x0A | 0x11 => some fmtE4m3 | 0x0B | 0x12 => some fmtE5m2 | 0x0C | 0x13 => some fmtE2m1
  | 0x16 => some fmtE2m3 | 0x17 => some fmtE3m2
  | _ => none

/-- An MX format (04 R90). -/
def isMx (fmt : Nat) : Bool := decide (0x10 ≤ fmt ∧ fmt ≤ 0x13)
/-- A storage-only format. -/
def isStorage (fmt : Nat) : Bool := decide (0x14 ≤ fmt)

/-- The floating format of register type T, F[2:0] of ldb and stb (07 R185). -/
def regFmt (t : Nat) : Option Fmt :=
  match t with | 3 => some fmtF32 | 4 => some fmtF64 | 5 => some fmtF16 | 6 => some fmtBf16 | _ => none

/-- The formats a load of type T allows (07 R185). -/
def loadAllowed (t fmt : Nat) : Bool :=
  match t with
  | 0 => fmt != 0x09
  | 1 => true
  | 2 => (intFmt fmt).isSome
  | _ => !isStorage fmt

/-- The formats a store of type T allows (07 R186). -/
def storeAllowed (t : Nat) (sat : Bool) (fmt : Nat) : Bool :=
  match t with
  | 0 => fmt != 0x09
  | 1 => true
  | 2 => (intFmt fmt).isSome
  | _ => decide (6 ≤ fmt ∧ fmt ≤ 9) || (t != 4 && (fmt == 0x0A || fmt == 0x0B || (fmt == 0x0C && sat)))

/-- The load conversion (07 R185): the element's bits and its block's scale code. -/
def loadConv (t fmt bits scale : Nat) : Nat :=
  match t, regFmt t with
  | 2, _ => match intFmt fmt with | some false => wrap 32 (sext (elemWidth fmt) bits) | _ => bits
  | _, none => if isMx fmt then scale * 2 ^ 8 + bits else bits
  | _, some dst =>
    if isMx fmt && scale == 0xFF then dst.nanBits
    else
      let k : Int := if isMx fmt then (scale : Int) - 127 else 0
      match intFmt fmt with
      | some u => (intToF dst 0 false (extOf u (elemWidth fmt) bits)).1
      | none =>
        if fmt = 0x10 then
          let v := sext 8 bits
          (dst.roundDyadic 0 false (decide (v < 0)) v.natAbs (k - 6)).1
        else
          match floatFmt fmt with
          | none => 0
          | some src =>
            match src.read bits with
            | .fin s m e => (dst.roundDyadic 0 false s m (e + k)).1
            | _ => (fConvert src dst 0 false bits).1

/-- The store conversion of a lane's data (07 R186): the element's bits. -/
def storeConv (t : Nat) (sat : Bool) (fmt data : Nat) : Nat :=
  let w := elemWidth fmt
  match t, regFmt t with
  | 2, _ =>
    match intFmt fmt with
    | some u => if sat then wrap w (clampTo u w (sext 32 data)) else data % 2 ^ w
    | none => 0
  | _, none => data % 2 ^ w
  | _, some src =>
    let x := data % 2 ^ src.width
    match floatFmt fmt with
    | none => 0
    | some dst =>
      if fmt ≥ 0x0A then (fCvtn (fmt - 0x0A) sat false (fConvert src fmtF32 0 false x).1).1
      else
        let r := (fConvert src dst 0 false x).1
        match dst.read r with
        | .inf s => if sat then dst.maxBits s else r
        | _ => r

/-! ### Buffer records -/

/-- A field of a record. -/
def recField (raw hi lo : Nat) : Nat := raw / 2 ^ lo % 2 ^ (hi + 1 - lo)

/-- A buffer record (07 R180; 14 R378). -/
structure Rec where
  kind : Nat
  base : W64
  size : Nat
  stride : Nat
  fmt : Nat
  ilv : Nat
  scaleBase : W64
  comp : Bool
  bmode : Nat
  race : Bool
  pub : Option Nat
  /-- No bad value stands in it. -/
  ok : Bool := true
  deriving DecidableEq, Repr

/-- The fields of a record. -/
def Rec.ofRaw (raw : Nat) : Rec :=
  { kind := recField raw 225 224, base := BitVec.ofNat 64 raw, size := recField raw 104 64, stride := recField raw 223 192,
    fmt := recField raw 247 243, ilv := recField raw 249 248, scaleBase := BitVec.ofNat 64 (recField raw 191 128),
    comp := recField raw 230 230 == 1, bmode := recField raw 227 226, race := recField raw 252 252 == 1,
    pub := if recField raw 232 232 = 1 then some (recField raw 242 233) else none }

/-- A buffer record without a bad value (07 R180; 14 R378). -/
def bufferOk (raw : Nat) : Bool :=
  let r := Rec.ofRaw raw
  let w := elemWidth r.fmt
  let smode := recField raw 251 250
  recField raw 319 253 == 0 && recField raw 127 105 == 0 && decide (r.kind ≤ 1) && w != 0 && decide (r.size ≤ 2 ^ 40)
  && (if r.kind = 0 then canonical r.base else r.base >>> 20 == 0)
  && (decide (w < 8) || r.base.toNat % (w / 8) == 0)
  && (r.stride == 0 || (decide (8 ≤ w) && decide (r.stride ≥ w / 8 * (if r.ilv = 1 then 32 else 1))))
  && decide (r.ilv ≤ 1) && decide (smode ≤ 1) && (isMx r.fmt == (smode == 1))
  && (if smode = 1 then canonical r.scaleBase else r.scaleBase == 0)
  && decide (recField raw 231 230 ≤ 1) && (!r.comp || (r.kind == 0 && r.base.toNat % 256 == 0))
  && r.bmode != 3 && (!r.race || r.kind == 1)
  && (match r.pub with | some _ => r.kind == 0 | none => recField raw 242 233 == 0)

/-- Reading record n of the team in focus through the core's record cache (07 R181; 14 R379). -/
def State.readRecord (s : State) (acc : Acc) (n : Nat) : Except Stop (State × Nat) :=
  let t := s.team
  if n ≥ t.hdr.recCount then .error (.trap { cause := causeRecord, tval := BitVec.ofNat 64 n })
  else
    match ((s.core t.core).recs).lookup (t.launch * 256 + n) with
    | some raw => .ok (s, raw)
    | none =>
      match s.loadVa t.vf t.ctx { acc with write := false } (t.hdr.recTab + BitVec.ofNat 64 (40 * n)) 40 with
      | .error e => .error e
      | .ok (s, raw) => .ok (s.onCore t.core fun c => { c with recs := c.recs.set (t.launch * 256 + n) raw }, raw)

/-- A buffer record, checked (07 R181). One with a bad value raises RECORD_FAULT in its first lane: here, where it places no
element; otherwise with the lane, whose MISALIGN comes first (06 R156). -/
def State.bufferRec (s : State) (acc : Acc) (n : Nat) : Except Stop (State × Rec) :=
  match s.readRecord acc n with
  | .error e => .error e
  | .ok (s, raw) =>
    let r := Rec.ofRaw raw
    if bufferOk raw then .ok (s, r)
    else if r.kind ≤ 1 ∧ elemWidth r.fmt ≠ 0 then .ok (s, { r with ok := false })
    else .error (.trap { cause := causeRecord, tval := BitVec.ofNat 64 n })

/-- Bits from one row of 32 elements to the next (07 R182). -/
def Rec.row (r : Rec) (w : Nat) : Nat := if r.stride = 0 then 32 * w else 8 * r.stride
/-- Bits from one element to the next. -/
def Rec.step (r : Rec) (w : Nat) : Nat := if r.stride = 0 then w else 8 * r.stride
/-- The bit position of element i at byte offset off (07 R182). -/
def Rec.pos (r : Rec) (w i : Nat) (off : Int) : Int :=
  (if r.ilv = 0 then i * r.step w else i / 32 * r.row w + i % 32 * w : Nat) + 8 * off
/-- The element that a position reaches (07 R182). -/
def Rec.elemAt (r : Rec) (w p : Nat) : Nat :=
  if r.ilv = 0 then p / r.step w else p / r.row w * 32 + p % r.row w / w

/-! ### Places -/

/-- The spill stacks begin here (02 R59). -/
def spillBase (t : Team) : Nat := t.hdr.spad - t.hdr.groups * t.hdr.spill * 32

/-- A byte of [a, a + n) lies in a forbidden range (07 R175; 02 R59). -/
def spadRange (t : Team) (a : Int) (n : Nat) (write : Bool) : Option Trap :=
  let tv (x : Int) : W64 := BitVec.ofInt 64 x
  if a < 0 then some { cause := causeSpad, tval := tv a }
  else if write && decide (a < 384) then some { cause := causeSpad, tval := tv a }
  else if a + n > spillBase t then some { cause := causeSpad, tval := tv (max a (spillBase t)) }
  else none
/-- The checks of a window access but for the race check (07 R175). -/
def spadFault (t : Team) (a : Int) (n : Nat) (write : Bool) : Option Trap :=
  if a % n != 0 then some { cause := causeMisalign, tval := BitVec.ofInt 64 a } else spadRange t a n write

/-- A byte of the hardware image of the rendezvous points (07 R174). -/
def pointByte (t : Team) (a : Nat) : Byte :=
  let p : Point := t.points.get {} (a / 16)
  let w : W32 := match a / 4 % 4 with | 0 => p.arrived | 1 => p.expected | 2 => p.phase | _ => if p.init then 1 else 0
  w.extractLsb' (8 * (a % 4)) 8
/-- A byte of the window. -/
def winByte (t : Team) (a : Nat) : Byte := if a < 384 then pointByte t a else readByte t.win a
/-- n bytes of the window. -/
def winRead (t : Team) (a : Nat) : Nat → Nat
  | 0 => 0
  | n + 1 => (winByte t a).toNat + 256 * winRead t (a + 1) n
/-- Storing n bytes in the window of the team in focus. -/
def State.winWrite (s : State) (a n x : Nat) : State := { s with team := { s.team with win := writeBytes s.team.win a n x } }

/-- The 32-byte sectors of [a, a + n). -/
def sectorsOf (a n : Nat) : List Nat := List.range' (a / 32) ((a + n - 1) / 32 + 1 - a / 32)
/-- The race check of an access of group q to [a, a + n) (07 R197). -/
def raceFault (t : Team) (q a n : Nat) : Option Trap :=
  if !t.hdr.raceCheck then none
  else
    (sectorsOf a n).findSome? fun k =>
      match t.race.lookup k with
      | some (p, g) => if g = t.raceGen ∧ p ≠ q then some { cause := causeRace, tval := BitVec.ofNat 64 (k * 32) } else none
      | none => none
/-- The race records a checked store to [a, a + n) leaves (07 R197). -/
def State.raceMark (s : State) (a n : Nat) : State :=
  if s.team.hdr.raceCheck then
    { s with team := { s.team with race := (sectorsOf a n).foldl (fun r k => r.set k (s.grp.gid, s.team.raceGen)) s.team.race } }
  else s
/-- An engine write or a scalar store to a sector sets its record to none (07 R197). -/
def Team.raceClear (t : Team) (a n : Nat) : Team :=
  { t with race := t.race.filter fun p => decide (p.1 < a / 32 ∨ (a + n - 1) / 32 < p.1) }

/-- The location of n bytes at va through a publish set's backing: 1 where back says so (14 R383). -/
def State.pubRange (s : State) (vf set : Nat) (back : Bool) (va : W64) (n : Nat) : Except Stop (List (Loc × Nat)) :=
  let p : PubSet := (s.vf vf).pubs.get {} set
  let perm (a : Nat) : Except Stop (List (Loc × Nat)) := .error (.trap { cause := causePerm, tval := BitVec.ofNat 64 a })
  if !p.valid || decide (va.toNat < p.vbase.toNat) then perm va.toNat
  else if va.toNat + n > p.vbase.toNat + p.len then perm (max va.toNat (p.vbase.toNat + p.len))
  else
    let pa := (if back then p.pbase1 else p.pbase0) + (va.toNat - p.vbase.toNat)
    match s.devRange va pa n with | .error e => .error e | .ok _ => .ok [(.dev pa, n)]

/-- n bytes of a record's buffer: through its publish set's current backing, or translated (07 R191). -/
def State.recRange (s : State) (r : Rec) (acc : Acc) (va : W64) (n : Nat) : Except Stop (List (Loc × Nat)) :=
  match r.pub with
  | some set => s.pubRange s.team.vf set ((s.vf s.team.vf).pubs.get {} set).cur va n
  | none => s.xlateRange s.team.vf s.team.ctx acc va n

/-- One part of an element in a compressed buffer: the locations of its block and descriptor, its first byte in the
block, and its bytes (07 R192). -/
structure CompPart where
  block : List (Loc × Nat)
  desc : List (Loc × Nat)
  key : Nat
  first : Nat
  count : Nat
  deriving DecidableEq, Repr

/-- Where the bytes of an element lie. -/
inductive Place where
  | window (a : Nat)
  | global (ps : List (Loc × Nat))
  | comp (ps : List CompPart)
  deriving DecidableEq, Repr

/-- An element of a record that an access reaches. -/
structure Elem where
  /-- Its bit position. -/
  pos : Nat
  /-- Width in bits, and bytes it touches. -/
  w : Nat
  n : Nat
  place : Place
  /-- The scale byte of its block. -/
  scale : List (Loc × Nat) := []
  /-- The element's number (07 R182). -/
  index : Nat := 0
  deriving DecidableEq, Repr

/-! ### Sector compression (07 R192-R195) -/

/-- Packed bytes of a sector code; none for a reserved code. -/
def packedSize (c : Nat) : Option Nat := match c with | 0 => some 32 | 1 => some 0 | 2 => some 4 | 3 => some 12 | 4 => some 20 | _ => none
/-- The code of sector k. -/
def sectorCode (desc k : Nat) : Nat := desc / 2 ^ (4 * k) % 16
/-- A descriptor has no reserved code. -/
def descOk (desc : Nat) : Bool := (List.range 8).all fun k => (packedSize (sectorCode desc k)).isSome
/-- Word k of a sector from its packed bytes. -/
def unpackWord (c packed k : Nat) : Nat :=
  match c with
  | 0 => recField packed (32 * k + 31) (32 * k)
  | 2 => packed % 2 ^ 32
  | 3 => wrap 32 ((packed % 2 ^ 32 : Nat) + sext 8 (packed / 2 ^ (32 + 8 * k)))
  | 4 => wrap 32 ((packed % 2 ^ 32 : Nat) + sext 16 (packed / 2 ^ (32 + 16 * k)))
  | _ => 0
/-- A sector's 32 bytes as a number. -/
def unpackSector (c packed : Nat) : Nat := (List.range 8).foldl (fun a k => a + unpackWord c packed k * 2 ^ (32 * k)) 0
/-- The sectors of a block from sector k on: codes and packed forms. -/
def unpackBlock (desc : Nat) : Nat → Nat → Nat → List (Nat × Nat)
  | 0, _, _ => []
  | f + 1, k, packed =>
    let c := sectorCode desc k
    let n := (packedSize c).getD 0
    (c, packed % 2 ^ (8 * n)) :: unpackBlock desc f (k + 1) (packed / 2 ^ (8 * n))
/-- The packed bytes of a block. -/
def packedBytes (desc : Nat) : Nat := ((List.range 8).map fun k => (packedSize (sectorCode desc k)).getD 0).sum
/-- The first code that represents a sector, in the order of R195, and its packed form. -/
def packSector (v : Nat) : Nat × Nat :=
  let word (k : Nat) := recField v (32 * k + 31) (32 * k)
  let delta (k : Nat) : Int := sext 32 (word k + 2 ^ 32 - word 0)
  let fits (w : Nat) : Bool := (List.range 8).all fun k => decide (tyMin false w ≤ delta k ∧ delta k ≤ tyMax false w)
  let packed (w : Nat) : Nat := word 0 + (List.range 8).foldl (fun a k => a + wrap w (delta k) * 2 ^ (32 + w * k)) 0
  if v = 0 then (1, 0)
  else if (List.range 8).all fun k => word k == word 0 then (2, word 0)
  else if fits 8 then (3, packed 8)
  else if fits 16 then (4, packed 16)
  else (0, v)
/-- The descriptor, packed bytes and their count of a block: the codes and values of its sectors from sector k on. -/
def packBlock : List (Nat × Nat) → Nat → Nat × Nat × Nat
  | [], _ => (0, 0, 0)
  | (c, p) :: ss, k =>
    let n := (packedSize c).getD 0
    let (d, b, m) := packBlock ss (k + 1)
    (c * 2 ^ (4 * k) + d, p + 2 ^ (8 * n) * b, n + m)

/-- Reading the 256 bytes of a compressed block. -/
def State.readBlock (s : State) (p : CompPart) : State × Nat × List (Nat × Nat) :=
  let (s, desc) := s.loadParts p.desc
  let (s, packed) := s.loadParts p.block
  (s, desc, unpackBlock desc 8 0 packed)
/-- The value of a block's sectors. -/
def blockValue : List (Nat × Nat) → Nat
  | [] => 0
  | (c, p) :: ss => unpackSector c p + 2 ^ 256 * blockValue ss
/-- A block's sectors from sector k on after its value has become x: a sector whose value changes is compressed anew, every
other keeps its code and its packed bytes (07 R195) (DEDUCED, log 35). -/
def repackBlock (x : Nat) : List (Nat × Nat) → List (Nat × Nat)
  | [] => []
  | (c, p) :: ss =>
    let v := x % 2 ^ 256
    (if v = unpackSector c p then (c, p) else packSector v) :: repackBlock (x / 2 ^ 256) ss
/-- Writing bytes of a compressed block (07 R195): the changed sectors are compressed anew. -/
def State.writeBlock (s : State) (p : CompPart) (x : Nat) : State :=
  let (s, _, ss) := s.readBlock p
  let m := (2 ^ (8 * p.count) - 1) * 2 ^ (8 * p.first)
  let (d, b, n) := packBlock (repackBlock ((blockValue ss &&& (2 ^ 2048 - 1 - m)) ||| (x * 2 ^ (8 * p.first) &&& m)) ss) 0
  let block := match p.block with | (l, _) :: _ => [(l, n)] | [] => []
  (s.storeParts block b).storeParts p.desc d

/-! ### Elements -/

/-- A location names host memory. -/
def anyHost (ps : List (Loc × Nat)) : Bool := ps.any fun p => match p.1 with | .host _ => true | .dev _ => false

/-- The part of a compressed element in block k (07 R192-R194), with its faults in the order of 06 R156. A block without packed
bytes is not read (R193); a write goes to it whatever it holds. -/
def State.compPart (s : State) (r : Rec) (sub : Nat) (acc : Acc) (k first count : Nat) : Except Stop CompPart :=
  let b := r.base + BitVec.ofNat 64 (256 * k)
  let d := r.base + BitVec.ofNat 64 (256 * ((r.size + 255) / 256) + 4 * k)
  let found (a : W64) (n : Nat) : Except Stop (List (Loc × Nat)) :=
    match s.recRange r acc a n with
    | .ok ps => if anyHost ps then .error (.trap { cause := causePerm, tval := a }) else .ok ps
    | e => e
  let ds := found d 4
  let desc := match ds with | .ok ps => (s.loadParts ps).2 | .error _ => 0x11111111
  let bs := if acc.write || packedBytes desc != 0 then found b 256 else .ok []
  let stop (e : Except Stop (List (Loc × Nat))) : List Stop := match e with | .error e => [e] | .ok _ => []
  let code : List Stop := if descOk desc then [] else [.trap { cause := causeRecord, tval := BitVec.ofNat 64 sub }]
  match firstStop (stop ds ++ code ++ stop bs), ds, bs with
  | none, .ok ds, .ok bs => .ok { block := bs, desc := ds, key := b.toNat, first := first, count := count }
  | some e, _, _ => .error e
  | none, .error e, _ => .error e
  | none, _, .error e => .error e

/-- The place of an element, n bytes at a byte position of a record's buffer (DEDUCED, log 35). -/
def State.recPlace (s : State) (r : Rec) (sub : Nat) (acc : Acc) (byte n : Nat) : Except Stop Place :=
  let va := r.base + BitVec.ofNat 64 byte
  if r.kind = 1 then
    let a : Nat := r.base.toNat + byte
    match spadRange s.team (a : Int) n acc.write, (if r.race then raceFault s.team s.grp.gid a n else none) with
    | some t, _ => .error (.trap t)
    | none, some t => .error (.trap t)
    | none, none => .ok (.window a)
  else if r.comp then
    let k := byte / 256
    let n1 := min n (256 - byte % 256)
    if n1 = n then match s.compPart r sub acc k (byte % 256) n1 with | .error e => .error e | .ok p => .ok (.comp [p])
    else
      match s.compPart r sub acc k (byte % 256) n1, s.compPart r sub acc (k + 1) 0 (n - n1) with
      | .ok p, .ok q => .ok (.comp [p, q])
      | .error e, .error f => .error ((firstStop [e, f]).getD e)
      | .error e, _ => .error e
      | _, .error e => .error e
  else match s.recRange r acc va n with | .error e => .error e | .ok ps => .ok (.global ps)

/-- The position after the bounds check (07 R183): none for an element that is dropped or reads as 0. -/
def Rec.inRange (r : Rec) (w : Nat) (p : Int) (load : Bool) : Except Unit (Option Nat) :=
  if 0 ≤ p ∧ p + w ≤ 8 * r.size then .ok (some p.toNat)
  else if r.bmode = 2 then .error ()
  else if r.bmode = 0 ∨ !load ∨ 8 * r.size < w then .ok none
  else if p < 0 then .ok (some 0)
  else .ok (some ((8 * r.size - w) / w * w))

/-- The window address of a position is no multiple of the element's bytes (07 R175). -/
def Rec.misplaced (r : Rec) (w : Nat) (p : Int) : Bool :=
  r.kind == 1 && decide (8 ≤ w) && ((r.base.toNat : Int) + p / 8) % ((w / 8 : Nat) : Int) != 0

/-- The element of a lane (07 R182, R183, R189), with its faults in the order of 06 R156. blocks: MISALIGN of an MX
block that the instruction does not write whole (R187). -/
def State.elem (s : State) (r : Rec) (sub : Nat) (acc : Acc) (w : Nat) (allowed load : Bool) (i : Nat) (off : Int)
    (partialBlock : Nat → Bool) : Except Stop (Option Elem) :=
  let allowed := allowed && r.ok
  let p := r.pos w i off
  let idx : W64 := BitVec.ofNat 64 i
  if p % w != 0 then .error (.trap { cause := causeMisalign, tval := r.base + BitVec.ofInt 64 (p / 8) })
  else
    match r.inRange w p load with
    | .error _ =>
      .error (.trap (if r.misplaced w p then { cause := causeMisalign, tval := BitVec.ofInt 64 ((r.base.toNat : Int) + p / 8) }
        else if allowed then { cause := causeBounds, tval := idx } else { cause := causeRecord, tval := BitVec.ofNat 64 sub }))
    | .ok none => if allowed then .ok none else .error (.trap { cause := causeRecord, tval := BitVec.ofNat 64 sub })
    | .ok (some p) =>
      let j := r.elemAt w p
      let n := (p % 8 + w + 7) / 8
      if r.misplaced w p then .error (.trap { cause := causeMisalign, tval := BitVec.ofNat 64 (r.base.toNat + p / 8) })
      else if partialBlock j then .error (.trap { cause := causeMisalign, tval := BitVec.ofNat 64 (j / 32 * 32) })
      else if !allowed then .error (.trap { cause := causeRecord, tval := BitVec.ofNat 64 sub })
      else
        let sc : Except Stop (List (Loc × Nat)) :=
          if isMx r.fmt then s.recRange r acc (r.scaleBase + BitVec.ofNat 64 (j / 32)) 1 else .ok []
        match s.recPlace r sub acc (p / 8) n, sc with
        | .error e, .error f => .error ((firstStop [e, f]).getD e)
        | .error e, _ => .error e
        | _, .error e => .error e
        | .ok pl, .ok sc => .ok (some { pos := p, w := w, n := n, place := pl, scale := sc, index := j })

/-- Reading the bytes of a compressed element. -/
def State.readComp (s : State) : List CompPart → State × Nat
  | [] => (s, 0)
  | p :: ps =>
    let (s, _, ss) := s.readBlock p
    let x := blockValue ss / 2 ^ (8 * p.first) % 2 ^ (8 * p.count)
    let (s, y) := State.readComp s ps
    (s, x + 2 ^ (8 * p.count) * y)
/-- Writing them (DEDUCED, log 35). -/
def State.writeComp (s : State) : List CompPart → Nat → State
  | [], _ => s
  | p :: ps, x => State.writeComp (s.writeBlock p (x % 2 ^ (8 * p.count))) ps (x / 2 ^ (8 * p.count))

/-- The bytes an element touches. -/
def State.readPlace (s : State) (e : Elem) : State × Nat :=
  match e.place with
  | .window a => (s, winRead s.team a e.n)
  | .global ps => s.loadParts ps
  | .comp ps => s.readComp ps
/-- Writing them (DEDUCED, log 35). -/
def State.writePlace (s : State) (e : Elem) (x : Nat) : State :=
  match e.place with
  | .window a => s.winWrite a e.n x
  | .global ps => s.storeParts ps x
  | .comp ps => s.writeComp ps x

/-- An element's bits (07 R189). -/
def State.readElem (s : State) (e : Elem) : State × Nat :=
  let (s, x) := s.readPlace e
  (s, x / 2 ^ (e.pos % 8) % 2 ^ e.w)
/-- Writing an element changes its own bits alone (07 R188). -/
def State.writeElem (s : State) (e : Elem) (x : Nat) : State :=
  let (s, old) := if e.pos % 8 = 0 ∧ e.w % 8 = 0 then (s, 0) else s.readPlace e
  let m := (2 ^ e.w - 1) * 2 ^ (e.pos % 8)
  s.writePlace e ((old &&& (2 ^ (8 * e.n) - 1 - m)) ||| (x % 2 ^ e.w * 2 ^ (e.pos % 8)))

end Sys2Proof.Machine
end

