-- ==== Sys2Proof/Machine/LaneMemory.lean ====
section
/-! DEFINITION. Memory instructions of group code: window and record loads and stores, prefetch, atomics, reductions
(07 R174-R204). Every lane's faults are found before any lane has an effect. -/

namespace Sys2Proof.Machine
open Sys2Proof

/-- The results of all lanes, or the fault taken (06 R156): the lowest lane's trap; otherwise an uncorrectable error;
otherwise every replayable fault of the instruction. -/
def gather {α : Type} (rs : List (Nat × Except Stop α)) : Except (Stop × List PageReq) (List (Nat × α)) :=
  let stops := rs.filterMap fun r => match r.2 with | .error e => some e | .ok _ => none
  match stops.find? Stop.isTrap, stops.find? (fun e => match e with | .ue _ => true | _ => false), stops with
  | some e, _, _ => .error (e, [])
  | none, some e, _ => .error (e, [])
  | none, none, e :: es =>
    .error (e, ((e :: es).filterMap fun x => match x with | .page p => some p | _ => none).dedup)
  | none, none, [] => .ok (rs.filterMap fun r => match r.2 with | .ok a => some (r.1, a) | .error _ => none)

/-- A result of n registers for the lanes listed (02 R49). -/
def regsResult (d n : Nat) (m : Mask) (vs : List (Nat × Nat)) : List (Nat × Mask × LaneVec) :=
  (List.range n).map fun k => (d + k, m, Vector.ofFn fun l : Fin 96 => BitVec.ofNat 32 ((vs.lookup l.val).getD 0 / 2 ^ (32 * k)))

/-- n registers of a lane from register r on. -/
def State.regsVal (s : State) (r n l : Nat) : Nat := (List.range n).foldl (fun a k => a + (s.lane (r + k) l).toNat * 2 ^ (32 * k)) 0

/-- The lane is a helper lane (01 R22). -/
def State.isHelper (s : State) (l : Nat) : Bool := s.grp.helper.getLsbD l

/-- The byte offset of SLOT 2 (02 R44). -/
def byteOff (o : LOp) : Int := if o.slot? = some 2 then o.imm.toInt else 0

/-- Extra slice cycles of a beat's window accesses (07 R175): words in the most-used bank, less one. -/
def beatConflicts (words : List Nat) : Nat :=
  ((List.range 32).foldl (fun a b => max a ((words.dedup.filter fun w => w % 32 == b).length)) 0) - 1
/-- The same for an instruction. -/
def bankConflicts (as : List (Nat × Nat)) (n : Nat) : Nat :=
  ((List.range 3).map fun b => beatConflicts ((as.filter fun a => a.1 / 32 == b).flatMap fun a =>
    List.range' (a.2 / 4) ((a.2 + n - 1) / 4 + 1 - a.2 / 4))).sum

/-- The same for the window elements that an instruction reaches through a record (07 R189). -/
def elemConflicts (es : List (Nat × Option Elem)) : Nat :=
  ((List.range 3).map fun b => beatConflicts ((es.filter fun e => e.1 / 32 == b).flatMap fun e =>
    match e.2 with
    | some { place := .window a, n := n, .. } => List.range' (a / 4) ((a + n - 1) / 4 + 1 - a / 4)
    | _ => [])).sum

/-! ### Window loads and stores (07 R176, R177) -/

/-- Bytes of an element by F[2:0], and whether a load sign-extends (07 R176). -/
def spadSize (f : BitVec 4) : Nat × Bool :=
  match bits f 2 0 with
  | 0 => (1, false) | 1 => (1, true) | 2 => (2, false) | 3 => (2, true) | 4 => (4, false) | 5 => (8, false) | _ => (16, false)

/-- The window offset of a lane (07 R175, R177). -/
def State.spadAddr (s : State) (o : LOp) (l : Nat) : Int :=
  (if bit o.f 3 then bits (s.rs o.a.toNat) 31 0 else (s.lane o.a.toNat l).toNat : Nat) + byteOff o

/-- The window offset of a lane's access, checked in the order of 06 R156. -/
def State.spadAccess (s : State) (a : Int) (n : Nat) (write race : Bool) : Except Stop Nat :=
  match spadFault s.team a n write with
  | some t => .error (.trap t)
  | none =>
    match (if race then raceFault s.team s.grp.gid a.toNat n else none) with
    | some t => .error (.trap t)
    | none => .ok a.toNat

/-- lds (07 R176, R177). -/
def execLds (o : LOp) (s : State) : Out :=
  longExec (.lds o) o s fun s =>
    let m := s.enabled o
    let (n, signed) := spadSize o.f
    match gather ((lanesOf m).map fun l => (l, s.spadAccess (s.spadAddr o l) n false true)) with
    | .error (st, ps) => s.stopLong o.la.toNat o.size ps st
    | .ok as =>
      let vs := as.map fun a => (a.1, let x := winRead s.team a.2 n; if signed then wrap 32 (sext (8 * n) x) else x)
      (s.openWindow o.la.toNat o.size 0 (regsResult o.d.toNat (max 1 (n / 4)) m vs) 0).count 0x05 (bankConflicts as n)

/-- sts (07 R176, R177): the highest lane's value remains. -/
def execSts (o : LOp) (s : State) : Out :=
  longExec (.sts o) o s fun s =>
    let m := s.enabled o
    let (n, _) := spadSize o.f
    match gather ((lanesOf m).map fun l => (l, s.spadAccess (s.spadAddr o l) n true true)) with
    | .error (st, ps) => s.stopLong o.la.toNat o.size ps st
    | .ok as =>
      let data := as.map fun a => (a.2, s.regsVal o.b.toNat (max 1 (n / 4)) a.1, s.isHelper a.1)
      let s := data.foldl (fun s d => if d.2.2 then s else (s.winWrite d.1 n d.2.1).raceMark d.1 n) s
      (s.openWindow o.la.toNat o.size 0 [] 0).count 0x05 (bankConflicts as n)

/-! ### Record loads and stores (07 R184-R191) -/

/-- The element index of a lane. -/
def State.elemIndex (s : State) (o : LOp) (l : Nat) : Nat := (s.lane o.a.toNat l).toNat

/-- The elements of all enabled lanes (DEDUCED, log 50). -/
def State.elems (s : State) (o : LOp) (r : Rec) (acc : Acc) (w : Nat) (allowed load : Bool) (blk : Nat → Nat → Bool) :
    Except (Stop × List PageReq) (List (Nat × Option Elem)) :=
  gather ((lanesOf (s.enabled o)).map fun l =>
    (l, s.elem r o.sub.toNat acc w allowed load (s.elemIndex o l) (byteOff o) (blk l)))

/-- Reading the elements and their scales, lanes ascending. -/
def State.readElems (s : State) (f : Nat → Nat → Nat) : List (Nat × Option Elem) → State × List (Nat × Nat)
  | [] => (s, [])
  | (l, none) :: es => let (s, vs) := State.readElems s f es; (s, (l, 0) :: vs)
  | (l, some e) :: es =>
    let (s, x) := s.readElem e
    let (s, sc) := s.loadParts e.scale
    let (s, vs) := State.readElems s f es
    (s, (l, f x sc) :: vs)

/-- The zero sectors of the blocks that an instruction expands, each block once (07 R193, R194). -/
def State.zeroSectors (s : State) (es : List (Nat × Option Elem)) : Nat :=
  ((es.flatMap fun e => match e.2 with
    | some { place := .comp ps, .. } => ps.map fun p =>
        let d := (s.loadParts p.desc).2
        (p.key, (List.range 8).countP fun k => sectorCode d k == 1)
    | _ => []).dedup.map Prod.snd).sum

/-- Crediting them to the cluster's current record, 64 for each (15 R401) (DEDUCED, log 50). -/
def State.creditSectors (s : State) (es : List (Nat × Option Elem)) : State :=
  s.onCluster (clusterOfCore s.team.core) fun c => { c with crec := c.crec - BitVec.ofNat 32 (64 * s.zeroSectors es) }

/-- The elements of the lanes that are no helper lanes. -/
def State.working (s : State) (es : List (Nat × Option Elem)) : List (Nat × Option Elem) := es.filter fun e => !s.isHelper e.1

/-- Global elements among those read. -/
def globalCount (es : List (Nat × Option Elem)) : Nat :=
  (es.filter fun e => match e.2 with | some { place := .window _, .. } => false | some _ => true | none => false).length

/-- ldb (07 R185, R189). -/
def execLdb (o : LOp) (s : State) : Out :=
  longExec (.ldb o) o s fun s =>
    let t := bits o.f 2 0
    let m := s.enabled o
    let acc : Acc := { kind := 0 }
    if m = 0 then s.openWindow o.la.toNat o.size 0 [] 0
    else
      match s.bufferRec acc o.sub.toNat with
      | .error e => s.stopLong o.la.toNat o.size [] e
      | .ok (s, r) =>
        match s.elems o r acc (elemWidth r.fmt) (loadAllowed t r.fmt) true (fun _ _ => false) with
        | .error (st, ps) => s.stopLong o.la.toNat o.size ps st
        | .ok es =>
          let s := s.creditSectors es
          let (s, vs) := s.readElems (loadConv t r.fmt) es
          ((s.openWindow o.la.toNat o.size 0 (regsResult o.d.toNat (if t = 1 ∨ t = 4 then 2 else 1) m vs) 0).count 0x04 (globalCount es)).count 0x05 (elemConflicts es)

/-- The elements that non-helper lanes of a store write, by number (07 R187). -/
def State.writtenElems (s : State) (o : LOp) (r : Rec) (w : Nat) : List Nat :=
  ((lanesOf (s.enabled o)).filterMap fun l =>
    if s.isHelper l then none
    else
      let p := r.pos w (s.elemIndex o l) (byteOff o)
      if p % w != 0 then none
      else match r.inRange w p false with | .ok (some p) => some (r.elemAt w p) | _ => none).dedup

/-- Storing the lanes' elements in ascending order, the block's scale with its first lane (07 R187, R189) (DEDUCED, log 50). -/
def State.storeElems (s : State) (race : Bool) (conv : Nat → Nat) (data : Nat → Nat) : List (Nat × Option Elem) → List Nat → State
  | [], _ => s
  | (_, none) :: es, seen => State.storeElems s race conv data es seen
  | (l, some e) :: es, seen =>
    if s.isHelper l then State.storeElems s race conv data es seen
    else
      let s := s.writeElem e (conv (data l))
      let s := if e.scale.isEmpty || seen.contains (e.index / 32) then s else s.storeParts e.scale (data l / 2 ^ 8 % 2 ^ 8)
      let s := match e.place with | .window a => if race then s.raceMark a e.n else s | _ => s
      State.storeElems s race conv data es (e.index / 32 :: seen)

/-- stb (07 R186-R189) (DEDUCED, log 50). -/
def execStb (o : LOp) (s : State) : Out :=
  longExec (.stb o) o s fun s =>
    let t := bits o.f 2 0
    let sat := bit o.f 3
    let m := s.enabled o
    let acc : Acc := { kind := 1, write := true }
    if m = 0 then s.openWindow o.la.toNat o.size 0 [] 0
    else
      match s.bufferRec acc o.sub.toNat with
      | .error e => s.stopLong o.la.toNat o.size [] e
      | .ok (s, r) =>
        let w := elemWidth r.fmt
        let written := s.writtenElems o r w
        let blk (l j : Nat) : Bool :=
          isMx r.fmt && !s.isHelper l && decide ((written.filter fun k => k / 32 == j / 32).length < 32)
        match s.elems o r acc w (storeAllowed t sat r.fmt) false blk with
        | .error (st, ps) => s.stopLong o.la.toNat o.size ps st
        | .ok es =>
          let s := s.creditSectors (s.working es)
          let data (l : Nat) : Nat := s.regsVal o.b.toNat (if t = 1 ∨ t = 4 then 2 else 1) l
          ((s.storeElems r.race (storeConv t sat r.fmt) data es []).openWindow o.la.toNat o.size 0 [] 0).count 0x05 (elemConflicts es)

/-- pfb (07 R190): a prefetch changes no register and no memory, and raises no fault. -/
def execPfb (o : LOp) (s : State) : Out := longExec (.pfb o) o s fun s => s.openWindow o.la.toNat o.size 0 [] 0

/-! ### Atomics and reductions (07 R198-R204) -/

/-- The value an atomic leaves: op by F[2:0], type 0 i, 1 n, 2 f, width in bytes, the old value, operand and new value. -/
def atomValue (op ty w old b new : Nat) : Nat := if op = 7 then (if old = b then new else old) else atomOp op ty w old b

/-- The operand and the new value of a lane (07 R199). -/
def State.atomArgs (s : State) (o : LOp) (l : Nat) : Nat × Nat :=
  let n := if bit o.f 3 then 2 else 1
  (s.regsVal o.b.toNat n l, if bits o.f 2 0 = 7 then s.regsVal (o.b.toNat + n) n l else 0)

/-- Applying a returning atomic to window elements, lanes ascending (07 R201). -/
def State.atomsWin (s : State) (op ty n : Nat) (args : Nat → Nat × Nat) : List (Nat × Nat) → State × List (Nat × Nat)
  | [] => (s, [])
  | (l, a) :: as =>
    let old := winRead s.team a n
    let s := if s.isHelper l then s else s.winWrite a n (atomValue op ty n old (args l).1 (args l).2)
    let (s, vs) := State.atomsWin s op ty n args as
    (s, (l, old) :: vs)

/-- atoms (07 R199, R201). -/
def execAtoms (o : LOp) (s : State) : Out :=
  longExec (.atoms o) o s fun s =>
    let m := s.enabled o
    let n := if bit o.f 3 then 8 else 4
    match gather ((lanesOf m).map fun l => (l, s.spadAccess ((s.lane o.a.toNat l).toNat + byteOff o) n true false)) with
    | .error (st, ps) => s.stopLong o.la.toNat o.size ps st
    | .ok as =>
      let args := fun l => s.atomArgs o l
      let (s, vs) := s.atomsWin (bits o.f 2 0) o.sub.toNat n args as
      (s.openWindow o.la.toNat o.size 0 (regsResult o.d.toNat (n / 4) m vs) 0).count 0x05 (bankConflicts as n)

/-- The type of an atomic through a record (07 R200). -/
def atomType (fmt : Nat) (w64 : Bool) : Option Nat :=
  match fmt with
  | 0x04 => some 0
  | 0x05 => some 1
  | 0x08 => if w64 then none else some 2
  | 0x09 => if w64 then some 2 else none
  | _ => none

/-- An operation that host memory accepts as an AtomicOp (07 R204) (DEDUCED, log 35). -/
def hostAtomic (op ty : Nat) : Bool := (op == 0 && ty != 2) || op == 6 || op == 7

/-- Locations on which an atomic completes: in host memory only an AtomicOp, ok, and where the host completes it (07 R204)
(DESIGN CHOICE, log 57). -/
def State.takesAtomic (s : State) (ok : Bool) (ps : List (Loc × Nat)) : Bool :=
  ps.all fun p => match p.1 with | .host a => ok && !s.hostNoAtomic.contains (a / 4096) | .dev _ => true

/-- An element of host memory under an operation that does not complete there raises PERM_FAULT (07 R204) (DEDUCED, log 35). -/
def State.hostCheck (s : State) (ok : Bool) (va : W64) (e : Except Stop (Option Elem)) : Except Stop (Option Elem) :=
  match e with
  | .ok (some { place := .global ps, .. }) => if !s.takesAtomic ok ps then .error (.trap { cause := causePerm, tval := va }) else e
  | _ => e

/-- The located elements of an atomic or reduction (07 R200, R201). -/
def State.atomElems (s : State) (o : LOp) (r : Rec) (acc : Acc) (op : Nat) (ty : Option Nat) (w : Nat) :
    Except (Stop × List PageReq) (List (Nat × Option Elem)) :=
  gather ((lanesOf (s.enabled o)).map fun l =>
    let e := s.elem { r with race := false } o.sub.toNat acc w ty.isSome false (s.elemIndex o l) (byteOff o) (fun _ => false)
    let va := r.base + BitVec.ofInt 64 (r.pos w (s.elemIndex o l) (byteOff o) / 8)
    (l, s.hostCheck (hostAtomic op (ty.getD 0)) va e))

/-- Applying a returning atomic to located elements, lanes ascending (07 R201). -/
def State.atomApply (s : State) (op ty n : Nat) (args : Nat → Nat × Nat) : List (Nat × Option Elem) → State × List (Nat × Nat)
  | [] => (s, [])
  | (l, none) :: es => let (s, vs) := State.atomApply s op ty n args es; (s, (l, 0) :: vs)
  | (l, some e) :: es =>
    let (s, old) := s.readElem e
    let s := if s.isHelper l then s else s.writeElem e (atomValue op ty n old (args l).1 (args l).2)
    let (s, vs) := State.atomApply s op ty n args es
    (s, (l, old) :: vs)

/-- atom (07 R199-R201). -/
def execAtom (o : LOp) (s : State) : Out :=
  longExec (.atom o) o s fun s =>
    let m := s.enabled o
    let n := if bit o.f 3 then 8 else 4
    let op := bits o.f 2 0
    let acc : Acc := { kind := 2, write := true }
    if m = 0 then s.openWindow o.la.toNat o.size 0 [] 0
    else
      match s.bufferRec acc o.sub.toNat with
      | .error e => s.stopLong o.la.toNat o.size [] e
      | .ok (s, r) =>
        let ty := atomType r.fmt (bit o.f 3)
        match s.atomElems o r acc op ty (8 * n) with
        | .error (st, ps) => s.stopLong o.la.toNat o.size ps st
        | .ok es =>
          let s := s.creditSectors es
          let args := fun l => s.atomArgs o l
          let (s, vs) := s.atomApply op (ty.getD 0) n args es
          (s.openWindow o.la.toNat o.size 0 (regsResult o.d.toNat (n / 4) m vs) 0).count 0x05 (elemConflicts es)

/-- The home slice of a line accepts a reduction into its write queue (07 R203). -/
def State.reduceLine (s : State) (pa op ty n : Nat) (b : W64) : State :=
  let line := pa / 128
  let k := sliceOf pa
  let same (e : RedEntry) : Bool := e.line == line && e.op == op && e.ty == ty && e.width == n
  let q := s.redQueues.get [] k
  match q.find? same with
  | some e =>
    let off := pa % 128
    let v := match e.partials.lookup off with | some p => BitVec.ofNat 64 (atomOp op ty n p.toNat b.toNat) | none => b
    let e' := { e with partials := e.partials.set off v }
    ({ s with redQueues := s.redQueues.set k (q.map fun x => if same x then e' else x) }).countCluster
      (clusterOfCore s.team.core) 0x21 1 s.team.vf
  | none =>
    -- an entry of another kind drains; the oldest drains when the queue needs room
    let s := s.drainLine line
    let q := s.redQueues.get [] k
    let s := match q with | e :: _ => if q.length ≥ 64 then s.drainLine e.line else s | [] => s
    { s with redQueues := s.redQueues.set k (s.redQueues.get [] k ++ [{ line := line, op := op, ty := ty, width := n, partials := [(pa % 128, b)] }]) }

/-- One reduction: device memory takes it in its line's write queue; a window, host memory, a compressed block and an
element that spans two lines change at once (DEDUCED, log 35). -/
def State.reduceElem (s : State) (op ty n : Nat) (b : Nat) (e : Elem) : State :=
  match e.place with
  | .global [(.dev pa, _)] =>
    if pa % 128 + n ≤ 128 then s.reduceLine pa op ty n (BitVec.ofNat 64 b)
    else let (s, old) := s.readElem e; s.writeElem e (atomOp op ty n old b)
  | _ => let (s, old) := s.readElem e; s.writeElem e (atomOp op ty n old b)

/-- gred (07 R199, R203) (DEDUCED, log 35). -/
def execGred (o : LOp) (s : State) : Out :=
  longExec (.gred o) o s fun s =>
    let m := s.enabled o
    let n := if bit o.f 3 then 8 else 4
    let op := bits o.f 2 0
    let acc : Acc := { kind := 2, write := true }
    if m = 0 then s.openWindow o.la.toNat o.size 0 [] 0
    else
      match s.bufferRec acc o.sub.toNat with
      | .error e => s.stopLong o.la.toNat o.size [] e
      | .ok (s, r) =>
        let ty := atomType r.fmt (bit o.f 3)
        match s.atomElems o r acc op ty (8 * n) with
        | .error (st, ps) => s.stopLong o.la.toNat o.size ps st
        | .ok es =>
          let s := s.creditSectors (s.working es)
          let data := es.filterMap fun e => match e.2 with
            | some x => if s.isHelper e.1 then none else some (x, (s.atomArgs o e.1).1)
            | none => none
          let s := data.foldl (fun s d => s.reduceElem op (ty.getD 0) n d.2 d.1) s
          (s.openWindow o.la.toNat o.size 0 [] 0).count 0x05 (elemConflicts es)

end Sys2Proof.Machine
end

