-- ==== Sys2Proof/Machine/Sliced.lean ====
section
/-! DEFINITION. The Slicer, the Crucible, accumulator elements and their bound words, exactly (08 R212-R214, R218,
R221-R232). -/

namespace Sys2Proof.Machine
open Sys2Proof

/-- A dyadic number m × 2^e. -/
structure Dyadic where
  m : Int
  e : Int
  deriving DecidableEq, Repr

def Dyadic.zero : Dyadic := { m := 0, e := 0 }
/-- The mantissa over 2^e0, for e0 ≤ e. -/
def Dyadic.over (x : Dyadic) (e0 : Int) : Int := x.m * (2 ^ (x.e - e0).toNat : Nat)
def Dyadic.add (x y : Dyadic) : Dyadic :=
  if x.m = 0 then y else if y.m = 0 then x
  else let e := min x.e y.e; { m := x.over e + y.over e, e := e }
/-- floor(log2 |x|) for x ≠ 0. -/
def Dyadic.log2 (x : Dyadic) : Int := Nat.log2 x.m.natAbs + x.e
/-- floor(x / 2^k), and whether something is dropped. -/
def Dyadic.floorAt (x : Dyadic) (k : Int) : Int × Bool :=
  if x.e ≥ k then (x.over k, false)
  else let d : Int := (2 ^ (k - x.e).toNat : Nat); (x.m / d, x.m % d != 0)
/-- x × 2^k cut towards zero, and whether something is dropped. -/
def Dyadic.truncAt (x : Dyadic) (k : Int) : Int × Bool :=
  let (q, lost) := ({ m := x.m.natAbs, e := x.e } : Dyadic).floorAt (-k)
  (if x.m < 0 then -q else q, lost)

/-! ### Bound words (08 R225) -/

/-- A bound: none is infinite. -/
abbrev Bound := Option Dyadic

/-- The value of a bound word of layout 1 (narrow) or 2 (wide). -/
def boundOf (lay : Nat) (an : Int) (w : Nat) : Bound :=
  if lay = 2 then (if w / 2 ^ 16 = 0x7FFF then none else some { m := w % 2 ^ 16, e := sext 16 (w / 2 ^ 16) })
  else if w / 2 ^ 8 = 0x7F then none else some { m := w % 2 ^ 8, e := an + sext 8 (w / 2 ^ 8) }

/-- round_up_bw: the smallest representable value not below the bound, and whether it became infinite. -/
def boundWord (lay : Nat) (an : Int) (b : Dyadic) : Nat × Bool :=
  let bits : Nat := if lay = 2 then 16 else 8
  let base : Int := if lay = 2 then 0 else an
  let lo : Int := if lay = 2 then -32768 else -128
  let hi : Int := if lay = 2 then 32766 else 126
  let inf : Nat := if lay = 2 then 0x7FFFFFFF else 0x7FFF
  if b.m ≤ 0 then (0, false)
  else
    let k : Int := b.log2 - (bits - 1)
    let (q, lost) := b.floorAt k
    let q := q + (if lost then 1 else 0)
    let (q, k) : Int × Int := if q = (2 ^ bits : Nat) then ((2 ^ (bits - 1) : Nat), k + 1) else (q, k)
    let r := k - base
    if r > hi then (inf, true)
    else if r < lo then (wrap bits lo * 2 ^ bits + 2 ^ (bits - 1), false)
    else (wrap bits r * 2 ^ bits + q.toNat, false)

/-! ### Elements (08 R212, R213) -/

/-- Bytes of an element, and slots of a tile, by layout code. -/
def layBytes (lay : Nat) : Nat := match lay with | 0 => 4 | 1 => 12 | _ => 32
def laySlots (lay : Nat) : Nat := match lay with | 0 => 1 | 1 => 3 | _ => 8
/-- A first slot the layout allows. -/
def laySlotOk (lay s : Nat) : Bool := match lay with | 0 => decide (s ≤ 15) | 1 => decide (s ≤ 13) | _ => s == 0 || s == 8

/-- A narrow or wide element. -/
structure AccEl where
  x : Int := 0
  an : Int := 0
  sp : Nat := 0
  bw : Nat := 0
  deriving DecidableEq, Repr

/-- Reading an element's bits. -/
def AccEl.ofRaw (lay raw : Nat) : AccEl :=
  if lay = 2 then { x := sext 192 raw, an := sext 16 (recField raw 207 192), sp := recField raw 241 240, bw := recField raw 239 208 }
  else { x := sext 64 raw, an := sext 14 (recField raw 77 64), sp := recField raw 79 78, bw := recField raw 95 80 }
/-- Its bits; reserved bits are zero. -/
def AccEl.raw (lay : Nat) (e : AccEl) : Nat :=
  if lay = 2 then wrap 192 e.x + wrap 16 e.an * 2 ^ 192 + e.bw * 2 ^ 208 + e.sp * 2 ^ 240
  else wrap 64 e.x + wrap 14 e.an * 2 ^ 64 + e.sp * 2 ^ 78 + e.bw * 2 ^ 80

def AccEl.bound (lay : Nat) (e : AccEl) : Bound := boundOf lay e.an e.bw
/-- The byte of the ACM at which element (i, j) of a tile lies. -/
def accAddr (lay slot i j : Nat) : Nat := 16384 * slot + layBytes lay * (64 * i + j)

/-! ### MSTAT bits (08 R211) -/
def msBigrel : W32 := 0x01
def msReanch : W32 := 0x02
def msBgtm : W32 := 0x04
def msIsat : W32 := 0x20
def msSpec : W32 := 0x40
def msBinf : W32 := 0x80

/-! ### The Slicer (08 R221, R222) -/

/-- A block of 32 elements of a row or column as digits: slices 1 to S, n and EX. -/
structure Block where
  vals : List FVal
  digits : List (List Int)
  n : Nat
  ex : Option Int
  deriving DecidableEq, Repr

/-- The dyadic value of a finite element, 0 otherwise. -/
def FVal.dyadic : FVal → Dyadic
  | .fin s m e => { m := if s then -(m : Int) else m, e := e }
  | _ => Dyadic.zero

/-- The balanced digits of q: slices k + 1 down to 1, in the order 1 to k + 1. -/
def balancedDigits : Nat → Int → List Int
  | 0, q => [q]
  | k + 1, q =>
    let d := (q + 128) % 256 - 128
    balancedDigits k ((q - d) / 256) ++ [d]

/-- Slicing a block into S digits per element. -/
def sliceBlock (S : Nat) (vals : List FVal) : Block :=
  let ds := vals.map FVal.dyadic
  let exps := (ds.filter fun d => d.m != 0).map Dyadic.log2
  match exps with
  | [] => { vals := vals, digits := List.replicate S (List.replicate 32 0), n := 0, ex := none }
  | e :: es =>
    let ex := es.foldl max e
    let qs := ds.map fun d => d.truncAt (8 * (S : Int) - 3 - ex)
    let dig := qs.map fun q => balancedDigits (S - 1) q.1
    { vals := vals, digits := (List.range S).map fun t => dig.map fun d => d.getD t 0,
      n := (qs.filter fun q => q.2).length, ex := some ex }

/-- A block sum. -/
def dotDigits (a b : List Int) : Int := (List.zipWith (· * ·) a b).foldl (· + ·) 0

/-- The contribution of a k-step to an element and what it adds to the bound (08 R223); T is 0 where a block has no element that takes
part (DESIGN CHOICE, log 70). -/
def slicedContribution (S : Nat) (tri : Bool) (a b : Block) : Dyadic × Dyadic :=
  match a.ex, b.ex with
  | some ea, some eb =>
    let term (t u : Nat) : Dyadic :=
      { m := dotDigits (a.digits.getD (t - 1) []) (b.digits.getD (u - 1) []), e := ea + eb + 6 - 8 * (t + u : Nat) }
    let pairs := ((List.range' 1 S).flatMap fun t => (List.range' 1 S).map fun u => (t, u)).filter fun p => !tri || decide (p.1 + p.2 ≤ S + 1)
    let c := pairs.foldl (fun acc p => acc.add (term p.1 p.2)) Dyadic.zero
    let t : Dyadic := { m := (a.n + b.n : Nat), e := ea + eb - 8 * (S : Int) + 4 }
    let o : Dyadic := if tri then { m := S, e := ea + eb - 8 * (S : Int) + 9 } else Dyadic.zero
    (c, t.add o)
  | _, _ => (Dyadic.zero, Dyadic.zero)

/-- The exact sum of products, for the block integer and four-bit paths (08 R228). -/
def exactContribution (a b : List FVal) : Dyadic :=
  (List.zipWith (fun x y => ({ m := x.dyadic.m * y.dyadic.m, e := x.dyadic.e + y.dyadic.e } : Dyadic)) a b).foldl Dyadic.add Dyadic.zero

/-! ### The Crucible (08 R224, R226) -/

/-- SP after a k-step, and whether a special condition occurred (08 R226). -/
def specialStep (sp : Nat) (a b : List FVal) : Nat × Bool :=
  let isInf (v : FVal) : Bool := match v with | .inf _ => true | _ => false
  let nan := a.any FVal.isNan || b.any FVal.isNan
  let ps := List.zip a b
  let infZero := ps.any fun p => (isInf p.1 && p.2.isZero) || (p.1.isZero && isInf p.2)
  let signs := (ps.filter fun p => isInf p.1 || isInf p.2).map fun p => p.1.neg? != p.2.neg?
  if nan || infZero || sp == 3 then (3, true)
  else
    match signs with
    | [] => (sp, false)
    | s :: ss =>
      let code := if s then 2 else 1
      if ss.any (· != s) then (3, true) else if sp = 0 ∨ sp = code then (code, true) else (3, true)

/-- H and G of a layout. -/
def layH (lay : Nat) : Int := if lay = 2 then 160 else 40
def layG (lay : Nat) : Int := if lay = 2 then 188 else 60

/-- Adding a contribution and bound terms to an element: R224 below the special values. -/
def crucibleAdd (lay : Nat) (el : AccEl) (c extra : Dyadic) : AccEl × W32 :=
  let y := ({ m := el.x, e := el.an } : Dyadic).add c
  let anchored : Int × W32 :=
    if y.m = 0 then (el.an, 0)
    else if el.x = 0 then (y.log2 - layH lay, 0)
    else if y.log2 > el.an + layG lay then (y.log2 - layH lay, msReanch)
    else (el.an, 0)
  let an := anchored.1
  let (x, lost) := if y.m = 0 then (0, false) else y.floorAt an
  let (bw, binf) : Nat × Bool :=
    match el.bound lay with
    | none => (if lay = 2 then 0x7FFFFFFF else 0x7FFF, false)
    | some b => boundWord lay an ((b.add extra).add (if lost then { m := 1, e := an } else Dyadic.zero))
  ({ el with x := x, an := an, bw := bw }, anchored.2 ||| flagIf binf msBinf)

/-- One k-step into an element; fresh: the first of an operation without ACC. The MSTAT bits it sets. -/
def crucibleStep (lay : Nat) (fresh : Bool) (el : AccEl) (a b : List FVal) (c extra : Dyadic) : AccEl × W32 :=
  let el := if fresh then { el with x := 0, bw := 0, sp := 0 } else el
  let (sp, special) := specialStep el.sp a b
  if special || el.sp != 0 then ({ el with sp := sp }, flagIf special msSpec)
  else crucibleAdd lay el c extra

/-- One k-step into an integer element (08 R227). -/
def integerStep (sat fresh : Bool) (v : Nat) (c : Int) : Nat × W32 :=
  let y := (if fresh then 0 else sext 32 v) + c
  let z := if sat then clampTo false 32 y else y
  (wrap 32 z, flagIf (sat && z != y) msIsat)

/-! ### Readout (08 R230, R232) -/

/-- A bound rounded upward to a format. -/
def boundUp (f : Fmt) (b : Bound) : Nat :=
  match b with
  | none => f.infBits false
  | some d => if d.m ≤ 0 then 0 else (f.roundDyadic 3 false false d.m.toNat d.e).1

/-- The larger of two bounds. -/
def maxBound (a b : Bound) : Bound :=
  match a, b with
  | some x, some y => if x.m ≤ 0 then some y else if y.m ≤ 0 then some x else let e := min x.e y.e; if x.over e ≥ y.over e then some x else some y
  | _, _ => none

/-- A bound exceeds 2^k × the magnitude of a code. -/
def boundExceeds (f : Fmt) (b : Bound) (k : Int) (code : Nat) : Bool :=
  match f.read code, b with
  | .fin _ m e, some d => let x : Dyadic := { m := m, e := e + k }; if x.m = 0 then decide (d.m > 0) else if d.m ≤ 0 then false else let lo := min x.e d.e; decide (d.over lo > x.over lo)
  | .fin .., none => true
  | _, _ => false

/-- An element rounded to a format: the code, its flags, its MSTAT bits, and its bound where it is finite. -/
def readoutEl (lay : Nat) (f : Fmt) (rm : Rounding) (ftz : Bool) (el : AccEl) : Nat × W32 × W32 × Option Bound :=
  if el.sp = 3 then (f.nanBits, 0, 0, none)
  else if el.sp ≠ 0 then (f.infBits (el.sp == 2), 0, 0, none)
  else
    let (c, fl) := if el.x = 0 then (0, 0) else f.roundDyadic rm ftz (decide (el.x < 0)) el.x.natAbs el.an
    let b := el.bound lay
    (c, fl, flagIf (boundExceeds f b (-52) c) msBigrel ||| flagIf (boundExceeds f b 0 c) msBgtm, some b)

/-- MBND of a readout: the largest bound of the finite elements read, or +0 (08 R230). -/
def mbndOf (bs : List (Option Bound)) : W64 :=
  BitVec.ofNat 64 (boundUp fmtF64 ((bs.filterMap id).foldl maxBound (some Dyadic.zero)))

/-- macc.ld of a floating code into an element (08 R232). -/
def loadEl (lay : Nat) (f : Fmt) (code : Nat) : AccEl :=
  match f.read code with
  | .nan .. => { sp := 3 }
  | .inf s => { sp := if s then 2 else 1 }
  | .fin s m e =>
    if m = 0 then {}
    else
      let v : Dyadic := { m := if s then -(m : Int) else m, e := e }
      let an := v.log2 - layH lay
      let (x, lost) := v.floorAt an
      let rest : Dyadic := if lost then v.add { m := -x, e := an } else Dyadic.zero
      { x := x, an := an, bw := (boundWord lay an rest).1 }

/-! ### Panels (08 R214) -/

/-- Bytes of one row or column of a panel, and of a panel. -/
def panelRow (fmt : Nat) : Nat := 4 * elemWidth fmt + (if isMx fmt then 4 else 0)
def panelSize (rows fmt : Nat) : Nat := (rows * panelRow fmt + 127) / 128 * 128

/-- The element values of a row: an MX scale enters the exponent, 0xFF makes every element NaN. -/
def rowVals (fmt raw : Nat) : List FVal :=
  let w := elemWidth fmt
  let scale := raw / 2 ^ (32 * w) % 256
  let k : Int := if isMx fmt then (scale : Int) - 127 else 0
  (List.range 32).map fun i =>
    let c := raw / 2 ^ (w * i) % 2 ^ w
    if isMx fmt && scale == 0xFF then .nan false 0
    else
      match intFmt fmt, floatFmt fmt with
      | some u, _ => let v := extOf u w c; .fin (decide (v < 0)) v.natAbs 0
      | none, some f => match f.read c with | .fin s m e => .fin s m (e + k) | v => v
      | none, none => let v := sext 8 c; .fin (decide (v < 0)) v.natAbs (k - 6)

end Sys2Proof.Machine
end

