-- ==== Sys2Proof/Machine/Matrix.lean ====
section
/-! DEFINITION. The matrix commands, their k-steps and completions, pairing, stack matrix-vector operations, and the
accumulator commands and readout (08 R209-R239). -/

namespace Sys2Proof.Machine
open Sys2Proof

/-! ### Command words (08 R216, R218, R231) -/

/-- The paths of R218. -/
inductive MatPath where
  | integer
  | sliced
  | block
  | fourBit
  deriving DecidableEq, Repr

/-- A matrix command's fields. -/
structure MatCmd where
  kb : Nat
  fa : Nat
  fb : Nat
  s : Nat
  tri : Bool
  acc : Bool
  sat : Bool
  wide : Bool
  m : Nat
  n : Nat
  tag : Nat
  ring : Nat
  feed : Nat
  crdv : Nat
  dst : Nat
  deriving DecidableEq, Repr

/-- 16, 32 or 64 by code. -/
def dimOf (c : Nat) : Nat := 16 * 2 ^ c

/-- Reading the extension words; kind 2 is mmv. -/
def MatCmd.ofWords (kind : Nat) (e1 e2 : W32) : MatCmd :=
  { kb := bits e1 31 21 + 1, fa := bits e1 20 16, fb := bits e1 15 11, s := bits e1 10 8 + 1, tri := bit e1 7, acc := bit e1 6,
    sat := bit e1 5, wide := bit e1 4, m := if kind = 2 then 2 ^ bits e1 3 2 else dimOf (bits e1 3 2), n := dimOf (bits e1 1 0),
    tag := bits e2 25 18, ring := bits e2 17 14, feed := bits e2 13 9, crdv := bits e2 8 4, dst := bits e2 3 0 }

/-- A format of the sliced floating path. -/
def slicedFmt (f : Nat) : Bool := [0x09, 0x08, 0x06, 0x07, 0x0A, 0x0B, 0x11, 0x12].contains f

/-- The path of two formats (08 R218). -/
def matPath (fa fb : Nat) : Option MatPath :=
  if fa ≤ 1 ∧ fb ≤ 1 then some .integer
  else if slicedFmt fa && slicedFmt fb then some .sliced
  else if fa = 0x10 ∧ fb = 0x10 then some .block
  else if (fa = 0x0C ∨ fa = 0x13) ∧ (fb = 0x0C ∨ fb = 0x13) then some .fourBit
  else none

/-- The layout of the destination tile (DEDUCED, log 37). -/
def MatCmd.lay (c : MatCmd) : Nat := match matPath c.fa c.fb with | some .integer => 0 | _ => if c.wide then 2 else 1

/-- The fields that need no register are legal (08 R216, R218); kind 0 mmul, 1 mmulp, 2 mmv (DEDUCED, log 37). -/
def MatCmd.ok (kind : Nat) (e1 e2 : W32) : Bool :=
  let c := MatCmd.ofWords kind e1 e2
  (kind == 2 || bits e1 3 2 != 3) && bits e1 1 0 != 3 && decide (c.ring ≤ 11)
  && (match matPath c.fa c.fb with
      | none => false
      | some .integer => c.s == 1 && !c.tri && !c.wide
      | some .sliced => !c.sat && (c.wide || decide (c.s ≤ 2))
      | some _ => !c.sat && c.s == 1 && !c.tri)
  && (kind != 1 || (c.m == 64 && c.n == 64))
  && (kind != 2 || (!c.wide && decide (c.s ≤ 2) && matPath c.fa c.fb != some .integer))
  && laySlotOk c.lay c.dst

/-- Panels present (08 R218). -/
def MatCmd.panels (c : MatCmd) : Nat := if c.ring = 0 then c.kb else 2 ^ c.ring
/-- Byte offset of panel j of an operand with rows rows (08 R214). -/
def MatCmd.panelAt (c : MatCmd) (rows fmt j : Nat) : Nat := (if c.ring = 0 then j else j % 2 ^ c.ring) * panelSize rows fmt
/-- Pairs of slices, and cycles of a k-step (08 R222, R240). -/
def MatCmd.pairs (c : MatCmd) : Nat :=
  match matPath c.fa c.fb with
  | some .integer => (1 + c.fa) * (1 + c.fb)
  | some .sliced => if c.tri then c.s * (c.s + 1) / 2 else c.s * c.s
  | _ => 1
def MatCmd.cycles (c : MatCmd) : Nat := c.pairs * (if matPath c.fa c.fb = some .fourBit then 16 else 32)
/-- The slots of the tile. -/
def MatCmd.slots (c : MatCmd) : BitVec 16 := BitVec.ofNat 16 ((2 ^ laySlots c.lay - 1) * 2 ^ c.dst)

def MatOp.cmd (o : MatOp) : MatCmd := MatCmd.ofWords o.kind o.e1 o.e2

/-- An accumulator command's fields (08 R231). -/
structure MaccCmd where
  raw : Bool
  crdv : Nat
  rnd : Nat
  fmt : Nat
  n : Nat
  m : Nat
  lay : Nat
  slot : Nat
  deriving DecidableEq, Repr

def MaccCmd.ofWord (e1 : W32) : MaccCmd :=
  { raw := bit e1 22, crdv := bits e1 21 17, rnd := bits e1 16 15, fmt := bits e1 14 10, n := dimOf (bits e1 9 8),
    m := dimOf (bits e1 7 6), lay := bits e1 5 4, slot := bits e1 3 0 }

/-- Bytes of an element in the window. -/
def MaccCmd.size (c : MaccCmd) : Nat := if c.raw then layBytes c.lay else elemWidth c.fmt / 8
/-- The row stride: 0 means N × size. -/
def MaccCmd.stride (c : MaccCmd) (b : W64) : Nat := if b = 0 then c.n * c.size else b.toNat
/-- The fields are legal (08 R231); kind 0 ld, 1 st, 2 rb. -/
def MaccCmd.ok (kind : Nat) (e1 : W32) (a b : W64) : Bool :=
  let c := MaccCmd.ofWord e1
  (!c.raw || (c.fmt == 0 && c.rnd == 0)) && (kind == 1 || c.rnd == 0)
  && (c.raw || (if c.lay = 0 then c.fmt == 0x04 else if kind = 2 then c.fmt == 0x08 else decide (0x06 ≤ c.fmt ∧ c.fmt ≤ 0x09)))
  && bits e1 9 8 != 3 && bits e1 7 6 != 3 && (kind != 2 || c.lay != 0) && laySlotOk c.lay c.slot
  && c.stride b % c.size == 0 && decide (c.stride b ≥ c.n * c.size) && a.toNat % c.size == 0

/-- The slots an accumulator command names (08 R220). -/
def MaccOp.slots (o : MaccOp) : BitVec 16 :=
  if o.kind = 3 then BitVec.ofNat 16 ((2 ^ (bits o.e1 7 4 + 1) - 1) * 2 ^ bits o.e1 3 0)
  else let c := MaccCmd.ofWord o.e1; BitVec.ofNat 16 ((2 ^ laySlots c.lay - 1) * 2 ^ c.slot)

/-! ### Issue (08 R210, R218-R220) -/

/-- The team in focus takes the ACM, or finds it its own; none while another team owns it (08 R210). -/
def State.takeAcm (s : State) : Option State :=
  match (s.core s.team.core).acmOwner with
  | some u => if u = s.cur.uid then some s else none
  | none => some (s.onCore s.team.core fun c => { c with acmOwner := some s.cur.uid, acm := [] })

/-- A point field at or beyond the declared count (02 R57 check 5). -/
def pointBeyond (t : Team) (ps : List Nat) : Option Trap :=
  match ps.find? fun p => p != 31 && decide (p ≥ t.hdr.rdv) with
  | some p => some { cause := causeRdvRange, tval := BitVec.ofNat 64 p }
  | none => none

/-- An operand extent that reaches a forbidden range (08 R218, 02 R59): the first such offset (DEDUCED, log 37). -/
def extentFault (t : Team) (a : W64) (n : Nat) (write : Bool) : Option Trap :=
  if write && decide (a.toNat < 384) then some { cause := causeSpad, tval := a }
  else if a.toNat + n > spillBase t then some { cause := causeSpad, tval := BitVec.ofNat 64 (max a.toNat (spillBase t)) }
  else none

/-- The first failing check of a list. -/
def firstTrap : List (Option Trap) → Option Trap
  | [] => none
  | some t :: _ => some t
  | none :: ts => firstTrap ts

/-- The checks of a matrix command at issue. -/
def State.matrixFault (s : State) (kind : Nat) (o : S96) (word : W32) : Option Trap :=
  let c := MatCmd.ofWords kind o.e1 o.e2
  let a := s.rs o.w.a.toNat
  let b := s.rs o.w.b.toNat
  let cfg (bad : Bool) : Option Trap := if bad then some { cause := causeMatrix, tval := word.zeroExtend 64 } else none
  let readsA := kind != 1 || s.team.core % 2 == 0
  firstTrap
    [pointBeyond s.team [c.feed, c.crdv], cfg (!MatCmd.ok kind o.e1 o.e2),
     cfg ((readsA && a.toNat % 128 != 0) || b.toNat % (if kind = 2 then 65536 else 128) != 0),
     if readsA then extentFault s.team a (c.panels * panelSize c.m c.fa) false else none,
     if kind = 2 then none else extentFault s.team b (c.panels * panelSize c.n c.fb) false]

/-- The lowest-numbered free operation slot. -/
def freeSlot (t : Team) : Option Nat := (List.range 4).find? fun n => (t.matOps.lookup n).isNone

/-- Issuing mmul, mmulp or mmv (08 R219). -/
def matrixIssue (kind : Nat) (o : S96) (op : BitVec 7) (s : State) : Out :=
  let word := o.w.word op 3
  match s.matrixFault kind o word with
  | some t => .next (s.raiseScalar t 12)
  | none =>
    match s.takeAcm, freeSlot s.team with
    | some s, some n =>
      let c := MatCmd.ofWords kind o.e1 o.e2
      let t := s.team
      let base := (t.points.get {} c.feed).phase
      let m : MatOp := { kind := kind, word := word, e1 := o.e1, e2 := o.e2, pc := t.spc, order := t.matIssued, a := s.rs o.w.a.toNat, b := s.rs o.w.b.toNat,
                         feedBase := if c.feed < 24 then base else 0 }
      let s := { s with team := { t with matOps := t.matOps.set n m, mprog := t.mprog.set n 0, matIssued := t.matIssued + 1, acmUsed := t.acmUsed ||| c.slots } }
      .next ((s.ws o.w.d.toNat (BitVec.ofNat 64 n)).retireScalar 12)
    | some s, none => .next s.wait
    | none, _ => .next s.wait
/-- mmul (08 R216). -/
def execMmul (o : S96) (s : State) : Out := matrixIssue 0 o 0x50 s
/-- mmulp (08 R216, R236). -/
def execMmulp (o : S96) (s : State) : Out := matrixIssue 1 o 0x51 s
/-- mmv (08 R216, R238). -/
def execMmv (o : S96) (s : State) : Out := matrixIssue 2 o 0x56 s

/-- The checks of an accumulator command at issue. -/
def State.maccFault (s : State) (kind : Nat) (o : S64) (word : W32) : Option Trap :=
  let cfg (bad : Bool) : Option Trap := if bad then some { cause := causeMatrix, tval := word.zeroExtend 64 } else none
  if kind = 3 then cfg (decide (bits o.e1 3 0 + bits o.e1 7 4 + 1 > 16))
  else
    let c := MaccCmd.ofWord o.e1
    let a := s.rs o.w.a.toNat
    let b := s.rs o.w.b.toNat
    firstTrap
      [pointBeyond s.team [c.crdv], cfg (!MaccCmd.ok kind o.e1 a b),
       extentFault s.team a ((c.m - 1) * c.stride b + c.n * c.size) (kind != 0)]

/-- Queueing an accumulator command (08 R232). -/
def maccIssue (kind : Nat) (o : S64) (op : BitVec 7) (s : State) : Out :=
  match s.maccFault kind o (o.w.word op 2) with
  | some t => .next (s.raiseScalar t 8)
  | none =>
    match s.takeAcm with
    | none => .next s.wait
    | some s =>
      let m : MaccOp := { kind := kind, e1 := o.e1, order := s.team.matIssued, a := s.rs o.w.a.toNat, b := s.rs o.w.b.toNat }
      .next (({ s with team := { s.team with maccOps := s.team.maccOps ++ [m], matIssued := s.team.matIssued + 1,
                                             acmUsed := s.team.acmUsed ||| m.slots } }).retireScalar 8)
/-- macc.ld (08 R231). -/
def execMaccLd (o : S64) (s : State) : Out := maccIssue 0 o 0x52 s
/-- macc.st (08 R231). -/
def execMaccSt (o : S64) (s : State) : Out := maccIssue 1 o 0x53 s
/-- macc.rb (08 R231). -/
def execMaccRb (o : S64) (s : State) : Out := maccIssue 2 o 0x54 s
/-- macc.clr (08 R231). -/
def execMaccClr (o : S64) (s : State) : Out := maccIssue 3 o 0x55 s

/-! ### Readout (08 R229, R230) -/

/-- An element of the ACM as a number. -/
def accRead (acm : Store Byte) (lay slot i j : Nat) : Nat := readBytes acm (accAddr lay slot i j) (layBytes lay)
/-- Writing it. -/
def accWrite (acm : Store Byte) (lay slot i j x : Nat) : Store Byte := writeBytes acm (accAddr lay slot i j) (layBytes lay) x

/-- acc.rd (08 R230): each lane's element is read at issue; MBND, MSTAT and the flags change at the window close. -/
def execAccRd (o : LOp) (s : State) : Out :=
  longExec (.accRd o) o s fun s =>
    match s.takeAcm with
    | none => s.wait
    | some s =>
      let lay := match o.cField with | some c => c.toNat | none => 0
      let ft := bits o.f 1 0
      let m := s.enabled o
      let acm := (s.core s.team.core).acm
      let raw (l : Nat) : Nat := let x := (s.lane o.a.toNat l).toNat % 4096; accRead acm lay o.b.toNat (x / 64) (x % 64)
      if m = 0 then s.openWindow o.la.toNat 8 0 [] 0
      else if lay = 0 then
        s.openWindow o.la.toNat 8 0 (regsResult o.d.toNat 1 m ((lanesOf m).map fun l => (l, raw l))) 0 (some (0, 0))
      else
        let rs := (lanesOf m).map fun l =>
          (l, readoutEl lay (ftFmt ft) (roundingOf (bits o.f 3 2) s.grp.fpctl) (ftzOf s.grp.fpctl) (AccEl.ofRaw lay (raw l)))
        let flags := rs.foldl (fun a r => a ||| r.2.2.1) 0
        let mstat := rs.foldl (fun a r => a ||| r.2.2.2.1) 0
        s.openWindow o.la.toNat 8 0 (regsResult o.d.toNat (if ft = 1 then 2 else 1) m (rs.map fun r => (r.1, r.2.1))) flags
          (some (mbndOf (rs.map fun r => r.2.2.2.2), mstat))

/-! ### K-steps (08 R219-R228) -/

/-- An engine operation signals its completion point (08 R219): one unit, on its way. -/
def Team.signal (t : Team) (p : Nat) : Team := if p < 24 then { t with units := t.units ++ [{ point := p, units := 1 }] } else t

/-- A failed engine operation: taken by the scalar stream at its next issue (06 R161). -/
def Team.engineFails (t : Team) (e : Trap) : Team := { t with engineFault := t.engineFault ++ [(e, none)] }

/-- The first array operation of a team in issue order: slot and operation. -/
def nextArrayOp (t : Team) : Option (Nat × MatOp) :=
  t.matOps.foldl (fun a p => match a with | some q => if q.2.order ≤ p.2.order then a else some p | none => some p) none

/-- No earlier accumulator command names a slot of the operation's tile (08 R220). -/
def tileFree (t : Team) (o : MatOp) : Bool := t.maccOps.all fun m => decide (m.order > o.order) || (m.slots &&& o.cmd.slots) == 0
/-- Earlier accumulator commands do not hold the operation: every earlier macc.clr is done as well (08 R220). -/
def arrayFree (t : Team) (o : MatOp) : Bool := tileFree t o && t.maccOps.all fun m => decide (m.order > o.order) || m.kind != 3

/-- The feed point allows k-step j (08 R215). -/
def feedOk (t : Team) (o : MatOp) (j : Nat) : Bool :=
  !decide (o.cmd.feed < 24) || decide (((t.points.get {} o.cmd.feed).phase - o.feedBase).toNat ≥ j + 1)

/-- The next array operation of a core's owner, once its tile is free (08 R220, 17 R418): team, slot and operation. -/
def State.arrayNext (s : State) (core : Nat) : Option (Nat × Nat × MatOp) :=
  match (s.core core).acmOwner with
  | none => none
  | some uid =>
    let t := s.teamOf uid
    match nextArrayOp t with
    | none => none
    | some (n, o) =>
      if (t.stopped && !t.aborted) || !tileFree t o || !o.park.isEmpty then none else some (uid, n, o)

/-- The array operation a core can run next but for its grant: the owner's team, slot and operation. -/
def State.arrayReady (s : State) (core : Nat) : Option (Nat × Nat × MatOp) :=
  (s.arrayNext core).filter fun x => arrayFree (s.teamOf x.1) x.2.2

/-- An array operation is ready with its feed point satisfied. -/
def State.arrayFed (s : State) (core : Nat) : Option (Nat × Nat × MatOp) :=
  match s.arrayReady core with
  | some (uid, n, o) =>
    let t := s.teamOf uid
    if feedOk t o (t.mprog.get 0 n).toNat then some (uid, n, o) else none
  | none => none

/-- The rows of an operand panel in a window. -/
def winRows (t : Team) (base : W64) (c : MatCmd) (rows fmt j : Nat) : List (List FVal) :=
  (List.range rows).map fun i => rowVals fmt (winRead t (base.toNat + c.panelAt rows fmt j + i * panelRow fmt) (panelRow fmt))

/-- One k-step into an element's bits. -/
def elementStep (c : MatCmd) (fresh : Bool) (raw : Nat) (a b : List FVal) (ba bb : Block) : Nat × W32 :=
  match matPath c.fa c.fb with
  | some .integer => integerStep c.sat fresh raw (exactContribution a b).m
  | some .sliced =>
    let (ct, extra) := slicedContribution c.s c.tri ba bb
    let (el, m) := crucibleStep c.lay fresh (AccEl.ofRaw c.lay raw) a b ct extra
    (el.raw c.lay, m)
  | _ =>
    let (el, m) := crucibleStep c.lay fresh (AccEl.ofRaw c.lay raw) a b (exactContribution a b) Dyadic.zero
    (el.raw c.lay, m)

/-- A k-step over a tile: the new ACM and the MSTAT bits. -/
def tileStep (c : MatCmd) (fresh : Bool) (acm : Store Byte) (as bs : List (List FVal)) : Store Byte × W32 :=
  let blk (v : List FVal) : Block := if matPath c.fa c.fb = some .sliced then sliceBlock c.s v else { vals := v, digits := [], n := 0, ex := none }
  let rows := as.map fun v => (v, blk v)
  let cols := bs.map fun v => (v, blk v)
  rows.zipIdx.foldl (fun r a => cols.zipIdx.foldl (fun (r : Store Byte × W32) b =>
    let (x, m) := elementStep c fresh (accRead r.1 c.lay c.dst a.2 b.2) a.1.1 b.1.1 a.1.2 b.1.2
    (accWrite r.1 c.lay c.dst a.2 b.2 x, r.2 ||| m)) r) (acm, 0)

/-- Writing a finished k-step: MPROGn rises; at the last one the slot is freed and the completion point signalled. A k-step of an
array charges the cluster (15 R401) and is counted (R409); a stack operation runs on no array (15 R403). -/
def State.stepDone (s : State) (core uid n : Nat) (array : Bool) (c : MatCmd) (r : Store Byte × W32) : State :=
  let s := s.onCore core fun k => { k with acm := r.1, ksteps := if array then k.ksteps + 1 else k.ksteps }
  let s := if array then s.onCluster (clusterOfCore core) fun k => { k with crec := k.crec + BitVec.ofNat 32 (4096 * c.cycles) } else s
  s.onTeam uid fun t =>
    let p := t.mprog.get 0 n + 1
    let t := { t with mprog := t.mprog.set n p, mstat := t.mstat ||| r.2 }
    if p.toNat ≥ c.kb then ({ t with matOps := t.matOps.erase n }).signal c.crdv else t

/-- A k-step of an operation of one core: the rows of A and the columns of B. -/
def State.runStep (s : State) (core uid n : Nat) (o : MatOp) (as bs : List (List FVal)) : State :=
  let c := o.cmd
  let j := ((s.teamOf uid).mprog.get 0 n).toNat
  s.stepDone core uid n (o.kind != 2) c (tileStep c (j == 0 && !c.acc) (s.core core).acm as bs)

/-- An operation fails: its slot is freed and the scalar stream will trap (DEDUCED, log 37). -/
def State.arrayFails (s : State) (uid n : Nat) (e : Trap) : State :=
  s.onTeam uid fun t => ({ t with matOps := t.matOps.erase n }).engineFails e

/-! ### Stack matrix-vector operands (08 R238, R239) -/

/-- The device address of 64 KiB chunk m of the region at V, with its page sizes checked. -/
def State.chunkAddr (s : State) (t : Team) (v : W64) (m : Nat) : Except Stop Nat :=
  let va := v + BitVec.ofNat 64 (65536 * m)
  match s.xlateSized t.vf t.ctx { kind := 4 } va with
  | .error e => .error e
  | .ok (.host _, _) => .error (.trap { cause := causePerm, tval := va })
  | .ok (.dev pa, size) => if size < 16 then .error (.trap { cause := causePerm, tval := va }) else .ok pa

/-- Device address of byte o of B as its stack serves it. -/
def stackByte (pa stack o : Nat) : Nat :=
  let h := (pa / 2 ^ 16 % 256) ^^^ (pa / 2 ^ 24 % 256) ^^^ (pa / 2 ^ 32 % 256)
  pa + 8192 * (stack ^^^ (h / 32 % 8)) + o % 8192

/-- Reading n bytes of B from byte o on, in parts within chunks. -/
def State.stackRead (s : State) (t : Team) (v : W64) (stack : Nat) : Nat → Nat → Nat → Except Stop (State × Nat)
  | 0, _, _ => .ok (s, 0)
  | f + 1, o, n =>
    if n = 0 then .ok (s, 0)
    else
      let m := min n (8192 - o % 8192)
      match s.chunkAddr t v (o / 8192) with
      | .error e => .error e
      | .ok pa =>
        let (s, x) := s.loadLoc (.dev (stackByte pa stack o)) m
        match State.stackRead s t v stack f (o + m) (n - m) with
        | .error e => .error e
        | .ok (s, y) => .ok (s, x + 2 ^ (8 * m) * y)

/-- The columns of B of an mmv's panel. -/
def State.stackCols (s : State) (t : Team) (o : MatOp) (j : Nat) : Nat → Nat → Except Stop (State × List (List FVal))
  | 0, _ => .ok (s, [])
  | k + 1, i =>
    let c := o.cmd
    match s.stackRead t o.b (c.tag % 8) 3 (c.panelAt c.n c.fb j + i * panelRow c.fb) (panelRow c.fb) with
    | .error e => .error e
    | .ok (s, x) =>
      match State.stackCols s t o j k (i + 1) with
      | .error e => .error e
      | .ok (s, vs) => .ok (s, rowVals c.fb x :: vs)

/-! ### Events (08 R219, R220, R236, R237) -/

/-- Taking a grant away: the operation asks again after a wait on a feed point or a partner (08 R220). -/
def State.ungrant (s : State) (uid n : Nat) : State :=
  s.onTeam uid fun t => { t with matOps := t.matOps.map fun p =>
    if p.1 = n then (p.1, { p.2 with granted := false, feedWait := p.2.feedWait || p.2.granted }) else p }

/-- The partner of a paired operation, where it waits with the same tag (08 R236) (DEDUCED, log 37). -/
def State.partner (s : State) (core : Nat) (o : MatOp) : Option (Nat × Nat × MatOp) :=
  match s.arrayNext (core ^^^ 1) with
  | some (uid, n, p) => if p.kind = 1 ∧ p.cmd.tag = o.cmd.tag then some (uid, n, p) else none
  | none => none

/-- MATRIX_K_STEP (08 R224): the core's array operation completes one k-step, where it has its grant and its panels; a
paired operation runs in lockstep with its partner (DEDUCED, log 6) (DEDUCED, log 37). -/
def execMatrixKStep (core : Nat) (s : State) : Out :=
  match s.arrayNext core with
  | none => .next s
  | some (uid, n, o) =>
    let t := s.teamOf uid
    let c := o.cmd
    let j := (t.mprog.get 0 n).toNat
    if o.kind = 1 then
      match s.partner core o with
      | none => .next (s.ungrant uid n)
      | some (uid2, n2, o2) =>
        let t2 := s.teamOf uid2
        if o2.e1 ≠ o.e1 then
          let bad (m : MatOp) : Trap := { cause := causeMatrix, tval := m.word.zeroExtend 64 }
          .next ((s.arrayFails uid n (bad o)).arrayFails uid2 n2 (bad o2))
        else if !(feedOk t o j && feedOk t2 o2 (t2.mprog.get 0 n2).toNat) then .next ((s.ungrant uid n).ungrant uid2 n2)
        else if !(o.granted && o2.granted && arrayFree t o && arrayFree t2 o2) then .next s
        else
          let (te, oe) := if core % 2 = 0 then (t, o) else (t2, o2)
          let as := winRows te oe.a oe.cmd 64 c.fa j
          let s := s.runStep core uid n o as (winRows t o.b c 64 c.fb j)
          .next (s.runStep (core ^^^ 1) uid2 n2 o2 as (winRows t2 o2.b o2.cmd 64 c.fb j))
    else if !feedOk t o j then .next (s.ungrant uid n)
    else if (!o.granted && o.kind != 2) || !arrayFree t o then .next s
    else
      let as := winRows t o.a c c.m c.fa j
      if o.kind = 0 then .next (s.runStep core uid n o as (winRows t o.b c c.n c.fb j))
      else
        match s.stackCols t o j c.n 0 with
        | .ok (s, bs) => .next (s.runStep core uid n o as bs)
        | .error (.trap e) => .next (s.arrayFails uid n e)
        | .error (.ue loc) => .next (s.stopContext t.vf t.ctx causeUe loc)
        | .error (.page p) =>
          let (s, q) := s.postFault t.vf t.ctx core 0 p
          .next ((s.ungrant uid n).onTeam uid fun t =>
            { t with matOps := t.matOps.map fun x => if x.1 = n then (x.1, { x.2 with park := [q] }) else x })

/-- PAIR_TIMEOUT (08 R236): a paired operation that is next on its core has waited 4,096 cycles without a partner. -/
def execPairTimeout (core : Nat) (s : State) : Out :=
  match s.arrayNext core with
  | some (uid, n, o) =>
    if o.kind = 1 ∧ (s.partner core o).isNone then .next (s.arrayFails uid n { cause := causePair, tval := BitVec.ofNat 64 o.cmd.tag })
    else .next s
  | none => .next s

/-! ### Accumulator commands (08 R232) -/

/-- An accumulator command may act: no earlier command of the team names a slot it names, and every earlier macc.clr is
done (08 R220). -/
def maccFree (t : Team) (o : MaccOp) : Bool :=
  (t.maccOps.all fun m => decide (m.order ≥ o.order) || (m.kind != 3 && (m.slots &&& o.slots) == 0))
  && t.matOps.all fun p => decide (p.2.order > o.order) || (p.2.cmd.slots &&& o.slots) == 0

/-- Element (i, j) of a command in row order. -/
def elementsOf (c : MaccCmd) : List (Nat × Nat) := (List.range c.m).flatMap fun i => (List.range c.n).map fun j => (i, j)

/-- macc.ld: the bits of an element from its bytes in the window. -/
def maccLoad (c : MaccCmd) (x : Nat) : Nat :=
  if c.raw then (if c.lay = 2 then x % 2 ^ 242 else x)
  else if c.lay = 0 then x
  else match floatFmt c.fmt with | some f => (loadEl c.lay f x).raw c.lay | none => 0

/-- macc.st and macc.rb: the bytes of an element, its MSTAT bits and its bound. -/
def maccStore (kind : Nat) (c : MaccCmd) (raw : Nat) : Nat × W32 × Option Bound :=
  let el := AccEl.ofRaw c.lay raw
  let b : Option Bound := if c.lay = 0 ∨ el.sp ≠ 0 then none else some (el.bound c.lay)
  if kind = 2 ∧ !c.raw then (if el.sp ≠ 0 then 0x7FC00000 else boundUp fmtF32 (el.bound c.lay), 0, none)
  else if c.raw ∨ c.lay = 0 then (raw, 0, b)
  else match floatFmt c.fmt with
    | some f => let r := readoutEl c.lay f (match c.rnd with | 0 => 0 | 1 => 1 | 2 => 2 | _ => 3) false el; (r.1, r.2.2.1, r.2.2.2)
    | none => (0, 0, none)

/-- The effect of an accumulator command on its team and the ACM. -/
def maccEffect (o : MaccOp) (t : Team) (acm : Store Byte) : Team × Store Byte :=
  let c := MaccCmd.ofWord o.e1
  let at_ (p : Nat × Nat) : Nat := o.a.toNat + p.1 * c.stride o.b + p.2 * c.size
  match o.kind with
  | 3 => (t, acm.filter fun b => !bit o.slots (b.1 / 16384))
  | 0 => (t.signal c.crdv, (elementsOf c).foldl (fun m p => accWrite m c.lay c.slot p.1 p.2 (maccLoad c (winRead t (at_ p) c.size))) acm)
  | k =>
    let rs := (elementsOf c).map fun p => (p, maccStore k c (accRead acm c.lay c.slot p.1 p.2))
    let t := rs.foldl (fun (t : Team) r => ({ t with win := writeBytes t.win (at_ r.1) c.size r.2.1 }).raceClear (at_ r.1) c.size) t
    let t := if k = 1 then { t with mbnd := mbndOf (rs.map fun r => r.2.2.2), mstat := rs.foldl (fun a r => a ||| r.2.2.1) t.mstat } else t
    (t.signal c.crdv, acm)

/-- MACC_COMPLETE (08 R232): the first accumulator command of the core's owner that may act takes effect. -/
def execMaccComplete (core : Nat) (s : State) : Out :=
  match (s.core core).acmOwner with
  | none => .next s
  | some uid =>
    let t := s.teamOf uid
    if t.stopped && !t.aborted then .next s
    else
      match t.maccOps.find? (maccFree t) with
      | none => .next s
      | some o =>
        let (t', acm) := maccEffect o { t with maccOps := t.maccOps.filter fun m => m.order != o.order } (s.core core).acm
        .next ((s.onTeam uid fun _ => t').onCore core fun c => { c with acm := acm })

end Sys2Proof.Machine
end

