-- ==== Sys2Proof/Machine/Ring.lean ====
section
/-! DEFINITION. The Weft Ring: what actions do to slots, the ring instructions of both streams, cvtq and amxcom, one ring
step, watches, and cancellation (04 R118-R121; 09 R242-R261). -/

namespace Sys2Proof.Machine
open Sys2Proof

/-! ### Slots and fields -/

/-- The position of a core's stops (09 R242). -/
def stopPos (core : Nat) : Nat := 52 + 243 * (core / 192) + core % 192
/-- The number of the slot that stands at a position at a ring step. -/
def slotAt (pos step : Nat) : Nat := (pos + 1024 - step % 1024) % 1024
/-- The strand of a key. -/
def strandOf (key : W32) : Nat := key.toNat % 8

def State.slot (s : State) (strand i : Nat) : RingSlot := s.slots.get {} (strand * 1024 + i)
def State.setSlot (s : State) (strand i : Nat) (x : RingSlot) : State := { s with slots := s.slots.put {} (strand * 1024 + i) x }

/-- A payload field: word w, or dword d (09 R244). -/
def payField (p : BitVec 512) (w64 : Bool) (f : Nat) : W64 :=
  if w64 then p.extractLsb' (64 * f) 64 else (p.extractLsb' (32 * f) 32).zeroExtend 64
/-- Writing it. -/
def setPayField (p : BitVec 512) (w64 : Bool) (f : Nat) (x : W64) : BitVec 512 :=
  let n := if w64 then 64 else 32
  let m : BitVec 512 := BitVec.ofNat 512 ((2 ^ n - 1) * 2 ^ (n * f))
  (p &&& ~~~m) ||| (BitVec.ofNat 512 (x.toNat * 2 ^ (n * f)) &&& m)

def cwBudget (cw : W32) : Nat := bits cw 31 16
def cwAny (cw : W32) : Bool := bit cw 13
def cwAcq (cw : W32) : Bool := bit cw 14
def cwRel (cw : W32) : Bool := bit cw 15
def cwW64 (cw : W32) : Bool := bit cw 12
def cwMode (cw : W32) : Bool := bit cw 11
def cwCond (cw : W32) : Nat := bits cw 10 8
/-- The field of a lane (09 R249). -/
def cwField (cw : W32) (l : Nat) : Nat := (bits cw 3 0 + if bit cw 4 then l else 0) % (if cwW64 cw then 8 else 16)

/-- Status codes (09 R252). -/
def stOk : Nat := 0
def stAbsent : Nat := 1
def stPresent : Nat := 2
def stFull : Nat := 3
def stEmpty : Nat := 4
def stDqfull : Nat := 5
def stTimeout : Nat := 6
def stNomatch : Nat := 7

/-- The until comparisons (09 R252). -/
def untilHolds (cond : Nat) (x b : W32) : Bool :=
  match cond with
  | 0 => x == b
  | 1 => x != b
  | 2 => decide (x.toInt < b.toInt)
  | 3 => decide (b.toInt ≤ x.toInt)
  | 4 => decide (x.toNat < b.toNat)
  | 5 => decide (b.toNat ≤ x.toNat)
  | _ => (x &&& b) != 0

/-- The new field of a rewrite (09 R253), codes 0 to 10. -/
def rewriteValue (op w x b new : Nat) : Nat :=
  match op with
  | 0 => iAdd false false w x b
  | 1 => iMin false w x b
  | 2 => iMin true w x b
  | 3 => iMax false w x b
  | 4 => iMax true w x b
  | 5 => iAnd x b
  | 6 => iOr x b
  | 7 => iXor x b
  | 8 => b
  | 9 => if x = b then new else x
  | _ => max x (b % 2 ^ 31)

/-- A deque operation (09 R255): the new payload, the value returned and the status. -/
def dequeStep (op : Nat) (p : BitVec 512) (b : W64) : BitVec 512 × W64 × Nat :=
  let top : W32 := p.extractLsb' 0 32
  let bottom : W32 := p.extractLsb' 32 32
  let cap : W32 := p.extractLsb' 64 32
  let n := bottom - top
  let put (f : Nat) (x : W32) : BitVec 512 := setPayField p false f (x.zeroExtend 64)
  let r : W64 := bottom ++ top
  match op with
  | 11 => if n.toNat ≥ cap.toNat then (p, r, stDqfull) else (put 1 (bottom + 1), r, stOk)
  | 12 => if n = 0 then (p, r, stEmpty) else (put 1 (bottom - 1), r, stOk)
  | _ => if top ≠ b.truncate 32 then (p, r, stNomatch) else if n = 0 then (p, r, stEmpty) else (put 0 (top + 1), r, stOk)

/-- A rewrite of one lane (09 R253). -/
def rewriteStep (op : Nat) (w64 : Bool) (p : BitVec 512) (l : RingLane) : BitVec 512 × W64 × Nat :=
  if op ≥ 11 then dequeStep op p l.b
  else
    let w := if w64 then 64 else 32
    let x := payField p w64 l.field
    let b := l.b.toNat % 2 ^ w
    let y := rewriteValue op w x.toNat b (l.new.toNat % 2 ^ w)
    (setPayField p w64 l.field (BitVec.ofNat 64 y), x, if op = 9 ∧ x.toNat ≠ b then stNomatch else stOk)

/-- Rewrites of the lanes of an action, in ascending order (09 R258). -/
def rewriteLanes (op : Nat) (w64 : Bool) : BitVec 512 → List RingLane → BitVec 512 × List RingLane
  | p, [] => (p, [])
  | p, l :: ls =>
    let (p, v, st) := rewriteStep op w64 p l
    let (p, ls) := rewriteLanes op w64 p ls
    (p, { l with result := some (v, st) } :: ls)

/-- Every lane returns its field of a payload, with a status. -/
def captureLanes (w64 : Bool) (p : BitVec 512) (st : Nat) (ls : List RingLane) : List RingLane :=
  ls.map fun l => { l with result := some (payField p w64 l.field, st) }

/-- A board's initial payload (09 R254): the highest lane's value remains. -/
def boardPayload (w64 : Bool) (ls : List RingLane) : BitVec 512 := ls.foldl (fun p l => setPayField p w64 l.field l.b) 0

/-! ### The amax history (04 R118-R120) -/

/-- H0-H15 of a history. -/
def histCode (p : BitVec 512) (i : Nat) : Nat := (p.extractLsb' (8 * i) 8).toNat
/-- PEND of a history: field 4. -/
def histPend (p : BitVec 512) : W32 := p.extractLsb' 128 32
/-- cvtq's scale code from a history (04 R119). -/
def histScale (k : Nat) (p : BitVec 512) : Nat :=
  let e := (List.range 16).foldl (fun a i => max a (histCode p i)) 0
  if e = 0 then 127 else min (e - mxEmax k) 254
/-- Merging a magnitude into PEND. -/
def histMerge (p : BitVec 512) (a : W32) : BitVec 512 :=
  setPayField p false 4 (BitVec.ofNat 64 (max (histPend p).toNat a.toNat))
/-- amxcom's commit (04 R120). -/
def histCommit (p : BitVec 512) : BitVec 512 :=
  let head := ((p.extractLsb' 160 4).toNat + 1) % 16
  let mask (lo n : Nat) : BitVec 512 := BitVec.ofNat 512 ((2 ^ n - 1) * 2 ^ lo)
  let put (p : BitVec 512) (lo n x : Nat) : BitVec 512 := (p &&& ~~~(mask lo n)) ||| (BitVec.ofNat 512 (x * 2 ^ lo) &&& mask lo n)
  let p1 := put p 160 4 head
  let p2 := put p1 (8 * head) 8 (amaxCode (histPend p).toNat)
  let step : W32 := p.extractLsb' 192 32
  setPayField (setPayField p2 false 4 0) false 6 ((step + 1).zeroExtend 64)

/-! ### Results -/

/-- Changing a window of a group, in whichever slot it stands. -/
def Group.onWindow (g : Group) (id : Nat) (f : Window → Window) : Group :=
  let on (x : Fragment) : Fragment := { x with windows := x.windows.map fun w => if w.id = id then f w else w }
  { g with slotA := on g.slotA, slotB := on g.slotB }

/-- The instruction that opened a window. -/
def Group.windowPc (g : Group) (id : Nat) : W64 :=
  match (g.slotA.windows ++ g.slotB.windows).find? fun w => w.id == id with | some w => w.pc | none => 0

/-- Changing the window of a lane action. -/
def State.onWindow (s : State) (uid gid id : Nat) (f : Window → Window) : State :=
  s.onTeam uid fun t => { t with groups := t.groups.set gid ((t.groups.get {} gid).onWindow id f) }

/-- A change of a team whose scalar stream is put in focus for it. -/
def State.asScalar (s : State) (uid : Nat) (f : State → State) : State :=
  let c := s.cur
  let s := f (s.flush.focus { stream := .scalar, uid := uid })
  s.flush.focus c

/-- The mask of a list of lanes. -/
def maskOfLanes (ls : List Nat) : Mask := ls.foldl (fun m l => m ||| BitVec.twoPow 96 l) 0

/-- The registers, masks and values of a lane action's results (09 R249; 04 R119, R120). -/
def RingAct.writes (a : RingAct) : List (Nat × Mask × LaneVec) :=
  let vs := a.lanes.filterMap fun l => l.result.map fun r => (l.lane, r.1.toNat)
  let m := maskOfLanes (vs.map (·.1))
  if a.kind ≥ 5 then regsResult a.dest 1 m vs
  else
    let n := if cwW64 a.cw then 2 else 1
    regsResult a.dest n m vs ++ regsResult (a.dest + n) 1 m (a.lanes.filterMap fun l => l.result.map fun r => (l.lane, r.2))

/-- An action has performed: its results enter the window, or the scalar instruction completes (09 R259). -/
def State.ringResult (s : State) (a : RingAct) (flags : W32) : State :=
  let s := s.countCore (s.teamOf a.uid).core 0x06 1 a.vf
  match a.win with
  | some (gid, id) =>
    s.onWindow a.uid gid id fun w => { w with writes := w.writes ++ a.writes, flags := w.flags ||| flags, waiting := w.waiting - 1 }
  | none =>
    match a.lanes with
    | { result := some (v, st), .. } :: _ =>
      s.asScalar a.uid fun s => ((s.ws a.dest v).ws a.stReg (BitVec.ofNat 64 st)).retireScalar 12
    | _ => s

/-- The lowest lane of an action. -/
def RingAct.low (a : RingAct) : Nat := (a.lanes.map (·.lane)).foldl min 95

/-- n actions of an instruction are over, and one of them fails with a trap of its issuer (09 R257): of several the lowest lane's is
taken (06 R156) (DEDUCED, log 38). -/
def State.ringTrap (s : State) (a : RingAct) (n : Nat) (t : Trap) : State :=
  match a.win with
  | some (gid, id) => s.onWindow a.uid gid id fun w =>
      let w := { w with waiting := w.waiting - n }
      if w.fault.isSome && decide (w.faultLane ≤ a.low) then w else { w with fault := some (.trap t), after := 0, faultLane := a.low }
  | none => s.asScalar a.uid fun s => s.raiseScalar t 12

/-! ### Issue (09 R248-R251) -/

/-- Entering actions into the stop's queue of their strand. -/
def State.ringEnter (s : State) (core : Nat) (as : List RingAct) : State :=
  as.foldl (fun s a =>
    let a := { a with id := s.ringIssued, since := s.ringStep }
    ({ s with ringIssued := s.ringIssued + 1 }).onCore core fun c =>
      { c with stops := c.stops.set (strandOf a.key) (c.stops.get [] (strandOf a.key) ++ [a]) }) s

/-- The lanes that take part: enabled and no helper lanes (09 R261). -/
def State.ringLanes (s : State) (o : LOp) : List Nat := (lanesOf (s.enabled o)).filter fun l => !s.isHelper l

/-- The distinct keys of the lanes, in lane order (DEDUCED, log 38). -/
def State.ringKeys (s : State) (o : LOp) : List W32 := (((s.ringLanes o).map fun l => s.lane o.a.toNat l).reverse.dedup).reverse

/-- One lane of a lane ring instruction. -/
def State.ringLane (s : State) (o : LOp) (cas : Bool) (l : Nat) : RingLane :=
  let n := if cwW64 o.imm then 2 else 1
  { lane := l, field := cwField o.imm l, b := BitVec.ofNat 64 (s.regsVal o.b.toNat n l),
    new := BitVec.ofNat 64 (if cas then s.regsVal (o.b.toNat + n) n l else 0) }

/-- A lane ring instruction: one action per key. -/
def ringExec (i : Instr) (o : LOp) (kind op : Nat) (s : State) : Out :=
  longExec i o s fun s =>
    let keys := s.ringKeys o
    let t := s.team
    let v := s.vf t.vf
    -- quota (09 R248)
    if kind = 0 ∧ keys.length > v.quota - v.ringHeld then
      s.raise { cause := causeQuota, tval := (keys.getD (v.quota - v.ringHeld) 0).zeroExtend 64 } o.size
    else
      let s := if kind = 0 then s.onVf t.vf fun v => { v with ringHeld := v.ringHeld + keys.length } else s
      let as := keys.map fun k =>
        ({ kind := kind, id := 0, uid := s.cur.uid, vf := t.vf, ctx := t.ctx, win := some (s.cur.gid, s.grp.opened), pc := s.frag.pc,
           dest := o.d.toNat, key := k, cw := o.imm, op := op,
           lanes := ((s.ringLanes o).filter fun l => s.lane o.a.toNat l == k).map fun l => s.ringLane o (kind == 4 && op == 9) l } : RingAct)
      (s.ringEnter t.core as).openWindow o.la.toNat o.size keys.length [] 0

/-- board (09 R250, R256). -/
def execBoard (o : LOp) (s : State) : Out := ringExec (.board o) o 0 0 s
/-- alight (09 R254, R257). -/
def execAlight (o : LOp) (s : State) : Out := ringExec (.alight o) o 1 0 s
/-- wcap (09 R254). -/
def execWcap (o : LOp) (s : State) : Out := ringExec (.wcap o) o 2 0 s
/-- wcap.until (09 R254). -/
def execWcapUntil (o : LOp) (s : State) : Out := ringExec (.wcapUntil o) o 3 0 s
/-- wrew (09 R253). -/
def execWrew (o : LOp) (s : State) : Out := ringExec (.wrew o) o 4 o.f.toNat s

/-- A scalar ring instruction (09 R251): it waits until its action has performed. -/
def scalarRing (o : S96) (kind : Nat) (s : State) : Out :=
  if s.team.sphase ≠ 0 then .next s.wait
  else
    let t := s.team
    let cw : W32 := (o.e2 &&& 0xFFFF0000#32) ||| (o.e1 &&& 0xFFFF#32)
    let sc := s.rs (bits o.e2 13 7)
    let home := if kind = 0 ∧ bit o.e1 11 then some sc else none
    let v := s.vf t.vf
    let op := bits o.e1 31 28
    let key : W32 := (s.rs o.w.a.toNat).truncate 32
    match home with
    | some h =>
      if h.toNat % 64 ≠ 0 then .next (s.raiseScalar { cause := causeMisalign, tval := h } 12)
      else if bits h 63 53 ≠ 0 ∧ bits h 63 53 ≠ 2047 then .next (s.raiseScalar { cause := causePage, tval := h } 12)
      else if v.ringHeld + 1 > v.quota then .next (s.raiseScalar { cause := causeQuota, tval := key.zeroExtend 64 } 12)
      else .next (enter t cw key op home sc)
    | none =>
      if kind = 0 ∧ v.ringHeld + 1 > v.quota then .next (s.raiseScalar { cause := causeQuota, tval := key.zeroExtend 64 } 12)
      else .next (enter t cw key op home sc)
where
  enter (t : Team) (cw key : W32) (op : Nat) (home : Option W64) (sc : W64) : State :=
    let a : RingAct := { kind := kind, id := 0, uid := s.cur.uid, vf := t.vf, ctx := t.ctx, pc := t.spc, dest := o.w.d.toNat, stReg := bits o.e2 6 0,
                         key := key, cw := cw, op := op, home := home,
                         lanes := [{ lane := 0, field := cwField cw 0, b := s.rs o.w.b.toNat, new := sc }] }
    let s := if kind = 0 then s.onVf t.vf fun v => { v with ringHeld := v.ringHeld + 1 } else s
    let s := s.ringEnter t.core [a]
    ({ s with team := { s.team with sphase := 1 } }).wait

/-- sboard (09 R251). -/
def execSboard (o : S96) (s : State) : Out := scalarRing o 0 s
/-- salight (09 R251). -/
def execSalight (o : S96) (s : State) : Out := scalarRing o 1 s
/-- swcap and its until form (09 R251). -/
def execSwcap (o : S96) (s : State) : Out := scalarRing o (if bit o.e1 11 then 3 else 2) s
/-- swrew (09 R251). -/
def execSwrew (o : S96) (s : State) : Out := scalarRing o 4 s

/-- The amax of cvtq's enabled lanes that are no helper lanes, NaN ignored (04 R119): a magnitude as an f32 code. -/
def State.cvtqAmax (s : State) (o : LOp) : W32 :=
  let code (l : Nat) : Nat := let x := (s.lane o.a.toNat l).toNat; if bit o.f 2 then x % 2 ^ 15 * 2 ^ 16 else x % 2 ^ 31
  BitVec.ofNat 32 ((s.ringLanes o).foldl (fun a l => let x := code l; if x > 0x7F800000 then a else max a x) 0)

/-- cvtq and amxcom: one ring action for the instruction (04 R119-R121). -/
def historyExec (i : Instr) (o : LOp) (kind : Nat) (key : W32) (fs : List PoisonField) (amax : W32) (s : State) : Out :=
  longExec i o s fun s =>
    match s.poisonCheck (s.enabled o) fs with
    | some t => s.stopLong o.la.toNat o.size [] (.trap t)
    | none =>
      if s.ringLanes o = [] then s.openWindow o.la.toNat o.size 0 [] 0
      else
        let t := s.team
        let a : RingAct := { kind := kind, id := 0, uid := s.cur.uid, vf := t.vf, ctx := t.ctx, win := some (s.cur.gid, s.grp.opened), pc := s.frag.pc,
                             dest := o.d.toNat, key := key, op := o.f.toNat, amax := amax,
                             lanes := (lanesOf (s.enabled o)).map fun l => { lane := l, b := (s.lane o.a.toNat l).zeroExtend 64 } }
        (s.ringEnter t.core [a]).openWindow o.la.toNat o.size 1 [] 0

/-- cvtq (04 R119): the key is the s register that B names. -/
def execCvtq (o : LOp) (s : State) : Out :=
  historyExec (.cvtq o) o 5 ((s.rs o.b.toNat).truncate 32) [{ reg := o.a.toNat, count := 1 }] (s.cvtqAmax o) s
/-- amxcom (04 R120). -/
def execAmxcom (o : LOp) (s : State) : Out := historyExec (.amxcom o) o 6 ((s.rs o.b.toNat).truncate 32) [] 0 s

/-! ### A passage (09 R253-R258) -/

/-- cvtq's and amxcom's results from the payload captured, none for an absent key; the flags. -/
def historyResults (a : RingAct) (p : Option (BitVec 512)) : List RingLane × W32 :=
  if a.kind = 5 then
    let f : BitVec 4 := BitVec.ofNat 4 a.op
    let k := bits f 1 0
    let sc := match p with | some p => histScale k p | none => 127
    let rs := a.lanes.map fun l =>
      let (q, fl) := cvtqElement k sc (bit f 3) (bit f 2) (if bit f 2 then l.b.toNat % 2 ^ 16 else l.b.toNat)
      ({ l with result := some (BitVec.ofNat 64 (sc * 2 ^ 8 + q), stOk) }, fl)
    (rs.map (·.1), rs.foldl (fun x r => x ||| r.2) (flagIf p.isNone flagAB))
  else
    let v := match p with | some p => amaxCode (histPend p).toNat | none => 0
    (a.lanes.map fun l => { l with result := some (BitVec.ofNat 64 v, stOk) }, flagIf p.isNone flagAB)

/-- A slot of the VF becomes empty (09 R248): HELD falls. -/
def State.emptySlot (s : State) (strand i : Nat) : State :=
  let x := s.slot strand i
  (s.setSlot strand i {}).onVf x.vf fun v => { v with ringHeld := v.ringHeld - 1 }
/-- A reservation is returned. -/
def State.unreserve (s : State) (vf : Nat) : State := s.onVf vf fun v => { v with ringHeld := v.ringHeld - 1 }

/-- The home address of a slot (09 R257). -/
def homeAddr (h : W64) : W64 := (h.truncate 54 : BitVec 54).signExtend 64

/-- The home write of an alighting slot (09 R257). -/
def State.homeStore (s : State) (a : RingAct) (i : Nat) (x : RingSlot) : State × RingAct :=
  let addr := homeAddr (x.home.getD 0)
  match s.storeVa a.vf a.ctx { kind := 7, write := true } addr 64 x.payload.toNat with
  | .ok s => (s, { a with phase := .home i true, park := [] })
  | .error (.trap t) => (s, { a with phase := .homeFail i { t with tval := addr }, park := [] })
  | .error (.ue loc) => (s.stopContext a.vf a.ctx causeUe loc, { a with phase := .home i true, park := [] })
  | .error (.page p) =>
    let (s, q) := s.postFault a.vf a.ctx (s.teamOf a.uid).core a.pc p
    (s, { a with phase := .home i false, park := [q] })

/-- What one action does as a slot passes: none when it has performed or failed and leaves the queue (DEDUCED, log 38). -/
def State.ringVisit (s : State) (pos strand i : Nat) (a : RingAct) : State × Option RingAct :=
  let x := s.slot strand i
  let now := s.ringStep
  let w64 := cwW64 a.cw
  let mine := x.st != 0 && x.key == a.key && x.vf == a.vf
  let finish (s : State) (ls : List RingLane) (fl : W32) : State × Option RingAct := (s.ringResult { a with lanes := ls } fl, none)
  -- step 1 of R256
  let watch (s : State) : State × Option RingAct :=
    if mine && x.st == 2 then finish (s.unreserve a.vf) (captureLanes w64 x.payload stPresent a.lanes) 0
    else if mine && x.st == 3 then (s, some { a with phase := .alightWait i })
    else if x.st == 0 then
      let y : RingSlot := { key := a.key, st := 1, vf := a.vf, bpos := pos, home := a.home, payload := boardPayload w64 a.lanes, claim := a.id }
      (s.setSlot strand i y, some { a with phase := .claimed i })
    else (s, some { a with phase := .watch })
  match a.phase with
  | .home k stored =>
    if k ≠ i then (s, some a)
    else if stored then finish (s.emptySlot strand i) a.lanes 0
    else if !a.park.isEmpty then (s, some a)
    else let (s, a) := s.homeStore a i x; (s, some a)
  | .homeFail k t => if k ≠ i then (s, some a) else ((s.setSlot strand i { x with st := 2 }).ringTrap a 1 t, none)
  | .claimed k =>
    if k = i then finish (s.setSlot strand i { x with st := 2 }) (captureLanes w64 x.payload stOk a.lanes) 0
    else if mine && x.st == 2 then
      finish ((s.setSlot strand k { s.slot strand k with lost := true }).unreserve a.vf) (captureLanes w64 x.payload stPresent a.lanes) 0
    else if mine && x.st == 1 && (decide (x.bpos < pos) || (x.bpos == pos && decide (x.claim < a.id))) then
      (s.setSlot strand k { s.slot strand k with lost := true }, some { a with phase := .lost, since := now })
    else (s, some a)
  | .lost => if mine && x.st == 2 then finish (s.unreserve a.vf) (captureLanes w64 x.payload stPresent a.lanes) 0 else (s, some a)
  | .alightWait k =>
    if k ≠ i then (s, some a)
    else if mine && x.st == 3 then (s, some a)
    else if mine && x.st == 2 then finish (s.unreserve a.vf) (captureLanes w64 x.payload stPresent a.lanes) 0
    else match watch s with | (s, some b) => (s, some { b with since := now }) | r => r
  | .watch =>
    if a.kind = 0 then watch s
    else if mine && x.st == 3 then (s, some { a with since := now })
    else if !(mine && x.st == 2) then (s, some a)
    else
      match a.kind with
      | 1 =>
        let ls := captureLanes w64 x.payload stOk a.lanes
        if cwMode a.cw && x.home.isSome then
          let (s, b) := (s.setSlot strand i { x with st := 3 }).homeStore { a with lanes := ls } i x
          (s, some b)
        else finish (s.emptySlot strand i) ls 0
      | 2 => finish s (captureLanes w64 x.payload stOk a.lanes) 0
      | 3 =>
        let ls := a.lanes.map fun l =>
          match l.result with
          | some _ => l
          | none =>
            let v := payField x.payload w64 l.field
            if l.passes ≥ cwBudget a.cw ∧ cwBudget a.cw ≠ 0 then l
            else if untilHolds (cwCond a.cw) (v.truncate 32) (l.b.truncate 32) then { l with result := some (v, stOk) }
            else { l with passes := l.passes + 1, last := v }
        if ls.all fun l => l.result.isSome then finish s ls 0 else (s, some { a with lanes := ls, since := now })
      | 4 =>
        let (p, ls) := rewriteLanes a.op w64 x.payload a.lanes
        finish (s.setSlot strand i { x with payload := p }) ls 0
      | 5 =>
        let (ls, fl) := historyResults a (some x.payload)
        finish (s.setSlot strand i { x with payload := histMerge x.payload a.amax }) ls fl
      | _ =>
        let (ls, fl) := historyResults a (some x.payload)
        finish (s.setSlot strand i { x with payload := histCommit x.payload }) ls fl

/-- No earlier ring instruction of the same group or stream has lanes still to perform (09 R258). One with ANY is exempt, but
for a release, which comes after every earlier action (10 R268) (DEDUCED, log 38). -/
def State.ringInOrder (s : State) (core : Nat) (a : RingAct) : Bool :=
  (s.core core).stops.all fun q => q.2.all fun b =>
    (cwAny a.cw && !cwRel a.cw)
    || decide (b.id ≥ a.id) || b.uid != a.uid || b.win.map (·.1) != a.win.map (·.1) || b.win == a.win

/-- An action that a stop must let complete: a pending claim, or a home write in flight that is not parked. -/
def RingAct.mustFinish (a : RingAct) : Bool :=
  match a.phase with
  | .claimed _ => true
  | .home _ stored => stored || a.park.isEmpty
  | .homeFail .. => true
  | _ => false

/-- The stop lets the action act: a core under quarantine is bypassed (09 R243), but for what a pre-emption completes (R260)
(DEDUCED, log 38). -/
def State.ringActive (s : State) (core : Nat) (a : RingAct) : Bool := a.entered && (!(s.core core).quarantined || a.mustFinish)

/-- An action that waits under the in-order rule, as slot x passes: the revolution after which it has met no slot of its key
begins with its release; a board's begins as it enters the queue, and again with each slot that it could have used (09
R256) (DEDUCED, log 38). -/
def RingAct.held (a : RingAct) (x : RingSlot) (now : Nat) : RingAct :=
  let key := x.st != 0 && x.key == a.key && x.vf == a.vf
  if a.kind = 0 ∧ !(x.st == 0 || (key && x.st != 1)) then a else { a with since := now }

/-- Actions enter the queue as there is room: 32 entries (09 R259) (DEDUCED, log 38). -/
def State.ringAdmit (s : State) : State :=
  { s with cores := s.cores.map fun (p : Nat × Core) => (p.1, if p.2.quarantined then p.2 else { p.2 with stops := p.2.stops.map fun (q : Nat × List RingAct) =>
      (q.1, q.2.zipIdx.map fun a => if a.2 < 32 ∧ !a.1.entered then { a.1 with entered := true, since := s.ringStep } else a.1) }) }

/-- Slots whose losing claim or abandoned home write passes its stop (09 R256, R260). -/
def State.ringSettle (s : State) : State :=
  { s with slots := s.slots.filterMap fun (p : Nat × RingSlot) =>
      let here (pos : Nat) : Bool := slotAt pos s.ringStep == p.1 % 1024
      if p.2.lost && here p.2.bpos then none
      else match p.2.revert with
        | some q => if here q then some (p.1, { p.2 with st := 2, revert := none }) else some p
        | none => some p }

/-- The action's visit of the present step is still to come. -/
def State.ringWaits (s : State) (a : RingAct) : Bool := s.ringLeft.any fun v => v.2.2 == a.id

/-- An action has watched for one revolution (09 R252, R256). -/
def State.ringExpired (s : State) (core : Nat) (a : RingAct) : Bool :=
  s.ringActive core a && !s.ringWaits a && (a.phase == .watch || a.phase == .lost) && decide (s.ringStep ≥ a.since + 1024) && s.ringInOrder core a
/-- A lane of a wcap.until has used its budget. -/
def State.ringTimedOut (s : State) (core : Nat) (a : RingAct) : Bool :=
  s.ringActive core a && a.kind == 3 && cwBudget a.cw != 0 && a.lanes.any fun l => l.result.isNone && decide (l.passes ≥ cwBudget a.cw)

/-- Every action of every stop, with its core and strand. -/
def State.ringActs (s : State) : List (Nat × Nat × RingAct) :=
  s.cores.flatMap fun c => c.2.stops.flatMap fun q => q.2.map fun a => (c.1, q.1, a)

/-- Replacing an action in its queue, or taking it out. -/
def State.ringPut (s : State) (core strand id : Nat) (b : Option RingAct) : State :=
  s.onCore core fun c => { c with stops := c.stops.put [] strand ((c.stops.get [] strand).filterMap fun x => if x.id = id then b else some x) }

/-- An action as the slot of the present step passes its stop (DEDUCED, log 38). -/
def State.ringAct (s : State) (core strand : Nat) (a : RingAct) : State :=
  let i := slotAt (stopPos core) s.ringStep
  if !s.ringActive core a then s
  else if !s.ringInOrder core a && a.phase == .watch then s.ringPut core strand a.id (some (a.held (s.slot strand i) s.ringStep))
  else let (s, b) := s.ringVisit (stopPos core) strand i a; s.ringPut core strand a.id b

/-- A watch of the machine has ended, or a lane has used its budget: what follows in the order of R258 comes after it (DEDUCED, log 38). -/
def State.ringDue (s : State) : Bool := s.ringActs.any fun a => s.ringExpired a.1 a.2.2 || s.ringTimedOut a.1 a.2.2

/-- The visits of a ring step, in the order of R258: strand, core and action. Where a watch ends with the passage, or a budget, the
visits that follow wait for RING_WATCH_EXPIRY or WCAP_UNTIL_TIMEOUT, which act at the same passage (09 R254, R256, R258) (DEDUCED, log 38). -/
def State.ringVisits (s : State) : List (Nat × Nat × Nat) → State
  | [] => { s with ringLeft := [] }
  | (st, core, id) :: vs =>
    let s := { s with ringLeft := vs }
    match ((s.core core).stops.get [] st).find? fun a => a.id == id with
    | none => State.ringVisits s vs
    | some a => let s := s.ringAct core st a; if s.ringDue then s else State.ringVisits s vs

/-- The step goes on, once nothing stands before its next visit (DEDUCED, log 38). -/
def State.ringGoOn (s : State) : State := if s.ringDue then s else s.ringVisits s.ringLeft

/-- Every visit of a step: the queued actions of every stop. -/
def State.ringOrder (s : State) : List (Nat × Nat × Nat) :=
  (List.range 8).flatMap fun st => s.cores.flatMap fun c => (c.2.stops.get [] st).map fun a => (st, c.1, a.id)

/-- RING_SLOT_PASSAGE (09 R258): one ring step. All slots advance; at each stop, in the order of strand and position,
the queued actions that match perform. What is left of a step comes first, and so do watches that have ended, time-outs and the
seam's count. -/
def execRingSlotPassage (s : State) : Out :=
  if s.ringStep / 1024 % 2 ^ 32 ≠ s.ringRev.toNat ∨ s.ringDue then .next s
  else if s.ringLeft ≠ [] then .next s.ringGoOn
  else
    let s := s.ringAdmit
    let s := ({ s with ringStep := s.ringStep + 1 }).ringSettle
    .next (s.ringVisits s.ringOrder)

/-- The end of an action's watch: ABSENT, FULL, or a lost board's fresh start (09 R252, R256). -/
def State.ringExpire (s : State) (core strand : Nat) (a : RingAct) : State :=
  let s' := s.ringPut core strand a.id none
  let all (st : Nat) : List RingLane := a.lanes.map fun l => match l.result with | some _ => l | none => { l with result := some (0, st) }
  if a.kind = 0 then
    if a.phase == .lost then s.ringPut core strand a.id (some { a with phase := .watch, since := s.ringStep })
    else (s'.unreserve a.vf).ringResult { a with lanes := all stFull } 0
  else if a.kind ≥ 5 then let (ls, fl) := historyResults a none; s'.ringResult { a with lanes := ls } fl
  else s'.ringResult { a with lanes := all stAbsent } 0

/-- RING_WATCH_EXPIRY (09 R256). The step's visits go on. -/
def execRingWatchExpiry (s : State) : Out :=
  .next ((s.ringActs.filter fun a => s.ringExpired a.1 a.2.2).foldl (fun s a => s.ringExpire a.1 a.2.1 a.2.2) s).ringGoOn

/-- Lanes that have used their budget perform with the field at their last passage. -/
def State.ringTimeOut (s : State) (core strand : Nat) (b : RingAct) : State :=
  let ls := b.lanes.map fun l => if l.result.isNone ∧ l.passes ≥ cwBudget b.cw then { l with result := some (l.last, stTimeout) } else l
  if ls.all fun l => l.result.isSome then (s.ringPut core strand b.id none).ringResult { b with lanes := ls } 0
  else s.ringPut core strand b.id (some { b with lanes := ls })

/-- WCAP_UNTIL_TIMEOUT (09 R254). The step's visits go on. -/
def execWcapUntilTimeout (s : State) : Out :=
  .next ((s.ringActs.filter fun a => s.ringTimedOut a.1 a.2.2).foldl (fun s a => s.ringTimeOut a.1 a.2.1 a.2.2) s).ringGoOn

/-- SEAM_REVOLUTION (09 R247): REV counts a completed revolution. -/
def execSeamRevolution (s : State) : Out :=
  if s.ringStep / 1024 % 2 ^ 32 ≠ s.ringRev.toNat then .next { s with ringRev := s.ringRev + 1 } else .next s

/-! ### Pre-emption (09 R260) -/

/-- Cancelled actions stand in program order (09 R258). -/
def insertAct (a : RingAct) : List RingAct → List RingAct
  | [] => [a]
  | b :: bs => if a.id < b.id then a :: b :: bs else b :: insertAct a bs

/-- Cancelling a team's actions that need not complete; the lanes that have not performed will issue again. A parked home
write is abandoned: the slot is landed again at its next passage (DEDUCED, log 27). -/
def State.cancelRing (s : State) (uid : Nat) : State :=
  (s.ringActs.filter fun a => a.2.2.uid == uid && !a.2.2.mustFinish).foldl (fun s a =>
    let b := a.2.2
    let s := s.ringPut a.1 a.2.1 b.id none
    let s := if b.kind = 0 then s.unreserve b.vf else s
    let s := match b.phase with
      | .home k _ => s.setSlot a.2.1 k { s.slot a.2.1 k with revert := some (stopPos a.1) }
      | _ => s
    let fresh : RingAct :=
      { b with phase := .watch, entered := false, park := [],
               lanes := b.lanes.map fun l => { l with passes := 0, result := if b.kind = 3 then l.result else none } }
    s.onTeam uid fun t => { t with ringHeld := insertAct fresh t.ringHeld }) s

/-- Actions of one instruction issue again: a board reserves its units anew, all of them or none (09 R248) (DEDUCED, log 38). -/
def State.reissue (s : State) (core : Nat) (as : List RingAct) : State :=
  match as with
  | [] => s
  | a :: _ =>
    let v := s.vf a.vf
    if a.kind ≠ 0 then s.ringEnter core as
    else if v.ringHeld + as.length > v.quota then
      let b := as.getD (v.quota - v.ringHeld) a
      s.ringTrap b as.length { cause := causeQuota, tval := b.key.zeroExtend 64 }
    else (s.onVf a.vf fun v => { v with ringHeld := v.ringHeld + as.length }).ringEnter core as

/-- Issuing the cancelled actions again, in program order, on the core where the team resumes. -/
def State.resumeRing (s : State) (uid : Nat) : State :=
  let t := s.teamOf uid
  let s := s.onTeam uid fun t => { t with ringHeld := [] }
  (t.ringHeld.splitBy fun a b => a.kind == b.kind && a.win == b.win).foldl (fun s as => s.reissue t.core as) s

end Sys2Proof.Machine
end

