-- ==== Sys2Proof/Machine/Engines.lean ====
section
/-! DEFINITION. Fences, copies, drains, publishing and collectives (10 R262-R290). Accesses perform at issue (DEDUCED, log 6), so a
fence waits for nothing that the closing of the windows has not already waited for. -/

namespace Sys2Proof.Machine
open Sys2Proof

/-! ### Fences -/

/-- fence (10 R274) (DEDUCED, log 6). -/
def execFence (o : LOp) (s : State) : Out := laneExec (.fence o) o s fun s => s.retire 8
/-- sfence (10 R275). -/
def execSfence (w : S32) (s : State) : Out :=
  let _ := w
  .next (s.retireScalar 4)

/-! ### Copies: fields and places (10 R278) -/

/-- Changing a team that is live. -/
def State.onLive (s : State) (uid : Nat) (f : Team → Team) : State := if (s.teamOf uid).live then s.onTeam uid f else s

/-- Changing the saved teams of every context of a VF. -/
def State.mapSaved (s : State) (vf : Nat) (f : Nat → Nat → Team → Team) : State :=
  s.onVf vf fun v => { v with ctxs := v.ctxs.map fun (p : Nat × Context) =>
    (p.1, { p.2 with saved := p.2.saved.map fun (q : Nat × Team) => (q.1, f p.1 q.1 q.2) }) }

/-- A team by name, resident or saved, takes an engine's failure (DEDUCED, log 33). -/
def State.failTeam (s : State) (vf uid : Nat) (e : Trap) : State :=
  (s.onLive uid fun t => t.engineFails e).mapSaved vf fun _ u t => if u = uid then t.engineFails e else t

def copySk (e1 : W32) : Nat := bits e1 31 30
def copyDk (e1 : W32) : Nat := bits e1 29 28
def CopyOp.crdv (c : CopyOp) : Nat := bits c.e1 27 23
def copyRows (e2 : W32) : Nat := bits e2 31 20 + 1
def copyRowb (e2 : W32) : Nat := bits e2 19 0 + 1
def copyPitch (e1 e2 : W32) : Nat := if bits e1 11 0 = 0 then copyRowb e2 else 16 * bits e1 11 0
def CopyOp.words (c : CopyOp) : Nat := copyRows c.e2 * copyRowb c.e2 / 4
/-- Words in a unit that is written as one: a word, or an MX block. -/
def CopyOp.unitWords (c : CopyOp) : Nat := match c.f with | 1 => 8 | 2 => 4 | _ => 1
def CopyOp.units (c : CopyOp) : Nat := c.words / c.unitWords
/-- The byte offset of word k from a side's base (10 R279). -/
def CopyOp.at (c : CopyOp) (k : Nat) : Nat := 4 * k / copyRowb c.e2 * copyPitch c.e1 c.e2 + 4 * k % copyRowb c.e2

/-- Teams of one span (10 R278; 01 R30). -/
def sameSpan (t u : Team) : Bool :=
  u.live && u.launch == t.launch && (if t.span = 0 then u.index == t.index else u.index / t.span == t.index / t.span)

/-- The rows of an extent, checked in the own window (10 R279). -/
def rowsFault (t : Team) (v : W64) (rows rowb pitch : Nat) (write : Bool) : Option Trap :=
  (List.range rows).findSome? fun r => extentFault t (v + BitVec.ofNat 64 (r * pitch)) rowb write

/-- The team and offset that a peer or flat value names, its rows (and scales, from scale on) inside the program area
(10 R278, R279; 07 R172). -/
def State.spanPlace (s : State) (kind : Nat) (v : W64) (rows rowb pitch : Nat) (scale : Option (W64 × Nat)) : Except Trap (Nat × Nat) :=
  let bad : Trap := { cause := causeSpad, tval := 0x8000000000000000#64 ||| (v &&& 0xFFFFFFFFFF#64) }
  let inside (t : Team) (off : Nat) : Bool :=
    decide (384 ≤ off ∧ off + (rows - 1) * pitch + rowb ≤ spillBase t)
    && (match scale with
        | some (d, n) => let a := (BitVec.ofNat 64 off + d).toNat; decide (384 ≤ a ∧ a + n ≤ spillBase t)
        | none => true)
  let core := 192 * bits v 39 38 + 24 * bits v 37 35 + bits v 34 30
  let find : Option (Nat × Nat) :=
    s.flush.teams.findSome? fun (p : Nat × Team) =>
      if !sameSpan s.team p.2 then none
      else if kind = 2 then
        if bits v 39 20 = 0 ∧ bits v 63 40 = p.2.index ∧ inside p.2 (bits v 19 0) then some (p.1, bits v 19 0) else none
      else
        let off := bits v 19 0
        if bits v 63 40 = 0 ∧ bits v 29 20 = 0 ∧ bits v 34 30 < 24 ∧ p.2.core = core ∧ p.2.winBase ≤ off ∧ inside p.2 (off - p.2.winBase)
        then some (p.1, off - p.2.winBase) else none
  match find with | some p => .ok p | none => .error bad

/-- One side of a copy, checked: the team and offset of a window, none for a global address. -/
def State.copySide (s : State) (kind : Nat) (v : W64) (rows rowb pitch : Nat) (scale : Option (W64 × Nat)) (write : Bool) :
    Except Trap (Option (Nat × Nat)) :=
  match kind with
  | 0 =>
    match firstTrap [rowsFault s.team v rows rowb pitch write, match scale with | some (d, n) => extentFault s.team (v + d) n write | none => none] with
    | some t => .error t
    | none => .ok (some (s.cur.uid, v.toNat))
  | 1 => if canonical v then .ok none else .error { cause := causePage, tval := v }
  | _ => match s.spanPlace kind v rows rowb pitch scale with | .ok p => .ok (some p) | .error t => .error t

/-- The checks of xcopy at issue, in the order of R279: windows first, then peers and flat addresses, then global ones. -/
def State.copyFault (s : State) (o : S96) : Except Trap (Option (Nat × Nat) × Option (Nat × Nat)) :=
  let src := s.rs o.w.a.toNat
  let dst := s.rs o.w.b.toNat
  let sk := copySk o.e1
  let dk := copyDk o.e1
  let rows := copyRows o.e2
  let rowb := copyRowb o.e2
  let pitch := copyPitch o.e1 o.e2
  let scale := if o.w.f = 0 then none else some (s.rs o.w.d.toNat, rows * rowb / (if o.w.f = 1 then 32 else 16))
  let a := s.copySide sk src rows rowb pitch scale false
  let b := s.copySide dk dst rows rowb pitch scale true
  let trapOf (x : Except Trap (Option (Nat × Nat))) : Option Trap := match x with | .error t => some t | .ok _ => none
  let misalign (v : W64) : Option Trap := if bits v 1 0 = 0 then none else some { cause := causeMisalign, tval := v }
  let ofClass (p : Nat → Bool) : List (Option Trap) := [if p sk then trapOf a else none, if p dk then trapOf b else none]
  match firstTrap ([pointBeyond s.team [bits o.e1 27 23], misalign src, misalign dst]
      ++ ofClass (· == 0) ++ ofClass (decide <| · ≥ 2) ++ ofClass (· == 1)), a, b with
  | some t, _, _ => .error t
  | none, .ok x, .ok y => .ok (x, y)
  | none, .error t, _ => .error t
  | none, _, .error t => .error t

/-- The publish set an engine command writes, and its shadow as the command issues (10 R285). -/
def State.pubOf (s : State) (vf : Nat) (pe : Bool) (set : Nat) : Option (Nat × Bool) :=
  if pe then some (set, !((s.vf vf).pubs.get {} set).cur) else none
/-- The set's INFLIGHT is at its limit: the command waits at issue (14 R383). -/
def State.pubFull (s : State) (vf : Nat) (p : Option (Nat × Bool)) : Bool :=
  match p with | some (k, _) => decide (((s.vf vf).pubs.get {} k).inflight ≥ 65535) | none => false
/-- xcopy (10 R278-R281) (DEDUCED, log 39). -/
def execXcopy (o : S96) (s : State) : Out :=
  match s.copyFault o with
  | .error t => .next (s.raiseScalar t 12)
  | .ok (st, dt) =>
    let t := s.team
    let pub := s.pubOf t.vf (bit o.e1 22) (bits o.e1 21 12)
    match (List.range 8).find? fun n => ((s.core t.core).copies.lookup n).isNone with
    | none => .next s.wait
    | some n =>
      if s.pubFull t.vf pub then .next s.wait
      else
        let c : CopyOp :=
          { order := s.engineIssued, uid := s.cur.uid, vf := t.vf, ctx := t.ctx, e1 := o.e1, e2 := o.e2, f := o.w.f.toNat,
            src := s.rs o.w.a.toNat, dst := s.rs o.w.b.toNat, scd := if o.w.f = 0 then 0 else s.rs o.w.d.toNat,
            srcTeam := st, dstTeam := dt, pub := pub }
        let s := { (s.pubCount t.vf pub true) with engineIssued := s.engineIssued + 1 }
        .next ((s.onCore t.core fun k => { k with copies := k.copies.set n c }).retireScalar 12)

/-! ### Copy words (10 R280, R281) -/

/-- Reading n bytes at offset at of the source. -/
def State.copyRead (s : State) (c : CopyOp) (at_ : W64) (n : Nat) : Except Stop (State × Nat) :=
  match c.srcTeam with
  | some (u, off) => .ok (s, winRead (s.teamOf u) (BitVec.ofNat 64 off + at_).toNat n)
  | none => s.loadVa c.vf c.ctx { kind := 5 } (c.src + at_) n

/-- Where n bytes of the destination go, checked: in a window, or translated. -/
def State.copySink (s : State) (c : CopyOp) (at_ : W64) (n : Nat) : Except Stop (Nat ⊕ List (Loc × Nat)) :=
  match c.dstTeam with
  | some (_, off) => .ok (.inl (BitVec.ofNat 64 off + at_).toNat)
  | none =>
    match (match c.pub with
        | some (set, back) => s.pubRange c.vf set back (c.dst + at_) n
        | none => s.xlateRange c.vf c.ctx { kind := 5, write := true } (c.dst + at_) n) with
    | .ok ps => .ok (.inr ps)
    | .error e => .error e

/-- Writing them. -/
def State.copyWrite (s : State) (c : CopyOp) (place : Nat ⊕ List (Loc × Nat)) (n x : Nat) : State :=
  match place, c.dstTeam with
  | .inl a, some (u, _) => s.onLive u fun t => ({ t with win := writeBytes t.win a n x }).raceClear a n
  | .inl _, none => s
  | .inr ps, _ => s.storeParts ps x

/-- The source word that destination word k lies over, where the extents overlap in one window or one address space. -/
def CopyOp.over (c : CopyOp) (k : Nat) : Option Nat :=
  let delta : Option Nat :=
    match c.srcTeam, c.dstTeam with
    | some (u, a), some (v, b) => if u = v ∧ a ≤ b + c.at k then some (b + c.at k - a) else none
    | none, none => if c.pub = none ∧ c.src.toNat ≤ c.dst.toNat + c.at k then some (c.dst.toNat + c.at k - c.src.toNat) else none
    | _, _ => none
  match delta with
  | none => none
  | some d =>
    let p := copyPitch c.e1 c.e2
    if d / p < copyRows c.e2 ∧ d % p < copyRowb c.e2 ∧ d % 4 = 0 then some ((d / p * copyRowb c.e2 + d % p) / 4) else none

/-- The value of source word k: kept, or read (DESIGN CHOICE, log 15). -/
def State.copyWord (s : State) (c : CopyOp) (k : Nat) : Except Stop (State × Nat) :=
  match c.held.lookup k with | some x => .ok (s, x) | none => s.copyRead c (BitVec.ofNat 64 (c.at k)) 4

/-- Keeping the source words that writing the words ks would overwrite, where their own destinations are not written yet (DESIGN CHOICE, log 15). -/
def State.copyHold (s : State) (c : CopyOp) : List Nat → CopyOp
  | [] => c
  | k :: ks =>
    let c := State.copyHold s c ks
    match c.over k with
    | none => c
    | some j =>
      if c.written.contains (j / c.unitWords) then c
      else match s.copyWord c j with | .ok (_, x) => { c with held := c.held.set j x } | .error _ => c

/-- The values that the destination words ks receive; a word where the extents overlap holds an unspecified source value
(10 R280, DESIGN CHOICE, log 15). -/
def State.copyValues (s : State) (c : CopyOp) : List Nat → Except Stop (State × Nat)
  | [] => .ok (s, 0)
  | k :: ks =>
    let (s, j) := if (c.over k).isSome then let (s, x) := s.free 15; (s, x.toNat % c.words) else (s, k)
    match s.copyWord c j with
    | .error e => .error e
    | .ok (s, x) =>
      match State.copyValues s c ks with
      | .error e => .error e
      | .ok (s, y) => .ok (s, x + 2 ^ 32 * y)

/-- One unit of a copy: a word, or in MX mode a block with its scale, read together and written together (DEDUCED, log 39). -/
def State.copyUnit (s : State) (c : CopyOp) (u : Nat) : Except Stop (State × CopyOp) :=
  let ks := List.range' (u * c.unitWords) c.unitWords
  let at_ : W64 := BitVec.ofNat 64 (c.at (u * c.unitWords))
  let n := 4 * c.unitWords
  let c' := s.copyHold c ks
  match s.copyValues c' ks, s.copySink c at_ n with
  | .error e, _ => .error e
  | _, .error e => .error e
  | .ok (s, x), .ok place =>
    let c'' := { c' with written := c'.written ++ [u] }
    if c.f = 0 then .ok (s.copyWrite c place n x, c'')
    else
      let sc : W64 := c.scd + BitVec.ofNat 64 u
      match s.copyRead c sc 1, s.copySink c sc 1 with
      | .error e, _ => .error e
      | _, .error e => .error e
      | .ok (s, y), .ok splace => .ok ((s.copyWrite c place n x).copyWrite c splace 1 y, c'')

/-- The core's copy entry. -/
def State.setCopy (s : State) (core entry : Nat) (c : CopyOp) : State := s.onCore core fun k => { k with copies := k.copies.set entry c }

/-- COPY_WORD_WRITE (10 R280): an entry's word (block in MX mode) is read once and written once (DEDUCED, log 6) (DESIGN CHOICE, log 15). -/
def execCopyWordWrite (core entry word : Nat) (s : State) : Out :=
  match (s.core core).copies.lookup entry with
  | none => .next s
  | some c =>
    if c.failed ∨ c.park ≠ [] ∨ word ≥ c.units ∨ c.written.contains word then .next s
    else
      match s.copyUnit c word with
      | .ok (s, c) => .next (s.setCopy core entry c)
      | .error (.page p) =>
        let (s, q) := s.postFault c.vf c.ctx core 0 p
        .next (s.setCopy core entry { c with park := [q] })
      | .error (.trap t) => .next ((s.setCopy core entry { c with failed := true }).onLive c.uid fun x => x.engineFails t)
      | .error (.ue loc) => .next (s.stopContext c.vf c.ctx causeUe loc)

/-- Every word of a copy is written, or it has failed. -/
def CopyOp.complete (c : CopyOp) : Bool := c.failed || (List.range c.units).all fun u => c.written.contains u

/-- The team that owns a copy's completion point (10 R282). -/
def CopyOp.owner (c : CopyOp) : Nat :=
  if copyDk c.e1 ≥ 2 then (match c.dstTeam with | some (u, _) => u | none => c.uid) else c.uid

/-- COPY_COMPLETE (10 R280, R282, R284): the entry is freed and the completion point receives one unit. -/
def execCopyComplete (core entry : Nat) (s : State) : Out :=
  match (s.core core).copies.lookup entry with
  | none => .next s
  | some c =>
    if !c.complete then .next s
    else
      let s := s.onCore core fun k => { k with copies := k.copies.erase entry }
      .next ((s.pubCount c.vf c.pub false).onLive c.owner fun t => t.signal c.crdv)

/-! ### Drains (10 R283) -/

/-- The commands of a core that an access path of xdrain waits for: kind, issuer and number. -/
def State.outstanding (s : State) (core path : Nat) : List (Nat × Nat × Nat) :=
  let teams := s.flush.teams.filter fun (p : Nat × Team) => p.2.live && p.2.core == core
  let copies (glob : Bool) : List (Nat × Nat × Nat) :=
    ((s.core core).copies.filter fun (p : Nat × CopyOp) => p.2.dstTeam.isNone == glob).map fun (p : Nat × CopyOp) => (0, 0, p.2.order)
  let maccs (ks : List Nat) : List (Nat × Nat × Nat) :=
    teams.flatMap fun (p : Nat × Team) => (p.2.maccOps.filter fun m => ks.contains m.kind).map fun m => (1, p.1, m.order)
  match path with
  | 0 => copies false ++ maccs [1, 2]
  | 1 => (teams.flatMap fun (p : Nat × Team) => p.2.matOps.map fun (m : Nat × MatOp) => (2, p.1, m.2.order)) ++ maccs [0, 3]
  | 2 =>
    let cs := s.collWait ++ s.colls.flatMap fun g => g.ranks.map (·.2)
    copies true ++ (cs.filter fun c => c.core == core && !c.done).map fun c => (3, 0, c.order)
  | _ => (List.range 8).flatMap fun k => ((s.core core).stops.get [] k).map fun a => (4, 0, a.id)

/-- xdrain (10 R283): it waits for the commands issued before it, and advances the race generation (07 R196) (DEDUCED, log 6). -/
def execXdrain (w : S32) (s : State) : Out :=
  let out := s.outstanding s.team.core w.f.toNat
  let wanted := if s.team.sphase = 0 then out else s.team.drain
  if wanted.any fun x => out.contains x then
    .next ({ s with team := { s.team with sphase := 1, drain := wanted } }).wait
  else
    .next (({ s with team := { s.team with drain := [], raceGen := s.team.raceGen + 1 } }).retireScalar 4)

/-! ### Publishing (10 R286) -/

/-- Dropping the cached records of a VF's launches, on every core (14 R379). -/
def State.dropRecords (s : State) (vf : Nat) : State :=
  { s with cores := s.cores.map fun (p : Nat × Core) =>
      (p.1, { p.2 with recs := p.2.recs.filter fun (r : Nat × Nat) => (s.launch (r.1 / 256)).vf != vf }) }

/-- xpub (10 R286): the set's current backing changes over and its generation rises. -/
def execXpub (w : S32) (s : State) : Out :=
  let vf := s.team.vf
  let k := bits (s.rs w.a.toNat) 9 0
  let p : PubSet := (s.vf vf).pubs.get {} k
  if !p.valid then .next (s.raiseScalar { cause := causePublish, tval := BitVec.ofNat 64 (2 ^ 63 + k) } 4)
  else if p.inflight ≠ 0 then
    if w.f = 0 then .next (s.raiseScalar { cause := causePublish, tval := BitVec.ofNat 64 k } 4) else .next s.wait
  else
    let s := (s.onVf vf fun v => { v with pubs := v.pubs.set k { p with cur := !p.cur, gen := p.gen + 1 } }).dropRecords vf
    .next ((s.ws w.d.toNat ((p.gen + 1).zeroExtend 64)).retireScalar 4)

/-! ### Collectives (10 R288, R289) -/

def CollOp.op (c : CollOp) : Nat := bits c.e1 31 28
def CollOp.red (c : CollOp) : Nat := bits c.e1 27 26
def CollOp.fmt (c : CollOp) : Nat := bits c.e1 25 21
def CollOp.crdv (c : CollOp) : Nat := bits c.e1 20 16
def CollOp.key (c : CollOp) : W32 := c.part.truncate 32
def CollOp.rank (c : CollOp) : Nat := bits c.part 39 32
def CollOp.n (c : CollOp) : Nat := bits c.part 47 40
def CollOp.count (c : CollOp) : Nat := c.e2.toNat
/-- Bytes of an element. -/
def CollOp.size (c : CollOp) : Nat := elemWidth c.fmt / 8

/-- xcoll (10 R288): the command leaves for the collective engine (DEDUCED, log 39). -/
def execXcoll (o : S96) (s : State) : Out :=
  let t := s.team
  match pointBeyond t [bits o.e1 20 16] with
  | some e => .next (s.raiseScalar e 12)
  | none =>
    let pub := s.pubOf t.vf (bit o.e1 15) (bits o.e1 14 5)
    if s.pubFull t.vf pub then .next s.wait
    else
      let c : CollOp :=
        { order := s.engineIssued, uid := s.cur.uid, vf := t.vf, ctx := t.ctx, core := t.core, e1 := o.e1, e2 := o.e2,
          f := o.w.f.toNat, src := s.rs o.w.a.toNat, dst := s.rs o.w.b.toNat, part := s.rs o.w.d.toNat, pub := pub }
      .next (({ (s.pubCount t.vf pub true) with engineIssued := s.engineIssued + 1, collWait := s.collWait ++ [c] }).retireScalar 12)

/-- A command ends: its arrival is made, its set no longer counts it. A peer's is no concern of this device. -/
def State.collEnds (s : State) (c : CollOp) : State :=
  if c.peer then s else (s.pubCount c.vf c.pub false).onLive c.uid fun t => t.signal c.crdv

/-- The command has the parameters of the first to reach the engine (DEDUCED, log 39). -/
def CollOp.agrees (c d : CollOp) : Bool :=
  c.n == d.n && c.op == d.op && c.red == d.red && c.fmt == d.fmt && c.count == d.count

/-- A command reaches its engine: it joins its collective, opens one, or is discarded (10 R289) (DEDUCED, log 39). -/
def State.collReach (s : State) (c : CollOp) : State :=
  let mine (g : Coll) : Bool := g.vf == c.vf && g.key == c.key
  if c.rank ≥ c.n then s.collEnds c
  else
    match s.colls.find? mine with
    | none => { s with colls := s.colls ++ [{ vf := c.vf, key := c.key, ranks := [(c.rank, c)] }] }
    | some g =>
      if (g.ranks.lookup c.rank).isSome || !(match g.ranks.head? with | some (_, d) => c.agrees d | none => true) then s.collEnds c
      else { s with colls := s.colls.map fun h => if mine h then { h with ranks := h.ranks.set c.rank c } else h }

/-- COLLECTIVE_JOIN (10 R289): the oldest command for the engine of a die reaches it. -/
def execCollectiveJoin (die : Nat) (s : State) : Out :=
  match s.collWait.find? fun c => c.key.toNat % 4 == die with
  | none => .next s
  | some c => .next ({ s with collWait := s.collWait.filter fun x => x.order != c.order }.collReach c)

/-- Every rank has joined, and every one of them is done. -/
def Coll.over (g : Coll) : Bool :=
  (match g.ranks.head? with | some (_, c) => g.ranks.length == c.n | none => true) && g.ranks.all fun (p : Nat × CollOp) => p.2.done

/-- A peer device's command reaches its engine: the rank that the PF has mapped to a device other than this one. Its source
and destination lie on the peer, and so does its arrival (10 R289) (DESIGN CHOICE, log 57). -/
def State.peerJoin (s : State) (vf : Nat) (e1 e2 : W32) (part : W64) : State :=
  let c : CollOp :=
    { order := s.engineIssued, uid := 0, vf := vf, ctx := 0, core := 0, e1 := e1, e2 := e2, f := 1, src := 0, dst := 0, part := part,
      peer := true, written := true, done := true }
  if (s.vf vf).rankDevice.get 0 c.rank = 0 then s
  else
    let s := { s with engineIssued := s.engineIssued + 1 }.collReach c
    -- a collective of peers alone has nothing to do here
    { s with colls := s.colls.filter fun g => !g.over }

/-- What the outside does (DESIGN CHOICE, log 57). -/
def State.outside (s : State) : Outside → State
  | .linkGroup n => if 1 ≤ n ∧ n ≤ 64 then { s with linkGroup := n } else s
  | .mapRank vf rank device => s.onVf vf fun v => { v with rankDevice := v.rankDevice.put 0 rank (if device < s.linkGroup then device else 0) }
  | .peerJoin vf e1 e2 part => s.peerJoin vf e1 e2 part
  | .hostPage page mapped => { s with hostOut := if mapped then s.hostOut.filter (· != page) else page :: s.hostOut.filter (· != page) }
  | .hostAtomics page complete =>
    { s with hostNoAtomic := if complete then s.hostNoAtomic.filter (· != page) else page :: s.hostNoAtomic.filter (· != page) }

/-- One step of a fold (10 R289): integers wrap; floating steps round to nearest even. -/
def foldStep (fmt red a b : Nat) : Nat :=
  if fmt = 7 then
    (match red with | 0 => fAdd fmtBf16 0 false false a b | 1 => fMinMax fmtBf16 false false false a b | _ => fMinMax fmtBf16 false true false a b).1
  else atomOp red (if fmt = 4 then 0 else if fmt = 5 then 1 else 2) (elemWidth fmt / 8) a b

/-- Folding vectors element by element, ranks ascending. -/
def foldVectors (fmt red : Nat) : List (List Nat) → List Nat
  | [] => []
  | v :: vs => vs.foldl (fun a b => List.zipWith (foldStep fmt red) a b) v

/-- Elements read per rank (10 R289). -/
def CollOp.sourceLen (c : CollOp) : Nat := if c.op = 1 then c.n * c.count else c.count
/-- Elements written per rank. -/
def CollOp.destLen (c : CollOp) : Nat := if c.op = 2 then c.n * c.count else c.count

/-- A replayable fault that the driver has answered with failure is a PAGE_FAULT (06 R161). -/
def deadStop : Stop → Stop
  | .page p => .trap { cause := causePage, tval := p.vaddr }
  | e => e

/-- The elements of a rank's source; an element that a fatal fault keeps from being read is a free value (DESIGN CHOICE, log 15), and the
fault goes to the rank's team. -/
def State.collSource (s : State) (c : CollOp) : List Nat → Except PageReq (State × List Nat × Option Stop)
  | [] => .ok (s, [], none)
  | i :: is =>
    match s.loadVa c.vf c.ctx { kind := 5 } (c.src + BitVec.ofNat 64 (i * c.size)) c.size with
    | .error e =>
      match (match e with | .page p => if c.park.any (·.failed) then none else some p | _ => none) with
      | some p => .error p
      | none =>
      let (s, x) := s.free 15
      (match State.collSource s c is with
       | .error p => .error p
       | .ok (s, vs, _) => .ok (s, x.toNat % 2 ^ (8 * c.size) :: vs, some (deadStop e)))
    | .ok (s, x) =>
      match State.collSource s c is with
      | .error p => .error p
      | .ok (s, vs, e) => .ok (s, x :: vs, e)

/-- A fatal stop of a collective command: its team takes it, resident or saved (06 R161). -/
def State.collStop (s : State) (c : CollOp) : Option Stop → State
  | some (.trap t) => s.failTeam c.vf c.uid t
  | some (.ue loc) => s.stopContext c.vf c.ctx causeUe loc
  | _ => s

/-- n elements that a peer device sends (DESIGN CHOICE, log 57). -/
def State.peerSource (s : State) (size : Nat) : Nat → State × List Nat
  | 0 => (s, [])
  | n + 1 =>
    let (s, x) := s.free 57
    let (s, vs) := State.peerSource s size n
    (s, x.toNat % 2 ^ (8 * size) :: vs)

/-- Every rank's source, or the rank that parks (DESIGN CHOICE, log 15). -/
def State.collSources (s : State) : List (Nat × CollOp) → Except (Nat × PageReq) (State × List (List Nat))
  | [] => .ok (s, [])
  | (r, c) :: cs =>
    if c.op = 3 ∧ r ≠ 0 then State.collSources s cs
    else if c.peer then
      let (s, v) := s.peerSource c.size c.sourceLen
      match State.collSources s cs with
      | .error q => .error q
      | .ok (s, vs) => .ok (s, v :: vs)
    else
      match s.collSource c (List.range c.sourceLen) with
      | .error p => .error (r, p)
      | .ok (s, v, e) =>
        match State.collSources (s.collStop c e) cs with
        | .error q => .error q
        | .ok (s, vs) => .ok (s, v :: vs)

/-- Changing one rank of a collective. -/
def State.onRank (s : State) (vf : Nat) (key : W32) (r : Nat) (f : CollOp → CollOp) : State :=
  { s with colls := s.colls.map fun g =>
      if g.vf = vf ∧ g.key = key then { g with ranks := g.ranks.map fun (p : Nat × CollOp) => if p.1 = r then (p.1, f p.2) else p } else g }

/-- Writing a rank's destination element by element. -/
def State.collWrite (s : State) (c : CollOp) : List (Nat × Nat) → Except (State × Stop) State
  | [] => .ok s
  | (i, x) :: xs =>
    let va := c.dst + BitVec.ofNat 64 (i * c.size)
    let place := match c.pub with
      | some (set, back) => s.pubRange c.vf set back va c.size
      | none => s.xlateRange c.vf c.ctx { kind := 5, write := true } va c.size
    match place with
    | .error e => .error (s, e)
    | .ok ps => State.collWrite (s.storeParts ps x) c xs

/-- Parking a rank on a replayable fault (DEDUCED, log 39). -/
def State.collPark (s : State) (c : CollOp) (r : Nat) (p : PageReq) : State :=
  let (s, q) := s.postFault c.vf c.ctx c.core 0 p
  s.onRank c.vf c.key r fun c => { c with park := [q] }

/-- A rank's destination is complete: its arrival is made once its team is on its core (11 R321). -/
def State.collArrive (s : State) (c : CollOp) (r : Nat) : State :=
  if !(s.teamOf c.uid).live then s.onRank c.vf c.key r fun c => { c with written := true }
  else
    let s := (s.collEnds c).onRank c.vf c.key r fun c => { c with written := true, done := true }
    { s with colls := s.colls.filter fun g => !(g.vf == c.vf && g.key == c.key && g.ranks.all fun (p : Nat × CollOp) => p.2.done) }

/-- The elements of the result that rank r receives (10 R289). -/
def CollOp.share (c : CollOp) (res : List Nat) : List (Nat × Nat) :=
  (List.range c.destLen).map fun i => (i, res.getD (if c.op = 1 then c.rank * c.count + i else i) 0)

/-- COLLECTIVE_RANK_DONE (10 R289): a rank of a collective whose ranks have all joined receives its elements (DEDUCED, log 39). -/
def execCollectiveRankDone (die rank : Nat) (s : State) : Out :=
  let ready (g : Coll) : Bool :=
    g.key.toNat % 4 == die
    && (match g.ranks.lookup rank with | some c => g.ranks.length == c.n && !c.done | none => false)
    && g.ranks.all fun (p : Nat × CollOp) => p.2.park.all (·.failed)
  match s.colls.find? ready with
  | none => .next s
  | some g =>
    match g.ranks.lookup rank with
    | none => .next s
    | some c =>
      if c.written then .next (s.collArrive c rank)
      else
        let src : Except (Nat × PageReq) (State × List Nat) :=
          match g.result with
          | some r => .ok (s, r)
          | none =>
            match s.collSources g.ranks with
            | .error e => .error e
            | .ok (s, vs) => .ok (s, match c.op with | 0 | 1 => foldVectors c.fmt c.red vs | _ => vs.flatten)
        match src with
        | .error (r, p) => (match g.ranks.lookup r with | some d => .next (s.collPark d r p) | none => .next s)
        | .ok (s, res) =>
          let s := { s with colls := s.colls.map fun (h : Coll) => if h.vf = g.vf ∧ h.key = g.key then { h with result := some res } else h }
          match s.collWrite c (c.share res) with
          | .ok s => .next (s.collArrive c rank)
          | .error (s, e) =>
            match (match e with | .page p => if c.park.any (·.failed) then none else some p | _ => none) with
            | some p => .next (s.collPark c rank p)
            | none => .next ((s.collStop c (some (deadStop e))).collArrive c rank)

/-- The contexts of a VF that exist. -/
def State.contextsOf (s : State) (vf : Nat) : List Nat := ((s.vf vf).ctxs.filter fun (p : Nat × Context) => p.2.state != 0).map (·.1)

/-- WOLYN_LINK_PORT_FAILURE (10 R290): every context of a VF with a joined collective over the link stops with UE, at a
location that is free. The commands of its teams end as those of any context that stops (DEDUCED, log 27) (DESIGN CHOICE, log 57). -/
def execWolynLinkPortFailure (port : Nat) (s : State) : Out :=
  let vfs := ((s.colls.filter fun g => !g.over && g.ranks.any fun (p : Nat × CollOp) => p.2.f == 1).map (·.vf)).dedup
  let (s, loc) := s.free (100 + port)
  .next (vfs.foldl (fun s v => (s.contextsOf v).foldl (fun s c => s.stopContext v c causeUe loc) s) s)

end Sys2Proof.Machine
end

