-- ==== Sys2Proof/Machine/FloatLane.lean ====
section
/-! DEFINITION. The floating instructions of group code (04 R103-R117, R122-R124). -/

namespace Sys2Proof.Machine
open Sys2Proof

/-- FT and RO of F (04 R103). -/
def ftOf (f : BitVec 4) : Nat := bits f 1 0
def State.rm (s : State) (f : BitVec 4) : Rounding := roundingOf (bits f 3 2) s.grp.fpctl
def State.ftz (s : State) : Bool := ftzOf s.grp.fpctl

/-- D from floating A and B. -/
def float2 (i : Instr) (o : LOp) (s : State) (f : Nat → Nat → Nat × W32) : Out :=
  let ft := ftOf o.f
  floatPure i o s (poisonOf o (ftRegs ft) (ftRegs ft) 0) (ftWide ft) fun l => f (s.fA o ft l) (s.fB o ft l)
/-- D from floating A; dw: D is a pair. -/
def float1 (i : Instr) (o : LOp) (s : State) (ft : Nat) (dw : Bool) (f : Nat → Nat × W32) : Out :=
  floatPure i o s (poisonOf o (ftRegs ft) 0 0) dw fun l => f (s.fA o ft l)
/-- The same, long-latency. -/
def floatLong1 (i : Instr) (o : LOp) (s : State) (f : Nat → Nat × W32) : Out :=
  let ft := ftOf o.f
  floatLong i o s (poisonOf o (ftRegs ft) 0 0) (ftWide ft) fun l => f (s.fA o ft l)

/-- fadd (04 R105). -/
def execFadd (o : LOp) (s : State) : Out := float2 (.fadd o) o s (fAdd (ftFmt (ftOf o.f)) (s.rm o.f) s.ftz false)

/-- fadd, short form (04 R105). -/
def execFaddL32 (w : L32) (s : State) : Out := float2 (.faddL32 w) w.toLOp s (fAdd (ftFmt (ftOf w.f)) (s.rm w.f) s.ftz false)

/-- fsub (04 R105). -/
def execFsub (o : LOp) (s : State) : Out := float2 (.fsub o) o s (fAdd (ftFmt (ftOf o.f)) (s.rm o.f) s.ftz true)

/-- fsub, short form (04 R105). -/
def execFsubL32 (w : L32) (s : State) : Out := float2 (.fsubL32 w) w.toLOp s (fAdd (ftFmt (ftOf w.f)) (s.rm w.f) s.ftz true)

/-- fmul (04 R105). -/
def execFmul (o : LOp) (s : State) : Out := float2 (.fmul o) o s (fMul (ftFmt (ftOf o.f)) (s.rm o.f) s.ftz)

/-- fmul, short form (04 R105). -/
def execFmulL32 (w : L32) (s : State) : Out := float2 (.fmulL32 w) w.toLOp s (fMul (ftFmt (ftOf w.f)) (s.rm w.f) s.ftz)

/-- fmin (04 R106). -/
def execFmin (o : LOp) (s : State) : Out := float2 (.fmin o) o s (fMinMax (ftFmt (ftOf o.f)) s.ftz false (bit o.f 2))

/-- fmin, short form (04 R106). -/
def execFminL32 (w : L32) (s : State) : Out := float2 (.fminL32 w) w.toLOp s (fMinMax (ftFmt (ftOf w.f)) s.ftz false (bit w.f 2))

/-- fmax (04 R106). -/
def execFmax (o : LOp) (s : State) : Out := float2 (.fmax o) o s (fMinMax (ftFmt (ftOf o.f)) s.ftz true (bit o.f 2))

/-- fmax, short form (04 R106). -/
def execFmaxL32 (w : L32) (s : State) : Out := float2 (.fmaxL32 w) w.toLOp s (fMinMax (ftFmt (ftOf w.f)) s.ftz true (bit w.f 2))

/-- fma (04 R105). -/
def execFma (o : LOp) (s : State) : Out :=
  let ft := ftOf o.f
  floatPure (.fma o) o s (poisonOf o (ftRegs ft) (ftRegs ft) (ftRegs ft)) (ftWide ft) fun l =>
    fMa (ftFmt ft) (s.rm o.f) s.ftz (s.fA o ft l) (s.fB o ft l) (s.fC o ft l)

/-- fsgn (04 R107): bits alone, no poison check; for .abs and .neg B is not read. -/
def fsgnLanes (i : Instr) (o : LOp) (s : State) : Out :=
  let ft := ftOf o.f
  lanePure i o s (ftWide ft) fun l => fSgn (ftFmt ft) (bits o.f 3 2) (s.fA o ft l) (if bit o.f 3 then s.fB o ft l else 0)
/-- fsgn (04 R107). -/
def execFsgn (o : LOp) (s : State) : Out := fsgnLanes (.fsgn o) o s
/-- fsgn, short form (04 R107). -/
def execFsgnL32 (w : L32) (s : State) : Out := fsgnLanes (.fsgnL32 w) w.toLOp s

/-- fcmp (04 R108). -/
def execFcmp (o : LOp) (s : State) : Out :=
  let ft := ftOf o.f
  let r (l : Nat) : Bool × W32 := fCmp (ftFmt ft) s.ftz (bits o.f 3 2) (s.fA o ft l) (s.fB o ft l)
  laneExecP (.fcmp o) o s (poisonOf o (ftRegs ft) (ftRegs ft) 0) fun s =>
    ((s.wtriple o.d.toNat (s.enabled o) (maskOf fun l => (r l).1)).orFlags (unionFlags (s.enabled o) fun l => (r l).2)).retire 
      (Instr.fcmp o).size

/-- fclass (04 R109): no flag, no poison check. -/
def execFclass (o : LOp) (s : State) : Out :=
  lanePure (.fclass o) o s false fun l => fClass (ftFmt (ftOf o.f)) (s.fA o (ftOf o.f) l)
/-- fclass, short form (04 R109). -/
def execFclassL32 (w : L32) (s : State) : Out :=
  lanePure (.fclassL32 w) w.toLOp s false fun l => fClass (ftFmt (ftOf w.f)) (s.fA w.toLOp (ftOf w.f) l)

/-- frnd (04 R110). -/
def execFrnd (o : LOp) (s : State) : Out :=
  float1 (.frnd o) o s (ftOf o.f) (ftWide (ftOf o.f)) (fRnd (ftFmt (ftOf o.f)) (s.rm o.f) s.ftz)
/-- frnd, short form (04 R110). -/
def execFrndL32 (w : L32) (s : State) : Out :=
  float1 (.frndL32 w) w.toLOp s (ftOf w.f) (ftWide (ftOf w.f)) (fRnd (ftFmt (ftOf w.f)) (s.rm w.f) s.ftz)

/-- fscale (04 R110): B is an i32. -/
def execFscale (o : LOp) (s : State) : Out :=
  let ft := ftOf o.f
  floatPure (.fscale o) o s (poisonOf o (ftRegs ft) 1 0) (ftWide ft) fun l =>
    fScale (ftFmt ft) (s.rm o.f) s.ftz (s.fA o ft l) (sext 32 (s.srcB o false false l))

/-- fexpo (04 R110). -/
def execFexpo (o : LOp) (s : State) : Out :=
  float1 (.fexpo o) o s (ftOf o.f) false fun a => ((fExpo (ftFmt (ftOf o.f)) s.ftz a).1.toNat, (fExpo (ftFmt (ftOf o.f)) s.ftz a).2)
/-- fexpo, short form (04 R110). -/
def execFexpoL32 (w : L32) (s : State) : Out :=
  float1 (.fexpoL32 w) w.toLOp s (ftOf w.f) false fun a =>
    ((fExpo (ftFmt (ftOf w.f)) s.ftz a).1.toNat, (fExpo (ftFmt (ftOf w.f)) s.ftz a).2)

/-- fdot2 (04 R105): 32-bit registers of two halves, C and D f32; a literal of A's type stands as it is. -/
def execFdot2 (o : LOp) (s : State) : Out :=
  floatPure (.fdot2 o) o s (poisonOf o 1 1 1) false fun l =>
    fDot2 (ftFmt (ftOf o.f)) (s.rm o.f) s.ftz (s.srcA o false l) (s.srcB o false false l) (s.srcC o false false l)

/-- fdiv (04 R111), long-latency. -/
def execFdiv (o : LOp) (s : State) : Out :=
  let ft := ftOf o.f
  floatLong (.fdiv o) o s (poisonOf o (ftRegs ft) (ftRegs ft) 0) (ftWide ft) fun l =>
    fDiv (ftFmt ft) (s.rm o.f) s.ftz (s.fA o ft l) (s.fB o ft l)
/-- fsqrt (04 R111). -/
def execFsqrt (o : LOp) (s : State) : Out := floatLong1 (.fsqrt o) o s (fSqrt (ftFmt (ftOf o.f)) (s.rm o.f) s.ftz)
/-- frcp (04 R111). -/
def execFrcp (o : LOp) (s : State) : Out := floatLong1 (.frcp o) o s (fRcp (ftFmt (ftOf o.f)) (s.rm o.f) s.ftz)

/-- frsq (04 R112). -/
def execFrsq (o : LOp) (s : State) : Out := floatLong1 (.frsq o) o s (fApprox 0x50 (ftOf o.f) s.ftz)

/-- fexp2 (04 R112). -/
def execFexp2 (o : LOp) (s : State) : Out := floatLong1 (.fexp2 o) o s (fApprox 0x51 (ftOf o.f) s.ftz)

/-- flog2 (04 R112). -/
def execFlog2 (o : LOp) (s : State) : Out := floatLong1 (.flog2 o) o s (fApprox 0x52 (ftOf o.f) s.ftz)

/-- fsin (04 R112). -/
def execFsin (o : LOp) (s : State) : Out := floatLong1 (.fsin o) o s (fApprox 0x53 (ftOf o.f) s.ftz)

/-- fcos (04 R112). -/
def execFcos (o : LOp) (s : State) : Out := floatLong1 (.fcos o) o s (fApprox 0x54 (ftOf o.f) s.ftz)

/-- ftanh (04 R112). -/
def execFtanh (o : LOp) (s : State) : Out := floatLong1 (.ftanh o) o s (fApprox 0x55 (ftOf o.f) s.ftz)

/-- cvt (04 R113): F[1:0] the destination type, F[3:2] the source type; FPCTL.RM. -/
def cvtLanes (i : Instr) (o : LOp) (s : State) : Out :=
  float1 i o s (bits o.f 3 2) (ftWide (ftOf o.f)) (fConvert (ftFmt (bits o.f 3 2)) (ftFmt (ftOf o.f)) (bits s.grp.fpctl 1 0) s.ftz)
/-- cvt (04 R113). -/
def execCvt (o : LOp) (s : State) : Out := cvtLanes (.cvt o) o s
/-- cvt, short form (04 R113). -/
def execCvtL32 (w : L32) (s : State) : Out := cvtLanes (.cvtL32 w) w.toLOp s

/-- cvtfi (04 R114): the operand is not flushed (R99). -/
def cvtfiLanes (i : Instr) (o : LOp) (s : State) : Out :=
  let ft := ftOf o.f
  float1 i o s ft (bit o.f 3) fun a => fToInt (ftFmt ft) (if bit o.f 3 then 64 else 32) (bit o.f 2) a
/-- cvtfi (04 R114). -/
def execCvtfi (o : LOp) (s : State) : Out := cvtfiLanes (.cvtfi o) o s
/-- cvtfi, short form (04 R114). -/
def execCvtfiL32 (w : L32) (s : State) : Out := cvtfiLanes (.cvtfiL32 w) w.toLOp s

/-- cvtif (04 R115). -/
def cvtifLanes (i : Instr) (o : LOp) (s : State) : Out :=
  let wide := bit o.f 3
  floatPure i o s (poisonOf o (if wide then 2 else 1) 0 0) (ftWide (ftOf o.f)) fun l =>
    intToF (ftFmt (ftOf o.f)) (bits s.grp.fpctl 1 0) s.ftz (extOf (bit o.f 2) (if wide then 64 else 32) (s.srcA o wide l))
/-- cvtif (04 R115). -/
def execCvtif (o : LOp) (s : State) : Out := cvtifLanes (.cvtif o) o s
/-- cvtif, short form (04 R115). -/
def execCvtifL32 (w : L32) (s : State) : Out := cvtifLanes (.cvtifL32 w) w.toLOp s

/-- cvtx (04 R116): no flag, no poison check. -/
def execCvtx (o : LOp) (s : State) : Out := lane1 (.cvtx o) o s false false (fCvtx o.f)
/-- cvtx, short form (04 R116). -/
def execCvtxL32 (w : L32) (s : State) : Out := lane1 (.cvtxL32 w) w.toLOp s false false (fCvtx w.f)

/-- cvtn (04 R117), long-latency: the operand is not flushed (R99). -/
def execCvtn (o : LOp) (s : State) : Out :=
  floatLong (.cvtn o) o s (poisonOf o 1 0 0) false fun l =>
    let a := s.srcA o false l
    fCvtn (ftOf o.f) (bit o.f 2) (bit o.f 3) (if bit o.f 3 then a % 2 ^ 16 else a)

/-- The Welford triple at register r of a lane (04 R122). -/
def State.welford (s : State) (ft r l : Nat) : Welford :=
  { count := (s.lane r l).toNat,
    mean := if ft = 1 then s.laneVal true (r + 2) l else (s.lane (r + 1) l).toNat,
    m2 := if ft = 1 then s.laneVal true (r + 4) l else (s.lane (r + 2) l).toNat }

/-- Writing the triple at r in the lanes of m; for f64 r + 1 is written zero. -/
def State.setWelford (s : State) (ft r : Nat) (m : Mask) (f : Nat → Welford) : State :=
  let s := s.wv r m fun l => BitVec.ofNat 32 (f l).count
  if ft = 1 then
    ((s.wv (r + 1) m fun _ => 0).wlanes true (r + 2) m fun l => (f l).mean).wlanes true (r + 4) m fun l => (f l).m2
  else (s.wv (r + 1) m fun l => BitVec.ofNat 32 (f l).mean).wv (r + 2) m fun l => BitVec.ofNat 32 (f l).m2

/-- A Welford instruction over the enabled lanes whose triple changes: none leaves it (04 R123, R124). -/
def welfordLanes (i : Instr) (o : LOp) (s : State) (fs : List PoisonField) (f : Nat → Option Welford × W32) : Out :=
  laneExecP i o s fs fun s =>
    let m := s.enabled o &&& maskOf fun l => (f l).1.isSome
    ((s.setWelford (ftOf o.f) o.d.toNat m fun l => ((f l).1.getD { count := 0, mean := 0, m2 := 0 })).orFlags
      (unionFlags (s.enabled o) fun l => (f l).2)).retire i.size

/-- wfup (04 R123); its implied registers are checked lane by lane (DESIGN CHOICE, log 66). -/
def execWfup (o : LOp) (s : State) : Out :=
  let ft := ftOf o.f
  let n := if ft = 1 then 6 else 3
  welfordLanes (.wfup o) o s ([{ reg := o.a.toNat, count := ftRegs ft }, { reg := o.d.toNat, count := 1 }, { reg := o.d.toNat, count := n - 1, off := 1 }])
    fun l =>
      let w := s.welford ft o.d.toNat l
      let r := wfUp (ftFmt ft) (s.rm o.f) s.ftz w (s.fA o ft l)
      (if w.count = 2 ^ 32 - 1 then none else some r.1, r.2)

/-- wfmerge (04 R124); A's implied registers are checked before D's, each lane by lane (DESIGN CHOICE, log 66). -/
def execWfmerge (o : LOp) (s : State) : Out :=
  let ft := ftOf o.f
  let n := if ft = 1 then 6 else 3
  welfordLanes (.wfmerge o) o s
    ([{ reg := o.a.toNat, count := 1 }, { reg := o.d.toNat, count := 1 }, { reg := o.a.toNat, count := n - 1, off := 1 }, { reg := o.d.toNat, count := n - 1, off := 1 }])
    fun l =>
      let p := s.welford ft o.d.toNat l
      let q := s.welford ft o.a.toNat l
      let r := wfMerge (ftFmt ft) (s.rm o.f) s.ftz p q
      (if q.count = 0 || (p.count != 0 && decide (p.count + q.count ≥ 2 ^ 32)) then none else some r.1, r.2)

end Sys2Proof.Machine
end

