-- ==== Sys2Proof/Machine/System.lean ====
section
/-! DEFINITION. The special registers and the system and trap instructions of both streams (03 R68-R70; 06 R150,
R164-R166; 14 R391). -/

namespace Sys2Proof.Machine
open Sys2Proof

/-! ### Values -/

/-- FEAT0 of a logical core (02 R55, 14 R390): bit 0 holds while every stack's unit works. -/
def State.feat0 (s : State) (core : Nat) : W32 :=
  let m : CoreMap := s.coreMap.get {} core
  let mmv := (List.range 8).all fun k => s.stackMap.get false k
  (m.feat0.zeroExtend 32 &&& 0x7E#32) ||| (if mmv then 1 else 0)

/-- HEALTH of a logical core (14 R391). -/
def State.health (s : State) (core : Nat) : W32 :=
  let m : CoreMap := s.coreMap.get {} core
  let cl := s.cluster (clusterOfCore core)
  let out := (s.channelMap.filter fun p => bit p.2 8).length
  BitVec.ofNat 32 (s.epoch.toNat * 2 ^ 24 + (if m.featLoss then 2 ^ 16 else 0) + out * 2 ^ 8 + cl.spares.length % 4 * 2 ^ 6
    + (if cl.degraded then 2 ^ 5 else 0) + m.phys)

/-- PERFLVL of a team (15 R406). -/
def State.perflvl (s : State) (t : Team) : W32 :=
  let v := s.vf t.vf
  let c := s.core t.core
  BitVec.ofNat 32 (v.perfMax * 2 ^ 20 + v.perfMin * 2 ^ 16 + c.eff * 2 ^ 12 + c.grant * 2 ^ 8 + t.perfReq)

/-- RINGSTAT of a VF (09 R247). -/
def State.ringstat (s : State) (vf : Nat) : W64 :=
  BitVec.ofNat 64 (s.ringRev.toNat * 2 ^ 32 + (s.vf vf).quota * 2 ^ 16 + (s.vf vf).ringHeld)

/-- The flat address of a byte of a core's slice (07 R172). -/
def flatAddr (core off : Nat) : W64 :=
  BitVec.ofNat 64 (dieOfCore core * 2 ^ 38 + core / 24 % 8 * 2 ^ 35 + core % 24 * 2 ^ 30 + off)

/-- Reading CYC of the core of the team in focus (03 R68): the core clock has gone on by an amount that is free (DESIGN CHOICE, log 8). -/
def State.readCyc (s : State) : State × W64 :=
  let (s, x) := s.free 8
  let old := (s.core s.team.core).cyc.toNat
  let new := BitVec.ofNat 64 (old + x.toNat % (2 ^ 64 - old))
  (s.onCore s.team.core fun c => { c with cyc := new }, new)

/-- A special register of team or core scope (03 R68) (DEDUCED, log 20) (DEDUCED, log 36). -/
def State.teamReg (s : State) (n : Nat) : W64 :=
  let t := s.team
  let w (x : W32) : W64 := x.zeroExtend 64
  match n with
  | 0x001 => BitVec.ofNat 64 t.index
  | 0x100 => t.mbnd
  | 0x102 => w t.mstat
  | 0x104 | 0x105 | 0x106 | 0x107 => w (t.mprog.get 0 (n - 0x104))
  | 0x108 => w (s.perflvl t)
  | 0x10A => s.ringstat t.vf
  | 0x10C => BitVec.ofNat 64 t.vpool
  | 0x10E => flatAddr t.core t.winBase
  | 0x200 => BitVec.ofNat 64 t.core
  | 0x201 => BitVec.ofNat 64 (clusterOfCore t.core)
  | 0x202 => BitVec.ofNat 64 (dieOfCore t.core)
  | 0x204 => w (s.feat0 t.core)
  | 0x208 => w (s.health t.core)
  | _ => 0

/-- A special register of the group in focus, for a lane (03 R68, R69); CYC apart (DEDUCED, log 36). -/
def State.groupReg (s : State) (n l : Nat) : W64 :=
  let g := s.grp
  let w (x : W32) : W64 := x.zeroExtend 64
  match n with
  | 0x000 => BitVec.ofNat 64 g.gid
  | 0x002 => BitVec.ofNat 64 ((s.team.index * s.team.hdr.groups + g.gid) * 96 % 2 ^ 32)
  | 0x003 => BitVec.ofNat 64 g.role
  | 0x004 | 0x005 | 0x006 => w (maskWord g.helper (n - 4))
  | 0x007 => BitVec.ofNat 64 l
  | 0x008 => w g.fpctl
  | 0x010 => g.tpc
  | 0x012 => w g.tcause
  | 0x013 => g.tval
  | 0x014 => w g.tstat
  | 0x01A => w (dqstat s.team g)
  | 0x01B => BitVec.ofNat 64 g.vcount
  | _ => s.teamReg n

/-- A special register of the scalar stream (03 R69); CYC apart. -/
def State.scalarReg (s : State) (n : Nat) : W64 :=
  let t := s.team
  match n with
  | 0x008 => t.sFpctl.zeroExtend 64
  | 0x010 => t.sTpc
  | 0x012 => t.sTcause.zeroExtend 64
  | 0x013 => t.sTval
  | 0x014 => t.sTstat.zeroExtend 64
  | _ => s.teamReg n

/-- A written TSTAT (06 R150): the writable bits alone change (DEDUCED, log 36). -/
def tstatWrite (old new writable : W32) : W32 := (old &&& ~~~writable) ||| (new &&& writable)

/-- syswr: the value into a writable register of the group; reserved fields ignore it (00 R8; 04 R95; 06 R150; 08 R211) (DEDUCED, log 36). -/
def State.writeGroupReg (s : State) (n : Nat) (x : W64) : State :=
  let w : W32 := x.truncate 32
  match n with
  | 0x008 => { s with grp := { s.grp with fpctl := w &&& fpctlMask } }
  | 0x010 => { s with grp := { s.grp with tpc := x } }
  | 0x012 => { s with grp := { s.grp with tcause := w &&& 0xFF } }
  | 0x013 => { s with grp := { s.grp with tval := x } }
  | 0x014 => { s with grp := { s.grp with tstat := tstatWrite s.grp.tstat w 0x10F } }
  | 0x102 => { s with team := { s.team with mstat := w &&& 0xE7 } }
  | _ => s

/-- ssyswr: the same for the scalar stream, whose WDONE is always 0 (06 R150) (DEDUCED, log 36). -/
def State.writeScalarReg (s : State) (n : Nat) (x : W64) : State :=
  let w : W32 := x.truncate 32
  match n with
  | 0x008 => { s with team := { s.team with sFpctl := w &&& fpctlMask } }
  | 0x010 => { s with team := { s.team with sTpc := x } }
  | 0x012 => { s with team := { s.team with sTcause := w &&& 0xFF } }
  | 0x013 => { s with team := { s.team with sTval := x } }
  | 0x014 => { s with team := { s.team with sTstat := tstatWrite s.team.sTstat w 0x100 } }
  | 0x102 => { s with team := { s.team with mstat := w &&& 0xE7 } }
  | _ => s

/-! ### Lane instructions -/

/-- sysrd (06 R164): each enabled lane of a v register, or a g register once (DEDUCED, log 36). -/
def execSysrd (o : LOp) (s : State) : Out :=
  laneExec (.sysrd o) o s fun s =>
    let n := srNumber o.f o.a
    let wide := srWidth n == some 64
    let (s, val) : State × (Nat → W64) :=
      if n = 0x018 then let (s, c) := s.readCyc; (s, fun _ => c) else (s, s.groupReg n)
    let s := if bit o.f 3 then s.writeGVal wide o.d.toNat (val 0).toNat else s.setD o wide fun l => (val l).toNat
    s.retire (Instr.sysrd o).size

/-- syswr (06 R164): the value of the lowest enabled lane (DEDUCED, log 36). -/
def execSyswr (o : LOp) (s : State) : Out :=
  laneExec (.syswr o) o s fun s =>
    let n := srNumber o.f o.d
    let wide := srWidth n == some 64
    match (lanesOf (s.enabled o)).head? with
    | none => s.retire (Instr.syswr o).size
    | some l =>
      let x := if o.isLit then o.imm.toNat else if bit o.f 3 then s.gVal wide o.a.toNat else s.srcA o wide l
      (s.writeGroupReg n (BitVec.ofNat 64 x)).retire (Instr.syswr o).size

/-- trap and brk (06 R164): nothing where a predicate disables every lane. -/
def trapExec (i : Instr) (o : LOp) (cause : Nat) (s : State) : Out :=
  laneExec i o s fun s =>
    if o.ps ≠ 0 ∧ s.enabled o = 0 then s.retire i.size
    else s.raise { cause := cause, tval := if o.isLit then o.imm.zeroExtend 64 else 0 } i.size
/-- trap (06 R164). -/
def execTrap (o : LOp) (s : State) : Out := trapExec (.trap o) o causeTrap s
/-- brk (06 R164). -/
def execBrk (o : LOp) (s : State) : Out := trapExec (.brk o) o causeBreak s

/-- eret (06 R164, R165). -/
def execEret (o : LOp) (s : State) : Out :=
  laneExec (.eret o) o s fun s =>
    if !inh s.grp.tstat then s.raise { cause := causeIllegal, tval := (Instr.eret o).firstWord.zeroExtend 64 } 8
    else s.returnTrap
/-- nop (06 R164). -/
def execNop (o : LOp) (s : State) : Out := laneExec (.nop o) o s fun s => s.retire 8

/-! ### Scalar instructions -/

/-- ssysrd (06 R166) (DEDUCED, log 36). -/
def execSsysrd (o : S64) (s : State) : Out :=
  let n := bits o.e1 11 0
  let (s, x) := if n = 0x018 then s.readCyc else (s, s.scalarReg n)
  .next ((s.ws o.w.d.toNat x).retireScalar 8)
/-- ssyswr (06 R166) (DEDUCED, log 36). -/
def execSsyswr (o : S64) (s : State) : Out :=
  .next ((s.writeScalarReg (bits o.e1 11 0) (s.rs o.w.a.toNat)).retireScalar 8)
/-- The cause of strap (06 R166). -/
def strapCause (w : S32) : Nat := if bit w.f 0 then causeBreak else causeTrap
/-- strap (06 R166). -/
def execStrapS32 (w : S32) (s : State) : Out := .next (s.raiseScalar { cause := strapCause w, tval := 0 } 4)
/-- strap with a literal (06 R166). -/
def execStrapS64 (o : S64) (s : State) : Out := .next (s.raiseScalar { cause := strapCause o.w, tval := o.e1.signExtend 64 } 8)
/-- seret (06 R166). -/
def execSeret (w : S32) (s : State) : Out :=
  if !inh s.team.sTstat then .next (s.raiseScalar { cause := causeIllegal, tval := (w.word 0x7F 1).zeroExtend 64 } 4)
  else .next s.returnScalarTrap

end Sys2Proof.Machine
end

