-- ==== Sys2Proof/Machine/Rendezvous.lean ====
section
/-! DEFINITION. Rendezvous points, performance levels and the reading of counters (15 R394-R399, R406, R407, R409,
R410). -/

namespace Sys2Proof.Machine
open Sys2Proof

/-! ### Points (15 R395, R398) -/

/-- Units reach an initialised or uninitialised point in one cycle: the point after it, and whether a phase completed. -/
def Point.receive (p : Point) (us : List ArrUnit) : Point × Bool :=
  let lower (e : W32) (u : ArrUnit) : W32 := if !u.drop then e else if p.init then (if e = 0 then 0 else e - 1) else e + 1
  let e := us.foldl lower p.expected
  let a := p.arrived + BitVec.ofNat 32 (us.map ArrUnit.units).sum
  if p.init ∧ us ≠ [] ∧ e.toNat ≤ a.toNat then ({ p with expected := e, arrived := 0, phase := p.phase + 1 }, true)
  else ({ p with expected := e, arrived := a }, false)

/-- srdv.init: the count, less the drops received before; the init's own cycle tests the arrivals. -/
def Point.initialise (p : Point) (c : Nat) : Point × Bool :=
  let e := BitVec.ofNat 32 (c - p.expected.toNat)
  if e.toNat ≤ p.arrived.toNat then ({ p with init := true, expected := e, arrived := 0, phase := p.phase + 1 }, true)
  else ({ p with init := true, expected := e }, false)

/-- A point of a team after a cycle; a completed phase advances the race generation (07 R196). -/
def Team.setPoint (t : Team) (n : Nat) (r : Point × Bool) : Team :=
  { t with points := t.points.set n r.1, raceGen := if r.2 then t.raceGen + 1 else t.raceGen }

/-- What the sender of a unit receives: the phase it counted in (15 R397). -/
def Team.deliver (t : Team) (phase : W32) (u : ArrUnit) : Team :=
  let t :=
    match u.frag with
    | none => t
    | some (gid, b) =>
      let g : Group := t.groups.get {} gid
      let g := g.setSlot b { g.slotOf b with inRdv := false }
      { t with groups := t.groups.set gid (match u.dest with | some d => { g with g := g.g.set d phase } | none => g) }
  if u.scalar then
    { t with sinRdv := false, s := match u.dest with | some d => if d = 0 then t.s else t.s.set d (phase.zeroExtend 64) | none => t.s }
  else t

/-- Every unit on its way reaches its point (15 R395): each point acts once. The race generation rises by one, however many
points complete a phase in the cycle (07 R196). -/
def Team.unitsArrive (t : Team) : Team :=
  let r := (List.range 24).foldl (fun u n =>
    let us := t.units.filter fun x => x.point == n
    if us = [] then u
    else
      let p : Point := u.points.get {} n
      us.foldl (fun u x => u.deliver p.phase x) (u.setPoint n (p.receive us))) { t with units := [] }
  { r with raceGen := if r.raceGen = t.raceGen then t.raceGen else t.raceGen + 1 }

/-- RDV_UNITS_ARRIVE (15 R395, R399): one cycle of a team's points. -/
def execRdvUnitsArrive (team : Nat) (s : State) : Out := .next (s.onLive team Team.unitsArrive)

/-- A wait for a later phase than the one held is satisfied (15 R397). -/
def phasePast (phase held : W32) : Bool := let d := (phase - held).toNat; decide (1 ≤ d ∧ d < 2 ^ 31)

/-! ### Lane instructions (15 R396, R397) -/

/-- rdv.arr and rdv.drop: the units leave; the fragment goes on when they have arrived. -/
def rdvExec (i : Instr) (o : LOp) (drop : Bool) (s : State) : Out :=
  laneExec i o s fun s =>
    let u : ArrUnit :=
      { point := o.a.toNat, units := if o.isLit then o.imm.toNat else 1, drop := drop, frag := some (s.cur.gid, s.cur.slotB),
        dest := if bit o.f 0 then some o.d.toNat else none }
    let s := { s with team := { s.team with units := s.team.units ++ [u] } }
    let s := s.retire i.size
    { s with frag := { s.frag with inRdv := true } }
/-- rdv.arr (15 R397). -/
def execRdvArr (o : LOp) (s : State) : Out := rdvExec (.rdvArr o) o false s
/-- rdv.drop (15 R397). -/
def execRdvDrop (o : LOp) (s : State) : Out := rdvExec (.rdvDrop o) o true s
/-- rdv.wait (15 R397). -/
def execRdvWait (o : LOp) (s : State) : Out :=
  laneExec (.rdvWait o) o s fun s =>
    if phasePast (s.team.points.get {} o.a.toNat).phase (s.rg o.b.toNat) then s.retire 8 else s.wait

/-! ### Scalar instructions (15 R398) -/

/-- srdv.init (15 R398). -/
def execSrdvInit (w : S32) (s : State) : Out :=
  let n := w.a.toNat
  match pointBeyond s.team [n] with
  | some t => .next (s.raiseScalar t 4)
  | none =>
    let p : Point := s.team.points.get {} n
    if p.init then .next (s.raiseScalar { cause := causeRdvRange, tval := BitVec.ofNat 64 (0x80000000 + n) } 4)
    else
      let c := bits (s.rs w.b.toNat) 15 0
      .next (({ s with team := s.team.setPoint n (p.initialise (if c = 0 then 65536 else c)) }).retireScalar 4)

/-- srdv.arr and srdv.arr.drop. -/
def srdvArr (w : S32) (size units : Nat) (s : State) : Out :=
  match pointBeyond s.team [w.a.toNat] with
  | some t => .next (s.raiseScalar t size)
  | none =>
    let u : ArrUnit := { point := w.a.toNat, units := units, drop := bit w.f 0, scalar := true, dest := some w.d.toNat }
    .next (({ s with team := { s.team with units := s.team.units ++ [u], sinRdv := true } }).retireScalar size)
/-- srdv.arr, one unit (15 R398). -/
def execSrdvArrS32 (w : S32) (s : State) : Out := srdvArr w 4 1 s
/-- srdv.arr with a count (15 R398). -/
def execSrdvArrS64 (o : S64) (s : State) : Out := srdvArr o.w 8 (bits o.e1 15 0) s
/-- srdv.wait (15 R398). -/
def execSrdvWait (w : S32) (s : State) : Out :=
  match pointBeyond s.team [w.a.toNat] with
  | some t => .next (s.raiseScalar t 4)
  | none =>
    if phasePast (s.team.points.get {} w.a.toNat).phase ((s.rs w.b.toNat).truncate 32) then .next (s.retireScalar 4) else .next s.wait

/-! ### Performance levels (15 R406, R407) -/

/-- GRANT of a core: the highest request of its resident teams; a lower GRANT lowers EFF to it (DEDUCED, log 22). -/
def State.resolveGrant (s : State) (core : Nat) : State :=
  let reqs := (s.flush.teams.filter fun (p : Nat × Team) => p.2.live && p.2.core == core).map fun (p : Nat × Team) => p.2.perfReq
  if reqs = [] then s
  else
    let g := reqs.foldl max 0
    s.onCore core fun c => { c with grant := g, eff := min c.eff g }

/-- The request v of the team in focus, clamped to the VF's range (DEDUCED, log 22). -/
def State.setPerf (s : State) (v : Nat) : State :=
  let f := s.vf s.team.vf
  ({ s with team := { s.team with perfReq := min (max v f.perfMin) f.perfMax } }).resolveGrant s.team.core

/-- setperf (15 R407): nothing where no lane is enabled. -/
def execSetperf (o : LOp) (s : State) : Out :=
  laneExec (.setperf o) o s fun s =>
    let s := match (lanesOf (s.enabled o)).head? with
      | none => s
      | some l => s.setPerf (if o.isLit then bits o.imm 3 0 else (s.lane o.a.toNat l).toNat % 16)
    s.retire (Instr.setperf o).size
/-- ssetperf (15 R407). -/
def execSsetperf (w : S32) (s : State) : Out := .next ((s.setPerf (bits (s.rs w.a.toNat) 3 0)).retireScalar 4)

/-! ### Counters (15 R409, R410) -/

/-- Error counter k of a die: 1 home slices, 2 stacks, 3 links. -/
def State.dieError (s : State) (die k : Nat) : W32 := s.dieErrors.get 0 (4 * die + k)

/-- The value of a counter for the core of the team in focus; CYC apart. -/
def State.counter (s : State) (kind index : Nat) : W64 :=
  let c := s.core s.team.core
  let cl := s.cluster (clusterOfCore s.team.core)
  match kind with
  | 0 => BitVec.ofNat 64 (c.pmc.get 0 index)
  | 1 => BitVec.ofNat 64 (cl.ccs.get 0 index)
  | 2 => BitVec.ofNat 64 (match index with | 1 => c.laneIssued | 2 => c.ksteps | _ => c.scalarIssued)
  | 3 => (match index with
          | 0 => BitVec.ofNat 64 cl.ballastSteps | 1 => BitVec.ofNat 64 cl.ungranted | 2 => cl.crecLast.signExtend 64
          | _ => BitVec.ofNat 64 cl.effCuts)
  | _ => if index = 0 then BitVec.ofNat 64 c.sramErrors else (s.dieError (dieOfCore s.team.core) index).zeroExtend 64

/-- Events of the cores and of the clusters whose rises no turn of the model stands for: urgent issues, stalls, waits, misses (15 R411) (DESIGN CHOICE, log 49). -/
def unseenCore : List Nat := [0x02, 0x03, 0x07, 0x0B]
def unseenCluster : List Nat := [0x20]

/-- Core counter k holds what its event has added: a free value where the event is one that no turn stands for (15 R411)
(DESIGN CHOICE, log 49). -/
def State.settlePc (s : State) (vf core k : Nat) : State :=
  if (s.vf vf).pmEn && unseenCore.contains ((s.vf vf).pmEv.get 0 k) then
    let (s, x) := s.free 49
    s.onCore core fun c => { c with pmc := c.pmc.set k (x.toNat % 2 ^ 48) }
  else s
/-- The same for cluster counter k (DESIGN CHOICE, log 49). -/
def State.settleCc (s : State) (vf cl k : Nat) : State :=
  if (s.vf vf).pmEn && unseenCluster.contains ((s.vf vf).pmCev.get 0 k) then
    let (s, x) := s.free 49
    s.onCluster cl fun c => { c with ccs := c.ccs.set k (x.toNat % 2 ^ 48) }
  else s

/-- ctrrd (15 R410): the value is sampled once, at issue. -/
def execCtrrd (o : LOp) (s : State) : Out :=
  longExec (.ctrrd o) o s fun s =>
    let kind := bits o.imm 7 4
    let index := bits o.imm 3 0
    let core := s.team.core
    let s := match kind with
      | 0 => s.settlePc s.team.vf core index
      | 1 => s.settleCc s.team.vf (clusterOfCore core) index
      | _ => s
    let (s, x) := if kind = 2 ∧ index = 0 then s.readCyc else (s, s.counter kind index)
    s.openWindow o.la.toNat 12 0 (resultOf o.d.toNat (s.enabled o) true fun _ => x.toNat) 0

end Sys2Proof.Machine
end

