-- ==== Sys2Proof/Machine/Governor.lean ====
section
/-! DEFINITION. The current-slew governor, the cap controller and clock ratios (15 R401-R408; 00 R15). -/

namespace Sys2Proof.Machine
open Sys2Proof

/-- The cores of a cluster. -/
def coresOf (cl : Nat) : List Nat := List.range' (24 * cl) 24
/-- The VF whose partition holds a cluster (11 R293). -/
def State.vfOfCluster (s : State) (cl : Nat) : Option Nat :=
  (s.vfs.find? fun (p : Nat × Vf) => bit p.2.part cl).map (·.1)

/-! ### Grants and ballast (15 R403, R404) -/

/-- RAMP[i] (DESIGN CHOICE, log 23). -/
def rampAt (tab : W64) (i : Nat) : Nat := bits tab (4 * i + 3) (4 * i)

/-- An operation of a team is in a wait on its feed point, for which it lost its grant. -/
def State.waitsFeed (s : State) (uid n : Nat) (o : MatOp) : Bool := o.feedWait && !feedOk (s.teamOf uid) o ((s.teamOf uid).mprog.get 0 n).toNat

/-- The cores that a core's array operation asks a grant for: itself, or the pair, named by its even core. An operation
asks once it is the next of its engine and its tile is free, and again when a wait on its feed point or its partner has ended; a
stack operation asks for none (08 R220, R236; 15 R403; 17 R418). -/
def State.asks (s : State) (core : Nat) : Option (List Nat) :=
  match s.arrayNext core with
  | none => none
  | some (uid, n, o) =>
    if o.kind = 2 ∨ o.granted ∨ s.waitsFeed uid n o then none
    else if o.kind = 0 then some [core]
    else if core % 2 = 1 then none
    else
      match s.partner core o with
      | some (uid2, n2, p) => if p.e1 = o.e1 ∧ !s.waitsFeed uid2 n2 p then some [core, core + 1] else none
      | none => none

/-- New requests are presented to the governors, in the turn in which they arise (15 R403, 17 R418): those of one turn in ascending
core. -/
def State.present (s : State) : State :=
  s.cores.foldl (fun s (p : Nat × Core) =>
    if p.2.acmOwner.isNone || (s.cluster (clusterOfCore p.1)).requests.contains p.1 || (s.asks p.1).isNone then s
    else s.onCluster (clusterOfCore p.1) fun c => { c with requests := c.requests ++ [p.1] }) s

/-- An array that runs a k-step in this step. -/
def State.runsArray (s : State) (core : Nat) : Bool :=
  match s.arrayFed core with
  | some (_, _, o) =>
    o.granted && o.kind != 2
    && (o.kind != 1 || match s.partner core o, s.arrayFed (core ^^^ 1) with | some (_, _, p), some _ => p.granted | _, _ => false)
  | none => false

/-- An operation that has its grant and waits on its feed point or its partner loses it: its array does not run (08 R220, 15
R404). -/
def State.dropGrant (s : State) (core : Nat) : State :=
  match s.arrayReady core with
  | some (uid, n, o) => if o.granted && !s.runsArray core then s.ungrant uid n else s
  | none => s

/-- Giving a core's next array operation its grant. -/
def State.grantCore (s : State) (core : Nat) : State :=
  match s.arrayNext core with
  | some (uid, n, _) => s.onTeam uid fun t =>
      { t with matOps := t.matOps.map fun (p : Nat × MatOp) => if p.1 = n then (p.1, { p.2 with granted := true, feedWait := false }) else p }
  | none => s

/-- One request (15 R403): granted while the step's starts are fewer than the allowance; an array that ran in the step
before needs none. The starts so far and the requests that wait (DESIGN CHOICE, log 23). -/
def State.grantRequest (prev : List Nat) (free : Bool) (allow : Nat) (r : State × Nat × List Nat) (core : Nat) : State × Nat × List Nat :=
  let (s, starts, left) := r
  match s.asks core with
  | none => r
  | some cs =>
    let need := (cs.filter fun c => !prev.contains c).length
    if need = 0 ∨ free ∨ starts < allow then (cs.foldl State.grantCore s, starts + need, left) else (s, starts, left ++ [core])

/-- GOVERNOR_STEP (15 R403, R404): one step boundary of a cluster (DESIGN CHOICE, log 23). -/
def execGovernorStep (cluster : Nat) (s : State) : Out :=
  let c := s.cluster cluster
  let vf := (s.vfOfCluster cluster).getD 0
  -- a change of the parameters takes effect at an idle period (15 R405)
  let idle := decide (c.idle ≥ c.idleMax)
  let c := if idle then { c with rampTab := s.pfGov, down := s.pfGov2Down, idleMax := s.pfGov2Idle } else c
  let i := if idle then 0 else c.ramp
  let prev := c.running ++ c.ballast
  let s := (coresOf cluster).foldl State.dropGrant s
  let asking := (coresOf cluster).filter fun k => (s.asks k).isSome
  let requests := c.requests.filter asking.contains ++ asking.filter fun k => !c.requests.contains k
  let (s, starts, left) := requests.foldl (State.grantRequest prev (decide (i > 15)) (rampAt c.rampTab i)) (s, 0, [])
  let running := (coresOf cluster).filter s.runsArray
  -- ballast on the stopping arrays, lowest core first
  let stopping := (coresOf cluster).filter fun k => prev.contains k && !running.contains k
  let ballast := stopping.take (prev.length - c.down - running.length)
  let c := { c with
    requests := left, running := running, ballast := ballast,
    ramp := if idle then (if starts = 0 then 0 else 1) else min (i + 1) 16,
    idle := if running = [] ∧ ballast = [] then c.idle + 1 else 0,
    ballastSteps := c.ballastSteps + ballast.length,
    ungranted := if left = [] then c.ungranted else c.ungranted + 1,
    crec := c.crec + BitVec.ofNat 32 (4096 * 4 * ballast.length) }
  let s := s.onCluster cluster fun _ => c
  .next ((s.countCluster cluster 0x22 starts vf).countCluster cluster 0x23 ballast.length vf)

/-! ### The cap controller (15 R402; 00 R15) -/

/-- The effective cap in watts: an unreadable sensor stands for 55 °C; nothing is rounded (DESIGN CHOICE, log 24). -/
def State.cap (s : State) (inlet : Option Rat) : Rat :=
  let t := inlet.getD 55
  if t > 45 then max 500 (min (s.pfPcap : Rat) (2000 - 50 * (t - 45))) else s.pfPcap

/-- The cores that a cluster exposes (14 R390). -/
def State.exposed (s : State) (cl : Nat) : List Nat := (coresOf cl).filter fun k => (s.coreMap.get {} k).present

/-- Lowering EFF of every core of a cluster by one, not below MIN of its VF. -/
def State.lowerCluster (s : State) (cl : Nat) : State :=
  let low := match s.vfOfCluster cl with | some v => (s.vf v).perfMin | none => 0
  let cut := (s.exposed cl).any fun k => decide ((s.core k).eff > low)
  let s := (s.exposed cl).foldl (fun s k => s.onCore k fun c => { c with eff := if c.eff > low then c.eff - 1 else c.eff }) s
  if cut then s.onCluster cl fun c => { c with effCuts := c.effCuts + 1 } else s

/-- The sum of a cluster's clock ratios, in twentieths. -/
def State.ratioSum (s : State) (cl : Nat) : Nat := ((s.exposed cl).map fun k => (s.core k).eff + 5).sum

/-- Lowering clusters in order until the estimate is below the cap: a cluster's power scales with its clock ratio. A cluster
whose cores are all at MIN ends nothing: some ratio falls as long as one can (00 R15). -/
def State.lowerUntil (cap : Rat) (watts : Nat → Rat) : List Nat → State → Rat → State
  | [], s, _ => s
  | cl :: cls, s, est =>
    let before := s.ratioSum cl
    let s := s.lowerCluster cl
    let est := est - watts cl * (before - s.ratioSum cl : Rat) / before
    if est < cap ∧ s.ratioSum cl < before then s else State.lowerUntil cap watts cls s est

/-- Clusters in descending CRECLAST, the lower number first where equal. -/
def State.byCrec (s : State) (cls : List Nat) : List Nat :=
  cls.foldr (fun c r => r.takeWhile (fun d => decide ((s.cluster d).crecLast.toInt > (s.cluster c).crecLast.toInt)) ++ [c]
    ++ r.dropWhile fun d => decide ((s.cluster d).crecLast.toInt > (s.cluster c).crecLast.toInt)) []

/-- A window of a cluster's current record ends (15 R401): CRECLAST is the record less the byte lanes that bus-invert coding inverted
on the fabric of a powered cluster, which is free (DESIGN CHOICE, log 59). -/
def State.endWindow (s : State) (cl : Nat) : State :=
  let (s, x) := if (s.cluster cl).on then s.free 59 else (s, 0)
  s.onCluster cl fun c => { c with crecLast := c.crec - x.truncate 32, crec := 0 }

/-- CAP_WINDOW_END (15 R401, R402) (DEDUCED, log 22) (DESIGN CHOICE, log 24). -/
def execCapWindowEnd (r : PowerReading) (s : State) : Out :=
  let all := List.range 32
  let s := all.foldl State.endWindow s
  let cap := s.cap r.inlet
  let on := all.filter fun cl => (s.cluster cl).on
  if r.watts > cap ∨ r.hot then
    .next (State.lowerUntil cap (fun cl => r.clusterWatts.get 0 cl) (s.byCrec on) s r.watts)
  else if 100 * r.watts < 95 * cap then
    .next (on.foldl (fun s cl => (s.exposed cl).foldl (fun s k => s.onCore k fun c => { c with eff := if c.eff < c.grant then c.eff + 1 else c.eff }) s) s)
  else .next s

/-- CLOCK_RATIO_CHANGE (15 R402): the core's clock runs at EFF. -/
def execClockRatioChange (core : Nat) (s : State) : Out := .next (s.onCore core fun c => { c with clock := c.eff })

/-- CLUSTER_POWER_ON (15 R408): a cluster of a partition powers up; what its cores held is lost, but for the ring stops,
which stay powered. -/
def execClusterPowerOn (cluster : Nat) (s : State) : Out :=
  let c := s.cluster cluster
  if c.on ∨ c.disabled ∨ (s.vfOfCluster cluster).isNone then .next s
  else
    let s := (coresOf cluster).foldl (fun s k => s.onCore k fun x => { ({} : Core) with quarantined := x.quarantined, stops := x.stops }) s
    .next (s.onCluster cluster fun c => { c with on := true })

end Sys2Proof.Machine
end

