-- ==== Sys2Proof/Machine/IntLane.lean ====
section
/-! DEFINITION. The integer, bit, packed and address instructions of group code, and vgive and vclaim (03 R71-R88). -/

namespace Sys2Proof.Machine
open Sys2Proof

/-- IT (03 R76): SAT, width, U. -/
def itSat (f : BitVec 4) : Bool := bit f 3
def itWide (f : BitVec 4) : Bool := bit f 2
def itW (f : BitVec 4) : Nat := if bit f 2 then 64 else 32
def itU (f : BitVec 4) : Bool := bit f 0

def fnAdd (f : BitVec 4) : Nat → Nat → Nat := iAdd (itSat f) (itU f) (itW f)
def fnSub (f : BitVec 4) : Nat → Nat → Nat := iSub (itSat f) (itU f) (itW f)
def fnMul (f : BitVec 4) : Nat → Nat → Nat := iMul (itSat f) (itU f) (itW f)
def fnMulhi (f : BitVec 4) : Nat → Nat → Nat := iMulhi (itU f) (itW f)
def fnMin (f : BitVec 4) : Nat → Nat → Nat := iMin (itU f) (itW f)
def fnMax (f : BitVec 4) : Nat → Nat → Nat := iMax (itU f) (itW f)

/-- add (03 R78). -/
def execAdd (o : LOp) (s : State) : Out := lane2 (.add o) o s (itWide o.f) (itWide o.f) (!itU o.f) (fnAdd o.f)

/-- add, short form (03 R78). -/
def execAddL32 (w : L32) (s : State) : Out := short2 (.addL32 w) w s (itWide w.f) (itWide w.f) (!itU w.f) (fnAdd w.f)

/-- sub (03 R78). -/
def execSub (o : LOp) (s : State) : Out := lane2 (.sub o) o s (itWide o.f) (itWide o.f) (!itU o.f) (fnSub o.f)

/-- sub, short form (03 R78). -/
def execSubL32 (w : L32) (s : State) : Out := short2 (.subL32 w) w s (itWide w.f) (itWide w.f) (!itU w.f) (fnSub w.f)

/-- mul (03 R78). -/
def execMul (o : LOp) (s : State) : Out := lane2 (.mul o) o s (itWide o.f) (itWide o.f) (!itU o.f) (fnMul o.f)

/-- mul, short form (03 R78). -/
def execMulL32 (w : L32) (s : State) : Out := short2 (.mulL32 w) w s (itWide w.f) (itWide w.f) (!itU w.f) (fnMul w.f)

/-- mulhi (03 R78). -/
def execMulhi (o : LOp) (s : State) : Out := lane2 (.mulhi o) o s (itWide o.f) (itWide o.f) (!itU o.f) (fnMulhi o.f)

/-- mulhi, short form (03 R78). -/
def execMulhiL32 (w : L32) (s : State) : Out := short2 (.mulhiL32 w) w s (itWide w.f) (itWide w.f) (!itU w.f) (fnMulhi w.f)

/-- min (03 R78). -/
def execMin (o : LOp) (s : State) : Out := lane2 (.min o) o s (itWide o.f) (itWide o.f) (!itU o.f) (fnMin o.f)

/-- min, short form (03 R78). -/
def execMinL32 (w : L32) (s : State) : Out := short2 (.minL32 w) w s (itWide w.f) (itWide w.f) (!itU w.f) (fnMin w.f)

/-- max (03 R78). -/
def execMax (o : LOp) (s : State) : Out := lane2 (.max o) o s (itWide o.f) (itWide o.f) (!itU o.f) (fnMax o.f)

/-- max, short form (03 R78). -/
def execMaxL32 (w : L32) (s : State) : Out := short2 (.maxL32 w) w s (itWide w.f) (itWide w.f) (!itU w.f) (fnMax w.f)

/-- mad (03 R78). -/
def execMad (o : LOp) (s : State) : Out := lane3 (.mad o) o s (itWide o.f) (itWide o.f) (!itU o.f) (iMad (itSat o.f) (itU o.f) (itW o.f))

/-- div (03 R79). -/
def execDiv (o : LOp) (s : State) : Out := lane2 (.div o) o s (itWide o.f) (itWide o.f) (!itU o.f) (iDiv (itSat o.f) (itU o.f) (itW o.f))

/-- rem (03 R79). -/
def execRem (o : LOp) (s : State) : Out := lane2 (.rem o) o s (itWide o.f) (itWide o.f) (!itU o.f) (iRem (itU o.f) (itW o.f))

/-- abs (03 R78). -/
def execAbs (o : LOp) (s : State) : Out := lane1 (.abs o) o s (itWide o.f) (itWide o.f) (iAbs (itSat o.f) (itW o.f))

/-- abs, short form (03 R78). -/
def execAbsL32 (w : L32) (s : State) : Out := short1 (.absL32 w) w s (itWide w.f) (itWide w.f) (iAbs (itSat w.f) (itW w.f))

/-- neg (03 R78). -/
def execNeg (o : LOp) (s : State) : Out := lane1 (.neg o) o s (itWide o.f) (itWide o.f) (iNeg (itSat o.f) (itW o.f))

/-- neg, short form (03 R78). -/
def execNegL32 (w : L32) (s : State) : Out := short1 (.negL32 w) w s (itWide w.f) (itWide w.f) (iNeg (itSat w.f) (itW w.f))

/-- not (03 R80). -/
def execNot (o : LOp) (s : State) : Out := lane1 (.not o) o s (itWide o.f) (itWide o.f) (iNot (itW o.f))

/-- not, short form (03 R80). -/
def execNotL32 (w : L32) (s : State) : Out := short1 (.notL32 w) w s (itWide w.f) (itWide w.f) (iNot (itW w.f))

/-- brev (03 R80). -/
def execBrev (o : LOp) (s : State) : Out := lane1 (.brev o) o s (itWide o.f) (itWide o.f) (iBrev (itW o.f))

/-- brev, short form (03 R80). -/
def execBrevL32 (w : L32) (s : State) : Out := short1 (.brevL32 w) w s (itWide w.f) (itWide w.f) (iBrev (itW w.f))

/-- popc (03 R80). -/
def execPopc (o : LOp) (s : State) : Out := lane1 (.popc o) o s false (itWide o.f) (iPopc (itW o.f))

/-- popc, short form (03 R80). -/
def execPopcL32 (w : L32) (s : State) : Out := short1 (.popcL32 w) w s false (itWide w.f) (iPopc (itW w.f))

/-- clz (03 R80). -/
def execClz (o : LOp) (s : State) : Out := lane1 (.clz o) o s false (itWide o.f) (iClz (itW o.f))

/-- clz, short form (03 R80). -/
def execClzL32 (w : L32) (s : State) : Out := short1 (.clzL32 w) w s false (itWide w.f) (iClz (itW w.f))

/-- ctz (03 R80). -/
def execCtz (o : LOp) (s : State) : Out := lane1 (.ctz o) o s false (itWide o.f) (iCtz (itW o.f))

/-- ctz, short form (03 R80). -/
def execCtzL32 (w : L32) (s : State) : Out := short1 (.ctzL32 w) w s false (itWide w.f) (iCtz (itW w.f))

/-- and (03 R80). -/
def execAnd (o : LOp) (s : State) : Out := lane2 (.and o) o s (itWide o.f) (itWide o.f) false iAnd

/-- and, short form (03 R80). -/
def execAndL32 (w : L32) (s : State) : Out := short2 (.andL32 w) w s (itWide w.f) (itWide w.f) false iAnd

/-- or (03 R80). -/
def execOr (o : LOp) (s : State) : Out := lane2 (.or o) o s (itWide o.f) (itWide o.f) false iOr

/-- or, short form (03 R80). -/
def execOrL32 (w : L32) (s : State) : Out := short2 (.orL32 w) w s (itWide w.f) (itWide w.f) false iOr

/-- xor (03 R80). -/
def execXor (o : LOp) (s : State) : Out := lane2 (.xor o) o s (itWide o.f) (itWide o.f) false iXor

/-- xor, short form (03 R80). -/
def execXorL32 (w : L32) (s : State) : Out := short2 (.xorL32 w) w s (itWide w.f) (itWide w.f) false iXor

/-- andn (03 R80). -/
def execAndn (o : LOp) (s : State) : Out := lane2 (.andn o) o s (itWide o.f) (itWide o.f) false (iAndn (itW o.f))

/-- andn, short form (03 R80). -/
def execAndnL32 (w : L32) (s : State) : Out := short2 (.andnL32 w) w s (itWide w.f) (itWide w.f) false (iAndn (itW w.f))

/-- shl: the amount is 32 bits (03 R80). -/
def execShl (o : LOp) (s : State) : Out := lane2 (.shl o) o s (itWide o.f) false false (iShl (itW o.f))

/-- shl, short form (03 R80). -/
def execShlL32 (w : L32) (s : State) : Out := short2 (.shlL32 w) w s (itWide w.f) false false (iShl (itW w.f))

/-- shr: the amount is 32 bits (03 R80). -/
def execShr (o : LOp) (s : State) : Out := lane2 (.shr o) o s (itWide o.f) false false (iShr (itW o.f))

/-- shr, short form (03 R80). -/
def execShrL32 (w : L32) (s : State) : Out := short2 (.shrL32 w) w s (itWide w.f) false false (iShr (itW w.f))

/-- sra: the amount is 32 bits (03 R80). -/
def execSra (o : LOp) (s : State) : Out := lane2 (.sra o) o s (itWide o.f) false false (iSra (itW o.f))

/-- sra, short form (03 R80). -/
def execSraL32 (w : L32) (s : State) : Out := short2 (.sraL32 w) w s (itWide w.f) false false (iSra (itW w.f))

/-- rotl: the amount is 32 bits (03 R80). -/
def execRotl (o : LOp) (s : State) : Out := lane2 (.rotl o) o s (itWide o.f) false false (iRotl (itW o.f))

/-- rotl, short form (03 R80). -/
def execRotlL32 (w : L32) (s : State) : Out := short2 (.rotlL32 w) w s (itWide w.f) false false (iRotl (itW w.f))

/-- bfe (03 R80). -/
def execBfe (o : LOp) (s : State) : Out := lane2 (.bfe o) o s (itWide o.f) false false (iBfe (itU o.f) (itW o.f))

/-- bfe, short form (03 R80). -/
def execBfeL32 (w : L32) (s : State) : Out := short2 (.bfeL32 w) w s (itWide w.f) false false (iBfe (itU w.f) (itW w.f))

/-- bfi (03 R80). -/
def execBfi (o : LOp) (s : State) : Out := lane3 (.bfi o) o s (itWide o.f) false false (iBfi (itW o.f))

/-- cmp (03 R81): conditions 2 and 3 are signed, so a literal is sign-extended for them alone. -/
def execCmp (o : LOp) (s : State) : Out :=
  let cc := bits o.f 2 0
  let wide := bit o.f 3
  lanePred (.cmp o) o s fun l => iCmp cc (if wide then 64 else 32) (s.srcA o wide l) (s.srcB o wide (cc == 2 || cc == 3) l)

/-- sel (03 R81): D takes A where the bit of triple C is one, and B where it is zero. -/
def execSel (o : LOp) (s : State) : Out :=
  let wide := bit o.f 2
  lanePure (.sel o) o s wide fun l => if (s.triple (cTripleOf o)).getLsbD l then s.srcA o wide l else s.srcB o wide false l

/-- The source of mov (03 R82): the literal, or by F[1:0] a v register, a g register or an s register (DEDUCED, log 31). -/
def State.movSource (s : State) (o : LOp) (l : Nat) : Nat :=
  let wide := bit o.f 2
  match if o.isLit then 0 else bits o.f 1 0 with
  | 1 => s.gVal wide o.b.toNat
  | 2 => let x := (s.rs o.b.toNat).toNat; if wide then x else x % 2 ^ 32
  | _ => s.srcB o wide false l

/-- mov (03 R82). -/
def execMov (o : LOp) (s : State) : Out := lanePure (.mov o) o s (bit o.f 2) (s.movSource o)

/-- mov, short form (03 R82): with G = 1 it copies g to g. -/
def execMovL32 (w : L32) (s : State) : Out :=
  if w.g then gExec (.movL32 w) s (bit w.f 2) w.d.toNat (s.gVal (bit w.f 2) w.b.toNat)
  else lanePure (.movL32 w) w.toLOp s (bit w.f 2) (s.movSource w.toLOp)

/-- cvti (03 R83). -/
def execCvti (o : LOp) (s : State) : Out :=
  lane1 (.cvti o) o s (o.f == 4 || o.f == 5) (o.f == 6 || o.f == 7 || o.f == 8) (iCvt o.f.toNat)

/-- cvti, short form (03 R83). -/
def execCvtiL32 (w : L32) (s : State) : Out :=
  short1 (.cvtiL32 w) w s (w.f == 4 || w.f == 5) (w.f == 6 || w.f == 7 || w.f == 8) (iCvt w.f.toNat)

/-- lea (03 R84): A is a pair, B 32 bits. -/
def execLea (o : LOp) (s : State) : Out :=
  lanePure (.lea o) o s true fun l => iLea o.f (s.srcA o true l) (s.srcB o false false l)

/-- perm (03 R85). -/
def execPerm (o : LOp) (s : State) : Out := lane3 (.perm o) o s false false false iPerm

/-- padd (03 R86). -/
def execPadd (o : LOp) (s : State) : Out := lane2 (.padd o) o s false false false (iPacked 0x20 o.f)

/-- padd, short form (03 R86). -/
def execPaddL32 (w : L32) (s : State) : Out := short2 (.paddL32 w) w s false false false (iPacked 0x20 w.f)

/-- psub (03 R86). -/
def execPsub (o : LOp) (s : State) : Out := lane2 (.psub o) o s false false false (iPacked 0x21 o.f)

/-- psub, short form (03 R86). -/
def execPsubL32 (w : L32) (s : State) : Out := short2 (.psubL32 w) w s false false false (iPacked 0x21 w.f)

/-- pmul (03 R86). -/
def execPmul (o : LOp) (s : State) : Out := lane2 (.pmul o) o s false false false (iPacked 0x22 o.f)

/-- pmul, short form (03 R86). -/
def execPmulL32 (w : L32) (s : State) : Out := short2 (.pmulL32 w) w s false false false (iPacked 0x22 w.f)

/-- pmin (03 R86). -/
def execPmin (o : LOp) (s : State) : Out := lane2 (.pmin o) o s false false false (iPacked 0x23 o.f)

/-- pmin, short form (03 R86). -/
def execPminL32 (w : L32) (s : State) : Out := short2 (.pminL32 w) w s false false false (iPacked 0x23 w.f)

/-- pmax (03 R86). -/
def execPmax (o : LOp) (s : State) : Out := lane2 (.pmax o) o s false false false (iPacked 0x24 o.f)

/-- pmax, short form (03 R86). -/
def execPmaxL32 (w : L32) (s : State) : Out := short2 (.pmaxL32 w) w s false false false (iPacked 0x24 w.f)

/-- pabs (03 R86). -/
def execPabs (o : LOp) (s : State) : Out := lane1 (.pabs o) o s false false fun a => iPacked 0x25 o.f a 0

/-- pabs, short form (03 R86). -/
def execPabsL32 (w : L32) (s : State) : Out := short1 (.pabsL32 w) w s false false fun a => iPacked 0x25 w.f a 0

/-- pshl (03 R87). -/
def execPshl (o : LOp) (s : State) : Out := lane2 (.pshl o) o s false false false (iPshift 0x26 o.f)

/-- pshl, short form (03 R87). -/
def execPshlL32 (w : L32) (s : State) : Out := short2 (.pshlL32 w) w s false false false (iPshift 0x26 w.f)

/-- pshr (03 R87). -/
def execPshr (o : LOp) (s : State) : Out := lane2 (.pshr o) o s false false false (iPshift 0x27 o.f)

/-- pshr, short form (03 R87). -/
def execPshrL32 (w : L32) (s : State) : Out := short2 (.pshrL32 w) w s false false false (iPshift 0x27 w.f)

/-- psra (03 R87). -/
def execPsra (o : LOp) (s : State) : Out := lane2 (.psra o) o s false false false (iPshift 0x28 o.f)

/-- psra, short form (03 R87). -/
def execPsraL32 (w : L32) (s : State) : Out := short2 (.psraL32 w) w s false false false (iPshift 0x28 w.f)

/-- pcmp (03 R86). -/
def execPcmp (o : LOp) (s : State) : Out := lane2 (.pcmp o) o s false false false (iPcmp o.f)

/-- pcmp, short form (03 R86). -/
def execPcmpL32 (w : L32) (s : State) : Out := short2 (.pcmpL32 w) w s false false false (iPcmp w.f)

/-- ppack (03 R88). -/
def execPpack (o : LOp) (s : State) : Out := lane2 (.ppack o) o s false false false (iPpack o.f)

/-- ppack, short form (03 R88). -/
def execPpackL32 (w : L32) (s : State) : Out := short2 (.ppackL32 w) w s false false false (iPpack w.f)

/-- pdot (03 R86). -/
def execPdot (o : LOp) (s : State) : Out := lane3 (.pdot o) o s false false false (iPdot o.f)

/-- sad (03 R86). -/
def execSad (o : LOp) (s : State) : Out := lane3 (.sad o) o s false false false (iSad o.f)

/-- punpk (03 R88). -/
def execPunpk (o : LOp) (s : State) : Out := lane1 (.punpk o) o s false false (iPunpk o.f)

/-- punpk, short form (03 R88). -/
def execPunpkL32 (w : L32) (s : State) : Out := short1 (.punpkL32 w) w s false false (iPunpk w.f)

/-- Every open window of the group has closed (03 R72): the fragment's own windows are closed, once their answers are
there and no fault stands; the other slot must have none. -/
def State.groupWindowsClosed (s : State) : Bool :=
  (firstFault s.frag.windows).isNone && !answersOpen s.frag.windows && (s.grp.slotOf !s.cur.slotB).windows.isEmpty

/-- vgive and vclaim issue once every window of the group has closed (03 R72): a fault of the fragment's own windows comes
first, and while it waits for the other slot its own are closed. -/
def State.afterWindows (s : State) (f : State → State) : State :=
  if s.groupWindowsClosed then f s.closeAll
  else
    match firstFault s.frag.windows with
    | some (w, l) => s.reportLate w l
    | none => if answersOpen s.frag.windows then s.wait else s.closeAll.wait

/-- vgive (03 R72). -/
def execVgive (o : LOp) (s : State) : Out :=
  laneExec (.vgive o) o s fun s => s.afterWindows fun s =>
    let n := o.f.toNat + 1
    if s.grp.vcount < 32 * n + 32 then s.raise { cause := causeRegRange, tval := BitVec.ofNat 64 s.grp.vcount } 8
    else
      let c := s.grp.vcount - 32 * n
      let g := { s.grp with vcount := c, v := s.grp.v.filter fun p => decide (p.1 < c) }
      ({ s with grp := g, team := { s.team with vpool := s.team.vpool + n } }).retire 8

/-- vclaim and vclaim.try (03 R72): k is the triple, 0 for the form that waits. -/
def claim (i : Instr) (o : LOp) (k : Nat) (s : State) : Out :=
  laneExec i o s fun s => s.afterWindows fun s =>
    let n := o.f.toNat + 1
    if s.grp.vcount + 32 * n > 1024 then s.raise { cause := causeRegRange, tval := BitVec.ofNat 64 s.grp.vcount } 8
    else if s.team.vpool < n then (if k = 0 then s.wait else (s.wtriple k allLanes 0).retire 8)
    else
      let g := { s.grp with vcount := s.grp.vcount + 32 * n, v := s.grp.v.filter fun p => decide (p.1 < s.grp.vcount) }
      let s := { s with grp := g, team := { s.team with vpool := s.team.vpool - n } }
      (if k = 0 then s else s.wtriple k allLanes allLanes).retire 8

/-- vclaim (03 R72). -/
def execVclaim (o : LOp) (s : State) : Out := claim (.vclaim o) o 0 s
/-- vclaim.try (03 R72). -/
def execVclaimTry (o : LOp) (s : State) : Out := claim (.vclaimTry o) o o.d.toNat s

end Sys2Proof.Machine
end

