-- ==== Sys2Proof/Machine/IntScalar.lean ====
section
/-! DEFINITION. The scalar integer instructions (03 R89), shared by the scalar stream and the line sequencer. -/

namespace Sys2Proof.Machine
open Sys2Proof

/-- sadd (03 R89). -/
def execSaddS32 (w : S32) (s : State) : Out := scalar32 0x00 w s

/-- sadd with a literal (03 R89). -/
def execSaddS64 (o : S64) (s : State) : Out := scalar64 0x00 o s

/-- ssub (03 R89). -/
def execSsubS32 (w : S32) (s : State) : Out := scalar32 0x01 w s

/-- ssub with a literal (03 R89). -/
def execSsubS64 (o : S64) (s : State) : Out := scalar64 0x01 o s

/-- smul (03 R89). -/
def execSmulS32 (w : S32) (s : State) : Out := scalar32 0x02 w s

/-- smul with a literal (03 R89). -/
def execSmulS64 (o : S64) (s : State) : Out := scalar64 0x02 o s

/-- smulhi (03 R89). -/
def execSmulhiS32 (w : S32) (s : State) : Out := scalar32 0x03 w s

/-- smulhi with a literal (03 R89). -/
def execSmulhiS64 (o : S64) (s : State) : Out := scalar64 0x03 o s

/-- sdiv (03 R89). -/
def execSdivS32 (w : S32) (s : State) : Out := scalar32 0x04 w s

/-- sdiv with a literal (03 R89). -/
def execSdivS64 (o : S64) (s : State) : Out := scalar64 0x04 o s

/-- srem (03 R89). -/
def execSremS32 (w : S32) (s : State) : Out := scalar32 0x05 w s

/-- srem with a literal (03 R89). -/
def execSremS64 (o : S64) (s : State) : Out := scalar64 0x05 o s

/-- smin (03 R89). -/
def execSminS32 (w : S32) (s : State) : Out := scalar32 0x06 w s

/-- smin with a literal (03 R89). -/
def execSminS64 (o : S64) (s : State) : Out := scalar64 0x06 o s

/-- smax (03 R89). -/
def execSmaxS32 (w : S32) (s : State) : Out := scalar32 0x07 w s

/-- smax with a literal (03 R89). -/
def execSmaxS64 (o : S64) (s : State) : Out := scalar64 0x07 o s

/-- sand (03 R89). -/
def execSandS32 (w : S32) (s : State) : Out := scalar32 0x08 w s

/-- sand with a literal (03 R89). -/
def execSandS64 (o : S64) (s : State) : Out := scalar64 0x08 o s

/-- sor (03 R89). -/
def execSorS32 (w : S32) (s : State) : Out := scalar32 0x09 w s

/-- sor with a literal (03 R89). -/
def execSorS64 (o : S64) (s : State) : Out := scalar64 0x09 o s

/-- sxor (03 R89). -/
def execSxorS32 (w : S32) (s : State) : Out := scalar32 0x0A w s

/-- sxor with a literal (03 R89). -/
def execSxorS64 (o : S64) (s : State) : Out := scalar64 0x0A o s

/-- sandn (03 R89). -/
def execSandnS32 (w : S32) (s : State) : Out := scalar32 0x0B w s

/-- sandn with a literal (03 R89). -/
def execSandnS64 (o : S64) (s : State) : Out := scalar64 0x0B o s

/-- sshl (03 R89). -/
def execSshlS32 (w : S32) (s : State) : Out := scalar32 0x0C w s

/-- sshl with a literal (03 R89). -/
def execSshlS64 (o : S64) (s : State) : Out := scalar64 0x0C o s

/-- sshr (03 R89). -/
def execSshrS32 (w : S32) (s : State) : Out := scalar32 0x0D w s

/-- sshr with a literal (03 R89). -/
def execSshrS64 (o : S64) (s : State) : Out := scalar64 0x0D o s

/-- ssra (03 R89). -/
def execSsraS32 (w : S32) (s : State) : Out := scalar32 0x0E w s

/-- ssra with a literal (03 R89). -/
def execSsraS64 (o : S64) (s : State) : Out := scalar64 0x0E o s

/-- sbfe (03 R89). -/
def execSbfeS32 (w : S32) (s : State) : Out := scalar32 0x0F w s

/-- sbfe with a literal (03 R89). -/
def execSbfeS64 (o : S64) (s : State) : Out := scalar64 0x0F o s

/-- sbfi (03 R89). -/
def execSbfiS32 (w : S32) (s : State) : Out := scalar32 0x10 w s

/-- sbfi with a literal (03 R89). -/
def execSbfiS64 (o : S64) (s : State) : Out := scalar64 0x10 o s

/-- spopc (03 R89). -/
def execSpopc (w : S32) (s : State) : Out := scalar32 0x11 w s

/-- sclz (03 R89). -/
def execSclz (w : S32) (s : State) : Out := scalar32 0x12 w s

/-- sctz (03 R89). -/
def execSctz (w : S32) (s : State) : Out := scalar32 0x13 w s

/-- smov (03 R89). -/
def execSmovS32 (w : S32) (s : State) : Out := scalar32 0x14 w s

/-- smov with a literal (03 R89). -/
def execSmovS64 (o : S64) (s : State) : Out := scalar64 0x14 o s

/-- sli: D takes E2:E1 (03 R89). -/
def execSli (o : S96) (s : State) : Out := scalarPure 12 o.w s (o.e1.toNat + o.e2.toNat * 2 ^ 32)

/-- scmp (03 R89). -/
def execScmpS32 (w : S32) (s : State) : Out := scalar32 0x16 w s

/-- scmp with a literal (03 R89). -/
def execScmpS64 (o : S64) (s : State) : Out := scalar64 0x16 o s

/-- ssel (03 R89). -/
def execSselS32 (w : S32) (s : State) : Out := scalar32 0x17 w s

/-- ssel with a literal (03 R89). -/
def execSselS64 (o : S64) (s : State) : Out := scalar64 0x17 o s

/-- slea (03 R89). -/
def execSleaS32 (w : S32) (s : State) : Out := scalar32 0x18 w s

/-- slea with a literal (03 R89). -/
def execSleaS64 (o : S64) (s : State) : Out := scalar64 0x18 o s

end Sys2Proof.Machine
end

