-- ==== Sys2Proof/Machine/Digest.lean ====
section
/-! DEFINITION. The parts of a context's save whose images the manual gives, finish scopes and split records (14 R386, R387), and the
SHA-512 digest of a save (14 R388). -/

namespace Sys2Proof.Machine
open Sys2Proof

/-! ### SHA-512 -/

/-- The first 80 primes. -/
def shaPrimes : List Nat := (List.range 410).filter fun n => decide (2 ≤ n) && (List.range' 2 (n - 2)).all fun d => n % d != 0
/-- The largest r below 2^72 with f r ≤ n, for a rising f. -/
def rootOf (f : Nat → Nat) (n : Nat) : Nat := (List.range 72).reverse.foldl (fun r k => if f (r + 2 ^ k) ≤ n then r + 2 ^ k else r) 0
/-- Initial hash words: fractions of the square roots of the first eight primes. -/
def shaInit : List W64 := (shaPrimes.take 8).map fun p => BitVec.ofNat 64 (rootOf (fun r => r ^ 2) (p * 2 ^ 128))
/-- Round constants: fractions of the cube roots of the first 80 primes. -/
def shaRound : List W64 := shaPrimes.map fun p => BitVec.ofNat 64 (rootOf (fun r => r ^ 3) (p * 2 ^ 192))

/-- The 80 words of a block's schedule. -/
def shaSchedule (block : List W64) : List W64 :=
  (List.range' 16 64).foldl (fun w t =>
    let a := w.getD (t - 15) 0
    let b := w.getD (t - 2) 0
    w ++ [((b.rotateRight 19) ^^^ (b.rotateRight 61) ^^^ (b >>> 6)) + w.getD (t - 7) 0
      + ((a.rotateRight 1) ^^^ (a.rotateRight 8) ^^^ (a >>> 7)) + w.getD (t - 16) 0]) block

/-- One round: the eight working words, with the round's constant and word. -/
def shaStep (v : List W64) (kw : W64 × W64) : List W64 :=
  match v with
  | [a, b, c, d, e, f, g, h] =>
    let t := h + ((e.rotateRight 14) ^^^ (e.rotateRight 18) ^^^ (e.rotateRight 41)) + ((e &&& f) ^^^ (~~~e &&& g)) + kw.1 + kw.2
    let u := ((a.rotateRight 28) ^^^ (a.rotateRight 34) ^^^ (a.rotateRight 39)) + ((a &&& b) ^^^ (a &&& c) ^^^ (b &&& c))
    [t + u, a, b, c, d + t, e, f, g]
  | _ => v

/-- Compressing one block of 16 words. -/
def shaBlock (h block : List W64) : List W64 := List.zipWith (· + ·) h ((shaRound.zip (shaSchedule block)).foldl shaStep h)

/-- A message padded to whole blocks: a one bit, zeros, and its length in bits. -/
def shaPad (bytes : List Nat) : List Nat :=
  let z := (239 - bytes.length % 128) % 128
  bytes ++ [0x80] ++ List.replicate z 0 ++ (List.range 16).map fun k => 8 * bytes.length / 2 ^ (8 * (15 - k)) % 256

/-- Word k of a list of bytes, most significant byte first. -/
def wordAt (bytes : List Nat) (k : Nat) : W64 := BitVec.ofNat 64 (((bytes.drop (8 * k)).take 8).foldl (fun x b => 256 * x + b) 0)

/-- The digest of a list of bytes, as 64 bytes in the order they are stored (PRESUMED, log 60). -/
def sha512 (bytes : List Nat) : List Nat :=
  let m := shaPad bytes
  let h := (List.range (m.length / 128)).foldl (fun h i => shaBlock h ((List.range' (16 * i) 16).map (wordAt m))) shaInit
  h.flatMap fun w => (List.range 8).map fun k => w.toNat / 2 ^ (8 * (7 - k)) % 256

/-- Bytes and the number they are, the first the least significant. -/
def bytesOf (x n : Nat) : List Nat := (List.range n).map fun k => x / 2 ^ (8 * k) % 256
def numberOf (bytes : List Nat) : Nat := bytes.foldr (fun b x => b + 256 * x) 0

/-! ### Images (14 R386, R387) -/

/-- The 32 bytes of a finish scope (14 R386). -/
def Scope.image (x : Scope) : Nat :=
  let ctl := x.parent % 256 + x.cause % 256 * 2 ^ 8 + (if x.valid then 2 ^ 16 else 0) + (if x.err then 2 ^ 17 else 0) + (if x.hasParent then 2 ^ 18 else 0)
  x.count % 2 ^ 32 + ctl * 2 ^ 32 + x.team % 2 ^ 24 * 2 ^ 64 + x.tpc.toNat * 2 ^ 128 + x.tval.toNat * 2 ^ 192

/-- The 48 bytes of a split record, by its age rank (14 R387). -/
def SplitRec.image (r : SplitRec) (rank : Nat) : Nat :=
  let ctl := rank % 16 + (if r.pending then 0x10 else 0) + (if r.armed then 0x20 else 0) + 0x40
  r.expected.toNat + r.arrived.toNat * 2 ^ 96 + r.cont.toNat * 2 ^ 192 + r.token % 2 ^ 16 * 2 ^ 256 + r.budget % 2 ^ 16 * 2 ^ 272 + ctl * 2 ^ 288

/-- Numbers of a given length in bytes, one after the other: the whole, and its length. -/
def joinImages (parts : List (Nat × Nat)) : Nat × Nat := parts.foldr (fun p r => (p.1 + 2 ^ (8 * p.2) * r.1, p.2 + r.2)) (0, 0)

/-- The finish scopes of a context: 256 images (14 R386). -/
def scopesImage (scope : Nat → Scope) : Nat × Nat := joinImages ((List.range 256).map fun k => ((scope k).image, 32))
/-- The split table, dormant set and spill count of a group (14 R387, R388). -/
def Group.image (g : Group) : Nat × Nat :=
  joinImages (((List.range 16).map fun k => (match g.split[k]? with | some r => r.image k | none => 0, 48)) ++ [(g.dormant.toNat, 12), (g.spills % 2 ^ 32, 4)])

end Sys2Proof.Machine
end

