-- ==== Sys2Proof/Machine/ScalarMemory.lean ====
section
/-! DEFINITION. Memory instructions of the scalar stream, and programmable atomics with their routines (07 R178, R179,
R199-R208). -/

namespace Sys2Proof.Machine
open Sys2Proof

/-! ### Scalar loads and stores (07 R178, R179) -/

/-- Access size by F (07 R178). -/
def scalarBytes (f : BitVec 2) : Nat := match f.toNat with | 0 => 8 | 1 => 4 | 2 => 2 | _ => 1

/-- A scalar window access: checks, then k on its offset. -/
def State.scalarWin (s : State) (size n : Nat) (base : W64) (off : Int) (write : Bool) (k : Nat → State) : Out :=
  let a : Int := (base.toNat : Int) + off
  match spadFault s.team a n write with
  | some t => .next (s.raiseScalar t size)
  | none => .next (k a.toNat)

/-- A scalar global access: alignment, translation and permission, then k on its parts. -/
def State.scalarGlob (s : State) (size n : Nat) (va : W64) (write : Bool) (k : List (Loc × Nat) → State) : Out :=
  if va.toNat % n ≠ 0 then .next (s.raiseScalar { cause := causeMisalign, tval := va } size)
  else
    match s.xlateRange s.team.vf s.team.ctx { kind := 8, write := write } va n with
    | .error e => .next (s.stopScalar size e)
    | .ok ps => .next (k ps)

/-- slds (07 R179). -/
def sldsExec (w : S32) (size : Nat) (off : Int) (s : State) : Out :=
  let n := scalarBytes w.f
  s.scalarWin size n (s.rs w.a.toNat) off false fun a => (s.ws w.d.toNat (BitVec.ofNat 64 (winRead s.team a n))).retireScalar size
/-- slds (07 R178). -/
def execSldsS32 (w : S32) (s : State) : Out := sldsExec w 4 0 s
/-- slds with an offset (07 R178). -/
def execSldsS64 (o : S64) (s : State) : Out := sldsExec o.w 8 o.e1.toInt s

/-- ssts (07 R179): the sectors' race records become none (R197). -/
def sstsExec (w : S32) (size : Nat) (off : Int) (s : State) : Out :=
  let n := scalarBytes w.f
  s.scalarWin size n (s.rs w.a.toNat) off true fun a =>
    let s := s.winWrite a n (s.rs w.b.toNat).toNat
    ({ s with team := s.team.raceClear a n }).retireScalar size
/-- ssts (07 R178). -/
def execSstsS32 (w : S32) (s : State) : Out := sstsExec w 4 0 s
/-- ssts with an offset (07 R178). -/
def execSstsS64 (o : S64) (s : State) : Out := sstsExec o.w 8 o.e1.toInt s

/-- sldg (07 R179). -/
def sldgExec (w : S32) (size : Nat) (off : W64) (s : State) : Out :=
  s.scalarGlob size (scalarBytes w.f) (s.rs w.a.toNat + off) false fun ps =>
    let (s, x) := s.loadParts ps
    (s.ws w.d.toNat (BitVec.ofNat 64 x)).retireScalar size
/-- sldg (07 R178). -/
def execSldgS32 (w : S32) (s : State) : Out := sldgExec w 4 0 s
/-- sldg with an offset (07 R178). -/
def execSldgS64 (o : S64) (s : State) : Out := sldgExec o.w 8 (o.e1.signExtend 64) s

/-- sstg (07 R179). -/
def sstgExec (w : S32) (size : Nat) (off : W64) (s : State) : Out :=
  s.scalarGlob size (scalarBytes w.f) (s.rs w.a.toNat + off) true fun ps =>
    (s.storeParts ps (s.rs w.b.toNat).toNat).retireScalar size
/-- sstg (07 R178). -/
def execSstgS32 (w : S32) (s : State) : Out := sstgExec w 4 0 s
/-- sstg with an offset (07 R178). -/
def execSstgS64 (o : S64) (s : State) : Out := sstgExec o.w 8 (o.e1.signExtend 64) s

/-- The old value of satom as it enters D (07 R201). -/
def satomResult (ty n old : Nat) : W64 := BitVec.ofNat 64 (if n = 4 ∧ ty = 0 then wrap 64 (sext 32 old) else old)

/-- satom (07 R199, R201): cas compares with the old D; the sector's race record stays (DESIGN CHOICE, log 63). -/
def execSatom (o : S96) (s : State) : Out :=
  let op := bits o.e2 2 0
  let ty := bits o.e2 5 4
  let n := if bit o.e2 3 then 8 else 4
  let d := (s.rs o.w.d.toNat).toNat % 2 ^ (8 * n)
  let b := (s.rs o.w.b.toNat).toNat % 2 ^ (8 * n)
  let new (old : Nat) : Nat := if op = 7 then (if old = d then b else old) else atomOp op ty n old b
  if o.w.f = 1 then
    s.scalarWin 12 n (s.rs o.w.a.toNat) o.e1.toInt true fun a =>
      let old := winRead s.team a n
      ((s.winWrite a n (new old)).ws o.w.d.toNat (satomResult ty n old)).retireScalar 12
  else
    let va := s.rs o.w.a.toNat + o.e1.signExtend 64
    s.scalarGlob 12 n va true fun ps =>
      if !s.takesAtomic (hostAtomic op ty) ps then s.raiseScalar { cause := causePerm, tval := va } 12
      else
        let (s, old) := s.loadParts ps
        ((s.storeParts ps (new old)).ws o.w.d.toNat (satomResult ty n old)).retireScalar 12

/-! ### Routines (07 R206, R207) -/

/-- A routine as it runs: its registers, the locked line, and the words it has stored in it. -/
structure RoutineRun where
  s : Store W64
  line : Nat
  stores : Store W64 := []
  deriving DecidableEq, Repr

/-- A register; s0 reads as zero. -/
def RoutineRun.reg (r : RoutineRun) (n : Nat) : W64 := if n = 0 then 0 else r.s.get 0 n
/-- Writing it. -/
def RoutineRun.set (r : RoutineRun) (n : Nat) (x : W64) : RoutineRun := if n = 0 then r else { r with s := r.s.set n x }
/-- A 64-bit word of the line. -/
def RoutineRun.word (r : RoutineRun) (off : Nat) : W64 :=
  match r.stores.lookup off with | some x => x | none => BitVec.ofNat 64 (r.line / 2 ^ (8 * off))

/-- The routine's words from byte offset pc on. -/
def codeWord (ws : List W32) (pc : Nat) : W32 := ws.getD (pc / 4) 0

/-- One instruction of a routine at byte offset pc: the next offset, none at its end. -/
def routineStep (ws : List W32) (pc : Nat) (r : RoutineRun) : RoutineRun × Option Nat :=
  let w0 := codeWord ws pc
  let w := S32.read w0
  let n := lengthWords w0
  let e1 := codeWord ws (pc + 4)
  let next := some (pc + 4 * n)
  let b : Nat := if n = 1 then (r.reg w.b.toNat).toNat else wrap 64 (sext 32 e1.toNat)
  match bits w0 8 2 with
  | 0x15 => (r.set w.d.toNat (codeWord ws (pc + 8) ++ e1), next)
  | 0x30 => (r, if sbrTaken w.f.toNat (r.reg w.a.toNat) then some (pc + e1.toNat) else next)
  | 0x31 => (r, some (pc + e1.toNat))
  | 0x34 => (r, none)
  | 0x40 => (r.set w.d.toNat (r.word (if n = 1 then 0 else e1.toNat)), next)
  | 0x41 => ({ r with stores := r.stores.set (if n = 1 then 0 else e1.toNat) (r.reg w.b.toNat) }, next)
  | op => (r.set w.d.toNat (BitVec.ofNat 64 (sAlu op w.f.toNat (r.reg w.d.toNat).toNat (r.reg w.a.toNat).toNat b)), next)

/-- Running a routine: it ends within 16 instructions (07 R206). -/
def routineRun (ws : List W32) : Nat → Nat → RoutineRun → RoutineRun
  | 0, _, r => r
  | f + 1, pc, r =>
    if pc / 4 ≥ ws.length then r
    else match routineStep ws pc r with | (r, some pc) => routineRun ws f pc r | (r, none) => r

/-- A routine on one element (07 R207): the line's 128 bytes as a number, the element's offset in it and width in bytes,
whether it is sign-extended, and the arguments; the new line and the result. -/
def runRoutine (ws : List W32) (line off n : Nat) (signed : Bool) (a0 a1 : W64) : Nat × W64 :=
  let el := line / 2 ^ (8 * off) % 2 ^ (8 * n)
  let el64 := BitVec.ofNat 64 (if signed then wrap 64 (sext (8 * n) el) else el)
  let r := routineRun ws 16 0 { s := [(1, el64), (2, a0), (3, a1), (4, BitVec.ofNat 64 off)], line := line }
  let put (x o k v : Nat) : Nat := x - x / 2 ^ (8 * o) % 2 ^ (8 * k) * 2 ^ (8 * o) + v % 2 ^ (8 * k) * 2 ^ (8 * o)
  let line := put line off n (r.reg 1).toNat
  (r.stores.foldl (fun x p => put x p.1 8 p.2.toNat) line, r.reg 2)

/-! ### patom (07 R205) -/

/-- The line of an element, as the element that covers it, and the element's offset in it. -/
def lineOf (e : Elem) : Option (Elem × Nat) :=
  let whole (pl : Place) : Elem := { pos := 0, w := 1024, n := 128, place := pl }
  match e.place with
  | .window a => some (whole (.window (a / 128 * 128)), a % 128)
  | .global [(.dev pa, _)] => some (whole (.global [(.dev (pa / 128 * 128), 128)]), pa % 128)
  | .comp [p] => some (whole (.comp [{ p with first := p.first / 128 * 128, count := 128 }]), p.first % 128)
  | _ => none

/-- Running the routine for each lane in ascending order; a helper lane receives its argument 0, also out of range (DESIGN CHOICE, log 68). -/
def State.patomLanes (s : State) (ws : List W32) (n : Nat) (signed : Bool) (args : Nat → W64 × W64) :
    List (Nat × Option Elem) → State × List (Nat × Nat)
  | [] => (s, [])
  | (l, e) :: es =>
    let (s, x) : State × Nat :=
      if s.isHelper l then (s, (args l).1.toNat)
      else match e.bind lineOf with
        | none => (s, 0)
        | some (line, off) =>
          let (s, old) := s.readPlace line
          let (new, r) := runRoutine ws old off n signed (args l).1 (args l).2
          (s.writePlace line new, r.toNat)
    let (s, vs) := State.patomLanes s ws n signed args es
    (s, (l, x) :: vs)

/-- patom with its routine (07 R205). -/
def State.patom (s : State) (o : LOp) (ws : List W32) : State :=
  let m := s.enabled o
  let acc : Acc := { kind := 2, write := true }
  if m = 0 then s.openWindow o.la.toNat o.size 0 [] 0
  else
    match s.bufferRec acc o.sub.toNat with
    | .error e => s.stopLong o.la.toNat o.size [] e
    | .ok (s, r) =>
      let ok := r.fmt == 0x04 || r.fmt == 0x05 || r.fmt == 0x08 || r.fmt == 0x09
      let w := elemWidth r.fmt
      match gather ((lanesOf m).map fun l =>
          let e := s.elem { r with race := false } o.sub.toNat acc w ok false (s.elemIndex o l) 0 (fun _ => false)
          (l, s.hostCheck false (r.base + BitVec.ofInt 64 (r.pos w (s.elemIndex o l) 0 / 8)) e)) with
      | .error (st, ps) => s.stopLong o.la.toNat o.size ps st
      | .ok es =>
        let s := s.creditSectors (s.working es)
        let args (l : Nat) : W64 × W64 :=
          (BitVec.ofNat 64 (s.regsVal o.d.toNat 2 l), BitVec.ofNat 64 (s.regsVal (o.d.toNat + 2) 2 l))
        let (s, vs) := s.patomLanes ws (w / 8) (r.fmt == 0x04) args es
        s.openWindow o.la.toNat o.size 0 (regsResult o.d.toNat 2 m vs) 0

/-- A patom of routine index k whose access is held by replayable faults is noted: in the window that it opens, or at its address
(14 R385) (DESIGN CHOICE, log 62). -/
def State.notePatom (s u : State) (k : Nat) : State :=
  let mark (w : Window) : Window := if w.fault.isSome then { w with patom := some k } else w
  { u with frag := { u.frag with
      windows := u.frag.windows.modify s.frag.windows.length mark,
      patom := if u.frag.park ≠ [] && u.frag.pc == s.frag.pc then some (s.frag.pc, k) else u.frag.patom } }

/-- patom (07 R205): a routine index whose entry is not valid is an illegal encoding, before every later check of 02 R57
(DEDUCED, log 35). -/
def execPatom (o : LOp) (s : State) : Out :=
  match (s.vf s.team.vf).routines.lookup o.imm.toNat with
  | none => .next (s.raise { cause := causeIllegal, tval := (Instr.patom o).firstWord.zeroExtend 64 } o.size)
  | some ws => longExec (.patom o) o s fun s =>
      let s := { s with frag := { s.frag with patom := none } }
      s.notePatom (s.patom o ws) o.imm.toNat

end Sys2Proof.Machine
end

