-- ==== Sys2Proof/Machine/Queues.lean ====
section
/-! DEFINITION. The queue manager: work queues, launch packets, checks, team starts and ends, finish scopes and the launch
instructions (11 R295-R312; 01 R28-R34; 02 R60, R61). -/

namespace Sys2Proof.Machine
open Sys2Proof

/-! ### Packets (11 R298) -/

/-- The fields of a launch packet's eight words. -/
def pkWord (ws : List W64) (k : Nat) : W64 := ws.getD k 0
def pkSer (ws : List W64) : Bool := bit (pkWord ws 0) 15
def pkDepv (ws : List W64) : Nat := bits (pkWord ws 0) 14 13
def pkFence (ws : List W64) : Bool := bit (pkWord ws 0) 12
def pkPmode (ws : List W64) : Bool := bit (pkWord ws 0) 11
def pkPrio (ws : List W64) : Nat := bits (pkWord ws 0) 9 8
def pkKind (ws : List W64) : Nat := bits (pkWord ws 0) 7 0
def pkTeams (ws : List W64) : Nat := bits (pkWord ws 0) 55 32
def pkScope (ws : List W64) : Nat := bits (pkWord ws 1) 15 8
def pkSpan (ws : List W64) : Nat := bits (pkWord ws 1) 4 0
def pkHdr (ws : List W64) : W64 := pkWord ws 2
def pkArgs (ws : List W64) : W64 := pkWord ws 3
def pkPlace (ws : List W64) : W64 := pkWord ws 4
def pkDep (ws : List W64) (k : Nat) : W64 := pkWord ws (5 + k)

/-- The reserved fields of every packet are zero. -/
def pkReservedOk (ws : List W64) : Bool :=
  bits (pkWord ws 0) 31 16 == 0 && !bit (pkWord ws 0) 10 && bits (pkWord ws 0) 63 56 == 0 && bits (pkWord ws 1) 63 16 == 0
  && bits (pkWord ws 1) 7 5 == 0 && pkWord ws 7 == 0

/-- A marker's other fields are zero, the words of an invalid dependence among them (11 R300). -/
def pkMarkerOk (ws : List W64) : Bool :=
  pkReservedOk ws && !pkPmode ws && pkPrio ws == 0 && pkTeams ws == 0 && pkWord ws 1 == 0 && pkHdr ws == 0 && pkArgs ws == 0
  && pkPlace ws == 0 && [0, 1].all fun k => pkDepv ws / 2 ^ k % 2 == 1 || pkDep ws k == 0

/-- The valid dependences: queue and value. -/
def pkDeps (ws : List W64) : List (Nat × Nat) :=
  ([0, 1].filter fun k => pkDepv ws / 2 ^ k % 2 == 1).map fun k => (bits (pkDep ws k) 15 0, bits (pkDep ws k) 63 16)

/-- The eight words of 64 bytes. -/
def wordsOf (x : Nat) : List W64 := (List.range 8).map fun k => BitVec.ofNat 64 (x / 2 ^ (64 * k))

/-! ### Taking packets (11 R296, R297, R300, R308) -/

/-- The running context of a VF (11 R316). -/
def State.running (s : State) (vf : Nat) : Option Nat := ((s.vf vf).ctxs.find? fun (p : Nat × Context) => p.2.state == 2).map (·.1)

/-- What stands at a queue's head. -/
inductive HeadPacket where
  | none
  /-- The read faults in translation. -/
  | fault
  | packet (ws : List W64)

/-- The packet at QHEAD of a queue that may be read: the queue is enabled, not stopped, and none of its packets waits for
its check. The ring is read in the queue's context (DEDUCED, log 12) (DEDUCED, log 40). -/
def State.headPacket (s : State) (vf queue : Nat) : HeadPacket :=
  let v := s.vf vf
  let q : Queue := v.queues.get {} queue
  let c := s.ctx vf q.ctx
  if queue ≥ v.qCount ∨ !q.enable ∨ bit q.stat 31 ∨ q.head = q.tail
      ∨ (c.checking.any fun p => match p.queue with | some (k, _) => k == queue | none => false) then .none
  else
    match s.loadVa vf q.ctx { kind := 8 } (q.base + BitVec.ofNat 64 (64 * q.head)) 64 with
    | .ok (_, x) => .packet (wordsOf x)
    | .error _ => .fault

/-- A packet's dependences and SER are satisfied (11 R296, R300); a dependence on a queue beyond the VF's count is not
waited on. -/
def State.packetReady (s : State) (vf queue : Nat) (ws : List W64) : Bool :=
  let v := s.vf vf
  let q : Queue := v.queues.get {} queue
  (!pkSer ws || q.taken.all fun t => t.done)
  && (pkDeps ws).all fun d => decide (d.1 ≥ v.qCount) || decide ((v.queues.get {} d.1).fence ≥ d.2)

/-- The queues of a context with a packet ready, with its PRIO. -/
def State.readyQueues (s : State) (vf ctx : Nat) : List (Nat × Nat) :=
  (s.vf vf).queues.filterMap fun (p : Nat × Queue) =>
    if p.2.ctx ≠ ctx then none
    else match s.headPacket vf p.1 with
      | .packet ws => if s.packetReady vf p.1 ws then some (p.1, pkPrio ws) else none
      | _ => none

/-- Whether the manager serves this queue next: highest PRIO, then round robin after the queue served last. A device packet
goes ahead of host packets of equal PRIO (DEDUCED, log 40). -/
def State.serves (s : State) (vf ctx queue prio : Nat) : Bool :=
  let last := (s.vf vf).lastQueue
  let turn (k : Nat) : Nat := if k > last then k else k + 65536
  let dev := match (s.ctx vf ctx).devq with | p :: _ => decide (pkPrio p.words ≥ prio) | [] => false
  !dev && (s.readyQueues vf ctx).all fun r => decide (r.2 < prio) || (r.2 == prio && decide (turn queue ≤ turn r.1))

/-- A ring index after n packets. -/
def Queue.wrap (q : Queue) (i : Nat) : Nat := i % 2 ^ q.n

/-- Stopping a queue at a packet (11 R297). -/
def State.stopQueue (s : State) (vf queue pkt cause : Nat) (rfault : Bool) : State :=
  let stat : W64 := BitVec.ofNat 64 (cause * 2 ^ 32 + 2 ^ 31 + (if rfault then 2 ^ 30 else 0) + pkt)
  let q : Queue := (s.vf vf).queues.get {} queue
  let s := s.onVf vf fun v => { v with queues := v.queues.set queue { q with stat := stat, head := pkt } }
  s.sendMsix vf 2

/-- Raising a scope's count by n (11 R303). -/
def State.scopeUp (s : State) (vf ctx scope n : Nat) : State := s.onCtx vf ctx fun c => c.onScope scope fun x => { x with count := x.count + n }

/-- The header that a packet names, as it arrives: in the header cache, or in memory, from where the cache takes it; none where it
cannot be read (02 R61) (DEDUCED, log 40). When the cache is full, the entry that leaves is free (DESIGN CHOICE, log 9). -/
def State.headerSeen (s : State) (vf ctx : Nat) (a : W64) : State × Option Nat :=
  match s.hdrCache.lookup (vf, ctx, a) with
  | some x => (s, some x)
  | none =>
    match s.loadVa vf ctx { kind := 8 } a 128 with
    | .error _ => (s, none)
    | .ok (s, x) =>
      let (s, kept) := if s.hdrCache.length < 256 then (s, s.hdrCache) else let (s, f) := s.free 61; (s, s.hdrCache.eraseIdx (f.toNat % 256))
      ({ s with hdrCache := kept ++ [((vf, ctx, a), x)] }, some x)

/-- The header that an arriving launch packet names, where it may name one (DEDUCED, log 40). -/
def State.packetHeader (s : State) (vf ctx : Nat) (ws : List W64) : State × Option Nat :=
  if pkKind ws == 1 && bits (pkHdr ws) 6 0 == 0 && canonical (pkHdr ws) then s.headerSeen vf ctx (pkHdr ws) else (s, none)

/-- Taking the packet at a host queue's head: it raises its token and goes to the check stage; a legal marker completes. -/
def State.takeHost (s : State) (vf queue : Nat) (ws : List W64) : State :=
  let v := s.vf vf
  let q : Queue := v.queues.get {} queue
  let marker := pkKind ws == 2 && pkMarkerOk ws && (pkDeps ws).all fun d => decide (d.1 < v.qCount)
  let tokened := !marker && decide (pkScope ws < 64)
  let (s, seen) := s.packetHeader vf q.ctx ws
  let p : Packet := { words := ws, addr := q.base + BitVec.ofNat 64 (64 * q.head), queue := some (queue, q.head),
                      scope := if tokened then some (pkScope ws) else none, launch := s.nextLaunch, seen := seen, code := s.snapshot }
  let q' : Queue := { q with head := q.wrap (q.head + 1), taken := q.taken ++ [({ launch := s.nextLaunch, fence := pkFence ws, done := marker } : Taken)] }
  let s := { (s.onVf vf fun v => { v with queues := v.queues.set queue q'.retire, lastQueue := queue }) with nextLaunch := s.nextLaunch + 1 }
  let s := if tokened then s.scopeUp vf q.ctx (pkScope ws) 1 else s
  if marker then s else s.onCtx vf q.ctx fun c => { c with checking := c.checking ++ [p] }

/-- PACKET_TAKE (11 R296, R308): the manager takes the packet of a host queue, or, for a queue number of 65,536, the first
device packet of the running context, where that packet is the one it serves next (DEDUCED, log 40). The stop phase takes
device packets alone, so that a slaunch can complete (11 R320) (DEDUCED, log 41). -/
def execPacketTake (vf queue : Nat) (s : State) : Out :=
  match s.running vf with
  | none => .next s
  | some ctx =>
    let c := s.ctx vf ctx
    if c.phase = .save ∨ (c.phase = .stop ∧ queue < 65536) then .next s
    else if queue ≥ 65536 then
      match c.devq with
      | [] => .next s
      | p :: ps =>
        if c.phase ≠ .stop ∧ (s.readyQueues vf ctx).any fun r => decide (r.2 > pkPrio p.words) then .next s
        else .next (s.onCtx vf ctx fun c => { c with devq := ps, checking := c.checking ++ [p] })
    else if ((s.vf vf).queues.get {} queue).ctx ≠ ctx then .next s
    else
      match s.headPacket vf queue with
      | .none => .next s
      | .fault => .next (s.stopQueue vf queue ((s.vf vf).queues.get {} queue).head 0 true)
      | .packet ws =>
        if s.packetReady vf queue ws && s.serves vf ctx queue (pkPrio ws) then .next (s.takeHost vf queue ws) else .next s

/-! ### The check (01 R29; 02 R60, R61; 11 R298, R299) -/

/-- A field of a kernel header of 128 bytes. -/
def hdrField (x off hi lo : Nat) : Nat := recField x (8 * off + hi) (8 * off + lo)

/-- The header's fields. -/
def Header.ofRaw (x : Nat) : Header :=
  { groups := hdrField x 4 4 0, vregs32 := hdrField x 4 10 5, rdv := hdrField x 4 15 11, spill := hdrField x 4 23 16,
    poison := hdrField x 4 24 24 == 1, raceCheck := hdrField x 4 25 25 == 1, spad := hdrField x 8 31 0, recCount := hdrField x 12 8 0,
    featMask := BitVec.ofNat 128 (hdrField x 16 127 0), roleMap := BitVec.ofNat 64 (hdrField x 32 63 0),
    laneEntry := BitVec.ofNat 64 (hdrField x 0x30 63 0), scalarEntry := BitVec.ofNat 64 (hdrField x 0x38 63 0),
    trapHandler := BitVec.ofNat 64 (hdrField x 0x40 63 0), emuHandler := BitVec.ofNat 64 (hdrField x 0x48 63 0),
    recTab := BitVec.ofNat 64 (hdrField x 0x50 63 0) }

/-- A canonical address that a mask of low bits leaves. -/
def alignedCanonical (a : W64) (n : Nat) : Bool := canonical a && a.toNat % n == 0

/-- The values the header allows (02 R60). -/
def headerOk (x : Nat) : Bool :=
  let h := Header.ofRaw x
  let handlerOk (a : W64) : Bool := a == 0 || alignedCanonical a 4
  hdrField x 0 31 24 == 0 && hdrField x 0 23 16 == 1 && hdrField x 0 15 0 == 0x4F4C && hdrField x 4 31 26 == 0
  && decide (h.rdv ≤ 24) && decide (1 ≤ h.vregs32 ∧ h.vregs32 ≤ 32) && decide (1 ≤ h.groups ∧ h.groups ≤ 16)
  && h.spad % 128 == 0 && decide (384 + h.groups * h.spill * 32 ≤ h.spad ∧ h.spad ≤ 786432)
  && hdrField x 12 31 9 == 0 && decide (h.recCount ≤ 256) && hdrField x 0x28 63 0 == 0 && hdrField x 0x58 319 0 == 0
  && h.roleMap.toNat / 16 ^ h.groups == 0 && alignedCanonical h.laneEntry 4 && alignedCanonical h.scalarEntry 4
  && handlerOk h.trapHandler && handlerOk h.emuHandler && (h.recCount == 0 || alignedCanonical h.recTab 64)

/-- Group-registers of a team (01 R23). -/
def Header.regs (h : Header) : Nat := 32 * h.groups * h.vregs32

/-- The header read at the check stage (02 R61): its content is what stood there when the packet arrived. A header that is not in the
header cache, or was not when the packet arrived, is translated now; none where that fails (DEDUCED, log 40). -/
def State.readHeader (s : State) (vf ctx : Nat) (p : Packet) : Option Nat :=
  let a := pkHdr p.words
  match p.seen, s.hdrCache.lookup (vf, ctx, a) with
  | some x, some _ => some x
  | _, _ =>
    match s.xlateRange vf ctx { kind := 8 } a 128 with
    | .error _ => none
    | .ok ps => some (p.seen.getD ((s.asOf p.code).loadParts ps).2)

/-- The core of each team (11 R299); none for a bad map. -/
def State.placement (s : State) (vf ctx : Nat) (ws : List W64) : Option (List Nat) :=
  let n := pkTeams ws
  let p := pkPlace ws
  if pkPmode ws then
    if bits p 63 30 ≠ 0 then none
    else some ((List.range n).map fun i => bits p 9 0 + bits p 19 10 * (i / (bits p 29 20 + 1)))
  else if !alignedCanonical p 64 then none
  else
    match s.loadVa vf ctx { kind := 8 } p (2 * n) with
    | .error _ => none
    | .ok (_, x) =>
      let es := (List.range n).map fun i => recField x (16 * i + 15) (16 * i)
      if es.all (decide <| · < 1024) then some es else none

/-- A logical core exists in a VF's partition (01 R29; 14 R390). -/
def State.coreOf (s : State) (vf core : Nat) : Bool :=
  decide (core < 768) && (s.coreMap.get {} core).present && bit (s.vf vf).part (clusterOfCore core)

/-- The teams of a span that share a core fit it together, and the span's cores are of one cluster (01 R29). -/
def spanOk (h : Header) (cores : List Nat) : Bool :=
  (cores.all fun c => clusterOfCore c == clusterOfCore (cores.headD 0))
  && cores.all fun c =>
    let k := cores.count c
    decide (k ≤ 4 ∧ k * h.groups ≤ 16 ∧ k * h.regs ≤ 2048 ∧ k * h.spad ≤ 786432)

/-- The packet's own fields (11 R298). -/
def launchFieldsOk (v : Vf) (p : Packet) : Bool :=
  let ws := p.words
  let n := pkTeams ws
  let sp := pkSpan ws
  pkKind ws == 1 && pkReservedOk ws && decide (1 ≤ n) && decide (sp ≤ 24) && (sp == 0 || n % sp == 0)
  && alignedCanonical (pkHdr ws) 128
  && (match p.queue with
      | some _ => decide (pkScope ws < 64) && (pkDeps ws).all fun d => decide (d.1 < v.qCount)
      | none => !pkSer ws && pkDepv ws == 0 && !pkFence ws)

/-- What the check of a packet finds. -/
inductive Checked where
  | legal (h : Header) (place : List Nat)
  | illegal
  | mismatch

/-- The check of R29. -/
def State.check (s : State) (vf ctx : Nat) (p : Packet) : State × Checked :=
  if !launchFieldsOk (s.vf vf) p then (s, .illegal)
  else
    match s.readHeader vf ctx p with
    | none => (s, .illegal)
    | some raw =>
      match s.placement vf ctx p.words with
      | none => (s, .illegal)
      | some place =>
        let h := Header.ofRaw raw
        let sp := pkSpan p.words
        let spans := if sp = 0 then [] else (List.range (place.length / sp)).map fun k => (place.drop (k * sp)).take sp
        if !headerOk raw || !decide (h.regs ≤ 2048) || !(place.all fun c => s.coreOf vf c) || !spans.all (spanOk h) then (s, .illegal)
        else if place.all fun c => (h.featMask &&& ~~~((s.feat0 c).zeroExtend 128)) == 0 then (s, .legal h place)
        else (s, .mismatch)

/-- A launch fault (01 R29; 11 R297, R303, R306): the token returns, the scope records it, a host packet's queue stops. -/
def State.launchFault (s : State) (vf ctx : Nat) (p : Packet) (cause : Nat) : State :=
  let s := match p.scope with
    | some k => (s.scopeError vf ctx k cause 0xFFFFFF p.tpc p.addr).scopeDown vf ctx k 1
    | none => s
  match p.queue with
  | none => s
  | some (q, i) =>
    let s := s.onVf vf fun v =>
      let x : Queue := v.queues.get {} q
      { v with queues := v.queues.set q { x with taken := x.taken.filter fun t => t.launch != p.launch } }
    s.stopQueue vf q i cause false

/-- Acceptance (01 R28; 11 R301, R303): the token is replaced by TEAMS, and the teams are placed. The launch's place in the order
of acceptance is the next number. -/
def State.accept (s : State) (vf ctx : Nat) (p : Packet) (h : Header) (place : List Nat) : State :=
  let n := pkTeams p.words
  let scope := p.scope.getD 0
  let l : Launch :=
    { vf := vf, ctx := ctx, hdr := h, args := pkArgs p.words, teams := n, span := pkSpan p.words, prio := pkPrio p.words, scope := scope,
      queue := p.queue.map (·.1), place := place, waiting := List.range n, order := s.nextLaunch, code := some p.code }
  { (s.scopeUp vf ctx scope (n - 1)) with launches := s.launches.set p.launch l, nextLaunch := s.nextLaunch + 1 }

/-- LAUNCH_CHECK (01 R28, R29): the oldest taken packet of a context is checked. A device marker completes at once. -/
def execLaunchCheck (vf ctx : Nat) (s : State) : Out :=
  match (s.ctx vf ctx).checking with
  | [] => .next s
  | p :: ps =>
    let s := s.onCtx vf ctx fun c => { c with checking := ps }
    if p.queue.isNone && pkKind p.words == 2 && pkMarkerOk p.words && !pkSer p.words && pkDepv p.words == 0 && !pkFence p.words then
      .next (match p.scope with | some k => s.scopeDown vf ctx k 1 | none => s)
    else
      match s.check vf ctx p with
      | (s, .legal h place) => .next (s.accept vf ctx p h place)
      | (s, .illegal) => .next (s.launchFault vf ctx p causeLaunch)
      | (s, .mismatch) => .next (s.launchFault vf ctx p causeFeature)

/-! ### Team start (01 R23, R30; 03 R66; 11 R301, R323) -/

/-- The resident teams of a core. -/
def State.residents (s : State) (core : Nat) : List (Nat × Team) := s.teams.filter fun (p : Nat × Team) => p.2.live && p.2.core == core
/-- The resident teams of a context. -/
def State.residentsOf (s : State) (vf ctx : Nat) : List (Nat × Team) :=
  s.teams.filter fun (p : Nat × Team) => p.2.live && p.2.vf == vf && p.2.ctx == ctx

/-- Saved size of a team (11 R323). -/
def Header.saveSize (h : Header) : Nat := 8192 + 12288 * h.groups * h.vregs32 + h.spad
/-- Saved size of teams, given as headers with their cores. -/
def savedSize (ts : List (Nat × Header)) : Nat := (ts.map fun t => t.2.saveSize).sum + 266240 * (ts.map (·.1)).dedup.length
/-- The save budget of a VF; none without a reservation. -/
def Vf.budget (v : Vf) : Option Nat := if v.saveB = 0 then none else some (v.saveB * 1000 * (46 - v.saveG))
/-- CTXSTAT bit 16: the resident teams of a context exceed the budget. -/
def State.unbounded (s : State) (vf ctx : Nat) : Bool :=
  match (s.vf vf).budget with
  | some b => decide (savedSize ((s.residentsOf vf ctx).map fun t => (t.2.core, t.2.hdr)) > b)
  | none => false

/-- k more teams with a header fit a core beside its residents (01 R23). -/
def State.fits (s : State) (core : Nat) (h : Header) (k : Nat) : Bool :=
  let ts := (s.residents core).map (·.2)
  let groups := (ts.map fun t => (t.groups.filter fun (g : Nat × Group) => !g.2.ended).length).sum
  decide (ts.length + k ≤ 4) && decide (groups + k * h.groups ≤ 16)
  && decide ((ts.map fun t => t.hdr.regs).sum + k * h.regs ≤ 2048) && decide ((ts.map fun t => t.hdr.spad).sum + k * h.spad ≤ 786432)

/-- Offsets of a slice at which n bytes are free, at an edge of the slice or of a window, beside windows given as base and
length (DESIGN CHOICE, log 13). -/
def offsetsFor (occ : List (Nat × Nat)) (n : Nat) : List Nat :=
  ((0 :: (786432 - n) :: occ.flatMap fun w => [w.1 - n, w.1 + w.2]).filter fun o =>
    decide (o + n ≤ 786432) && occ.all fun w => decide (o + n ≤ w.1 ∨ w.1 + w.2 ≤ o)).dedup
/-- The longest run of bytes that windows leave (DESIGN CHOICE, log 13). -/
def largestHole (occ : List (Nat × Nat)) : Nat :=
  ((0 :: occ.map fun w => w.1 + w.2).map fun o =>
    if occ.any fun w => w.1 ≤ o && o < w.1 + w.2 then 0 else (occ.filter fun w => decide (w.1 ≥ o)).foldl (fun a w => min a w.1) 786432 - o).foldl max 0
/-- Where a window of n bytes may be placed: where the longest run that is left is longest (DESIGN CHOICE, log 13). -/
def placesFor (occ : List (Nat × Nat)) (n : Nat) : List Nat :=
  let os := offsetsFor occ n
  let best := (os.map fun o => largestHole ((o, n) :: occ)).foldl max 0
  os.filter fun o => largestHole ((o, n) :: occ) == best
/-- The windows of a core. -/
def State.windowsOf (s : State) (core : Nat) : List (Nat × Nat) := (s.residents core).map fun t => (t.2.winBase, t.2.hdr.spad)
/-- The teams of a list with the windows of a core one behind the other from offset o on, and the first offset behind them (DESIGN CHOICE, log 13). -/
def gatherFrom (core : Nat) : Nat → Store Team → Store Team × Nat
  | o, [] => ([], o)
  | o, (u, t) :: ts =>
    if t.live && t.core == core then
      let r := gatherFrom core (o + t.hdr.spad) ts
      ((u, { t with winBase := o }) :: r.1, r.2)
    else
      let r := gatherFrom core o ts
      ((u, t) :: r.1, r.2)
/-- Moving the windows of a core to the beginning of its slice (DESIGN CHOICE, log 13). -/
def State.gatherWindows (s : State) (core : Nat) : State × Nat :=
  let r := gatherFrom core 0 s.teams
  ({ s with teams := r.1 }, r.2)
/-- Where a core puts a window of n bytes, which it can hold (07 R173): its choice, and free. Where what is free is in pieces, its windows
move together, so that a team starts as soon as R23 allows (01 R30) (DESIGN CHOICE, log 13). -/
def State.placeWindow (s : State) (core n : Nat) : State × Nat :=
  let (s, f) := s.free 13
  match placesFor (s.windowsOf core) n with
  | [] => s.gatherWindows core
  | o :: os => (s, (o :: os).getD (f.toNat % (os.length + 1)) o)

/-- The residency slots free on a core (11 R313). -/
def State.freeSlots (s : State) (core : Nat) : List Nat :=
  let used := (s.residents core).flatMap fun t => (t.2.groups.filter fun (g : Nat × Group) => !g.2.ended).map fun (g : Nat × Group) => g.2.slot
  (List.range 16).filter fun k => !used.contains k

/-- The launch values of a group (03 R66, R68). -/
def newGroup (h : Header) (gid slot : Nat) : Group :=
  { gid := gid, role := bits h.roleMap (4 * gid + 3) (4 * gid), vcount := 32 * h.vregs32, slot := slot,
    slotA := { valid := true, pc := h.laneEntry, mask := allLanes } }

/-- Making a team of a launch resident with its launch values (03 R66); where its window lies is the core's choice
(07 R173, DESIGN CHOICE, log 13). -/
def State.startTeam (s : State) (launch index core : Nat) : State :=
  let l := s.launch launch
  let h := l.hdr
  let (s, base) := s.placeWindow core h.spad
  let slots := s.freeSlots core
  let t : Team :=
    { live := true, vf := l.vf, ctx := l.ctx, launch := launch, core := core, index := index, teams := l.teams, span := l.span,
      prio := l.prio, hdr := h, winBase := base, spc := h.scalarEntry, perfReq := (s.vf l.vf).perfDef,
      s := [(1, l.args), (2, h.recTab), (3, BitVec.ofNat 64 index), (4, BitVec.ofNat 64 l.teams)],
      groups := (List.range h.groups).map fun g => (g, newGroup h g (slots.getD g 0)) }
  let s := s.onLaunch launch fun l => { l with waiting := l.waiting.filter (· != index) }
  ({ s with teams := s.teams.set s.nextTeam t, nextTeam := s.nextTeam + 1 }).resolveGrant core

/-- The team chosen for a core: of the launches that have teams waiting for it, the highest PRIO, then the earliest; within
a launch the lowest index (11 R301). -/
def State.chosen (s : State) (core : Nat) : Option (Nat × Nat) :=
  let cands := s.launches.filterMap fun (p : Nat × Launch) =>
    let l := p.2
    let c := s.ctx l.vf l.ctx
    if c.state ≠ 2 ∨ c.phase ≠ .none then none
    else (l.waiting.find? fun i => l.place.getD i 0 == core).map fun i => (p.1, i, l.prio, l.order)
  (cands.foldl (fun (a : Option (Nat × Nat × Nat × Nat)) x =>
    match a with
    | none => some x
    | some y => if x.2.2.1 > y.2.2.1 ∨ (x.2.2.1 = y.2.2.1 ∧ x.2.2.2 < y.2.2.2) then some x else a) none).map fun x => (x.1, x.2.1)

/-- The teams that start together with a team: its span, or itself. -/
def Launch.mates (l : Launch) (i : Nat) : List Nat := if l.span = 0 then [i] else List.range' (i / l.span * l.span) l.span

/-- Starting the teams of a list. -/
def State.startTeams (s : State) (launch : Nat) (l : Launch) : List Nat → State
  | [] => s
  | m :: ms => State.startTeams (s.startTeam launch m (l.place.getD m 0)) launch l ms

/-- The batches in the progress records of a core: team, record and batch. -/
def State.batchesOf (s : State) (core : Nat) : List (Nat × Nat × Batch) :=
  (s.residents core).flatMap fun (p : Nat × Team) => p.2.batches.map fun (b : Nat × Batch) => (p.1, b.1, b.2)

/-- A batch has no tile at (x, y) waiting or in a team. -/
def Batch.clearOf (b : Batch) (x y : Nat) : Bool :=
  !(b.jobs.any fun j => j.tx == x && j.ty == y) && !(b.running.any fun r => r.2.1 == x && r.2.2 == y)

/-- The tiles of a list whose earlier tiles at the same place are in it no longer. -/
def firstFree (ok : RasterJob → Bool) : List RasterJob → List RasterJob → Option RasterJob
  | _, [] => none
  | seen, j :: js => if ok j && !(seen.any fun i => i.tx == j.tx && i.ty == j.ty) then some j else firstFree ok (seen ++ [j]) js

/-- The tile of a batch whose team starts next (12 R338, R340): the first; in an ordered draw the first for whose tile no
earlier team waits or runs, in this batch or an earlier ordered one of the core on the same target. -/
def State.nextJob (s : State) (core : Nat) (b : Batch) : Option RasterJob :=
  if !b.draw.ordered then b.jobs.head?
  else
    let earlier := ((s.batchesOf core).map (·.2.2)).filter fun c => c.order < b.order && c.draw.ordered && c.img == b.img
    firstFree (fun j => !(b.running.any fun r => r.2.1 == j.tx && r.2.2 == j.ty)
      && earlier.all fun c => decide (c.next ≥ c.pcount) && c.clearOf j.tx j.ty) [] b.jobs

/-- A raster team of a cluster waits (12 R338): it becomes resident before any waiting ordinary team. -/
def State.rasterWaits (s : State) (cl : Nat) : Bool :=
  (List.range' (24 * cl) 24).any fun c => (s.batchesOf c).any fun (b : Nat × Nat × Batch) => (s.nextJob c b.2.2).isSome

/-- TEAM_START (01 R30; 11 R301, R323): the chosen team of a core, with its span, starts when it fits. -/
def execTeamStart (core : Nat) (s : State) : Out :=
  match s.chosen core with
  | none => .next s
  | some (k, i) =>
    let l := s.launch k
    let ms := l.mates i
    let cores := ms.map fun m => l.place.getD m 0
    let usable (c : Nat) : Bool := (s.cluster (clusterOfCore c)).on && !(s.core c).quarantined && s.coreOf l.vf c
      && (match s.chosen c with | some (k', j) => k' == k && ms.contains j | none => false)
      && s.fits c l.hdr (cores.count c)
    let here := s.residentsOf l.vf l.ctx
    let size := savedSize (here.map (fun t => (t.2.core, t.2.hdr)) ++ cores.map fun c => (c, l.hdr))
    let saves := match (s.vf l.vf).budget with | none => true | some b => (here.isEmpty && ms.length == 1) || decide (size ≤ b)
    if cores.all usable && saves && !(cores.any fun c => s.rasterWaits (clusterOfCore c)) then .next (s.startTeams k l ms) else .next s

/-! ### Team end (01 R34; 06 R155) -/

/-- The raster teams of a team that are resident (12 R338). -/
def State.rasterTeams (s : State) (uid : Nat) : List (Nat × Team) :=
  s.teams.filter fun (p : Nat × Team) => match p.2.raster with | some r => p.2.live && r.parent == uid | none => false

/-- The engine commands of a team that have not completed, and its raster work. -/
def State.teamBusy (s : State) (uid : Nat) : Bool :=
  let t := s.teamOf uid
  let colls := s.collWait ++ s.colls.flatMap fun g => g.ranks.map (·.2)
  !t.batches.isEmpty || !(s.rasterTeams uid).isEmpty || !t.matOps.isEmpty || !t.maccOps.isEmpty || (s.cores.any fun (c : Nat × Core) => c.2.copies.any fun (p : Nat × CopyOp) => p.2.uid == uid)
  || (colls.any fun c => c.uid == uid && !c.done) || s.ringActs.any fun a => a.2.2.uid == uid

/-- Withdrawing a team's collectives that not every rank has joined (11 R320) (DEDUCED, log 27). -/
def State.withdrawColls (s : State) (uid : Nat) : State × List CollOp :=
  let partial_ (g : Coll) : Bool := match g.ranks.head? with | some (_, c) => g.ranks.length != c.n | none => true
  let mine := (s.collWait.filter fun c => c.uid == uid)
    ++ (s.colls.filter partial_).flatMap fun g => (g.ranks.map (·.2)).filter fun c => c.uid == uid
  ({ s with
      collWait := s.collWait.filter fun c => c.uid != uid,
      colls := (s.colls.map fun (g : Coll) => if partial_ g then { g with ranks := g.ranks.filter fun (p : Nat × CollOp) => p.2.uid != uid } else g).filter
        fun g => !g.ranks.isEmpty }, mine)

/-- Tiles of an aborted launch's batches start no team (06 R155): what its batches merge by themselves goes on (DEDUCED, log 27). -/
def Team.dropJobs (t : Team) : Team := { t with batches := t.batches.map fun (p : Nat × Batch) => (p.1, { p.2 with jobs := [] }) }

/-- The scrub of a context stop (06 R159) drops the commands of a stopped team that may wait for ever: ring actions that
need not complete, batches, collectives not joined by every rank, and array operations that wait for a feed point. After a
launch abort every command runs to completion (06 R155) (DEDUCED, log 27). -/
def State.settleAborted (s : State) (uid : Nat) : State :=
  if !(s.teamOf uid).scrubbed then s.onTeam uid Team.dropJobs else
  let s := s.cancelRing uid
  let s := s.onTeam uid fun t => { t with ringHeld := [], batches := [] }
  let (s, cs) := s.withdrawColls uid
  let s := cs.foldl (fun s c => s.pubCount c.vf c.pub false) s
  s.onTeam uid fun t =>
    match nextArrayOp t with
    | some (n, o) => if feedOk t o (t.mprog.get 0 n).toNat then t else { t with matOps := [] }
    | none => t

/-- Freeing a team: its core, the ACM it owned, the records cached for its launch, its request for a level. -/
def State.freeTeam (s : State) (uid : Nat) : State :=
  let t := s.teamOf uid
  let s := { s with teams := s.teams.erase uid }
  let last := (s.residents t.core).all fun p => p.2.launch != t.launch
  let s := s.onCore t.core fun c =>
    { c with acm := if c.acmOwner = some uid then [] else c.acm, acmOwner := if c.acmOwner = some uid then none else c.acmOwner,
             recs := if last then c.recs.filter fun (r : Nat × Nat) => r.1 / 256 != t.launch else c.recs }
  s.resolveGrant t.core

/-- The team's streams have exited. -/
def Team.over (t : Team) : Bool := !t.srun && t.groups.all fun (g : Nat × Group) => g.2.ended

/-! ### Scopes (11 R309-R311) -/

/-- The status word of a scope (11 R311). -/
def Context.status (c : Context) (k : Nat) : W64 :=
  let x := c.scope k
  if !x.valid then 0x400
  else BitVec.ofNat 64 (x.count % 2 ^ 32 * 2 ^ 32 + (if x.err then 0x200 else 0) + (if Context.done 257 c k then 0x100 else 0) + x.cause)

/-- The lowest free device scope. -/
def Context.freeScope (c : Context) : Option Nat := (List.range' 64 192).find? fun k => !(c.scope k).valid

/-- A scope and every valid scope below it. -/
def Context.below : Nat → Context → Nat → List Nat
  | 0, _, k => [k]
  | n + 1, c, k => k :: ((List.range' 64 192).filter fun j => (c.scope j).valid && (c.scope j).hasParent && (c.scope j).parent == k).flatMap (Context.below n c)

/-- Creating a scope below a parent (11 R309): its index, or the TVAL of FINISH_OVERFLOW. -/
def Context.newScope (c : Context) (parent : Nat) : Except W64 (Context × Nat) :=
  if !(c.scope parent).valid then .error (BitVec.ofNat 64 (2 ^ 63 + parent))
  else
    match c.freeScope with
    | none => .error (BitVec.ofNat 64 parent)
    | some n => .ok ({ c with scopes := c.scopes.set n { valid := true, hasParent := true, parent := parent } }, n)

/-- sfsnew (11 R309). -/
def execSfsnew (w : S32) (s : State) : Out :=
  let t := s.team
  match (s.ctx t.vf t.ctx).newScope (bits (s.rs w.a.toNat) 7 0) with
  | .error v => .next (s.raiseScalar { cause := causeFinish, tval := v } 4)
  | .ok (c, n) => .next (((s.onCtx t.vf t.ctx fun _ => c).ws w.d.toNat (BitVec.ofNat 64 n)).retireScalar 4)

/-- sfswait (11 R310). -/
def execSfswait (w : S32) (s : State) : Out :=
  let t := s.team
  let k := bits (s.rs w.a.toNat) 7 0
  let c := s.ctx t.vf t.ctx
  let st := c.status k
  if w.f = 2 ∨ !(c.scope k).valid then .next ((s.ws w.d.toNat st).retireScalar 4)
  else if !Context.done 257 c k then .next s.wait
  else
    let s := if w.f = 1 ∧ k ≥ 64 then
        s.onCtx t.vf t.ctx fun c => { c with scopes := (Context.below 257 c k).foldl (fun m j => m.erase j) c.scopes }
      else s
    .next ((s.ws w.d.toNat st).retireScalar 4)

/-- sqfence (11 R312). -/
def execSqfence (w : S32) (s : State) : Out :=
  let v := s.vf s.team.vf
  let q := bits (s.rs w.a.toNat) 15 0
  if q ≥ v.qCount then .next ((s.ws w.d.toNat (BitVec.allOnes 64)).retireScalar 4)
  else
    let f := (v.queues.get {} q).fence
    if w.f = 1 ∧ f < bits (s.rs w.b.toNat) 47 0 then .next s.wait else .next ((s.ws w.d.toNat (BitVec.ofNat 64 f)).retireScalar 4)

/-! ### slaunch (11 R308) -/

/-- The device launch queue takes the packet, once it has room. -/
def State.enqueueLaunch (s : State) (w : S32) (ws : List W64) (scope : Nat) : State :=
  let t := s.team
  let c := s.ctx t.vf t.ctx
  if c.devq.length ≥ 256 then ({ s with team := { t with sphase := 1, launching := some (w, ws, scope) } }).wait
  else
    let (s, seen) := s.packetHeader t.vf t.ctx ws
    let p : Packet :=
      { words := ws, addr := s.rs w.a.toNat, tpc := t.spc, scope := some scope, launch := s.nextLaunch, seen := seen, code := s.snapshot }
    let s := { (s.onCtx t.vf t.ctx fun c => { c with devq := c.devq ++ [p] }) with
               nextLaunch := s.nextLaunch + 1, team := { t with launching := none } }
    (s.ws w.d.toNat (BitVec.ofNat 64 scope)).retireScalar 4

/-- slaunch (11 R308). -/
def execSlaunch (w : S32) (s : State) : Out :=
  let t := s.team
  match t.launching with
  | some (w, ws, scope) => .next (s.enqueueLaunch w ws scope)
  | none =>
    let a := s.rs w.a.toNat
    if bits a 5 0 ≠ 0 then .next (s.raiseScalar { cause := causeMisalign, tval := a } 4)
    else
      match s.loadVa t.vf t.ctx { kind := 8 } a 64 with
      | .error e => .next (s.stopScalar 4 e)
      | .ok (s, x) =>
        let ws := wordsOf x
        let c := s.ctx t.vf t.ctx
        let scope : Except W64 (Context × Nat) :=
          if w.f = 1 then c.newScope (pkScope ws)
          else if (c.scope (pkScope ws)).valid then .ok (c, pkScope ws) else .error (BitVec.ofNat 64 (2 ^ 63 + pkScope ws))
        match scope with
        | .error v => .next (s.raiseScalar { cause := causeFinish, tval := v } 4)
        | .ok (c, n) =>
          let ws := if w.b = 0 then ws else ws.set 3 (s.rs w.b.toNat)
          let s := (s.onCtx t.vf t.ctx fun _ => c).scopeUp t.vf t.ctx n 1
          .next (s.enqueueLaunch w ws n)

/-! ### Queue registers (11 R294, R295) -/

/-- DOORBELL_WRITE (11 R294) (DEDUCED, log 40). -/
def execDoorbellWrite (vf queue : Nat) (tail : W64) (s : State) : Out :=
  if queue ≥ (s.vf vf).qCount then .next s
  else .next (s.onVf vf fun v =>
    let q : Queue := v.queues.get {} queue
    { v with queues := v.queues.set queue { q with tail := tail.toNat % 2 ^ q.n } })

/-- Changing the queue that QSEL selects, where the VF has it. -/
def State.onQueue (s : State) (vf : Nat) (f : Queue → Queue) : State :=
  let v := s.vf vf
  if v.qsel ≥ v.qCount then s else s.onVf vf fun v => { v with queues := v.queues.set v.qsel (f (v.queues.get {} v.qsel)) }

/-- QRESUME (11 R294): STOP is cleared, and the queue goes on at QHEAD (DEDUCED, log 40). -/
def execQresume (vf : Nat) (value : W64) (s : State) : Out :=
  if value = 1 then .next (s.onQueue vf fun q => { q with stat := q.stat &&& ~~~0x80000000#64 }) else .next s

/-- QCFG_WRITE (11 R294, R295) (DEDUCED, log 40). -/
def execQcfgWrite (vf : Nat) (value : W64) (s : State) : Out :=
  let n := bits value 4 0
  let ctx := bits value 23 8
  let en := bit value 24
  if n < 4 ∨ n > 16 ∨ (en && (s.ctx vf ctx).state == 0) then .next s
  else .next (s.onQueue vf fun q =>
    let q' := { q with n := n, ctx := ctx, enable := en }
    if en && !q.enable then { q' with head := 0, tail := 0, fence := 0, taken := [] } else q')

/-- HCINV (02 R61): the header leaves the cache, whichever context read it (DEDUCED, log 40). -/
def execHcinv (vf : Nat) (value : W64) (s : State) : Out :=
  .next { (s.onVf vf fun v => { v with hcinv := 0 }) with
          hdrCache := s.hdrCache.filter fun e => !(e.1.1 == vf && e.1.2.2 == value) }

/-- FSRESET (11 R294, R306). -/
def execFsreset (vf : Nat) (value : W64) (s : State) : Out :=
  let v := s.vf vf
  let x := (s.ctx vf v.ctxsel).scope v.fssel
  if bit value 0 ∧ v.fssel < 64 ∧ x.count = 0 then
    .next (s.onCtx vf v.ctxsel fun c => c.onScope v.fssel fun x => { x with err := false, cause := 0, team := 0, tpc := 0, tval := 0 })
  else .next s

/-- VFSTAT_CLEAR (11 R294). -/
def execVfstatClear (vf : Nat) (value : W64) (s : State) : Out :=
  if bit value 1 then .next (s.onVf vf fun v => { v with errPending := false, errCause := 0 }) else .next s

end Sys2Proof.Machine
end

