-- ==== Sys2Proof/Machine/Preempt.lean ====
section
/-! DEFINITION. Contexts and their pre-emption (11 R316-R326), the fault queue's registers and answers (06 R161), the
timers of a group and its windows (02 R49, R50; 05 R133, R136), and the drain of a home slice (07 R203). -/

namespace Sys2Proof.Machine
open Sys2Proof

/-! ### Creation and destruction (11 R317) -/

/-- The save area is canonical, aligned, and translated page by page. -/
def State.saveAreaOk (s : State) (vf ctx : Nat) (c : Context) : Bool :=
  alignedCanonical c.saveBase 4096
  && (List.range ((c.saveSize.toNat + 4095) / 4096)).all fun i =>
      match s.xlate vf ctx { kind := 8, write := true } (c.saveBase + BitVec.ofNat 64 (4096 * i)) with | .ok _ => true | .error _ => false

/-- The cores of a VF's partition. -/
def State.partitionCores (s : State) (vf : Nat) : List Nat := (List.range 768).filter (s.coreOf vf)

/-- The error of a creation, 0 for none. -/
def State.createError (s : State) (vf ctx : Nat) : Nat :=
  let c := s.ctx vf ctx
  if !s.saveAreaOk vf ctx c then 1
  else
    match (s.vf vf).budget with
    | some b => if c.saveSize.toNat < b + 2 ^ 20 then 2 else 0
    | none => if c.saveSize.toNat < 1871872 * (s.partitionCores vf).length + 2 ^ 20 then 3 else 0

/-- CTXCMD_CREATE (11 R302, R317; 14 R386), of a free context (DEDUCED, log 41). -/
def execCtxcmdCreate (vf : Nat) (s : State) : Out :=
  let k := (s.vf vf).ctxsel
  if (s.ctx vf k).state ≠ 0 then .next s
  else
    match s.createError vf k with
    | 0 => .next (s.onCtx vf k fun c => { saveBase := c.saveBase, saveSize := c.saveSize, root := c.root, state := 1 })
    | e => .next (s.onCtx vf k fun c => { c with error := e })

/-- CTXCMD_DESTROY (11 R294): the queues that name the context are disabled; it becomes free, but for one that has launches
(DEDUCED, log 25). -/
def execCtxcmdDestroy (vf : Nat) (s : State) : Out :=
  let k := (s.vf vf).ctxsel
  let s := s.onVf vf fun v => { v with queues := v.queues.map fun (p : Nat × Queue) => (p.1, if p.2.ctx = k then { p.2 with enable := false } else p.2) }
  if (s.ctx vf k).state = 0 ∨ s.residentsOf vf k ≠ [] ∨ (s.launches.any fun p => p.2.vf == vf && p.2.ctx == k) then .next s
  else .next (s.onCtx vf k fun c => { saveBase := c.saveBase, saveSize := c.saveSize, root := c.root })

/-! ### Requests (11 R316, R319) -/

/-- A context has work: teams saved or not started, packets waiting, or a packet ready in a queue. -/
def State.hasWork (s : State) (vf ctx : Nat) : Bool :=
  let c := s.ctx vf ctx
  !c.saved.isEmpty || !c.devq.isEmpty || !c.checking.isEmpty
  || (s.launches.any fun p => p.2.vf == vf && p.2.ctx == ctx && !p.2.waiting.isEmpty) || !(s.readyQueues vf ctx).isEmpty

/-- The running context is to be pre-empted: it enters the grace phase, or the request merges into the one in progress. -/
def State.requestPreempt (s : State) (vf : Nat) : State :=
  match s.running vf with
  | some k => if (s.ctx vf k).phase = .none then s.onCtx vf k fun c => { c with phase := .grace } else s
  | none => s

/-- CTXCMD_PREEMPT (11 R319), of the selected context where it runs (DEDUCED, log 41). -/
def execCtxcmdPreempt (vf : Nat) (s : State) : Out :=
  if s.running vf = some (s.vf vf).ctxsel then .next (s.requestPreempt vf) else .next s

/-- TIME_SLICE_END (11 R316): a single ready context is never pre-empted by its own slice (DEDUCED, log 41). -/
def execTimeSliceEnd (vf : Nat) (s : State) : Out :=
  if (s.vf vf).ctxs.any fun (p : Nat × Context) => p.2.state == 1 && s.hasWork vf p.1 then .next (s.requestPreempt vf) else .next s

/-- The context of a VF in a phase. -/
def State.inPhase (s : State) (vf : Nat) (ph : Phase) : Option Nat :=
  ((s.vf vf).ctxs.find? fun (p : Nat × Context) => p.2.phase == ph).map (·.1)

/-- A context is switched out. -/
def State.switchOut (s : State) (vf ctx : Nat) : State :=
  (s.onCtx vf ctx fun c => { c with phase := .none, state := if c.state = 2 then 1 else c.state }).onVf vf fun v => { v with lastCtx := ctx }

/-! ### The stop phase (11 R320, R321; 08 R234; 09 R260) -/

/-- A copy has stopped where it may: parked, or with more than 64 KiB left and every 4 KiB of source that it has begun
complete. -/
def CopyOp.mayStop (c : CopyOp) : Bool :=
  !c.failed && (c.park != []
    || (decide (4 * c.unitWords * (c.units - c.written.length) > 65536)
        && c.written.all fun u =>
            let piece := c.at (u * c.unitWords) / 4096
            (List.range c.units).all fun w => c.at (w * c.unitWords) / 4096 != piece || c.written.contains w))

/-- A team has work in flight that the stop waits for (DEDUCED, log 41). -/
def State.teamUnsettled (s : State) (uid : Nat) : Bool :=
  let t := s.teamOf uid
  t.launching.isSome || !t.units.isEmpty || (s.ringActs.any fun a => a.2.2.uid == uid && a.2.2.mustFinish)
  || (s.cores.any fun (c : Nat × Core) => c.2.copies.any fun (p : Nat × CopyOp) => p.2.uid == uid && !p.2.mayStop)
  || s.colls.any fun g =>
      (match g.ranks.head? with | some (_, c) => g.ranks.length == c.n | none => false)
      && (g.ranks.all fun (p : Nat × CollOp) => p.2.park.isEmpty) && g.ranks.any fun (p : Nat × CollOp) => p.2.uid == uid && !p.2.done

/-- Taking a team's copies out of their engines. -/
def State.takeCopies (s : State) (uid : Nat) : State × List (Nat × CopyOp) :=
  let mine := s.cores.flatMap fun (c : Nat × Core) => (c.2.copies.filter fun (p : Nat × CopyOp) => p.2.uid == uid).map fun (p : Nat × CopyOp) => (c.1, p.2)
  ({ s with cores := s.cores.map fun (c : Nat × Core) => (c.1, { c.2 with copies := c.2.copies.filter fun (p : Nat × CopyOp) => p.2.uid != uid }) }, mine)

/-- At the stop a trace not yet returned is cancelled, to start again from its operands; every other ray slot and the
candidates are discarded (12 R357). -/
def Group.settleRays (g : Group) : Group :=
  let forget (f : Fragment) : Fragment :=
    { f with windows := f.windows.map fun w => { w with rays := w.rays.map fun x => (x.1, []) } }
  { g with
    slotA := forget g.slotA, slotB := forget g.slotB,
    rays := (g.rays.filter fun (p : Nat × RaySlot) => p.2.busy).map fun (p : Nat × RaySlot) =>
      let r := p.2
      (p.1, { args := r.again, again := r.again, word := r.word, busy := true, window := r.window, dest := r.dest,
              limit := r.again.regs.getD 7 0, outside := r.outside, park := r.park }) }

/-- A team's work settles: its ring actions are cancelled, its array operations lose their grants, its traces and copies
stop, and the collectives not joined by every rank are withdrawn. -/
def State.settleTeam (s : State) (vf ctx uid : Nat) : State :=
  let s := s.cancelRing uid
  let s := s.onTeam uid fun t =>
    { t with matOps := t.matOps.map (fun (p : Nat × MatOp) => (p.1, { p.2 with granted := false, feedWait := false })),
             groups := t.groups.map fun (p : Nat × Group) => (p.1, p.2.settleRays) }
  let (s, copies) := s.takeCopies uid
  let (s, colls) := s.withdrawColls uid
  s.onCtx vf ctx fun c => { c with heldCopies := c.heldCopies ++ copies, heldColls := c.heldColls ++ colls }

/-- A slaunch that waits for room completes as soon as there is some (11 R320). -/
def State.settleLaunch (s : State) (uid : Nat) : State :=
  match (s.teamOf uid).launching with
  | none => s
  | some (w, ws, scope) => s.asScalar uid fun s => s.enqueueLaunch w ws scope

/-- STOP_PHASE_SETTLED (11 R319): every core of the partition has settled (DEDUCED, log 41). -/
def execStopPhaseSettled (vf : Nat) (s : State) : Out :=
  match s.inPhase vf .stop with
  | none => .next s
  | some k =>
    let uids := (s.residentsOf vf k).map (·.1)
    let s := uids.foldl (fun s u => (s.cancelRing u).settleLaunch u) s
    if uids.any s.teamUnsettled then .next s
    else .next ((uids.foldl (fun s u => s.settleTeam vf k u) s).onCtx vf k fun c => { c with phase := .save })

/-! ### The save (11 R322; 14 R388) -/

/-- n free words as one number (DESIGN CHOICE, log 17). -/
def State.freeWords (s : State) (purpose : Nat) : Nat → State × Nat
  | 0 => (s, 0)
  | n + 1 =>
    let (s, x) := s.free purpose
    let (s, y) := State.freeWords s purpose n
    (s, x.toNat + 2 ^ 64 * y)

/-- A save of n pages: the known bytes, free bytes for what has no layout, and the SHA-512 digest of all of them, rotated by a free
number of bytes, since the layout is the part's (14 R388) (DESIGN CHOICE, log 17). -/
def State.formImage (s : State) (known : Nat × Nat) (n : Nat) : State × List Nat :=
  let total := 4096 * n - 64
  let (s, f) := s.freeWords 17 (total / 8)
  let body := (known.1 + 2 ^ (8 * known.2) * f) % 2 ^ (8 * total)
  let x := body + 2 ^ (8 * total) * numberOf (sha512 (bytesOf body total))
  let (s, r) := s.free 17
  let k := 8 * (r.toNat % (4096 * n))
  let y := x / 2 ^ k + x % 2 ^ k * 2 ^ (32768 * n - k)
  (s, (List.range n).map fun i => y / 2 ^ (32768 * i) % 2 ^ 32768)

/-- Writing pages of the save area from page i on; none where a page cannot be written. -/
def State.savePages (s : State) (vf ctx : Nat) (base : W64) : List Nat → Nat → Option State
  | [], _ => some s
  | x :: xs, i =>
    match s.storeVa vf ctx { kind := 8, write := true } (base + BitVec.ofNat 64 (4096 * i)) 4096 x with
    | .error _ => none
    | .ok s => State.savePages s vf ctx base xs (i + 1)

/-- The ACM slots in use of a team that owns its core's ACM (08 R235). -/
def State.acmImage (s : State) (uid : Nat) (t : Team) : Option (Store Byte) :=
  let c := s.core t.core
  if c.acmOwner = some uid then some (c.acm.filter fun b => bit t.acmUsed (b.1 / 16384)) else none

/-- Moving a team into its context's save, off its core (DESIGN CHOICE, log 17). -/
def State.saveTeam (s : State) (vf ctx uid : Nat) : State :=
  let t := s.teamOf uid
  let t' := { t with live := false, acmSaved := s.acmImage uid t }
  (s.freeTeam uid).onCtx vf ctx fun c => { c with saved := c.saved.set uid t' }

/-- A context is lost (11 R326): its launches stop with UE at a free location (DEDUCED, log 41). -/
def State.loseContext (s : State) (vf ctx : Nat) (loc : W64) : State :=
  (s.stopContext vf ctx causeUe loc).onCtx vf ctx fun c => { c with state := 3, phase := .none }

/-- A save of a context that writes size bytes, the images of the given teams among them: what was written is kept for the resume, or the
context is lost (14 R386-R388; 11 R326). -/
def State.saveContext (s : State) (vf ctx size : Nat) (ts : List (Nat × Team)) : State :=
  let c := s.ctx vf ctx
  let known := joinImages (scopesImage c.scope :: ts.flatMap fun (t : Nat × Team) => t.2.groups.map fun (g : Nat × Group) => g.2.image)
  let (s, image) := s.formImage known ((max size (known.2 + 64) + 4095) / 4096)
  match s.savePages vf ctx c.saveBase image 0 with
  | none => let (s, loc) := s.free 100; s.loseContext vf ctx loc
  | some s =>
    let s := (ts.map (·.1)).foldl (fun s u => s.saveTeam vf ctx u) s
    (s.onCtx vf ctx fun c => { c with saveImage := image }).switchOut vf ctx

/-- SAVE_COMPLETE (11 R319, R322, R326) (DEDUCED, log 41). -/
def execSaveComplete (vf : Nat) (s : State) : Out :=
  match s.inPhase vf .save with
  | none => .next s
  | some k =>
    let ts := s.residentsOf vf k
    .next (s.saveContext vf k (savedSize (ts.map fun t => (t.2.core, t.2.hdr))) ts)

/-- GRACE_PHASE_END (11 R319): the boundary, where no team is resident, and what waits is saved; otherwise every stream stops
(DEDUCED, log 41). -/
def execGracePhaseEnd (vf : Nat) (s : State) : Out :=
  match s.inPhase vf .grace with
  | none => .next s
  | some k =>
    if s.residentsOf vf k = [] then .next (s.saveContext vf k 0 [])
    else
      let s := s.mapTeams fun _ t => if t.vf = vf && t.ctx = k && t.live then { t with stopped := true } else t
      .next (s.onCtx vf k fun c => { c with phase := .stop })

/-! ### Resumption (11 R316, R324; 01 R37; 14 R388) -/

/-- The ready context that runs next: the first with work after the one that ran last. -/
def State.nextContext (s : State) (vf : Nat) : Option Nat :=
  let v := s.vf vf
  let ready := (v.ctxs.filter fun (p : Nat × Context) => p.2.state == 1 && s.hasWork vf p.1).map (·.1)
  match ready.find? fun k => decide (k > v.lastCtx) with | some k => some k | none => ready.head?

/-- What the save wrote still stands in the save area; none where a page cannot be read (DESIGN CHOICE, log 17). -/
def State.imageStands (s : State) (vf ctx : Nat) (base : W64) : Nat → List Nat → Bool
  | _, [] => true
  | i, x :: xs =>
    (match s.loadVa vf ctx { kind := 8 } (base + BitVec.ofNat 64 (4096 * i)) 4096 with | .ok (_, y) => x == y | .error _ => false)
    && State.imageStands s vf ctx base (i + 1) xs

/-- The span of a saved team; raster teams apart. -/
def Team.spanKey (t : Team) : Nat × Nat :=
  match t.raster with
  | some r => (t.launch, 2 ^ 32 * (r.batch + 1) + t.index)
  | none => (t.launch, if t.span = 0 then t.index else t.index / t.span)

/-- The cores of a span on another cluster: the same positions. -/
def moveTo (cl : Nat) (cores : List Nat) : List Nat := cores.map fun c => 24 * cl + c % 24

/-- A core that a span may go to: in the partition, and not in quarantine (11 R324). -/
def State.placeable (s : State) (vf c : Nat) : Bool := s.coreOf vf c && !(s.core c).quarantined

/-- Where each span goes: back, or to the lowest cluster of the partition whose cores at the same positions are free. A list
of old and new cores per span; none where a span has no place (DEDUCED, log 41). -/
def State.placeSpans (s : State) (vf : Nat) : List ((Nat × Nat) × List Nat) → List Nat → Option (List ((Nat × Nat) × Nat × Nat))
  | [], _ => some []
  | (key, cores) :: rest, taken =>
    let target : Option (List Nat) :=
      if cores.all (s.placeable vf) then some cores
      else ((List.range 32).map fun cl => moveTo cl cores).find? fun cs => cs.all fun c => s.placeable vf c && !taken.contains c
    match target with
    | none => none
    | some cs =>
      match State.placeSpans s vf rest (taken ++ cs) with
      | none => none
      | some m => some ((cores.zip cs).map (fun p => (key, p.1, p.2)) ++ m)

/-- The places of the spans of a context's saved teams: those that can return first (DEDUCED, log 41). -/
def State.spanPlaces (s : State) (vf : Nat) (saved : Store Team) : Option (List ((Nat × Nat) × Nat × Nat)) :=
  let keys := (saved.map fun (p : Nat × Team) => p.2.spanKey).reverse.dedup.reverse
  let coresOfSpan (key : Nat × Nat) : List Nat := ((saved.filter fun (p : Nat × Team) => p.2.spanKey == key).map fun (p : Nat × Team) => p.2.core).dedup
  let (back, moved) := (keys.map fun key => (key, coresOfSpan key)).partition fun x => x.2.all (s.placeable vf)
  s.placeSpans vf (back ++ moved) []

/-- The cores of a launch's teams once every span that has not started has one (11 R324, 14 R392): where it was, or the same position of
the lowest cluster of the partition that holds its span; none where no cluster does (DEDUCED, log 41). -/
def State.launchPlaces (s : State) (l : Launch) : Option (List Nat) :=
  let target (i : Nat) : Option Nat :=
    let cores := (l.mates i).map fun m => l.place.getD m 0
    let c := l.place.getD i 0
    if cores.all (s.coreOf l.vf) then some c
    else ((List.range 32).find? fun cl => (moveTo cl cores).all (s.coreOf l.vf)).map fun cl => 24 * cl + c % 24
  if l.waiting.all fun i => (target i).isSome then some (l.waiting.foldl (fun p i => p.set i ((target i).getD 0)) l.place) else none

/-- Placing the teams of a context that have not started: none where a span has no place (DEDUCED, log 41). -/
def State.replaceWaiting (s : State) (vf ctx : Nat) : Option State :=
  (s.launches.filter fun p => p.2.vf == vf && p.2.ctx == ctx).foldl (fun r p =>
    match r, s.launchPlaces p.2 with
    | some s, some ps => some (s.onLaunch p.1 fun l => { l with place := ps })
    | _, _ => none) (some s)

/-- Residency slots for a team's groups that have not ended. -/
def Team.reslot (free : List Nat) (t : Team) : Team :=
  let live := (t.groups.filter fun (g : Nat × Group) => !g.2.ended).map (·.1)
  { t with groups := t.groups.map fun (p : Nat × Group) => (p.1, { p.2 with slot := free.getD (live.idxOf p.1) p.2.slot }) }

/-- A stack matrix-vector operation on a core without the extension is not resumed: the scalar stream traps EXT_EMU at its
instruction (06 R163). -/
def Team.dropMmv (t : Team) : Team :=
  let gone := t.matOps.filter fun (p : Nat × MatOp) => p.2.kind == 2
  { t with matOps := t.matOps.filter (fun (p : Nat × MatOp) => p.2.kind != 2),
           engineFault := t.engineFault ++ gone.map fun (p : Nat × MatOp) => (({ cause := causeEmu, tval := p.2.word.zeroExtend 64 } : Trap), some p.2.pc) }

/-- Windows that wait for a trace or an emitend on a core without the extension trap EXT_EMU at their instruction, and the
work is dropped (06 R163). -/
def Group.dropRender (rt raster : Bool) (bs : List Batch) (g : Group) : Group :=
  let emu (g : Group) (id : Nat) (w : W32) : Group :=
    let on (x : Fragment) : Fragment :=
      { x with windows := x.windows.map fun v => if v.id = id then { v with fault := some (.trap { cause := causeEmu, tval := w.zeroExtend 64 }), after := 0, waiting := 0 } else v }
    { g with slotA := on g.slotA, slotB := on g.slotB }
  let g := if rt then g else g.rays.foldl (fun g (p : Nat × RaySlot) => emu g p.2.window p.2.word) { g with rays := [] }
  if raster then g else (bs.filter fun b => b.gid == g.gid).foldl (fun g b => emu g b.window b.word) g

/-- The same for a team. -/
def Team.dropRender (rt raster : Bool) (t : Team) : Team :=
  { t with groups := t.groups.map (fun (p : Nat × Group) => (p.1, p.2.dropRender rt raster (t.batches.map (·.2)))), batches := if raster then t.batches else [] }

/-- Progress records of a core for a team's batches. -/
def State.rebatch (s : State) (t : Team) : Team :=
  let used := (s.batchesOf t.core).map (·.2.1)
  let free := (List.range 16).filter fun k => !used.contains k
  { t with batches := free.zip (t.batches.map (·.2)) }

/-- A team comes back to a core: its window may lie elsewhere (07 R173) (DESIGN CHOICE, log 13). -/
def State.resumeTeam (s : State) (uid : Nat) (t : Team) : State :=
  let slots := s.freeSlots t.core
  let (s, base) := s.placeWindow t.core t.hdr.spad
  let t' := { t.reslot slots with winBase := base, live := true, stopped := t.aborted, acmSaved := none }
  let t' := if bit (s.feat0 t.core) 0 then t' else t'.dropMmv
  let t' := s.rebatch (t'.dropRender (bit (s.feat0 t.core) 1) (bit (s.feat0 t.core) 2))
  let s := { s with teams := s.teams.set uid t' }
  let s := match t.acmSaved with | some m => s.onCore t.core fun c => { c with acmOwner := some uid, acm := m } | none => s
  (s.resumeRing uid).resolveGrant t.core

/-- A stopped copy continues in the lowest free entry of its team's core. -/
def State.resumeCopy (s : State) (c : CopyOp) : State :=
  s.onCore (s.teamOf c.uid).core fun k =>
    match (List.range 8).find? fun n => (k.copies.lookup n).isNone with
    | some n => { k with copies := k.copies.set n c }
    | none => k

/-- A withdrawn collective command is issued again from its team's core. -/
def State.resumeColl (s : State) (c : CollOp) : State := { s with collWait := s.collWait ++ [{ c with core := (s.teamOf c.uid).core }] }

/-- Resuming a context: what its save holds is restored, before any fragment issues. -/
def State.resumeContext (s : State) (vf k : Nat) : State :=
  let c := s.ctx vf k
  if !s.imageStands vf k c.saveBase 0 c.saveImage then let (s, loc) := s.free 100; s.loseContext vf k loc
  else
    match s.spanPlaces vf c.saved, s.replaceWaiting vf k with
    | some places, some s =>
      let moved := c.saved.map fun (p : Nat × Team) =>
        (p.1, { p.2 with core := ((places.find? fun x => x.1 == p.2.spanKey && x.2.1 == p.2.core).map fun x => x.2.2).getD p.2.core })
      let s := s.onCtx vf k fun c => { c with state := 2, phase := .none, saved := [], heldCopies := [], heldColls := [], saveImage := [] }
      let s := moved.foldl (fun s p => s.resumeTeam p.1 p.2) s
      let s := c.heldCopies.foldl (fun s p => s.resumeCopy p.2) s
      c.heldColls.foldl State.resumeColl s
    | _, _ => let (s, loc) := s.free 100; s.stopContext vf k causeUe loc

/-- Every core that a resume of a context would use is powered (15 R408) (DEDUCED, log 41). -/
def State.spansPowered (s : State) (vf k : Nat) : Bool :=
  match s.spanPlaces vf (s.ctx vf k).saved with
  | some ps => ps.all fun p => (s.cluster (clusterOfCore p.2.2)).on
  | none => true

/-- CONTEXT_RESUME (11 R316, R319, R324; 14 R392): a running context with nothing to run gives up its slice; the next context with
work runs, once the cores hold no team of the VF, no core of the partition waits for its repair, and the cores that it returns to are
powered (DEDUCED, log 41). -/
def execContextResume (vf : Nat) (s : State) : Out :=
  match s.nextContext vf with
  | none => .next s
  | some k =>
    if ((s.partitionCores vf).any fun c => (s.core c).quarantined) || !s.spansPowered vf k then .next s else
    let resident := s.teams.any fun (p : Nat × Team) => p.2.live && p.2.vf == vf
    match s.running vf with
    | none => if resident then .next s else .next (s.resumeContext vf k)
    | some r =>
      if resident ∨ (s.ctx vf r).phase ≠ .none ∨ s.hasWork vf r then .next s
      else .next ((s.switchOut vf r).resumeContext vf k)

/-! ### Context stops (11 R318; 06 R159) -/

/-- CONTEXT_WATCHDOG_EXPIRY (11 R318): the running context holds work, and its period is not 0 (DEDUCED, log 41). -/
def execContextWatchdogExpiry (vf : Nat) (s : State) : Out :=
  match s.running vf with
  | some k =>
    if (s.vf vf).wdog = 0 ∨ s.residentsOf vf k = [] then .next s
    else .next (s.stopContext vf k causeWatchdog 0x8000000000000000)
  | none => .next s

/-- HOST_ABORT (06 R158, R159). -/
def execHostAbort (vf ctx : Nat) (s : State) : Out :=
  if (s.ctx vf ctx).state = 0 then .next s else .next (s.stopContext vf ctx causeHostAbort 0)

/-! ### The fault queue (06 R161) -/

/-- FQCFG_WRITE. -/
def execFqcfgWrite (vf : Nat) (value : W64) (s : State) : Out :=
  let n := bits value 4 0
  if n < 4 ∨ n > 16 then .next s else .next (s.onVf vf fun v => { v with fqN := n, fqWritten := 0, fqCons := 0 })

/-- FQCONS_WRITE: a write that would make the queue hold more than it has room for is ignored. -/
def execFqconsWrite (vf : Nat) (value : W64) (s : State) : Out :=
  let v := s.vf vf
  let c : W32 := value.truncate 32
  if (BitVec.ofNat 32 v.fqWritten - c).toNat > 2 ^ v.fqN then .next s else .next (s.onVf vf fun v => { v with fqCons := c })

/-- Changing the parks of a team's units. -/
def Team.mapParks (f : List PageReq → List PageReq) (t : Team) : Team :=
  let fr (x : Fragment) : Fragment := { x with park := f x.park }
  let gr (g : Group) : Group :=
    { g with slotA := fr g.slotA, slotB := fr g.slotB, rays := g.rays.map fun (p : Nat × RaySlot) => (p.1, { p.2 with park := f p.2.park }) }
  { t with groups := t.groups.map (fun (p : Nat × Group) => (p.1, gr p.2)),
           batches := t.batches.map (fun (p : Nat × Batch) => (p.1, { p.2 with park := f p.2.park })), spark := f t.spark, matOps := t.matOps.map fun (p : Nat × MatOp) => (p.1, { p.2 with park := f p.2.park }) }

/-- Changing every copy of a VF, in an engine or held. -/
def State.mapCopies (s : State) (vf : Nat) (f : CopyOp → CopyOp) : State :=
  let on (c : CopyOp) : CopyOp := if c.vf = vf then f c else c
  let s := { s with cores := s.cores.map fun (p : Nat × Core) => (p.1, { p.2 with copies := p.2.copies.map fun (q : Nat × CopyOp) => (q.1, on q.2) }) }
  s.onVf vf fun v => { v with ctxs := v.ctxs.map fun (p : Nat × Context) =>
    (p.1, { p.2 with heldCopies := p.2.heldCopies.map fun (q : Nat × CopyOp) => (q.1, on q.2) }) }

/-- Changing every ring action of a VF. -/
def State.mapRing (s : State) (vf : Nat) (f : RingAct → RingAct) : State :=
  { s with cores := s.cores.map fun (p : Nat × Core) => (p.1, { p.2 with stops := p.2.stops.map fun (q : Nat × List RingAct) =>
      (q.1, q.2.map fun a => if a.vf = vf then f a else a) }) }

/-- Changing every park of a VF, with the context it stands in. -/
def State.mapParks (s : State) (vf : Nat) (f : Nat → List PageReq → List PageReq) : State :=
  let s := s.mapTeams fun _ t => if t.vf = vf then t.mapParks (f t.ctx) else t
  let s := s.mapSaved vf fun k _ t => t.mapParks (f k)
  let s := s.mapCopies vf fun c => { c with park := f c.ctx c.park }
  let s := s.mapRing vf fun a => { a with park := f a.ctx a.park }
  { s with colls := s.colls.map fun (g : Coll) =>
      { g with ranks := g.ranks.map fun (p : Nat × CollOp) => (p.1, if p.2.vf = vf then { p.2 with park := f p.2.ctx p.2.park } else p.2) } }

/-- The 4 KiB page that an answer names (11 R294). -/
def samePage (page : W64) (p : PageReq) : Bool := bits p.vaddr 51 12 == bits page 51 12

/-- Array operations with a failed request end; the scalar stream will trap. -/
def Team.settleFailed (t : Team) : Team :=
  let bad := t.matOps.filterMap fun (p : Nat × MatOp) => failedOf p.2.park
  bad.foldl Team.engineFails { t with matOps := t.matOps.filter fun (p : Nat × MatOp) => (failedOf p.2.park).isNone }

/-- Engine operations with a failed request: array operations and copies fail their team, a home write fails its alight (DEDUCED, log 33). -/
def State.settleFailed (s : State) (vf : Nat) : State :=
  let s := s.mapTeams fun _ t => if t.vf = vf then t.settleFailed else t
  let s := s.mapSaved vf fun _ _ t => t.settleFailed
  let all := (s.cores.flatMap fun (p : Nat × Core) => p.2.copies.map fun (q : Nat × CopyOp) => q.2)
    ++ (s.vf vf).ctxs.flatMap fun (p : Nat × Context) => p.2.heldCopies.map (·.2)
  let s := all.foldl (fun s c => match failedOf c.park with | some e => if c.vf = vf then s.failTeam vf c.uid e else s | none => s) s
  let s := s.mapCopies vf fun c => if (failedOf c.park).isSome then { c with failed := true, park := [] } else c
  s.mapRing vf fun a =>
    match failedOf a.park, a.phase with
    | some e, .home k _ => { a with phase := .homeFail k e, park := [] }
    | _, _ => a

/-- The entries of a page are answered. -/
def State.answered (s : State) (vf : Nat) (page : W64) : State :=
  s.onVf vf fun v => { v with faults := v.faults.filter fun e => bits e.page 51 12 != bits page 51 12 }

/-- FQRESP_REPLAY: every parked access to the page is made again. -/
def execFqrespReplay (vf : Nat) (page : W64) (s : State) : Out :=
  .next ((s.answered vf page).mapParks vf fun _ ps => ps.filter fun p => !samePage page p)

/-- FQRESP_FAILURE: every parked access to the page becomes PAGE_FAULT in the stream that owns it. -/
def execFqrespFailure (vf : Nat) (page : W64) (s : State) : Out :=
  .next (((s.answered vf page).mapParks vf fun _ ps => ps.map fun p => if samePage page p then { p with failed := true } else p).settleFailed vf)

/-- The requests of a VF that could not be posted: context, core, instruction and request. -/
def State.unposted (s : State) (vf : Nat) : List (Nat × Nat × W64 × PageReq) :=
  let open_ (ctx core : Nat) (pc : W64) (ps : List PageReq) : List (Nat × Nat × W64 × PageReq) :=
    (ps.filter fun p => !p.posted && !p.failed).map fun p => (ctx, core, pc, p)
  let ofTeam (t : Team) : List (Nat × Nat × W64 × PageReq) :=
    t.groups.flatMap (fun (g : Nat × Group) => open_ t.ctx t.core g.2.slotA.parkPc g.2.slotA.park ++ open_ t.ctx t.core g.2.slotB.parkPc g.2.slotB.park
      ++ g.2.rays.flatMap fun (r : Nat × RaySlot) => open_ t.ctx t.core (g.2.windowPc r.2.window) r.2.park)
    ++ t.batches.flatMap (fun (b : Nat × Batch) => open_ t.ctx t.core ((t.groups.get {} b.2.gid).windowPc b.2.window) b.2.park)
    ++ open_ t.ctx t.core t.spc t.spark ++ t.matOps.flatMap fun (m : Nat × MatOp) => open_ t.ctx t.core 0 m.2.park
  let teams := (s.flush.teams.filter fun (p : Nat × Team) => p.2.vf == vf) ++ (s.vf vf).ctxs.flatMap fun (p : Nat × Context) => p.2.saved
  let copies := (s.cores.flatMap fun (p : Nat × Core) => p.2.copies.map fun (q : Nat × CopyOp) => (p.1, q.2))
    ++ (s.vf vf).ctxs.flatMap fun (p : Nat × Context) => p.2.heldCopies
  let ranks := s.colls.flatMap fun g => g.ranks.map fun (p : Nat × CollOp) => p.2
  teams.flatMap (fun (p : Nat × Team) => ofTeam p.2)
  ++ (copies.filter fun p => p.2.vf == vf).flatMap (fun p => open_ p.2.ctx p.1 0 p.2.park)
  ++ (ranks.filter fun c => c.vf == vf).flatMap (fun c => open_ c.ctx c.core 0 c.park)
  ++ (s.ringActs.filter fun a => a.2.2.vf == vf).flatMap fun a => open_ a.2.2.ctx a.1 a.2.2.pc a.2.2.park

/-- FAULT_POST_RETRY: the units that found the queue full post again, as far as there is room. -/
def execFaultPostRetry (vf : Nat) (s : State) : Out :=
  let s := (s.unposted vf).foldl (fun s x => (s.postFault vf x.1 x.2.1 x.2.2.1 x.2.2.2).1) s
  let es := (s.vf vf).faults
  .next (s.mapParks vf fun k ps => ps.map fun p =>
    if es.any fun e => e.ctx == k && e.page == pageOf p.vaddr then { p with posted := true } else p)

/-! ### Windows and timers (02 R49, R50; 05 R133, R136) -/

/-- The windows that close now, in issue order, and those that stay: a window is due when no further instruction may issue
inside it; one whose results are to come holds back the later ones that are due. -/
def splitDue (blocked : Bool) : List Window → List Window × List Window
  | [] => ([], [])
  | w :: ws =>
    if w.left ≠ 0 then let (a, b) := splitDue blocked ws; (a, w :: b)
    else if blocked ∨ w.waiting ≠ 0 ∨ w.fault.isSome then let (a, b) := splitDue true ws; (a, w :: b)
    else let (a, b) := splitDue false ws; (w :: a, b)

/-- Closing the due windows of the fragment in focus. -/
def State.closeDue (s : State) : State :=
  let (now, later) := splitDue false s.frag.windows
  now.foldl State.writeWindow { s with frag := { s.frag with windows := later } }

/-- A change of a state with a fragment in focus. -/
def State.asFragment (s : State) (uid gid : Nat) (slotB : Bool) (f : State → State) : State :=
  let c := s.cur
  let s := f (s.flush.focus { stream := .lane, uid := uid, gid := gid, slotB := slotB })
  s.flush.focus c

/-- WINDOW_CLOSE (02 R49, R50). -/
def execWindowClose (team group : Nat) (s : State) : Out :=
  let t := s.teamOf team
  if !t.live ∨ t.stopped ∨ (t.groups.lookup group).isNone then .next s
  else .next ((s.asFragment team group false State.closeDue).asFragment team group true State.closeDue)

/-- The timer of a record expires: its arrived lanes leave it (05 R133). -/
def expireRec (r : SplitRec) : SplitRec :=
  { r with released := r.released ++ [(r.arrived, r.cont)], pending := true, expected := r.expected &&& ~~~r.arrived, arrived := 0, armed := false }

/-- JOIN_TIMER_EXPIRY (05 R133). The pc of the group's next eligible instruction is the record's continuation. -/
def execJoinTimerExpiry (team group token : Nat) (s : State) : Out :=
  let t := s.teamOf team
  let g : Group := t.groups.get {} group
  if !t.live ∨ t.stopped ∨ !(g.split.any fun r => r.token == token && r.armed && r.arrived != 0) then .next s
  else
    let g' := { g with split := g.split.map fun r => if r.token = token then expireRec r else r, tstat := g.tstat ||| 0x100 }
    .next ((s.onTeam team fun t => settleGroup { t with groups := t.groups.set group g' } group).countCore t.core 0x09 1 t.vf)

/-- A group is deadlocked (05 R136). -/
def Group.deadlocked (g : Group) : Bool :=
  !g.ended && !g.slotA.valid && !g.slotB.valid && g.spills == 0 && g.split.all (fun r => !r.pending && !r.armed)
  && g.split.any fun r => r.arrived != 0

/-- JOIN_DEADLOCK (05 R136): the arrived lanes of the oldest record that holds any trap at its join. -/
def execJoinDeadlock (team group : Nat) (s : State) : Out :=
  let t := s.teamOf team
  let g : Group := t.groups.get {} group
  if !t.live ∨ t.stopped ∨ !g.deadlocked then .next s
  else
    match g.split.find? fun r => r.arrived != 0 with
    | none => .next s
    | some r =>
      .next (s.asFragment team group false fun s =>
        let s := { s with grp := { s.grp with split := s.grp.split.filter fun x => x.token != r.token },
                          frag := { valid := true, pc := r.joinPc, mask := r.arrived } }
        s.enterTrap { cause := causeDeadlock, tval := BitVec.ofNat 64 r.token } r.joinPc (r.cont - r.joinPc).toNat 0)

/-! ### Home slices (07 R203) -/

/-- HOME_SLICE_ACCESS (07 R171, R203): the oldest entry of a slice's write queue drains. -/
def execHomeSliceAccess (slice : Nat) (s : State) : Out :=
  match s.redQueues.get [] slice with
  | [] => .next s
  | e :: es => .next { s with mem := e.apply s.mem, redQueues := s.redQueues.put [] slice es }

end Sys2Proof.Machine
end

