-- ==== Sys2Proof/Machine/Scan.lean ====
section
/-! DEFINITION. The Scan Engine's heads: enabling, frames and bands, deadlines and the fallback path, the band log, loads
and bank swaps (13 R358-R377). A head's time advances by
its sequencer's costs and by the deadlines that pass; the agenda says when each event comes (DESIGN CHOICE, log 1). -/

namespace Sys2Proof.Machine
open Sys2Proof

/-! ### Heads and their fields (13 R359-R361) -/

/-- A head by number, the one in focus included. -/
def State.headOf (s : State) (k : Nat) : Head := s.flush.heads.get {} k
/-- Changing one head. -/
def State.onHead (s : State) (k : Nat) (f : Head → Head) : State :=
  let s := s.flush
  ({ s with heads := s.heads.set k (f (s.heads.get {} k)) }).reload

/-- The Scan Engine exists (13 R358). -/
def State.scanExists (s : State) : Bool := s.coreMap.any fun (p : Nat × CoreMap) => p.2.present && bit p.2.feat0 4

/-- The head that a VF numbers locally (13 R358). -/
def State.localHead (s : State) (vf j : Nat) : Option Nat :=
  if s.scanExists then ((List.range 16).filter fun k => bit (s.vf vf).heads k)[j]? else none

/-- The VF of a head. -/
def State.vfOfHead (s : State) (k : Nat) : Nat := ((s.vfs.find? fun (p : Nat × Vf) => bit p.2.heads k).map (·.1)).getD 0

def Head.outw (h : Head) : Nat := bits h.tim1 15 0
def Head.vact (h : Head) : Nat := bits h.tim1 31 16
def Head.vtotal (h : Head) : Nat := bits h.tim1 47 32
def Head.lineper (h : Head) : Nat := bits h.tim2 31 0
def Head.sw (h : Head) : Nat := bits h.src 15 0
def Head.sh (h : Head) : Nat := bits h.src 31 16
def Head.pitch (h : Head) : Nat := 256 * bits h.src 47 32
/-- The publish set of source k; none for SET1 with SINGLE. -/
def Head.set? (h : Head) (k : Bool) : Option Nat := if !k then some (bits h.sets 9 0) else if bit h.sets 32 then none else some (bits h.sets 25 16)
/-- Bytes of the work store and of a weight bank. -/
def Head.workSize (h : Head) : Nat := 65536 * bits h.alloc 15 0
def Head.wtsSize (h : Head) : Nat := 65536 * bits h.alloc 31 16
/-- Bands of a frame, and lines of a band (13 R360). -/
def Head.nb (h : Head) : Nat := (h.vact + 15) / 16
def Head.lines (h : Head) (b : Nat) : Nat := min 16 (h.vact - 16 * b)
/-- Bytes a head takes of the scan SRAM (13 R361). -/
def Head.sram (h : Head) : Nat := 2 * 16384 + 2 * h.wtsSize + h.workSize + 3 * 64 * h.outw
/-- The active program bank and weight bank. -/
def Head.prog (h : Head) : Store Byte := if h.bank then h.prog1 else h.prog0
def Head.wts (h : Head) : Store Byte := if h.bank then h.wts1 else h.wts0
/-- A band's fate. -/
def Head.info (h : Head) (b : Nat) : BandInfo := h.bands.get {} b
def Head.onBand (h : Head) (b : Nat) (f : BandInfo → BandInfo) : Head := { h with bands := h.bands.set b (f (h.info b)) }
/-- A band is written in fallback mode. -/
def Head.inMode (h : Head) (b : Nat) : Bool := match h.mode with | some m => decide (m ≤ b) | none => false
/-- The deadline of a band, in 1/256 engine cycle (13 R360). -/
def Head.deadline (h : Head) (b : Nat) : Int :=
  256 * (h.start : Int) + ((h.vtotal - h.vact : Nat) + h.frame * h.vtotal + 16 * b : Int) * h.lineper - 2 * h.lineper
/-- Rel(b) has come: for the first two bands the frame's start, then the scan-out of the band two before. -/
def Head.released (h : Head) (b : Nat) : Bool := decide (b < 2 ∨ b ≤ h.shown + 1)

/-- Rel(b), in 1/256 engine cycle (13 R360). -/
def Head.release (h : Head) (b : Nat) : Int :=
  if b < 2 then 256 * (h.start : Int) + (h.frame * h.vtotal : Nat) * h.lineper else h.deadline (b - 2) + 2 * h.lineper
/-- The first engine cycle that is not earlier than a time in 1/256 cycle (13 R360). -/
def cycleOf (t : Int) : Int := (t + 255) / 256
/-- A band's lput that completes at a cycle is on time (13 R371). -/
def Head.onTime (h : Head) (b : Nat) (t : Int) : Bool := decide (t ≤ cycleOf (h.deadline b))
/-- MARGIN of a band whose lput completes at a cycle (13 R374). -/
def Head.marginAt (h : Head) (b : Nat) (t : Int) : Nat := min 0xFFFF ((h.deadline b - 256 * t) / (256 * 64)).toNat

/-- The code of a band, fixed at its end (13 R363): 0 OK, 1 FALLBACK, 2 FBMODE, 3 FAULT, 4 BLANK. -/
def Head.code (h : Head) (b : Nat) : Nat :=
  let i := h.info b
  if i.put then 0 else if !i.latched then 4 else if i.faulted then 3 else if i.mode then 2 else 1
/-- The code that is logged: an uncorrectable error in the slot makes it FAULT (13 R376) (DEDUCED, log 45). -/
def Head.logCode (h : Head) (b : Nat) : Nat := if (h.info b).ue then 3 else h.code b

/-! ### Enabling (13 R360, R377) -/

/-- A frame begins (13 R362, R372): run is 0, and fallback mode ends unless a bank is bad (DEDUCED, log 45). -/
def Head.beginFrame (h : Head) : Head :=
  { h with run := 0, next := 0, dead := 0, shown := 0, bands := if h.faultNext then [(0, { faulted := true })] else [],
           mode := if h.stuck then some 0 else none, faultNext := false }

/-- The timing conditions, and those of the sizes. -/
def Head.timingOk (h : Head) : Bool :=
  decide (64 ≤ h.outw ∧ h.outw ≤ 7680 ∧ 16 ≤ h.vact ∧ h.vact ≤ 4352 ∧ 8 ≤ h.sw ∧ h.sw ≤ 8192 ∧ 8 ≤ h.sh ∧ h.sh ≤ 8192)
  && decide (h.vact + 8 ≤ h.vtotal) && decide (256 * (2000 + 2 * h.outw) ≤ 2 * h.lineper)

/-- The enable error of a head, 0 for none. -/
def State.enableError (s : State) (vf k : Nat) : Nat :=
  let h := s.headOf k
  let others := s.flush.heads.filter fun (p : Nat × Head) => p.1 != k && p.2.en
  let valid (x : Nat) : Bool := ((s.vf vf).pubs.get {} x : PubSet).valid
  if (3 < h.outsel ∧ h.outsel < 16) ∨ (others.any fun p => p.2.outsel == h.outsel) then 1
  else if !h.timingOk then 2
  else if !([false, true].all fun b => match h.set? b with | some x => valid x | none => true) then 3
  else if h.sram + (others.map fun p => p.2.sram).sum > 33554432 then 4
  else 0

/-- A head stops (13 R377): whatever it runs or waits for is cancelled. -/
def Head.stopped (h : Head) : Head :=
  { h with en := false, running := false, request := none, granted := false, progress := 0, pending := [], f0 := none, f1 := none, mfv := false }

/-- Starting a head; E is free (DESIGN CHOICE, log 1). -/
def State.enableHead (s : State) (vf k : Nat) : State :=
  match s.enableError vf k with
  | 0 =>
    let (s, e) := s.free 20
    s.onHead k fun h =>
      { h.stopped.beginFrame with en := true, enError := 0, s := [], pc := 0, frame := 0, lastCode := 0, start := e.toNat }
  | e => s.onHead k fun h => { h with enError := e }

/-- The active bank flips and s0-s31 are cleared, where a swap is wanted and no load is busy (13 R376). A bank loaded after
an error ends the fallback mode that the error brought, and the program of a band 0 that has not begun has not faulted (DEDUCED, log 45). -/
def Head.trySwap (h : Head) : Head :=
  if !h.swap || h.load.isSome then h
  else
    let h := { h with swap := false, bank := !h.bank, s := [] }
    let good := if h.bank then h.fresh1 else h.fresh0
    if h.stuck && good then
      { h with stuck := false, faultNext := false, mode := none,
               bands := if (h.info 0).faulted && !(h.info 0).ended then h.bands.set 0 { h.info 0 with faulted := false } else h.bands }
    else h

/-- Writing OUTSEL (DEDUCED, log 45). -/
def writeOutsel (value : W64) (h : Head) : Head := { h with outsel := bits value 12 8 }

/-- HEAD_ENABLE (13 R360): a write of HCTL with EN = 1 (DEDUCED, log 45). -/
def execHeadEnable (vf head : Nat) (value : W64) (s : State) : Out :=
  match s.localHead vf head with
  | none => .next s
  | some k =>
    let s := s.onHead k fun h =>
      let h := { writeOutsel value h with swap := h.swap || bit value 1 }
      if h.en then h else h.trySwap
    if bit value 0 && !(s.headOf k).en then .next (s.enableHead vf k) else .next s

/-- HEAD_DISABLE (13 R377): a write of HCTL with EN = 0. -/
def execHeadDisable (vf head : Nat) (value : W64) (s : State) : Out :=
  match s.localHead vf head with
  | none => .next s
  | some k =>
    if bit value 0 then .next s
    else .next (s.onHead k fun h =>
      let h := { writeOutsel value (if h.en then h.stopped else h) with swap := h.swap || bit value 1 }
      h.trySwap)

/-- HCTL_SWAP (13 R376, R377): a swap is requested; while the head is off it takes effect at once (DEDUCED, log 45). -/
def execHctlSwap (vf head : Nat) (s : State) : Out :=
  match s.localHead vf head with
  | none => .next s
  | some k => .next (s.onHead k fun h => let h := { h with swap := true }; if h.en then h else h.trySwap)

/-- BANK_SWAP (13 R376, R377): at a frame's start, or while the head is off. -/
def execBankSwap (head : Nat) (s : State) : Out :=
  let h := s.headOf head
  if !h.en ∨ (h.next = 0 ∧ h.dead = 0) then .next (s.onHead head Head.trySwap) else .next s

/-- HPOSE_WRITE (13 R359). -/
def execHposeWrite (vf head : Nat) (value : W64) (s : State) : Out :=
  match s.localHead vf head with
  | none => .next s
  | some k => .next (s.onHead k fun h => { h with pose := value &&& 0xFFFF0000FFFFFFFF#64 })

/-! ### Loads (13 R375) -/

/-- HLOAD. -/
def execHload (vf head : Nat) (value : W64) (s : State) : Out :=
  match s.localHead vf head with
  | none => .next s
  | some k =>
    let h := s.headOf k
    let size := if bit value 0 then h.wtsSize else 16384
    if h.load.isSome then .next s
    else if h.loadSrc.toNat % 64 ≠ 0 ∨ h.loadLen.toNat % 4 ≠ 0 ∨ h.loadLen.toNat > size then .next (s.onHead k fun h => { h with loadErr := true })
    else .next (s.onHead k fun h => { h with loadErr := false, load := some (bit value 0, h.loadSrc, h.loadLen) })

/-- Copying a load's words into a bank, up to the first that cannot be read (DEDUCED, log 12). -/
def State.loadBank (s : State) (vf : Nat) (src : W64) : Nat → Nat → Store Byte → State × Store Byte × Bool
  | 0, _, m => (s, m, false)
  | n + 1, i, m =>
    match s.loadVa vf 0 { kind := 5 } (src + BitVec.ofNat 64 (4 * i)) 4 with
    | .error _ => (s, m, true)
    | .ok (s, x) => State.loadBank s vf src n (i + 1) (writeBytes m (4 * i) 4 x)

/-- HLOAD_DONE: the last byte is in the inactive bank, or the copy has faulted (DEDUCED, log 45). -/
def execHloadDone (head : Nat) (s : State) : Out :=
  let h := s.headOf head
  match h.load with
  | none => .next s
  | some (weights, src, len) =>
    let old := match weights, h.bank with | true, false => h.wts1 | true, true => h.wts0 | false, false => h.prog1 | false, true => h.prog0
    let (s, m, bad) := s.loadBank (s.vfOfHead head) src (len.toNat / 4) 0 old
    .next (s.onHead head fun h =>
      let h := { h with load := none, loadErr := bad }
      let h := match weights, h.bank with
        | true, false => { h with wts1 := m, fresh1 := h.fresh1 || !bad }
        | true, true => { h with wts0 := m, fresh0 := h.fresh0 || !bad }
        | false, false => { h with prog1 := m, fresh1 := h.fresh1 || !bad }
        | false, true => { h with prog0 := m, fresh0 := h.fresh0 || !bad }
      if h.en then h else h.trySwap)

/-! ### The warp (13 R369) -/

/-- A pixel of a latched frame: free where it has been written since (13 R366, DESIGN CHOICE, log 16) (PRESUMED, log 48). -/
def State.framePixel (s : State) (h : Head) (f : Latched) (x y : Nat) : Nat :=
  let a := f.base + y * h.pitch + 4 * x
  let v := readBytes s.mem a 4
  if v = readBytes f.snap a 4 then v else (Config.free 18 (s.freeCount + 8192 * y + x)).toNat % 2 ^ 32

/-- The free values that the pixels of one read may take are used up (DESIGN CHOICE, log 16) (PRESUMED, log 48). -/
def State.usePixels (s : State) (h : Head) : State := { s with freeCount := s.freeCount + 8192 * h.sh }

/-- A coordinate clamped to 0 … n - 1. -/
def clampCoord (n : Nat) (i : Int) : Nat := (min (max i 0) (n - 1 : Int)).toNat

/-- The motion entry of a block (13 R368): its displacement. -/
def Head.motionAt (h : Head) (bx by_ : Nat) : Int × Int :=
  let e := readBytes h.work (4 * (by_ * ((h.sw + 7) / 8) + bx)) 2
  (sext 8 e, sext 8 (e / 256))

/-- An output pixel of R369. -/
def State.warpPixel (s : State) (h : Head) (f : Latched) (motion : Bool) (phase : Nat) (pose : W64) (x y : Nat) : Nat :=
  let u : Rat := ((x : Rat) + 1 / 2) * h.sw / h.outw - 1 / 2
  let w : Rat := ((y : Rat) + 1 / 2) * h.sh / h.vact - 1 / 2
  let m : Int × Int :=
    if motion then h.motionAt (clampCoord ((h.sw + 7) / 8) (u / 8).floor) (clampCoord ((h.sh + 7) / 8) (w / 8).floor) else (0, 0)
  let pdx : Int := sext 16 (bits pose 15 0)
  let pdy : Int := sext 16 (bits pose 31 16)
  let u := u + (phase : Rat) / 256 * m.1 + (pdx : Rat) / 16 * h.sw / h.outw
  let w := w + (phase : Rat) / 256 * m.2 + (pdy : Rat) / 16 * h.sh / h.vact
  let ui := (u * 256).floor
  let wi := (w * 256).floor
  let px (dx dy : Int) : Nat := s.framePixel h f (clampCoord h.sw (ui / 256 + dx)) (clampCoord h.sh (wi / 256 + dy))
  let fu := (ui % 256).toNat
  let fw := (wi % 256).toNat
  let comp (k : Nat) : Nat :=
    let c (p : Nat) : Nat := p / 256 ^ k % 256
    let t := (256 - fw) * ((256 - fu) * c (px 0 0) + fu * c (px 1 0)) + fw * ((256 - fu) * c (px 0 1) + fu * c (px 1 1))
    -- to nearest, ties to even
    let q := t / 65536
    let r := t % 65536
    if r > 32768 ∨ (r = 32768 ∧ q % 2 = 1) then q + 1 else q
  ((List.range 4).map fun k => comp k * 256 ^ k).sum

/-- Output rows y to y + n - 1 as one number, 4 × OUTW bytes a row. -/
def State.warpRows (s : State) (h : Head) (f : Latched) (motion : Bool) (phase : Nat) (pose : W64) (y n : Nat) : Nat :=
  ((List.range n).flatMap fun r => (List.range h.outw).map fun x => s.warpPixel h f motion phase pose x (y + r)).foldr
    (fun p a => p + 2 ^ 32 * a) 0

/-- Draining what the home slices hold for a frame, before it is read (07 R203) (PRESUMED, log 48). -/
def State.drainFrame (s : State) (h : Head) (base : Nat) : State := s.drain base (h.sh * h.pitch + 4 * h.sw)

/-! ### Bands (13 R363, R371-R374) -/

/-- Cancelling a head's program, its instruction and its request (13 R370, R371). -/
def Head.cancel (h : Head) : Head := { h with running := false, request := none, granted := false, progress := 0 }

/-- The program that runs belongs to a band. -/
def Head.runs (h : Head) (b : Nat) : Bool := h.running && h.next == b + 1

/-- End(b): whether a frame had been latched is fixed. -/
def Head.endBand (h : Head) (b : Nat) : Head :=
  if (h.info b).ended then h else h.onBand b fun i => { i with ended := true, latched := h.f0.isSome }

/-- Fallback mode from a band on (13 R372): no program runs any more. A band whose program has ended, or whose lput has completed,
keeps its code (DEDUCED, log 45). -/
def Head.enterMode (h : Head) (b : Nat) : Head :=
  let h := { h with mode := some (match h.mode with | some m => min m b | none => b) }
  if h.running && decide (h.next > b) then
    let h := h.cancel
    if (h.info (h.next - 1)).put then h.endBand (h.next - 1) else h
  else h
/-- A band that fallback mode writes. -/
def Head.remains (h : Head) (b : Nat) : Bool := h.inMode b && (!(h.info b).ended || (h.info b).mode)
/-- Fallback mode holds (13 R372): from the band that follows a program fault, or at once where run has reached 8, or where an error in
a bank holds the head in it from the frame's start (R376) (DEDUCED, log 45). -/
def Head.modeHolds (h : Head) : Bool := match h.mode with | some m => m == 0 || decide (m < h.next) || decide (h.run ≥ 8) | none => false

/-- The log entry of a band (13 R374); a store that cannot be translated is dropped (DEDUCED, log 12). -/
def State.logBand (s : State) (k b code margin : Nat) : State :=
  let h := s.headOf k
  if h.log = 0 then s
  else
    let a := h.log + BitVec.ofNat 64 (8 * ((h.frame % max (bits h.logCfg 7 0) 1) * h.nb + b))
    match s.storeVa (s.vfOfHead k) 0 { kind := 1, write := true } a 8 (h.frame % 2 ^ 32 * 2 ^ 32 + b * 2 ^ 20 + code * 2 ^ 16 + margin) with
    | .ok s => s
    | .error _ => s

/-- A fallback write of a band begins (DEDUCED, log 45). -/
def Head.beginFallback (h : Head) (b : Nat) : Head :=
  let code := h.code b
  let f := if (h.info b).latched then h.f0 else none
  { h with pending := h.pending ++
      [{ band := b, code := code, frame := f, motion := bit h.fb 8 && h.mfv, phase := bits h.fb 7 0, pose := h.pose }] }

/-- The cycle at which a band's program starts (13 R363). -/
def Head.startCycle (h : Head) (b : Nat) : Int := if b = 0 then cycleOf (h.release 0) else max h.now (cycleOf (h.release b))

/-- BAND_PROGRAM_START (13 R363): at the later of the preceding band's end and Rel(b). -/
def execBandProgramStart (head : Nat) (s : State) : Out :=
  let h := s.headOf head
  let b := h.next
  if !h.en ∨ h.running ∨ b ≥ h.nb ∨ h.inMode b ∨ !h.released b ∨ (b ≠ 0 ∧ !(h.info (b - 1)).ended) ∨ h.dead > b ∨ (b = 0 ∧ h.swap ∧ h.load.isNone) then
    .next s
  else
    let prev := if b = 0 then (if h.frame = 0 then 0 else h.lastCode) else h.code (b - 1)
    .next (s.onHead head fun h =>
      { h with running := true, next := b + 1, pc := 0, now := h.startCycle b, held := false, waited := false, s := ((h.s.set 1 (BitVec.ofNat 64 b)).set 2 (BitVec.ofNat 64 (h.frame % 2 ^ 32))).set 3 (BitVec.ofNat 64 prev) })

/-- BAND_DEADLINE (13 R371, R372): the next deadline of the frame passes, not before an instruction that completes by then. -/
def execBandDeadline (head : Nat) (s : State) : Out :=
  let h := s.headOf head
  let b := h.dead
  if !h.en ∨ b ≥ h.nb ∨ h.shown < b then .next s
  else if h.remains b then
    if (h.info b).mode then .next (s.onHead head fun h => { h with dead := b + 1 }) else .next s
  else if h.next ≤ b ∨ (h.runs b ∧ !h.held) then .next s
  else
    let h := (if h.runs b then { h.cancel with now := cycleOf (h.deadline b) } else h).endBand b
    let h := { h with dead := b + 1 }
    if (h.info b).put then
      .next ((s.onHead head fun _ => { h with run := 0 }).logBand head b (h.logCode b) (if (h.info b).ue then 0 else (h.info b).margin))
    else
      let h := { h.beginFallback b with run := h.run + 1 }
      .next (s.onHead head fun _ => if h.run ≥ 8 then h.enterMode (b + 1) else h)

/-- FALLBACK_MODE_BAND (13 R372): in fallback mode the next remaining band is written from Rel(b); a swap that is due at
Rel(0) comes first (13 R376). -/
def execFallbackModeBand (head : Nat) (s : State) : Out :=
  let h := s.headOf head
  match h.mode with
  | none => .next s
  | some m =>
    match (List.range h.nb).find? fun b => decide (m ≤ b) && decide (h.dead ≤ b) && !(h.info b).ended && h.released b with
    | none => .next s
    | some b =>
      if !h.en ∨ (b = 0 ∧ h.swap ∧ h.load.isNone) then .next s
      else .next (s.onHead head fun h =>
        ({ h with next := max h.next (b + 1) }.onBand b fun i => { i with ended := true, mode := true, latched := h.f0.isSome }).beginFallback b)

/-- FALLBACK_WRITE_DONE (13 R371): the oldest fallback write completes, and its band is logged. -/
def execFallbackWriteDone (head : Nat) (s : State) : Out :=
  let h := s.headOf head
  match h.pending with
  | [] => .next s
  | p :: ps =>
    let n := h.lines p.band
    let (s, x) : State × Nat :=
      match p.frame with
      | none => (s, 0)
      | some f => let s := s.drainFrame h f.base; ((s.usePixels h), s.warpRows h f p.motion p.phase p.pose (16 * p.band) n)
    let s := s.onHead head fun h => { h with pending := ps, slots := writeBytes h.slots (2 ^ 20 * (p.band % 3)) (4 * h.outw * n) x }
    .next (s.logBand head p.band (if (h.info p.band).ue then 3 else p.code) 0)

/-- BAND_SCANOUT (13 R373): scan-out reads the slot of the next band. -/
def execBandScanout (head : Nat) (s : State) : Out :=
  let h := s.headOf head
  let b := h.shown
  if !h.en ∨ b ≥ h.nb ∨ h.dead ≤ b ∨ (h.pending.any fun p => p.band == b) then .next s
  else
    let lo := 2 ^ 20 * (b % 3)
    let bytes := (h.slots.filter fun (p : Nat × Byte) => decide (lo ≤ p.1 ∧ p.1 < lo + 4 * h.outw * h.lines b)).map fun (p : Nat × Byte) => (p.1 - lo, p.2)
    .next (s.onHead head fun h => { h with shown := b + 1, output := some (h.frame, b, bytes) })

/-- FRAME_START (13 R360, R372): the frame's scan-out has ended. -/
def execFrameStart (head : Nat) (s : State) : Out :=
  let h := s.headOf head
  if !h.en ∨ h.shown < h.nb then .next s
  else .next (s.onHead head fun h => { h.beginFrame with frame := h.frame + 1, lastCode := h.code (h.nb - 1) })

/-- SHARED_UNIT_GRANT (13 R370): a free unit goes to the waiting request of the earliest deadline, the lower head where
equal (DEDUCED, log 45). -/
def execSharedUnitGrant (motion : Bool) (s : State) : Out :=
  let hs := s.flush.heads
  if hs.any fun (p : Nat × Head) => p.2.request == some motion && p.2.granted then .next s
  else
    let waiting := hs.filter fun (p : Nat × Head) => p.2.en && p.2.request == some motion
    let due (p : Nat × Head) : Int := p.2.deadline (p.2.next - 1)
    let first (a : Option (Nat × Head)) (p : Nat × Head) : Option (Nat × Head) :=
      match a with
      | some q => if due p < due q ∨ (due p = due q ∧ p.1 < q.1) then some p else some q
      | none => some p
    match waiting.foldl first none with
    | none => .next s
    | some (k, _) =>
      -- the others wait for a time that the machine does not fix
      let s := waiting.foldl (fun (s : State) p => if p.1 = k then s else s.onHead p.1 fun h => { h with waited := true }) s
      .next (s.onHead k fun h => { h with granted := true })

/-! ### Program faults and errors (13 R364, R376) -/

/-- HFAULT receives a program fault's cause, its word and its frame. -/
def Head.noteFault (h : Head) (cause : Nat) : Head :=
  { h with fault := none, hfault := BitVec.ofNat 64 (cause % 256 + h.pc % 65536 * 2 ^ 16 + h.frame % 2 ^ 32 * 2 ^ 32) }
/-- A program fault: the program ends, and the following bands are written in fallback mode. -/
def Head.programFault (h : Head) (cause : Nat) : Head :=
  let b := h.next - 1
  let h := h.cancel.noteFault cause
  ((h.endBand b).onBand b fun i => { i with faulted := true }).enterMode (b + 1)

/-- An uncorrectable error in a bank (13 R376): a program fault with cause UE of the band that runs, or else of the next that has not
begun, band 0 of the next frame where none is left or the head is off (DEDUCED, log 45); the head stays in fallback mode until a swap
to a bank loaded after it. -/
def Head.bankError (h : Head) : Head :=
  let h := { h with stuck := true, fresh0 := false, fresh1 := false }
  if h.en && h.running then h.programFault causeUe
  else
    match (if h.en then (List.range h.nb).find? fun b => !(h.info b).ended else none) with
    | none => { h.noteFault causeUe with faultNext := true }
    | some b =>
      if h.inMode b then (h.noteFault causeUe).onBand b fun i => { i with faulted := true }
      else ({ h with next := b + 1, pc := 0 }).programFault causeUe

/-- An uncorrectable error in a band slot: the band that is scanned out next is logged FAULT (DEDUCED, log 45). -/
def State.slotError (s : State) (head : Nat) : State :=
  let h := s.headOf head
  let b := h.shown
  if !h.en || decide (b ≥ h.nb) then s
  else
    let s := s.onHead head fun h => h.onBand b fun i => { i with ue := true }
    if h.dead > b ∧ !(h.pending.any fun p => p.band == b) then s.logBand head b 3 0 else s

end Sys2Proof.Machine
end

