-- ==== Sys2Proof/Machine/LineProgram.lean ====
section
/-! DEFINITION. The band instructions of the line sequencer (13 R364-R371). -/

namespace Sys2Proof.Machine
open Sys2Proof

/-- The instruction in focus makes a program fault (13 R364) (DEDUCED, log 45). -/
def State.lineFault (s : State) (cause : Nat) : State := { s with head := { s.head with fault := some cause } }
/-- It has completed: the program counter goes on by its words. -/
def State.lineDone (s : State) (words : Nat) : State := s.seqTo ((s.head.pc + words : Nat) : Int)

/-- Source k's publish set of the head in focus, with its table entry. -/
def State.lineSet (s : State) (k : Bool) : Option PubSet := (s.head.set? k).map fun x => (s.vf (s.vfOfHead s.cur.hid)).pubs.get {} x

/-- lgen (13 R365). -/
def execLgen (w : S32) (s : State) : Out :=
  match s.lineSet (bit w.f 0) with
  | none => .next (s.lineFault causeIllegal)
  | some p => .next ((s.ws w.d.toNat (p.gen.zeroExtend 64)).lineDone 1)
/-- lgen.wait (13 R365). -/
def execLgenWait (w : S32) (s : State) : Out :=
  match s.lineSet (bit w.f 0) with
  | none => .next (s.lineFault causeIllegal)
  | some p => if p.gen = (s.rs w.a.toNat).truncate 32 then .next s.wait else .next ((s.ws w.d.toNat (p.gen.zeroExtend 64)).lineDone 1)

/-- llatch (13 R366). -/
def execLlatch (w : S32) (s : State) : Out :=
  match s.lineSet (bit w.f 0) with
  | none => .next (s.lineFault causeIllegal)
  | some p =>
    let base := (if p.cur then p.pbase1 else p.pbase0) + s.head.srcOff.toNat
    let s := s.drainFrame s.head base
    let size := s.head.sh * s.head.pitch + 4 * s.head.sw
    let f : Latched := { base := base, gen := p.gen, snap := s.mem.filter fun (b : Nat × Byte) => decide (base ≤ b.1 ∧ b.1 < base + size) }
    let s := { s with head := { s.head with f1 := s.head.f0, f0 := some f, mfv := false } }
    .next ((s.ws w.d.toNat (p.gen.zeroExtend 64)).lineDone 1)

/-! ### Costs (13 R365; 03 R89; 05 R141) -/

/-- n / d, rounded up. -/
def ceilDiv (n d : Nat) : Nat := (n + d - 1) / d
/-- Engine cycles of an lput of the band that runs. -/
def Head.putCost (h : Head) : Nat :=
  if (h.info (h.next - 1)).put then 1 else 8 + ceilDiv (4 * h.outw * h.lines (h.next - 1)) 256
/-- Engine cycles of a scalar branch. -/
def branchCost (taken : Bool) : Nat := if taken then 3 else 1

/-- An extent of the work store. -/
def Head.workOk (h : Head) (a n : Nat) : Bool := decide (a + n ≤ h.workSize)

/-- The bytes of a row of a latched frame as one number. -/
def State.frameRow (s : State) (h : Head) (f : Latched) (y : Nat) : Nat :=
  ((List.range h.sw).map fun x => s.framePixel h f x y).foldr (fun p a => p + 2 ^ 32 * a) 0

/-- lfetch (13 R365). -/
def execLfetch (o : S64) (s : State) : Out :=
  let h := s.head
  let n := bits o.e1 5 0 + 1
  let a := (s.rs o.w.a.toNat).toNat
  let y := (s.rs o.w.b.toNat).toNat
  match (if bit o.w.f 0 then h.f1 else h.f0) with
  | none => .next (s.lineFault causeIllegal)
  | some f =>
    if !h.workOk a (n * 4 * h.sw) then .next (s.lineFault causeSpad)
    else
      let s := s.drainFrame h f.base
      let work := (List.range n).foldl (fun m r => writeBytes m (a + r * 4 * h.sw) (4 * h.sw) (s.frameRow h f (min (y + r) (h.sh - 1)))) h.work
      .next (({ s.usePixels h with head := { h with work := work } }).lineDone 2)

/-- The cost of a displacement: the sum of absolute differences of luminance over a block (13 R368). -/
def State.blockCost (s : State) (h : Head) (f0 f1 : Latched) (bx by_ : Nat) (dx dy : Int) : Nat :=
  let luma (f : Latched) (x y : Int) : Nat :=
    let p := s.framePixel h f (clampCoord h.sw x) (clampCoord h.sh y)
    (p % 256 + 2 * (p / 256 % 256) + p / 65536 % 256) / 4
  ((List.range 64).map fun (i : Nat) =>
    let x : Int := 8 * bx + i % 8
    let y : Int := 8 * by_ + i / 8
    ((luma f0 x y : Int) - luma f1 (x + dx) (y + dy)).natAbs).sum

/-- The order of two candidates: the sum, then |dx| + |dy|, then dy, then dx. -/
def betterMove (a b : Nat × Int × Int) : Bool :=
  let d (m : Nat × Int × Int) : Nat := m.2.1.natAbs + m.2.2.natAbs
  decide (a.1 < b.1) || (a.1 == b.1 && (decide (d a < d b) || (d a == d b && (decide (a.2.2 < b.2.2) || (a.2.2 == b.2.2 && decide (a.2.1 < b.2.1))))))

/-- The motion entry of a block. -/
def State.motionEntry (s : State) (h : Head) (f0 f1 : Latched) (bx by_ : Nat) : Nat :=
  let ds : List Int := (List.range 129).map fun (i : Nat) => (i : Int) - 64
  let best := (ds.flatMap fun dy => ds.map fun dx => (s.blockCost h f0 f1 bx by_ dx dy, dx, dy)).foldl
    (fun (a : Option (Nat × Int × Int)) c => match a with | none => some c | some b => if betterMove c b then some c else a) none
  match best with
  | none => 0
  | some (c, dx, dy) => wrap 8 dx + 256 * wrap 8 dy + 65536 * min c 65535

/-- A request for a shared unit, where the instruction does not hold it yet (13 R370) (DEDUCED, log 45). -/
def State.requestUnit (s : State) (motion : Bool) : State :=
  ({ s with head := { s.head with request := some motion, progress := 0 } }).wait
/-- The operation is complete: its unit is free. -/
def State.releaseUnit (s : State) (words : Nat) : State :=
  ({ s with head := { s.head with request := none, granted := false, progress := 0 } }).lineDone words

/-- lme (13 R368): once granted, a block at each step; it waits until the last block is done. -/
def execLme (o : S64) (s : State) : Out :=
  let h := s.head
  let n := bits o.e1 7 0 + 1
  let a := (s.rs o.w.a.toNat).toNat
  let bw := (h.sw + 7) / 8
  match h.f0, h.f1 with
  | some f0, some f1 =>
    if !h.workOk 0 (4 * (a + n) * bw) then .next (s.lineFault causeSpad)
    else if h.request = none then .next (s.requestUnit true)
    else if !h.granted then .next s.wait
    else
      let s := (s.drainFrame h f0.base).drainFrame h f1.base
      let i := h.progress
      let bx := i % bw
      let by_ := a + i / bw
      let work := writeBytes h.work (4 * (by_ * bw + bx)) 4 (s.motionEntry h f0 f1 bx by_)
      let s := { s.usePixels h with head := { h with work := work, progress := i + 1 } }
      if i + 1 < n * bw then .next s.wait
      else .next (({ s with head := { s.head with mfv := true } }).releaseUnit 2)
  | _, _ => .next (s.lineFault causeIllegal)

/-- lwarp (13 R369). -/
def execLwarp (o : S64) (s : State) : Out :=
  let h := s.head
  let n := bits o.e1 23 16 + 1
  let a := (s.rs o.w.a.toNat).toNat
  let mo := bit o.w.f 0
  match h.f0 with
  | none => .next (s.lineFault causeIllegal)
  | some f =>
    if mo && !h.mfv then .next (s.lineFault causeIllegal)
    else if !h.workOk a (4 * h.outw * n) then .next (s.lineFault causeSpad)
    else
      let s := s.drainFrame h f.base
      let x := s.warpRows h f mo (bits o.e1 7 0) (if bit o.e1 8 then h.pose else 0) (s.rs o.w.b.toNat).toNat n
      .next (({ s.usePixels h with head := { h with work := writeBytes h.work a (4 * h.outw * n) x } }).lineDone 2)

/-! ### Layers (13 R367) -/

/-- A layer descriptor. -/
structure Layer where
  xfmt : Nat
  wfmt : Nat
  ofmt : Nat
  relu : Bool
  resid : Bool
  rows : Nat
  k : Nat
  n : Nat
  sh : Nat
  xoff : Nat
  woff : Nat
  ooff : Nat
  xpitch : Nat
  opitch : Nat

/-- A field of a descriptor's word. -/
def layerField (x word hi lo : Nat) : Nat := recField x (32 * word + hi) (32 * word + lo)
def Layer.ofRaw (x : Nat) : Layer :=
  { xfmt := layerField x 0 7 0, wfmt := layerField x 0 15 8, ofmt := layerField x 0 23 16, relu := layerField x 0 24 24 == 1, resid := layerField x 0 25 25 == 1,
    rows := layerField x 1 15 0, k := layerField x 1 31 16, n := layerField x 2 15 0, sh := layerField x 2 23 16, xoff := layerField x 3 31 0,
    woff := layerField x 4 31 0, ooff := layerField x 5 31 0, xpitch := layerField x 6 31 0, opitch := layerField x 7 31 0 }

/-- Bytes from one panel of X to the next. -/
def Layer.xstep (l : Layer) : Nat := if l.xpitch = 0 then panelSize l.rows l.xfmt else l.xpitch

/-- The field values allowed. -/
def layerOk (x : Nat) : Bool :=
  let l := Layer.ofRaw x
  layerField x 0 31 26 == 0 && layerField x 2 31 24 == 0
  && ((l.wfmt == 0 && decide (l.xfmt ≤ 1)) || (l.wfmt == 0x11 && l.xfmt == 0x11)) && decide (l.ofmt ≤ 1)
  && decide (1 ≤ l.rows ∧ l.rows ≤ 4096 ∧ l.k % 32 = 0 ∧ 32 ≤ l.k ∧ l.k ≤ 1024 ∧ 1 ≤ l.n ∧ l.n ≤ 1024 ∧ l.sh ≤ 31)
  && l.xoff % 128 == 0 && l.woff % 128 == 0 && l.ooff % 128 == 0
  && l.xpitch % 128 == 0 && (l.xpitch == 0 || decide (panelSize l.rows l.xfmt ≤ l.xpitch))

/-- The extents that a layer reads and writes. -/
def Layer.fits (l : Layer) (h : Head) : Bool :=
  h.workOk l.xoff ((l.k / 32 - 1) * l.xstep + panelSize l.rows l.xfmt)
  && decide (l.woff + l.k / 32 * panelSize l.n l.wfmt ≤ h.wtsSize) && h.workOk l.ooff ((l.rows - 1) * l.opitch + l.n)

/-- The exact value that a row of X and a column of W accumulate; none where the Crucible reaches a special value. -/
def Layer.acc (l : Layer) (h : Head) (i j : Nat) : Option Dyadic :=
  let panel (m : Store Byte) (fmt base k : Nat) : List FVal := rowVals fmt (readBytes m (base + k * panelRow fmt) (panelRow fmt))
  let ps := (List.range (l.k / 32)).map fun p =>
    (panel h.work l.xfmt (l.xoff + p * l.xstep) i, panel h.wts l.wfmt (l.woff + p * panelSize l.n l.wfmt) j)
  if l.xfmt ≤ 1 then some (ps.foldl (fun a p => a.add (exactContribution p.1 p.2)) Dyadic.zero)
  else
    let e := ps.foldl (fun (e : AccEl) p =>
      let (c, t) := slicedContribution 1 false (sliceBlock 1 p.1) (sliceBlock 1 p.2)
      (crucibleStep 1 false e p.1 p.2 c t).1) {}
    if e.sp = 0 then some { m := e.x, e := e.an } else none

/-- A dyadic number rounded to the nearest integer, ties to even. -/
def Dyadic.round (x : Dyadic) : Int :=
  if x.e ≥ 0 then x.m * (2 ^ x.e.toNat : Nat)
  else
    let d : Int := (2 ^ (-x.e).toNat : Nat)
    let q := x.m / d
    let r := x.m % d
    if 2 * r > d ∨ (2 * r = d ∧ q % 2 ≠ 0) then q + 1 else q

/-- An output byte of a layer, over the byte that stands in its place; a special sum gives a free value (DESIGN CHOICE, log 9). -/
def Layer.out (l : Layer) (h : Head) (free : Nat) (i j old : Nat) : Nat :=
  match l.acc h i j with
  | none => (Config.free 21 (free + j)).toNat % 256
  | some a =>
    let v := Dyadic.round { a with e := a.e - l.sh }
    let v := if l.relu then max v 0 else v
    let v := if l.resid then v + extOf (l.ofmt == 1) 8 old else v
    wrap 8 (clampTo (l.ofmt == 1) 8 v)

/-- Writing the outputs of the block of rows lo to hi - 1 of a layer, once all of them are formed: X, W and the residual are
read as they stood before the block. -/
def Layer.rowsDone (l : Layer) (h : Head) (free lo hi : Nat) : Head :=
  let work := (List.range' lo (hi - lo)).foldl (fun (m : Store Byte) i =>
    (List.range l.n).foldl (fun (m : Store Byte) j =>
      let a := l.ooff + i * l.opitch + j
      writeByte m a (BitVec.ofNat 8 (l.out h (free + 1024 * i) i j (readByte h.work a).toNat))) m) h.work
  { h with work := work }

/-- lnet (13 R367): once granted, a block of 32 rows at each step; it waits until the last block is written. -/
def execLnet (w : S32) (s : State) : Out :=
  let h := s.head
  let a := (s.rs w.a.toNat).toNat
  let x := readBytes h.wts a 32
  let l := Layer.ofRaw x
  if a % 32 ≠ 0 then .next (s.lineFault causeMatrix)
  else if a + 32 > h.wtsSize then .next (s.lineFault causeSpad)
  else if !layerOk x then .next (s.lineFault causeMatrix)
  else if !l.fits h then .next (s.lineFault causeSpad)
  else if h.request = none then .next (s.requestUnit false)
  else if !h.granted then .next s.wait
  else
    let i := h.progress
    let h' := { l.rowsDone h s.freeCount (32 * i) (min (32 * i + 32) l.rows) with progress := i + 1 }
    let s := { s with head := h', freeCount := s.freeCount + 1024 * 4096 }
    if 32 * (i + 1) < l.rows then .next s.wait else .next (s.releaseUnit 1)

/-- lput (13 R365, R371). -/
def execLput (w : S32) (s : State) : Out :=
  let h := s.head
  let b := h.next - 1
  let a := (s.rs w.a.toNat).toNat
  let n := 4 * h.outw * h.lines b
  if (h.info b).put then .next (s.lineDone 1)
  else if !h.workOk a n then .next (s.lineFault causeSpad)
  else
    let h' := { h with slots := writeBytes h.slots (2 ^ 20 * (b % 3)) n (readBytes h.work a n) }
    .next (({ s with head := h'.onBand b fun i => { i with put := true, margin := h.marginAt b (h.now + h.putCost) } }).lineDone 1)

/-- lpose (13 R365). -/
def execLpose (w : S32) (s : State) : Out := .next ((s.ws w.d.toNat s.head.pose).lineDone 1)
/-- ltime (13 R365): the whole cycles from its issue to the deadline (DEDUCED, log 45). -/
def execLtime (w : S32) (s : State) : Out :=
  .next ((s.ws w.d.toNat (BitVec.ofInt 64 ((s.head.deadline (s.head.next - 1) - 256 * s.head.now) / 256))).lineDone 1)
/-- lend (13 R365): the band's program ends. -/
def execLend (_ : S32) (s : State) : Out :=
  let b := s.head.next - 1
  .next { s with head := ({ s.head with running := false }).endBand b }

/-! ### The sequencer's time -/

/-- Engine cycles of an instruction, up to the next block for an operation on a shared unit that is granted; every instruction that
is not named costs 1. -/
def lineCost (i : Instr) (s : State) : Nat :=
  let h := s.head
  match i with
  | .smulS32 _ | .smulS64 _ | .smulhiS32 _ | .smulhiS64 _ | .sjmpS32 _ | .sjmpS64 _ => 3
  | .sdivS32 _ | .sdivS64 _ | .sremS32 _ | .sremS64 _ => 24
  | .sbr o => branchCost (sbrTaken o.w.f.toNat (s.rs o.w.a.toNat))
  | .lgen _ | .lgenWait _ | .lpose _ => 2
  | .llatch _ => 4
  | .lfetch o => 600 + ceilDiv ((bits o.e1 5 0 + 1) * h.sw * 4) 64
  | .lme _ => if h.granted then 64 + 256 * (h.progress + 1) else 0
  | .lwarp o => 40 + ceilDiv (h.outw * (bits o.e1 23 16 + 1)) 8
  | .lnet w =>
    let l := Layer.ofRaw (readBytes h.wts (s.rs w.a.toNat).toNat 32)
    if h.granted then 32 + (h.progress + 1) * ceilDiv l.n 32 * l.k else 0
  | .lput _ => h.putCost
  | _ => 1

/-- An instruction whose cost the manual only bounds from below. -/
def isLfetch : Instr → Bool
  | .lfetch _ => true
  | _ => false

/-- The unit that the head in focus waits for is another head's. -/
def State.unitBusy (s : State) : Bool :=
  s.heads.any fun (p : Nat × Head) => p.1 != s.cur.hid && p.2.granted && p.2.request == s.head.request

/-- The head in focus waits with its instruction: for a publish, or for a unit that another head holds. Blocks of an operation
that is granted are no wait. -/
def State.lineHold (s : State) : State :=
  let stuck := s.head.request.isNone || (!s.head.granted && s.unitBusy)
  { s with head := { s.head with held := stuck, waited := s.head.waited || stuck } }

/-- The time passes that an instruction of a cost has taken: with a wait, up to the deadline at the latest (DESIGN CHOICE, log 1). -/
def State.lineTick (s : State) (extra : Bool) (c : Nat) : State :=
  let h := s.head
  let t := h.now + c
  let (s, w) : State × Nat := if extra then let (s, x) := s.free 22; (s, x.toNat % ((cycleOf (h.deadline (h.next - 1)) - t).toNat + 1)) else (s, 0)
  { s with head := { s.head with now := t + w, held := false, waited := false } }

end Sys2Proof.Machine
end

