-- ==== Sys2Proof/Machine/Render.lean ====
section
/-! DEFINITION. The raster co-processor: emission, batches, coverage and depth, the visibility buffer, raster teams and
their end, vbld, vbary and vinterp (12 R327-R344, R351, R352; 01 R34). All geometry is exact. -/

namespace Sys2Proof.Machine
open Sys2Proof

/-! ### Exact values -/

/-- A finite f32 value as an integer number of 2^-149. -/
def f32Int (x : W32) : Option Int :=
  match fmtF32.read x.toNat with
  | .fin s m e => let v : Int := (m * 2 ^ (e + 149).toNat : Nat); some (if s then -v else v)
  | _ => none

/-- A fraction with a positive denominator. -/
structure Frac where
  num : Int
  den : Nat
  deriving DecidableEq, Repr

/-- n / d, for d not 0. -/
def Frac.of (n d : Int) : Frac := if d < 0 then { num := -n, den := d.natAbs } else { num := n, den := d.natAbs }
def Frac.le (a b : Frac) : Bool := decide (a.num * b.den ≤ b.num * a.den)
/-- A finite f32 value. -/
def Frac.ofInt (v : Int) : Frac := { num := v, den := 2 ^ 149 }
/-- Rounded once to f32, to nearest even. -/
def Frac.toF32 (a : Frac) : W32 :=
  if a.num = 0 then 0 else BitVec.ofNat 32 (fmtF32.round 0 false (decide (a.num < 0)) a.num.natAbs a.den).1

/-- The canonical f32 NaN. -/
def nanF32 : W32 := 0x7FC00000

/-! ### Image records (12 R351, R353; 14 R378) -/

/-- An image record. -/
structure Image where
  base : W64
  ifmt : Nat
  dim : Nat
  width : Nat
  height : Nat
  depth : Nat
  mips : Nat
  /-- Samples per pixel of a visibility image. -/
  samples : Nat
  bw : Nat
  bh : Nat
  hz : W64
  bmode : Nat
  pub : Option Nat
  deriving DecidableEq, Repr

def fmtVis : Nat := 0x30
def isAstc (f : Nat) : Bool := decide (0x20 ≤ f ∧ f ≤ 0x22)
/-- A format of 4×4 blocks. -/
def isEtc (f : Nat) : Bool := decide (0x10 ≤ f ∧ f ≤ 0x15)
/-- A listed format. -/
def ifmtOk (f : Nat) : Bool := decide (1 ≤ f ∧ f ≤ 0x0A) || isEtc f || isAstc f || f == fmtVis
/-- The ASTC footprints (12 R353). -/
def astcFootprints : List (Nat × Nat) :=
  [(4, 4), (5, 4), (5, 5), (6, 5), (6, 6), (8, 5), (8, 6), (8, 8), (10, 5), (10, 6), (10, 8), (10, 10), (12, 10), (12, 12)]

/-- The fields of an image record (DEDUCED, log 47). -/
def Image.ofRaw (raw : Nat) : Image :=
  let f := recField raw 199 192
  { base := BitVec.ofNat 64 raw, ifmt := f, dim := recField raw 114 112, width := recField raw 77 64 + 1, height := recField raw 91 78 + 1,
    depth := recField raw 105 92 + 1, mips := recField raw 109 106, samples := 2 ^ recField raw 111 110,
    bw := if isAstc f then recField raw 118 115 else if isEtc f then 4 else 1,
    bh := if isAstc f then recField raw 122 119 else if isEtc f then 4 else 1,
    hz := BitVec.ofNat 64 (recField raw 191 128), bmode := recField raw 227 226,
    pub := if recField raw 232 232 = 1 then some (recField raw 242 233) else none }

/-- The dimensions of a level: width, height, and slices or layers. -/
def Image.level (g : Image) (m : Nat) : Nat × Nat × Nat :=
  (max 1 (g.width / 2 ^ m), max 1 (g.height / 2 ^ m),
    match g.dim with | 2 => max 1 (g.depth / 2 ^ m) | 3 => g.depth | 4 => 6 | _ => 1)

/-- An image record without a bad value (DEDUCED, log 47). -/
def imageOk (raw : Nat) : Bool :=
  let g := Image.ofRaw raw
  let big := max (max g.width g.height) (if g.dim = 2 then g.depth else 1)
  recField raw 319 253 == 0 && recField raw 252 243 == 0 && recField raw 231 230 == 0 && recField raw 225 224 == 2
  && recField raw 223 200 == 0 && recField raw 127 123 == 0 && g.bmode != 3
  && (g.pub.isSome || recField raw 242 233 == 0)
  && alignedCanonical g.base 256 && ifmtOk g.ifmt && decide (g.dim ≤ 4) && (g.dim != 0 || g.height == 1)
  && decide (1 ≤ g.mips) && decide (2 ^ (g.mips - 1) ≤ big)
  && (if isAstc g.ifmt then astcFootprints.contains (g.bw, g.bh) else recField raw 122 115 == 0)
  && (if g.ifmt = fmtVis then g.dim == 1 && g.mips == 1 && g.hz.toNat % 8 == 0 else g.samples == 1 && g.hz == 0)

/-- A buffer record over an image's backing: its bytes are reached as a buffer's are (07 R191). -/
def Image.buffer (g : Image) : Rec :=
  { kind := 0, base := g.base, size := 2 ^ 40, stride := 0, fmt := 1, ilv := 0, scaleBase := 0, comp := false, bmode := g.bmode,
    race := false, pub := g.pub }

/-- Image record n, checked. -/
def State.imageRec (s : State) (acc : Acc) (n : Nat) : Except Stop (State × Image) :=
  match s.readRecord acc n with
  | .error e => .error e
  | .ok (s, raw) => if imageOk raw then .ok (s, Image.ofRaw raw) else .error (.trap { cause := causeRecord, tval := BitVec.ofNat 64 n })

/-- The address of sample k of a pixel (12 R335). -/
def Image.sampleAt (g : Image) (x y k : Nat) : W64 :=
  g.base + BitVec.ofNat 64 (16 * (g.samples * (64 * (y / 8 * ((g.width + 7) / 8) + x / 8) + 8 * (y % 8) + x % 8) + k))

/-! ### Emission (12 R329-R332) -/

/-- emitv and emitp: window stores of n bytes of A at base + n × B of the batch at C; a lane whose B exceeds the limit
stores nothing (12 R331). -/
def emitExec (i : Instr) (o : LOp) (s : State) (n base limit : Nat) : Out :=
  longExec i o s fun s =>
    let lanes := (lanesOf (s.enabled o)).filter fun l => !s.isHelper l && decide (s.srcB o false false l ≤ limit)
    match gather (lanes.map fun l => (l, s.spadAccess ((s.srcC o false false l + base + n * s.srcB o false false l : Nat) : Int) n true true)) with
    | .error (st, ps) => s.stopLong o.la.toNat i.size ps st
    | .ok as =>
      let data := as.map fun a => (a.2, s.regsVal o.a.toNat (n / 4) a.1)
      let s := data.foldl (fun s d => (s.winWrite d.1 n d.2).raceMark d.1 n) s
      (s.openWindow o.la.toNat i.size 0 [] 0).count 0x05 (bankConflicts as n)

/-- emitv (12 R331). -/
def execEmitv (o : LOp) (s : State) : Out := emitExec (.emitv o) o s 16 0x40 255
/-- emitp (12 R331). -/
def execEmitp (o : LOp) (s : State) : Out := emitExec (.emitp o) o s 4 0x1040 511

/-- The fields of a draw descriptor of 64 bytes (12 R330). -/
def Draw.ofRaw (x : Nat) : Draw :=
  { ordered := recField x 11 11 == 1, larger := recField x 10 10 == 1, cull := recField x 9 8, vrec := recField x 7 0,
    draw := recField x 55 32, view := (List.range 6).map fun k => BitVec.ofNat 32 (recField x (64 + 32 * k + 31) (64 + 32 * k)),
    x0 := recField x 271 256, y0 := recField x 287 272, x1 := recField x 303 288, y1 := recField x 319 304,
    phdr := BitVec.ofNat 64 (recField x 383 320), pargs := BitVec.ofNat 64 (recField x 447 384) }

/-- The reserved fields of a descriptor, and CULL. -/
def drawOk (x : Nat) : Bool := recField x 31 12 == 0 && recField x 63 56 == 0 && recField x 511 448 == 0 && recField x 9 8 != 3

/-- The header of the raster teams, where PHDR names one that R60 allows, its FEATMASK by the executing core's features, of one
group (12 R332) (DEDUCED, log 46). -/
def State.rasterHeader (s : State) (a : W64) : Option (State × Header) :=
  if a = 0 then some (s, {})
  else if !alignedCanonical a 128 then none
  else
    match s.headerSeen s.team.vf s.team.ctx a with
    | (_, none) => none
    | (s, some raw) =>
      let h := Header.ofRaw raw
      let has := (h.featMask &&& ~~~((s.feat0 s.team.core).zeroExtend 128)) == 0
      if headerOk raw && has && h.groups == 1 then some (s, h) else none

/-- Bytes of a batch (12 R329). -/
def batchBytes : Nat := 0x1040 + 4 * 512

/-- A batch's window offset: aligned, and its header, vertices and primitives in the window; otherwise MISALIGN or SPAD_RANGE (DESIGN
CHOICE, log 61). -/
def State.batchFault (s : State) (off : Nat) : Option Trap :=
  if off % 64 ≠ 0 then some { cause := causeMisalign, tval := BitVec.ofNat 64 off }
  else
    match spadFault s.team off 16 false with
    | some t => some t
    | none =>
      let h := winRead s.team off 4
      let v := min 256 (recField h 24 16)
      let p := min 512 (recField h 9 0)
      let last := max (if v = 0 then 0 else 0x40 + 16 * v) (if p = 0 then 0 else 0x1040 + 4 * p)
      if off + last > spillBase s.team then some { cause := causeSpad, tval := BitVec.ofNat 64 (max off (spillBase s.team)) } else none

/-- The checks of emitend's descriptor: the draw, the record of its image and its header (12 R332). -/
def State.drawCheck (s : State) (a : W64) : Except Stop (State × Draw × Nat × Header) :=
  let acc : Acc := { kind := 0 }
  let bad (n : Nat) : Except Stop (State × Draw × Nat × Header) := .error (.trap { cause := causeRecord, tval := BitVec.ofNat 64 n })
  if bits a 5 0 ≠ 0 then .error (.trap { cause := causeMisalign, tval := a })
  else
    match s.loadVa s.team.vf s.team.ctx acc a 64 with
    | .error e => .error e
    | .ok (s, x) =>
      let d := Draw.ofRaw x
      if !drawOk x then bad d.vrec
      else
        match s.readRecord acc d.vrec with
        | .error e => .error e
        | .ok (s, raw) =>
          if !imageOk raw || (Image.ofRaw raw).ifmt != fmtVis then bad d.vrec
          else
            match s.rasterHeader d.phdr with
            | none => bad d.vrec
            | some (s, h) => .ok (s, d, raw, h)

/-- The checks of emitend (12 R332): of the descriptor's and the batch's the first in the order of 06 R156, so that nothing is posted
where one is of class H (DESIGN CHOICE, log 61). -/
def State.emitCheck (s : State) (a : W64) (off : Nat) : Except Stop (State × Draw × Nat × Header) :=
  match s.drawCheck a, s.batchFault off with
  | .error e, some t => .error ((firstStop [e, .trap t]).getD e)
  | .ok _, some t => .error (.trap t)
  | r, none => r

/-- emitend (12 R332) (DEDUCED, log 46). -/
def execEmitend (o : LOp) (s : State) : Out :=
  longExec (.emitend o) o s fun s =>
    match (lanesOf (s.enabled o)).head? with
    | none => s.openWindow o.la.toNat 8 0 [] 0
    | some l =>
      let off := s.srcB o false false l
      let a : W64 := BitVec.ofNat 64 (s.srcA o true l)
      match s.emitCheck a off with
      | .error e => s.stopLong o.la.toNat 8 [] e
      | .ok (s', d, raw, h) =>
        let used := (s.flush.batchesOf s.team.core).map (·.2.1)
        match (List.range 16).find? fun k => !used.contains k with
        | none => s.wait
        | some k =>
          let w := winRead s'.team off 4
          let p := recField w 9 0
          let whole := recField w 31 25 == 0 && recField w 15 10 == 0 && decide (recField w 24 16 ≤ 256) && decide (p ≤ 512)
          let b : Batch :=
            { order := s'.batchIssued, gid := s'.cur.gid, window := s'.grp.opened, dest := o.d.toNat, mask := s'.enabled o,
              word := (Instr.emitend o).firstWord, off := off, vcount := recField w 24 16, pcount := p, pbase := winRead s'.team (off + 8) 5,
              bytes := winRead s'.team off batchBytes, desc := a, draw := d, img := raw, hdr := h,
              next := if whole then 0 else p, culled := if whole then 0 else p }
          let s' := { s' with batchIssued := s'.batchIssued + 1, team := { s'.team with batches := s'.team.batches.set k b } }
          s'.openWindow o.la.toNat 8 1 [] 0

/-! ### Coverage and depth (12 R333, R334) -/

/-- S × p + O × w, rounded once. -/
def viewAxis (sc of p w : W32) : W32 :=
  match mulVals (fmtF32.read sc.toNat) (fmtF32.read p.toNat), mulVals (fmtF32.read of.toNat) (fmtF32.read w.toNat) with
  | some a, some b => BitVec.ofNat 32 (fmtF32.addVals 0 false [a, b]).1
  | _, _ => nanF32

/-- The list of values, where each is there. -/
def allSome {α : Type} : List (Option α) → Option (List α)
  | [] => some []
  | none :: _ => none
  | some a :: xs => (allSome xs).map (a :: ·)

/-- The triangle of three clip positions; none where a mapped coordinate is not finite. -/
def Tri.of (view : List W32) (vs : List (List W32)) : Option Tri :=
  let c (v : List W32) (k : Nat) : W32 := v.getD k 0
  let p (k : Nat) : W32 := view.getD k 0
  match allSome (vs.map fun v => f32Int (viewAxis (p 0) (p 1) (c v 0) (c v 3))),
        allSome (vs.map fun v => f32Int (viewAxis (p 2) (p 3) (c v 1) (c v 3))), allSome (vs.map fun v => f32Int (c v 3)) with
  | some x, some y, some w => some { x := x, y := y, w := w, z := vs.map fun v => f32Int (c v 2) }
  | _, _, _ => none

/-- The edge function opposite vertex i: a, b and c. -/
def Tri.edge (t : Tri) (i : Nat) : Int × Int × Int :=
  let j := (i + 1) % 3
  let k := (i + 2) % 3
  let x (n : Nat) : Int := t.x.getD n 0
  let y (n : Nat) : Int := t.y.getD n 0
  let w (n : Nat) : Int := t.w.getD n 0
  (y j * w k - y k * w j, x k * w j - x j * w k, x j * y k - x k * y j)

/-- The determinant whose sign is the orientation. -/
def Tri.det (t : Tri) : Int :=
  let (a, b, c) := t.edge 0
  t.x.getD 0 0 * a + t.y.getD 0 0 * b + t.w.getD 0 0 * c

/-- The edge function at a position in sixteenths of a pixel, times 16. -/
def Tri.at (t : Tri) (i : Nat) (px py : Int) : Int := let (a, b, c) := t.edge i; a * px + b * py + 16 * c

/-- z / w where the triangle covers a position (12 R333) (DEDUCED, log 46). -/
def Tri.cover (t : Tri) (px py : Int) : Option Frac :=
  let d := t.det
  let inside (i : Nat) : Bool :=
    let e := t.at i px py
    let (a, b, _) := t.edge i
    if e = 0 then decide (a > 0) || (a == 0 && decide (b > 0)) else decide (e > 0) == decide (d > 0)
  let sum := t.at 0 px py + t.at 1 px py + t.at 2 px py
  if !(inside 0 && inside 1 && inside 2) || !decide (d * sum > 0) then none
  else
    match allSome t.z with
    | none => none
    | some z =>
      let q := Frac.of (t.at 0 px py * z.getD 0 0 + t.at 1 px py * z.getD 1 0 + t.at 2 px py * z.getD 2 0) (16 * d)
      if 0 ≤ q.num ∧ q.num ≤ q.den then some q else none

/-- The depth of a sample: ZS × (z / w) + ZO, rounded once (DEDUCED, log 46). -/
def depthOf (zs zo : W32) (q : Frac) : W32 :=
  match fmtF32.read zs.toNat, fmtF32.read zo.toNat with
  | .fin .., .fin .. =>
    match f32Int zs, f32Int zo with
    | some a, some b => Frac.toF32 { num := a * q.num + b * q.den, den := 2 ^ 149 * q.den }
    | _, _ => nanF32
  | .nan .., _ => nanF32
  | _, .nan .. => nanF32
  | .inf s, o => if q.num = 0 || o == .inf (!s) then nanF32 else BitVec.ofNat 32 (fmtF32.infBits s)
  | _, .inf s => BitVec.ofNat 32 (fmtF32.infBits s)

/-- The sample positions in sixteenths of a pixel (12 R334). -/
def samplePositions (n : Nat) : List (Nat × Nat) :=
  match n with
  | 1 => [(8, 8)]
  | 2 => [(4, 4), (12, 12)]
  | 4 => [(2, 6), (6, 14), (10, 2), (14, 10)]
  | _ => [(1, 9), (3, 3), (5, 13), (7, 7), (9, 1), (11, 11), (13, 5), (15, 15)]

/-- The pixel of a raster team's lane in a tile (12 R338). -/
def lanePixel (tx ty l : Nat) : Nat × Nat :=
  let q := l / 4
  let p := l % 4
  (8 * tx + 2 * (q % 4) + p % 2, 8 * ty + 2 * (q / 4) + p / 2)

/-- A pixel inside the scissor and the target. -/
def Draw.inside (d : Draw) (g : Image) (x y : Nat) : Bool :=
  decide (d.x0 ≤ x ∧ x < d.x1 ∧ d.y0 ≤ y ∧ y < d.y1 ∧ x < g.width ∧ y < g.height)

/-- Depths of a triangle's covered samples in the pixel of a lane of a tile. -/
def laneSamples (d : Draw) (g : Image) (t : Tri) (tx ty l : Nat) : List (Option W32) :=
  let (x, y) := lanePixel tx ty l
  (samplePositions g.samples).map fun p =>
    if !d.inside g x y then none
    else (t.cover (16 * x + p.1 : Nat) (16 * y + p.2 : Nat)).map (depthOf (d.view.getD 4 0) (d.view.getD 5 0))

/-- The mask of the covered samples (DEDUCED, log 46). -/
def covMask (ds : List (Option W32)) : Nat := (ds.zipIdx.map fun p => if p.1.isSome then 2 ^ p.2 else 0).sum

/-- What a triangle covers in a tile, as a raster team holds it (DEDUCED, log 46). -/
def tileJob (d : Draw) (g : Image) (t : Tri) (id : W64) (dw : Bool) (tx ty : Nat) : RasterJob :=
  let ls := (List.range 64).map (laneSamples d g t tx ty)
  { tx := tx, ty := ty, id := id, dw := dw && !d.ordered, cov := ls.map covMask, depth := ls.map fun ds => ds.map fun x => x.getD 0 }

/-! ### The visibility buffer (12 R335-R337) -/

/-- The depths of two samples compare as numbers. -/
def f32Lt (a b : W32) : Bool :=
  !(fmtF32.read a.toNat).isNan && !(fmtF32.read b.toNat).isNan && fmtF32.cmpLt a.toNat b.toNat
def f32Eq (a b : W32) : Bool :=
  !(fmtF32.read a.toNat).isNan && !(fmtF32.read b.toNat).isNan && fmtF32.cmpEq a.toNat b.toNat

/-- A candidate (d, id) replaces the stored sample (12 R336) (DEDUCED, log 46). -/
def replaces (larger : Bool) (d : W32) (id : W64) (d0 : W32) (id0 : W64) : Bool :=
  (if larger then f32Lt d0 d else f32Lt d d0) || (f32Eq d d0 && decide (id.toNat < id0.toNat))

/-- What raster accesses are translated as. -/
def rasterAcc (write : Bool) : Acc := { kind := 0, write := write }

/-- Whether a candidate would replace a stored sample. -/
def State.wouldReplace (s : State) (g : Image) (larger : Bool) (x y k : Nat) (d : W32) (id : W64) : Except Stop (State × Bool) :=
  match s.recRange g.buffer (rasterAcc false) (g.sampleAt x y k) 16 with
  | .error e => .error e
  | .ok ps => let (s, old) := s.loadParts ps; .ok (s, replaces larger d id (BitVec.ofNat 32 (recField old 95 64)) (BitVec.ofNat 64 old))

/-- The merge of a candidate into the stored sample, indivisibly (12 R336) (DEDUCED, log 46). -/
def State.mergeSample (s : State) (g : Image) (larger : Bool) (x y k : Nat) (d : W32) (id : W64) : Except Stop State :=
  match s.recRange g.buffer (rasterAcc true) (g.sampleAt x y k) 16 with
  | .error e => .error e
  | .ok ps =>
    let (s, old) := s.loadParts ps
    .ok (if replaces larger d id (BitVec.ofNat 32 (recField old 95 64)) (BitVec.ofNat 64 old)
      then s.storeParts ps (id.toNat + d.toNat * 2 ^ 64) else s)

/-- A fold that an access can stop. -/
def foldStop {α β : Type} (f : β → α → Except Stop β) : List α → β → Except Stop β
  | [], b => .ok b
  | a :: as, b => match f b a with | .error e => .error e | .ok b => foldStop f as b

/-- The covered samples of a tile: lane, sample and depth. -/
def RasterJob.samples (j : RasterJob) : List (Nat × Nat × W32) :=
  (List.range 64).flatMap fun l => ((List.range 8).filter fun k => j.cov.getD l 0 / 2 ^ k % 2 == 1).map fun k =>
    (l, k, (j.depth.getD l []).getD k 0)

/-- Merging the covered samples of a tile. -/
def State.mergeTile (s : State) (g : Image) (larger : Bool) (j : RasterJob) : Except Stop State :=
  foldStop (fun s (x : Nat × Nat × W32) =>
    let (px, py) := lanePixel j.tx j.ty x.1
    s.mergeSample g larger px py x.2.1 x.2.2 j.id) j.samples s

/-- The hierarchical depth word of a tile: where it lies; none without one (12 R337) (DEDUCED, log 46). -/
def State.hzWord (s : State) (g : Image) (tx ty : Nat) : Except Stop (Option (List (Loc × Nat))) :=
  if g.hz = 0 then .ok none
  else (s.recRange g.buffer (rasterAcc true) (g.hz + BitVec.ofNat 64 (8 * (ty * ((g.width + 7) / 8) + tx))) 8).map some

/-- The depth is beyond the bound. -/
def beyondBound (larger : Bool) (d bound : W32) : Bool := if larger then f32Lt d bound else f32Lt bound d

/-- Every sample of the tile is covered, with a depth that is a number (DEDUCED, log 46). -/
def RasterJob.full (j : RasterJob) (n : Nat) : Bool :=
  (List.range 64).all (fun l => j.cov.getD l 0 == 2 ^ n - 1) && j.samples.all fun x => !(fmtF32.read x.2.2.toNat).isNan

/-- The farthest depth of a tile. -/
def RasterJob.farthest (j : RasterJob) (larger : Bool) : W32 :=
  match j.samples with
  | [] => 0
  | x :: xs => xs.foldl (fun a y => if (if larger then f32Lt y.2.2 a else f32Lt a y.2.2) then y.2.2 else a) x.2.2

/-- The update of BOUND after a tile's writes (12 R337): the nearer of BOUND and the primitive's farthest depth (DEDUCED, log 46). -/
def State.hzTighten (s : State) (g : Image) (larger : Bool) (j : RasterJob) : Except Stop State :=
  match s.hzWord g j.tx j.ty with
  | .error e => .error e
  | .ok none => .ok s
  | .ok (some ps) =>
    if j.dw || !j.full g.samples then .ok s
    else
      let (s, w) := s.loadParts ps
      let far := j.farthest larger
      let bound : W32 := BitVec.ofNat 32 w
      let new := if beyondBound larger bound far then far else bound
      .ok (s.storeParts ps (new.toNat + w / 2 ^ 32 % 2 * 2 ^ 32))

/-- What a tile did with a primitive. -/
inductive TileDone where
  | drawn
  | rejected
  /-- It waits for its team. -/
  | team (j : RasterJob)

/-- One tile of a primitive (12 R336-R338, R340). opaque: drawn without a team (DEDUCED, log 46). -/
def State.rasterTile (s : State) (d : Draw) (g : Image) (opq : Bool) (dw : Bool) (j : RasterJob) : Except Stop (State × TileDone) :=
  match s.hzWord g j.tx j.ty with
  | .error e => .error e
  | .ok hz =>
    let (s, w) := match hz with | some ps => s.loadParts ps | none => (s, 2 ^ 32)
    let bound : W32 := BitVec.ofNat 32 w
    if !j.dw && hz.isSome && w / 2 ^ 32 % 2 == 0 && j.samples.all fun x => beyondBound d.larger x.2.2 bound then .ok (s, .rejected)
    else
      let s := match hz with | some ps => if dw && !d.ordered then s.storeParts ps (bound.toNat + 2 ^ 32) else s | none => s
      if d.ordered then
        let keep : Except Stop (State × List (Nat × Nat)) :=
          foldStop (fun (a : State × List (Nat × Nat)) (x : Nat × Nat × W32) =>
            let (px, py) := lanePixel j.tx j.ty x.1
            (a.1.wouldReplace g d.larger px py x.2.1 x.2.2 j.id).map fun r => (r.1, if r.2 then a.2 ++ [(x.1, x.2.1)] else a.2))
            j.samples (s, [])
        match keep with
        | .error e => .error e
        | .ok (s, ks) =>
          let cov := (List.range 64).map fun l => ((ks.filter fun k => k.1 == l).map fun k => 2 ^ k.2).sum
          .ok (s, if ks.isEmpty || d.phdr == 0 then .drawn else .team { j with cov := cov })
      else if opq then
        match s.mergeTile g d.larger j with
        | .error e => .error e
        | .ok s => (s.hzTighten g d.larger j).map fun s => (s, .drawn)
      else .ok (s, .team j)

/-! ### A primitive (12 R333) -/

/-- Reading bytes of a batch: a byte changed since the emitend is the old or the new one (12 R332) (DESIGN CHOICE, log 28). -/
def State.batchRead (s : State) (b : Batch) (off n : Nat) : State × Nat :=
  let new := winRead s.team (b.off + off) n
  let old := recField b.bytes (8 * (off + n) - 1) (8 * off)
  if new = old then (s, new)
  else
    let (s, f) := s.free 23
    (s, ((List.range n).map fun k =>
      (if bit f k then recField new (8 * k + 7) (8 * k) else recField old (8 * k + 7) (8 * k)) * 2 ^ (8 * k)).sum)

/-- The clip position of a vertex. -/
def State.batchVertex (s : State) (b : Batch) (v : Nat) : State × List W32 :=
  let (s, x) := s.batchRead b (0x40 + 16 * v) 16
  (s, (List.range 4).map fun k => BitVec.ofNat 32 (x / 2 ^ (32 * k)))

/-- The tiles that meet the scissor and the target. -/
def Draw.tiles (d : Draw) (g : Image) : List (Nat × Nat) :=
  let x1 := min d.x1 g.width
  let y1 := min d.y1 g.height
  if x1 ≤ d.x0 ∨ y1 ≤ d.y0 then []
  else
    (List.range' (d.y0 / 8) ((y1 - 1) / 8 + 1 - d.y0 / 8)).flatMap fun ty =>
      (List.range' (d.x0 / 8) ((x1 - 1) / 8 + 1 - d.x0 / 8)).map fun tx => (tx, ty)

/-- Changing a batch of the team in focus. -/
def State.onBatch (s : State) (k : Nat) (f : Batch → Batch) : State :=
  match s.team.batches.lookup k with
  | some b => { s with team := { s.team with batches := s.team.batches.set k (f b) } }
  | none => s

/-- The primitive's triangle, where it is not culled (12 R329, R333). -/
def triOf (b : Batch) (p : Nat) (vs : List (List W32)) : Option Tri :=
  let idx := [recField p 7 0, recField p 15 8, recField p 23 16]
  if recField p 31 26 ≠ 0 ∨ idx.any (fun i => decide (i ≥ b.vcount)) then none
  else
    match Tri.of b.draw.view vs with
    | none => none
    | some t => if t.det = 0 ∨ (b.draw.cull = 1 ∧ t.det < 0) ∨ (b.draw.cull = 2 ∧ t.det > 0) then none else some t

/-- The next primitive of a batch: it and its triangle. -/
def State.nextPrimitive (s : State) (b : Batch) : State × Nat × Option Tri :=
  let (s, p) := s.batchRead b (0x1040 + 4 * b.next) 4
  let (s, v0) := s.batchVertex b (recField p 7 0)
  let (s, v1) := s.batchVertex b (recField p 15 8)
  let (s, v2) := s.batchVertex b (recField p 23 16)
  (s, p, triOf b p [v0, v1, v2])

/-- The tiles in which a triangle covers a sample, in order (12 R334, R338). -/
def Batch.tileJobs (b : Batch) (p : Nat) (t : Tri) : List RasterJob :=
  let g := Image.ofRaw b.img
  let id : W64 := BitVec.ofNat 64 (b.draw.draw * 2 ^ 40 + (b.pbase + b.next) % 2 ^ 40)
  ((b.draw.tiles g).map fun x => tileJob b.draw g t id (recField p 25 25 == 1) x.1 x.2).filter fun j => !j.samples.isEmpty

/-- Rasterising a tile of a primitive: tiles rejected, and those that wait for a team. -/
def State.rasterJob (s : State) (b : Batch) (p : Nat) (j : RasterJob) : Except Stop (State × Nat × List RasterJob) :=
  let opq := recField p 24 24 != 1 || b.draw.phdr == 0
  (s.rasterTile b.draw (Image.ofRaw b.img) opq (recField p 25 25 == 1) j).map fun r =>
    match r.2 with
    | .drawn => (r.1, 0, [])
    | .rejected => (r.1, 1, [])
    | .team j => (r.1, 0, [j])

/-- A tile of a batch's primitive is done, of n: the next tile follows, or the next primitive. -/
def Batch.tileDone (b : Batch) (n hz : Nat) (js : List RasterJob) : Batch :=
  let b := { b with hz := b.hz + hz, jobs := b.jobs ++ js }
  if b.tile + 1 < n then { b with tile := b.tile + 1 } else { b with next := b.next + 1, drawn := b.drawn + 1, tile := 0, setup := none }

/-- RASTER_PRIMITIVE of the team in focus: the next primitive is set up, or its next tile is done (12 R333, R357). An access that
cannot be made leaves everything as it was. -/
def State.rasterNext (s : State) (k : Nat) (b : Batch) : State :=
  match b.setup with
  | none =>
    match s.nextPrimitive b with
    | (s', _, none) => s'.onBatch k fun b => { b with next := b.next + 1, culled := b.culled + 1 }
    | (s', p, some t) => s'.onBatch k fun b => { b with setup := some (p, t), tile := 0 }
  | some (p, t) =>
    let js := b.tileJobs p t
    match js[b.tile]? with
    | none => s.onBatch k fun b => b.tileDone 0 0 []
    | some j =>
      match s.rasterJob b p j with
      | .ok (s', hz, new) => s'.onBatch k fun b => b.tileDone js.length hz new
      | .error (.trap e) => s.onBatch k fun b => { b with fault := some e, next := b.pcount, jobs := [] }
      | .error (.page q) =>
        let (s, q) := s.postFault s.team.vf s.team.ctx s.team.core ((s.team.groups.get {} b.gid).windowPc b.window) q
        s.onBatch k fun b => { b with park := [q] }
      | .error (.ue loc) => s.stopContext s.team.vf s.team.ctx causeUe loc

/-- The batch in a progress record of a core. -/
def State.batchAt (s : State) (core k : Nat) : Option (Nat × Batch) :=
  ((s.batchesOf core).find? fun (b : Nat × Nat × Batch) => b.2.1 == k).map fun b => (b.1, b.2.2)

/-- A batch whose access was refused by the driver fails its emitend. -/
def Batch.settle (b : Batch) : Batch :=
  match failedOf b.park with | some e => { b with fault := some e, next := b.pcount, jobs := [], park := [] } | none => b

/-- RASTER_PRIMITIVE (12 R333-R337, R357) (DEDUCED, log 46). -/
def execRasterPrimitive (core batch : Nat) (s : State) : Out :=
  match s.batchAt core batch with
  | none => .next s
  | some (uid, b) =>
    if (s.teamOf uid).stopped && !(s.teamOf uid).aborted then .next s
    else if (failedOf b.park).isSome then .next (s.asScalar uid fun s => s.onBatch batch Batch.settle)
    else if b.fault.isSome ∨ b.park ≠ [] ∨ b.next ≥ b.pcount then .next s
    else .next (s.asScalar uid fun s => s.rasterNext batch b)

/-! ### Raster teams (12 R338-R340) -/

/-- The lanes of a raster team: those with a covered sample, and the helper lanes of their quads. -/
def RasterJob.covered (j : RasterJob) : Mask := maskOf fun l => decide (l < 64) && j.cov.getD l 0 != 0
def RasterJob.helpers (j : RasterJob) : Mask :=
  maskOf fun l => decide (l < 64) && j.cov.getD l 0 == 0 && (List.range' (l / 4 * 4) 4).any fun k => j.cov.getD k 0 != 0

/-- A register of a raster team: the launch value in lanes 0-63. -/
def rasterReg (poison : Bool) (r : Nat) (f : Nat → W32) : LaneVec :=
  Vector.ofFn fun l : Fin 96 => if l.val < 64 then f l.val else (vInit poison r).get l

/-- The group of a raster team with its launch values. -/
def rasterGroup (h : Header) (slot : Nat) (j : RasterJob) : Group :=
  let low (l : Nat) : Nat := ((List.range 8).find? fun k => j.cov.getD l 0 / 2 ^ k % 2 == 1).getD 0
  let v : Store LaneVec :=
    [(0, rasterReg h.poison 0 fun l => BitVec.ofNat 32 (j.cov.getD l 0)),
     (1, rasterReg h.poison 1 fun l => let (x, y) := lanePixel j.tx j.ty l; BitVec.ofNat 32 (x + y * 2 ^ 14)),
     (2, rasterReg h.poison 2 fun _ => j.id.truncate 32),
     (3, rasterReg h.poison 3 fun _ => BitVec.ofNat 32 (j.id.toNat / 2 ^ 32)),
     (4, rasterReg h.poison 4 fun l => if j.cov.getD l 0 = 0 then 0 else (j.depth.getD l []).getD (low l) 0)]
  { newGroup h 0 slot with v := v, helper := j.helpers, slotA := { valid := true, pc := h.laneEntry, mask := j.covered ||| j.helpers } }

/-- The first core of a cluster that can hold one more team of a header. -/
def State.rasterCore (s : State) (vf cl : Nat) (h : Header) : Option Nat :=
  (List.range' (24 * cl) 24).find? fun c => s.coreOf vf c && !(s.core c).quarantined && s.fits c h 1

/-- Starting the team of a tile (12 R338) (DEDUCED, log 46) (DESIGN CHOICE, log 13). -/
def State.startRaster (s : State) (uid k core : Nat) (b : Batch) (j : RasterJob) : State :=
  let p := s.teamOf uid
  let g := Image.ofRaw b.img
  let idx := j.ty * ((g.width + 7) / 8) + j.tx
  let (s, base) := s.placeWindow core b.hdr.spad
  let t : Team :=
    { live := true, vf := p.vf, ctx := p.ctx, launch := p.launch, core := core, index := idx, teams := 1, prio := p.prio, hdr := b.hdr,
      winBase := base, spc := b.hdr.scalarEntry, perfReq := (s.vf p.vf).perfDef,
      s := [(1, b.draw.pargs), (2, b.hdr.recTab), (3, BitVec.ofNat 64 idx), (4, 1)],
      groups := [(0, rasterGroup b.hdr ((s.freeSlots core).getD 0 0) j)],
      raster := some { parent := uid, batch := b.order, draw := b.draw, img := b.img, job := j } }
  let b' := { b with jobs := b.jobs.erase j, running := b.running ++ [(s.nextTeam, j.tx, j.ty)] }
  let s := s.onTeam uid fun t => { t with batches := t.batches.set k b' }
  ({ s with teams := s.teams.set s.nextTeam t, nextTeam := s.nextTeam + 1 }).resolveGrant core

/-- The team of a batch's next tile starts where it fits: not in a pre-emption, and within the save budget (DESIGN CHOICE, log 13). -/
def State.rasterStart (s : State) (core batch : Nat) (ordered : Bool) : State :=
  match s.batchAt core batch with
  | none => s
  | some (uid, b) =>
    let p := s.teamOf uid
    let c := s.ctx p.vf p.ctx
    if b.draw.ordered != ordered || p.stopped || c.phase != .none then s
    else
      match s.nextJob core b, s.rasterCore p.vf (clusterOfCore core) b.hdr with
      | some j, some k =>
        let size := savedSize (((s.residentsOf p.vf p.ctx).map fun t => (t.2.core, t.2.hdr)) ++ [(k, b.hdr)])
        if (match (s.vf p.vf).budget with | none => true | some x => decide (size ≤ x)) then s.startRaster uid batch k b j else s
      | _, _ => s

/-- COVERAGE_TEAM_START (12 R338). -/
def execCoverageTeamStart (core batch : Nat) (s : State) : Out := .next (s.rasterStart core batch false)
/-- PIXEL_TEAM_START (12 R340). -/
def execPixelTeamStart (core batch : Nat) (s : State) : Out := .next (s.rasterStart core batch true)

/-- cover (12 R339): outside a raster team it is an illegal encoding, before every later check of 02 R57. -/
def execCover (o : LOp) (s : State) : Out :=
  match s.team.raster with
  | none => .next (s.raise { cause := causeIllegal, tval := (Instr.cover o).firstWord.zeroExtend 64 } 8)
  | some r =>
    laneExec (.cover o) o s fun s =>
      let one (c : Store (Nat × Option W32)) (l : Nat) : Store (Nat × Option W32) :=
        if s.isHelper l then c
        else c.set l (s.srcA o false l, if bit o.f 0 && r.job.dw then some (BitVec.ofNat 32 (s.srcB o false false l)) else none)
      let r' := { r with covers := (lanesOf (s.enabled o)).foldl one r.covers }
      ({ s with team := { s.team with raster := some r' } }).retire 8

/-- The coverage and depths that a raster team leaves. -/
def Raster.final (r : Raster) : RasterJob :=
  let lane (l : Nat) : Nat × List W32 :=
    let c := r.job.cov.getD l 0
    let d := r.job.depth.getD l []
    match r.covers.lookup l with
    | none => (c, d)
    | some (a, none) => (c &&& a, d)
    | some (a, some x) => (c &&& a, d.map fun _ => x)
  { r.job with cov := (List.range 64).map fun l => (lane l).1, depth := (List.range 64).map fun l => (lane l).2 }

/-- The merge at the end of a raster team in focus (12 R337, R339); an ordered draw writes nothing. -/
def State.rasterMerge (s : State) (r : Raster) : Except Stop State :=
  let g := Image.ofRaw r.img
  if r.draw.ordered then .ok s
  else match s.mergeTile g r.draw.larger r.final with | .error e => .error e | .ok s => s.hzTighten g r.draw.larger r.final

/-- A raster team is freed: its batch counts it no longer; a fault of its merge is the emitend's. -/
def State.rasterGone (s : State) (uid : Nat) (r : Raster) (fault : Option Trap) : State :=
  let s := s.freeTeam uid
  let one (b : Batch) : Batch :=
    if b.order = r.batch then { b with running := b.running.filter fun x => x.1 != uid, fault := if b.fault.isSome then b.fault else fault } else b
  s.onLive r.parent fun t => { t with batches := t.batches.map fun (p : Nat × Batch) => (p.1, one p.2) }

/-- TEAM_END of a raster team: its samples are merged as it ends (12 R338, R339). -/
def State.rasterEnd (s : State) (uid : Nat) (t : Team) (r : Raster) : State :=
  if t.aborted then s.rasterGone uid r none
  else
    match failedOf t.spark with
    | some e => s.rasterGone uid r (some e)
    | none =>
      if t.spark ≠ [] then s
      else
        let c := s.cur
        let s' := s.flush.focus { stream := .scalar, uid := uid }
        match s'.rasterMerge r with
        | .ok s' => (s'.flush.focus c).rasterGone uid r none
        | .error (.trap e) => s.rasterGone uid r (some e)
        | .error (.page q) =>
          let (s, q) := s.postFault t.vf t.ctx t.core 0 q
          s.onTeam uid fun t => { t with spark := [q] }
        | .error (.ue loc) => s.stopContext t.vf t.ctx causeUe loc

/-- TEAM_END (01 R34): a team whose streams have exited, or that an abort stopped, is freed once its engine commands have
completed; its launch's scope counts one team less. -/
def execTeamEnd (team : Nat) (s : State) : Out :=
  let t := s.teamOf team
  if !t.live ∨ !(t.aborted || t.over) then .next s
  else
    let s := if t.aborted then s.settleAborted team else s
    if s.teamBusy team then .next s
    else
      match t.raster with
      | some r => .next (s.rasterEnd team t r)
      | none => .next ((s.freeTeam team).teamsGone t.launch 1)

/-- EMITEND_RESULT (12 R332): every primitive is done, and every team of the batch has ended. -/
def execEmitendResult (core batch : Nat) (s : State) : Out :=
  match s.batchAt core batch with
  | none => .next s
  | some (uid, b) =>
    if b.next < b.pcount ∨ b.jobs ≠ [] ∨ b.running ≠ [] then .next s
    else
      let st := b.drawn + b.culled * 2 ^ 10 + min 1023 b.hz * 2 ^ 20
      let s := s.onTeam uid fun t => { t with batches := t.batches.erase batch }
      .next (s.onWindow uid b.gid b.window fun w =>
        match b.fault with
        | some e => { w with fault := some (.trap e), after := 0, waiting := w.waiting - 1 }
        | none => { w with writes := w.writes ++ [(b.dest, b.mask, Vector.replicate 96 (BitVec.ofNat 32 st))], waiting := w.waiting - 1 })

/-! ### Reading visibility and interpolating (12 R342-R344) -/

/-- A pixel word (12 R328): x, y and sample. -/
def pixelX (w : Nat) : Nat := w % 2 ^ 14
def pixelY (w : Nat) : Nat := w / 2 ^ 14 % 2 ^ 14
def pixelSample (w : Nat) : Nat := w / 2 ^ 28 % 8

/-- The sample a lane of vbld reads; none reads as 0 (12 R342). -/
def State.vbldPlace (s : State) (g : Image) (w k : Nat) : Except Stop (Option (List (Loc × Nat))) :=
  let x := pixelX w
  let y := pixelY w
  let at_ (x y k : Nat) : Except Stop (Option (List (Loc × Nat))) := (s.recRange g.buffer { kind := 0 } (g.sampleAt x y k) 16).map some
  if x < g.width ∧ y < g.height ∧ k < g.samples then at_ x y k
  else
    match g.bmode with
    | 0 => .ok none
    | 1 => at_ (min x (g.width - 1)) (min y (g.height - 1)) (min k (g.samples - 1))
    | _ => .error (.trap { cause := causeBounds, tval := BitVec.ofNat 64 (x + g.width * y) })

/-- Reading the places of lanes, ascending. -/
def State.readLanes (s : State) : List (Nat × Option (List (Loc × Nat))) → State × List (Nat × Nat)
  | [] => (s, [])
  | (l, none) :: r => let (s, vs) := State.readLanes s r; (s, (l, 0) :: vs)
  | (l, some ps) :: r =>
    let (s, x) := s.loadParts ps
    let (s, vs) := State.readLanes s r
    (s, (l, x) :: vs)

/-- vbld (12 R342). -/
def execVbld (o : LOp) (s : State) : Out :=
  longExec (.vbld o) o s fun s =>
    let m := s.enabled o
    if m = 0 then s.openWindow o.la.toNat o.size 0 [] 0
    else
      match s.imageRec { kind := 0 } o.sub.toNat with
      | .error e => s.stopLong o.la.toNat o.size [] e
      | .ok (s, g) =>
        if g.ifmt ≠ fmtVis then s.stopLong o.la.toNat o.size [] (.trap { cause := causeRecord, tval := BitVec.ofNat 64 o.sub.toNat })
        else
          match gather ((lanesOf m).map fun l => (l, s.vbldPlace g (s.srcA o false l) o.imm.toNat)) with
          | .error (st, ps) => s.stopLong o.la.toNat o.size ps st
          | .ok as =>
            let (s, vs) := s.readLanes as
            s.openWindow o.la.toNat o.size 0 (regsResult o.d.toNat 3 m vs) 0

/-- The barycentrics of a sample: none where the manual gives no value (12 R343). -/
def baryOf (view : List W32) (vs : List (List W32)) (n w : Nat) : Option (W32 × W32 × W32) :=
  match Tri.of view vs with
  | none => none
  | some t =>
    if t.det = 0 then some (nanF32, nanF32, flagNV)
    else
      match (samplePositions n)[pixelSample w]? with
      | none => none
      | some p =>
        let px : Int := (16 * pixelX w + p.1 : Nat)
        let py : Int := (16 * pixelY w + p.2 : Nat)
        let sum := t.at 0 px py + t.at 1 px py + t.at 2 px py
        if sum = 0 then none else some ((Frac.of (t.at 1 px py) sum).toF32, (Frac.of (t.at 2 px py) sum).toF32, 0)

/-- The barycentrics of lanes, with free values where the manual gives none (DESIGN CHOICE, log 28). -/
def State.baryLanes (s : State) (f : Nat → Option (W32 × W32 × W32)) : List Nat → State × List (Nat × Nat) × W32
  | [] => (s, [], 0)
  | l :: ls =>
    let (s, b) := match f l with
      | some b => (s, b)
      | none => let (s, x) := s.free 24; (s, x.truncate 32, BitVec.ofNat 32 (x.toNat / 2 ^ 32), 0)
    let (s, vs, fl) := State.baryLanes s f ls
    (s, (l, b.1.toNat + b.2.1.toNat * 2 ^ 32) :: vs, b.2.2 ||| fl)

/-- vbary (12 R343). -/
def execVbary (o : LOp) (s : State) : Out :=
  longExec (.vbary o) o s fun s =>
    let m := s.enabled o
    let a := s.rs (match o.cField with | some c => c.toNat | none => 0)
    if m = 0 then s.openWindow o.la.toNat 8 0 [] 0
    else if bits a 5 0 ≠ 0 then s.stopLong o.la.toNat 8 [] (.trap { cause := causeMisalign, tval := a })
    else
      match s.loadVa s.team.vf s.team.ctx { kind := 0 } a 64 with
      | .error e => s.stopLong o.la.toNat 8 [] e
      | .ok (s, x) =>
        let view := (Draw.ofRaw x).view
        let vert (l k : Nat) : List W32 := (List.range 4).map fun c => s.lane (o.a.toNat + 4 * k + c) l
        let (s, vs, fl) := s.baryLanes (fun l => baryOf view [vert l 0, vert l 1, vert l 2] (2 ^ bits o.f 1 0) (s.srcB o false false l)) (lanesOf m)
        s.openWindow o.la.toNat 8 0 (regsResult o.d.toNat 2 m vs) fl

/-- The terms of vinterp: (1 - b1 - b2) × B + b1 × (B + 1) + b2 × (B + 2), exactly; none for 0 × ∞ (12 R344). -/
def interpVals (b1 b2 p0 p1 p2 : FVal) : Option (List FVal) :=
  let one : FVal := .fin false 1 0
  -- an infinite weight makes the factor of B infinite
  let w0 : Option (List FVal) :=
    match b1, b2 with
    | .fin s m e, .fin t n k =>
      let (v, e0) := sumTerms [(false, 1, 0), (!s, m, e), (!t, n, k)]
      some [.fin (decide (v < 0)) v.natAbs e0]
    | .inf s, .inf t => if s = t then some [.inf (!s)] else none
    | .inf s, _ => some [.inf (!s)]
    | _, .inf t => some [.inf (!t)]
    | _, _ => some [one]
  match w0 with
  | some [w] => allSome [mulVals w p0, mulVals b1 p1, mulVals b2 p2]
  | _ => none

/-- vinterp of codes (12 R344). -/
def fInterp (rm : Rounding) (ftz : Bool) (b1 b2 p0 p1 p2 : Nat) : Nat × W32 :=
  let f := fmtF32
  let x (v : Nat) : Nat := f.operand ftz v
  match f.nanOf [x p0, x p1, x p2, x b1, x b2] with
  | some r => r
  | none =>
    match interpVals (f.read (x b1)) (f.read (x b2)) (f.read (x p0)) (f.read (x p1)) (f.read (x p2)) with
    | some vs => f.addVals rm ftz vs
    | none => f.invalid

/-- vinterp (12 R344). -/
def execVinterp (o : LOp) (s : State) : Out :=
  laneExec (.vinterp o) o s fun s =>
    let a := o.a.toNat
    let b := o.b.toNat
    let r (l : Nat) : Nat × W32 :=
      fInterp (roundingOf (bits o.f 3 2) s.grp.fpctl) (ftzOf s.grp.fpctl) (s.lane a l).toNat (s.lane (a + 1) l).toNat
        (s.lane b l).toNat (s.lane (b + 1) l).toNat (s.lane (b + 2) l).toNat
    ((s.setD o false fun l => (r l).1).orFlags (unionFlags (s.enabled o) fun l => (r l).2)).retire 8

end Sys2Proof.Machine
end

