-- ==== Sys2Proof/Machine/Blocks.lean ====
section
/-! DEFINITION. Texels of compressed blocks (12 R353): ETC2 and EAC, and ASTC for the LDR, sRGB and HDR profiles. The manual names
these standards; what they say is PRESUMED (log 60). -/

namespace Sys2Proof.Machine
open Sys2Proof

/-- Bits hi to lo of a number. -/
def fieldOf (x hi lo : Nat) : Nat := x / 2 ^ lo % 2 ^ (hi + 1 - lo)
/-- A number clamped to 0 to top. -/
def satTo (top : Nat) (x : Int) : Nat := min top x.toNat

/-! ### ETC2 and EAC -/

/-- The 64 bits of a block, its first byte the most significant. -/
def etcWord (x : Nat) : Nat := ((List.range 8).map fun k => x / 2 ^ (8 * k) % 256 * 2 ^ (8 * (7 - k))).sum
def etcModifiers : List (Nat × Nat) := [(2, 8), (5, 17), (9, 29), (13, 42), (18, 60), (24, 80), (33, 106), (47, 183)]
def etcDistances : List Nat := [3, 6, 11, 16, 23, 32, 41, 64]
/-- A component of 4, 5, 6 or 7 bits as 8 bits. -/
def etcExpand (n c : Nat) : Nat := if n = 4 then 17 * c else c * 2 ^ (8 - n) + c / 2 ^ (2 * n - 8)
/-- Adding d to every component of a colour. -/
def etcShift (c : List Nat) (d : Int) : List Nat := c.map fun v => satTo 255 (v + d)

/-- The colour of texel (x, y) of an ETC2 colour block, with its alpha. punch: a block of the format with one-bit alpha (PRESUMED, log 60). -/
def etcColour (punch : Bool) (w x y : Nat) : List Nat :=
  let f := fieldOf w
  let i := 4 * x + y
  let idx := 2 * f (16 + i) (16 + i) + f i i
  let diff := punch || f 33 33 == 1
  let solid := !punch || f 33 33 == 1
  let delta (v : Nat) : Int := if v ≥ 4 then (v : Int) - 8 else v
  let second (hi : Nat) : Int := (f hi (hi - 4) : Int) + delta (f (hi - 5) (hi - 7))
  let out (v : Int) : Bool := decide (v < 0) || decide (v > 31)
  let clear : List Nat := [0, 0, 0, 0]
  if !diff || !(out (second 63) || out (second 55) || out (second 47)) then
    let first := if (if f 32 32 = 1 then y else x) < 2 then true else false
    let base : List Nat :=
      if diff then
        if first then [63, 55, 47].map fun h => etcExpand 5 (f h (h - 4)) else [63, 55, 47].map fun h => etcExpand 5 (second h).toNat
      else [63, 55, 47].map fun h => etcExpand 4 (if first then f h (h - 3) else f (h - 4) (h - 7))
    let (a, b) := etcModifiers.getD (if first then f 39 37 else f 36 34) (0, 0)
    let a : Nat := if solid then a else 0
    if !solid && idx == 2 then clear
    else etcShift base (match idx with | 0 => (a : Int) | 1 => (b : Int) | 2 => -(a : Int) | _ => -(b : Int)) ++ [255]
  else if out (second 63) then
    let c1 := [4 * f 60 59 + f 57 56, f 55 52, f 51 48].map (etcExpand 4)
    let c2 := [f 47 44, f 43 40, f 39 36].map (etcExpand 4)
    let d : Int := (etcDistances.getD (2 * f 35 34 + f 32 32) 0 : Nat)
    if !solid && idx == 2 then clear
    else (match idx with | 0 => c1 | 1 => etcShift c2 d | 2 => c2 | _ => etcShift c2 (-d)) ++ [255]
  else if out (second 55) then
    let c1 := [f 62 59, 2 * f 58 56 + f 52 52, 8 * f 51 51 + f 49 47]
    let c2 := [f 46 43, f 42 39, f 38 35]
    let order (c : List Nat) : Nat := c.foldl (fun v k => 16 * v + k) 0
    let d : Int := (etcDistances.getD (4 * f 34 34 + 2 * f 32 32 + (if order c1 ≥ order c2 then 1 else 0)) 0 : Nat)
    let c1 := c1.map (etcExpand 4)
    let c2 := c2.map (etcExpand 4)
    if !solid && idx == 2 then clear
    else (match idx with | 0 => etcShift c1 d | 1 => etcShift c1 (-d) | 2 => etcShift c2 d | _ => etcShift c2 (-d)) ++ [255]
  else
    let o := [etcExpand 6 (f 62 57), etcExpand 7 (64 * f 56 56 + f 54 49), etcExpand 6 (32 * f 48 48 + 8 * f 44 43 + f 41 39)]
    let h := [etcExpand 6 (2 * f 38 34 + f 32 32), etcExpand 7 (f 31 25), etcExpand 6 (f 24 19)]
    let v := [etcExpand 6 (f 18 13), etcExpand 7 (f 12 6), etcExpand 6 (f 5 0)]
    ((List.range 3).map fun k =>
      let o : Int := (o.getD k 0 : Nat)
      satTo 255 (((x : Int) * ((h.getD k 0 : Nat) - o) + (y : Int) * ((v.getD k 0 : Nat) - o) + 4 * o + 2) / 4)) ++ [255]

def eacModifiers : List (List Int) :=
  [[-3, -6, -9, -15, 2, 5, 8, 14], [-3, -7, -10, -13, 2, 6, 9, 12], [-2, -5, -8, -13, 1, 4, 7, 12], [-2, -4, -6, -13, 1, 3, 5, 12],
   [-3, -6, -8, -12, 2, 5, 7, 11], [-3, -7, -9, -11, 2, 6, 8, 10], [-4, -7, -8, -11, 3, 6, 7, 10], [-3, -5, -8, -11, 2, 4, 7, 10],
   [-2, -6, -8, -10, 1, 5, 7, 9], [-2, -5, -8, -10, 1, 4, 7, 9], [-2, -4, -8, -10, 1, 3, 7, 9], [-2, -5, -7, -10, 1, 4, 6, 9],
   [-3, -4, -7, -10, 2, 3, 6, 9], [-1, -2, -3, -10, 0, 1, 2, 9], [-4, -6, -8, -9, 3, 5, 7, 8], [-3, -5, -7, -9, 2, 4, 6, 8]]

/-- Base, multiplier and modifier of texel (x, y) of an EAC block. -/
def eacParts (w x y : Nat) : Int × Int × Int :=
  let i := 4 * x + y
  ((fieldOf w 63 56 : Nat), (fieldOf w 55 52 : Nat), (eacModifiers.getD (fieldOf w 51 48) []).getD (fieldOf w (47 - 3 * i) (45 - 3 * i)) 0)
/-- The 8-bit alpha of an EAC block. -/
def eacAlpha (w x y : Nat) : Nat := let (b, m, d) := eacParts w x y; satTo 255 (b + d * m)
/-- The unsigned 11-bit value of an EAC block (PRESUMED, log 60). -/
def eac11 (w x y : Nat) : Nat := let (b, m, d) := eacParts w x y; satTo 2047 (8 * b + 4 + d * (if m = 0 then 1 else 8 * m))

/-! ### ASTC: integer sequences -/

/-- The ranges of quantised values: their sizes, bits, and whether a trit (1) or quint (2) stands above the bits. -/
def astcRanges : List (Nat × Nat × Nat) :=
  [(2, 1, 0), (3, 0, 1), (4, 2, 0), (5, 0, 2), (6, 1, 1), (8, 3, 0), (10, 1, 2), (12, 2, 1), (16, 4, 0), (20, 2, 2), (24, 3, 1), (32, 5, 0),
   (40, 3, 2), (48, 4, 1), (64, 6, 0), (80, 4, 2), (96, 5, 1), (128, 7, 0), (160, 5, 2), (192, 6, 1), (256, 8, 0)]
def astcRange (q : Nat) : Nat × Nat × Nat := astcRanges.getD q (2, 1, 0)

/-- Bits of a sequence of n values of range q. -/
def iseBits (q n : Nat) : Nat :=
  let (_, b, k) := astcRange q
  b * n + (match k with | 1 => (8 * n + 4) / 5 | 2 => (7 * n + 2) / 3 | _ => 0)

/-- The five trits of their eight bits. -/
def trits (t : Nat) : List Nat :=
  let f := fieldOf t
  let (c, t3, t4) : Nat × Nat × Nat :=
    if f 4 2 = 7 then (4 * f 7 5 + f 1 0, 2, 2) else if f 6 5 = 3 then (f 4 0, f 7 7, 2) else (f 4 0, f 6 5, f 7 7)
  let g := fieldOf c
  let low (hi lo : Nat) : Nat := if hi = 1 then 2 else lo
  if g 1 0 = 3 then [low (g 3 3) (g 2 2), g 4 4, 2, t3, t4]
  else if g 3 2 = 3 then [g 1 0, 2, 2, t3, t4]
  else [low (g 1 1) (g 0 0), g 3 2, g 4 4, t3, t4]

/-- The three quints of their seven bits. -/
def quints (q : Nat) : List Nat :=
  let f := fieldOf q
  if f 2 1 = 3 ∧ f 6 5 = 0 then [4, 4, if f 0 0 = 1 then 4 else f 4 3]
  else
    let (c, q2) : Nat × Nat := if f 2 1 = 3 then (8 * f 4 3 + 2 * (3 - f 6 5) + f 0 0, 4) else (f 4 0, f 6 5)
    let g := fieldOf c
    if g 2 0 = 5 then [g 4 3, 4, q2] else [g 2 0, g 4 3, q2]

/-- Value i of n of a sequence of range q whose bits stand in x from bit 0 on; bits beyond its length read as 0. -/
def iseValue (q n x i : Nat) : Nat :=
  let (_, b, k) := astcRange q
  let x := x % 2 ^ iseBits q n
  match k with
  | 0 => fieldOf x (b * i + b - 1) (b * i)
  | 1 =>
    let y := x / 2 ^ ((5 * b + 8) * (i / 5))
    let at_ (p len : Nat) : Nat := y / 2 ^ p % 2 ^ len
    let t := at_ b 2 + 4 * at_ (2 * b + 2) 2 + 16 * at_ (3 * b + 4) 1 + 32 * at_ (4 * b + 5) 2 + 128 * at_ (5 * b + 7) 1
    (trits t).getD (i % 5) 0 * 2 ^ b + at_ ([0, b + 2, 2 * b + 4, 3 * b + 5, 4 * b + 7].getD (i % 5) 0) b
  | _ =>
    let y := x / 2 ^ ((3 * b + 7) * (i / 3))
    let at_ (p len : Nat) : Nat := y / 2 ^ p % 2 ^ len
    let t := at_ b 3 + 8 * at_ (2 * b + 3) 2 + 32 * at_ (3 * b + 5) 2
    (quints t).getD (i % 3) 0 * 2 ^ b + at_ ([0, b + 3, 2 * b + 5].getD (i % 3) 0) b

/-- A value of b bits replicated to n bits. -/
def replicateBits (b n v : Nat) : Nat := ((List.range 8).foldl (fun x _ => x * 2 ^ b + v) 0) / 2 ^ (8 * b - n) % 2 ^ n

/-- The number whose bits, most significant first, are the bits of v at the given places, or 0 at 9. -/
def bitPattern (v : Nat) (ps : List Nat) : Nat := ps.foldl (fun x p => 2 * x + (if p = 9 then 0 else fieldOf v p p)) 0

/-- The weight, 0 to 64, of a quantised value of range q. -/
def unquantWeight (q v : Nat) : Nat :=
  let (size, b, k) := astcRange q
  let w : Nat :=
    if k = 0 then replicateBits b 6 v
    else if b = 0 then (if k = 1 then [0, 32, 63].getD v 0 else [0, 16, 32, 47, 63].getD v 0)
    else
      let a := if v % 2 = 1 then 0x7F else 0
      let (pat, c) : List Nat × Nat := match size with
        | 6 => ([], 50) | 10 => ([], 28) | 12 => ([1, 9, 9, 9, 1, 9, 1], 23) | 20 => ([1, 9, 9, 9, 9, 1, 9], 13) | _ => ([2, 1, 9, 9, 9, 2, 1], 11)
      let t := (v / 2 ^ b * c + bitPattern v pat) ^^^ a
      a / 32 % 2 * 32 + t / 4 % 32
  if w > 32 then w + 1 else w

/-- The 8-bit colour value of a quantised value of range q. -/
def unquantColour (q v : Nat) : Nat :=
  let (size, b, k) := astcRange q
  if k = 0 then replicateBits b 8 v
  else
    let a := if v % 2 = 1 then 0x1FF else 0
    let (pat, c) : List Nat × Nat := match size with
      | 6 => ([], 204) | 10 => ([], 113) | 12 => ([1, 9, 9, 9, 1, 9, 1, 1, 9], 93) | 20 => ([1, 9, 9, 9, 9, 1, 1, 9, 9], 54)
      | 24 => ([2, 1, 9, 9, 9, 2, 1, 2, 1], 44) | 40 => ([2, 1, 9, 9, 9, 9, 2, 1, 2], 26) | 48 => ([3, 2, 1, 9, 9, 9, 3, 2, 1], 22)
      | 80 => ([3, 2, 1, 9, 9, 9, 9, 3, 2], 13) | 96 => ([4, 3, 2, 1, 9, 9, 9, 4, 3], 11) | 160 => ([4, 3, 2, 1, 9, 9, 9, 9, 4], 6)
      | _ => ([5, 4, 3, 2, 1, 9, 9, 9, 5], 5)
    let t := (v / 2 ^ b * c + bitPattern v pat) ^^^ a
    a / 128 % 2 * 128 + t / 4 % 128

/-! ### ASTC: endpoints -/

/-- Two endpoints; the components are 8-bit, or 12-bit where hdr (and hdrA for alpha) says so. -/
structure AstcEnds where
  lo : List Int
  hi : List Int
  hdr : Bool := false
  hdrA : Bool := false

/-- The offset and base that a signed transfer makes of two values. -/
def bitTransfer (a b : Nat) : Int × Int :=
  let base : Nat := b / 2 + a / 128 * 128
  let r : Nat := a / 2 % 64
  let off : Int := r
  (if off ≥ 32 then off - 64 else off, base)

def blueContract (c : List Int) : List Int :=
  match c with | [r, g, b, a] => [(r + b) / 2, (g + b) / 2, b, a] | _ => c
def clampAll (top : Nat) (c : List Int) : List Int := c.map fun v => (satTo top v : Nat)

/-- The scaled base of mode 7: red, green, blue, scale. -/
def hdrScale (v : List Nat) : AstcEnds :=
  let v0 := v.getD 0 0
  let v1 := v.getD 1 0
  let v2 := v.getD 2 0
  let v3 := v.getD 3 0
  let mv := v0 / 64 + v1 / 128 * 4 + v2 / 128 * 8
  let (maj, mode) : Nat × Nat := if mv / 4 ≠ 3 then (mv / 4, mv % 4) else if mv ≠ 15 then (mv % 4, 4) else (0, 5)
  let x : List Nat := [fieldOf v1 6 6, fieldOf v1 5 5, fieldOf v2 6 6, fieldOf v2 5 5, fieldOf v3 7 7, fieldOf v3 6 6, fieldOf v3 5 5]
  let put (modes k sh : Nat) : Nat := if modes / 2 ^ mode % 2 = 1 then x.getD k 0 * 2 ^ sh else 0
  let green := v1 % 32 + put 0x30 0 6 + put 0x3A 1 5
  let blue := v2 % 32 + put 0x30 2 6 + put 0x3A 3 5
  let scale := v3 % 32 + put 0x3D 6 5 + put 0x2D 5 6 + put 0x04 4 7
  let red := v0 % 64 + put 0x3B 4 6 + put 0x04 3 6 + put 0x10 5 7 + put 0x0F 2 7 + put 0x05 1 8 + put 0x0A 0 8 + put 0x05 0 9 + put 0x02 6 9
    + put 0x01 3 10 + put 0x02 5 10
  let m := 2 ^ [1, 1, 2, 3, 4, 5].getD mode 0
  let r : Int := (red * m : Nat)
  let s : Int := (scale * m : Nat)
  let g : Int := if mode ≠ 5 then r - (green * m : Nat) else (green * m : Nat)
  let b : Int := if mode ≠ 5 then r - (blue * m : Nat) else (blue * m : Nat)
  let c : List Int := match maj with | 1 => [g, r, b] | 2 => [b, g, r] | _ => [r, g, b]
  { lo := clampAll 0xFFF (c.map (· - s)) ++ [0x780], hi := clampAll 0xFFF c ++ [0x780], hdr := true, hdrA := true }

/-- The direct colours of mode 11, without alpha. -/
def hdrDirect (v : List Nat) : List Int × List Int :=
  let v0 := v.getD 0 0
  let v1 := v.getD 1 0
  let v2 := v.getD 2 0
  let v3 := v.getD 3 0
  let v4 := v.getD 4 0
  let v5 := v.getD 5 0
  let maj := v4 / 128 + v5 / 128 * 2
  if maj = 3 then ([(v0 * 16 : Nat), (v2 * 16 : Nat), (v4 % 128 * 32 : Nat)], [(v1 * 16 : Nat), (v3 * 16 : Nat), (v5 % 128 * 32 : Nat)])
  else
    let mode := v1 / 128 + v2 / 128 * 2 + v3 / 128 * 4
    let x : List Nat := [fieldOf v2 6 6, fieldOf v3 6 6, fieldOf v4 6 6, fieldOf v5 6 6, fieldOf v4 5 5, fieldOf v5 5 5]
    let put (modes k sh : Nat) : Nat := if modes / 2 ^ mode % 2 = 1 then x.getD k 0 * 2 ^ sh else 0
    let n := [7, 6, 7, 6, 5, 6, 5, 6].getD mode 7
    let signed (d : Nat) : Int := let r : Nat := d % 2 ^ n; if r ≥ 2 ^ (n - 1) then (r : Int) - (2 ^ n : Nat) else r
    let m : Int := (2 ^ (mode / 2 ^^^ 3) : Nat)
    let a := m * (v0 + v1 / 64 % 2 * 256 + put 0xA4 0 9 + put 0x08 2 9 + put 0x50 4 9 + put 0x50 5 10 + put 0xA0 1 10 + put 0xC0 2 11 : Nat)
    let c := m * (v1 % 64 + put 0x04 1 6 + put 0xE8 3 6 + put 0x20 2 7 : Nat)
    let b0 := m * (v2 % 64 + put 0x5B 0 6 + put 0x12 2 7 : Nat)
    let b1 := m * (v3 % 64 + put 0x5B 1 6 + put 0x12 3 7 : Nat)
    let d0 := m * signed (v4 % 128)
    let d1 := m * signed (v5 % 128)
    let turn (c : List Int) : List Int := match maj, c with | 1, [r, g, b] => [g, r, b] | 2, [r, g, b] => [b, g, r] | _, _ => c
    (turn (clampAll 0xFFF [a - c, a - b0 - c - d0, a - b1 - c - d1]), turn (clampAll 0xFFF [a, a - b0, a - b1]))

/-- The alphas of mode 15. -/
def hdrAlpha (v6 v7 : Nat) : Int × Int :=
  let mode := v6 / 128 + v7 / 128 * 2
  let a := v6 % 128
  let b := v7 % 128
  if mode = 3 then ((a * 32 : Nat), (b * 32 : Nat))
  else
    let a := a ||| (b * 2 ^ (mode + 1) &&& 0x780)
    let h := 0x20 / 2 ^ mode
    let off : Int := ((b % (2 * h) ^^^ h : Nat) : Int) - h
    let lo : Int := (a * 2 ^ (4 - mode) : Nat)
    (lo, (satTo 0xFFF (lo + off * (2 ^ (4 - mode) : Nat)) : Nat))

/-- The endpoints of a colour endpoint mode, from its values. -/
def astcEnds (mode : Nat) (v : List Nat) : AstcEnds :=
  let n (k : Nat) : Int := (v.getD k 0 : Nat)
  let bt (k : Nat) : Int × Int := bitTransfer (v.getD (k + 1) 0) (v.getD k 0)
  let ends (lo hi : List Int) : AstcEnds := { lo := clampAll 255 lo, hi := clampAll 255 hi }
  let lum (a b : Int) : AstcEnds := { lo := [a, a, a, 0x780], hi := [b, b, b, 0x780], hdr := true, hdrA := true }
  let offsets (a : Int × Int) : AstcEnds :=
    let base : List Int := [(bt 0).2, (bt 2).2, (bt 4).2, a.2]
    let top : List Int := [(bt 0).2 + (bt 0).1, (bt 2).2 + (bt 2).1, (bt 4).2 + (bt 4).1, a.2 + a.1]
    if (bt 0).1 + (bt 2).1 + (bt 4).1 ≥ 0 then ends base top else ends (blueContract top) (blueContract base)
  let direct (a b : Int) : AstcEnds :=
    let c0 : List Int := [n 0, n 2, n 4, a]
    let c1 : List Int := [n 1, n 3, n 5, b]
    if n 1 + n 3 + n 5 ≥ n 0 + n 2 + n 4 then ends c0 c1 else ends (blueContract c1) (blueContract c0)
  let scaled (a b : Int) : AstcEnds := ends [n 0 * n 3 / 256, n 1 * n 3 / 256, n 2 * n 3 / 256, a] [n 0, n 1, n 2, b]
  match mode with
  | 0 => ends [n 0, n 0, n 0, 255] [n 1, n 1, n 1, 255]
  | 1 =>
    let l : Int := (v.getD 0 0 / 4 + v.getD 1 0 / 64 * 64 : Nat)
    let h : Int := l + (v.getD 1 0 % 64 : Nat)
    ends [l, l, l, 255] [h, h, h, 255]
  | 2 => if n 1 ≥ n 0 then lum (16 * n 0) (16 * n 1) else lum (16 * n 1 + 8) (16 * n 0 - 8)
  | 3 =>
    let v0 := v.getD 0 0
    let v1 := v.getD 1 0
    let (y, d) : Nat × Nat := if v0 ≥ 128 then (v1 / 32 * 512 + v0 % 128 * 4, v1 % 32 * 4) else (v1 / 16 * 256 + v0 % 128 * 2, v1 % 16 * 2)
    lum (y : Nat) (min 0xFFF (y + d) : Nat)
  | 4 => ends [n 0, n 0, n 0, n 2] [n 1, n 1, n 1, n 3]
  | 5 =>
    let l := (bt 0).2
    let h := (bt 0).2 + (bt 0).1
    ends [l, l, l, (bt 2).2] [h, h, h, (bt 2).2 + (bt 2).1]
  | 6 => scaled 255 255
  | 7 => hdrScale v
  | 8 => direct 255 255
  | 9 => offsets (0, 255)
  | 10 => scaled (n 4) (n 5)
  | 11 => let (lo, hi) := hdrDirect v; { lo := lo ++ [0x780], hi := hi ++ [0x780], hdr := true, hdrA := true }
  | 12 => direct (n 6) (n 7)
  | 13 => offsets (bt 6)
  | 14 => let (lo, hi) := hdrDirect v; { lo := lo ++ [n 6], hi := hi ++ [n 7], hdr := true }
  | _ =>
    let (lo, hi) := hdrDirect v
    let (a, b) := hdrAlpha (v.getD 6 0) (v.getD 7 0)
    { lo := lo ++ [a], hi := hi ++ [b], hdr := true, hdrA := true }

/-! ### ASTC: partitions -/

/-- The hash of a partition's seed. -/
def astcHash (seed : Nat) : Nat :=
  let p : W32 := BitVec.ofNat 32 seed
  let p := p ^^^ (p >>> 15)
  let p := p - (p <<< 17)
  let p := p + (p <<< 7)
  let p := p + (p <<< 4)
  let p := p ^^^ (p >>> 5)
  let p := p + (p <<< 16)
  let p := p ^^^ (p >>> 7)
  let p := p ^^^ (p >>> 3)
  let p := p ^^^ (p <<< 6)
  (p ^^^ (p >>> 17)).toNat

/-- The partition of texel (x, y) of a block, of n partitions; small: the block has fewer than 31 texels. -/
def astcPartition (seed x y n : Nat) (small : Bool) : Nat :=
  if n ≤ 1 then 0
  else
    let x := if small then 2 * x else x
    let y := if small then 2 * y else y
    let r := astcHash (seed + (n - 1) * 1024)
    let sq (k : Nat) : Nat := (r / 2 ^ k % 16) ^ 2
    let three := if n = 3 then 6 else 5
    let two := if seed / 2 % 2 = 1 then 4 else 5
    let sh1 := if seed % 2 = 1 then two else three
    let sh2 := if seed % 2 = 1 then three else two
    let part (k1 k2 off : Nat) : Nat := (sq k1 / 2 ^ sh1 * x + sq k2 / 2 ^ sh2 * y + r / 2 ^ off) % 64
    let a := part 0 4 14
    let b := part 8 12 10
    let c := if n < 3 then 0 else part 16 20 6
    let d := if n < 4 then 0 else part 24 28 2
    if a ≥ b ∧ a ≥ c ∧ a ≥ d then 0 else if b ≥ c ∧ b ≥ d then 1 else if c ≥ d then 2 else 3

/-! ### ASTC: blocks -/

/-- What a block mode says: the weight grid, the range of the weights, and whether there are two planes; none where it is
reserved. -/
def astcMode (m : Nat) : Option (Nat × Nat × Nat × Bool) :=
  let f := fieldOf m
  let a := f 6 5
  let b := f 8 7
  let grid : Option (Nat × Nat × Nat × Bool × Bool) :=   -- R, width, height, H, D
    if f 1 0 ≠ 0 then
      let r := f 4 4 + 2 * f 1 0
      let hd (w h : Nat) : Option (Nat × Nat × Nat × Bool × Bool) := some (r, w, h, f 9 9 == 1, f 10 10 == 1)
      match f 3 2 with
      | 0 => hd (b + 4) (a + 2)
      | 1 => hd (b + 8) (a + 2)
      | 2 => hd (a + 2) (b + 8)
      | _ => if b / 2 = 0 then hd (a + 2) (b % 2 + 6) else hd (b % 2 + 2) (a + 2)
    else if f 3 2 = 0 then none
    else
      let r := f 4 4 + 2 * f 3 2
      let hd (w h : Nat) : Option (Nat × Nat × Nat × Bool × Bool) := some (r, w, h, f 9 9 == 1, f 10 10 == 1)
      match b with
      | 0 => hd 12 (a + 2)
      | 1 => hd (a + 2) 12
      | 2 => some (r, a + 6, f 10 9 + 6, false, false)
      | _ => match a with | 0 => hd 6 10 | 1 => hd 10 6 | _ => none
  match grid with
  | none => none
  | some (r, w, h, hi, dual) =>
    let q := r - 2 + if hi then 6 else 0
    let n := w * h * if dual then 2 else 1
    if n ≤ 64 ∧ 24 ≤ iseBits q n ∧ iseBits q n ≤ 96 then some (w, h, q, dual) else none

/-- The weight of texel (x, y) of one plane of a grid, by bilinear infill. -/
def astcInfill (bw bh gw gh x y : Nat) (w : Nat → Nat) : Nat :=
  let at_ (b g t : Nat) : Nat := ((1024 + b / 2) / (b - 1) * t * (g - 1) + 32) / 64
  let gs := at_ bw gw x
  let gt := at_ bh gh y
  let v := gs / 16 + gt / 16 * gw
  let fs := gs % 16
  let ft := gt % 16
  let w11 := (fs * ft + 8) / 16
  (w v * (16 + w11 - fs - ft) + w (v + 1) * (fs - w11) + w (v + gw) * (ft - w11) + w (v + gw + 1) * w11 + 8) / 16

/-- A component of a texel of a block: 16 bits, with what they mean. -/
inductive AstcValue where
  /-- Sixteen bits of a fraction. -/
  | unorm (c : Nat)
  /-- A logarithmic value. -/
  | log (c : Nat)
  /-- An f16 value. -/
  | half (c : Nat)

/-- A void-extent block: its colour; none where it is illegal. -/
def astcVoid (hdr : Bool) (x : Nat) : Option (List AstcValue) :=
  let f := fieldOf x
  let all := [f 24 12, f 37 25, f 50 38, f 63 51]
  let whole := all.all (· == 8191)
  let fp := f 9 9 == 1
  if f 11 10 ≠ 3 ∨ (!whole && (decide (f 24 12 ≥ f 37 25) || decide (f 50 38 ≥ f 63 51))) ∨ (fp && !hdr) then none
  else some ([f 79 64, f 95 80, f 111 96, f 127 112].map fun c => if fp then .half c else .unorm c)

/-- The colour endpoint modes of a block's partitions, and how many bits of them stand below the weights. -/
def astcModes (x parts weightBits : Nat) : List Nat × Nat :=
  let f := fieldOf x
  if parts = 1 then ([f 16 13], 0)
  else if f 24 23 = 0 then (List.replicate parts (f 28 25), 0)
  else
    let extra := 3 * parts - 4
    let code := f 28 23 + x / 2 ^ (128 - weightBits - extra) % 2 ^ extra * 64
    ((List.range parts).map fun i => (fieldOf code (2 + i) (2 + i) + f 24 23 - 1) * 4 + code / 2 ^ (2 + parts + 2 * i) % 4, extra)

/-- The texel (x, y) of an ASTC block of a footprint; none where the block, or the mode of the texel's partition, is illegal in the
profile. srgb: the sRGB profile (PRESUMED, log 60). -/
def astcTexel (srgb hdr : Bool) (blk bw bh x y : Nat) : Option (List AstcValue) :=
  if fieldOf blk 8 0 = 0x1FC then astcVoid hdr blk
  else
    match astcMode (fieldOf blk 10 0) with
    | none => none
    | some (gw, gh, q, dual) =>
      let parts := fieldOf blk 12 11 + 1
      let planes := if dual then 2 else 1
      let wn := gw * gh * planes
      let wb := iseBits q wn
      let (modes, extra) := astcModes blk parts wb
      let count := (modes.map fun m => 2 * (m / 4 + 1)).sum
      let room := (if parts = 1 then 111 else 99) - wb - extra - (if dual then 2 else 0)
      match (List.range 21).reverse.find? fun k => decide (iseBits k count ≤ room) with
      | none => none
      | some cq =>
        if gw > bw ∨ gh > bh ∨ (parts = 4 ∧ dual) ∨ count > 18 ∨ cq < 4 then none
        else
          let p := astcPartition (fieldOf blk 22 13) x y parts (decide (bw * bh < 31))
          let start := if parts = 1 then 17 else 29
          let first := ((modes.take p).map fun m => 2 * (m / 4 + 1)).sum
          let mode := modes.getD p 0
          let e := astcEnds mode ((List.range (2 * (mode / 4 + 1))).map fun k => unquantColour cq (iseValue cq count (blk / 2 ^ start) (first + k)))
          if e.hdr && !hdr then none
          else
            let rev := (List.range 128).foldl (fun v k => 2 * v + fieldOf blk k k) 0
            let weight (plane k : Nat) : Nat := unquantWeight q (iseValue q wn rev (planes * k + plane))
            let plane2 := blk / 2 ^ (128 - wb - extra - 2) % 4
            some ((List.range 4).map fun c =>
              let wide := if c = 3 then e.hdrA else e.hdr
              let expand (v : Int) : Nat := if wide then 16 * v.toNat else if srgb then 256 * v.toNat + 128 else 257 * v.toNat
              let w := astcInfill bw bh gw gh x y (weight (if dual && c == plane2 then 1 else 0))
              let v := (expand (e.lo.getD c 0) * (64 - w) + expand (e.hi.getD c 0) * w + 32) / 64
              if wide then .log v else .unorm v)

/-- The f16 bits of a logarithmic value. -/
def logHalf (c : Nat) : Nat :=
  let m := c % 2048
  let t := if m < 512 then 3 * m else if m ≥ 1536 then 5 * m - 2048 else 4 * m - 512
  min 0x7BFF (c / 2048 * 1024 + t / 8)

/-- A component as f32: a fraction becomes an f16 value, rounded towards zero. -/
def AstcValue.f32 : AstcValue → W32
  | .unorm c => if c = 65535 then 0x3F800000 else Frac.toF32 { num := c / 2 ^ (c.log2 - 10) * 2 ^ (c.log2 - 10), den := 65536 }
  | .log c => BitVec.ofNat 32 (fConvert fmtF16 fmtF32 0 false (logHalf c)).1
  | .half c => BitVec.ofNat 32 (fConvert fmtF16 fmtF32 0 false c).1

end Sys2Proof.Machine
end

