-- ==== Sys2Proof/Machine/Rays.lean ====
section
/-! DEFINITION. The traversal co-processor: ray slots, acceleration structures, trace, hitacc, hitign and the results of a
trace (12 R345-R350, R357; 14 R389). Intersections are exact; the order in which hits are found is free. -/

namespace Sys2Proof.Machine
open Sys2Proof

/-! ### Geometry -/

/-- A box bound as an integer number of 2^-149, infinities beyond every finite value; none for a NaN (12 R345). -/
def boundInt (x : W32) : Option Int :=
  match fmtF32.read x.toNat with
  | .nan .. => none
  | .inf s => some (if s then -(2 ^ 2000) else 2 ^ 2000)
  | .fin .. => f32Int x

/-- A vector of three finite values; none otherwise. -/
def vec3 (xs : List W32) : Option (List Int) := allSome ((List.range 3).map fun k => f32Int (xs.getD k 0))
def vx (v : List Int) (k : Nat) : Int := v.getD k 0
def vsub (a b : List Int) : List Int := (List.range 3).map fun k => vx a k - vx b k
def vdot (a b : List Int) : Int := vx a 0 * vx b 0 + vx a 1 * vx b 1 + vx a 2 * vx b 2
def vcross (a b : List Int) : List Int :=
  [vx a 1 * vx b 2 - vx a 2 * vx b 1, vx a 2 * vx b 0 - vx a 0 * vx b 2, vx a 0 * vx b 1 - vx a 1 * vx b 0]

/-- A value is at most another, and neither is a NaN. -/
def f32Le (a b : W32) : Bool := f32Lt a b || f32Eq a b

/-- The crossing of a ray with a closed triangle: t, b1, b2, and whether it is front-facing (12 R346, R347) (DEDUCED, log 47). -/
def hitTriangle (o d v0 v1 v2 : List Int) : Option (Frac × Frac × Frac × Bool) :=
  let e1 := vsub v1 v0
  let e2 := vsub v2 v0
  let q := vsub o v0
  let p := vcross d e2
  let r := vcross q e1
  let det := vdot e1 p
  if det = 0 then none
  else
    let t := Frac.of (vdot e2 r) det
    let b1 := Frac.of (vdot q p) det
    let b2 := Frac.of (vdot d r) det
    if b1.num < 0 ∨ b2.num < 0 ∨ !(Frac.of (vdot q p + vdot d r) det).le { num := 1, den := 1 } then none
    else some (t, b1, b2, decide (det > 0))

/-- The larger and the smaller of two fractions. -/
def Frac.max (a b : Frac) : Frac := if a.le b then b else a
def Frac.min (a b : Frac) : Frac := if a.le b then a else b

/-- The part of a ray inside a slab, given what is left of it; none where it misses. -/
def clipSlab (o d lo hi : Int) (s : Option (Frac × Frac)) : Option (Frac × Frac) :=
  match s with
  | none => none
  | some (a, b) =>
    if d = 0 then (if lo ≤ o ∧ o ≤ hi then some (a, b) else none)
    else
      let t0 := Frac.of (lo - o) d
      let t1 := Frac.of (hi - o) d
      let a := a.max (t0.min t1)
      let b := b.min (t0.max t1)
      if a.le b then some (a, b) else none

/-- The larger of tmin and the parameter at which a ray enters a box; none where it misses or the box is empty (12 R345,
R347). The limits bound the rounded parameters, as they bound a triangle's (DEDUCED, log 47). -/
def hitBox (o d : List Int) (tmin limit : W32) (box : List W32) : Option Frac :=
  match allSome ((List.range 6).map fun k => boundInt (box.getD k 0)), boundInt tmin with
  | some b, some lo =>
    if (List.range 3).any (fun k => decide (vx b k > vx b (k + 3))) ∨ !f32Le tmin limit then none
    else
      -- beyond every parameter of a box
      let all : Frac × Frac := (Frac.ofInt (-(2 ^ 3000)), Frac.ofInt (2 ^ 3000))
      match (List.range 3).foldl (fun s k => clipSlab (vx o k) (vx d k) (vx b k) (vx b (k + 3)) s) (some all) with
      | some (t0, t1) => if f32Le tmin t1.toF32 && f32Le t0.toF32 limit then some (t0.max (Frac.ofInt lo)) else none
      | none => none
  | _, _ => none

/-- A row of a 3×4 matrix times (v, w), rounded once to f32 (12 R345). -/
def matRow (row v : List W32) (w : Bool) : W32 :=
  let m (k : Nat) : Option FVal := mulVals (fmtF32.read (row.getD k 0).toNat) (fmtF32.read (v.getD k 0).toNat)
  let last : Option FVal := if w then mulVals (fmtF32.read (row.getD 3 0).toNat) (.fin false 1 0) else some (.fin false 0 0)
  match m 0, m 1, m 2, last with
  | some a, some b, some c, some e => BitVec.ofNat 32 (fmtF32.addVals 0 false (if w then [a, b, c, e] else [a, b, c])).1
  | _, _, _, _ => nanF32

/-! ### Nodes (12 R345) -/

/-- The 32-bit words of a node. -/
def nodeWords (n x : Nat) : List W32 := (List.range n).map fun k => BitVec.ofNat 32 (x / 2 ^ (32 * k))
def word64 (ws : List W32) (k : Nat) : W64 := BitVec.ofNat 64 ((ws.getD k 0).toNat + (ws.getD (k + 1) 0).toNat * 2 ^ 32)

/-- The instance a traversal is in. -/
structure Inst where
  id : W32 := 0
  hbase : W32 := 0
  opq : Bool := false
  deriving DecidableEq, Repr

/-- What a traversal carries: the ray, and the instance it is in. -/
structure Ray where
  o : List W32
  d : List W32
  tmin : W32
  limit : W32
  ctl : W32
  inst : Option Inst := none
  deriving DecidableEq, Repr

/-- What a traversal finds: hits and candidates with whether a candidate is opaque without its record, and the status bits. -/
structure Found where
  hits : List (Hit × Bool) := []
  nested : Bool := false
  bad : Bool := false
  deriving DecidableEq, Repr

def Found.add (a b : Found) : Found := { hits := a.hits ++ b.hits, nested := a.nested || b.nested, bad := a.bad || b.bad }

/-- The record index of a geometry (12 R347). -/
def Ray.index (r : Ray) (geom : W32) : W32 :=
  (match r.inst with | some i => i.hbase | none => 0) + (r.ctl.extractLsb' 16 8).zeroExtend 32 + (r.ctl.extractLsb' 24 8).zeroExtend 32 * geom

/-- The hit of a triangle node (12 R345-R347); its rounded t is compared with the limits (DEDUCED, log 47). -/
def Ray.triangle (r : Ray) (outside : W32) (path : List Nat) (ws : List W32) : Option (Hit × Bool) :=
  let v (k : Nat) : Option (List Int) := vec3 ((ws.drop (3 * k)).take 3)
  match vec3 r.o, vec3 r.d, v 0, v 1, v 2 with
  | some o, some d, some a, some b, some c =>
    match hitTriangle o d a b c with
    | none => none
    | some (t, b1, b2, front) =>
      if !f32Le r.tmin t.toF32 ∨ !f32Le t.toF32 r.limit ∨ (bit r.ctl 10 ∧ !front) ∨ (bit r.ctl 11 ∧ front) then none
      else
        let id : W32 := match r.inst with | some i => i.id | none => outside
        let h : Hit :=
          { proc := false, path := path, t := t.toF32, b1 := b1.toF32, b2 := b2.toF32, prim := ws.getD 9 0,
            inst := (id &&& 0xFFFFFF#32) ||| (if front then 0xFE000000#32 else 0xFF000000#32), geom := ws.getD 10 0,
            index := r.index (ws.getD 10 0), range := false }
        let iopq := match r.inst with | some i => i.opq | none => false
        some (h, bit r.ctl 8 || iopq || bit (ws.getD 11 0) 0)
  | _, _, _, _, _ => none

/-- The candidate of a procedural leaf whose box is entered at t (12 R347). -/
def Ray.procedural (r : Ray) (outside : W32) (path : List Nat) (t : Frac) (ws : List W32) : Hit × Bool :=
  let id : W32 := match r.inst with | some i => i.id | none => outside
  ({ proc := true, path := path, t := t.toF32, b1 := 0, b2 := 0, prim := ws.getD 0 0, inst := id &&& 0xFFFFFF#32, geom := ws.getD 1 0,
     index := r.index (ws.getD 1 0), range := false }, false)

/-- A node of n bytes. -/
def State.readNode (s : State) (a : W64) (n : Nat) : Except Stop (State × List W32) :=
  match s.loadVa s.team.vf s.team.ctx { kind := 6 } a n with
  | .error e => .error e
  | .ok (s, x) => .ok (s, nodeWords (n / 4) x)

/-- The triangles of a leaf. -/
def State.leafTriangles (s : State) (r : Ray) (outside : W32) (path : List Nat) (a : W64) (n : Nat) : Except Stop (State × Found) :=
  foldStop (fun (acc : State × Found) (k : Nat) =>
    match acc.1.readNode (a + BitVec.ofNat 64 (64 * k)) 64 with
    | .error e => .error e
    | .ok (s, ws) => .ok (s, acc.2.add { hits := (r.triangle outside (path ++ [k]) ws).toList })) (List.range n) (s, {})

/-- Traversal below a child word, entered at t where it lies in a box: everything the ray meets. A structure deeper than the
number given, which one without a cycle is not, has no end: none (DEDUCED, log 47). -/
def State.traverse (outside : W32) : Nat → State → Ray → List Nat → Option Frac → W64 → Except Stop (Option (State × Found))
  | 0, _, _, _, _, _ => .ok none
  | n + 1, s, r, path, entry, child =>
    let a : W64 := child &&& 0xFFFFFFFFFFFFFFC0#64
    let bad : Except Stop (Option (State × Found)) := .ok (some (s, { bad := true }))
    match bits child 2 0 with
    | 0 => .ok (some (s, {}))
    | 1 =>
      if !canonical a then bad
      else
        match s.readNode a 128, vec3 r.o, vec3 r.d with
        | .error e, _, _ => .error e
        | .ok (s, ws), some o, some d =>
          foldStop (fun (acc : Option (State × Found)) (k : Nat) =>
            match acc with
            | none => .ok none
            | some (s, f) =>
              match hitBox o d r.tmin r.limit ((ws.drop (8 * k)).take 6) with
              | none => .ok (some (s, f))
              | some t =>
                match State.traverse outside n s r (path ++ [k]) (some t) (word64 ws (8 * k + 6)) with
                | .error e => .error e
                | .ok none => .ok none
                | .ok (some (s, g)) => .ok (some (s, f.add g))) (List.range 4) (some (s, {}))
        | .ok (s, _), _, _ => .ok (some (s, {}))
    | 2 =>
      if !canonical a then bad else (s.leafTriangles r outside path a (bits child 5 3 + 1)).map some
    | 3 =>
      if r.inst.isSome then .ok (some (s, { nested := true }))
      else if !canonical a then bad
      else
        match s.readNode a 64 with
        | .error e => .error e
        | .ok (s, ws) =>
          let w14 := ws.getD 14 0
          let w15 := ws.getD 15 0
          if bits w14 31 24 &&& bits r.ctl 7 0 = 0 then .ok (some (s, {}))
          else
            let row (k : Nat) : List W32 := (ws.drop (4 * k)).take 4
            let r' : Ray :=
              { r with o := (List.range 3).map fun k => matRow (row k) r.o true, d := (List.range 3).map fun k => matRow (row k) r.d false,
                       inst := some { id := w14 &&& 0xFFFFFF#32, hbase := w15 &&& 0xFFFFFF#32, opq := bit w15 24 } }
            let c := word64 ws 12
            if bits c 2 0 = 4 then .ok (some (s, { bad := true })) else State.traverse outside n s r' (path ++ [0]) none c
    | 4 =>
      match entry with
      | none => bad
      | some t =>
        if !canonical a then bad
        else
          match s.readNode a 64 with
          | .error e => .error e
          | .ok (s, ws) => .ok (some (s, { hits := [r.procedural outside path t ws] }))
    | _ => bad

/-- Deeper than any structure without a cycle: there are no more 64-byte nodes. -/
def traverseDepth : Nat := 2 ^ 51

/-! ### Shader-table records (12 R349; 14 R389) -/

/-- The record of a hit: its table index in range, or record 0. -/
def RayArgs.record (a : RayArgs) (index : W32) : W64 × Bool :=
  let n := max 1 (a.tableLen.toNat % 2 ^ 32)
  (a.tableBase + BitVec.ofNat 64 (64 * (if index.toNat < n then index.toNat else 0)), decide (index.toNat ≥ n))

/-- A hit with its TABLE_RANGE, and whether it is accepted at once: opaque, or its record null. -/
def State.judge (s : State) (a : RayArgs) (h : Hit × Bool) : Except Stop (State × Hit × Bool) :=
  let (va, range) := a.record h.1.index
  let hit : Hit := { h.1 with range := range }
  if h.2 then .ok (s, hit, true)
  else
    match s.loadVa s.team.vf s.team.ctx { kind := 6 } va 64 with
    | .error e => .error e
    | .ok (s, x) => .ok (s, hit, x == 0)

/-! ### A ray slot -/

/-- A hit comes before another: smaller t, then smaller INSTID, GEOM and PRIM (12 R348). -/
def Hit.before (a b : Hit) : Bool :=
  f32Lt a.t b.t || (f32Eq a.t b.t &&
    let x := (a.inst.toNat % 2 ^ 24, a.geom.toNat, a.prim.toNat)
    let y := (b.inst.toNat % 2 ^ 24, b.geom.toNat, b.prim.toNat)
    decide (x.1 < y.1) || (x.1 == y.1 && (decide (x.2.1 < y.2.1) || (x.2.1 == y.2.1 && decide (x.2.2 < y.2.2)))))

/-- Accepting a hit: the best one stays, the limit falls, and queued candidates beyond it go (12 R347, R348) (DEDUCED, log 47). -/
def RaySlot.accept (r : RaySlot) (h : Hit) : RaySlot :=
  let best := match r.best with | some b => if b.before h then b else h | none => h
  { r with best := some best, limit := h.t, queue := r.queue.filter fun c => !f32Lt h.t c.t, finished := r.finished || bit r.args.ctl 9 }

/-- The status word of a result (12 R347). -/
def RaySlot.status (r : RaySlot) (code : Nat) (range : Bool) : Nat :=
  code + (if range then 16 else 0) + (if r.nested then 32 else 0) + (if r.badNode then 64 else 0)

/-- The words D to D + 7 of a result. -/
def RaySlot.words (r : RaySlot) (code : Nat) : Option Hit → List W32
  | some h => [h.t, h.b1, h.b2, h.prim, h.inst, h.geom, h.index, BitVec.ofNat 32 (r.status code h.range)]
  | none => [0, 0, 0, 0, 0, 0, 0, BitVec.ofNat 32 (r.status code false)]

/-- The final result: HIT or MISS. -/
def RaySlot.final (r : RaySlot) : List W32 := r.words (if r.best.isSome then 1 else 0) r.best

/-- Returning the oldest queued candidate. -/
def RaySlot.giveCandidate (r : RaySlot) (c : Hit) (cs : List Hit) : RaySlot × List W32 :=
  ({ r with queue := cs, candidate := some c, busy := false }, r.words (if c.proc then 3 else 2) (some c))

/-- Entries of a core's candidate queue in use (12 R349). -/
def State.candidates (s : State) (core : Nat) : Nat :=
  ((s.residents core).map fun (p : Nat × Team) => (p.2.groups.map fun (g : Nat × Group) =>
    (g.2.rays.map fun (r : Nat × RaySlot) => r.2.queue.length).sum).sum).sum

/-- What one pass of a traversal gives. -/
inductive RayStep where
  /-- The slot goes on; its trace has no result yet. -/
  | goes (s : State) (r : RaySlot)
  | result (s : State) (r : RaySlot) (words : List W32)
  | stops (e : Stop)

/-- The traversal goes on: hits in an order that free values choose, until the ray ends or a candidate is returned. room: free
entries of the candidate queue. -/
def rayLoop : Nat → Nat → State → RaySlot → List (Hit × Bool) → RayStep
  | 0, _, s, r, _ => .goes s r
  | n + 1, room, s, r, hits =>
    if r.finished then .result s { r with busy := false } r.final
    else
      let left := hits.filter fun h => !r.found.contains h.1.path && !f32Lt r.limit h.1.t
      let (s, f) := s.free 25
      match r.queue, left with
      | [], [] => .result s { r with busy := false } r.final
      | c :: cs, [] => let (r, ws) := r.giveCandidate c cs; .result s r ws
      | q, h0 :: hs =>
        let h := (h0 :: hs).getD (f.toNat / 2 % (hs.length + 1)) h0
        match (if bit f 0 then q else []) with
        | c :: cs => let (r, ws) := r.giveCandidate c cs; .result s r ws
        | [] =>
          match s.judge r.args h with
          | .error e => .stops e
          | .ok (s, hit, now) =>
            -- the values of a procedural candidate that the manual does not give (DESIGN CHOICE, log 28)
            let (s, g1) := if hit.proc then s.free 26 else (s, 0)
            let (s, g2) := if hit.proc then s.free 26 else (s, 0)
            let hit : Hit := if hit.proc then
                { hit with b1 := g1.truncate 32, b2 := BitVec.ofNat 32 (g1.toNat / 2 ^ 32), inst := hit.inst ||| BitVec.ofNat 32 (g2.toNat % 256 * 2 ^ 24) }
              else hit
            if now then rayLoop n room s { (r.accept hit) with found := hit.path :: r.found } hits
            else if room = 0 then
              (match q with
              | c :: cs => let (r, ws) := r.giveCandidate c cs; .result s r ws
              | [] => .goes s r)
            else rayLoop n (room - 1) s { r with queue := r.queue ++ [hit], found := hit.path :: r.found } hits

/-- The traversal of a slot of the team in focus (DESIGN CHOICE, log 28) (DEDUCED, log 47). -/
def State.rayStep (s : State) (room : Nat) (r : RaySlot) : RayStep :=
  let ray : Ray := { o := r.args.regs.take 3, d := (r.args.regs.drop 4).take 3, tmin := r.args.regs.getD 3 0, limit := r.limit, ctl := r.args.ctl }
  match State.traverse r.outside traverseDepth s ray [] none r.args.root with
  | .error e => .stops e
  | .ok none => .goes s r
  | .ok (some (s, f)) =>
    rayLoop (2 * f.hits.length + 2) room s { r with nested := r.nested || f.nested, badNode := r.badNode || f.bad } f.hits

/-! ### Instructions (12 R346, R348) -/

/-- The operands of a trace in a lane. -/
def State.rayArgs (s : State) (o : LOp) (l : Nat) : RayArgs :=
  let k := o.b.toNat
  { regs := (List.range 8).map fun j => s.lane (o.a.toNat + j) l,
    ctl := BitVec.ofNat 32 (s.srcC o false false l), root := s.rs k, tableBase := s.rs (k + 1), tableLen := s.rs (k + 2) }

/-- A slot that starts from its registers (DESIGN CHOICE, log 28). -/
def State.newRay (s : State) (a : RayArgs) : State × RaySlot :=
  let (s, f) := s.free 27
  (s, { args := a, again := a, limit := a.regs.getD 7 0, outside := f.truncate 32 })

/-- The traces of lanes begin: those that go on in the co-processor, and the slots. -/
def State.startRays (s : State) (o : LOp) (word : W32) : List Nat → State × List Nat
  | [] => (s, [])
  | l :: ls =>
    let a := s.rayArgs o l
    let cont := bit o.f 0
    if bits a.ctl 15 12 ≠ 0 then
      let s := if cont then s else { s with grp := { s.grp with rays := s.grp.rays.filter fun p => p.1 != l } }
      State.startRays s o word ls
    else
      let (s, r) := match (if cont then s.grp.rays.lookup l else none) with
        | some r => (s, { r with again := a, candidate := none })
        | none => s.newRay a
      let r := { r with busy := true, window := s.grp.opened, dest := o.d.toNat, word := word }
      let s := { s with grp := { s.grp with rays := s.grp.rays.set l r } }
      let (s, ls) := State.startRays s o word ls
      (s, l :: ls)

/-- trace (12 R346, R347): a lane with a bad control word returns MISS at once. -/
def execTrace (o : LOp) (s : State) : Out :=
  longExec (.trace o) o s fun s =>
    let m := s.enabled o
    let before := s.grp.rays.filter fun p => m.getLsbD p.1
    let (s, ls) := s.startRays o (Instr.trace o).firstWord (lanesOf m)
    let miss := m &&& ~~~(maskOfLanes ls)
    let zero : LaneVec := Vector.replicate 96 0
    s.openWindow o.la.toNat 8 ls.length (if miss = 0 then [] else (List.range 8).map fun k => (o.d.toNat + k, miss, zero)) 0 none
      (some (m, before))

/-- hitacc in a lane: the slot it leaves, and the new limit (12 R348). -/
def RaySlot.hitacc (r : RaySlot) (given : Option (W32 × W32)) : RaySlot × Option W32 :=
  match r.candidate with
  | none => (r, none)
  | some c =>
    let r := { r with candidate := none }
    match given with
    | none => (r.accept c, some c.t)
    | some (t, kind) =>
      let tmin := r.args.regs.getD 3 0
      if !f32Le tmin t || !f32Le t r.limit then (r, none)
      else (r.accept { c with t := t, inst := (c.inst &&& 0xFFFFFF#32) ||| (kind <<< 24) }, some t)

/-- hitacc (12 R348) (DEDUCED, log 47). -/
def execHitacc (o : LOp) (s : State) : Out :=
  laneExec (.hitacc o) o s fun s =>
    let given (l : Nat) : Option (W32 × W32) :=
      if bit o.f 0 then some (BitVec.ofNat 32 (s.srcA o false l), BitVec.ofNat 32 (s.srcB o false false l)) else none
    let one (s : State) (l : Nat) : State :=
      match s.grp.rays.lookup l with
      | none => s
      | some r =>
        let (r', t) := r.hitacc (given l)
        let s := { s with grp := { s.grp with rays := s.grp.rays.set l r' } }
        match t with | some t => s.wv (o.d.toNat + 7) (BitVec.twoPow 96 l) fun _ => t | none => s
    ((lanesOf (s.enabled o)).foldl one s).retire 8

/-- hitign (12 R348). -/
def execHitign (o : LOp) (s : State) : Out :=
  laneExec (.hitign o) o s fun s =>
    let m := s.enabled o
    let g := { s.grp with rays := s.grp.rays.map fun (p : Nat × RaySlot) => (p.1, if m.getLsbD p.1 then { p.2 with candidate := none } else p.2) }
    ({ s with grp := g }).retire 8

/-! ### Results (12 R347; 14 R389) -/

/-- Changing a ray slot of a group. -/
def State.onRay (s : State) (uid gid lane : Nat) (f : RaySlot → RaySlot) : State :=
  s.onTeam uid fun t =>
    let g : Group := t.groups.get {} gid
    match g.rays.lookup lane with
    | some r => { t with groups := t.groups.set gid { g with rays := g.rays.set lane (f r) } }
    | none => t

/-- The slots of a group with those of a trace's lanes as they were before it. -/
def Group.undoTrace (g : Group) (id : Nat) : Group :=
  match ((g.slotA.windows ++ g.slotB.windows).find? fun w => w.id == id).bind (·.rays) with
  | some (m, old) => { g with rays := old.foldl (fun rs (p : Nat × RaySlot) => rs.set p.1 p.2) (g.rays.filter fun p => !m.getLsbD p.1) }
  | none => { g with rays := g.rays.filter fun (p : Nat × RaySlot) => !(p.2.busy && p.2.window == id) }

/-- A trace traps precisely (01 R33, 14 R389): no lane of it returns, and its lanes have the slots they had before it. -/
def State.rayTrap (s : State) (uid gid window : Nat) (e : Trap) : State :=
  let s := s.onTeam uid fun t => { t with groups := t.groups.set gid ((t.groups.get {} gid).undoTrace window) }
  s.onWindow uid gid window fun w => { w with fault := some (.trap e), after := 0, waiting := 0, writes := [] }

/-- The result of a lane reaches its window. -/
def State.rayReturn (s : State) (uid gid lane : Nat) (r : RaySlot) (ws : List W32) : State :=
  let m : Mask := BitVec.twoPow 96 lane
  (s.onRay uid gid lane fun _ => r).onWindow uid gid r.window fun w =>
    { w with writes := w.writes ++ ws.zipIdx.map fun x => (r.dest + x.2, m, Vector.replicate 96 x.1), waiting := w.waiting - 1 }

/-- TRAVERSAL_RESULT (12 R347-R350; 14 R389): the traversal of a lane's ray goes on until its trace has a result, where no
access holds it and the candidate queue has room. -/
def execTraversalResult (team group lane : Nat) (s : State) : Out :=
  let t := s.teamOf team
  match (t.groups.get {} group).rays.lookup lane with
  | none => .next s
  | some r =>
    if !t.live ∨ t.stopped ∨ !r.busy then .next s
    else
      match failedOf r.park with
      | some e => .next (s.rayTrap team group r.window e)
      | none =>
        if r.park ≠ [] then .next s
        else
          let c := s.cur
          let s' := s.flush.focus { stream := .scalar, uid := team }
          match s'.rayStep (64 - s.flush.candidates t.core) r with
          | .goes s' r' => .next ((s'.flush.focus c).onRay team group lane fun _ => r')
          | .result s' r' ws => .next ((s'.flush.focus c).rayReturn team group lane r' ws)
          | .stops (.trap e) => .next (s.rayTrap team group r.window e)
          | .stops (.page q) =>
            let (s, q) := s.postFault t.vf t.ctx t.core ((t.groups.get {} group).windowPc r.window) q
            .next (s.onRay team group lane fun r => { r with park := [q] })
          | .stops (.ue loc) => .next (s.stopContext t.vf t.ctx causeUe loc)

end Sys2Proof.Machine
end

