-- ==== Sys2Proof/Machine/Textures.lean ====
section
/-! DEFINITION. The texture co-processor: texel formats, addressing, filtering, tsamp, tgath, tload and tquery
(12 R351-R356). Weighted sums are exact and rounded once. -/

namespace Sys2Proof.Machine
open Sys2Proof

/-! ### Texels (12 R353) -/

/-- Bytes of a texel or block. -/
def unitBytes (f : Nat) : Nat :=
  match f with
  | 0x01 => 1 | 0x02 | 0x05 => 2 | 0x03 | 0x04 | 0x07 | 0x09 | 0x0A => 4 | 0x06 => 8 | 0x08 => 16
  | 0x10 | 0x11 | 0x12 | 0x14 => 8
  | _ => 16

/-- An integer format. -/
def isIntImage (f : Nat) : Bool := f == 0x09 || f == 0x0A

/-- The components of a format. -/
def components (f : Nat) : Nat :=
  match f with
  | 0x01 | 0x05 | 0x07 | 0x09 | 0x14 => 1
  | 0x02 | 0x15 => 2
  | 0x10 | 0x11 => 3
  | _ => 4

/-- A result type that a format lists: 0 f32, 1 i32, 2 n32. -/
def resultTypeOk (f t : Nat) : Bool := f != fmtVis && (if isIntImage f then t == 1 || t == 2 else t == 0)

/-- The integer fifth root, bit by bit from 2^k. -/
def root5From : Nat → Nat → Nat → Nat
  | 0, _, r => r
  | k + 1, n, r => let t := r + 2 ^ k; root5From k n (if t ^ 5 ≤ n then t else r)

/-- sRGB decoding of an 8-bit component by IEC 61966-2-1, rounded once (PRESUMED, log 11): c/255/12.92, or ((c/255 + 0.055)/1.055)^2.4,
a fifth root of a twelfth power. -/
def srgb (c : Nat) : W32 :=
  -- 0.04045 × 255 lies between 10 and 11
  if c ≤ 10 then Frac.toF32 { num := 100 * c, den := 255 * 1292 }
  else
    let n := (1000 * c + 14025) ^ 12 * 2 ^ 320
    let r := root5From 65 (n / 269025 ^ 12) 0
    -- between r and r + 1 in units of 2^-64
    Frac.toF32 { num := if r ^ 5 * 269025 ^ 12 = n then 2 * r else 2 * r + 1, den := 2 ^ 65 }

/-- An 8-bit component as a fraction of 255. -/
def unorm8 (c : Nat) : W32 := Frac.toF32 { num := c, den := 255 }
/-- The components of a texel of an ETC2 colour block. -/
def etcTexel (punch : Bool) (x px py : Nat) : List W32 := (etcColour punch (etcWord x) px py).map unorm8
/-- The value of an EAC block, of 2047. -/
def eacTexel (x px py : Nat) : W32 := Frac.toF32 { num := eac11 (etcWord x) px py, den := 2047 }
/-- The components of a texel of an ASTC block (0x20 LDR, 0x21 sRGB, 0x22 HDR); an illegal block reads as magenta, or as NaNs in HDR
(PRESUMED, log 60). -/
def astcComponents (g : Image) (x px py : Nat) : List W32 :=
  match astcTexel (g.ifmt == 0x21) (g.ifmt == 0x22) x g.bw g.bh px py with
  | none => if g.ifmt = 0x22 then [nanF32, nanF32, nanF32, nanF32] else [0x3F800000, 0, 0x3F800000, 0x3F800000]
  | some vs =>
    if g.ifmt = 0x21 then vs.mapIdx fun k v => match v with
      | .unorm c | .log c | .half c => if k = 3 then unorm8 (c / 256) else srgb (c / 256)
    else vs.map AstcValue.f32

/-- The components of a texel, from the bytes of its texel or block and its place in the block. -/
def rawTexel (g : Image) (x px py : Nat) : List W32 :=
  let b (k : Nat) : Nat := x / 2 ^ (8 * k) % 256
  let unorm (k : Nat) : W32 := unorm8 (b k)
  match g.ifmt with
  | 0x01 => [unorm 0]
  | 0x02 => [unorm 0, unorm 1]
  | 0x03 => [unorm 0, unorm 1, unorm 2, unorm 3]
  | 0x04 => [srgb (b 0), srgb (b 1), srgb (b 2), unorm 3]
  | 0x05 => [BitVec.ofNat 32 (fConvert fmtF16 fmtF32 0 false (x % 2 ^ 16)).1]
  | 0x06 => (List.range 4).map fun k => BitVec.ofNat 32 (fConvert fmtF16 fmtF32 0 false (x / 2 ^ (16 * k) % 2 ^ 16)).1
  | 0x07 | 0x09 => [BitVec.ofNat 32 x]
  | 0x08 => (List.range 4).map fun k => BitVec.ofNat 32 (x / 2 ^ (32 * k))
  | 0x0A => (List.range 4).map fun k => BitVec.ofNat 32 (b k)
  | 0x10 => (etcTexel false x px py).take 3
  | 0x11 => ((etcColour false (etcWord x) px py).take 3).map srgb
  | 0x12 => etcTexel true x px py
  | 0x13 => (etcTexel false (x / 2 ^ 64) px py).take 3 ++ [unorm8 (eacAlpha (etcWord x) px py)]
  | 0x14 => [eacTexel x px py]
  | 0x15 => [eacTexel x px py, eacTexel (x / 2 ^ 64) px py]
  | _ => astcComponents g x px py

/-- All four components: a missing one reads as 0, a missing alpha as 1 (12 R353). -/
def texel (g : Image) (x px py : Nat) : List W32 :=
  let t := rawTexel g x px py
  (List.range 4).map fun k => t.getD k (if k = 3 then (if isIntImage g.ifmt then 1 else 0x3F800000) else 0)

/-! ### Where texels lie (12 R351) -/

/-- Bytes of a layer or slice of a level. -/
def Image.layerBytes (g : Image) (m : Nat) : Nat :=
  let (w, h, _) := g.level m
  let tiles (n b : Nat) : Nat := ((n + b - 1) / b + 7) / 8
  (tiles w g.bw * tiles h g.bh * 64 * unitBytes g.ifmt + 255) / 256 * 256

/-- Offset of a level. -/
def Image.levelOffset (g : Image) (m : Nat) : Nat := ((List.range m).map fun k => g.layerBytes k * (g.level k).2.2).sum

/-- The address of the texel or block that holds (x, y) of a layer of a level. -/
def Image.unitAt (g : Image) (m x y z : Nat) : W64 :=
  let (w, _, _) := g.level m
  let bx := x / g.bw
  let byy := y / g.bh
  let tw := ((w + g.bw - 1) / g.bw + 7) / 8
  g.base + BitVec.ofNat 64 (g.levelOffset m + z * g.layerBytes m + unitBytes g.ifmt * (64 * (byy / 8 * tw + bx / 8) + 8 * (byy % 8) + bx % 8))

/-- A texel that a lane uses: its level and place, none for the border, and its weight. -/
structure Tap where
  place : Option (Nat × Nat × Nat × Nat)
  weight : Nat
  deriving DecidableEq, Repr

/-- The location of a tap. -/
def State.tapPlace (s : State) (g : Image) (t : Tap) : Except Stop (Option (List (Loc × Nat))) :=
  match t.place with
  | none => .ok none
  | some (m, x, y, z) => (s.recRange g.buffer { kind := 6 } (g.unitAt m x y z) (unitBytes g.ifmt)).map some

/-- The locations of a lane's taps. -/
def State.tapPlaces (s : State) (g : Image) : List Tap → Except Stop (List (Tap × Option (List (Loc × Nat))))
  | [] => .ok []
  | t :: ts =>
    match s.tapPlace g t, State.tapPlaces s g ts with
    | .ok p, .ok ps => .ok ((t, p) :: ps)
    | .error e, .error f => .error ((firstStop [e, f]).getD e)
    | .error e, _ => .error e
    | _, .error e => .error e

/-- Reading a lane's taps: components and weight of each. -/
def State.readTaps (s : State) (g : Image) : List (Tap × Option (List (Loc × Nat))) → State × List (List W32 × Nat)
  | [] => (s, [])
  | (t, p) :: ts =>
    let (s, c) := match p, t.place with
      | some ps, some (_, x, y, _) => let (s, v) := s.loadParts ps; (s, texel g v (x % g.bw) (y % g.bh))
      | _, _ => (s, [0, 0, 0, 0])
    let (s, cs) := State.readTaps s g ts
    (s, (c, t.weight) :: cs)

/-! ### The sampler (12 R354, R355) -/

def smpMax (w : W32) : Nat := bits w 28 25
def smpMin (w : W32) : Nat := bits w 24 21
def smpBias (w : W32) : Int := sext 8 (bits w 20 13)
/-- The address mode of axis 0, 1 or 2. -/
def smpMode (w : W32) (k : Nat) : Nat := bits w (6 + 3 * k) (4 + 3 * k)
def smpMip (w : W32) : Nat := bits w 3 2
/-- Linear filtering where the image shrinks, or grows. -/
def smpLinear (w : W32) (shrinks : Bool) : Bool := bit w (if shrinks then 1 else 0)

/-- A texel index under an address mode; none for the border. -/
def wrapIndex (mode n : Nat) (i : Int) : Option Nat :=
  match mode with
  | 0 => some (i % (n : Int)).toNat
  | 1 => let m := (i % (2 * n : Nat)).toNat; some (if m < n then m else 2 * n - 1 - m)
  | 2 => some (max 0 (min i (n - 1))).toNat
  | _ => if 0 ≤ i ∧ i < n then some i.toNat else none

def Frac.floor (a : Frac) : Int := a.num / (a.den : Int)
/-- The fraction, truncated to 1/256. -/
def Frac.part256 (a : Frac) : Nat := (a.num % (a.den : Int) * 256 / (a.den : Int)).toNat
def Frac.add (a b : Frac) : Frac := { num := a.num * b.den + b.num * a.den, den := a.den * b.den }

/-- The indices of an axis with weights in 256ths: a normalised coordinate on n texels. -/
def axisTaps (linear : Bool) (mode n : Nat) (u : Frac) : List (Option Nat × Nat) :=
  let c : Frac := { num := u.num * n, den := u.den }
  if linear then
    let h := c.add { num := -1, den := 2 }
    [(wrapIndex mode n h.floor, 256 - h.part256), (wrapIndex mode n (h.floor + 1), h.part256)]
  else [(wrapIndex mode n c.floor, 256)]

/-- Where a lane samples: u, v, w, and the layer. -/
structure TexCoord where
  u : Frac
  v : Frac
  w : Frac
  layer : Nat
  deriving DecidableEq, Repr

/-- The layer of an array image: the coordinate to the nearest integer, ties to even, within the layers (PRESUMED, log 29). -/
def layerOf (g : Image) (v : Int) : Nat :=
  let q : Int := v / 2 ^ 149
  let r : Int := v % 2 ^ 149
  let n : Int := if 2 * r > 2 ^ 149 ∨ (2 * r = 2 ^ 149 ∧ q % 2 = 1) then q + 1 else q
  (max 0 (min n ((g.depth : Int) - 1))).toNat

/-- The face and its coordinates of a cube direction (12 R355; the mapping: PRESUMED, log 29). -/
def cubeCoord (x y z : Int) : Option TexCoord :=
  let ax : Int := x.natAbs
  let ay : Int := y.natAbs
  let az : Int := z.natAbs
  let (face, sc, tc, ma) : Nat × Int × Int × Int :=
    if ax ≥ ay ∧ ax ≥ az then (if x < 0 then (1, z, -y, ax) else (0, -z, -y, ax))
    else if ay ≥ az then (if y < 0 then (3, x, -z, ay) else (2, x, z, ay))
    else (if z < 0 then (5, -x, -y, az) else (4, x, -y, az))
  if ma = 0 then none
  else some { u := Frac.of (sc + ma) (2 * ma), v := Frac.of (tc + ma) (2 * ma), w := { num := 0, den := 1 }, layer := face }

/-- The coordinates of a lane; none where one that the image uses is not finite (PRESUMED, log 29). -/
def texCoord (g : Image) (a b c : W32) : Option TexCoord :=
  let zero : Frac := { num := 0, den := 1 }
  match g.dim, f32Int a, f32Int b, f32Int c with
  | 0, some x, _, _ => some { u := Frac.ofInt x, v := zero, w := zero, layer := 0 }
  | 1, some x, some y, _ => some { u := Frac.ofInt x, v := Frac.ofInt y, w := zero, layer := 0 }
  | 2, some x, some y, some z => some { u := Frac.ofInt x, v := Frac.ofInt y, w := Frac.ofInt z, layer := 0 }
  | 3, some x, some y, some z => some { u := Frac.ofInt x, v := Frac.ofInt y, w := zero, layer := layerOf g z }
  | 4, some x, some y, some z => cubeCoord x y z
  | _, _, _, _ => none

/-- The taps of a level, with a weight in 256ths: weights are in units of 2^-32 (DEDUCED, log 47). -/
def levelTaps (g : Image) (w : W32) (linear : Bool) (c : TexCoord) (m wt : Nat) : List Tap :=
  let (nx, ny, nz) := g.level m
  let one : List (Option Nat × Nat) := [(some 0, 256)]
  let xs := axisTaps linear (smpMode w 0) nx c.u
  let ys := if g.dim = 0 then one else axisTaps linear (smpMode w 1) ny c.v
  let zs := if g.dim = 2 then axisTaps linear (smpMode w 2) nz c.w else [(some c.layer, 256)]
  zs.flatMap fun z => ys.flatMap fun y => xs.map fun x =>
    { place := match x.1, y.1, z.1 with | some i, some j, some k => some (m, i, j, k) | _, _, _ => none,
      weight := x.2 * y.2 * z.2 * wt }

/-- The taps of a sample at a level of detail (12 R354, R355) (DEDUCED, log 47). -/
def sampleTaps (g : Image) (w : W32) (c : TexCoord) (lod : Frac) : List Tap :=
  let top := g.mips - 1
  let near := isIntImage g.ifmt
  let linear := smpLinear w (decide (lod.num > 0)) && !near
  match smpMip w with
  | 0 => levelTaps g w linear c (min (smpMin w) top) 256
  | 1 => levelTaps g w linear c (min ((lod.add { num := 1, den := 2 }).floor.toNat) top) 256
  | _ =>
    if near then levelTaps g w linear c (min ((lod.add { num := 1, den := 2 }).floor.toNat) top) 256
    else
      let m := lod.floor.toNat
      let f := lod.part256
      levelTaps g w linear c (min m top) (256 - f) ++ levelTaps g w linear c (min (m + 1) top) f

/-- The exact weighted sum of a component, rounded once (12 R355). -/
def weighted (k : Nat) (ts : List (List W32 × Nat)) : W32 :=
  let xs := (ts.filter fun t => t.2 != 0).map fun t => ((t.1.getD k 0).toNat, t.2)
  match fmtF32.nanOf (xs.map (·.1)) with
  | some r => BitVec.ofNat 32 r.1
  | none => BitVec.ofNat 32 (fmtF32.addVals 0 false (xs.map fun x =>
      match fmtF32.read x.1 with | .fin s m e => .fin s (m * x.2) (e - 32) | v => v)).1

/-! ### The level of detail (12 R355) -/

/-- The binary logarithm of a length whose square is n × 2^-298, in units of 2^-32, held within 2^-8 of the exact one (DESIGN CHOICE, log 10). -/
def lodOf (n : Nat) : Int :=
  if n = 0 then -(2 ^ 50)
  else
    let e := Nat.log2 n
    let l := e * 2 ^ 33 + fxLog2Bits 33 (n * fxOne / 2 ^ e) 0
    let ref : Int := (l / 4 : Nat) - 149 * 2 ^ 32
    let v := Config.lod n
    if (v - ref).natAbs ≤ 2 ^ 24 - 4 then v else ref

/-- The squared length, in texels, of a derivative: the differences of the coordinates an image uses. -/
def derivative2 (g : Image) (ds : List W32) : Option Nat :=
  let sizes := match g.dim with | 0 => [g.width] | 2 => [g.width, g.height, g.depth] | 4 => [g.width, g.height, g.width] | _ => [g.width, g.height]
  (allSome ((sizes.zip ds).map fun x => (f32Int x.2).map fun v => (v * x.1).natAbs ^ 2)).map List.sum

/-- The difference of a coordinate across the quad (05 R148). -/
def State.texDiff (s : State) (m : Mask) (axis : BitVec 4) (r l : Nat) : W32 :=
  let (x, y) := qdiffLanes axis l
  if m.getLsbD x && m.getLsbD y then
    BitVec.ofNat 32 (fAdd fmtF32 (bits s.grp.fpctl 1 0) (ftzOf s.grp.fpctl) true (s.lane r x).toNat (s.lane r y).toNat).1
  else 0

/-- The level of detail of a lane; none where the operands give none. -/
def State.laneLod (s : State) (g : Image) (o : LOp) (m : Mask) (l : Nat) : Option Frac :=
  let a := o.a.toNat
  let mode := bits o.f 1 0
  let w := o.imm
  let diffs (axis : BitVec 4) : Option Nat := derivative2 g ((List.range 3).map fun k => s.texDiff m axis (a + k) l)
  let imp : Option Frac := match diffs 0, diffs 1 with
    | some x, some y => some { num := lodOf (max x y), den := 2 ^ 32 }
    | _, _ => none
  let b : Option Frac := (boundInt (BitVec.ofNat 32 (s.srcB o false false l))).map Frac.ofInt
  let zero : Frac := { num := 0, den := 1 }
  match (if mode = 1 then some zero else imp), (if mode = 0 then some zero else b) with
  | some x, some y =>
    let sum := (x.add y).add { num := smpBias w, den := 16 }
    some ((sum.max { num := smpMin w, den := 1 }).min { num := min (smpMax w) (g.mips - 1), den := 1 })
  | _, _ => none

/-! ### Instructions -/

/-- The image of a texture read: a bad record, and a result type its format does not list, raise RECORD_FAULT. -/
def State.texImage (s : State) (o : LOp) : Except Stop (State × Image) :=
  match s.imageRec { kind := 6 } o.sub.toNat with
  | .error e => .error e
  | .ok (s, g) =>
    if resultTypeOk g.ifmt (bits o.f 3 2) then .ok (s, g) else .error (.trap { cause := causeRecord, tval := BitVec.ofNat 64 o.sub.toNat })

/-- Four components as one number. -/
def pack4 (cs : List W32) : Nat := ((List.range 4).map fun k => (cs.getD k 0).toNat * 2 ^ (32 * k)).sum

/-- What a lane of a texture read does: the taps it reads, or values that the manual does not give (DESIGN CHOICE, log 28). -/
inductive TexLane where
  | taps (ts : List Tap)
  | free (x y : W64)

/-- The locations a lane reads. -/
def State.texLane (s : State) (g : Image) (t : TexLane) : Except Stop (List (Tap × Option (List (Loc × Nat))) × Option Nat) :=
  match t with
  | .taps ts => (s.tapPlaces g ts).map fun ps => (ps, none)
  | .free x y => .ok ([], some (x.toNat + y.toNat * 2 ^ 64))

/-- The results of lanes, ascending. -/
def State.texResults (s : State) (g : Image) (f : List (List W32 × Nat) → List W32) :
    List (Nat × List (Tap × Option (List (Loc × Nat))) × Option Nat) → State × List (Nat × Nat)
  | [] => (s, [])
  | (l, ps, given) :: r =>
    let (s, v) := match given with
      | some x => (s, x)
      | none => let (s, ts) := s.readTaps g ps; (s, pack4 (f ts))
    let (s, vs) := State.texResults s g f r
    (s, (l, v) :: vs)

/-- A texture read of lanes: its faults before any effect, then four components in each lane. -/
def State.texRead (s : State) (o : LOp) (g : Image) (lanes : List (Nat × TexLane)) (f : List (List W32 × Nat) → List W32) : State :=
  match gather (lanes.map fun l => (l.1, s.texLane g l.2)) with
  | .error (st, ps) => s.stopLong o.la.toNat o.size ps st
  | .ok as =>
    let (s, vs) := s.texResults g f as
    s.openWindow o.la.toNat o.size 0 (regsResult o.d.toNat 4 (s.enabled o) vs) 0

/-- The taps of each lane, from its coordinates; free values where they are not finite (DESIGN CHOICE, log 28). -/
def State.texLanes (s : State) (o : LOp) (g : Image) (f : State → Nat → TexCoord → State × List Tap) : List Nat → State × List (Nat × TexLane)
  | [] => (s, [])
  | l :: ls =>
    let a := o.a.toNat
    let (s, t) := match texCoord g (s.lane a l) (s.lane (a + 1) l) (s.lane (a + 2) l) with
      | some c => let (s, ts) := f s l c; (s, TexLane.taps ts)
      | none => let (s, x) := s.free 28; let (s, y) := s.free 28; (s, TexLane.free x y)
    let (s, ts) := State.texLanes s o g f ls
    (s, (l, t) :: ts)

/-- tsamp (12 R355). -/
def execTsamp (o : LOp) (s : State) : Out :=
  longExec (.tsamp o) o s fun s =>
    let m := s.enabled o
    if m = 0 then s.openWindow o.la.toNat o.size 0 [] 0
    else
      match s.texImage o with
      | .error e => s.stopLong o.la.toNat o.size [] e
      | .ok (s, g) =>
        let taps (s : State) (l : Nat) (c : TexCoord) : State × List Tap :=
          match s.laneLod g o m l with
          | some x => (s, sampleTaps g o.imm c x)
          | none => let (s, f) := s.free 29; (s, sampleTaps g o.imm c { num := (f.toNat % (g.mips * 2 ^ 32) : Nat), den := 2 ^ 32 })
        let (s, lanes) := s.texLanes o g taps (lanesOf m)
        s.texRead o g lanes fun ts =>
          if isIntImage g.ifmt then (ts.headD ([], 0)).1 else (List.range 4).map fun k => weighted k ts

/-- The taps of tgath: the bilinear footprint of level MINLVL, in the order of R355 (DEDUCED, log 47). -/
def gatherTaps (g : Image) (w : W32) (c : TexCoord) : List Tap :=
  let m := min (smpMin w) (g.mips - 1)
  let (nx, ny, nz) := g.level m
  let ix := (axisTaps true (smpMode w 0) nx c.u).map (·.1)
  let iy := if g.dim = 0 then [some 0, some 0] else (axisTaps true (smpMode w 1) ny c.v).map (·.1)
  let iz := if g.dim = 2 then ((axisTaps false (smpMode w 2) nz c.w).map (·.1)).headD none else some c.layer
  [(0, 1), (1, 1), (1, 0), (0, 0)].map fun p =>
    { place := match ix.getD p.1 none, iy.getD p.2 none, iz with | some i, some j, some k => some (m, i, j, k) | _, _, _ => none, weight := 1 }

/-- tgath (12 R355). -/
def execTgath (o : LOp) (s : State) : Out :=
  longExec (.tgath o) o s fun s =>
    let m := s.enabled o
    if m = 0 then s.openWindow o.la.toNat o.size 0 [] 0
    else
      match s.texImage o with
      | .error e => s.stopLong o.la.toNat o.size [] e
      | .ok (s, g) =>
        let (s, lanes) := s.texLanes o g (fun s _ c => (s, gatherTaps g o.imm c)) (lanesOf m)
        s.texRead o g lanes fun ts => ts.map fun t => t.1.getD (bits o.f 1 0) 0

/-- The texel of tload in a lane: out of range it follows BMODE (12 R356) (DEDUCED, log 47). -/
def loadTap (g : Image) (m x y z : Nat) : Except Stop Tap :=
  let at_ (m x y z : Nat) : Tap := { place := some (m, x, y, z), weight := 1 }
  let y := if g.dim = 0 then 0 else y
  let z := if g.dim ≤ 1 then 0 else z
  let (nx, ny, nz) := g.level m
  if m < g.mips ∧ x < nx ∧ y < ny ∧ z < nz then .ok (at_ m x y z)
  else
    match g.bmode with
    | 0 => .ok { place := none, weight := 1 }
    | 1 =>
      let m := min m (g.mips - 1)
      let (nx, ny, nz) := g.level m
      .ok (at_ m (min x (nx - 1)) (min y (ny - 1)) (min z (nz - 1)))
    | _ => .error (.trap { cause := causeBounds, tval := BitVec.ofNat 64 x })

/-- tload (12 R356). -/
def execTload (o : LOp) (s : State) : Out :=
  longExec (.tload o) o s fun s =>
    let m := s.enabled o
    if m = 0 then s.openWindow o.la.toNat o.size 0 [] 0
    else
      match s.texImage o with
      | .error e => s.stopLong o.la.toNat o.size [] e
      | .ok (s, g) =>
        let c (k l : Nat) : Nat := (s.lane (o.a.toNat + k) l).toNat
        let lane (l : Nat) : Except Stop (List (Tap × Option (List (Loc × Nat))) × Option Nat) :=
          match loadTap g o.imm.toNat (c 0 l) (c 1 l) (c 2 l) with
          | .error e => .error e
          | .ok t => s.texLane g (.taps [t])
        match gather ((lanesOf m).map fun l => (l, lane l)) with
        | .error (st, ps) => s.stopLong o.la.toNat o.size ps st
        | .ok as =>
          let (s, vs) := s.texResults g (fun ts => (ts.headD ([], 0)).1) as
          s.openWindow o.la.toNat o.size 0 (regsResult o.d.toNat 4 m vs) 0

/-- tquery (12 R356). -/
def execTquery (o : LOp) (s : State) : Out :=
  longExec (.tquery o) o s fun s =>
    let m := s.enabled o
    if m = 0 then s.openWindow o.la.toNat o.size 0 [] 0
    else
      match s.imageRec { kind := 6 } o.sub.toNat with
      | .error e => s.stopLong o.la.toNat o.size [] e
      | .ok (s, g) =>
        let k := o.imm.toNat
        let (w, h, d) := g.level k
        let v := if k < g.mips then pack4 [BitVec.ofNat 32 w, BitVec.ofNat 32 h, BitVec.ofNat 32 d, BitVec.ofNat 32 g.mips] else 0
        s.openWindow o.la.toNat o.size 0 (regsResult o.d.toNat 4 m ((lanesOf m).map fun l => (l, v))) 0

end Sys2Proof.Machine
end

