-- ==== Sys2Proof/Machine/Windows.lean ====
section
/-! DEFINITION. The register windows of the functions and what their writes do: plain registers, translation
invalidation, atomic routines, publish sets, the PF's powers, performance selection, function-level resets (11 R292-R294;
13 R359; 14 R382-R385, R393; 15 R405, R411). -/

namespace Sys2Proof.Machine
open Sys2Proof

/-! ### Registers of a VF (11 R294; 14 R393; 15 R411) -/

/-- Changing the context that CTXSEL selects. -/
def State.onSelected (s : State) (vf : Nat) (f : Context → Context) : State := s.onCtx vf (s.vf vf).ctxsel f

/-- A plain register of a VF's window is written; reserved bits are dropped (00 R8). Registers with a row of their own in the
opcode table, read-only ones and unused offsets are left alone (DEDUCED, log 43). -/
def State.writeVfReg (s : State) (vf off : Nat) (x : W64) : State :=
  match off with
  | 0x08 => s.onVf vf fun v => { v with qsel := bits x 15 0 }
  | 0x10 => s.onQueue vf fun q => if q.enable then q else { q with base := x }
  | 0x48 => s.onVf vf fun v => { v with fqBase := x }
  | 0x60 => s.onVf vf fun v => { v with fssel := bits x 7 0 }
  | 0x80 => s.onVf vf fun v => { v with ctxsel := bits x 15 0 }
  | 0x88 => s.onSelected vf fun c => { c with saveBase := x }
  | 0x90 => s.onSelected vf fun c => { c with saveSize := x }
  | 0xC0 => s.onVf vf fun v => { v with atrSel := bits x 5 0 }
  | 0xC8 => s.onVf vf fun v => { v with atrAddr := x }
  | _ => s

/-- A plain register of a head; those marked "while off" only while HCTL.EN = 0 (13 R359). -/
def Head.writeReg (h : Head) (r : Nat) (x : W64) : Head :=
  match r with
  | 0x48 => { h with fb := x &&& 0x1FF }
  | 0x68 => { h with loadSrc := x }
  | 0x70 => { h with loadLen := x }
  | _ =>
    if h.en then h
    else match r with
      | 0x10 => { h with tim1 := x &&& 0xFFFFFFFFFFFF }
      | 0x18 => { h with tim2 := x &&& 0xFFFFFFFF }
      | 0x20 => { h with src := x &&& 0xFFFFFFFFFFFF }
      | 0x28 => { h with sets := x &&& 0x103FF03FF }
      | 0x30 => { h with srcOff := x }
      | 0x38 => { h with alloc := x &&& 0xFFFFFFFF }
      | 0x50 => { h with log := x }
      | 0x58 => { h with logCfg := x &&& 0xFF }
      | 0x80 => { h with encBase := x }
      | 0x88 => { h with encCfg := x &&& 0xFFFFFFFF000F }
      | _ => h

/-- A plain register of the PF's window (14 R393) (DEDUCED, log 43). PFPSLEN, PFPSB0 and PFPSB1 keep all 64 bits (DESIGN CHOICE,
log 56). -/
def State.writePfReg (s : State) (off : Nat) (x : W64) : State :=
  if off = 0x2000 then { s with pfVfSel := bits x 5 0 }
  else if s.pfVfSel = 0 then s
  else match off with
    | 0x2038 => { s with pfPsSel := bits x 9 0 }
    | 0x2040 => { s with pfPsVbase := x }
    | 0x2048 => { s with pfPsLen := x }
    | 0x2050 => { s with pfPsB0 := x }
    | 0x2058 => { s with pfPsB1 := x }
    | 0x2070 => { s with pfRepSel := x &&& 0xFFF0003 }
    | _ => s

/-- REGISTER_WRITE (11 R294; 13 R359; 14 R393): function 0 is the PF (DEDUCED, log 43). -/
def execRegisterWrite (fn offset : Nat) (value : W64) (s : State) : Out :=
  if fn = 0 then .next (s.writePfReg offset value)
  else if 0x1000 ≤ offset ∧ offset < 0x2000 then
    match s.localHead fn ((offset - 0x1000) / 0x100) with
    | none => .next s
    | some k => .next (s.onHead k fun h => h.writeReg (offset % 0x100) value)
  else .next (s.writeVfReg fn offset value)

/-! ### What reads give -/

/-- A head's register (13 R359). HSTAT's halted bit, of which the manual does not say when it holds, is free (DESIGN CHOICE, log 30). -/
def State.readHead (s : State) (h : Head) (r : Nat) : W64 :=
  match r with
  | 0x00 => BitVec.ofNat 64 (h.outsel * 256 + (if h.swap then 2 else 0) + if h.en then 1 else 0)
  | 0x08 => BitVec.ofNat 64 (h.frame % 2 ^ 32 * 2 ^ 32 + (h.next - 1) % 2 ^ 12 * 2 ^ 16 + h.enError * 16
      + (Config.free 30 s.freeCount).toNat % 2 * 8 + (if h.modeHolds then 4 else 0) + (if h.bank then 2 else 0) + if h.en then 1 else 0)
  | 0x10 => h.tim1
  | 0x18 => h.tim2
  | 0x20 => h.src
  | 0x28 => h.sets
  | 0x30 => h.srcOff
  | 0x38 => h.alloc
  | 0x40 => h.pose
  | 0x48 => h.fb
  | 0x50 => h.log
  | 0x58 => h.logCfg
  | 0x60 => BitVec.ofNat 64 ((if h.load.isSome then 2 ^ 63 else 0) + if h.loadErr then 2 ^ 62 else 0)
  | 0x68 => h.loadSrc
  | 0x70 => h.loadLen
  | 0x78 => h.hfault
  | 0x80 => h.encBase
  | 0x88 => h.encCfg
  | _ => 0

/-- A register of a VF's window (11 R294; 14 R385, R393; 15 R411). -/
def State.readVfReg (s : State) (vf off : Nat) : W64 :=
  let v := s.vf vf
  let q : Queue := if v.qsel ≥ v.qCount then {} else v.queues.get {} v.qsel
  let c := s.ctx vf v.ctxsel
  let n (x : Nat) : W64 := BitVec.ofNat 64 x
  if 0x1000 ≤ off ∧ off < 0x2000 then
    match s.localHead vf ((off - 0x1000) / 0x100) with
    | none => 0
    | some k => s.readHead (s.headOf k) (off % 0x100)
  else if 0x108 ≤ off ∧ off < 0x148 then n (v.pmEv.get 0 ((off - 0x108) / 8))
  else if 0x148 ≤ off ∧ off < 0x168 then n (v.pmCev.get 0 ((off - 0x148) / 8))
  else match off with
    | 0x00 => n (v.errCause * 256 + (if v.errPending then 2 else 0) + if v.enabled then 1 else 0)
    | 0x08 => n v.qsel
    | 0x10 => q.base
    | 0x18 => if v.qsel ≥ v.qCount then 0 else n ((if q.enable then 2 ^ 24 else 0) + q.ctx * 256 + q.n)
    | 0x20 => n q.head
    | 0x28 => q.stat
    | 0x30 => n q.fence
    | 0x40 => v.hcinv
    | 0x48 => v.fqBase
    | 0x50 => n v.fqN
    | 0x60 => n v.fssel
    | 0x68 => c.status v.fssel
    | 0x78 => v.fqCons.zeroExtend 64
    | 0x80 => n v.ctxsel
    | 0x88 => c.saveBase
    | 0x90 => c.saveSize
    | 0xA0 => n (c.state + c.error * 256 + if s.unbounded vf v.ctxsel then 65536 else 0)
    | 0xA8 => c.root
    | 0xC0 => n v.atrSel
    | 0xC8 => v.atrAddr
    | 0xD8 => n (v.atrStat * 256 + (if (v.routines.lookup v.atrSel).isSome then 2 else 0) + if v.atrPending.isSome then 1 else 0)
    | 0x100 => n (if v.pmEn then 1 else 0)
    | _ => 0

/-- PFREPDATA (14 R390, R393). -/
def State.repairData (s : State) : W64 :=
  let i := bits s.pfRepSel 27 16
  let n (x : Nat) : W64 := BitVec.ofNat 64 x
  match bits s.pfRepSel 1 0 with
  | 0 =>
    let m : CoreMap := s.coreMap.get {} i
    if i ≥ 768 then 0 else n ((s.feat0 i).toNat * 2 ^ 16 + (if m.present then 32 else 0) + m.phys)
  | 1 => if i ≥ 256 then 0 else (s.channelMap.get (BitVec.ofNat 9 i) i).zeroExtend 64
  | 2 => if i ≥ 8 then 0 else n (if s.stackMap.get false i then 1 else 0)
  | _ =>
    let k := i / 1024
    if k = 0 then (if i < 768 then n (s.core i).sramErrors else 0)
    else if i % 1024 < 4 then (s.dieError (i % 1024) k).zeroExtend 64 else 0

/-- A register of the PF's window (14 R393; 15 R405). -/
def State.readPfReg (s : State) (off : Nat) : W64 :=
  let v := s.vf s.pfVfSel
  let n (x : Nat) : W64 := BitVec.ofNat 64 x
  if s.pfVfSel = 0 then 0
  else match off with
    | 0x2000 => n s.pfVfSel
    | 0x2008 => v.part.zeroExtend 64
    | 0x2010 => n (v.qCount * 2 ^ 16 + v.qFirst)
    | 0x2018 => n v.quota
    | 0x2020 => n (v.slice * 2 ^ 32 + v.saveG * 2 ^ 16 + v.saveB)
    | 0x2028 => v.s2root
    | 0x2038 => n s.pfPsSel
    | 0x2040 => s.pfPsVbase
    | 0x2048 => s.pfPsLen
    | 0x2050 => s.pfPsB0
    | 0x2058 => s.pfPsB1
    | 0x2068 => v.heads.zeroExtend 64
    | 0x2070 => s.pfRepSel
    | 0x2078 => s.repairData
    | 0x2080 => n s.pfErr
    | 0x2088 => n s.pfPcap
    | 0x2090 => n (v.perfDef * 256 + v.perfMax * 16 + v.perfMin)
    | 0x2098 => s.pfGov
    | 0x20A0 => n (s.pfGov2Idle * 256 + s.pfGov2Down)
    | 0x20A8 => v.wdog.zeroExtend 64
    | _ => 0

/-! ### Translation (14 R382, R393) -/

/-- TLBINV (14 R382): no translation outlives its access (DEDUCED, log 7), so the invalidation is done when it is asked for. -/
def execTlbinv (_vf : Nat) (_value : W64) (s : State) : Out := .next s
/-- PFTLBINV (14 R382): as TLBINV (DEDUCED, log 7). -/
def execPftlbinv (_value : W64) (s : State) : Out := .next s

/-- CTXROOT_WRITE (14 R393): while the context is free. -/
def execCtxrootWrite (vf : Nat) (value : W64) (s : State) : Out :=
  .next (s.onSelected vf fun c => if c.state = 0 then { c with root := value } else c)

/-! ### Atomic routines (07 R206; 14 R385) -/

/-- The largest F of an opcode that a routine may hold, with its lengths in words: 1 S32, 2 S64, 3 S96. -/
def routineOps : List (Nat × Nat × List Nat) :=
  [(0x00, 2, [1, 2]), (0x01, 2, [1, 2]), (0x02, 2, [1, 2]), (0x03, 1, [1, 2]), (0x06, 1, [1, 2]), (0x07, 1, [1, 2]),
   (0x08, 0, [1, 2]), (0x09, 0, [1, 2]), (0x0A, 0, [1, 2]), (0x0B, 0, [1, 2]), (0x0C, 0, [1, 2]), (0x0D, 0, [1, 2]),
   (0x0E, 0, [1, 2]), (0x0F, 1, [1, 2]), (0x10, 0, [1, 2]), (0x11, 0, [1]), (0x12, 0, [1]), (0x13, 0, [1]),
   (0x14, 0, [1, 2]), (0x15, 0, [3]), (0x16, 1, [1, 2]), (0x17, 0, [1, 2]), (0x30, 3, [2]), (0x31, 0, [2]), (0x34, 0, [1]),
   (0x40, 0, [1, 2]), (0x41, 0, [1, 2])]

/-- The fields that an opcode leaves unused are 0. -/
def routineZeros (op len : Nat) (w : S32) : Bool :=
  let b0 := w.b == 0
  match op with
  | 0x11 | 0x12 | 0x13 => b0
  | 0x14 => w.a == 0 && (len == 1 || b0)
  | 0x15 => w.a == 0 && b0
  | 0x30 => w.d == 0 && b0
  | 0x31 | 0x34 => w.d == 0 && w.a == 0 && b0
  | 0x40 => b0
  | 0x41 => w.d == 0
  | _ => len == 1 || b0

/-- The instruction at byte offset pc of a routine's words is allowed: 0, or the code of R385 (DEDUCED, log 51); of a length
or an unused field 4, of a branch into the middle of an instruction 3 (DESIGN CHOICE, log 69). -/
def routineFault (ws : List W32) (starts : List Nat) (pc : Nat) : Nat :=
  let w0 := codeWord ws pc
  let w := S32.read w0
  let len := lengthWords w0
  let op := bits w0 8 2
  let e1 := codeWord ws (pc + 4)
  if w.d.toNat > 15 ∨ w.a.toNat > 15 ∨ w.b.toNat > 15 then 2
  else if (op = 0x30 ∨ op = 0x31) ∧ len = 2 ∧ (e1.toInt ≤ 0 ∨ !starts.contains (pc + e1.toNat)) then 3
  else
    match routineOps.find? fun r => r.1 == op with
    | none => 4
    | some (_, fmax, lens) =>
      if w.f.toNat > fmax ∨ !lens.contains len then 4
      else if (op = 0x40 ∨ op = 0x41) ∧ (w.a ≠ 0 ∨ (len = 2 ∧ (e1.toNat > 120 ∨ e1.toNat % 8 ≠ 0))) then 5
      else if routineZeros op len w then 0 else 4

/-- Reading COUNT instructions, word by word, in the translation of context 0: the words and each instruction's offset, or a
code (DEDUCED, log 12). -/
def State.readRoutine (s : State) (vf : Nat) (addr : W64) : Nat → Nat → Except Nat (List W32 × List Nat)
  | 0, off => .ok ([], [off])
  | n + 1, off =>
    match s.loadVa vf 0 { kind := 2 } (addr + BitVec.ofNat 64 off) 4 with
    | .error _ => .error 6
    | .ok (_, x) =>
      let w : W32 := BitVec.ofNat 32 x
      if bits w 1 0 = 0 then .error 1
      else
        let len := lengthWords w
        match s.loadVa vf 0 { kind := 2 } (addr + BitVec.ofNat 64 off) (4 * len) with
        | .error _ => .error 6
        | .ok (_, y) =>
          let ws := (List.range len).map fun k => BitVec.ofNat 32 (y / 2 ^ (32 * k))
          match State.readRoutine s vf addr n (off + 4 * len) with
          | .error e => .error e
          | .ok (rest, starts) => .ok (ws ++ rest, off :: starts)

/-- The words that a registration accepts, or its code: the lowest that applies to an instruction (DEDUCED, log 51). -/
def State.routineCheck (s : State) (vf count : Nat) : Except Nat (List W32) :=
  let addr := (s.vf vf).atrAddr
  if !(s.coreMap.any fun (p : Nat × CoreMap) => p.2.present && bit p.2.feat0 6) then .error 7
  else if count < 1 ∨ count > 16 ∨ addr.toNat % 4 ≠ 0 then .error 1
  else
    match s.readRoutine vf addr count 0 with
    | .error e => .error e
    | .ok (ws, starts) =>
      let codes := (starts.dropLast.map (routineFault ws starts)).filter (· ≠ 0)
      match [2, 3, 4, 5].find? codes.contains with
      | some e => .error e
      | none => .ok ws

/-- A fragment has a patom of routine index k in flight: it has passed its issue check, and a replayable fault holds its access (DESIGN CHOICE, log 62). -/
def Fragment.patomInFlight (f : Fragment) (k : Nat) : Bool :=
  f.valid && (f.patom == some (f.pc, k)
    || (f.windows ++ f.kept).any fun w => w.patom == some k && match w.fault with | some (.page ..) | some (.parked _) => true | _ => false)

/-- A patom of a VF that names routine index k is in flight, in a team that is resident or saved (DESIGN CHOICE, log 62). -/
def State.patomInFlight (s : State) (vf k : Nat) : Bool :=
  let teams := (s.flush.teams.filter fun (p : Nat × Team) => p.2.vf == vf) ++ (s.vf vf).ctxs.flatMap fun (p : Nat × Context) => p.2.saved
  teams.any fun (p : Nat × Team) => !p.2.aborted && p.2.groups.any fun (g : Nat × Group) => g.2.slotA.patomInFlight k || g.2.slotB.patomInFlight k

/-- A routine entry changes: to new words, or removed. -/
def Vf.setRoutine (v : Vf) (k : Nat) (ws : Option (List W32)) : Vf :=
  { v with routines := match ws with | some ws => v.routines.set k ws | none => v.routines.erase k, atrPending := none }

/-- The change of a VF that stands is made once no patom that names the entry is in flight; BUSY clears (14 R385) (DESIGN CHOICE, log 62). -/
def State.settleRoutine (s : State) (vf : Nat) : State :=
  match (s.vf vf).atrPending with
  | none => s
  | some (k, ws) => if s.patomInFlight vf k then s else s.onVf vf fun v => v.setRoutine k ws
/-- The same for every VF (DESIGN CHOICE, log 62). -/
def State.settleRoutines (s : State) : State := (s.vfs.map (·.1)).foldl State.settleRoutine s

/-- The entry that ATRSEL names is to change: while a patom that names it is in flight, BUSY stands (14 R385) (DESIGN CHOICE, log 62). -/
def State.changeRoutine (s : State) (vf code : Nat) (ws : Option (List W32)) : State :=
  (s.onVf vf fun v => { v with atrStat := code, atrPending := some (v.atrSel, ws) }).settleRoutine vf

/-- ATRCMD_REGISTER (14 R385); a command while BUSY stands is ignored (DESIGN CHOICE, log 62) (DEDUCED, log 51). -/
def execAtrcmdRegister (vf count : Nat) (s : State) : Out :=
  if (s.vf vf).atrPending.isSome then .next s
  else
    match s.routineCheck vf count with
    | .error e => .next (s.onVf vf fun v => { v with atrStat := e })
    | .ok ws => .next (s.changeRoutine vf 0 (some ws))
/-- ATRCMD_REMOVE (14 R385); a command while BUSY stands is ignored (DESIGN CHOICE, log 62), and ATRSTAT's code stays (DEDUCED, log 51). -/
def execAtrcmdRemove (vf : Nat) (s : State) : Out :=
  if (s.vf vf).atrPending.isSome then .next s
  else .next (s.changeRoutine vf (s.vf vf).atrStat none)

/-! ### The PF's powers (11 R293; 14 R384, R393) -/

/-- The VF that PFVFSEL selects (DEDUCED, log 43). -/
def State.pfVf (s : State) : Option Nat := if s.pfVfSel = 0 then none else some s.pfVfSel
/-- A rejected write (DEDUCED, log 43). -/
def State.reject (s : State) (e : Nat) : State := { s with pfErr := e }
/-- A write that the PF makes for the VF selected: kept where it is allowed, otherwise an error. -/
def State.pfSet (s : State) (ok : Vf → Bool) (err : Nat) (f : Vf → Vf) : State :=
  match s.pfVf with
  | none => s
  | some k => if ok (s.vf k) then s.onVf k f else s.reject err
/-- Every other VF meets a condition. -/
def State.others (s : State) (f : Vf → Bool) : Bool := s.vfs.all fun (p : Nat × Vf) => p.1 == s.pfVfSel || f p.2

/-- Two extents of len bytes are 64 KiB aligned, within 384 GiB and disjoint (14 R383). -/
def extentsOk (len b0 b1 : Nat) : Bool :=
  decide (len ≠ 0) && len % 65536 == 0 && b0 % 65536 == 0 && b1 % 65536 == 0
  && decide (b0 + len ≤ 384 * 2 ^ 30) && decide (b1 + len ≤ 384 * 2 ^ 30) && decide (b0 + len ≤ b1 ∨ b1 + len ≤ b0)

/-- PFPSCMD_CONFIGURE (14 R384). -/
def execPfpscmdConfigure (s : State) : Out :=
  match s.pfVf with
  | none => .next s
  | some k =>
    let x : PubSet := (s.vf k).pubs.get {} s.pfPsSel
    if alignedCanonical s.pfPsVbase 65536 && extentsOk s.pfPsLen.toNat s.pfPsB0.toNat s.pfPsB1.toNat && (!x.valid || x.inflight == 0) then
      let y : PubSet := { valid := true, vbase := s.pfPsVbase, len := s.pfPsLen.toNat, pbase0 := s.pfPsB0.toNat, pbase1 := s.pfPsB1.toNat,
                          inflight := x.inflight }
      .next ((s.onVf k fun v => { v with pubs := v.pubs.set s.pfPsSel y }).dropRecords k)
    else .next (s.reject 1)

/-- PFPSCMD_INVALIDATE (14 R384). -/
def execPfpscmdInvalidate (s : State) : Out :=
  match s.pfVf with
  | none => .next s
  | some k =>
    let x : PubSet := (s.vf k).pubs.get {} s.pfPsSel
    if x.inflight = 0 then .next ((s.onVf k fun v => { v with pubs := v.pubs.set s.pfPsSel { x with valid := false } }).dropRecords k)
    else .next (s.reject 2)

/-- A cluster powers off (15 R408): scratchpad, ACM and counters are lost; the stops of the Weft Ring stay powered. -/
def State.clusterOff (s : State) (cl : Nat) : State :=
  let s := (coresOf cl).foldl (fun s k => s.onCore k fun x => { ({} : Core) with quarantined := x.quarantined, stops := x.stops }) s
  s.onCluster cl fun c => { ({} : Cluster) with spares := c.spares, degraded := c.degraded, disabled := c.disabled }

/-- PFPART_WRITE (14 R393; 15 R408): a cluster that joins no partition powers off (DEDUCED, log 43). -/
def execPfpartWrite (value : W64) (s : State) : Out :=
  match s.pfVf with
  | none => .next s
  | some k =>
    let m : W32 := value.truncate 32
    let bad := !(s.others fun v => v.part &&& m == 0) || ((List.range 32).any fun cl => bit m cl && (s.cluster cl).disabled)
      || (m != (s.vf k).part && (s.running k).isSome)
    if bad then .next (s.reject 3)
    else
      let gone := (List.range 32).filter fun cl => bit (s.vf k).part cl && !bit m cl
      .next (gone.foldl State.clusterOff (s.onVf k fun v => { v with part := m }))

/-- PFQRANGE_WRITE (14 R393): a range beyond the 65,536 queues is rejected as one that overlaps (DEDUCED, log 43). -/
def execPfqrangeWrite (value : W64) (s : State) : Out :=
  let first := bits value 15 0
  let n := bits value 32 16
  let apart (v : Vf) : Bool := n == 0 || v.qCount == 0 || decide (first + n ≤ v.qFirst ∨ v.qFirst + v.qCount ≤ first)
  .next (s.pfSet (fun _ => decide (first + n ≤ 65536) && s.others apart) 4 fun v => { v with qFirst := first, qCount := n })

/-- PFRING_WRITE (14 R393). -/
def execPfringWrite (value : W64) (s : State) : Out :=
  .next (s.pfSet (fun _ => decide (bits value 13 0 ≤ 8192)) 5 fun v => { v with quota := bits value 13 0 })

/-- PFSAVE_WRITE (11 R293; 14 R393). -/
def execPfsaveWrite (value : W64) (s : State) : Out :=
  let b := bits value 13 0
  let g := bits value 20 16
  let slice := bits value 63 32
  let sum := b + ((s.vfs.filter fun (p : Nat × Vf) => p.1 != s.pfVfSel).map fun (p : Nat × Vf) => p.2.saveB).sum
  .next (s.pfSet (fun _ => decide (sum ≤ 16000 ∧ g ≤ 20 ∧ 10 ≤ slice ∧ slice ≤ 100000)) 6 fun v => { v with saveB := b, saveG := g, slice := slice })

/-- PFS2ROOT_WRITE (14 R393): while the VF has no context. -/
def execPfs2rootWrite (value : W64) (s : State) : Out :=
  match s.pfVf with
  | none => .next s
  | some k => if s.contextsOf k = [] then .next (s.onVf k fun v => { v with s2root := value }) else .next s

/-- PFHEADS_WRITE (13 R358; 14 R393). -/
def execPfheadsWrite (value : W64) (s : State) : Out :=
  let m : BitVec 16 := value.truncate 16
  .next (s.pfSet (fun _ => s.others fun v => v.heads &&& m == 0) 7 fun v => { v with heads := m })

/-- PFPCAP_WRITE (15 R405). -/
def execPfpcapWrite (value : W64) (s : State) : Out :=
  let p := bits value 11 0
  if s.pfVf.isNone then .next s
  else if 500 ≤ p ∧ p ≤ 2000 then .next { s with pfPcap := p } else .next (s.reject 8)

/-- PFPERF_WRITE (15 R405) (DEDUCED, log 43). -/
def execPfperfWrite (value : W64) (s : State) : Out :=
  let lo := bits value 3 0
  let hi := bits value 7 4
  let d := bits value 11 8
  .next (s.pfSet (fun v => decide (lo ≤ d ∧ d ≤ hi) && (v.saveB == 0 || decide (5 ≤ lo))) 8 fun v => { v with perfMin := lo, perfMax := hi, perfDef := d })

/-- PFGOV_WRITE (15 R405). -/
def execPfgovWrite (value : W64) (s : State) : Out :=
  if s.pfVf.isNone then .next s
  else if (List.range 16).all fun i => decide (rampAt value i ≠ 0) then .next { s with pfGov := value } else .next (s.reject 9)

/-- PFGOV2_WRITE (15 R405). -/
def execPfgov2Write (value : W64) (s : State) : Out :=
  let down := bits value 4 0
  let idle := bits value 15 8
  if s.pfVf.isNone then .next s
  else if 1 ≤ down ∧ down ≤ 24 ∧ 1 ≤ idle then .next { s with pfGov2Down := down, pfGov2Idle := idle } else .next (s.reject 9)

/-- PFWDOG_WRITE (11 R318; 14 R393). -/
def execPfwdogWrite (value : W64) (s : State) : Out := .next (s.pfSet (fun _ => true) 0 fun v => { v with wdog := value.truncate 32 })

/-- PFERR_READ (14 R393): the read clears it. -/
def execPferrRead (s : State) : Out :=
  if s.pfVf.isNone then .next { s with pfErrRead := 0 } else .next { s with pfErrRead := s.pfErr, pfErr := 0 }

/-! ### Performance counters (15 R411) -/

/-- The clusters of a VF's partition. -/
def State.partClusters (s : State) (vf : Nat) : List Nat := (List.range 32).filter fun cl => bit (s.vf vf).part cl

/-- Counters of the partition's cores (cs) and clusters (ccs) hold what their events have added, before the selection changes
(DESIGN CHOICE, log 49). -/
def State.settleCounters (s : State) (vf : Nat) (cs ccs : List Nat) : State :=
  (s.partClusters vf).foldl (fun s cl =>
    ccs.foldl (fun s k => s.settleCc vf cl k) ((coresOf cl).foldl (fun s c => cs.foldl (fun s k => s.settlePc vf c k) s) s)) s

/-- PMCTL_WRITE (15 R411): CLR zeroes the counters of the partition's cores and clusters (DEDUCED, log 43). -/
def execPmctlWrite (vf : Nat) (value : W64) (s : State) : Out :=
  let s := if bit value 0 then s else s.settleCounters vf (List.range 8) (List.range 4)
  let s := s.onVf vf fun v => { v with pmEn := bit value 0 }
  if bit value 1 then
    .next ((s.partClusters vf).foldl (fun s cl =>
      ((coresOf cl).foldl (fun s k => s.onCore k fun c => { c with pmc := [] }) s).onCluster cl fun c => { c with ccs := [] }) s)
  else .next s

/-- A code that R411 lists (DEDUCED, log 43). -/
def pmCodeOk (c : Nat) : Bool := decide (c ≤ 0x0C ∨ (0x20 ≤ c ∧ c ≤ 0x23))

/-- PMEV_WRITE (15 R411): indices 0-7 are PMEV0-PMEV7, 8-11 PMCEV0-PMCEV3 (DEDUCED, log 43). -/
def execPmevWrite (vf index : Nat) (value : W64) (s : State) : Out :=
  let c := bits value 7 0
  if !pmCodeOk c then .next s
  else if index < 8 then .next ((s.settleCounters vf [index] []).onVf vf fun v => { v with pmEv := v.pmEv.set index c })
  else if index < 12 then .next ((s.settleCounters vf [] [index - 8]).onVf vf fun v => { v with pmCev := v.pmCev.set (index - 8) c })
  else .next s

/-! ### Functions (00 R16; 11 R292; 14 R393) -/

/-- VF_ENABLE (00 R16): the host driver enables the first VFs, at most 63, once the part is up (DEDUCED, log 44). -/
def execVfEnable (count : Nat) (s : State) : Out :=
  if s.bringUpDone && s.recovery.isNone then
    .next ((List.range (min count 63)).foldl (fun s k => s.onVf (k + 1) fun v => { v with enabled := true }) s)
  else .next s

/-- SPDM_REQUEST (00 R16): the responder answers with the measurements once PCIe has trained (DESIGN CHOICE, log 19). -/
def execSpdmRequest (s : State) : Out := if s.linkUp && s.bringUpDone then .next { s with spdm := s.spdm ++ [s.measured] } else .next s

/-- Removing all work of a VF, with what its engines hold: teams, launches, copies, collectives, ring actions (DEDUCED, log 44). -/
def State.purgeWork (s : State) (vf : Nat) : State :=
  let s := s.flush
  let s := ((s.teams.filter fun (p : Nat × Team) => p.2.vf == vf).map (·.1)).foldl State.freeTeam s
  { s with
    launches := s.launches.filter (fun (p : Nat × Launch) => p.2.vf != vf),
    cores := s.cores.map (fun (p : Nat × Core) =>
      (p.1, { p.2 with copies := p.2.copies.filter (fun (c : Nat × CopyOp) => c.2.vf != vf),
                       stops := p.2.stops.map fun (q : Nat × List RingAct) => (q.1, q.2.filter fun a => a.vf != vf) })),
    collWait := s.collWait.filter (fun c => c.vf != vf),
    colls := s.colls.filter (fun (g : Coll) => g.vf != vf) }

/-- A VF's registers after its reset: its window's are at their reset values, and no routine is valid (14 R393); what the PF
set stays, and so do the publish sets, whose engine writes are gone (DEDUCED, log 44). -/
def Vf.afterReset (v : Vf) : Vf :=
  { rankDevice := v.rankDevice, pubs := v.pubs.map (fun (p : Nat × PubSet) => (p.1, { p.2 with inflight := 0 })),
    part := v.part, qFirst := v.qFirst, qCount := v.qCount, quota := v.quota, saveB := v.saveB, saveG := v.saveG, slice := v.slice,
    s2root := v.s2root, heads := v.heads, wdog := v.wdog, perfMin := v.perfMin, perfMax := v.perfMax, perfDef := v.perfDef }

/-- Resetting a VF (11 R292; 09 R246; 13 R362, R377): its contexts stop with HOST_ABORT and become free, its ring slots are
emptied, its heads are disabled and their banks zero, and its window's registers return to their reset values (DEDUCED, log 44). -/
def State.resetVf (s : State) (vf : Nat) : State :=
  let s := (s.contextsOf vf).foldl (fun s c => s.stopContext vf c causeHostAbort 0) s
  let s := s.purgeWork vf
  let s := { s with slots := s.slots.filter fun (p : Nat × RingSlot) => p.2.vf != vf }
  let s := ((List.range 16).filter fun k => bit (s.vf vf).heads k).foldl (fun s k => s.onHead k fun _ => {}) s
  s.onVf vf Vf.afterReset

/-- VF_FUNCTION_LEVEL_RESET (11 R292) (DEDUCED, log 44). -/
def execVfFunctionLevelReset (vf : Nat) (s : State) : Out := .next (s.resetVf vf)

/-- PF_FUNCTION_LEVEL_RESET (14 R393): every VF is reset, and holds no cluster, no queue and no head (DEDUCED, log 44). -/
def execPfFunctionLevelReset (s : State) : Out :=
  let s := (s.vfs.map fun (p : Nat × Vf) => p.1).foldl State.resetVf s
  let s := (List.range 32).foldl (fun s cl => if (s.cluster cl).on then s.clusterOff cl else s) s
  .next { s with vfs := s.vfs.map fun (p : Nat × Vf) => (p.1, { p.2 with part := 0, qFirst := 0, qCount := 0, heads := 0 }) }

end Sys2Proof.Machine
end

