-- ==== Sys2Proof/Machine/Power.lean ====
section
/-! DEFINITION. Package power, bring-up and the repair map, error reports and run-time repair (00 R14-R16; 06 R159;
09 R246; 11 R326; 13 R376; 14 R390-R392, R425; 15 R409, R412). -/

namespace Sys2Proof.Machine
open Sys2Proof

/-! ### Bring-up (00 R16; 07 R170; 14 R390, R425) -/

/-- The positions of a cluster that exist, from its good physical cores; none where it is disabled. -/
def positionsOf (good : BitVec 26) : Option Nat :=
  let n := popcount 26 good.toNat
  if n ≥ 24 then some 24 else if n ≥ 22 then some 22 else none

/-- The physical core of each of n positions, and the spares (14 R425) (DEDUCED, log 42). -/
def assignCores (good : BitVec 26) (n : Nat) : List Nat × List Nat :=
  let rest := (List.range 26).filter fun k => decide (k ≥ n) && good.getLsbD k
  (List.range n).foldl (fun (r : List Nat × List Nat) k =>
    if good.getLsbD k then (r.1 ++ [k], r.2) else (r.1 ++ [r.2.headD 0], r.2.drop 1)) ([], rest)

/-- FEAT0 bits 1 to 6 of a physical core (14 R390). -/
def featBits (bad : BitVec 3) (scan link : Bool) : BitVec 16 :=
  BitVec.ofNat 16 (64 + (if link then 32 else 0) + (if scan then 16 else 0) + (~~~bad).toNat * 2)

/-- Step 4 for one cluster. -/
def State.bringUpCluster (r : BringUpReport) (s : State) (cl : Nat) : State :=
  let good := r.goodCores.get (BitVec.allOnes 26) cl
  match positionsOf good with
  | none => s.onCluster cl fun c => { c with disabled := true }
  | some n =>
    let a := assignCores good n
    let entry (p : Nat) : CoreMap := { phys := p, present := true, feat0 := featBits (r.badCoprocessors.get 0 (26 * cl + p)) r.scanOk r.linkOk }
    let s := { s with coreMap := (List.range n).foldl (fun m k => m.set (24 * cl + k) (entry (a.1.getD k 0))) s.coreMap }
    s.onCluster cl fun c => { c with spares := a.2, degraded := n == 22 }

/-- Step 3: a failed channel's logical channel is served by the other channel of its slice (07 R170) (DEDUCED, log 42), also
where that one has failed too (DESIGN CHOICE, log 71). -/
def State.bringUpMemory (r : BringUpReport) (s : State) : State :=
  { s with
    channelMap := r.failedChannels.foldl (fun m k => m.set (k % 256) (BitVec.ofNat 9 (k % 256 ^^^ 1) ||| 0x100)) [],
    stackMap := (List.range 8).map fun k => (k, bit r.stackUnits k) }

/-- Bring-up ends in recovery mode, at a step (00 R16) (DEDUCED, log 42). -/
def State.recover (s : State) (n : Nat) : State := { s with recovery := some n, linkUp := true }

/-- A stack has no usable channel: the 32 channels that it serves have all failed (00 R16, 07 R169) (DEDUCED, log 42). -/
def stackDead (failed : List Nat) : Bool := (List.range 8).any fun k => (List.range' (32 * k) 32).all failed.contains

/-- Bring-up leaves every error counter at 0 (15 R412). -/
def State.clearErrors (s : State) : State :=
  { s with dieErrors := [], cores := s.cores.map fun (p : Nat × Core) => (p.1, { p.2 with sramErrors := 0, sramSecond := 0 }) }

/-- Every strand makes one empty revolution (00 R16, 09 R247). -/
def State.emptyRevolution (s : State) : State := { s with ringStep := s.ringStep + 1024, ringRev := s.ringRev + 1 }

/-- POWER_UP_BRING_UP (00 R16): power is applied where it was not, and the six steps follow in order (DESIGN CHOICE, log 24) (DEDUCED, log 42). -/
def execPowerUpBringUp (report : BringUpReport) (s : State) : Out :=
  if s.bringUpDone ∨ s.recovery.isSome then .next s
  else
    let s := { s with power := true }
    if !report.firmwareOk then .next (s.recover 1)
    else if !report.linksOk || report.failedLinks != [] then .next { s.recover 2 with mailbox := report.failedLinks }
    else
      let s := s.bringUpMemory report
      if !report.stacksOk || stackDead report.failedChannels then .next (s.recover 3)
      else
        let s := { (List.range 32).foldl (State.bringUpCluster report) s with badCoprocessors := report.badCoprocessors }
        if (List.range 32).all fun cl => (s.cluster cl).disabled then .next (s.recover 4)
        else if !report.strandsOk then .next (s.recover 5)
        else .next { s.emptyRevolution.clearErrors with
          bringUpDone := true, linkUp := true, measured := { coreMap := s.coreMap, channelMap := s.channelMap, stackMap := s.stackMap } }

/-! ### Power (00 R14, R15) -/

/-- The part without power: nothing of it is left (00 R14); the host's memory and its plans stay. -/
def State.unpowered (s : State) : State :=
  { State.reset with power := false, agenda := s.agenda, freeCount := s.freeCount, hostMem := s.hostMem, hostOut := s.hostOut, hostNoAtomic := s.hostNoAtomic }

/-- POWER_REMOVAL (00 R14). -/
def execPowerRemoval (s : State) : Out := .next s.unpowered

/-- JUNCTION_SHUTDOWN (00 R15): at or above 105 °C; the host sees the link go down (DESIGN CHOICE, log 24). -/
def execJunctionShutdown (celsius : Rat) (s : State) : Out := if celsius ≥ 105 then .next s.unpowered else .next s

/-! ### Errors (06 R159; 09 R246; 11 R326; 13 R376; 15 R409, R412) -/

/-- The claim of a pending slot starts again with a fresh watch: the action watches the slots that pass, with the unit it reserved (DEDUCED, log 38). -/
def RingAct.unclaim (strand i now : Nat) (a : RingAct) : RingAct :=
  if strandOf a.key ≠ strand then a
  else match a.phase with
    | .claimed k | .alightWait k => if k = i then { a with phase := .watch, since := now } else a
    | .home k _ => if k = i then { a with phase := .watch, park := [], since := now } else a
    | _ => a

/-- An uncorrectable error empties a slot, given as strand × 1,024 + slot (09 R246) (DEDUCED, log 38). A pending slot's
unit is its board's still, or is returned already (09 R248). -/
def State.loseSlot (s : State) (index : Nat) : State :=
  let strand := index / 1024
  let i := index % 1024
  let x := s.slot strand i
  if x.st = 0 then s
  else
    let s := if x.st = 1 then s.setSlot strand i {} else s.emptySlot strand i
    { s with cores := s.cores.map fun (p : Nat × Core) =>
        (p.1, { p.2 with stops := p.2.stops.map fun (q : Nat × List RingAct) => (q.1, q.2.map (RingAct.unclaim strand i s.ringStep)) }) }

/-- UNCORRECTABLE_ERROR (06 R159), by where it was found. -/
def execUncorrectableError (site : ErrorSite) (loc : W64) (s : State) : Out :=
  match site with
  | .context vf ctx => if (s.ctx vf ctx).state = 0 then .next s else .next (s.stopContext vf ctx causeUe loc)
  | .ringSlot index =>
    let x := s.slot (index / 1024) (index % 1024)
    if x.st = 0 then .next s
    else .next ((s.contextsOf x.vf).foldl (fun s c => s.stopContext x.vf c causeUe loc) (s.loseSlot index))
  | .ringSlotNoTag index => .next (s.loseSlot index)
  | .save vf ctx => if (s.ctx vf ctx).state = 0 then .next s else .next (s.loseContext vf ctx loc)
  | .bank head => .next (s.onHead head Head.bankError)
  | .bandSlot head => .next (s.slotError head)

/-- A core is taken out of use until its repair: the spans with teams on it are pre-empted (01 R37) (DEDUCED, log 42). -/
def State.quarantine (s : State) (core : Nat) : State :=
  let s := s.onCore core fun c => { c with quarantined := true }
  match s.residents core with
  | [] => s
  | p :: _ => s.requestPreempt p.2.vf

/-- CORRECTED_ERROR (15 R409, R412): kind 0 counts in a core, kinds 1 to 3 in a die. The second in which a core's earlier errors were
counted goes on, or a new one begins; 64 errors of a core's SRAM within one second begin its repair (DEDUCED, log 42). -/
def execCorrectedError (kind unit count : Nat) (inOneSecond : Bool) (s : State) : Out :=
  let up (x : Nat) : Nat := min (x + count) (2 ^ 32 - 1)
  if kind = 0 then
    let s := s.onCore unit fun c =>
      { c with sramErrors := up c.sramErrors, sramSecond := (if inOneSecond then c.sramSecond else 0) + count }
    if (s.core unit).sramSecond ≥ 64 then .next (s.quarantine unit) else .next s
  else if kind ≤ 3 then .next { s with dieErrors := s.dieErrors.set (4 * unit + kind) (BitVec.ofNat 32 (up (s.dieError unit kind).toNat)) }
  else .next s

/-! ### Run-time repair (14 R392, R425) -/

/-- What a repair does, by what is left (14 R392). -/
inductive RepairCase where
  | spare (phys : Nat)
  | coprocessors
  | shrink
  | disable
  deriving DecidableEq, Repr

/-- The case of a repair (DEDUCED, log 42). -/
def repairCase (c : Cluster) (coprocessors : BitVec 3) : RepairCase :=
  match c.spares with
  | p :: ps => .spare (ps.foldl min p)
  | [] => if coprocessors ≠ 0 then .coprocessors else if c.degraded then .disable else .shrink

/-- The cores whose spans are pre-empted first. -/
def RepairCase.cores (core : Nat) : RepairCase → List Nat
  | .spare _ | .coprocessors => [core]
  | .shrink => core :: ([22, 23].map fun k => 24 * clusterOfCore core + k)
  | .disable => coresOf (clusterOfCore core)

/-- A core leaves its quarantine, served by another physical core or by the same: what the quarantined one held is lost, its counters
among it (15 R408); its ring stops stay (DEDUCED, log 42). -/
def State.replaceCore (s : State) (core : Nat) (m : CoreMap) : State :=
  ({ s with coreMap := s.coreMap.set core m }).onCore core fun x => { ({} : Core) with stops := x.stops }

/-- Step 2 of a repair: the change of the map (14 R392) (DEDUCED, log 42). -/
def State.repair (s : State) (core : Nat) (bad : BitVec 3) (k : RepairCase) : State :=
  let cl := clusterOfCore core
  let m : CoreMap := s.coreMap.get {} core
  match k with
  | .spare p =>
    let f := (m.feat0 &&& 0x71) ||| (featBits (s.badCoprocessors.get 0 (26 * cl + p)) false false &&& 0xE)
    (s.replaceCore core { phys := p, present := true, feat0 := f }).onCluster cl fun c => { c with spares := c.spares.filter (· ≠ p) }
  | .coprocessors =>
    let lost := (bad.zeroExtend 16 : BitVec 16) <<< 1
    let at_ := 26 * cl + m.phys
    { s.replaceCore core { m with feat0 := m.feat0 &&& ~~~lost, featLoss := true } with
      badCoprocessors := s.badCoprocessors.set at_ (s.badCoprocessors.get 0 at_ ||| bad) }
  | .shrink =>
    let last (k : Nat) : CoreMap := s.coreMap.get {} (24 * cl + k)
    let gone (s : State) : State := [22, 23].foldl (fun s k => s.replaceCore (24 * cl + k) {}) s
    -- positions 22 and 23 go: one of their cores takes the failed number, or none where the failed core is one of them
    let (s, left) : State × Nat :=
      if core % 24 < 22 then (gone (s.replaceCore core (last 22)), (last 23).phys)
      else (gone s, (last (if core % 24 = 22 then 23 else 22)).phys)
    s.onCluster cl fun c => { c with degraded := true, spares := [left] }
  | .disable =>
    let s := (coresOf cl).foldl (fun s k => s.replaceCore k {}) s
    let s := s.onCluster cl fun _ => { ({} : Cluster) with disabled := true }
    match s.vfOfCluster cl with
    | some v => s.onVf v fun x => { x with part := x.part &&& ~~~(1#32 <<< cl) }
    | none => s

/-- After a repair the teams of a VF's running context that have not started have places on the cores that are left; a context that has a
span with none is stopped (14 R392) (DEDUCED, log 41). -/
def State.settleRepair (s : State) (vf : Option Nat) : State :=
  match vf with
  | none => s
  | some v =>
    match s.running v with
    | none => s
    | some k =>
      match s.replaceWaiting v k with
      | some s => s
      | none => let (s, loc) := s.free 100; s.stopContext v k causeUe loc

/-- RUN_TIME_REPAIR (14 R392): the cores concerned are pre-empted first; once no team is on them, the map changes, and
EPOCH rises (DEDUCED, log 42). -/
def execRunTimeRepair (core : Nat) (coprocessors : BitVec 3) (s : State) : Out :=
  if !(s.coreMap.get {} core).present then .next s
  else
    let k := repairCase (s.cluster (clusterOfCore core)) coprocessors
    let cores := k.cores core
    if cores.any fun c => !(s.residents c).isEmpty then .next (cores.foldl State.quarantine s)
    else .next ({ s.repair core coprocessors k with epoch := s.epoch + 1 }.settleRepair (s.vfOfCluster (clusterOfCore core)))

end Sys2Proof.Machine
end

