-- ==== Sys2Proof/Machine/Dispatch.lean ====
section
/-! DEFINITION. The meaning of every instruction and event: one arm per constructor. -/

namespace Sys2Proof.Machine
open Sys2Proof

/-- The instruction set: each instruction calls its own meaning. -/
def exec (i : Instr) (s : State) : Host.Outcome State Fault Refusal :=
  match i with
  | .addL32 w => Sys2Proof.Machine.execAddL32 w s
  | .add o => Sys2Proof.Machine.execAdd o s
  | .subL32 w => Sys2Proof.Machine.execSubL32 w s
  | .sub o => Sys2Proof.Machine.execSub o s
  | .mulL32 w => Sys2Proof.Machine.execMulL32 w s
  | .mul o => Sys2Proof.Machine.execMul o s
  | .mulhiL32 w => Sys2Proof.Machine.execMulhiL32 w s
  | .mulhi o => Sys2Proof.Machine.execMulhi o s
  | .mad o => Sys2Proof.Machine.execMad o s
  | .div o => Sys2Proof.Machine.execDiv o s
  | .rem o => Sys2Proof.Machine.execRem o s
  | .minL32 w => Sys2Proof.Machine.execMinL32 w s
  | .min o => Sys2Proof.Machine.execMin o s
  | .maxL32 w => Sys2Proof.Machine.execMaxL32 w s
  | .max o => Sys2Proof.Machine.execMax o s
  | .absL32 w => Sys2Proof.Machine.execAbsL32 w s
  | .abs o => Sys2Proof.Machine.execAbs o s
  | .negL32 w => Sys2Proof.Machine.execNegL32 w s
  | .neg o => Sys2Proof.Machine.execNeg o s
  | .andL32 w => Sys2Proof.Machine.execAndL32 w s
  | .and o => Sys2Proof.Machine.execAnd o s
  | .orL32 w => Sys2Proof.Machine.execOrL32 w s
  | .or o => Sys2Proof.Machine.execOr o s
  | .xorL32 w => Sys2Proof.Machine.execXorL32 w s
  | .xor o => Sys2Proof.Machine.execXor o s
  | .notL32 w => Sys2Proof.Machine.execNotL32 w s
  | .not o => Sys2Proof.Machine.execNot o s
  | .andnL32 w => Sys2Proof.Machine.execAndnL32 w s
  | .andn o => Sys2Proof.Machine.execAndn o s
  | .shlL32 w => Sys2Proof.Machine.execShlL32 w s
  | .shl o => Sys2Proof.Machine.execShl o s
  | .shrL32 w => Sys2Proof.Machine.execShrL32 w s
  | .shr o => Sys2Proof.Machine.execShr o s
  | .sraL32 w => Sys2Proof.Machine.execSraL32 w s
  | .sra o => Sys2Proof.Machine.execSra o s
  | .rotlL32 w => Sys2Proof.Machine.execRotlL32 w s
  | .rotl o => Sys2Proof.Machine.execRotl o s
  | .bfeL32 w => Sys2Proof.Machine.execBfeL32 w s
  | .bfe o => Sys2Proof.Machine.execBfe o s
  | .bfi o => Sys2Proof.Machine.execBfi o s
  | .popcL32 w => Sys2Proof.Machine.execPopcL32 w s
  | .popc o => Sys2Proof.Machine.execPopc o s
  | .clzL32 w => Sys2Proof.Machine.execClzL32 w s
  | .clz o => Sys2Proof.Machine.execClz o s
  | .ctzL32 w => Sys2Proof.Machine.execCtzL32 w s
  | .ctz o => Sys2Proof.Machine.execCtz o s
  | .brevL32 w => Sys2Proof.Machine.execBrevL32 w s
  | .brev o => Sys2Proof.Machine.execBrev o s
  | .cmp o => Sys2Proof.Machine.execCmp o s
  | .sel o => Sys2Proof.Machine.execSel o s
  | .movL32 w => Sys2Proof.Machine.execMovL32 w s
  | .mov o => Sys2Proof.Machine.execMov o s
  | .cvtiL32 w => Sys2Proof.Machine.execCvtiL32 w s
  | .cvti o => Sys2Proof.Machine.execCvti o s
  | .lea o => Sys2Proof.Machine.execLea o s
  | .perm o => Sys2Proof.Machine.execPerm o s
  | .paddL32 w => Sys2Proof.Machine.execPaddL32 w s
  | .padd o => Sys2Proof.Machine.execPadd o s
  | .psubL32 w => Sys2Proof.Machine.execPsubL32 w s
  | .psub o => Sys2Proof.Machine.execPsub o s
  | .pmulL32 w => Sys2Proof.Machine.execPmulL32 w s
  | .pmul o => Sys2Proof.Machine.execPmul o s
  | .pminL32 w => Sys2Proof.Machine.execPminL32 w s
  | .pmin o => Sys2Proof.Machine.execPmin o s
  | .pmaxL32 w => Sys2Proof.Machine.execPmaxL32 w s
  | .pmax o => Sys2Proof.Machine.execPmax o s
  | .pabsL32 w => Sys2Proof.Machine.execPabsL32 w s
  | .pabs o => Sys2Proof.Machine.execPabs o s
  | .pshlL32 w => Sys2Proof.Machine.execPshlL32 w s
  | .pshl o => Sys2Proof.Machine.execPshl o s
  | .pshrL32 w => Sys2Proof.Machine.execPshrL32 w s
  | .pshr o => Sys2Proof.Machine.execPshr o s
  | .psraL32 w => Sys2Proof.Machine.execPsraL32 w s
  | .psra o => Sys2Proof.Machine.execPsra o s
  | .pcmpL32 w => Sys2Proof.Machine.execPcmpL32 w s
  | .pcmp o => Sys2Proof.Machine.execPcmp o s
  | .pdot o => Sys2Proof.Machine.execPdot o s
  | .ppackL32 w => Sys2Proof.Machine.execPpackL32 w s
  | .ppack o => Sys2Proof.Machine.execPpack o s
  | .punpkL32 w => Sys2Proof.Machine.execPunpkL32 w s
  | .punpk o => Sys2Proof.Machine.execPunpk o s
  | .sad o => Sys2Proof.Machine.execSad o s
  | .vgive o => Sys2Proof.Machine.execVgive o s
  | .vclaim o => Sys2Proof.Machine.execVclaim o s
  | .vclaimTry o => Sys2Proof.Machine.execVclaimTry o s
  | .faddL32 w => Sys2Proof.Machine.execFaddL32 w s
  | .fadd o => Sys2Proof.Machine.execFadd o s
  | .fsubL32 w => Sys2Proof.Machine.execFsubL32 w s
  | .fsub o => Sys2Proof.Machine.execFsub o s
  | .fmulL32 w => Sys2Proof.Machine.execFmulL32 w s
  | .fmul o => Sys2Proof.Machine.execFmul o s
  | .fma o => Sys2Proof.Machine.execFma o s
  | .fminL32 w => Sys2Proof.Machine.execFminL32 w s
  | .fmin o => Sys2Proof.Machine.execFmin o s
  | .fmaxL32 w => Sys2Proof.Machine.execFmaxL32 w s
  | .fmax o => Sys2Proof.Machine.execFmax o s
  | .fsgnL32 w => Sys2Proof.Machine.execFsgnL32 w s
  | .fsgn o => Sys2Proof.Machine.execFsgn o s
  | .fcmp o => Sys2Proof.Machine.execFcmp o s
  | .fclassL32 w => Sys2Proof.Machine.execFclassL32 w s
  | .fclass o => Sys2Proof.Machine.execFclass o s
  | .frndL32 w => Sys2Proof.Machine.execFrndL32 w s
  | .frnd o => Sys2Proof.Machine.execFrnd o s
  | .fscale o => Sys2Proof.Machine.execFscale o s
  | .fexpoL32 w => Sys2Proof.Machine.execFexpoL32 w s
  | .fexpo o => Sys2Proof.Machine.execFexpo o s
  | .fdot2 o => Sys2Proof.Machine.execFdot2 o s
  | .fdiv o => Sys2Proof.Machine.execFdiv o s
  | .fsqrt o => Sys2Proof.Machine.execFsqrt o s
  | .frcp o => Sys2Proof.Machine.execFrcp o s
  | .frsq o => Sys2Proof.Machine.execFrsq o s
  | .fexp2 o => Sys2Proof.Machine.execFexp2 o s
  | .flog2 o => Sys2Proof.Machine.execFlog2 o s
  | .fsin o => Sys2Proof.Machine.execFsin o s
  | .fcos o => Sys2Proof.Machine.execFcos o s
  | .ftanh o => Sys2Proof.Machine.execFtanh o s
  | .cvtL32 w => Sys2Proof.Machine.execCvtL32 w s
  | .cvt o => Sys2Proof.Machine.execCvt o s
  | .cvtfiL32 w => Sys2Proof.Machine.execCvtfiL32 w s
  | .cvtfi o => Sys2Proof.Machine.execCvtfi o s
  | .cvtifL32 w => Sys2Proof.Machine.execCvtifL32 w s
  | .cvtif o => Sys2Proof.Machine.execCvtif o s
  | .cvtxL32 w => Sys2Proof.Machine.execCvtxL32 w s
  | .cvtx o => Sys2Proof.Machine.execCvtx o s
  | .cvtq o => Sys2Proof.Machine.execCvtq o s
  | .cvtn o => Sys2Proof.Machine.execCvtn o s
  | .amxcom o => Sys2Proof.Machine.execAmxcom o s
  | .wfup o => Sys2Proof.Machine.execWfup o s
  | .wfmerge o => Sys2Proof.Machine.execWfmerge o s
  | .bra o => Sys2Proof.Machine.execBra o s
  | .join o => Sys2Proof.Machine.execJoin o s
  | .joint o => Sys2Proof.Machine.execJoint o s
  | .call o => Sys2Proof.Machine.execCall o s
  | .ret o => Sys2Proof.Machine.execRet o s
  | .exit o => Sys2Proof.Machine.execExit o s
  | .dqtake o => Sys2Proof.Machine.execDqtake o s
  | .allon o => Sys2Proof.Machine.execAllon o s
  | .alloff o => Sys2Proof.Machine.execAlloff o s
  | .vote o => Sys2Proof.Machine.execVote o s
  | .shfl o => Sys2Proof.Machine.execShfl o s
  | .qswap o => Sys2Proof.Machine.execQswap o s
  | .qdiff o => Sys2Proof.Machine.execQdiff o s
  | .scan o => Sys2Proof.Machine.execScan o s
  | .redc o => Sys2Proof.Machine.execRedc o s
  | .lds o => Sys2Proof.Machine.execLds o s
  | .sts o => Sys2Proof.Machine.execSts o s
  | .ldb o => Sys2Proof.Machine.execLdb o s
  | .stb o => Sys2Proof.Machine.execStb o s
  | .atoms o => Sys2Proof.Machine.execAtoms o s
  | .atom o => Sys2Proof.Machine.execAtom o s
  | .gred o => Sys2Proof.Machine.execGred o s
  | .patom o => Sys2Proof.Machine.execPatom o s
  | .pfb o => Sys2Proof.Machine.execPfb o s
  | .accRd o => Sys2Proof.Machine.execAccRd o s
  | .board o => Sys2Proof.Machine.execBoard o s
  | .alight o => Sys2Proof.Machine.execAlight o s
  | .wcap o => Sys2Proof.Machine.execWcap o s
  | .wcapUntil o => Sys2Proof.Machine.execWcapUntil o s
  | .wrew o => Sys2Proof.Machine.execWrew o s
  | .fence o => Sys2Proof.Machine.execFence o s
  | .emitv o => Sys2Proof.Machine.execEmitv o s
  | .emitp o => Sys2Proof.Machine.execEmitp o s
  | .emitend o => Sys2Proof.Machine.execEmitend o s
  | .vbld o => Sys2Proof.Machine.execVbld o s
  | .vbary o => Sys2Proof.Machine.execVbary o s
  | .vinterp o => Sys2Proof.Machine.execVinterp o s
  | .cover o => Sys2Proof.Machine.execCover o s
  | .trace o => Sys2Proof.Machine.execTrace o s
  | .hitacc o => Sys2Proof.Machine.execHitacc o s
  | .hitign o => Sys2Proof.Machine.execHitign o s
  | .tsamp o => Sys2Proof.Machine.execTsamp o s
  | .tgath o => Sys2Proof.Machine.execTgath o s
  | .tload o => Sys2Proof.Machine.execTload o s
  | .tquery o => Sys2Proof.Machine.execTquery o s
  | .rdvArr o => Sys2Proof.Machine.execRdvArr o s
  | .rdvWait o => Sys2Proof.Machine.execRdvWait o s
  | .rdvDrop o => Sys2Proof.Machine.execRdvDrop o s
  | .setperf o => Sys2Proof.Machine.execSetperf o s
  | .ctrrd o => Sys2Proof.Machine.execCtrrd o s
  | .sysrd o => Sys2Proof.Machine.execSysrd o s
  | .syswr o => Sys2Proof.Machine.execSyswr o s
  | .trap o => Sys2Proof.Machine.execTrap o s
  | .brk o => Sys2Proof.Machine.execBrk o s
  | .eret o => Sys2Proof.Machine.execEret o s
  | .nop o => Sys2Proof.Machine.execNop o s
  | .saddS32 w => Sys2Proof.Machine.execSaddS32 w s
  | .saddS64 o => Sys2Proof.Machine.execSaddS64 o s
  | .ssubS32 w => Sys2Proof.Machine.execSsubS32 w s
  | .ssubS64 o => Sys2Proof.Machine.execSsubS64 o s
  | .smulS32 w => Sys2Proof.Machine.execSmulS32 w s
  | .smulS64 o => Sys2Proof.Machine.execSmulS64 o s
  | .smulhiS32 w => Sys2Proof.Machine.execSmulhiS32 w s
  | .smulhiS64 o => Sys2Proof.Machine.execSmulhiS64 o s
  | .sdivS32 w => Sys2Proof.Machine.execSdivS32 w s
  | .sdivS64 o => Sys2Proof.Machine.execSdivS64 o s
  | .sremS32 w => Sys2Proof.Machine.execSremS32 w s
  | .sremS64 o => Sys2Proof.Machine.execSremS64 o s
  | .sminS32 w => Sys2Proof.Machine.execSminS32 w s
  | .sminS64 o => Sys2Proof.Machine.execSminS64 o s
  | .smaxS32 w => Sys2Proof.Machine.execSmaxS32 w s
  | .smaxS64 o => Sys2Proof.Machine.execSmaxS64 o s
  | .sandS32 w => Sys2Proof.Machine.execSandS32 w s
  | .sandS64 o => Sys2Proof.Machine.execSandS64 o s
  | .sorS32 w => Sys2Proof.Machine.execSorS32 w s
  | .sorS64 o => Sys2Proof.Machine.execSorS64 o s
  | .sxorS32 w => Sys2Proof.Machine.execSxorS32 w s
  | .sxorS64 o => Sys2Proof.Machine.execSxorS64 o s
  | .sandnS32 w => Sys2Proof.Machine.execSandnS32 w s
  | .sandnS64 o => Sys2Proof.Machine.execSandnS64 o s
  | .sshlS32 w => Sys2Proof.Machine.execSshlS32 w s
  | .sshlS64 o => Sys2Proof.Machine.execSshlS64 o s
  | .sshrS32 w => Sys2Proof.Machine.execSshrS32 w s
  | .sshrS64 o => Sys2Proof.Machine.execSshrS64 o s
  | .ssraS32 w => Sys2Proof.Machine.execSsraS32 w s
  | .ssraS64 o => Sys2Proof.Machine.execSsraS64 o s
  | .sbfeS32 w => Sys2Proof.Machine.execSbfeS32 w s
  | .sbfeS64 o => Sys2Proof.Machine.execSbfeS64 o s
  | .sbfiS32 w => Sys2Proof.Machine.execSbfiS32 w s
  | .sbfiS64 o => Sys2Proof.Machine.execSbfiS64 o s
  | .spopc w => Sys2Proof.Machine.execSpopc w s
  | .sclz w => Sys2Proof.Machine.execSclz w s
  | .sctz w => Sys2Proof.Machine.execSctz w s
  | .smovS32 w => Sys2Proof.Machine.execSmovS32 w s
  | .smovS64 o => Sys2Proof.Machine.execSmovS64 o s
  | .sli o => Sys2Proof.Machine.execSli o s
  | .scmpS32 w => Sys2Proof.Machine.execScmpS32 w s
  | .scmpS64 o => Sys2Proof.Machine.execScmpS64 o s
  | .sselS32 w => Sys2Proof.Machine.execSselS32 w s
  | .sselS64 o => Sys2Proof.Machine.execSselS64 o s
  | .sleaS32 w => Sys2Proof.Machine.execSleaS32 w s
  | .sleaS64 o => Sys2Proof.Machine.execSleaS64 o s
  | .sbr o => Sys2Proof.Machine.execSbr o s
  | .sjmpS32 w => Sys2Proof.Machine.execSjmpS32 w s
  | .sjmpS64 o => Sys2Proof.Machine.execSjmpS64 o s
  | .scallS32 w => Sys2Proof.Machine.execScallS32 w s
  | .scallS64 o => Sys2Proof.Machine.execScallS64 o s
  | .sret w => Sys2Proof.Machine.execSret w s
  | .sexit w => Sys2Proof.Machine.execSexit w s
  | .sdqpush w => Sys2Proof.Machine.execSdqpush w s
  | .sldsS32 w => Sys2Proof.Machine.execSldsS32 w s
  | .sldsS64 o => Sys2Proof.Machine.execSldsS64 o s
  | .sstsS32 w => Sys2Proof.Machine.execSstsS32 w s
  | .sstsS64 o => Sys2Proof.Machine.execSstsS64 o s
  | .sldgS32 w => Sys2Proof.Machine.execSldgS32 w s
  | .sldgS64 o => Sys2Proof.Machine.execSldgS64 o s
  | .sstgS32 w => Sys2Proof.Machine.execSstgS32 w s
  | .sstgS64 o => Sys2Proof.Machine.execSstgS64 o s
  | .satom o => Sys2Proof.Machine.execSatom o s
  | .mmul o => Sys2Proof.Machine.execMmul o s
  | .mmulp o => Sys2Proof.Machine.execMmulp o s
  | .maccLd o => Sys2Proof.Machine.execMaccLd o s
  | .maccSt o => Sys2Proof.Machine.execMaccSt o s
  | .maccRb o => Sys2Proof.Machine.execMaccRb o s
  | .maccClr o => Sys2Proof.Machine.execMaccClr o s
  | .mmv o => Sys2Proof.Machine.execMmv o s
  | .sboard o => Sys2Proof.Machine.execSboard o s
  | .salight o => Sys2Proof.Machine.execSalight o s
  | .swcap o => Sys2Proof.Machine.execSwcap o s
  | .swrew o => Sys2Proof.Machine.execSwrew o s
  | .xcopy o => Sys2Proof.Machine.execXcopy o s
  | .xpub w => Sys2Proof.Machine.execXpub w s
  | .xdrain w => Sys2Proof.Machine.execXdrain w s
  | .xcoll o => Sys2Proof.Machine.execXcoll o s
  | .sfence w => Sys2Proof.Machine.execSfence w s
  | .slaunch w => Sys2Proof.Machine.execSlaunch w s
  | .sfsnew w => Sys2Proof.Machine.execSfsnew w s
  | .sfswait w => Sys2Proof.Machine.execSfswait w s
  | .sqfence w => Sys2Proof.Machine.execSqfence w s
  | .srdvInit w => Sys2Proof.Machine.execSrdvInit w s
  | .srdvArrS32 w => Sys2Proof.Machine.execSrdvArrS32 w s
  | .srdvArrS64 o => Sys2Proof.Machine.execSrdvArrS64 o s
  | .srdvWait w => Sys2Proof.Machine.execSrdvWait w s
  | .ssetperf w => Sys2Proof.Machine.execSsetperf w s
  | .ssysrd o => Sys2Proof.Machine.execSsysrd o s
  | .ssyswr o => Sys2Proof.Machine.execSsyswr o s
  | .strapS32 w => Sys2Proof.Machine.execStrapS32 w s
  | .strapS64 o => Sys2Proof.Machine.execStrapS64 o s
  | .seret w => Sys2Proof.Machine.execSeret w s
  | .lgen w => Sys2Proof.Machine.execLgen w s
  | .lgenWait w => Sys2Proof.Machine.execLgenWait w s
  | .llatch w => Sys2Proof.Machine.execLlatch w s
  | .lfetch o => Sys2Proof.Machine.execLfetch o s
  | .lme o => Sys2Proof.Machine.execLme o s
  | .lwarp o => Sys2Proof.Machine.execLwarp o s
  | .lnet w => Sys2Proof.Machine.execLnet w s
  | .lput w => Sys2Proof.Machine.execLput w s
  | .lpose w => Sys2Proof.Machine.execLpose w s
  | .ltime w => Sys2Proof.Machine.execLtime w s
  | .lend w => Sys2Proof.Machine.execLend w s
  | .powerUpBringUp report => Sys2Proof.Machine.execPowerUpBringUp report s
  | .powerRemoval => Sys2Proof.Machine.execPowerRemoval s
  | .junctionShutdown celsius => Sys2Proof.Machine.execJunctionShutdown celsius s
  | .capWindowEnd reading => Sys2Proof.Machine.execCapWindowEnd reading s
  | .clockRatioChange core => Sys2Proof.Machine.execClockRatioChange core s
  | .clusterPowerOn cluster => Sys2Proof.Machine.execClusterPowerOn cluster s
  | .vfFunctionLevelReset vf => Sys2Proof.Machine.execVfFunctionLevelReset vf s
  | .pfFunctionLevelReset => Sys2Proof.Machine.execPfFunctionLevelReset s
  | .uncorrectableError site loc => Sys2Proof.Machine.execUncorrectableError site loc s
  | .hostAbort vf ctx => Sys2Proof.Machine.execHostAbort vf ctx s
  | .correctedError kind unit count inOneSecond => Sys2Proof.Machine.execCorrectedError kind unit count inOneSecond s
  | .runTimeRepair core coprocessors => Sys2Proof.Machine.execRunTimeRepair core coprocessors s
  | .doorbellWrite vf queue tail => Sys2Proof.Machine.execDoorbellWrite vf queue tail s
  | .packetTake vf queue => Sys2Proof.Machine.execPacketTake vf queue s
  | .launchCheck vf ctx => Sys2Proof.Machine.execLaunchCheck vf ctx s
  | .teamStart core => Sys2Proof.Machine.execTeamStart core s
  | .teamEnd team => Sys2Proof.Machine.execTeamEnd team s
  | .qresume vf value => Sys2Proof.Machine.execQresume vf value s
  | .qcfgWrite vf value => Sys2Proof.Machine.execQcfgWrite vf value s
  | .hcinv vf value => Sys2Proof.Machine.execHcinv vf value s
  | .fqcfgWrite vf value => Sys2Proof.Machine.execFqcfgWrite vf value s
  | .fqconsWrite vf value => Sys2Proof.Machine.execFqconsWrite vf value s
  | .fqrespReplay vf page => Sys2Proof.Machine.execFqrespReplay vf page s
  | .fqrespFailure vf page => Sys2Proof.Machine.execFqrespFailure vf page s
  | .faultPostRetry vf => Sys2Proof.Machine.execFaultPostRetry vf s
  | .fsreset vf value => Sys2Proof.Machine.execFsreset vf value s
  | .vfstatClear vf value => Sys2Proof.Machine.execVfstatClear vf value s
  | .ctxcmdCreate vf => Sys2Proof.Machine.execCtxcmdCreate vf s
  | .ctxcmdDestroy vf => Sys2Proof.Machine.execCtxcmdDestroy vf s
  | .ctxcmdPreempt vf => Sys2Proof.Machine.execCtxcmdPreempt vf s
  | .timeSliceEnd vf => Sys2Proof.Machine.execTimeSliceEnd vf s
  | .gracePhaseEnd vf => Sys2Proof.Machine.execGracePhaseEnd vf s
  | .stopPhaseSettled vf => Sys2Proof.Machine.execStopPhaseSettled vf s
  | .saveComplete vf => Sys2Proof.Machine.execSaveComplete vf s
  | .contextResume vf => Sys2Proof.Machine.execContextResume vf s
  | .contextWatchdogExpiry vf => Sys2Proof.Machine.execContextWatchdogExpiry vf s
  | .windowClose team group => Sys2Proof.Machine.execWindowClose team group s
  | .joinTimerExpiry team group token => Sys2Proof.Machine.execJoinTimerExpiry team group token s
  | .joinDeadlock team group => Sys2Proof.Machine.execJoinDeadlock team group s
  | .pairTimeout core => Sys2Proof.Machine.execPairTimeout core s
  | .homeSliceAccess slice => Sys2Proof.Machine.execHomeSliceAccess slice s
  | .matrixKStep core => Sys2Proof.Machine.execMatrixKStep core s
  | .governorStep cluster => Sys2Proof.Machine.execGovernorStep cluster s
  | .maccComplete core => Sys2Proof.Machine.execMaccComplete core s
  | .ringSlotPassage => Sys2Proof.Machine.execRingSlotPassage s
  | .ringWatchExpiry => Sys2Proof.Machine.execRingWatchExpiry s
  | .wcapUntilTimeout => Sys2Proof.Machine.execWcapUntilTimeout s
  | .seamRevolution => Sys2Proof.Machine.execSeamRevolution s
  | .copyComplete core entry => Sys2Proof.Machine.execCopyComplete core entry s
  | .collectiveJoin die => Sys2Proof.Machine.execCollectiveJoin die s
  | .collectiveRankDone die rank => Sys2Proof.Machine.execCollectiveRankDone die rank s
  | .rdvUnitsArrive team => Sys2Proof.Machine.execRdvUnitsArrive team s
  | .rasterPrimitive core batch => Sys2Proof.Machine.execRasterPrimitive core batch s
  | .coverageTeamStart core batch => Sys2Proof.Machine.execCoverageTeamStart core batch s
  | .pixelTeamStart core batch => Sys2Proof.Machine.execPixelTeamStart core batch s
  | .emitendResult core batch => Sys2Proof.Machine.execEmitendResult core batch s
  | .traversalResult team group lane => Sys2Proof.Machine.execTraversalResult team group lane s
  | .headEnable vf head value => Sys2Proof.Machine.execHeadEnable vf head value s
  | .headDisable vf head value => Sys2Proof.Machine.execHeadDisable vf head value s
  | .hctlSwap vf head => Sys2Proof.Machine.execHctlSwap vf head s
  | .bankSwap head => Sys2Proof.Machine.execBankSwap head s
  | .hload vf head value => Sys2Proof.Machine.execHload vf head value s
  | .hloadDone head => Sys2Proof.Machine.execHloadDone head s
  | .hposeWrite vf head value => Sys2Proof.Machine.execHposeWrite vf head value s
  | .bandProgramStart head => Sys2Proof.Machine.execBandProgramStart head s
  | .bandDeadline head => Sys2Proof.Machine.execBandDeadline head s
  | .fallbackWriteDone head => Sys2Proof.Machine.execFallbackWriteDone head s
  | .fallbackModeBand head => Sys2Proof.Machine.execFallbackModeBand head s
  | .frameStart head => Sys2Proof.Machine.execFrameStart head s
  | .bandScanout head => Sys2Proof.Machine.execBandScanout head s
  | .sharedUnitGrant motion => Sys2Proof.Machine.execSharedUnitGrant motion s
  | .tlbinv vf value => Sys2Proof.Machine.execTlbinv vf value s
  | .pftlbinv value => Sys2Proof.Machine.execPftlbinv value s
  | .atrcmdRegister vf count => Sys2Proof.Machine.execAtrcmdRegister vf count s
  | .atrcmdRemove vf => Sys2Proof.Machine.execAtrcmdRemove vf s
  | .pfpscmdConfigure => Sys2Proof.Machine.execPfpscmdConfigure s
  | .pfpscmdInvalidate => Sys2Proof.Machine.execPfpscmdInvalidate s
  | .pfpartWrite value => Sys2Proof.Machine.execPfpartWrite value s
  | .pfqrangeWrite value => Sys2Proof.Machine.execPfqrangeWrite value s
  | .pfringWrite value => Sys2Proof.Machine.execPfringWrite value s
  | .pfsaveWrite value => Sys2Proof.Machine.execPfsaveWrite value s
  | .pfheadsWrite value => Sys2Proof.Machine.execPfheadsWrite value s
  | .pfpcapWrite value => Sys2Proof.Machine.execPfpcapWrite value s
  | .pfperfWrite value => Sys2Proof.Machine.execPfperfWrite value s
  | .pfgovWrite value => Sys2Proof.Machine.execPfgovWrite value s
  | .pfgov2Write value => Sys2Proof.Machine.execPfgov2Write value s
  | .pfwdogWrite value => Sys2Proof.Machine.execPfwdogWrite value s
  | .pferrRead => Sys2Proof.Machine.execPferrRead s
  | .ctxrootWrite vf value => Sys2Proof.Machine.execCtxrootWrite vf value s
  | .pfs2rootWrite value => Sys2Proof.Machine.execPfs2rootWrite value s
  | .pmctlWrite vf value => Sys2Proof.Machine.execPmctlWrite vf value s
  | .pmevWrite vf index value => Sys2Proof.Machine.execPmevWrite vf index value s
  | .registerWrite fn offset value => Sys2Proof.Machine.execRegisterWrite fn offset value s
  | .copyWordWrite core entry word => Sys2Proof.Machine.execCopyWordWrite core entry word s
  | .wolynLinkPortFailure port => Sys2Proof.Machine.execWolynLinkPortFailure port s
  | .vfEnable count => Sys2Proof.Machine.execVfEnable count s
  | .spdmRequest => Sys2Proof.Machine.execSpdmRequest s

end Sys2Proof.Machine
end

