-- ==== Sys2Proof/Machine/Issue.lean ====
section
/-! DEFINITION. Fetch, decode and issue for each kind of stream, and what a step adds around an instruction: windows that
close, traps that wait, charges and counts (01 R27, R33; 02 R39, R49-R51, R57; 06 R151, R161, R165; 13 R363, R364;
15 R400, R409). -/

namespace Sys2Proof.Machine
open Sys2Proof

/-! ### Words that are no instruction (02 R39, R57) -/

/-- The trap of a word that is no instruction (02 R39, R57), and its length. -/
def badWord (d : Decoded) (w0 : W32) : Trap × Nat :=
  let n := 4 * max 1 (lengthWords w0)
  match d with
  | .zeroWord => ({ cause := causeZero, tval := 0 }, n)
  | .extEmu => ({ cause := causeEmu, tval := w0.zeroExtend 64 }, n)
  | _ => ({ cause := causeIllegal, tval := w0.zeroExtend 64 }, n)

/-! ### Charges (15 R400) -/

/-- The weight of a lane opcode; f64: its format is f64. -/
def weightOf (op : Nat) (f64 : Bool) : Nat :=
  if op ≤ 0x2F then
    if op = 0x02 ∨ op = 0x03 ∨ op = 0x04 ∨ op = 0x22 ∨ op = 0x2A ∨ op = 0x2D then 8 else if op = 0x05 ∨ op = 0x06 then 12 else 4
  else if op ≤ 0x4C then (if f64 then 24 else 8)
  else if op ≤ 0x4F then (if f64 then 32 else 12)
  else if op ≤ 0x55 then 12
  else if op ≤ 0x5C then 6
  else if op ≤ 0x5E then (if f64 then 28 else 10)
  else if op ≤ 0x88 then 2
  else if op ≤ 0xA9 then 6
  else if op ≤ 0xD0 then 1
  else if op ≤ 0xE5 then 6
  else 1

/-- The charge of a lane instruction, given its fragment's mask (DEDUCED, log 32). -/
def chargeOf (i : Instr) (m : Mask) : Nat :=
  match i.l32?, i.lop? with
  | some w, _ => weightOf (bits i.firstWord 8 2) (isF64 w.f) * if w.g then 1 else laneCount m
  | _, some o => weightOf (bits i.firstWord 9 2) (isF64 o.f) * laneCount m
  | _, _ => 0

/-- A lane instruction of a core has issued: its charge and its counts (15 R401, R409). -/
def State.chargeLane (s : State) (core vf charge : Nat) : State :=
  let s := s.onCluster (clusterOfCore core) fun c => { c with crec := c.crec + BitVec.ofNat 32 charge }
  (s.onCore core fun c => { c with laneIssued := (c.laneIssued + 1) % 2 ^ 64 }).countCore core 0x01 1 vf

/-! ### Lane fragments -/

/-- A fragment may take a turn (01 R27): its team runs, it is in its slot, and it waits neither for service of a fault nor
for a unit on its way to a rendezvous point; the other fragment is in no bracket (05 R143). -/
def laneReady (t : Team) (g : Group) (b : Bool) : Bool :=
  let f := g.slotOf b
  let o := g.slotOf !b
  t.live && !t.stopped && !g.ended && f.valid && !f.inRdv && (f.park.isEmpty || f.park.any (·.failed)) && !(o.valid && o.bracket)

/-- The other fragment of the group is in its handler (06 R151). -/
def otherTraps (g : Group) (b : Bool) : Bool := inh g.tstat && bit g.tstat 4 != b

/-- The oldest fault, once it is due: enough of its window's instructions have issued, or no more may (DESIGN CHOICE, log 14). -/
def dueFault (f : Fragment) : Option (Window × Late) :=
  (firstFault f.windows).filter fun x => decide (x.1.passed ≥ x.1.after ∨ x.1.left = 0)

/-- Control instructions and those that close every window before they issue (02 R50) (DEDUCED, log 32). -/
def closesWindows : Instr → Bool
  | .bra _ | .join _ | .joint _ | .call _ | .ret _ | .exit _ | .dqtake _ | .allon _ | .alloff _ | .vote _ | .shfl _ | .qswap _ | .qdiff _
  | .scan _ | .redc _ | .syswr _ | .fence _ | .rdvArr _ | .rdvWait _ | .rdvDrop _ | .eret _ | .trap _ | .brk _ => true
  | _ => false

/-- An answer or a fault stands between the fragment and an instruction that closes its windows. -/
def openWork (f : Fragment) : Bool := f.windows.any fun w => w.waiting != 0 || w.fault.isSome

/-- A ring action with REL: it performs after every earlier access of its fragment (10 R268) (DEDUCED, log 38). -/
def releases : Instr → Bool
  | .board o | .alight o | .wcap o | .wcapUntil o | .wrew o => cwRel o.imm
  | _ => false

/-- What keeps the instruction from issuing in the windows that stand: one that closes them waits for their answers and comes after
their faults; a release, after their faults, whose accesses have not performed. -/
def heldBack (f : Fragment) (i : Instr) : Bool :=
  (closesWindows i && openWork f) || (releases i && f.windows.any fun w => w.fault.isSome)

/-- The fragment in focus executes an instruction: windows that close first, its meaning, its charge. -/
def State.runLane (s : State) (i : Instr) : Out :=
  if heldBack s.frag i then
    match firstFault s.frag.windows with
    | some (w, l) => .next (s.reportLate w l)
    | none => .next s.wait
  else
    let s := if closesWindows i then s.closeAll else s
    let core := s.team.core
    let vf := s.team.vf
    let charge := chargeOf i s.frag.lanes
    match exec i s with
    | .next s => if s.cur.waited then .next s else .next (s.chargeLane core vf charge)
    | .fault f => .fault f
    | .refused r => .refused r

/-- Passing over a window instruction that completed before a trap (06 R165). One whose own fault is not reported yet has
its window again, and the fault is due (DESIGN CHOICE, log 14). -/
def State.passOver (s : State) (n : Nat) : State :=
  let f := s.frag
  let again := (f.kept.filter fun w => w.pc == f.pc).map fun w => { w with left := w.left + w.passed, passed := 0, after := 0 }
  { s with frag := { f with
      pc := f.pc + BitVec.ofNat 64 n, windows := tickWindows f.windows ++ again, skip := f.skip - 1,
      kept := if f.skip = 1 then [] else f.kept.filter fun w => w.pc != f.pc } }

/-- The state u after the access of window w has been made again, with the registers and the windows of the state s before:
the window takes the results, or the fragment is parked again. -/
def State.replayed (u s : State) (w : Window) : State :=
  let ws := s.frag.windows.map fun x =>
    match u.frag.windows with
    | [y] => if x.id = w.id then { y with left := w.left, passed := w.passed } else x
    | _ => x
  { u with
    team := { u.team with s := s.team.s },
    grp := { s.grp with opened := u.grp.opened, rays := u.grp.rays },
    frag := { s.frag with windows := ws, park := u.frag.park } }

/-- The access that the fragment in focus was parked on is made again (01 R33, 06 R161): its instruction executes with the
values it read at its issue, and its results go into its window; the window instructions that completed are not
repeated. A trap is the window's (DESIGN CHOICE, log 14). -/
noncomputable def State.replay (s : State) (w : Window) (r : Issued) : State :=
  match s.fetch s.team.vf s.team.ctx w.pc with
  | .error (.trap e, _) => s.failLate w e
  | .error (e, n) => ({ s with frag := { s.frag with windows := [], pc := w.pc } }.stopLane n [] e).replayed s w
  | .ok (u, w0, w1, w2) =>
    match decode .lane (u.feat0 u.team.core) w0 w1 w2 with
    | .instr i =>
      let u := { u with
        team := { u.team with s := r.s }, grp := { u.grp with v := r.v, g := r.g, tstat := 0 },
        frag := { u.frag with pc := w.pc, mask := r.mask, windows := [], skip := 0, hold := true } }
      match exec i u with
      | .next u => if inh u.grp.tstat then s.failLate w { cause := u.grp.tcause.toNat, tval := u.grp.tval } else u.replayed s w
      | _ => s
    | d => s.failLate w (badWord d w0).1

/-- The turn of the fragment in focus with no access to answer and no fault due: windows that close, then the instruction
at its program counter, executed or passed over. -/
noncomputable def State.issueLane (s : State) : Out :=
  let t := s.team
  let s := s.closeDue
  if s.frag.windows.any fun w => w.left == 0 then .next s.wait
  else
    match s.fetch t.vf t.ctx s.frag.pc with
    | .error (e, n) => .next (s.stopLane n [] e)
    | .ok (s, w0, w1, w2) =>
      if s.frag.passing then .next (s.passOver (4 * max 1 (lengthWords w0)))
      else
        match decode .lane (s.feat0 t.core) w0 w1 w2 with
        | .instr i => s.runLane i
        | d => let (e, n) := badWord d w0; .next (s.raise e n)

/-- The turn of the fragment in focus, once it may take one (DEDUCED, log 32): a failed access traps, one that was served is
made again (01 R33, 06 R161), a fault that is due is reported, or the fragment issues. -/
noncomputable def State.turnLane (s : State) : Out :=
  match failedOf s.frag.park, s.frag.parkedWindow with
  | some e, some (w, _) =>
    let s := s.failLate w e
    .next (match firstFault s.frag.windows with | some (w, l) => s.reportLate w l | none => s)
  | some e, none =>
    if answersOpen s.frag.windows then .next s.wait
    else .next (({ s with frag := { s.frag with park := [] } }).raise e (s.peekLen s.team.vf s.team.ctx s.frag.pc))
  | none, some (w, r) => .next (s.replay w r)
  | none, none =>
    match dueFault s.frag with
    | some (w, l) => .next (s.reportLate w l)
    | none => s.issueLane

/-- After a turn the focus ends; a lane turn settles its group (05 R130, R132), the requests that the turn gave rise to are
presented to the governors (17 R418), and changes of routines that nothing holds back are made (14 R385). -/
def State.endTurn (s : State) : State :=
  let c := s.cur
  let s := s.unfocus
  (match c.stream with
   | .lane => s.onTeam c.uid fun t => settleGroup t c.gid
   | _ => s).present.settleRoutines

/-- What an instruction answers, after its turn. -/
def endOut : Out → Out
  | .next s => .next s.endTurn
  | .fault f => .fault f
  | .refused r => .refused r

/-- A turn of a fragment (DEDUCED, log 32). -/
noncomputable def State.laneTurn (s : State) (uid gid : Nat) (b : Bool) : Out :=
  match s.teams.lookup uid with
  | none => .next s
  | some t =>
    match t.groups.lookup gid with
    | none => .next s
    | some g =>
      if !laneReady t g b then .next s
      else
        let s := s.focus { stream := .lane, uid := uid, gid := gid, slotB := b }
        if otherTraps g b then .next s.holdTrap.unfocus else endOut s.turnLane

/-! ### The scalar stream -/

/-- A scalar stream may take a turn. -/
def scalarReady (t : Team) : Bool :=
  t.live && !t.stopped && t.srun && !t.sinRdv && (t.spark.isEmpty || t.spark.any (·.failed))

/-- The words that the scalar stream in focus executes: those of the instruction that has begun, or what it fetches (02 R51). -/
def State.scalarWords (s : State) : Except (Stop × Nat) (State × W32 × W32 × W32) :=
  match (if s.team.sphase = 0 then none else s.team.begun) with
  | some ws => .ok (s, ws)
  | none => s.fetch s.team.vf s.team.ctx s.team.spc

/-- The words of a scalar instruction that has begun and waits to complete are kept. -/
def State.keepWords (s : State) (ws : W32 × W32 × W32) : State :=
  if s.team.sphase = 0 then s else { s with team := { s.team with begun := some ws } }

/-- The turn of the scalar stream in focus: a failed access, or a failed engine operation, traps at its next issue
(06 R161, R163); one that has begun completes first (02 R51). -/
noncomputable def State.turnScalar (s : State) : Out :=
  let t := s.team
  match failedOf t.spark, (if t.sphase = 0 then t.engineFault else []) with
  | some e, _ => .next (({ s with team := { t with spark := [] } }).raiseScalar e (s.peekLen t.vf t.ctx t.spc))
  | none, (e, pc) :: rest =>
    let s := { s with team := { t with engineFault := rest } }
    .next (match pc with | some pc => s.enterScalarTrap e pc 12 | none => s.enterScalarTrap e t.spc 0)
  | none, [] =>
    match s.scalarWords with
    | .error (e, n) => .next (s.stopScalar n e)
    | .ok (s, w0, w1, w2) =>
      match decode .scalar (s.feat0 t.core) w0 w1 w2 with
      | .instr i =>
        match exec i s with
        | .next s =>
          if s.cur.waited then .next (s.keepWords (w0, w1, w2))
          else .next (s.onCore t.core fun c => { c with scalarIssued := (c.scalarIssued + 1) % 2 ^ 64 })
        | .fault f => .fault f
        | .refused r => .refused r
      | d => let (e, n) := badWord d w0; .next (s.raiseScalar e n)

/-- A turn of a team's scalar stream (DEDUCED, log 32). -/
noncomputable def State.scalarTurn (s : State) (uid : Nat) : Out :=
  match s.teams.lookup uid with
  | none => .next s
  | some t => if scalarReady t then endOut (s.focus { stream := .scalar, uid := uid }).turnScalar else .next s

/-! ### The line sequencer (13 R362-R364) -/

/-- Word k of the active program bank. -/
def Head.bankWord (h : Head) (k : Nat) : W32 := BitVec.ofNat 32 (readBytes h.prog (4 * k) 4)

/-- The sequencer in focus has executed an instruction: a program fault ends its program. -/
def State.settleHead (s : State) : State :=
  match s.head.fault with
  | some c => { s with head := s.head.programFault c }
  | none => s

/-- The turn of the line sequencer in focus: words beyond the bank are a program fault. An instruction that does not complete by the
deadline writes nothing: it is held until the deadline cancels it (13 R371). -/
noncomputable def State.turnSequencer (s : State) : Out :=
  let h := s.head
  let w0 := h.bankWord h.pc
  if h.pc + lengthWords w0 > 4096 then .next (s.lineFault causeMisalign).settleHead
  else
    match decode .sequencer allFeatures w0 (h.bankWord (h.pc + 1)) (h.bankWord (h.pc + 2)) with
    | .instr i =>
      let c := lineCost i s
      if !h.onTime (h.next - 1) (h.now + c) then .next { s with head := { h with held := true } }
      else
        match exec i s with
        | .next s => if s.cur.waited then .next s.lineHold else .next (s.lineTick (h.waited || isLfetch i) c).settleHead
        | .fault f => .fault f
        | .refused r => .refused r
    | d => .next (s.lineFault (badWord d w0).1.cause).settleHead

/-- A turn of a head's line sequencer. -/
noncomputable def State.sequencerTurn (s : State) (hid : Nat) : Out :=
  match s.heads.lookup hid with
  | none => .next s
  | some h => if h.en && h.running then endOut (s.focus { stream := .sequencer, hid := hid }).turnSequencer else .next s

/-! ### Turns -/

/-- Without package power only bring-up can happen (00 R14, R16). -/
def runsUnpowered : Turn → Bool
  | .event (.powerUpBringUp _) => true
  | _ => false

/-- In recovery mode only the firmware-update mailbox works, and before bring-up has ended no later step has begun (00 R16): of what a
turn may do, bring-up itself and the loss of package power are left (DEDUCED, log 42). -/
def runsInRecovery : Turn → Bool
  | .event (.powerUpBringUp _) | .event .powerRemoval | .event (.junctionShutdown _) => true
  | _ => false

/-- A turn. One that the machine's state does not allow passes without effect (DESIGN CHOICE, log 1) (DESIGN CHOICE, log 5). -/
noncomputable def State.take (s : State) (t : Turn) : Out :=
  if (!s.power && !runsUnpowered t) || ((s.recovery.isSome || !s.bringUpDone) && !runsInRecovery t) then .next s
  else
    match t with
    | .lane uid gid b => s.laneTurn uid gid b
    | .scalar uid => s.scalarTurn uid
    | .sequencer hid => s.sequencerTurn hid
    | .event e => if e.isEvent then endOut (exec e s) else .next s
    | .outside o => .next (s.outside o)

/-! ### Placing one instruction (DESIGN CHOICE, log 5) -/

/-- The page on which decodeTableWord finds the instruction (DESIGN CHOICE, log 4). -/
noncomputable def pageOfWord (w : Nat) : Page :=
  let w0 := BitVec.ofNat 32 w
  let w1 := BitVec.ofNat 32 (w >>> 32)
  let w2 := BitVec.ofNat 32 (w >>> 64)
  match decode .lane allFeatures w0 w1 w2, decode .scalar allFeatures w0 w1 w2, decode .sequencer allFeatures w0 w1 w2 with
  | .instr _, _, _ => .lane
  | _, .instr _, _ => .scalar
  | _, _, .instr _ => .sequencer
  | _, _, _ => .lane

/-- Device memory with the tables that map virtual page 1 to device page 3, where the words stand: the stage-1 table is
device page 1, the stage-2 table page 2 (DESIGN CHOICE, log 5). -/
def codeMemory (m : Store Byte) (w : Nat) : Store Byte :=
  let m := writeBytes (writeBytes m 0x1000 8 0x1001) 0x1008 8 0x300F
  let m := writeBytes (writeBytes (writeBytes m 0x2000 8 0x2001) 0x2008 8 0x100F) 0x2018 8 0x300F
  writeBytes m 0x3000 12 w

/-- The team whose streams begin at virtual address 0x1000 (DESIGN CHOICE, log 5). -/
def codeTeam : Team :=
  let h : Header := { vregs32 := 32, rdv := 24, spad := 1024, laneEntry := 0x1000, scalarEntry := 0x1000 }
  { live := true, vf := 1, ctx := 0, launch := 1, core := 0, hdr := h, spc := 0x1000, groups := [(0, newGroup h 0 0)] }

/-- A state in which an instruction is the next to issue (DESIGN CHOICE, log 5). -/
noncomputable def State.placeWord (s : State) (w : Nat) : State :=
  match pageOfWord w with
  | .sequencer =>
    let h : Head := { en := true, running := true, next := 1, tim1 := 0x001800100040, tim2 := 0x000FA000, prog0 := writeBytes [] 0 12 w }
    { s with bringUpDone := true, heads := s.heads.set 0 h, agenda := [.sequencer 0] }
  | p =>
    let ctx : Context := { state := 2, root := 0x1000 }
    let vf : Vf := { enabled := true, s2root := 0x2000, part := 1, ctxs := [(0, ctx)] }
    { s with
      bringUpDone := true, mem := codeMemory s.mem w, vfs := s.vfs.set 1 vf, teams := s.teams.set 1 codeTeam, nextTeam := 2,
      coreMap := s.coreMap.set 0 { present := true, feat0 := 0x7E }, stackMap := (List.range 8).map fun k => (k, true),
      agenda := [if p = .lane then .lane 1 0 false else .scalar 1] }

end Sys2Proof.Machine
end

