-- ==== Sys2Proof/Machine/Step.lean ====
section
/-! DEFINITION. One step of the package: the agenda's next turn (DESIGN CHOICE, log 1). -/

namespace Sys2Proof.Machine
open Sys2Proof

/-- The oldest turn of the agenda is taken; with none left the machine idles (DESIGN CHOICE, log 1). -/
noncomputable def step (s : State) : Host.Outcome State Fault Refusal :=
  match s.agenda with
  | [] => .next s
  | t :: ts => State.take { s with agenda := ts } t

/-- A state whose next step issues the instruction of a table row's word (DESIGN CHOICE, log 5) (DESIGN CHOICE, log 4). -/
noncomputable def State.withFetchWord (s : State) (_nbits w : Nat) : State := s.placeWord w

end Sys2Proof.Machine
end

