-- ==== Sys2Proof/Safety.lean ====
section
/-! DEFINITION. What the statements mean by a safe state and a safe step, and the words they say frames and results
with. -/

namespace Sys2Proof.Machine
open Sys2Proof

/-- Between steps no stream is in focus: every register of every stream stands in its one place, in the team, group,
fragment or head that owns it. -/
def State.Settled (s : State) : Prop := s.cur = {} ∧ s.team = {} ∧ s.grp = {} ∧ s.frag = {} ∧ s.head = {}

/-- Device memory and host memory are in their canonical form. -/
def State.MemoryOk (s : State) : Prop := Memory.wf s.mem = true ∧ Memory.wf s.hostMem = true

/-- A step is safe when the machine goes on. -/
def SafeStep (s : State) : Prop := ∃ t, step s = .next t

/-! ### Values of floating codes -/

/-- A finite code. -/
def Fmt.finite (f : Fmt) (x : Nat) : Bool := match f.read x with | .fin .. => true | _ => false
/-- The value of a finite code (04 R90, R91). -/
def Fmt.value (f : Fmt) (x : Nat) : ℚ :=
  match f.read x with
  | .fin s m e => (if s then -1 else 1) * m * (2 : ℚ) ^ e
  | _ => 0
/-- The sign of a code. -/
def Fmt.negative (f : Fmt) (x : Nat) : Bool := x.testBit (f.ebits + f.mbits)
/-- An infinite code. -/
def Fmt.infinite (f : Fmt) (x : Nat) : Bool := match f.read x with | .inf _ => true | _ => false
/-- The value of a code that is no NaN, among the numbers and the two infinities. -/
def Fmt.level (f : Fmt) (x : Nat) : WithBot (WithTop ℚ) :=
  if f.infinite x then (if f.negative x then ⊥ else ((⊤ : WithTop ℚ) : WithBot (WithTop ℚ))) else ((f.value x : WithTop ℚ) : WithBot (WithTop ℚ))

/-- The code and the flags that an exact result gives: rounded once (04 R98, R99); a zero takes the sign given (04 R101). -/
def Fmt.rounded (f : Fmt) (rm : Rounding) (ftz zeroNeg : Bool) (q : ℚ) : Nat × W32 :=
  if q = 0 then (f.sign zeroNeg, 0) else f.round rm ftz (decide (q < 0)) q.num.natAbs q.den

/-- The exact sum of terms, each with its sign, rounded once. A sum of zeros of one sign keeps the sign; any other zero sum is
positive, and negative towards minus infinity (04 R101). -/
def Fmt.sumOf (f : Fmt) (rm : Rounding) (ftz : Bool) (ts : List (ℚ × Bool)) : Nat × W32 :=
  let zeroNeg := if ts.all (fun t => t.1 == 0) && (ts.all (·.2) || ts.all (!·.2)) then ts.all (·.2) else rm == 2
  f.rounded rm ftz zeroNeg (ts.map (·.1)).sum

/-- The floating types of 04 R103. -/
def floatTypes : List Fmt := [fmtF32, fmtF64, fmtF16, fmtBf16]

/-- 04 R99, R101, R105: fadd, fsub and fma of finite operands, read under FTZ, are the exact sum rounded once; an infinite
term gives its infinity, and two of opposite signs the canonical NaN. -/
def FiniteSums : Prop :=
  ∀ f ∈ floatTypes, ∀ (rm : Rounding) (ftz : Bool) (x y z : Nat), x < 2 ^ f.width → y < 2 ^ f.width → z < 2 ^ f.width →
    let a := f.operand ftz x
    let b := f.operand ftz y
    let c := f.operand ftz z
    let p := f.negative a != f.negative b
    let isZero (x : Nat) : Prop := f.finite x = true ∧ f.value x = 0
    let isNumber (x : Nat) : Prop := f.finite x = true ∨ f.infinite x = true
    a = (if ftz = true ∧ f = fmtF32 ∧ 0 < x % 2 ^ 31 ∧ x % 2 ^ 31 < 2 ^ 23 then x / 2 ^ 31 * 2 ^ 31 else x)
    ∧ (f.finite a = true → f.finite b = true →
        fAdd f rm ftz false x y = f.sumOf rm ftz [(f.value a, f.negative a), (f.value b, f.negative b)]
        ∧ fAdd f rm ftz true x y = f.sumOf rm ftz [(f.value a, f.negative a), (-f.value b, !f.negative b)]
        ∧ (f.finite c = true →
            fMa f rm ftz x y z = f.sumOf rm ftz [(f.value a * f.value b, p), (f.value c, f.negative c)])
        ∧ (f.infinite c = true → fMa f rm ftz x y z = (f.infBits (f.negative c), 0)))
    ∧ (f.infinite a = true → isNumber b →
        (f.finite b = true ∨ f.negative b = f.negative a → fAdd f rm ftz false x y = (f.infBits (f.negative a), 0))
        ∧ (f.finite b = true ∨ f.negative b ≠ f.negative a → fAdd f rm ftz true x y = (f.infBits (f.negative a), 0)))
    ∧ (f.finite a = true → f.infinite b = true →
        fAdd f rm ftz false x y = (f.infBits (f.negative b), 0) ∧ fAdd f rm ftz true x y = (f.infBits (!f.negative b), 0))
    ∧ (isNumber a → isNumber b → f.infinite a = true ∨ f.infinite b = true → ¬isZero a → ¬isZero b →
        (f.finite c = true ∨ (f.infinite c = true ∧ f.negative c = p) → fMa f rm ftz x y z = (f.infBits p, 0))
        ∧ (f.infinite c = true → f.negative c ≠ p → fMa f rm ftz x y z = (f.nanBits, 0x10)))

/-- 04 R101, R105, R110: fmul and fscale of finite operands are the exact product rounded once, a zero with the XOR of the signs; an
infinite factor gives an infinity. fexpo gives the exponent of the value. -/
def FiniteProducts : Prop :=
  ∀ f ∈ floatTypes, ∀ (rm : Rounding) (ftz : Bool) (x y : Nat), x < 2 ^ f.width → y < 2 ^ f.width →
    let a := f.operand ftz x
    let b := f.operand ftz y
    let p := f.negative a != f.negative b
    let isZero (x : Nat) : Prop := f.finite x = true ∧ f.value x = 0
    let isNumber (x : Nat) : Prop := f.finite x = true ∨ f.infinite x = true
    (f.finite a = true → f.finite b = true → fMul f rm ftz x y = f.rounded rm ftz p (f.value a * f.value b))
    ∧ (isNumber a → isNumber b → f.infinite a = true ∨ f.infinite b = true → ¬isZero a → ¬isZero b →
        fMul f rm ftz x y = (f.infBits p, 0))
    ∧ (∀ k : Int,
        (f.finite a = true → fScale f rm ftz x k = f.rounded rm ftz (f.negative a) (f.value a * (2 : ℚ) ^ k))
        ∧ (f.infinite a = true → fScale f rm ftz x k = (a, 0))
        ∧ (¬isNumber a → fScale f rm ftz x k = (f.quiet a, if f.isSnan a then 0x10 else 0)))
    ∧ (f.infinite a = true → fExpo f ftz x = (0x7FFFFFFF, 0x10))
    ∧ (f.infinite a = false → f.finite a = false ∨ isZero a → fExpo f ftz x = (0x80000000, 0x10))
    ∧ (f.finite a = true → ∀ e : Int, (2 : ℚ) ^ e ≤ |f.value a| → |f.value a| < (2 : ℚ) ^ (e + 1) →
        fExpo f ftz x = (BitVec.ofInt 32 e, 0))

/-- 04 R99-R101, R113, R115: a conversion between formats rounds the value once and flushes no operand; a NaN keeps its sign and the highest
bits of its fraction, made quiet. An integer is rounded once. -/
def ConvertedValues : Prop :=
  ∀ dst ∈ floatTypes, ∀ (rm : Rounding) (ftz : Bool),
    (∀ v : Int, intToF dst rm ftz v = dst.rounded rm ftz false v)
    ∧ ∀ src ∈ floatTypes, ∀ x : Nat, x < 2 ^ src.width →
        let frac := x % 2 ^ src.mbits
        let kept := if src.mbits ≤ dst.mbits then frac * 2 ^ (dst.mbits - src.mbits) else frac / 2 ^ (src.mbits - dst.mbits)
        (src.finite x = true → fConvert src dst rm ftz x = dst.rounded rm ftz (src.negative x) (src.value x))
        ∧ (src.infinite x = true → fConvert src dst rm ftz x = (dst.infBits (src.negative x), 0))
        ∧ (src.finite x = false → src.infinite x = false →
            fConvert src dst rm ftz x =
              ((dst.infBits (src.negative x) + kept) ||| 2 ^ (dst.mbits - 1), if src.isSnan x then 0x10 else 0))

/-- 04 R100, R105: fdot2 is the exact sum of C and two products of halves, rounded once to f32; a NaN among the halves of A and B, in
order, then in C, gives the result; infinite terms give their infinity, or the canonical NaN. -/
def DotValues : Prop :=
  ∀ h ∈ [fmtF16, fmtBf16], ∀ (rm : Rounding) (ftz : Bool) (x y z : Nat), x < 2 ^ 32 → y < 2 ^ 32 → z < 2 ^ 32 →
    let f := fmtF32
    let c := f.operand ftz z
    let halves := [x % 2 ^ 16, x / 2 ^ 16, y % 2 ^ 16, y / 2 ^ 16]
    let nan (x : Nat) : Bool := (h.read x).isNan
    let nv : W32 := if halves.any h.isSnan || f.isSnan c then 0x10 else 0
    let a0 := x % 2 ^ 16
    let a1 := x / 2 ^ 16
    let b0 := y % 2 ^ 16
    let b1 := y / 2 ^ 16
    let p0 := h.negative a0 != h.negative b0
    let p1 := h.negative a1 != h.negative b1
    let isZero (x : Nat) : Prop := h.finite x = true ∧ h.value x = 0
    let bad (a b : Nat) : Prop := (h.infinite a = true ∧ isZero b) ∨ (isZero a ∧ h.infinite b = true)
    let big (a b : Nat) : Bool := h.infinite a || h.infinite b
    -- the signs of the infinite terms
    let infs := (if f.infinite c then [f.negative c] else []) ++ (if big a0 b0 then [p0] else []) ++ if big a1 b1 then [p1] else []
    (∀ n, halves.find? nan = some n → fDot2 h rm ftz x y z = ((fConvert h f 0 false n).1, nv))
    ∧ (halves.all (fun n => !nan n) = true →
        ((f.read c).isNan = true → fDot2 h rm ftz x y z = (f.quiet c, nv))
        ∧ ((f.read c).isNan = false →
          (bad a0 b0 ∨ bad a1 b1 → fDot2 h rm ftz x y z = (f.nanBits, 0x10))
          ∧ (¬bad a0 b0 → ¬bad a1 b1 →
            (true ∈ infs → false ∈ infs → fDot2 h rm ftz x y z = (f.nanBits, 0x10))
            ∧ (∀ s, s ∈ infs → (!s) ∉ infs → fDot2 h rm ftz x y z = (f.infBits s, 0))
            ∧ (infs = [] → fDot2 h rm ftz x y z = f.sumOf rm ftz
                [(f.value c, f.negative c), (h.value a0 * h.value b0, p0), (h.value a1 * h.value b1, p1)]))))

/-- 04 R107, R109: fsgn changes the sign bit alone; fclass sets one bit of ten by the code. -/
def SignsAndClasses : Prop :=
  ∀ f ∈ floatTypes, ∀ x y : Nat, x < 2 ^ f.width → y < 2 ^ f.width →
    let h := 2 ^ (f.ebits + f.mbits)
    let m := x % h
    let inf := (2 ^ f.ebits - 1) * 2 ^ f.mbits
    let neg := f.negative x
    let signed (b : Bool) : Nat := if b then h + m else m
    fSgn f 0 x y = m ∧ fSgn f 1 x y = signed (!neg) ∧ fSgn f 2 x y = signed (f.negative y)
    ∧ fSgn f 3 x y = signed (neg != f.negative y)
    ∧ fClass f x = 2 ^ (
        if inf < m then (if m.testBit (f.mbits - 1) then 1 else 0)
        else if m = inf then (if neg then 2 else 9)
        else if 2 ^ f.mbits ≤ m then (if neg then 3 else 8)
        else if m = 0 then (if neg then 5 else 6) else (if neg then 4 else 7))

/-- 04 R101, R111: fdiv and frcp are the exact quotient rounded once, fsqrt the exact root: where the root is no fraction, the result
is what every fraction close enough to it rounds to. -/
def QuotientsAndRoots : Prop :=
  ∀ f ∈ floatTypes, ∀ (rm : Rounding) (ftz : Bool) (x y : Nat), x < 2 ^ f.width → y < 2 ^ f.width →
    let a := f.operand ftz x
    let b := f.operand ftz y
    let p := f.negative a != f.negative b
    let va := f.value a
    let vb := f.value b
    (f.finite a = true → f.finite b = true → vb ≠ 0 → fDiv f rm ftz x y = f.rounded rm ftz p (va / vb))
    ∧ (f.finite a = true → va ≠ 0 → f.finite b = true → vb = 0 → fDiv f rm ftz x y = (f.infBits p, 0x20))
    ∧ (f.infinite a = true → f.finite b = true → fDiv f rm ftz x y = (f.infBits p, 0))
    ∧ (f.finite a = true → f.infinite b = true → fDiv f rm ftz x y = (f.sign p, 0))
    ∧ (f.finite a = true → va ≠ 0 → fRcp f rm ftz x = f.rounded rm ftz (f.negative a) (1 / va))
    ∧ (f.finite a = true → va = 0 → fRcp f rm ftz x = (f.infBits (f.negative a), 0x20) ∧ fSqrt f rm ftz x = (a, 0))
    ∧ (f.infinite a = true → fRcp f rm ftz x = (f.sign (f.negative a), 0))
    ∧ (f.infinite a = true → f.negative a = false → fSqrt f rm ftz x = (a, 0))
    ∧ (f.infinite a = true → f.negative a = true → fSqrt f rm ftz x = (f.nanBits, 0x10))
    ∧ (f.finite a = true → 0 < va →
        (∀ q : ℚ, 0 < q → q * q = va → fSqrt f rm ftz x = f.rounded rm ftz false q)
        ∧ ((∀ q : ℚ, q * q ≠ va) → ∃ d : ℚ, 0 < d ∧ ∀ q : ℚ, 0 < q → |q * q - va| < d →
            fSqrt f rm ftz x = f.rounded rm ftz false q))

/-- 04 R123, R124: the steps of wfup and of wfmerge, each rounded once: m is mean + d1 / n, with the quotient rounded too; in a merge the
mean is mean + delta * nb / n and M2 the sum of both M2 and q * na * nb / n, each with one rounding. -/
def WelfordSteps : Prop :=
  ∀ f ∈ floatTypes, ∀ (rm : Rounding) (ftz : Bool),
    (∀ (w : Welford) (x : Nat), w.count < 2 ^ 32 - 1 →
      let n := w.count + 1
      let d1 := fAdd f rm ftz true x w.mean
      f.finite d1.1 = true →
      let q := f.rounded rm ftz (f.negative d1.1) (f.value d1.1 / n)
      let m := fAdd f rm ftz false w.mean q.1
      let d2 := fAdd f rm ftz true x m.1
      let m2 := fMa f rm ftz d1.1 d2.1 w.m2
      wfUp f rm ftz w x = ({ count := n, mean := m.1, m2 := m2.1 }, d1.2 ||| q.2 ||| m.2 ||| d2.2 ||| m2.2))
    ∧ (∀ (w : Welford) (x : Nat), w.count = 2 ^ 32 - 1 → wfUp f rm ftz w x = (w, 0x10))
    ∧ ∀ p q : Welford,
        let n := p.count + q.count
        let v (x : Nat) : ℚ := f.value (f.operand ftz x)
        let sg (x : Nat) : Bool := f.negative x
        (q.count = 0 → wfMerge f rm ftz p q = (p, 0))
        ∧ (q.count ≠ 0 → p.count = 0 → wfMerge f rm ftz p q = (q, 0))
        ∧ (q.count ≠ 0 → p.count ≠ 0 → 2 ^ 32 ≤ n → wfMerge f rm ftz p q = (p, 0x10))
        ∧ (q.count ≠ 0 → p.count ≠ 0 → n < 2 ^ 32 →
            let delta := fAdd f rm ftz true q.mean p.mean
            let sq := fMul f rm ftz delta.1 delta.1
            (∀ x ∈ [p.mean, p.m2, q.m2, delta.1, sq.1], f.finite x = true) →
            let m := f.sumOf rm ftz [(v p.mean, sg p.mean), (v delta.1 * q.count / n, sg delta.1)]
            let m2 := f.sumOf rm ftz [(v p.m2, sg p.m2), (v q.m2, sg q.m2), (v sq.1 * (p.count * q.count : Nat) / n, sg sq.1)]
            wfMerge f rm ftz p q = ({ count := n, mean := m.1, m2 := m2.1 }, delta.2 ||| m.2 ||| sq.2 ||| m2.2))

/-! ### Frames -/

/-- Every byte of device memory and of host memory reads as before. -/
def SameMemory (s t : State) : Prop :=
  ∀ a, readByte t.mem a = readByte s.mem a ∧ readByte t.hostMem a = readByte s.hostMem a

/-- Every byte of the team's scratchpad window reads as before. -/
def SameWindow (s t : State) : Prop := ∀ a, readByte t.team.win a = readByte s.team.win a

/-- The fragment in focus has issued an instruction and goes on at pc: its open windows count the instruction, and
nothing else of it changes (02 R49). -/
def Went (s t : State) (pc : W64) : Prop :=
  t.frag = { s.frag with
    pc := pc, hold := false,
    windows := s.frag.windows.map fun w => { w with left := w.left - 1, passed := w.passed + 1 } }

/-- In the lanes of m, register d holds f, and with wide the register after it holds the high half; every other lane and
every other register reads as before (00 R5, 02 R52). -/
def LanesWritten (s t : State) (m : Mask) (d : Nat) (wide : Bool) (f : Nat → Nat) : Prop :=
  ∀ r l, l < 96 → t.lane r l =
    if m.getLsbD l ∧ r = d then BitVec.ofNat 32 (f l)
    else if m.getLsbD l ∧ wide = true ∧ r = d + 1 then BitVec.ofNat 32 (f l / 2 ^ 32)
    else s.lane r l

/-- A register instruction of a lane fragment has completed: the v registers are written as LanesWritten says, the flags
are ORed into FPCTL, the fragment goes on behind the instruction. Everything else of the machine is as before: every g and
special register, every trap register, every other fragment, group and team, every counter, and every byte of memory. -/
def LaneDone (s t : State) (size : Nat) (m : Mask) (d : Nat) (wide : Bool) (f : Nat → Nat) (flags : W32) : Prop :=
  t = { s with grp := { s.grp with v := t.grp.v, fpctl := s.grp.fpctl ||| flags }, frag := t.frag }
  ∧ Went s t (s.frag.pc + BitVec.ofNat 64 size) ∧ LanesWritten s t m d wide f ∧ SameMemory s t

/-- An integer instruction of group code completes from every state in which it passes its decode checks: the enabled
lanes take f, and no flag changes (03 R74, R75). -/
def LaneGives (i : Instr) (o : LOp) (wide : Bool) (f : State → Nat → Nat) : Prop :=
  ∀ s, s.laneCheck i o = none →
    ∃ t, exec i s = .next t ∧ LaneDone s t i.size (s.enabled o) o.d.toNat wide (f s) 0

/-- The same for an instruction with a short form, whose L32 word names v registers where G = 0 (02 R42). -/
def BothGive (long : LOp → Instr) (short : L32 → Instr) (wide : BitVec 4 → Bool) (f : LOp → State → Nat → Nat) : Prop :=
  (∀ o, LaneGives (long o) o (wide o.f) (f o)) ∧
  (∀ w : L32, w.g = false → LaneGives (short w) w.toLOp (wide w.f) (f w.toLOp))

/-- A G = 1 form completes once for the fragment, which is in its slot (02 R42, 03 R75): the g registers from D on hold
the value, and every other g register, every v register, the flags and all else are as before. D names no mask word. -/
def GroupGives (short : L32 → Instr) (wide : BitVec 4 → Bool) (f : L32 → State → Nat) : Prop :=
  ∀ (w : L32) (s : State), w.g = true → 3 ≤ w.d.toNat → s.frag.valid = true →
    ∃ t, exec (short w) s = .next t
      ∧ t = { s with grp := { s.grp with g := t.grp.g }, frag := t.frag }
      ∧ Went s t (s.frag.pc + 4) ∧ SameMemory s t
      ∧ ∀ r, t.rg r = if r = w.d.toNat then BitVec.ofNat 32 (f w s)
          else if wide w.f = true ∧ r = w.d.toNat + 1 then BitVec.ofNat 32 (f w s / 2 ^ 32) else s.rg r

/-- A G = 1 form with a mask word as its destination (05 R135, R143). -/
def MaskWrites (short : L32 → Instr) (wide : BitVec 4 → Bool) (f : L32 → State → Nat) : Prop :=
  ∀ (w : L32) (s : State), w.g = true → w.d.toNat < 3 → s.frag.valid = true →
    let d := w.d.toNat
    let lo : W32 := BitVec.ofNat 32 (f w s)
    let hi : W32 := BitVec.ofNat 32 (f w s / 2 ^ 32)
    let old := s.frag.mask
    let both := wide w.f = true ∧ d < 2
    (s.frag.bracket = true → exec (short w) s = .next (s.raise { cause := 0x0A, tval := 3 } 4))
    ∧ (s.frag.bracket = false → ∀ put : Mask,
        (∀ l, l < 96 → put.getLsbD l =
          if l / 32 = d then lo.getLsbD (l % 32) else if both ∧ l / 32 = d + 1 then hi.getLsbD (l % 32) else old.getLsbD l) →
        let new := put &&& (old ||| s.grp.dormant)
        ∃ u : State,
          u = { s with
            grp := { s.grp with dormant := (s.grp.dormant ||| old) &&& ~~~new, g := u.grp.g },
            frag := { s.frag with
              mask := new, valid := decide (new ≠ 0), pc := s.frag.pc + 4, hold := false,
              windows := s.frag.windows.map fun w => { w with left := w.left - 1, passed := w.passed + 1 } } }
          ∧ (∀ r, 3 ≤ r → u.rg r = if wide w.f = true ∧ d = 2 ∧ r = 3 then hi else s.rg r)
          ∧ (new ≠ 0 ∨ s.frag.windows = [] → exec (short w) s = .next u)
          ∧ (new = 0 → s.frag.windows ≠ [] →
              exec (short w) s = .next (match firstFault s.frag.windows with
                | some (x, l) => s.reportLate x l
                | none => if answersOpen s.frag.windows then s.wait else u.closeAll)))

/-- The short forms that G = 1 admits (03 R77), with their width and the value they give. -/
def EachGroupForm (p : (L32 → Instr) → (BitVec 4 → Bool) → (L32 → State → Nat) → Prop) : Prop :=
  let w64 (f : BitVec 4) : Bool := bit f 2
  let n (w : L32) : Nat := if bit w.f 2 then 64 else 32
  let a (w : L32) (s : State) : Nat := s.gVal (bit w.f 2) w.a.toNat
  let b (w : L32) (s : State) : Nat := s.gVal (bit w.f 2) w.b.toNat
  let amt (w : L32) (s : State) : Nat := s.gVal false w.b.toNat
  p .addL32 w64 (fun w s => iAdd (bit w.f 3) (bit w.f 0) (n w) (a w s) (b w s))
  ∧ p .subL32 w64 (fun w s => iSub (bit w.f 3) (bit w.f 0) (n w) (a w s) (b w s))
  ∧ p .mulL32 w64 (fun w s => iMul (bit w.f 3) (bit w.f 0) (n w) (a w s) (b w s))
  ∧ p .minL32 w64 (fun w s => iMin (bit w.f 0) (n w) (a w s) (b w s))
  ∧ p .maxL32 w64 (fun w s => iMax (bit w.f 0) (n w) (a w s) (b w s))
  ∧ p .andL32 w64 (fun w s => a w s &&& b w s)
  ∧ p .orL32 w64 (fun w s => a w s ||| b w s)
  ∧ p .xorL32 w64 (fun w s => a w s ^^^ b w s)
  ∧ p .andnL32 w64 (fun w s => iAndn (n w) (a w s) (b w s))
  ∧ p .notL32 w64 (fun w s => iNot (n w) (a w s))
  ∧ p .shlL32 w64 (fun w s => iShl (n w) (a w s) (amt w s))
  ∧ p .shrL32 w64 (fun w s => iShr (n w) (a w s) (amt w s))
  ∧ p .sraL32 w64 (fun w s => iSra (n w) (a w s) (amt w s))
  ∧ p .rotlL32 w64 (fun w s => iRotl (n w) (a w s) (amt w s))
  ∧ p .popcL32 (fun _ => false) (fun w s => iPopc (n w) (a w s))
  ∧ p .clzL32 (fun _ => false) (fun w s => iClz (n w) (a w s))
  ∧ p .ctzL32 (fun _ => false) (fun w s => iCtz (n w) (a w s))
  ∧ p .movL32 w64 (fun w s => s.gVal (bit w.f 2) w.b.toNat)

/-- One bit per enabled lane goes into predicate triple D, with flags (03 R81, 04 R108): bits of the other lanes, every other
g register, the v registers and all else are as before. The triple is one of g3 to g62. -/
def TripleGives (i : Instr) (o : LOp) (f : State → Nat → Bool) (flags : State → W32) (ok : State → Prop) : Prop :=
  ∀ s, s.laneCheck i o = none → 1 ≤ o.d.toNat → ok s →
    ∃ t, exec i s = .next t
      ∧ t = { s with grp := { s.grp with g := t.grp.g, fpctl := s.grp.fpctl ||| flags s }, frag := t.frag }
      ∧ Went s t (s.frag.pc + BitVec.ofNat 64 i.size) ∧ SameMemory s t
      ∧ (∀ l, l < 96 → (t.triple o.d.toNat).getLsbD l =
          if (s.enabled o).getLsbD l then f s l else (s.triple o.d.toNat).getLsbD l)
      ∧ ∀ r, r / 3 ≠ o.d.toNat → t.rg r = s.rg r

/-- A short-latency floating instruction completes from every state in which it passes its decode checks and its poison
check (04 R96, R102): the enabled lanes take the results, FPCTL the flags of the enabled lanes together. -/
def FloatGives (i : Instr) (o : LOp) (fs : List PoisonField) (wide : Bool) (f : State → Nat → Nat × W32) : Prop :=
  ∀ s, s.laneCheck i o = none → s.poisonCheck (s.enabled o) fs = none →
    ∃ t, exec i s = .next t
      ∧ LaneDone s t i.size (s.enabled o) o.d.toNat wide (fun l => (f s l).1) (unionFlags (s.enabled o) fun l => (f s l).2)

/-- The same for an instruction with a short form. -/
def BothFloat (long : LOp → Instr) (short : L32 → Instr) (fs : LOp → List PoisonField) (wide : BitVec 4 → Bool)
    (f : LOp → State → Nat → Nat × W32) : Prop :=
  (∀ o, FloatGives (long o) o (fs o) (wide o.f) (f o)) ∧
  (∀ w : L32, FloatGives (short w) w.toLOp (fs w.toLOp) (wide w.f) (f w.toLOp))

/-- Lane l of register r once register writes have been made, in order, over the value x. -/
def afterWrites (ws : List (Nat × Mask × LaneVec)) (r l : Nat) (x : W32) : W32 :=
  ws.foldl (fun y w => if w.1 = r ∧ w.2.1.getLsbD l then w.2.2.getD l 0 else y) x

/-- A long-latency instruction has issued with lookahead la (02 R49, R50, 04 R96). With la = 0, no answer to wait for and
no other window open, its results and flags are written at once, and for a readout the team's MBND and MSTAT (08 R230).
Otherwise a window stands at the end of the fragment's windows that holds them, and no register changes; for a trace it
holds the ray slots that a trap of it gives back (14 R389).
Nothing else changes: no g register, no special register, no memory. -/
def LongIssued (s t : State) (la size waiting : Nat) (ws : List (Nat × Mask × LaneVec)) (flags : W32)
    (readout : Option (W64 × W32) := none) (rays : Option (Mask × Store RaySlot) := none) : Prop :=
  let old := s.frag.windows.map fun w => { w with left := w.left - 1, passed := w.passed + 1 }
  let w : Window :=
    { id := s.grp.opened, left := la, writes := ws, flags := flags, readout := readout, waiting := waiting, pc := s.frag.pc,
      len := size, rays := rays }
  let team := match readout with | some r => { s.team with mbnd := r.1, mstat := s.team.mstat ||| r.2 } | none => s.team
  SameMemory s t ∧ SameWindow s t ∧
  if la = 0 ∧ waiting = 0 ∧ s.frag.windows = [] then
    t = { s with
      grp := { s.grp with v := t.grp.v, fpctl := s.grp.fpctl ||| flags, opened := s.grp.opened + 1 }, team := team, frag := t.frag }
    ∧ Went s t (s.frag.pc + BitVec.ofNat 64 size)
    ∧ ∀ r l, l < 96 → t.lane r l = afterWrites ws r l (s.lane r l)
  else
    t = { s with
      grp := { s.grp with opened := s.grp.opened + 1 },
      frag := { s.frag with pc := s.frag.pc + BitVec.ofNat 64 size, hold := false, windows := old ++ [w] } }

/-- The instruction of the fragment in focus does not complete (06 R152, R161, R159): a trap is taken; replayable faults are posted and
the fragment parks on them, unless an older instruction's fault stands, which comes first; an uncorrectable error stops the
context. -/
def StopsNow (s t : State) (size : Nat) (ps : List PageReq) : Stop → Prop
  | .trap f => t = s.raise f size
  | .page p => (∀ w ∈ s.frag.windows, w.fault = none) →
      let r := s.postFaults s.team.vf s.team.ctx s.team.core s.frag.pc (if ps = [] then [p] else ps)
      t = { r.1 with frag := { r.1.frag with park := r.2 } }
  | .ue loc => t = s.stopContext s.team.vf s.team.ctx 0x20 loc

/-- A long-latency instruction with lookahead la faults (01 R33). Where la is 0, or an older answer or fault stands, it stops at once; an
uncorrectable error always does. Otherwise it stops at once, or issues with a window that holds the fault, to be reported
after k of the la following instructions: which is free (DESIGN CHOICE, log 14). -/
def StopsLong (s t : State) (la size : Nat) (ps : List PageReq) (st : Stop) : Prop :=
  match s.lateOf ps st with
  | none => StopsNow s t size ps st
  | some late =>
    let later : Prop := la ≠ 0 ∧ s.frag.hold = false ∧ ∀ w ∈ s.frag.windows, w.waiting = 0 ∧ w.fault = none
    let u := { s with freeCount := s.freeCount + 1 }
    (¬later → StopsNow s t size ps st)
    ∧ (later → StopsNow u t size ps st ∨ ∃ k, 1 ≤ k ∧ k ≤ la ∧ t = { u with
        grp := { s.grp with opened := s.grp.opened + 1 },
        frag := { s.frag with
          pc := s.frag.pc + BitVec.ofNat 64 size, hold := false,
          windows := (s.frag.windows.map fun w => { w with left := w.left - 1, passed := w.passed + 1 })
            ++ [{ id := s.grp.opened, left := la, pc := s.frag.pc, len := size, fault := some late, after := k }] } })

/-- A long-latency floating instruction: it waits while the group's sixteen return-buffer entries are held (02 R50), stops where an element
is poisoned, and issues from every other state in which it passes its checks. -/
def LongGives (i : Instr) (o : LOp) (fs : List PoisonField) (wide : Bool) (f : State → Nat → Nat × W32) : Prop :=
  ∀ s, s.laneCheck i o = none →
    (s.bufferFull = true → exec i s = .next s.wait)
    ∧ (s.bufferFull = false →
      (s.poisonCheck (s.enabled o) fs = none →
        ∃ t, exec i s = .next t
          ∧ LongIssued s t o.la.toNat i.size 0 (resultOf o.d.toNat (s.enabled o) wide fun l => (f s l).1)
              (unionFlags (s.enabled o) fun l => (f s l).2))
      ∧ ∀ x, s.poisonCheck (s.enabled o) fs = some x → ∃ t, exec i s = .next t ∧ StopsLong s t o.la.toNat i.size [] (.trap x))

/-- The fault that an instruction takes of its lanes' faults (06 R156): the lowest lane's trap; otherwise, without an uncorrectable error,
every replayable fault. -/
def LowestFault {α : Type} (rs : List (Nat × Except Stop α)) : Prop :=
  (∀ pre l f post, rs = pre ++ (l, .error (.trap f)) :: post → (∀ p ∈ pre, ∀ g, p.2 ≠ .error (.trap g)) →
    gather rs = .error (.trap f, []))
  ∧ ((∀ p ∈ rs, (∀ g, p.2 ≠ .error (.trap g)) ∧ ∀ x, p.2 ≠ .error (.ue x)) → (∃ p ∈ rs, ∃ q, p.2 = .error (.page q)) →
    ∃ q, gather rs = .error (.page q, (rs.filterMap fun p => match p.2 with | .error (.page q) => some q | _ => none).dedup))

/-- The trap of an access of group code to n bytes of the window at a (07 R175-R177, R197): MISALIGN with the address,
SPAD_RANGE with the first byte outside, a store below byte 384 among them, RACE with the sector. Only a checked access (race)
of a launch with RACECHK asks for the sector's record, and n bytes are aligned, so lie in one sector. -/
def windowTrap (t : Team) (gid n : Nat) (write race : Bool) (a : Int) : Option Trap :=
  if a % n ≠ 0 then some { cause := 0x0B, tval := BitVec.ofInt 64 a }
  else if a < 0 ∨ (write = true ∧ a < 384) then some { cause := 0x06, tval := BitVec.ofInt 64 a }
  else if spillBase t < a + n then some { cause := 0x06, tval := BitVec.ofInt 64 (max a (spillBase t)) }
  else if race ∧ t.hdr.raceCheck then
    match t.race.lookup (a.toNat / 32) with
    | some (p, g) => if g = t.raceGen ∧ p ≠ gid then some { cause := 0x14, tval := BitVec.ofNat 64 (a.toNat / 32 * 32) } else none
    | none => none
  else none

/-- A control instruction has completed: the fragment in focus goes on at pc, and nothing else of the machine changes. -/
def WentOnly (s t : State) (pc : W64) : Prop := t = { s with frag := t.frag } ∧ Went s t pc ∧ SameMemory s t

/-- The fragment in focus has left its slot (05 R130); the records of the split table are rs, and nothing else changes. -/
def LeftSlot (s t : State) (rs : List SplitRec) : Prop :=
  t = { s with grp := { s.grp with split := rs }, frag := { s.frag with valid := false } } ∧ SameMemory s t

/-- A scalar instruction has completed: s registers may have changed, and the stream goes on; nothing else does. -/
def ScalarWent (s t : State) (size : Nat) : Prop :=
  t = { s with team := { s.team with s := t.team.s, spc := s.team.spc + BitVec.ofNat 64 size, sphase := 0 } }

/-- Register d of the stream in focus takes x, unless it is s0, which reads as zero; every other register reads as before
(02 R47). -/
def ScalarWritten (s t : State) (d : Nat) (x : W64) : Prop := ∀ r, t.rs r = if r = d ∧ r ≠ 0 then x else s.rs r

/-- An instruction of the scalar integer set completes, and gives D the value f; in the line sequencer it goes on at the next
word of the bank, and ends the program with MISALIGN where there is none (03 R89; 13 R362, R364). -/
def ScalarGives (i : Instr) (size d : Nat) (f : State → W64) : Prop :=
  ∀ s,
    (s.cur.stream = .scalar → ∃ t, exec i s = .next t ∧ ScalarWent s t size ∧ ScalarWritten s t d (f s))
    ∧ (s.cur.stream = .sequencer → ∃ t, exec i s = .next t ∧ ScalarWritten s t d (f s)
        ∧ t = { s with
            head := if s.head.pc + size / 4 < 4096 then { s.head with s := t.head.s, pc := s.head.pc + size / 4 }
              else { s.head with s := t.head.s, fault := some 0x0B } })

/-- The same for an instruction with an S32 form and an S64 form, whose literal, sign-extended, replaces B (02 R47): f takes F,
the old D, A and B. -/
def ScalarBoth (short : S32 → Instr) (long : S64 → Instr) (f : Nat → W64 → W64 → W64 → W64) : Prop :=
  (∀ w, ScalarGives (short w) 4 w.d.toNat fun s => f w.f.toNat (s.rs w.d.toNat) (s.rs w.a.toNat) (s.rs w.b.toNat))
  ∧ ∀ o, ScalarGives (long o) 8 o.w.d.toNat fun s => f o.w.f.toNat (s.rs o.w.d.toNat) (s.rs o.w.a.toNat) (o.e1.signExtend 64)

/-- Of the functions, only context k of VF v has changed, and it is now c. -/
def CtxIs (s t : State) (v k : Nat) (c : Context) : Prop :=
  (∀ w, w ≠ v → t.vf w = s.vf w) ∧ t.vf v = { s.vf v with ctxs := (t.vf v).ctxs }
  ∧ (∀ j, j ≠ k → t.ctx v j = s.ctx v j) ∧ t.ctx v k = c

/-- Of the functions, only VF v has changed, and it is now x. -/
def VfIs (s t : State) (v : Nat) (x : Vf) : Prop := (∀ w, w ≠ v → t.vf w = s.vf w) ∧ t.vf v = x

/-- Of the cores, only core k has changed, and it is now c. -/
def CoreIs (s t : State) (k : Nat) (c : Core) : Prop := (∀ j, j ≠ k → t.core j = s.core j) ∧ t.core k = c

/-- Of the cores, only record caches have changed (07 R181). -/
def CachesOnly (s u : State) : Prop := ∀ k, u.core k = { s.core k with recs := (u.core k).recs }

/-- Of the clusters, only cluster k has changed, and it is now c. -/
def ClusterIs (s t : State) (k : Nat) (c : Cluster) : Prop := (∀ j, j ≠ k → t.cluster j = s.cluster j) ∧ t.cluster k = c

/-- Of the teams, only team u has changed, and it is now x. -/
def TeamIs (s t : State) (u : Nat) (x : Team) : Prop :=
  (∀ w, w ≠ u → t.teams.get {} w = s.teams.get {} w) ∧ t.teams.get {} u = x

/-- An event changes VF v to f, and nothing else. -/
def VfGives (i : Instr) (s : State) (v : Nat) (f : Vf) : Prop := ∃ t, exec i s = .next t ∧ t = { s with vfs := t.vfs } ∧ VfIs s t v f

/-- An event changes context k of VF v to c, and nothing else. -/
def CtxGives (i : Instr) (s : State) (v k : Nat) (c : Context) : Prop :=
  ∃ t, exec i s = .next t ∧ t = { s with vfs := t.vfs } ∧ CtxIs s t v k c

/-- An event changes head k to h, and nothing else. -/
def HeadGives (i : Instr) (s : State) (k : Nat) (h : Head) : Prop :=
  ∃ t, exec i s = .next t ∧ t = { s with heads := t.heads } ∧ (∀ j, j ≠ k → t.headOf j = s.headOf j) ∧ t.headOf k = h

/-- An event changes team u to x, and nothing else. -/
def TeamGives (i : Instr) (s : State) (u : Nat) (x : Team) : Prop :=
  ∃ t, exec i s = .next t ∧ t = { s with teams := t.teams } ∧ TeamIs s t u x

/-- An event comes where it has nothing to do: nothing changes. -/
def Idle (i : Instr) (s : State) : Prop := exec i s = .next s

/-! ### Bytes an element occupies -/

/-- Device memory, host memory, and the window of the team in focus. -/
inductive Space where
  | dev
  | host
  | window
  deriving DecidableEq, Repr

/-- A byte of a space. -/
def State.byteIn (s : State) : Space → Nat → Byte
  | .dev, a => readByte s.mem a
  | .host, a => readByte s.hostMem a
  | .window, a => readByte s.team.win a

/-- Byte a of a space lies in one of the parts. -/
def covers (ps : List (Loc × Nat)) (sp : Space) (a : Nat) : Prop :=
  ∃ p ∈ ps, match p.1, sp with
    | .dev x, .dev => x ≤ a ∧ a < x + p.2
    | .host x, .host => x ≤ a ∧ a < x + p.2
    | _, _ => False

/-- Byte a of a space is one of those a store to the element may write: its own bytes and its block's scale, and in a
compressed buffer the block's 256 bytes and its descriptor (07 R187, R195). -/
def Elem.touches (e : Elem) (sp : Space) (a : Nat) : Prop :=
  covers e.scale sp a ∨
  match e.place with
  | .window x => sp = .window ∧ x ≤ a ∧ a < x + e.n
  | .global ps => covers ps sp a
  | .comp cs => ∃ c ∈ cs, covers c.desc sp a ∨ covers (c.block.head?.toList.map fun p => (p.1, 256)) sp a

/-- Byte a of a space belongs to no element of the list that a lane other than a helper lane names. -/
def Untouched (s : State) (es : List (Nat × Option Elem)) (sp : Space) (a : Nat) : Prop :=
  ∀ p ∈ es, s.isHelper p.1 = false → ∀ e, p.2 = some e → ¬e.touches sp a

/-! ### Teams that have not started (11 R324; 14 R392) -/

/-- Where a team of a launch goes that has not started: to its place where the partition holds its whole span, otherwise to the same
position of the lowest cluster that does. -/
def SpanGoes (s : State) (v : Nat) (l : Launch) (i core : Nat) : Prop :=
  let at_ (m : Nat) : Nat := l.place.getD m 0
  let whole : Prop := ∀ m ∈ l.mates i, s.coreOf v (at_ m) = true
  let on (cl : Nat) : Prop := ∀ m ∈ l.mates i, s.coreOf v (24 * cl + at_ m % 24) = true
  (whole ∧ core = at_ i) ∨ (¬whole ∧ ∃ cl < 32, on cl ∧ core = 24 * cl + at_ i % 24 ∧ ∀ c < cl, ¬on c)
/-- Every team of a context that has not started has a core to go to. -/
def PlacesLeft (s : State) (v j : Nat) : Prop :=
  ∀ p ∈ s.launches, p.2.vf = v → p.2.ctx = j → ∀ i ∈ p.2.waiting, ∃ core, SpanGoes s v p.2 i core
/-- In t the teams of a context that have not started have the places that they go to, and no launch has changed otherwise. -/
def TeamsPlaced (s t : State) (v j : Nat) : Prop :=
  ∀ p ∈ s.launches,
    (¬(p.2.vf = v ∧ p.2.ctx = j) → t.launch p.1 = p.2)
    ∧ (p.2.vf = v → p.2.ctx = j → t.launch p.1 = { p.2 with place := (t.launch p.1).place }
        ∧ ∀ i, i < p.2.place.length →
            (i ∈ p.2.waiting → SpanGoes s v p.2 i ((t.launch p.1).place.getD i 0))
            ∧ (i ∉ p.2.waiting → (t.launch p.1).place.getD i 0 = p.2.place.getD i 0))

end Sys2Proof.Machine
end

