-- ==== Sys2Proof/Certificates/Slice0/Obligations.lean ====
section
/-! DEFINITION. The statements of this model, from the numbered rules of the manual. -/

open Sys2Proof Sys2Proof.Machine

/-! ### Group code: integer instructions -/

/-- 03 R78: add, sub, mul, mad, mulhi, min, max, abs and neg give the values of R78's pseudocode, where ext reads an
operand as signed or unsigned and fit clamps or wraps; no flag changes and nothing traps on overflow. -/
def Obligations.IntegerArithmeticResults : Prop :=
  let ext (f : BitVec 4) (x : Nat) : Int :=
    let w := if bit f 2 then 64 else 32
    if bit f 0 then ((x % 2 ^ w : Nat) : Int) else (BitVec.ofNat w x).toInt
  let clamp (f : BitVec 4) (v : Int) : Int :=
    let w := if bit f 2 then 64 else 32
    if bit f 0 then min (max v 0) (2 ^ w - 1) else min (max v (-2 ^ (w - 1))) (2 ^ (w - 1) - 1)
  let fit (f : BitVec 4) (v : Int) : Nat :=
    let w := if bit f 2 then 64 else 32
    (BitVec.ofInt w (if bit f 3 then clamp f v else v)).toNat
  let low (f : BitVec 4) (v : Int) : Nat := (BitVec.ofInt (if bit f 2 then 64 else 32) v).toNat
  let w64 (f : BitVec 4) : Bool := bit f 2
  let a (o : LOp) (s : State) (l : Nat) : Int := ext o.f (s.srcA o (bit o.f 2) l)
  let b (o : LOp) (s : State) (l : Nat) : Int := ext o.f (s.srcB o (bit o.f 2) (!bit o.f 0) l)
  let c (o : LOp) (s : State) (l : Nat) : Int := ext o.f (s.srcC o (bit o.f 2) (!bit o.f 0) l)
  BothGive .add .addL32 w64 (fun o s l => fit o.f (a o s l + b o s l))
  ∧ BothGive .sub .subL32 w64 (fun o s l => fit o.f (a o s l - b o s l))
  ∧ BothGive .mul .mulL32 w64 (fun o s l => fit o.f (a o s l * b o s l))
  ∧ (∀ o, LaneGives (.mad o) o (bit o.f 2) fun s l => fit o.f (a o s l * b o s l + c o s l))
  ∧ BothGive .mulhi .mulhiL32 w64 (fun o s l => low o.f (a o s l * b o s l / 2 ^ (if bit o.f 2 then 64 else 32)))
  ∧ BothGive .min .minL32 w64 (fun o s l => low o.f (min (a o s l) (b o s l)))
  ∧ BothGive .max .maxL32 w64 (fun o s l => low o.f (max (a o s l) (b o s l)))
  ∧ (∀ o, bit o.f 0 = false → LaneGives (.abs o) o (bit o.f 2) fun s l => fit o.f |a o s l|)
  ∧ (∀ o, bit o.f 0 = false → LaneGives (.neg o) o (bit o.f 2) fun s l => fit o.f (-a o s l))
  ∧ (∀ w : L32, w.g = false → bit w.f 0 = false →
      LaneGives (.absL32 w) w.toLOp (bit w.f 2) fun s l => fit w.f |a w.toLOp s l|)
  ∧ (∀ w : L32, w.g = false → bit w.f 0 = false →
      LaneGives (.negL32 w) w.toLOp (bit w.f 2) fun s l => fit w.f (-a w.toLOp s l))

/-- 03 R79: division truncates towards zero, the remainder has the sign of the dividend, and the borderline cases give
R79's values; nothing traps. -/
def Obligations.DivisionResults : Prop :=
  let w (f : BitVec 4) : Nat := if bit f 2 then 64 else 32
  let ext (f : BitVec 4) (x : Nat) : Int :=
    if bit f 0 then ((x % 2 ^ w f : Nat) : Int) else (BitVec.ofNat (w f) x).toInt
  let low (f : BitVec 4) (v : Int) : Nat := (BitVec.ofInt (w f) v).toNat
  let a (o : LOp) (s : State) (l : Nat) : Int := ext o.f (s.srcA o (bit o.f 2) l)
  let b (o : LOp) (s : State) (l : Nat) : Int := ext o.f (s.srcB o (bit o.f 2) (!bit o.f 0) l)
  ∀ o : LOp,
    LaneGives (.div o) o (bit o.f 2) (fun s l =>
      if b o s l = 0 then
        if !bit o.f 3 then 2 ^ w o.f - 1
        else if bit o.f 0 then 2 ^ w o.f - 1
        else if 0 ≤ a o s l then 2 ^ (w o.f - 1) - 1 else 2 ^ (w o.f - 1)
      else if bit o.f 0 = false ∧ a o s l = -2 ^ (w o.f - 1) ∧ b o s l = -1 then
        if bit o.f 3 then 2 ^ (w o.f - 1) - 1 else 2 ^ (w o.f - 1)
      else low o.f ((a o s l).tdiv (b o s l)))
    ∧ LaneGives (.rem o) o (bit o.f 2) (fun s l =>
      if b o s l = 0 then low o.f (a o s l)
      else if bit o.f 0 = false ∧ a o s l = -2 ^ (w o.f - 1) ∧ b o s l = -1 then 0
      else low o.f ((a o s l).tmod (b o s l)))

/-- 03 R80: the bit, shift and field instructions give the values of R80's pseudocode: a shift amount is never masked, an
amount of w or more gives 0 or the sign, a field beyond the source reads its unbounded extension. -/
def Obligations.BitAndShiftResults : Prop :=
  let w (f : BitVec 4) : Nat := if bit f 2 then 64 else 32
  let w64 (f : BitVec 4) : Bool := bit f 2
  let a (o : LOp) (s : State) (l : Nat) : BitVec (w o.f) := BitVec.ofNat _ (s.srcA o (bit o.f 2) l)
  let b (o : LOp) (s : State) (l : Nat) : BitVec (w o.f) := BitVec.ofNat _ (s.srcB o (bit o.f 2) false l)
  let n (o : LOp) (s : State) (l : Nat) : Nat := s.srcB o false false l
  BothGive .and .andL32 w64 (fun o s l => (a o s l &&& b o s l).toNat)
  ∧ BothGive .or .orL32 w64 (fun o s l => (a o s l ||| b o s l).toNat)
  ∧ BothGive .xor .xorL32 w64 (fun o s l => (a o s l ^^^ b o s l).toNat)
  ∧ BothGive .andn .andnL32 w64 (fun o s l => (a o s l &&& ~~~b o s l).toNat)
  ∧ BothGive .not .notL32 w64 (fun o s l => (~~~a o s l).toNat)
  ∧ BothGive .shl .shlL32 w64 (fun o s l => if w o.f ≤ n o s l then 0 else (a o s l <<< n o s l).toNat)
  ∧ BothGive .shr .shrL32 w64 (fun o s l => if w o.f ≤ n o s l then 0 else (a o s l >>> n o s l).toNat)
  ∧ BothGive .sra .sraL32 w64 (fun o s l =>
      if w o.f ≤ n o s l then (if (a o s l).msb then 2 ^ w o.f - 1 else 0) else ((a o s l).sshiftRight (n o s l)).toNat)
  ∧ BothGive .rotl .rotlL32 w64 (fun o s l => ((a o s l).rotateLeft (n o s l)).toNat)
  ∧ BothGive .popc .popcL32 (fun _ => false) (fun o s l => ((List.range (w o.f)).filter (a o s l).getLsbD).length)
  ∧ BothGive .clz .clzL32 (fun _ => false)
      (fun o s l => ((List.range (w o.f)).takeWhile fun i => !(a o s l).getMsbD i).length)
  ∧ BothGive .ctz .ctzL32 (fun _ => false)
      (fun o s l => ((List.range (w o.f)).takeWhile fun i => !(a o s l).getLsbD i).length)
  ∧ BothGive .brev .brevL32 w64 (fun o s l => (a o s l).reverse.toNat)
  ∧ BothGive .bfe .bfeL32 w64 (fun o s l =>
      let pos := n o s l % 256
      let len := n o s l / 256 % 256
      let e : Int := if bit o.f 0 then ((a o s l).toNat : Int) else (a o s l).toInt
      let field : BitVec len := BitVec.ofInt len (e / 2 ^ pos)
      if len = 0 then 0 else (if bit o.f 0 then field.setWidth (w o.f) else field.signExtend (w o.f)).toNat)
  ∧ (∀ o, ∃ f : State → Nat → Nat, LaneGives (.bfi o) o (bit o.f 2) f ∧
      ∀ s l i, (f s l).testBit i =
        let pos := s.srcC o false false l % 256
        let len := s.srcC o false false l / 256 % 256
        if pos ≤ i ∧ i < min (pos + len) (w o.f) then (s.srcB o (bit o.f 2) false l).testBit (i - pos) else (a o s l).getLsbD i)

/-- 03 R81-R85: sel chooses by the bit of its triple; mov copies a v register, a literal, a g register or an s
register (that a literal is copied whatever source kind F[1:0] names is the model's reading: log 31, DEDUCED); cvti and perm give the values of R83's table and of R85's selectors; lea adds the scaled, extended B
to the pair A modulo 2^64. -/
def Obligations.MoveAndAddressResults : Prop :=
  (∀ o, LaneGives (.sel o) o (bit o.f 2) fun s l =>
    if (s.triple (cTripleOf o)).getLsbD l then s.srcA o (bit o.f 2) l else s.srcB o (bit o.f 2) false l)
  ∧ BothGive .mov .movL32 (fun f => bit f 2) (fun o s l =>
      if o.isLit then s.srcB o (bit o.f 2) false l
      else if bit o.f 0 && !bit o.f 1 then s.gVal (bit o.f 2) o.b.toNat
      else if bit o.f 1 && !bit o.f 0 then
        (if bit o.f 2 then (s.rs o.b.toNat).toNat else (s.rs o.b.toNat).toNat % 2 ^ 32)
      else s.srcB o (bit o.f 2) false l)
  ∧ (∀ o, LaneGives (.lea o) o true fun s l =>
      let x : W32 := BitVec.ofNat 32 (s.srcB o false false l)
      let y : W64 := if bit o.f 3 then x.zeroExtend 64 else x.signExtend 64
      (BitVec.ofNat 64 (s.srcA o true l) + (y <<< bits o.f 2 0)).toNat)
  ∧ (∀ o, LaneGives (.cvti o) o (o.f == 4 || o.f == 5) fun s l =>
      iCvt o.f.toNat (s.srcA o (o.f == 6 || o.f == 7 || o.f == 8) l))
  ∧ (∀ w : L32, w.g = false → LaneGives (.cvtiL32 w) w.toLOp (w.f == 4 || w.f == 5) fun s l =>
      iCvt w.f.toNat (s.srcA w.toLOp (w.f == 6 || w.f == 7 || w.f == 8) l))
  ∧ (∀ o, LaneGives (.perm o) o false fun s l =>
      iPerm (s.srcA o false l) (s.srcB o false false l) (s.srcC o false false l))
  -- the values of R83: A as a code of w bits, clamped to a range of n bits
  ∧ (∀ a,
      let sx (w n : Nat) : Nat := ((BitVec.ofNat w a).signExtend n).toNat
      let toI (w n : Nat) : Nat := (BitVec.ofInt 32 (min (max (BitVec.ofNat w a).toInt (-2 ^ (n - 1))) (2 ^ (n - 1) - 1))).toNat
      let toN (w n : Nat) : Nat := min (a % 2 ^ w) (2 ^ n - 1)
      iCvt 0x0 a = sx 8 32 ∧ iCvt 0x1 a = a % 2 ^ 8 ∧ iCvt 0x2 a = sx 16 32 ∧ iCvt 0x3 a = a % 2 ^ 16
      ∧ iCvt 0x4 a = sx 32 64 ∧ iCvt 0x5 a = a % 2 ^ 32 ∧ iCvt 0x6 a = a % 2 ^ 32
      ∧ iCvt 0x7 a = toI 64 32 ∧ iCvt 0x8 a = toN 64 32 ∧ iCvt 0x9 a = toI 32 16 ∧ iCvt 0xA a = toN 32 16
      ∧ iCvt 0xB a = toI 32 8 ∧ iCvt 0xC a = toN 32 8
      ∧ iCvt 0xD a = (if (BitVec.ofNat 32 a).msb then 0 else a % 2 ^ 32) ∧ iCvt 0xE a = toN 32 31)
  -- and of R85: byte i of the result, by nibble i of C
  ∧ ∀ a b c, iPerm a b c < 2 ^ 32 ∧ ∀ i, i < 4 → iPerm a b c / 2 ^ (8 * i) % 256 =
      let n := c / 2 ^ (4 * i) % 16
      let x := (a % 2 ^ 32 + b % 2 ^ 32 * 2 ^ 32) / 2 ^ (8 * (n % 8)) % 256
      if n < 8 then x else if 128 ≤ x then 255 else 0

/-- 03 R86-R88: each packed instruction gives, in every enabled lane, the register of the sub-element results that R86, R87
and R88 define; pairs are never used. The sub-elements of the operations' results are stated one by one: read as signed or
unsigned, clamped with SAT and otherwise wrapped; a shift amount is the low 8 bits of B's sub-element and is not masked. -/
def Obligations.PackedResults : Prop :=
  let a (o : LOp) (s : State) (l : Nat) : Nat := s.srcA o false l
  let b (o : LOp) (s : State) (l : Nat) : Nat := s.srcB o false false l
  let c (o : LOp) (s : State) (l : Nat) : Nat := s.srcC o false false l
  let n (_ : BitVec 4) : Bool := false
  BothGive .padd .paddL32 n (fun o s l => iPacked 0x20 o.f (a o s l) (b o s l))
  ∧ BothGive .psub .psubL32 n (fun o s l => iPacked 0x21 o.f (a o s l) (b o s l))
  ∧ BothGive .pmul .pmulL32 n (fun o s l => iPacked 0x22 o.f (a o s l) (b o s l))
  ∧ BothGive .pmin .pminL32 n (fun o s l => iPacked 0x23 o.f (a o s l) (b o s l))
  ∧ BothGive .pmax .pmaxL32 n (fun o s l => iPacked 0x24 o.f (a o s l) (b o s l))
  ∧ BothGive .pabs .pabsL32 n (fun o s l => iPacked 0x25 o.f (a o s l) 0)
  ∧ BothGive .pshl .pshlL32 n (fun o s l => iPshift 0x26 o.f (a o s l) (b o s l))
  ∧ BothGive .pshr .pshrL32 n (fun o s l => iPshift 0x27 o.f (a o s l) (b o s l))
  ∧ BothGive .psra .psraL32 n (fun o s l => iPshift 0x28 o.f (a o s l) (b o s l))
  ∧ BothGive .pcmp .pcmpL32 n (fun o s l => iPcmp o.f (a o s l) (b o s l))
  ∧ BothGive .ppack .ppackL32 n (fun o s l => iPpack o.f (a o s l) (b o s l))
  ∧ BothGive .punpk .punpkL32 n (fun o s l => iPunpk o.f (a o s l))
  ∧ (∀ o, LaneGives (.pdot o) o false fun s l => iPdot o.f (a o s l) (b o s l) (c o s l))
  ∧ (∀ o, LaneGives (.sad o) o false fun s l => iSad o.f (a o s l) (b o s l) (c o s l))
  ∧ ∀ (f : BitVec 4) (a b c : Nat),
      let u := bit f 0
      let e := if bit f 1 then 16 else 8
      -- a sub-element of n bits, its value, and the code of a value in n bits, clamped or wrapped
      let el (n x j : Nat) : Nat := x / 2 ^ (n * j) % 2 ^ n
      let val (unsigned : Bool) (n x j : Nat) : Int := if unsigned then (el n x j : Int) else (BitVec.ofNat n (el n x j)).toInt
      let code (n : Nat) (v : Int) : Nat := (BitVec.ofInt n v).toNat
      let fit (n : Nat) (v : Int) : Nat := code n (if bit f 3 then
        (if u then min (max v 0) (2 ^ n - 1) else min (max v (-2 ^ (n - 1))) (2 ^ (n - 1) - 1)) else v)
      (∀ j, j < 32 / e →
        let x := val u e a j
        let y := val u e b j
        let n := el e b j % 256
        el e (iPacked 0x20 f a b) j = fit e (x + y) ∧ el e (iPacked 0x21 f a b) j = fit e (x - y)
        ∧ el e (iPacked 0x22 f a b) j = fit e (x * y) ∧ el e (iPacked 0x23 f a b) j = code e (min x y)
        ∧ el e (iPacked 0x24 f a b) j = code e (max x y) ∧ (u = false → el e (iPacked 0x25 f a 0) j = fit e |x|)
        ∧ el e (iPshift 0x26 f a b) j = (if e ≤ n then 0 else el e a j * 2 ^ n % 2 ^ e)
        ∧ el e (iPshift 0x27 f a b) j = (if e ≤ n then 0 else el e a j / 2 ^ n)
        ∧ el e (iPshift 0x28 f a b) j = ((BitVec.ofNat e (el e a j)).sshiftRight n).toNat
        ∧ el e (iPcmp f a b) j =
            if (match bits f 3 2 with | 0 => x == y | 1 => decide (x < y) | 2 => decide (y ≤ x) | _ => x != y) then 2 ^ e - 1 else 0)
      ∧ iPdot f a b c = fit 32 (val u 32 c 0 + ((List.range (32 / e)).map fun j => val u e a j * val u e b j).sum)
      ∧ (f = 0 ∨ f = 1 → let n := if f = 1 then 16 else 8
          iSad f a b c = code 32 (c + ((List.range (32 / n)).map fun j => |(el n a j : Int) - el n b j|).sum))
      ∧ (bit f 1 = false → el 16 (iPpack f a b) 0 = fit 16 (val false 32 a 0) ∧ el 16 (iPpack f a b) 1 = fit 16 (val false 32 b 0))
      ∧ (bit f 1 = true → ∀ j, j < 2 → el 8 (iPpack f a b) j = fit 8 (val false 16 a j) ∧ el 8 (iPpack f a b) (j + 2) = fit 8 (val false 16 b j))
      ∧ (let h := if bit f 2 then 1 else 0
        (bit f 1 = true → iPunpk f a = code 32 (val u 16 a h))
        ∧ (bit f 1 = false → ∀ j, j < 2 → el 16 (iPunpk f a) j = code 16 (val u 8 a (2 * h + j))))

/-- 02 R42, 03 R75, R77: the G = 1 forms act once, on g registers and g pairs, with the operation of the lane form. -/
def Obligations.GroupRegisterForms : Prop := EachGroupForm GroupGives

/-- 05 R135, R143: a G = 1 write to one of g0, g1 and g2 writes a beat word of the fragment's mask: bits of lanes that are
neither the fragment's nor dormant are ignored, lanes it drops become dormant, and a fragment left without lanes leaves
its slot. Said of every G = 1 form. A 64-bit write of two beat words is one write of both (03 R75), one of g2:g3 writes the beat word and g3.
Inside a bracket the write traps ALLON_NEST with TVAL 3. A fragment that would leave its slot with open windows first waits for
its answers and reports its oldest fault, and with it every window closes. -/
def Obligations.MaskWordWrites : Prop := EachGroupForm MaskWrites

/-- 03 R81, 04 R108: cmp and fcmp write one bit per enabled lane into their triple: cmp the condition that F names, on 32-
or 64-bit values, with no flag; fcmp the comparison fCmp of the two values, with its flags, where the poison check of
R102 passes. -/
def Obligations.CompareResults : Prop :=
  (∀ o, TripleGives (.cmp o) o
    (fun s l =>
      let w := if bit o.f 3 then 64 else 32
      let a := BitVec.ofNat w (s.srcA o (bit o.f 3) l)
      let b (signed : Bool) := BitVec.ofNat w (s.srcB o (bit o.f 3) signed l)
      match bits o.f 2 0 with
      | 0 => a == b false
      | 1 => a != b false
      | 2 => a.slt (b true)
      | 3 => !a.slt (b true)
      | 4 => a.ult (b false)
      | _ => !a.ult (b false))
    (fun _ => 0) (fun _ => True))
  ∧ (∀ o, TripleGives (.fcmp o) o
    (fun s l => (fCmp (ftFmt (ftOf o.f)) s.ftz (bits o.f 3 2) (s.fA o (ftOf o.f) l) (s.fB o (ftOf o.f) l)).1)
    (fun s => unionFlags (s.enabled o) fun l =>
      (fCmp (ftFmt (ftOf o.f)) s.ftz (bits o.f 3 2) (s.fA o (ftOf o.f) l) (s.fB o (ftOf o.f) l)).2)
    (fun s => s.poisonCheck (s.enabled o) (poisonOf o (ftRegs (ftOf o.f)) (ftRegs (ftOf o.f)) 0) = none))
  ∧ ∀ f ∈ [fmtF32, fmtF64, fmtF16, fmtBf16], ∀ (ftz : Bool) (x y : Nat),
      x < 2 ^ f.width → y < 2 ^ f.width →
      let a := f.operand ftz x
      let b := f.operand ftz y
      let nan := (f.read a).isNan || (f.read b).isNan
      let onSignal : W32 := if f.isSnan a || f.isSnan b then 0x10 else 0
      let onNan : W32 := if nan then 0x10 else 0
      (fCmp f ftz 0 x y).2 = onSignal ∧ (fCmp f ftz 1 x y).2 = onNan ∧ (fCmp f ftz 2 x y).2 = onNan ∧ (fCmp f ftz 3 x y) = (nan, onSignal)
      ∧ (nan = true → ∀ c < 3, (fCmp f ftz c x y).1 = false)
      ∧ (nan = false →
          ((fCmp f ftz 0 x y).1 = true ↔ f.level a = f.level b)
          ∧ ((fCmp f ftz 1 x y).1 = true ↔ f.level a < f.level b)
          ∧ ((fCmp f ftz 2 x y).1 = true ↔ f.level a ≤ f.level b))

/-! ### Group code: floating instructions -/

/-- 04 R105-R110, R113-R116: the short-latency floating instructions give, per enabled lane, the result and flags of their
operation under the type FT and the rounding RO or FPCTL.RM; fsgn, fclass and cvtx set no flag and make no poison
check. What fmin, fmax, frnd and cvtfi make of codes is stated too, and the values of the others below: a finite result is the exact one rounded once, with R101's
sign of zero and the infinities of IEEE 754; -0 is below +0, a NaN gives a NaN or for .num loses; frnd rounds the
magnitude to a whole number in the direction given, and sets no NX; cvtfi cuts it off and saturates, with NV. -/
def Obligations.FloatResults : Prop :=
  let ft (o : LOp) : Nat := ftOf o.f
  let wd (f : BitVec 4) : Bool := ftWide (ftOf f)
  let p1 (o : LOp) := poisonOf o (ftRegs (ft o)) 0 0
  let p2 (o : LOp) := poisonOf o (ftRegs (ft o)) (ftRegs (ft o)) 0
  let p3 (o : LOp) := poisonOf o (ftRegs (ft o)) (ftRegs (ft o)) (ftRegs (ft o))
  let fm (o : LOp) : Fmt := ftFmt (ft o)
  let a (o : LOp) (s : State) (l : Nat) : Nat := s.fA o (ft o) l
  let b (o : LOp) (s : State) (l : Nat) : Nat := s.fB o (ft o) l
  let c (o : LOp) (s : State) (l : Nat) : Nat := s.fC o (ft o) l
  let rm (o : LOp) (s : State) : Rounding := roundingOf (bits o.f 3 2) s.grp.fpctl
  let dyn (s : State) : Rounding := bits s.grp.fpctl 1 0
  let ftz (s : State) : Bool := bit s.grp.fpctl 2
  BothFloat .fadd .faddL32 p2 wd (fun o s l => fAdd (fm o) (rm o s) (ftz s) false (a o s l) (b o s l))
  ∧ BothFloat .fsub .fsubL32 p2 wd (fun o s l => fAdd (fm o) (rm o s) (ftz s) true (a o s l) (b o s l))
  ∧ BothFloat .fmul .fmulL32 p2 wd (fun o s l => fMul (fm o) (rm o s) (ftz s) (a o s l) (b o s l))
  ∧ (∀ o, FloatGives (.fma o) o (p3 o) (wd o.f) fun s l => fMa (fm o) (rm o s) (ftz s) (a o s l) (b o s l) (c o s l))
  ∧ BothFloat .fmin .fminL32 p2 wd (fun o s l => fMinMax (fm o) (ftz s) false (bit o.f 2) (a o s l) (b o s l))
  ∧ BothFloat .fmax .fmaxL32 p2 wd (fun o s l => fMinMax (fm o) (ftz s) true (bit o.f 2) (a o s l) (b o s l))
  ∧ BothFloat .frnd .frndL32 p1 wd (fun o s l => fRnd (fm o) (rm o s) (ftz s) (a o s l))
  ∧ (∀ o, FloatGives (.fscale o) o (poisonOf o (ftRegs (ft o)) 1 0) (wd o.f) fun s l =>
      fScale (fm o) (rm o s) (ftz s) (a o s l) (BitVec.ofNat 32 (s.srcB o false false l)).toInt)
  ∧ BothFloat .fexpo .fexpoL32 p1 (fun _ => false)
      (fun o s l => ((fExpo (fm o) (ftz s) (a o s l)).1.toNat, (fExpo (fm o) (ftz s) (a o s l)).2))
  ∧ (∀ o, FloatGives (.fdot2 o) o (poisonOf o 1 1 1) false fun s l =>
      fDot2 (fm o) (rm o s) (ftz s) (s.srcA o false l) (s.srcB o false false l) (s.srcC o false false l))
  ∧ BothFloat .cvt .cvtL32 (fun o => poisonOf o (ftRegs (bits o.f 3 2)) 0 0) wd (fun o s l =>
      fConvert (ftFmt (bits o.f 3 2)) (fm o) (dyn s) (ftz s) (s.fA o (bits o.f 3 2) l))
  ∧ BothFloat .cvtfi .cvtfiL32 p1 (fun f => bit f 3)
      (fun o s l => fToInt (fm o) (if bit o.f 3 then 64 else 32) (bit o.f 2) (a o s l))
  ∧ BothFloat .cvtif .cvtifL32 (fun o => poisonOf o (if bit o.f 3 then 2 else 1) 0 0) wd (fun o s l =>
      let w := if bit o.f 3 then 64 else 32
      let x := BitVec.ofNat w (s.srcA o (bit o.f 3) l)
      intToF (fm o) (dyn s) (ftz s) (if bit o.f 2 then (x.toNat : Int) else x.toInt))
  ∧ (∀ o, LaneGives (.fsgn o) o (wd o.f) fun s l =>
      fSgn (fm o) (bits o.f 3 2) (a o s l) (if bit o.f 3 then b o s l else 0))
  ∧ (∀ w : L32, LaneGives (.fsgnL32 w) w.toLOp (wd w.f) fun s l =>
      fSgn (fm w.toLOp) (bits w.f 3 2) (a w.toLOp s l) (if bit w.f 3 then b w.toLOp s l else 0))
  ∧ (∀ o, LaneGives (.fclass o) o false fun s l => fClass (fm o) (a o s l))
  ∧ (∀ w : L32, LaneGives (.fclassL32 w) w.toLOp false fun s l => fClass (fm w.toLOp) (a w.toLOp s l))
  ∧ (∀ o, LaneGives (.cvtx o) o false fun s l => fCvtx o.f (s.srcA o false l))
  ∧ (∀ w : L32, LaneGives (.cvtxL32 w) w.toLOp false fun s l => fCvtx w.f (s.srcA w.toLOp false l))
  ∧ (∀ f ∈ [fmtF32, fmtF64, fmtF16, fmtBf16], ∀ a b : Nat, a < 2 ^ f.width → b < 2 ^ f.width →
      let h := 2 ^ (f.ebits + f.mbits)
      let nan (x : Nat) : Bool := (f.read x).isNan
      let nv (xs : List Nat) : W32 := if xs.any f.isSnan then 0x10 else 0
      let quiet (x : Nat) : Nat := x ||| 2 ^ (f.mbits - 1)
      -- the order of codes without a NaN: by sign, then by magnitude
      let below (x y : Nat) : Prop := if h ≤ x then (if h ≤ y then y < x else True) else if h ≤ y then False else x < y
      (∀ num, nan a = false → nan b = false →
        (below a b → fMinMax f false false num a b = (a, 0) ∧ fMinMax f false true num a b = (b, 0))
        ∧ (¬below a b → fMinMax f false false num a b = (b, 0) ∧ fMinMax f false true num a b = (a, 0)))
      ∧ (∀ mx, (nan a = true → fMinMax f false mx false a b = (quiet a, nv [a, b])
            ∧ fMinMax f false mx true a b = (if nan b then quiet a else b, nv [a, b]))
          ∧ (nan a = false → nan b = true → fMinMax f false mx false a b = (quiet b, nv [a, b]) ∧ fMinMax f false mx true a b = (a, nv [a, b])))
      ∧ (∀ rm, rm < 4 →
          (nan a = true → fRnd f rm false a = (quiet a, nv [a]))
          ∧ ∀ neg m e, f.read a = .fin neg m e →
            let d := 2 ^ (-e).toNat
            let up : Prop := match rm with
              | 0 => d < 2 * (m % d) ∨ (2 * (m % d) = d ∧ m / d % 2 = 1)
              | 1 => False
              | 2 => neg = true ∧ m % d ≠ 0
              | _ => neg = false ∧ m % d ≠ 0
            (0 ≤ e → fRnd f rm false a = (a, 0))
            ∧ (e < 0 → up → fRnd f rm false a = ((f.roundDyadic rm false neg (m / d + 1) 0).1, 0))
            ∧ (e < 0 → ¬up → fRnd f rm false a = ((f.roundDyadic rm false neg (m / d) 0).1, 0)))
      ∧ (∀ rm neg, f.read a = .inf neg → fRnd f rm false a = (a, 0))
      ∧ ∀ w ∈ [32, 64], ∀ u : Bool,
          let lo : Int := if u then 0 else -2 ^ (w - 1)
          let hi : Int := if u then 2 ^ w - 1 else 2 ^ (w - 1) - 1
          let code (v : Int) : Nat := (BitVec.ofInt w v).toNat
          (nan a = true → fToInt f w u a = (0, 0x10))
          ∧ (∀ neg, f.read a = .inf neg → fToInt f w u a = (code (if neg then lo else hi), 0x10))
          ∧ ∀ neg m e, f.read a = .fin neg m e →
            let t : Int := (m * 2 ^ e.toNat / 2 ^ (-e).toNat : Nat)
            let v := if neg then -t else t
            fToInt f w u a = if v < lo then (code lo, 0x10) else if hi < v then (code hi, 0x10) else (code v, 0))
  ∧ FiniteSums ∧ FiniteProducts ∧ ConvertedValues ∧ DotValues ∧ SignsAndClasses

/-- 04 R111, R112, R117, 02 R49: the long-latency floating instructions issue with the results and flags of their
operation, which take effect at once or at the close of their window. The values of fdiv, frcp and fsqrt are stated: the exact quotient or
root rounded once, and the special cases of R111.
Where the manual is open or is read by inference, it follows the model's choices of log 9 (DESIGN CHOICE), log 14 (DESIGN CHOICE: when a stop is reported),
log 64 (DESIGN CHOICE: what holds an entry of the return buffer). -/
def Obligations.LongFloatResults : Prop :=
  ∀ o : LOp,
    let ft := ftOf o.f
    let p1 := poisonOf o (ftRegs ft) 0 0
    let wd := ftWide ft
    let a (s : State) (l : Nat) : Nat := s.fA o ft l
    let rm (s : State) : Rounding := roundingOf (bits o.f 3 2) s.grp.fpctl
    let ftz (s : State) : Bool := bit s.grp.fpctl 2
    LongGives (.fdiv o) o (poisonOf o (ftRegs ft) (ftRegs ft) 0) wd
      (fun s l => fDiv (ftFmt ft) (rm s) (ftz s) (a s l) (s.fB o ft l))
    ∧ LongGives (.fsqrt o) o p1 wd (fun s l => fSqrt (ftFmt ft) (rm s) (ftz s) (a s l))
    ∧ LongGives (.frcp o) o p1 wd (fun s l => fRcp (ftFmt ft) (rm s) (ftz s) (a s l))
    ∧ LongGives (.frsq o) o p1 wd (fun s l => fApprox 0x50 ft (ftz s) (a s l))
    ∧ LongGives (.fexp2 o) o p1 wd (fun s l => fApprox 0x51 ft (ftz s) (a s l))
    ∧ LongGives (.flog2 o) o p1 wd (fun s l => fApprox 0x52 ft (ftz s) (a s l))
    ∧ LongGives (.fsin o) o p1 wd (fun s l => fApprox 0x53 ft (ftz s) (a s l))
    ∧ LongGives (.fcos o) o p1 wd (fun s l => fApprox 0x54 ft (ftz s) (a s l))
    ∧ LongGives (.ftanh o) o p1 wd (fun s l => fApprox 0x55 ft (ftz s) (a s l))
    ∧ LongGives (.cvtn o) o (poisonOf o 1 0 0) false (fun s l =>
        fCvtn ft (bit o.f 2) (bit o.f 3) (if bit o.f 3 then s.srcA o false l % 2 ^ 16 else s.srcA o false l))
    ∧ QuotientsAndRoots

/-- 04 R122-R124: wfup and wfmerge replace the Welford triple of each enabled lane by the value of wfUp or wfMerge and OR
the flags; a lane whose count may not change keeps its triple: wfup at a count of 2^32 - 1, wfmerge where A's count is
zero or the sum of two counts does not fit. The triple is D to D + 2, and for f64 D to D + 5 with D + 1 written zero; no
other register changes. Where the values are finite, each step of wfUp and wfMerge is the rounding of its exact value that the
pseudocode gives. -/
def Obligations.WelfordResults : Prop :=
  let done (s t : State) (o : LOp) (keep : Nat → Bool) (f : Nat → Welford) (fl : W32) : Prop :=
    t = { s with grp := { s.grp with v := t.grp.v, fpctl := s.grp.fpctl ||| fl }, frag := t.frag }
    ∧ Went s t (s.frag.pc + BitVec.ofNat 64 o.size) ∧ SameMemory s t
    ∧ ∀ r l, l < 96 → t.lane r l =
        if (s.enabled o).getLsbD l ∧ keep l = false ∧ o.d.toNat ≤ r ∧ r < o.d.toNat + (if ftOf o.f = 1 then 6 else 3) then
          match decide (ftOf o.f = 1), r - o.d.toNat with
          | _, 0 => BitVec.ofNat 32 (f l).count
          | true, 1 => 0
          | true, 2 => BitVec.ofNat 32 (f l).mean
          | true, 3 => BitVec.ofNat 32 ((f l).mean / 2 ^ 32)
          | true, 4 => BitVec.ofNat 32 (f l).m2
          | true, _ => BitVec.ofNat 32 ((f l).m2 / 2 ^ 32)
          | false, 1 => BitVec.ofNat 32 (f l).mean
          | false, _ => BitVec.ofNat 32 (f l).m2
        else s.lane r l
  ∀ (o : LOp) (s : State),
    let ft := ftOf o.f
    let n := if ft = 1 then 6 else 3
    let rm := roundingOf (bits o.f 3 2) s.grp.fpctl
    let ftz := bit s.grp.fpctl 2
    let d (l : Nat) := s.welford ft o.d.toNat l
    let a (l : Nat) := s.welford ft o.a.toNat l
    (s.laneCheck (.wfup o) o = none →
      s.poisonCheck (s.enabled o) [{ reg := o.a.toNat, count := ftRegs ft }, { reg := o.d.toNat, count := 1 },
        { reg := o.d.toNat, count := n - 1, off := 1 }] = none →
      ∃ t, exec (.wfup o) s = .next t
        ∧ done s t o (fun l => (d l).count == 2 ^ 32 - 1) (fun l => (wfUp (ftFmt ft) rm ftz (d l) (s.fA o ft l)).1)
            (unionFlags (s.enabled o) fun l => (wfUp (ftFmt ft) rm ftz (d l) (s.fA o ft l)).2))
    ∧ (s.laneCheck (.wfmerge o) o = none →
      s.poisonCheck (s.enabled o) [{ reg := o.a.toNat, count := 1 }, { reg := o.d.toNat, count := 1 },
        { reg := o.a.toNat, count := n - 1, off := 1 }, { reg := o.d.toNat, count := n - 1, off := 1 }] = none →
      ∃ t, exec (.wfmerge o) s = .next t
        ∧ done s t o (fun l => (a l).count == 0 || ((d l).count != 0 && decide ((d l).count + (a l).count ≥ 2 ^ 32)))
            (fun l => (wfMerge (ftFmt ft) rm ftz (d l) (a l)).1)
            (unionFlags (s.enabled o) fun l => (wfMerge (ftFmt ft) rm ftz (d l) (a l)).2))
    ∧ WelfordSteps

/-- 04 R98: rounding to nearest gives a nearest value. A positive fraction n / d that does not overflow is rounded to a
finite code of an IEEE-style format no other finite non-negative code of which is closer to n / d, and NX says whether
the code's value differs from n / d. -/
def Obligations.RoundingToNearestIsNearest : Prop :=
  let value (f : Fmt) (x : Nat) : ℚ := match f.read x with | .fin _ m e => (m : ℚ) * (2 : ℚ) ^ e | _ => 0
  ∀ f ∈ [fmtF32, fmtF64, fmtF16, fmtBf16], ∀ n d : Nat, 0 < n → 0 < d →
    let r := f.round 0 false false n d
    r.1 < f.infBits false →
      (∀ x, x < f.infBits false → |value f r.1 - (n : ℚ) / d| ≤ |value f x - (n : ℚ) / d|)
      ∧ (bit r.2 8 = true ↔ value f r.1 ≠ (n : ℚ) / d)

/-- 04 R100: with a NaN among its operands a floating operation returns the first NaN operand in the order A, B, C, made
quiet, and sets NV where an operand is signalling; without one, an invalid operation returns the canonical NaN and sets
NV. Flushing (R99) is off. Said of addition, subtraction, product, fma, quotient, root and reciprocal. -/
def Obligations.NanAndInvalidResults : Prop :=
  ∀ f ∈ [fmtF32, fmtF64, fmtF16, fmtBf16], ∀ (rm : Rounding) (a b c : Nat),
    let nan (x : Nat) : Bool := (f.read x).isNan
    let zero (x : Nat) : Bool := (f.read x).isZero
    let inf (x : Nat) : Bool := match f.read x with | .inf _ => true | _ => false
    let neg (x : Nat) : Bool := (f.read x).neg?
    let canonical : Nat × W32 := (f.nanBits, 0x10)
    let quieted (xs : List Nat) : Nat × W32 :=
      (((xs.find? nan).getD 0) ||| 2 ^ (f.mbits - 1), if xs.any f.isSnan then 0x10 else 0)
    (nan a || nan b → fAdd f rm false false a b = quieted [a, b] ∧ fAdd f rm false true a b = quieted [a, b]
      ∧ fMul f rm false a b = quieted [a, b] ∧ fDiv f rm false a b = quieted [a, b])
    ∧ (nan a || nan b || nan c → fMa f rm false a b c = quieted [a, b, c])
    ∧ (nan a → fSqrt f rm false a = quieted [a] ∧ fRcp f rm false a = quieted [a])
    ∧ (inf a → inf b → neg a ≠ neg b → fAdd f rm false false a b = canonical)
    ∧ (inf a → inf b → neg a = neg b → fAdd f rm false true a b = canonical)
    ∧ ((inf a ∧ zero b ∨ zero a ∧ inf b) → fMul f rm false a b = canonical ∧ (nan c = false → fMa f rm false a b c = canonical))
    ∧ ((inf a ∧ inf b ∨ zero a ∧ zero b) → fDiv f rm false a b = canonical)
    ∧ (nan a = false → zero a = false → neg a = true → fSqrt f rm false a = canonical)

/-! ### Group code: the register pool -/

/-- 03 R72: vgive gives the top 32 n registers of the group to the pool; vclaim takes as many from it, reading zero or launch
poison; neither goes below 32 or above 1,024 registers (REG_RANGE, TVAL the count). A claim that the pool cannot serve
waits, or for vclaim.try clears its triple, which a served one sets. Every open window of the group has closed before;
nothing else of the machine changes. -/
def Obligations.RegisterPool : Prop :=
  ∀ (o : LOp) (s : State),
    let n := o.f.toNat + 1
    let old := s.grp.vcount
    let c := s.closeAll
    let went (t : State) : Prop := Went c t (c.frag.pc + 8) ∧ SameMemory s t
    s.groupWindowsClosed = true →
    (s.laneCheck (.vgive o) o = none →
      (old < 32 * n + 32 → exec (.vgive o) s = .next (s.raise { cause := 0x04, tval := BitVec.ofNat 64 old } 8))
      ∧ (32 * n + 32 ≤ old → ∃ t, exec (.vgive o) s = .next t ∧ went t
          ∧ t = { c with
              grp := { c.grp with vcount := old - 32 * n, v := c.grp.v.filter fun p => decide (p.1 < old - 32 * n) },
              team := { c.team with vpool := s.team.vpool + n }, frag := t.frag }))
    ∧ ∀ i, (i = Instr.vclaim o ∧ o.d = 0) ∨ (i = Instr.vclaimTry o ∧ o.d ≠ 0) → s.laneCheck i o = none →
      (1024 < old + 32 * n → exec i s = .next (s.raise { cause := 0x04, tval := BitVec.ofNat 64 old } 8))
      ∧ (old + 32 * n ≤ 1024 → s.team.vpool < n →
          (o.d = 0 → exec i s = .next s.wait)
          ∧ (o.d ≠ 0 → ∃ t, exec i s = .next t ∧ went t ∧ t.triple o.d.toNat = 0
              ∧ (∀ r, r / 3 ≠ o.d.toNat → t.rg r = c.rg r)
              ∧ t = { c with grp := { c.grp with g := t.grp.g }, frag := t.frag }))
      ∧ (old + 32 * n ≤ 1024 → n ≤ s.team.vpool →
          ∃ t, exec i s = .next t ∧ went t
            ∧ (∀ r l, old ≤ r → l < 96 → t.lane r l = if s.team.hdr.poison then BitVec.ofNat 32 (0x7F810000 + r) else 0)
            ∧ (o.d ≠ 0 → t.triple o.d.toNat = allLanes)
            ∧ (∀ r, o.d = 0 ∨ r / 3 ≠ o.d.toNat → t.rg r = c.rg r)
            ∧ t = { c with
                grp := { c.grp with vcount := old + 32 * n, g := t.grp.g, v := c.grp.v.filter fun p => decide (p.1 < old) },
                team := { c.team with vpool := s.team.vpool - n }, frag := t.frag })

/-! ### Group code: control -/

/-- 05 R129, R137, R143, 02 R39: bra. A target that is no multiple of 4 traps MISALIGN before anything changes; a predicated bra
inside a bracket traps ALLON_NEST. Without a predicate the fragment moves to the target. With one, where all or none of
its lanes are taken it goes to the target or on; otherwise a record is made, or the one that holds the token expects the
fragment's lanes too, and the two parts are placed: the taken part in the other slot if that is empty, else the smaller part (the taken
one on a tie) on the spill stack, in the bytes of its entry, with its pc. A seventeenth record and a full spill stack trap
SPLIT_OVERFLOW; where both are full the record's comes first, with the token.
Where the manual is open or is read by inference, it follows the model's choices of log 21 (DEDUCED), log 54 (DESIGN CHOICE: which of two
full tables traps first). -/
def Obligations.BranchResults : Prop :=
  ∀ (o : LOp) (s : State), s.laneCheck (.bra o) o = none →
    let target := s.frag.pc + o.imm.signExtend 64
    let next := s.frag.pc + 12
    let old := s.frag.mask
    let taken := old &&& s.enabled o
    let left := old &&& ~~~s.enabled o
    let other := s.grp.slotOf !s.cur.slotB
    let tok := bits o.a 5 0 * 1024 + o.d.toNat
    let nested := s.frag.bracket = true ∧ o.ps ≠ 0
    let known := ∃ r ∈ s.grp.split, r.token = tok
    (nested → exec (.bra o) s = .next (s.raise { cause := 0x0A, tval := 2 } 12))
    ∧ (¬nested → target.toNat % 4 ≠ 0 → exec (.bra o) s = .next (s.raise { cause := 0x0B, tval := target } 12))
    ∧ (target.toNat % 4 = 0 → o.ps = 0 → ∃ t, exec (.bra o) s = .next t ∧ WentOnly s t target)
    ∧ (s.frag.bracket = false → target.toNat % 4 = 0 → o.ps ≠ 0 →
      (left = 0 → ∃ t, exec (.bra o) s = .next t ∧ WentOnly s t target)
      ∧ (left ≠ 0 → taken = 0 → ∃ t, exec (.bra o) s = .next t ∧ WentOnly s t next)
      ∧ (left ≠ 0 → taken ≠ 0 →
        (¬known → 16 ≤ s.grp.split.length → exec (.bra o) s = .next (s.raise { cause := 0x09, tval := BitVec.ofNat 64 tok } 12))
        ∧ (known ∨ s.grp.split.length < 16 → other.valid = true → s.team.hdr.spill ≤ s.grp.spills →
            exec (.bra o) s = .next (s.raise { cause := 0x09, tval := BitVec.ofNat 64 (0x10000 + tok) } 12))
        ∧ (known ∨ s.grp.split.length < 16 → other.valid = false ∨ s.grp.spills < s.team.hdr.spill →
            ∃ t, exec (.bra o) s = .next t ∧ SameMemory s t
              ∧ (known → t.grp.split = s.grp.split.map fun r => if r.token = tok then { r with expected := r.expected ||| old } else r)
              ∧ (¬known → t.grp.split = s.grp.split ++ [{ token := tok, expected := old }])
              ∧ (other.valid = false →
                  t = { s with grp := t.grp, frag := t.frag }
                  ∧ t.grp = { s.grp.setSlot (!s.cur.slotB) { valid := true, pc := target, mask := taken } with split := t.grp.split }
                  ∧ t.frag = { s.frag with
                      mask := left, pc := next, hold := false,
                      windows := s.frag.windows.map fun w => { w with left := w.left - 1, passed := w.passed + 1 } })
              ∧ (other.valid = true →
                  let big := laneCount left < laneCount taken
                  let m := if big then left else taken
                  let pc := if big then next else target
                  let a := s.team.hdr.spad - s.team.hdr.groups * s.team.hdr.spill * 32
                    + 32 * (s.cur.gid * s.team.hdr.spill + s.grp.spills)
                  t = { s with
                    grp := { s.grp with split := t.grp.split, spills := s.grp.spills + 1 },
                    team := { s.team with win := t.team.win }, cores := (s.count 0x08 1).cores, frag := t.frag }
                  ∧ t.frag = { s.frag with
                      mask := if big then taken else left, pc := if big then target else next, hold := false,
                      windows := s.frag.windows.map fun w => { w with left := w.left - 1, passed := w.passed + 1 } }
                  ∧ readBytes t.team.win a 12 = m.toNat ∧ readBytes t.team.win (a + 16) 8 = pc.toNat
                  ∧ ∀ b, b < a ∨ a + 32 ≤ b → readByte t.team.win b = readByte s.team.win b))))

/-- 05 R130, R131, R133, R143: join and joint pass where no record holds their token. Where one does, the record's lanes
arrive: its first arrival fixes where it goes on, joint arms its timer once, every newer record stops expecting the lanes,
and the fragment leaves its slot; records that are complete become pending and records that expect no lane are deleted.
exit takes its lanes out of every record. Inside a bracket the three trap ALLON_NEST.
Where the manual is open or is read by inference, it follows the model's choices of log 32 (DEDUCED). -/
def Obligations.JoinAndExitResults : Prop :=
  ∀ s : State,
    let m := s.frag.mask
    let settled (rs : List SplitRec) : List SplitRec :=
      (rs.map fun r => if r.arrived ≠ 0 ∧ r.arrived = r.expected then { r with pending := true, armed := false } else r).filter
        fun r => r.expected != 0 || r.released != []
    let nest (i : Instr) : Prop :=
      s.frag.bracket = true → exec i s = .next (s.raise { cause := 0x0A, tval := 2 } i.size)
    let joins (i : Instr) (o : LOp) (budget : Option Nat) : Prop :=
      let tok := bits o.a 5 0 * 1024 + o.d.toNat
      s.laneCheck i o = none →
        nest i
        ∧ (s.frag.bracket = false → (∀ r ∈ s.grp.split, r.token ≠ tok) →
            ∃ t, exec i s = .next t ∧ WentOnly s t (s.frag.pc + BitVec.ofNat 64 i.size))
        ∧ (s.frag.bracket = false → ∀ pre r post, s.grp.split = pre ++ r :: post → (∀ q ∈ pre, q.token ≠ tok) → r.token = tok →
            let r1 := if r.arrived = 0 then { r with cont := s.frag.pc + BitVec.ofNat 64 i.size, joinPc := s.frag.pc } else r
            let r2 := match budget with
              | some b => if r.armed then r1 else { r1 with armed := true, budget := b }
              | none => r1
            let r3 := { r2 with expected := r.expected ||| m, arrived := r.arrived ||| m }
            let newer := post.map fun q => { q with expected := q.expected &&& ~~~m }
            ∃ t, exec i s = .next t ∧ LeftSlot s t (settled (pre ++ r3 :: newer)))
    (∀ o, joins (.join o) o none) ∧ (∀ o, joins (.joint o) o (some o.imm.toNat))
    ∧ ∀ o, s.laneCheck (.exit o) o = none →
        nest (.exit o)
        ∧ (s.frag.bracket = false → ∃ t, exec (.exit o) s = .next t
            ∧ LeftSlot s t (settled (s.grp.split.map fun r => { r with expected := r.expected &&& ~~~m })))

/-- 05 R137, R143, 02 R39: call writes its return address into the pair D of every enabled lane and goes to its target; ret goes
to the pair A of its lowest enabled lane (a fragment without one goes to a free aligned address, DESIGN CHOICE, log 9). A target that is no multiple of 4 traps MISALIGN; inside a bracket both trap
ALLON_NEST, whatever their target: that the bracket is examined before the target is the model's reading (log 21, DEDUCED). -/
def Obligations.CallAndReturnResults : Prop :=
  ∀ (o : LOp) (s : State),
    let target := s.frag.pc + o.imm.signExtend 64
    (s.laneCheck (.call o) o = none →
      (s.frag.bracket = true → exec (.call o) s = .next (s.raise { cause := 0x0A, tval := 2 } 12))
      ∧ (s.frag.bracket = false → target.toNat % 4 ≠ 0 →
          exec (.call o) s = .next (s.raise { cause := 0x0B, tval := target } 12))
      ∧ (s.frag.bracket = false → target.toNat % 4 = 0 → ∃ t, exec (.call o) s = .next t
          ∧ t = { s with grp := { s.grp with v := t.grp.v }, frag := t.frag } ∧ Went s t target ∧ SameMemory s t
          ∧ LanesWritten s t (s.enabled o) o.d.toNat true fun _ => (s.frag.pc + 12).toNat))
    ∧ (s.laneCheck (.ret o) o = none → ∀ l, (lanesOf (s.enabled o)).head? = some l →
      let back := BitVec.ofNat 64 (s.laneVal true o.a.toNat l)
      (s.frag.bracket = true → exec (.ret o) s = .next (s.raise { cause := 0x0A, tval := 2 } 8))
      ∧ (s.frag.bracket = false → back.toNat % 4 ≠ 0 → exec (.ret o) s = .next (s.raise { cause := 0x0B, tval := back } 8))
      ∧ (s.frag.bracket = false → back.toNat % 4 = 0 → ∃ t, exec (.ret o) s = .next t ∧ WentOnly s t back))
    ∧ (s.laneCheck (.ret o) o = none → lanesOf (s.enabled o) = [] → s.frag.bracket = false →
      ∃ t pc, exec (.ret o) s = .next t ∧ pc.toNat % 4 = 0 ∧ WentOnly { s with freeCount := s.freeCount + 1 } t pc)

/-- 05 R142: allon saves the mask and opens the bracket, in which every lane passes the mask test; alloff restores the mask
and closes it; a second allon and an alloff without a bracket trap ALLON_NEST, TVAL 0 and 1.

05 R138-R140, 01 R25: dqtake gives the group's next decision-queue entry to a g pair (F = 0) or to the pair D of every
enabled lane (F = 1), advances the group's read position, and frees what every live group has taken; with nothing to
take it waits, which is counted once, and after sexit it traps WATCHDOG with DQSTAT in TVAL. -/
def Obligations.BracketAndDecisionResults : Prop :=
  (
    ∀ (o : LOp) (s : State),
      let went (t : State) (f : Fragment) : Prop :=
        t = { s with frag := t.frag } ∧ SameMemory s t
        ∧ t.frag = { f with
            pc := s.frag.pc + 8, hold := false,
            windows := s.frag.windows.map fun w => { w with left := w.left - 1, passed := w.passed + 1 } }
      (s.laneCheck (.allon o) o = none →
        (s.frag.bracket = true → exec (.allon o) s = .next (s.raise { cause := 0x0A, tval := 0 } 8))
        ∧ (s.frag.bracket = false → ∃ t, exec (.allon o) s = .next t
            ∧ went t { s.frag with bsave := s.frag.mask, bracket := true }
            ∧ ∀ q : LOp, q.ps = 0 → t.enabled q = BitVec.allOnes 96))
      ∧ (s.laneCheck (.alloff o) o = none →
        (s.frag.bracket = false → exec (.alloff o) s = .next (s.raise { cause := 0x0A, tval := 1 } 8))
        ∧ (s.frag.bracket = true → ∃ t, exec (.alloff o) s = .next t
            ∧ went t { s.frag with mask := s.frag.bsave, bracket := false }
            ∧ ∀ q : LOp, q.ps = 0 → t.enabled q = s.frag.bsave)))
  ∧ (
    ∀ (o : LOp) (s : State), s.laneCheck (.dqtake o) o = none →
      let pushed := s.team.dqFreed + s.team.dq.length
      let x := s.team.dq.getD (s.grp.taken - s.team.dqFreed) 0
      let quiet := { s with frag := { s.frag with dqWait := false } }
      let took (t : State) : Prop :=
        t.grp.taken = s.grp.taken + 1
        ∧ t = { s with
            grp := { s.grp with g := t.grp.g, v := t.grp.v, taken := t.grp.taken },
            team := freeDq { s.team with groups := s.team.groups.set s.cur.gid t.grp }, frag := t.frag }
        ∧ Went quiet t (s.frag.pc + 8) ∧ SameMemory s t ∧ SameWindow s t
      (pushed ≤ s.grp.taken → s.team.srun = true →
        (s.frag.dqWait = true → exec (.dqtake o) s = .next s.wait)
        ∧ (s.frag.dqWait = false →
            exec (.dqtake o) s = .next ({ s with frag := { s.frag with dqWait := true } }.wait.count 0x0A 1)))
      ∧ (pushed ≤ s.grp.taken → s.team.srun = false →
          exec (.dqtake o) s = .next (s.raise { cause := 0x21, tval := (dqstat s.team s.grp).zeroExtend 64 } 8))
      ∧ (s.grp.taken < pushed → o.f = 0 → 3 ≤ o.d.toNat → ∃ t, exec (.dqtake o) s = .next t ∧ took t
          ∧ (∀ r, t.rg r = if r = o.d.toNat then x.setWidth 32
              else if r = o.d.toNat + 1 then (x >>> 32).setWidth 32 else s.rg r)
          ∧ ∀ r l, l < 96 → t.lane r l = s.lane r l)
      ∧ (s.grp.taken < pushed → o.f ≠ 0 → ∃ t, exec (.dqtake o) s = .next t ∧ took t
          ∧ LanesWritten s t (s.enabled o) o.d.toNat true (fun _ => x.toNat) ∧ ∀ r, t.rg r = s.rg r))

/-- 05 R144-R149: the exchanges among the enabled lanes. vote writes its ballot to all 96 lanes and its other forms to the
enabled ones; shfl and qswap read another enabled lane, or the lane's own value; qdiff rounds one difference within the
quad, or gives +0 where a lane it needs is not enabled; scan and redc fold the enabled lanes in ascending order, one
operation and one rounding per step. -/
def Obligations.LaneExchanges : Prop :=
  ∀ (o : LOp) (s : State),
    let m := s.enabled o
    let on (l : Nat) : Bool := m.getLsbD l
    (s.laneCheck (.vote o) o = none → 1 ≤ o.d.toNat → ∃ t, exec (.vote o) s = .next t
      ∧ t = { s with grp := { s.grp with g := t.grp.g }, frag := t.frag } ∧ Went s t (s.frag.pc + 8) ∧ SameMemory s t
      ∧ (∀ r, r / 3 ≠ o.d.toNat → t.rg r = s.rg r)
      ∧ let a (l : Nat) : Bool := (s.triple o.a.toNat).getLsbD l
        ∀ l, l < 96 → (t.triple o.d.toNat).getLsbD l =
          match bits o.f 1 0 with
          | 0 => on l && a l
          | 1 => if on l then (List.range 96).any fun k => on k && a k else (s.triple o.d.toNat).getLsbD l
          | 2 => if on l then (List.range 96).all fun k => !on k || a k else (s.triple o.d.toNat).getLsbD l
          | _ => if on l then (List.range 96).all fun k => (List.range 96).all fun j => !on k || !on j || a k == a j
              else (s.triple o.d.toNat).getLsbD l)
    ∧ LaneGives (.shfl o) o (bit o.f 2) (fun s l =>
        let d := s.srcB o false false l
        let k : Int := match bits o.f 1 0 with | 0 => d | 1 => l - d | 2 => l + d | _ => (l ^^^ d : Nat)
        if 0 ≤ k ∧ k ≤ 95 ∧ (s.enabled o).getLsbD k.toNat then s.srcA o (bit o.f 2) k.toNat else s.srcA o (bit o.f 2) l)
    ∧ LaneGives (.qswap o) o false (fun s l =>
        let k := l / 4 * 4 + (if bits o.f 1 0 = 0 then bits o.f 3 2 else (l % 4) ^^^ bits o.f 1 0)
        s.srcA o false (if (s.enabled o).getLsbD k then k else l))
    ∧ (s.laneCheck (.qdiff o) o = none →
        let pair (l : Nat) : Nat × Nat :=
          let q := l / 4 * 4
          let p := l % 4
          match bit o.f 1, bit o.f 0 with
          | false, false => (q + (p ||| 1), q + (p &&& 2))
          | false, true => (q + (p ||| 2), q + (p &&& 1))
          | true, false => (q + 1, q)
          | true, true => (q + 2, q)
        let r (l : Nat) : Nat × W32 :=
          if on (pair l).1 && on (pair l).2 then
            fAdd fmtF32 (roundingOf (bits o.f 3 2) s.grp.fpctl) (bit s.grp.fpctl 2) true
              (s.srcA o false (pair l).1) (s.srcA o false (pair l).2)
          else (0, 0)
        ∃ t, exec (.qdiff o) s = .next t ∧ LaneDone s t 8 m o.d.toNat false (fun l => (r l).1) (unionFlags m fun l => (r l).2))
    ∧ (let ls := lanesOf m
       let fold (ks : List Nat) : Nat × W32 :=
         match ks.map fun k => s.srcA o false k with
         | [] => (0, 0)
         | x :: xs => xs.foldl (fun c y => ((foldOp o.f.toNat s.grp.fpctl c.1 y).1, c.2 ||| (foldOp o.f.toNat s.grp.fpctl c.1 y).2)) (x, 0)
       (s.laneCheck (.scan o) o = none → ∃ t, exec (.scan o) s = .next t
         ∧ LaneDone s t 8 m o.d.toNat false (fun l => (fold (ls.takeWhile fun k => decide (k ≤ l))).1) (fold ls).2)
       ∧ (s.laneCheck (.redc o) o = none → ∃ t, exec (.redc o) s = .next t
         ∧ LaneDone s t 8 m o.d.toNat false (fun _ => (fold ls).1) (fold ls).2))

/-! ### Group code: memory -/

/-- 07 R175-R177, R197, 06 R156: window accesses of group code. The lowest lane whose address is not aligned traps MISALIGN, one
outside the window's range SPAD_RANGE with the first byte outside, one in a sector that another group has written RACE. Where
every enabled lane's address is aligned, below the spill stacks (for a store at or above byte 384) and free of a race fault: lds loads 1, 2, 4, 8 or 16 bytes, sign-extended for the
signed sizes; sts stores the lanes' registers, the highest of two lanes that meet remaining, and leaves helper lanes out;
atoms returns the old values of its elements, one lane after the other. Nothing outside the bytes stored changes.
Where the manual is open or is read by inference, it follows the model's choices of log 2 (DESIGN CHOICE), log 6 (DEDUCED), log 14 (DESIGN
CHOICE: when a fault is reported),
log 64 (DESIGN CHOICE: what holds an entry of the return buffer). -/
def Obligations.WindowAccesses : Prop :=
  ∀ (o : LOp) (s : State),
    let m := s.enabled o
    let ls := lanesOf m
    let size := (spadSize o.f).1
    let signed := (spadSize o.f).2
    let at_ (l : Nat) : Int := s.spadAddr o l
    let ok (n : Nat) (write race : Bool) (a : Int) : Prop :=
      a % n = 0 ∧ 0 ≤ a ∧ (write = true → 384 ≤ a) ∧ a + n ≤ spillBase s.team ∧ (race = true → raceFault s.team s.grp.gid a.toNat n = none)
    let fault (n : Nat) (write race : Bool) (a : Int) : Option Trap := windowTrap s.team s.grp.gid n write race a
    let faults (i : Instr) (n : Nat) (write race : Bool) (at_ : Nat → Int) : Prop :=
      s.laneCheck i o = none → ∀ l ∈ ls, ∀ f, fault n write race (at_ l) = some f → (∀ k ∈ ls, k < l → fault n write race (at_ k) = none) →
        ∃ t, exec i s = .next t ∧ StopsLong s t o.la.toNat o.size [] (.trap f)
    s.bufferFull = false →
    faults (.lds o) size false true at_ ∧ faults (.sts o) size true true at_
    ∧ faults (.atoms o) (if bit o.f 3 then 8 else 4) true false (fun l => (s.lane o.a.toNat l).toNat + byteOff o)
    ∧
    (s.laneCheck (.lds o) o = none → (∀ l ∈ ls, ok size false true (at_ l)) →
      let value (l : Nat) : Nat :=
        let x := winRead s.team (at_ l).toNat size
        if signed then (BitVec.signExtend 32 (BitVec.ofNat (8 * size) x)).toNat else x
      ∃ u k, exec (.lds o) s = .next (u.count 0x05 k)
        ∧ LongIssued s u o.la.toNat o.size 0 (regsResult o.d.toNat (max 1 (size / 4)) m (ls.map fun l => (l, value l))) 0)
    ∧ (s.laneCheck (.sts o) o = none → (∀ l ∈ ls, ok size true true (at_ l)) →
      let writes (l b : Nat) : Prop := l ∈ ls ∧ s.isHelper l = false ∧ (at_ l).toNat ≤ b ∧ b < (at_ l).toNat + size
      ∃ w u k, exec (.sts o) s = .next (u.count 0x05 k)
        ∧ LongIssued w u o.la.toNat o.size 0 [] 0
        ∧ w = { s with team := { s.team with win := w.team.win, race := w.team.race } }
        ∧ (∀ b, (∀ l, ¬writes l b) → readByte w.team.win b = readByte s.team.win b)
        ∧ (∀ l b, writes l b → (∀ k, l < k → ¬writes k b) →
            readByte w.team.win b = BitVec.ofNat 8 (s.regsVal o.b.toNat (max 1 (size / 4)) l / 256 ^ (b - (at_ l).toNat)))
        ∧ (s.team.hdr.raceCheck = false → w.team.race = s.team.race)
        ∧ (s.team.hdr.raceCheck = true → ∀ l ∈ ls, s.isHelper l = false →
            w.team.race.lookup ((at_ l).toNat / 32) = some (s.grp.gid, s.team.raceGen)))
    ∧ (s.laneCheck (.atoms o) o = none →
      let n := if bit o.f 3 then 8 else 4
      let off : Int := byteOff o
      let addr (l : Nat) : Int := (s.lane o.a.toNat l).toNat + off
      (∀ l ∈ ls, ok n true false (addr l)) →
      let r := s.atomsWin (bits o.f 2 0) o.sub.toNat n (s.atomArgs o) (ls.map fun l => (l, (addr l).toNat))
      ∃ u k, exec (.atoms o) s = .next (u.count 0x05 k)
        ∧ LongIssued r.1 u o.la.toNat o.size 0 (regsResult o.d.toNat (n / 4) m r.2) 0
        ∧ r.1 = { s with team := { s.team with win := r.1.team.win } }
        ∧ (∀ b, (∀ l ∈ ls, s.isHelper l = false → ¬((addr l).toNat ≤ b ∧ b < (addr l).toNat + n)) →
            readByte r.1.team.win b = readByte s.team.win b)
        ∧ (∀ l, ls = [l] → s.isHelper l = false →
            let a := (addr l).toNat
            let old := winRead s.team a n
            r.2 = [(l, old)]
            ∧ readBytes r.1.team.win a n =
                atomValue (bits o.f 2 0) o.sub.toNat n old (s.atomArgs o l).1 (s.atomArgs o l).2 % 2 ^ (8 * n)))

/-- 07 R180-R190: ldb and pfb. With no lane enabled ldb only issues; otherwise, where the record is valid and no lane's element
faults, every enabled lane takes its element's conversion, or 0 for one out of bounds, into one register (two for T = 1
and 4). With no reduction pending at a home slice nothing else changes but the core's record cache and counters and the
cluster's credit for zero sectors; no byte of memory or of the window does. pfb changes no register and no
memory.

06 R156, 07 R181-R183, R187: where the record or an element faults, the instruction stops: the lowest lane's trap, or else every
replayable fault. A record beyond the count raises RECORD_FAULT; an element that is not aligned, in its buffer or in the window, MISALIGN with its address, one out
of bounds under BMODE 2 BOUNDS with its index, one of a format that the instruction does not allow RECORD_FAULT.
Where the manual is open or is read by inference, it follows the model's choices of log 6 (DEDUCED), log 7 (DEDUCED), log 14 (DESIGN
CHOICE), log 33 (DEDUCED), log 35 (DEDUCED), log 50 (DEDUCED),
log 64 (DESIGN CHOICE: what holds an entry of the return buffer). -/
def Obligations.RecordLoads : Prop :=
  (∀ (o : LOp) (s : State), s.bufferFull = false →
    let m := s.enabled o
    let t := bits o.f 2 0
    let acc : Acc := { kind := 0 }
    let core := s.team.core
    (s.laneCheck (.ldb o) o = none → m = 0 → ∃ u, exec (.ldb o) s = .next u ∧ LongIssued s u o.la.toNat o.size 0 [] 0)
    ∧ (s.laneCheck (.ldb o) o = none → m ≠ 0 → ∀ s1 r es, s.bufferRec acc o.sub.toNat = .ok (s1, r) →
        s1.elems o r acc (elemWidth r.fmt) (loadAllowed t r.fmt) true (fun _ _ => false) = .ok es →
        ∃ u, exec (.ldb o) s = .next u
          ∧ (s.redQueues = [] →
              LongIssued { s with cores := u.cores, clusters := u.clusters } u o.la.toNat o.size 0
                (regsResult o.d.toNat (if t = 1 ∨ t = 4 then 2 else 1) m (es.map fun p => (p.1, match p.2 with
                  | none => 0
                  | some e => loadConv t r.fmt (s.readElem e).2 (s.loadParts e.scale).2))) 0
              ∧ (∀ k, k ≠ core → u.core k = s.core k)
              ∧ u.core core = { s.core core with recs := (u.core core).recs, pmc := (u.core core).pmc }
              ∧ (∀ k, k ≠ core / 24 → u.cluster k = s.cluster k)
              ∧ u.cluster (core / 24) = { s.cluster (core / 24) with
                  crec := (s.cluster (core / 24)).crec - BitVec.ofNat 32 (64 * s1.zeroSectors es) }))
    ∧ (s.laneCheck (.pfb o) o = none → ∃ u, exec (.pfb o) s = .next u ∧ LongIssued s u o.la.toNat o.size 0 [] 0)
    ∧ (s.laneCheck (.ldb o) o = none → m ≠ 0 →
        (∀ st, s.bufferRec acc o.sub.toNat = .error st → ∃ u, exec (.ldb o) s = .next u ∧ StopsLong s u o.la.toNat o.size [] st)
        ∧ ∀ s1 r st ps, s.bufferRec acc o.sub.toNat = .ok (s1, r) →
            s1.elems o r acc (elemWidth r.fmt) (loadAllowed t r.fmt) true (fun _ _ => false) = .error (st, ps) →
            ∃ u, exec (.ldb o) s = .next u ∧ StopsLong s1 u o.la.toNat o.size ps st))
  ∧ (∀ (s : State) (acc : Acc) (n : Nat), s.team.hdr.recCount ≤ n →
      s.bufferRec acc n = .error (.trap { cause := 0x12, tval := BitVec.ofNat 64 n }))
  ∧ (∀ rs : List (Nat × Except Stop (Option Elem)), LowestFault rs)
  ∧ ∀ (s : State) (r : Rec) (sub : Nat) (acc : Acc) (w : Nat) (allowed load : Bool) (i : Nat) (off : Int) (part : Nat → Bool),
      let p := r.pos w i off
      let e := s.elem r sub acc w allowed load i off part
      let inside : Prop := 0 ≤ p ∧ p + w ≤ 8 * r.size
      let record : Stop := .trap { cause := 0x12, tval := BitVec.ofNat 64 sub }
      -- a window element whose address is no multiple of its size
      let away : Prop := r.kind = 1 ∧ 8 ≤ w ∧ ((r.base.toNat : Int) + p / 8) % ((w / 8 : Nat) : Int) ≠ 0
      (p % w ≠ 0 → e = .error (.trap { cause := 0x0B, tval := r.base + BitVec.ofInt 64 (p / 8) }))
      ∧ (p % w = 0 → away → inside ∨ r.bmode = 2 →
          e = .error (.trap { cause := 0x0B, tval := BitVec.ofInt 64 ((r.base.toNat : Int) + p / 8) }))
      ∧ (p % w = 0 → ¬away → ¬inside → r.bmode = 2 →
          e = .error (if allowed = true ∧ r.ok = true then .trap { cause := 0x13, tval := BitVec.ofNat 64 i } else record))
      ∧ (p % w = 0 → ¬inside → r.bmode = 0 ∨ (r.bmode ≠ 2 ∧ load = false) → allowed = true → r.ok = true → e = .ok none)
      ∧ (p % w = 0 → ¬away → inside → part (r.elemAt w p.toNat) = true →
          e = .error (.trap { cause := 0x0B, tval := BitVec.ofNat 64 (r.elemAt w p.toNat / 32 * 32) }))
      ∧ (p % w = 0 → ¬away → inside → part (r.elemAt w p.toNat) = false → allowed = false ∨ r.ok = false → e = .error record)

/-- 07 R186-R189: stb, where the record is valid, no lane's element faults and no reduction is pending: only bytes of the
elements of enabled lanes other than helper lanes change, in device memory, host memory or the window; one lane's whole
element in device memory then holds the converted data. The bank-conflict cycles of window elements are counted. Beside memory only the record cache, the cluster's credit for zero
sectors (15 R401) and, for a checked record, the race records of the sectors that these elements touch (R197) change; no
register does. Where the record or an element faults, the instruction stops (06 R156).
Where the manual is open or is read by inference, it follows the model's choices of log 6 (DEDUCED), log 14 (DESIGN CHOICE), log 35
(DEDUCED), log 50 (DEDUCED),
log 64 (DESIGN CHOICE: what holds an entry of the return buffer). -/
def Obligations.RecordStores : Prop :=
  ∀ (o : LOp) (s : State), s.bufferFull = false → s.laneCheck (.stb o) o = none →
    let m := s.enabled o
    let t := bits o.f 2 0
    let sat := bit o.f 3
    let acc : Acc := { kind := 1, write := true }
    let cl := s.team.core / 24
    let blk (s1 : State) (r : Rec) (l j : Nat) : Bool :=
      isMx r.fmt && !s1.isHelper l
        && decide (((s1.writtenElems o r (elemWidth r.fmt)).filter fun k => k / 32 == j / 32).length < 32)
    (m = 0 → ∃ u, exec (.stb o) s = .next u ∧ LongIssued s u o.la.toNat o.size 0 [] 0)
    ∧ (m ≠ 0 → s.redQueues = [] → ∀ s1 r es, s.bufferRec acc o.sub.toNat = .ok (s1, r) →
      s1.elems o r acc (elemWidth r.fmt) (storeAllowed t sat r.fmt) false (blk s1 r) = .ok es →
      let sector (k : Nat) : Prop :=
        s.team.hdr.raceCheck = true ∧ r.race = true ∧ ∃ p ∈ es, s.isHelper p.1 = false ∧ ∃ e a, p.2 = some e ∧ e.place = .window a
          ∧ a / 32 ≤ k ∧ k ≤ (a + e.n - 1) / 32
      ∃ u, exec (.stb o) s = .next (u.count 0x05 (elemConflicts es))
        ∧ LongIssued
            { s with
              mem := u.mem, hostMem := u.hostMem, cores := u.cores, clusters := u.clusters,
              team := { s.team with win := u.team.win, race := u.team.race } }
            u o.la.toNat o.size 0 [] 0
        ∧ CachesOnly s u
        ∧ (∀ k, k ≠ cl → u.cluster k = s.cluster k)
        ∧ u.cluster cl = { s.cluster cl with
            crec := (s.cluster cl).crec - BitVec.ofNat 32 (64 * s1.zeroSectors (es.filter fun e => !s.isHelper e.1)) }
        ∧ (∀ sp a, Untouched s es sp a → u.byteIn sp a = s.byteIn sp a)
        ∧ (∀ k, (sector k → u.team.race.lookup k = some (s.grp.gid, s.team.raceGen))
            ∧ (¬sector k → u.team.race.lookup k = s.team.race.lookup k))
        ∧ (r.race = false → u.team.race = s.team.race)
        ∧ ∀ l e a, es = [(l, some e)] → s.isHelper l = false → e.place = .global [(.dev a, e.n)] → e.scale = [] →
            e.pos % 8 = 0 → e.w = 8 * e.n →
            readBytes u.mem a e.n =
              storeConv t sat r.fmt (s.regsVal o.b.toNat (if t = 1 ∨ t = 4 then 2 else 1) l) % 2 ^ (8 * e.n))
    ∧ (m ≠ 0 →
        (∀ st, s.bufferRec acc o.sub.toNat = .error st → ∃ u, exec (.stb o) s = .next u ∧ StopsLong s u o.la.toNat o.size [] st)
        ∧ ∀ s1 r st ps, s.bufferRec acc o.sub.toNat = .ok (s1, r) →
            s1.elems o r acc (elemWidth r.fmt) (storeAllowed t sat r.fmt) false (blk s1 r) = .error (st, ps) →
            ∃ u, exec (.stb o) s = .next u ∧ StopsLong s1 u o.la.toNat o.size ps st)

/-- 07 R198-R208: atom, gred and patom through a record, where the record is valid, no lane's element faults and no reduction is
pending. Only bytes of the elements of lanes other than helper lanes change (for patom, of the 128-byte lines that hold
them); beside memory the record cache, the cluster's credit for zero sectors and, for gred, its count of merged
reductions. For one lane in device memory: atom returns the old element and leaves the operation's value; gred leaves memory
as it is and its operand in the write queue of the line's home slice; patom leaves the line, and returns the value, that
its routine computes. Where the record or an element faults, the instruction stops (06 R156); a routine whose entry is not valid
traps ILLEGAL_ENC (R205). The bank-conflict cycles of atom and gred in the window are counted.
Where the manual is open or is read by inference, it follows the model's choices of log 6 (DEDUCED), log 14 (DESIGN CHOICE), log 35
(DEDUCED),
log 64 (DESIGN CHOICE: what holds an entry of the return buffer). -/
def Obligations.RecordAtomics : Prop :=
  (∀ (o : LOp) (s : State), s.bufferFull = false → s.enabled o ≠ 0 →
    let m := s.enabled o
    let n := if bit o.f 3 then 8 else 4
    let op := bits o.f 2 0
    let acc : Acc := { kind := 2, write := true }
    let la := o.la.toNat
    let cl := s.team.core / 24
    let working (es : List (Nat × Option Elem)) := es.filter fun e => !s.isHelper e.1
    let base (u : State) : State :=
      { s with mem := u.mem, hostMem := u.hostMem, cores := u.cores, clusters := u.clusters, team := { s.team with win := u.team.win } }
    let credit (s1 u : State) (es : List (Nat × Option Elem)) : Prop :=
      CachesOnly s u ∧ (∀ k, k ≠ cl → u.cluster k = s.cluster k)
      ∧ (u.cluster cl).crec = (s.cluster cl).crec - BitVec.ofNat 32 (64 * s1.zeroSectors es)
    let crecOnly (u : State) : Prop := u.cluster cl = { s.cluster cl with crec := (u.cluster cl).crec }
    let located (s1 : State) (r : Rec) : Except (Stop × List PageReq) (List (Nat × Option Elem)) :=
      gather ((lanesOf m).map fun l => (l, s1.hostCheck false (r.base + BitVec.ofInt 64 (r.pos (elemWidth r.fmt) (s1.elemIndex o l) 0 / 8))
        (s1.elem { r with race := false } o.sub.toNat acc (elemWidth r.fmt)
          (r.fmt == 0x04 || r.fmt == 0x05 || r.fmt == 0x08 || r.fmt == 0x09) false (s1.elemIndex o l) 0 (fun _ => false))))
    let routine (ws : List W32) : Prop := (s.vf s.team.vf).routines.lookup o.imm.toNat = some ws
    -- a patom that stops: where a replayable fault holds it, its index is noted, in the window it opens or with its address (14 R385)
    let held (s1 u : State) (ps : List PageReq) (st : Stop) : Prop :=
      ∃ t, StopsLong { s1 with frag := { s.frag with patom := none } } t la o.size ps st
        ∧ u = { t with frag := { t.frag with windows := u.frag.windows, patom := u.frag.patom } }
        ∧ (t.frag.park ≠ [] → t.frag.pc = s.frag.pc → u.frag.patom = some (s.frag.pc, o.imm.toNat))
        ∧ (t.frag.park = [] ∨ t.frag.pc ≠ s.frag.pc → u.frag.patom = t.frag.patom)
        ∧ ∀ i, u.frag.windows[i]? = t.frag.windows[i]?.map fun w =>
            if i = s.frag.windows.length ∧ w.fault.isSome = true then { w with patom := some o.imm.toNat } else w
    (s.redQueues = [] → ∀ s1 r es, s.bufferRec acc o.sub.toNat = .ok (s1, r) →
      let ty := atomType r.fmt (bit o.f 3)
      (s1.atomElems o r acc op ty (8 * n) = .ok es →
        (s.laneCheck (.atom o) o = none → ∃ u vs, exec (.atom o) s = .next (u.count 0x05 (elemConflicts es))
          ∧ LongIssued (base u) u la o.size 0 (regsResult o.d.toNat (n / 4) m vs) 0
          ∧ credit s1 u es ∧ crecOnly u
          ∧ (∀ sp a, Untouched s es sp a → u.byteIn sp a = s.byteIn sp a)
          ∧ ∀ l e a, es = [(l, some e)] → s.isHelper l = false → e.place = .global [(.dev a, n)] → e.pos % 8 = 0 →
              e.w = 8 * n → e.n = n →
              let old := readBytes s.mem a n
              vs = [(l, old)]
              ∧ readBytes u.mem a n =
                  atomValue op (ty.getD 0) n old (s.atomArgs o l).1 (s.atomArgs o l).2 % 2 ^ (8 * n))
        ∧ (s.laneCheck (.gred o) o = none → ∃ u, exec (.gred o) s = .next (u.count 0x05 (elemConflicts es))
          ∧ LongIssued { base u with redQueues := u.redQueues } u la o.size 0 [] 0
          ∧ credit s1 u (working es)
          ∧ u.cluster cl = { s.cluster cl with crec := (u.cluster cl).crec, ccs := (u.cluster cl).ccs }
          ∧ (∀ sp a, Untouched s es sp a → u.byteIn sp a = s.byteIn sp a)
          ∧ ∀ l e a, es = [(l, some e)] → s.isHelper l = false → e.place = .global [(.dev a, n)] → a % 128 + n ≤ 128 →
              u.mem = s.mem
              ∧ u.redQueues.get [] (sliceOf a) =
                  [{ line := a / 128, op := op, ty := ty.getD 0, width := n,
                     partials := [(a % 128, BitVec.ofNat 64 (s.atomArgs o l).1)] }]))
      ∧ ∀ ws, routine ws → s.laneCheck (.patom o) o = none → located s1 r = .ok es →
          ∃ u vs, exec (.patom o) s = .next u
            ∧ LongIssued { base u with frag := { s.frag with patom := none } } u la o.size 0 (regsResult o.d.toNat 2 m vs) 0
            ∧ credit s1 u (working es) ∧ crecOnly u
            ∧ (∀ sp a, (∀ p ∈ es, s.isHelper p.1 = false → ∀ e line off, p.2 = some e → lineOf e = some (line, off) →
                ¬line.touches sp a) → u.byteIn sp a = s.byteIn sp a)
            ∧ ∀ l e a, es = [(l, some e)] → s.isHelper l = false → e.place = .global [(.dev a, e.n)] →
                let line := a / 128 * 128
                let w := elemWidth r.fmt / 8
                let x := runRoutine ws (readBytes s.mem line 128) (a % 128) w (r.fmt == 0x04)
                  (BitVec.ofNat 64 (s.regsVal o.d.toNat 2 l)) (BitVec.ofNat 64 (s.regsVal (o.d.toNat + 2) 2 l))
                vs = [(l, x.2.toNat)] ∧ readBytes u.mem line 128 = x.1 % 2 ^ 1024)
    ∧ (∀ st, s.bufferRec acc o.sub.toNat = .error st →
        (∀ i, i = Instr.atom o ∨ i = Instr.gred o → s.laneCheck i o = none → ∃ u, exec i s = .next u ∧ StopsLong s u la o.size [] st)
        ∧ ∀ ws, routine ws → s.laneCheck (.patom o) o = none → ∃ u, exec (.patom o) s = .next u ∧ held s u [] st)
    ∧ ∀ s1 r st ps, s.bufferRec acc o.sub.toNat = .ok (s1, r) →
        (s1.atomElems o r acc op (atomType r.fmt (bit o.f 3)) (8 * n) = .error (st, ps) →
          ∀ i, i = Instr.atom o ∨ i = Instr.gred o → s.laneCheck i o = none → ∃ u, exec i s = .next u ∧ StopsLong s1 u la o.size ps st)
        ∧ (located s1 r = .error (st, ps) → ∀ ws, routine ws → s.laneCheck (.patom o) o = none →
            ∃ u, exec (.patom o) s = .next u ∧ held s1 u ps st))
  ∧ (∀ rs : List (Nat × Except Stop (Option Elem)), LowestFault rs)
  ∧ ∀ (o : LOp) (s : State), (s.vf s.team.vf).routines.lookup o.imm.toNat = none →
      exec (.patom o) s = .next (s.raise { cause := 0x01, tval := (Instr.patom o).firstWord.zeroExtend 64 } o.size)

/-! ### Group code: ring, rendezvous, fences, special registers, traps -/

/-- 09 R248-R251, R258, 04 R119-R121: the lane ring instructions. The lanes that take part are the enabled lanes that are no
helper lanes. One action per distinct key of these lanes enters, behind the actions that stand there, the queue of the
key's strand at the issuing core, and the instruction's window waits for as many answers. A board reserves one slot per key, and
traps QUOTA with the first key that finds no room. cvtq and amxcom make one action, with the key from the s register that
B names, where a lane takes part, and none otherwise. No slot changes at issue.
Where the manual is open or is read by inference, it follows the model's choices of log 38 (DEDUCED),
log 64 (DESIGN CHOICE: what holds an entry of the return buffer). -/
def Obligations.LaneRingActions : Prop :=
  ∀ (o : LOp) (s : State), s.bufferFull = false →
    let part : List Nat := (lanesOf (s.enabled o)).filter fun l => !s.isHelper l
    let key (l : Nat) : W32 := s.lane o.a.toNat l
    let keys : List W32 := ((part.map key).reverse.dedup).reverse
    let wide := bit o.imm 12
    let n := if wide then 2 else 1
    let act (kind : Nat) : RingAct :=
      { kind := kind, id := s.ringIssued, uid := s.cur.uid, vf := s.team.vf, ctx := s.team.ctx, win := some (s.cur.gid, s.grp.opened),
        pc := s.frag.pc, dest := o.d.toNat, key := 0, since := s.ringStep }
    let lane (cas : Bool) (l : Nat) : RingLane :=
      { lane := l, field := (bits o.imm 3 0 + if bit o.imm 4 then l else 0) % (if wide then 8 else 16),
        b := BitVec.ofNat 64 (s.regsVal o.b.toNat n l),
        new := BitVec.ofNat 64 (if cas then s.regsVal (o.b.toNat + n) n l else 0) }
    let entered (u : State) (acts : List RingAct) : Prop :=
      (∀ k, k ≠ s.team.core → u.core k = s.core k)
      ∧ u.core s.team.core = { s.core s.team.core with stops := (u.core s.team.core).stops }
      ∧ ∀ st, (u.core s.team.core).stops.get [] st =
          (s.core s.team.core).stops.get [] st ++ acts.filter fun a => a.key.toNat % 8 == st
    let acts (kind op : Nat) (cas : Bool) : List RingAct :=
      keys.zipIdx.map fun k =>
        { act kind with
          id := s.ringIssued + k.2, key := k.1, cw := o.imm, op := op,
          lanes := (part.filter fun l => key l == k.1).map (lane cas) }
    let issues (i : Instr) (kind op : Nat) (cas : Bool) : Prop :=
      s.laneCheck i o = none → ∃ u, exec i s = .next u ∧ entered u (acts kind op cas)
        ∧ LongIssued { s with ringIssued := s.ringIssued + keys.length, cores := u.cores, vfs := u.vfs } u
            o.la.toNat o.size keys.length [] 0
        ∧ ∀ v, u.vf v =
            if kind = 0 ∧ v = s.team.vf then { s.vf v with ringHeld := (s.vf v).ringHeld + keys.length } else s.vf v
    (s.laneCheck (.board o) o = none → (s.vf s.team.vf).quota - (s.vf s.team.vf).ringHeld < keys.length →
      exec (.board o) s = .next (s.raise
        { cause := 0x15, tval := (keys.getD ((s.vf s.team.vf).quota - (s.vf s.team.vf).ringHeld) 0).zeroExtend 64 } o.size))
    ∧ (keys.length ≤ (s.vf s.team.vf).quota - (s.vf s.team.vf).ringHeld → issues (.board o) 0 0 false)
    ∧ issues (.alight o) 1 0 false
    ∧ issues (.wcap o) 2 0 false
    ∧ issues (.wcapUntil o) 3 0 false
    ∧ issues (.wrew o) 4 o.f.toNat (o.f == 9)
    ∧ ∀ i kind amax, (i = Instr.cvtq o ∧ kind = 5 ∧ amax = s.cvtqAmax o
          ∧ s.poisonCheck (s.enabled o) [{ reg := o.a.toNat, count := 1 }] = none) ∨ (i = Instr.amxcom o ∧ kind = 6 ∧ amax = 0) →
        s.laneCheck i o = none →
          (part = [] → ∃ u, exec i s = .next u ∧ LongIssued s u o.la.toNat o.size 0 [] 0)
          ∧ (part ≠ [] → ∃ u, exec i s = .next u
            ∧ entered u [{ act kind with
                key := (s.rs o.b.toNat).truncate 32, op := o.f.toNat, amax := amax,
                lanes := (lanesOf (s.enabled o)).map fun l => { lane := l, b := (key l).zeroExtend 64 } }]
            ∧ LongIssued { s with ringIssued := s.ringIssued + 1, cores := u.cores } u o.la.toNat o.size 1 [] 0)

/-- 15 R396, R397, 10 R274, 06 R164: rdv.arr and rdv.drop send one unit, or the literal's units, to their point, and the
fragment waits for its arrival behind the instruction; rdv.wait goes on where the point's phase is past the phase held in
g register B, by 1 to 2^31 - 1, and else waits; fence and nop only go on.

15 R395, R398, 07 R196: srdv.init gives a point that has none its expected count, less the drops received before, and completes a
phase where the arrivals suffice; srdv.arr sends units whose phase D will receive; srdv.wait goes on past the phase it
holds. A point at or beyond the declared count, and a second init, trap RDV_RANGE.
Where the manual is open or is read by inference, it follows the model's choices of log 6 (DEDUCED). -/
def Obligations.RendezvousInstructions : Prop :=
  (
    ∀ (o : LOp) (s : State),
      let sends (i : Instr) (drop : Bool) : Prop :=
        s.laneCheck i o = none → ∃ t, exec i s = .next t ∧ SameMemory s t ∧ SameWindow s t
          ∧ t = { s with
              team := { s.team with
                units := s.team.units ++
                  [{ point := o.a.toNat, units := if o.isLit then o.imm.toNat else 1, drop := drop,
                     frag := some (s.cur.gid, s.cur.slotB), dest := if bit o.f 0 then some o.d.toNat else none }] },
              frag := { s.frag with
                pc := s.frag.pc + BitVec.ofNat 64 i.size, hold := false, inRdv := true,
                windows := s.frag.windows.map fun w => { w with left := w.left - 1, passed := w.passed + 1 } } }
      sends (.rdvArr o) false ∧ sends (.rdvDrop o) true
      ∧ (s.laneCheck (.rdvWait o) o = none →
          let d := ((s.team.points.get {} o.a.toNat).phase - s.rg o.b.toNat).toNat
          (1 ≤ d ∧ d < 2 ^ 31 → ∃ t, exec (.rdvWait o) s = .next t ∧ WentOnly s t (s.frag.pc + 8))
          ∧ (¬(1 ≤ d ∧ d < 2 ^ 31) → exec (.rdvWait o) s = .next s.wait))
      ∧ (s.laneCheck (.fence o) o = none → ∃ t, exec (.fence o) s = .next t ∧ WentOnly s t (s.frag.pc + 8))
      ∧ (s.laneCheck (.nop o) o = none → ∃ t, exec (.nop o) s = .next t ∧ WentOnly s t (s.frag.pc + 8)))
  ∧ (
    ∀ s : State, s.cur.stream = .scalar →
      let t := s.team
      let point (n : Nat) : Point := t.points.get {} n
      let range (i : Instr) (n size : Nat) : Prop :=
        n ≠ 31 → t.hdr.rdv ≤ n → exec i s = .next (s.raiseScalar { cause := 0x05, tval := BitVec.ofNat 64 n } size)
      (∀ w : S32,
        let n := w.a.toNat
        let c := bits (s.rs w.b.toNat) 15 0
        let e : W32 := BitVec.ofNat 32 ((if c = 0 then 65536 else c) - (point n).expected.toNat)
        let inits (p : Point) (gen : W32) : Prop :=
          ∃ u, exec (.srdvInit w) s = .next u
            ∧ u = { s with team := { t with points := u.team.points, raceGen := gen, spc := t.spc + 4, sphase := 0 } }
            ∧ ∀ k, u.team.points.get {} k = if k = n then p else point k
        range (.srdvInit w) n 4
        ∧ (n = 31 ∨ n < t.hdr.rdv →
          ((point n).init = true →
            exec (.srdvInit w) s = .next (s.raiseScalar { cause := 0x05, tval := BitVec.ofNat 64 (0x80000000 + n) } 4))
          ∧ ((point n).init = false →
            (e.toNat ≤ (point n).arrived.toNat →
              inits { arrived := 0, expected := e, phase := (point n).phase + 1, init := true } (t.raceGen + 1))
            ∧ ((point n).arrived.toNat < e.toNat → inits { point n with init := true, expected := e } t.raceGen))))
      ∧ (∀ i w size units, (i = Instr.srdvArrS32 w ∧ size = 4 ∧ units = 1) ∨
          (∃ o : S64, i = Instr.srdvArrS64 o ∧ w = o.w ∧ size = 8 ∧ units = bits o.e1 15 0) →
          range i w.a.toNat size
          ∧ (w.a.toNat = 31 ∨ w.a.toNat < t.hdr.rdv → exec i s =
              .next { s with
                team := { t with
                  units := t.units ++
                    [{ point := w.a.toNat, units := units, drop := bit w.f 0, scalar := true, dest := some w.d.toNat }],
                  sinRdv := true, spc := t.spc + BitVec.ofNat 64 size, sphase := 0 } }))
      ∧ ∀ w : S32,
        let d := ((point w.a.toNat).phase - (s.rs w.b.toNat).truncate 32).toNat
        range (.srdvWait w) w.a.toNat 4
        ∧ (w.a.toNat = 31 ∨ w.a.toNat < t.hdr.rdv →
          (1 ≤ d ∧ d < 2 ^ 31 → exec (.srdvWait w) s = .next { s with team := { t with spc := t.spc + 4, sphase := 0 } })
          ∧ (¬(1 ≤ d ∧ d < 2 ^ 31) → exec (.srdvWait w) s = .next s.wait)))

/-- 03 R68-R70, 06 R164, R166, 15 R406, R409, R410: sysrd and ssysrd give the value of the register they name; CYC gives a count
that never falls, the amount by which it rises being free (DESIGN CHOICE, log 8). ctrrd gives a counter's value at its issue; of an
event that no turn stands for the value is free (DESIGN CHOICE, log 49).

03 R68, 06 R150, R164, R166, 04 R95, 08 R211, 15 R406, R407: syswr writes the value of the lowest enabled lane, a g
register or a literal, and nothing with no lane enabled; ssyswr writes register A. Only the writable fields of the
register change: FPCTL, TPC, TCAUSE's cause, TVAL, TSTAT's JTO and WDONE (in the scalar stream JTO alone; PEND is read-only), MSTAT. That a
literal is written whatever source F[3] names is the model's reading (log 31, DEDUCED). setperf and ssetperf
set the team's request, clamped to the VF's range; the core's GRANT becomes the highest request of its live teams, and EFF is lowered to
it where it is higher (DEDUCED, log 22).
Where the manual is open or is read by inference, it follows the model's choices of log 20 (DEDUCED), log 36 (DEDUCED),
log 64 (DESIGN CHOICE: what holds an entry of the return buffer). -/
def Obligations.SpecialRegisterAccesses : Prop :=
  (
    let w (x : W32) : W64 := x.zeroExtend 64
    let both : List (Nat × (State → W64)) :=
      [(0x001, fun s => BitVec.ofNat 64 s.team.index), (0x100, fun s => s.team.mbnd), (0x102, fun s => w s.team.mstat),
       (0x104, fun s => w (s.team.mprog.get 0 0)), (0x105, fun s => w (s.team.mprog.get 0 1)),
       (0x106, fun s => w (s.team.mprog.get 0 2)), (0x107, fun s => w (s.team.mprog.get 0 3)),
       (0x108, fun s => BitVec.ofNat 64 (((s.vf s.team.vf).perfMax * 2 ^ 20 + (s.vf s.team.vf).perfMin * 2 ^ 16
          + (s.core s.team.core).eff * 2 ^ 12 + (s.core s.team.core).grant * 2 ^ 8 + s.team.perfReq) % 2 ^ 32)),
       (0x10A, fun s => BitVec.ofNat 64 (s.ringRev.toNat * 2 ^ 32 + (s.vf s.team.vf).quota * 2 ^ 16 + (s.vf s.team.vf).ringHeld)),
       (0x10C, fun s => BitVec.ofNat 64 s.team.vpool),
       (0x10E, fun s => BitVec.ofNat 64 (s.team.core / 192 * 2 ^ 38 + s.team.core / 24 % 8 * 2 ^ 35 + s.team.core % 24 * 2 ^ 30 + s.team.winBase)),
       (0x200, fun s => BitVec.ofNat 64 s.team.core), (0x201, fun s => BitVec.ofNat 64 (s.team.core / 24)),
       (0x202, fun s => BitVec.ofNat 64 (s.team.core / 192)), (0x204, fun s => w (s.feat0 s.team.core)),
       (0x205, fun _ => 0), (0x206, fun _ => 0), (0x207, fun _ => 0), (0x208, fun s => w (s.health s.team.core))]
    let group : List (Nat × (State → Nat → W64)) :=
      both.map (fun p => (p.1, fun s _ => p.2 s)) ++
      [(0x000, fun s _ => BitVec.ofNat 64 s.grp.gid),
       (0x002, fun s _ => BitVec.ofNat 64 ((s.team.index * s.team.hdr.groups + s.grp.gid) * 96 % 2 ^ 32)),
       (0x003, fun s _ => BitVec.ofNat 64 s.grp.role), (0x004, fun s _ => w (maskWord s.grp.helper 0)),
       (0x005, fun s _ => w (maskWord s.grp.helper 1)), (0x006, fun s _ => w (maskWord s.grp.helper 2)),
       (0x007, fun _ l => BitVec.ofNat 64 l), (0x008, fun s _ => w s.grp.fpctl), (0x010, fun s _ => s.grp.tpc),
       (0x012, fun s _ => w s.grp.tcause), (0x013, fun s _ => s.grp.tval), (0x014, fun s _ => w s.grp.tstat),
       (0x01A, fun s _ => w (dqstat s.team s.grp)), (0x01B, fun s _ => BitVec.ofNat 64 s.grp.vcount)]
    let scalar : List (Nat × (State → W64)) :=
      both ++ [(0x008, fun s => w s.team.sFpctl), (0x010, fun s => s.team.sTpc), (0x012, fun s => w s.team.sTcause),
       (0x013, fun s => s.team.sTval), (0x014, fun s => w s.team.sTstat)]
    let name (o : LOp) : Nat := bits o.f 1 0 * 1024 + o.a.toNat
    let wide (n : Nat) : Bool := n ∈ [0x010, 0x013, 0x100, 0x10A, 0x10E]
    (∀ o, ∀ p ∈ group, name o = p.1 → bit o.f 3 = false → LaneGives (.sysrd o) o (wide p.1) fun s l => (p.2 s l).toNat)
    ∧ (∀ (o : LOp) (s : State), ∀ p ∈ group, name o = p.1 → bit o.f 3 = true → 3 ≤ o.d.toNat → s.laneCheck (.sysrd o) o = none →
        ∃ t, exec (.sysrd o) s = .next t ∧ t = { s with grp := { s.grp with g := t.grp.g }, frag := t.frag }
          ∧ Went s t (s.frag.pc + BitVec.ofNat 64 (Instr.sysrd o).size) ∧ SameMemory s t
          ∧ ∀ r, t.rg r = if r = o.d.toNat then (p.2 s 0).truncate 32
              else if wide p.1 = true ∧ r = o.d.toNat + 1 then (p.2 s 0 >>> 32).truncate 32 else s.rg r)
    ∧ (∀ (o : LOp) (s : State), name o = 0x018 → bit o.f 3 = false → s.laneCheck (.sysrd o) o = none →
        ∃ t c, exec (.sysrd o) s = .next t ∧ ((s.core s.team.core).cyc : W64).toNat ≤ c ∧ c < 2 ^ 64
          ∧ t.core s.team.core = { s.core s.team.core with cyc := BitVec.ofNat 64 c }
          ∧ LaneDone { s with freeCount := s.freeCount + 1, cores := t.cores } t (Instr.sysrd o).size (s.enabled o) o.d.toNat true (fun _ => c) 0)
    ∧ (∀ (o : S64) (s : State), s.cur.stream = .scalar → ∀ p ∈ scalar, bits o.e1 11 0 = p.1 →
        ∃ t, exec (.ssysrd o) s = .next t
          ∧ t = { s with team := { s.team with s := t.team.s, spc := s.team.spc + 8, sphase := 0 } }
          ∧ ∀ r, t.rs r = if r = o.w.d.toNat ∧ r ≠ 0 then p.2 s else s.rs r)
    ∧ (∀ (o : S64) (s : State), s.cur.stream = .scalar → bits o.e1 11 0 = 0x018 →
        ∃ t c, exec (.ssysrd o) s = .next t ∧ ((s.core s.team.core).cyc : W64).toNat ≤ c ∧ c < 2 ^ 64
          ∧ t.core s.team.core = { s.core s.team.core with cyc := BitVec.ofNat 64 c }
          ∧ t = { s with
              freeCount := s.freeCount + 1, cores := t.cores, team := { s.team with s := t.team.s, spc := s.team.spc + 8, sphase := 0 } }
          ∧ ∀ r, t.rs r = if r = o.w.d.toNat ∧ r ≠ 0 then BitVec.ofNat 64 c else s.rs r)
    ∧ ∀ (o : LOp) (s : State), s.laneCheck (.ctrrd o) o = none → s.bufferFull = false →
        let kind := bits o.imm 7 4
        let index := bits o.imm 3 0
        let c := s.core s.team.core
        let cl := s.cluster (s.team.core / 24)
        let gives (x : Nat) : Prop := ∃ t, exec (.ctrrd o) s = .next t
          ∧ LongIssued s t o.la.toNat 12 0 (resultOf o.d.toNat (s.enabled o) true fun _ => x % 2 ^ 64) 0
        let on := (s.vf s.team.vf).pmEn
        let event := (s.vf s.team.vf).pmEv.get 0 index
        let cevent := (s.vf s.team.vf).pmCev.get 0 index
        let unseen := on = true ∧ event ∈ [0x02, 0x03, 0x07, 0x0B]
        let cunseen := on = true ∧ cevent = 0x20
        (kind = 0 → ¬unseen → gives (c.pmc.get 0 index)) ∧ (kind = 1 → ¬cunseen → gives (cl.ccs.get 0 index))
        ∧ (kind = 0 → unseen → ∃ t x, exec (.ctrrd o) s = .next t ∧ x < 2 ^ 48
            ∧ t.core s.team.core = { c with pmc := c.pmc.set index x }
            ∧ LongIssued { s with freeCount := s.freeCount + 1, cores := t.cores } t o.la.toNat 12 0
                (resultOf o.d.toNat (s.enabled o) true fun _ => x) 0)
        ∧ (kind = 1 → cunseen → ∃ t x, exec (.ctrrd o) s = .next t ∧ x < 2 ^ 48
            ∧ t.cluster (s.team.core / 24) = { cl with ccs := cl.ccs.set index x }
            ∧ LongIssued { s with freeCount := s.freeCount + 1, clusters := t.clusters } t o.la.toNat 12 0
                (resultOf o.d.toNat (s.enabled o) true fun _ => x) 0)
        ∧ (kind = 2 → index = 1 → gives c.laneIssued) ∧ (kind = 2 → index = 2 → gives c.ksteps)
        ∧ (kind = 2 → index = 3 → gives c.scalarIssued)
        ∧ (kind = 3 → index = 0 → gives cl.ballastSteps) ∧ (kind = 3 → index = 1 → gives cl.ungranted)
        ∧ (kind = 3 → index = 2 → gives (cl.crecLast.signExtend 64).toNat) ∧ (kind = 3 → index = 3 → gives cl.effCuts)
        ∧ (kind = 4 → index = 0 → gives c.sramErrors)
        ∧ (kind = 4 → 1 ≤ index → gives (s.dieErrors.get 0 (4 * (s.team.core / 192) + index)).toNat)
        ∧ (kind = 2 → index = 0 → ∃ t x, exec (.ctrrd o) s = .next t ∧ c.cyc.toNat ≤ x ∧ x < 2 ^ 64
            ∧ t.core s.team.core = { c with cyc := BitVec.ofNat 64 x }
            ∧ LongIssued { s with freeCount := s.freeCount + 1, cores := t.cores } t o.la.toNat 12 0
                (resultOf o.d.toNat (s.enabled o) true fun _ => x) 0))
  ∧ (
    let tstat (old new writable : W32) : W32 := (old &&& ~~~writable) ||| (new &&& writable)
    let low (x : W64) : W32 := x.truncate 32
    let group (n : Nat) (s : State) (x : W64) : State :=
      if n = 0x008 then { s with grp := { s.grp with fpctl := low x &&& 0x3F7 } }
      else if n = 0x010 then { s with grp := { s.grp with tpc := x } }
      else if n = 0x012 then { s with grp := { s.grp with tcause := low x &&& 0xFF } }
      else if n = 0x013 then { s with grp := { s.grp with tval := x } }
      else if n = 0x014 then { s with grp := { s.grp with tstat := tstat s.grp.tstat (low x) 0x10F } }
      else { s with team := { s.team with mstat := low x &&& 0xE7 } }
    let scalar (n : Nat) (s : State) (x : W64) : State :=
      if n = 0x008 then { s with team := { s.team with sFpctl := low x &&& 0x3F7 } }
      else if n = 0x010 then { s with team := { s.team with sTpc := x } }
      else if n = 0x012 then { s with team := { s.team with sTcause := low x &&& 0xFF } }
      else if n = 0x013 then { s with team := { s.team with sTval := x } }
      else if n = 0x014 then { s with team := { s.team with sTstat := tstat s.team.sTstat (low x) 0x100 } }
      else { s with team := { s.team with mstat := low x &&& 0xE7 } }
    let writable : List Nat := [0x008, 0x010, 0x012, 0x013, 0x014, 0x102]
    let clamp (s : State) (x : Nat) : Nat := min (max x (s.vf s.team.vf).perfMin) (s.vf s.team.vf).perfMax
    let requested (s t : State) (r : Nat) : Prop :=
      t.team.perfReq = r ∧ (∀ k, k ≠ s.team.core → t.core k = s.core k)
      ∧ (∀ p ∈ t.flush.teams, p.2.live = true → p.2.core = s.team.core → p.2.perfReq ≤ (t.core s.team.core).grant)
      ∧ (∃ p ∈ t.flush.teams, p.2.live = true ∧ p.2.core = s.team.core ∧ p.2.perfReq = (t.core s.team.core).grant)
      ∧ t.core s.team.core = { s.core s.team.core with
          grant := (t.core s.team.core).grant, eff := min (s.core s.team.core).eff (t.core s.team.core).grant }
    (∀ (o : LOp) (s : State), s.laneCheck (.syswr o) o = none →
      let n := bits o.f 1 0 * 1024 + o.d.toNat
      let size := (Instr.syswr o).size
      n ∈ writable →
        (s.enabled o = 0 → ∃ t, exec (.syswr o) s = .next t ∧ WentOnly s t (s.frag.pc + BitVec.ofNat 64 size))
        ∧ ∀ l ls, lanesOf (s.enabled o) = l :: ls →
            let wide : Bool := n ∈ [0x010, 0x013]
            let x : Nat := if o.isLit then o.imm.toNat else if bit o.f 3 then s.gVal wide o.a.toNat else s.laneVal wide o.a.toNat l
            ∃ t, exec (.syswr o) s = .next t ∧ WentOnly (group n s (BitVec.ofNat 64 x)) t (s.frag.pc + BitVec.ofNat 64 size))
    ∧ (∀ (o : S64) (s : State), s.cur.stream = .scalar → bits o.e1 11 0 ∈ writable →
        exec (.ssyswr o) s =
          let t := scalar (bits o.e1 11 0) s (s.rs o.w.a.toNat)
          .next { t with team := { t.team with spc := s.team.spc + 8, sphase := 0 } })
    ∧ (∀ (o : LOp) (s : State), s.laneCheck (.setperf o) o = none → s.cur.stream = .lane → s.team.live = true →
        let size := BitVec.ofNat 64 (Instr.setperf o).size
        (s.enabled o = 0 → ∃ t, exec (.setperf o) s = .next t ∧ WentOnly s t (s.frag.pc + size))
        ∧ ∀ l ls, lanesOf (s.enabled o) = l :: ls → ∃ t, exec (.setperf o) s = .next t
            ∧ requested s t (clamp s (if o.isLit then o.imm.toNat % 16 else (s.lane o.a.toNat l).toNat % 16))
            ∧ WentOnly { s with team := { s.team with perfReq := t.team.perfReq }, cores := t.cores } t (s.frag.pc + size))
    ∧ ∀ (w : S32) (s : State), s.cur.stream = .scalar → s.team.live = true →
        ∃ t, exec (.ssetperf w) s = .next t ∧ requested s t (clamp s ((s.rs w.a.toNat).toNat % 16))
          ∧ t = { s with
              cores := t.cores, team := { s.team with perfReq := t.team.perfReq, spc := s.team.spc + 4, sphase := 0 } })

/-- 02 R57, R58, R156: a register field that reaches VCOUNT traps REG_RANGE with the lowest such register of the first such
field, and then a point at or beyond the declared count traps RDV_RANGE with its number, before the instruction has any effect: for
every lane instruction and, with G = 0, every short form. A cover outside a raster team and a patom whose routine is not valid are
illegal encodings first (07 R205, 12 R339).
Where the manual is open or is read by inference, it follows the model's choices of log 31 (DEDUCED). -/
def Obligations.RegisterRangeTraps : Prop :=
  let first (fs : List (Kind × Nat)) (s : State) : Option Trap :=
    match fs.find? fun f => match f.1 with | .v n _ | .ring n _ => decide (s.grp.vcount < f.2 + n) | _ => false with
    | some f => some { cause := 0x04, tval := BitVec.ofNat 64 (max s.grp.vcount f.2) }
    | none =>
      match fs.find? fun f => match f.1 with | .point => decide (s.team.hdr.rdv ≤ f.2) | _ => false with
      | some f => some { cause := 0x05, tval := BitVec.ofNat 64 f.2 }
      | none => none
  ∀ (i : Instr) (o : LOp) (s : State), i.lop? = some o ∨ (∃ w : L32, i.l32? = some w ∧ w.g = false ∧ o = w.toLOp) →
    ∀ p, laneSpec i.long = some p →
      s.laneCheck i o = first (specFields p o) s
      ∧ ∀ x, s.laneCheck i o = some x → (i = .cover o → s.team.raster ≠ none) →
          (i = .patom o → (s.vf s.team.vf).routines.lookup o.imm.toNat ≠ none) → exec i s = .next (s.raise x i.size)

/-- 06 R150, R151, R153-R155, R162, 01 R33, 11 R306: taking a trap. The trap registers take the address, the cause and TVAL; TSTAT keeps
PEND and JTO and takes the length, EMU, INH = 1, BRKT, SLOT and WDONE; the fragment goes on at the handler: the emulation handler for EXT_EMU where there is one,
else the trap handler; nothing else changes. The scalar stream goes on 64 bytes behind that address. With INH set, or
without a handler, the launch is aborted. Windows close before entry; answers still to come are waited for. The oldest window with a
fault is reported in the instruction's place, and WDONE counts the instructions of it that completed: a trap is taken, and
the younger windows that hold a fault are kept; replayable faults are posted, and the fragment parks.

06 R155: a launch abort stops every team of the launch, discards those that have not started, and records the first cause in the
scope; the scope's count falls by the number discarded. A launch that is aborted already is left as it is.
Where the manual is open or is read by inference, it follows the model's choices of log 14 (DESIGN CHOICE), log 32 (DEDUCED). -/
def Obligations.TrapEntry : Prop :=
  let status (old ts : W32) (len : Nat) (emu brkt slotB : Bool) (wdone : Nat) : Prop :=
    bits ts 31 24 = 0 ∧ bits ts 23 16 = len % 256 ∧ bits ts 15 10 = 0 ∧ bit ts 9 = bit old 9 ∧ bit ts 8 = bit old 8 ∧ bit ts 7 = emu
    ∧ bit ts 6 = true ∧ bit ts 5 = brkt ∧ bit ts 4 = slotB ∧ bits ts 3 0 = wdone % 16
  (∀ (s : State) (x : Trap) (len : Nat),
    let emu : Bool := x.cause == 0x03 && s.team.hdr.emuHandler != 0
    let handler := if emu then s.team.hdr.emuHandler else s.team.hdr.trapHandler
    let abort (t : State) (pc : W64) : State := t.abortLaunch s.team.launch x.cause s.team.index pc x.tval
    (s.frag.windows = [] →
      (bit s.grp.tstat 6 = true → s.raise x len = abort s s.frag.pc)
      ∧ (bit s.grp.tstat 6 = false → ∃ ts, status s.grp.tstat ts len emu s.frag.bracket s.cur.slotB s.frag.skip ∧
          let t : State := { s with
            grp := { s.grp with
              tpc := s.frag.pc, tcause := BitVec.ofNat 32 x.cause, tval := x.tval, tstat := ts, trapCause := x.cause, trapPc := s.frag.pc,
              trapPass := s.frag.skip != 0 && !s.frag.hold } }
          (handler = 0 → s.raise x len = abort t s.frag.pc)
          ∧ (handler ≠ 0 → s.raise x len = { t with frag := { s.frag with pc := handler, skip := 0, hold := false } })))
    ∧ ((∀ w ∈ s.frag.windows, w.fault = none ∧ w.waiting = 0) → s.raise x len = s.closeAll.enterTrap x s.frag.pc len s.frag.skip)
    ∧ ((∀ w ∈ s.frag.windows, w.fault = none) → (∃ w ∈ s.frag.windows, w.waiting ≠ 0) → s.raise x len = s.wait)
    ∧ (∀ pre w post f, s.frag.windows = pre ++ w :: post → (∀ q ∈ pre, q.fault = none) → w.fault = some f →
        s.raise x len = s.reportLate w f
        ∧ (∀ g, f = .trap g → (∃ q ∈ s.frag.windows, q.waiting ≠ 0) → s.raise x len = s.wait)
        ∧ (∀ g, f = .trap g → (∀ q ∈ s.frag.windows, q.waiting = 0) →
            let t := s.closeAll
            let kept := s.frag.windows.filter fun q => q.id != w.id && q.fault.isSome
            s.raise x len =
              ({ t with frag := { t.frag with kept := t.frag.kept ++ kept } }).enterTrap g w.pc w.len (min (w.passed + s.frag.skip) 15))
        ∧ ∀ ps r, f = .page ps r →
            let u := s.postFaults s.team.vf s.team.ctx s.team.core w.pc ps
            s.raise x len = { u.1 with
              frag := { u.1.frag with
                park := u.2, windows := u.1.frag.windows.map fun q => if q.id = w.id then { q with fault := some (.parked r) } else q } })
    ∧ (bit s.team.sTstat 6 = true → s.raiseScalar x len = abort s s.team.spc)
    ∧ (bit s.team.sTstat 6 = false → ∃ ts, status s.team.sTstat ts len emu false false 0 ∧
        let t : State := { s with
          team := { s.team with
            sTpc := s.team.spc, sTcause := BitVec.ofNat 32 x.cause, sTval := x.tval, sTstat := ts, sTrapCause := x.cause,
            sTrapPc := s.team.spc, sphase := 0 } }
        (handler = 0 → s.raiseScalar x len = abort t s.team.spc)
        ∧ (handler ≠ 0 → s.raiseScalar x len = { t with team := { t.team with spc := handler + 64 } })))
  ∧ ∀ (s : State) (k cause team : Nat) (tpc tval : W64), s.cur = {} →
      let l := s.launch k
      let n := l.waiting.length
      let stop (x : Team) : Team := if x.launch = k ∧ x.live = true then { x with stopped := true, aborted := true } else x
      (l.aborted = true → s.abortLaunch k cause team tpc tval = s)
      ∧ (l.aborted = false →
          let t := s.abortLaunch k cause team tpc tval
          (∀ u, t.teams.get {} u = stop (s.teams.get {} u))
          ∧ (∀ j, j ≠ k → t.launch j = s.launch j)
          ∧ (n = 0 ∨ l.ended + n < l.teams → t.launch k = { l with aborted := true, waiting := [], ended := l.ended + n })
          ∧ (n ≠ 0 → l.teams ≤ l.ended + n →
              t.launch k = { vf := 0, ctx := 0, hdr := {}, args := 0, teams := 0, span := 0, prio := 0, scope := 0 })
          ∧ (∀ j, let old := (s.ctx l.vf l.ctx).scope j
              let new := (t.ctx l.vf l.ctx).scope j
              new.count = (if j = l.scope then old.count - n else old.count)
              ∧ new.valid = old.valid ∧ new.hasParent = old.hasParent ∧ new.parent = old.parent
              ∧ (old.err = true → new.err = true ∧ new.cause = old.cause ∧ new.tpc = old.tpc ∧ new.tval = old.tval)
              ∧ (j = l.scope → old.err = false →
                  new.err = true ∧ new.cause = cause ∧ new.team = team ∧ new.tpc = tpc ∧ new.tval = tval))
          ∧ (∀ v, v ≠ l.vf → t.vf v = s.vf v) ∧ (∀ c, c ≠ l.ctx → t.ctx l.vf c = s.ctx l.vf c)
          ∧ t = { s with teams := t.teams, launches := t.launches, vfs := t.vfs, msix := t.msix })

/-- 06 R158, R164, R166: trap and brk trap with TRAP and BREAK and their literal, unless a predicate disables every lane; strap takes its cause
from F[0] and its literal, sign-extended.

06 R151, R158, R164-R166: eret and seret trap ILLEGAL_ENC with INH = 0. Else they clear INH and EMU, and go on at TPC, or behind it
where TPC still names the trap or brk that was taken; eret clears WDONE and will pass over that many window instructions
behind the one at TPC, which executes first unless it had completed when the trap was taken.
A trap that an instruction in flight of the group's other fragment has raised, a failed access it is parked on or its oldest
fault, is held, and PEND rises; eret takes a held trap at once, and PEND falls.
Where the manual is open or is read by inference, it follows the model's choices of log 14 (DESIGN CHOICE), log 32 (DEDUCED). -/
def Obligations.TrapInstructionsAndReturn : Prop :=
  (
    (∀ (o : LOp) (s : State), ∀ p ∈ [(Instr.trap o, 0x30), (Instr.brk o, 0x31)], s.laneCheck p.1 o = none →
      (o.ps ≠ 0 → s.enabled o = 0 → ∃ t, exec p.1 s = .next t ∧ WentOnly s t (s.frag.pc + BitVec.ofNat 64 p.1.size))
      ∧ (o.ps = 0 ∨ s.enabled o ≠ 0 →
          exec p.1 s = .next (s.raise { cause := p.2, tval := if o.isLit then o.imm.zeroExtend 64 else 0 } p.1.size)))
    ∧ (∀ (w : S32) (s : State), exec (.strapS32 w) s = .next (s.raiseScalar { cause := if bit w.f 0 then 0x31 else 0x30, tval := 0 } 4))
    ∧ ∀ (o : S64) (s : State),
        exec (.strapS64 o) s = .next (s.raiseScalar { cause := if bit o.w.f 0 then 0x31 else 0x30, tval := o.e1.signExtend 64 } 8))
  ∧ (
    (∀ (o : LOp) (s0 : State), s0.laneCheck (.eret o) o = none →
      let other : Fragment := s0.grp.slotOf !s0.cur.slotB
      let s : State := if other.valid then s0.onOther State.holdTrap else s0
      let same : Bool := s.grp.tpc == s.grp.trapPc
      let past : Bool := (s.grp.trapCause == 0x30 || s.grp.trapCause == 0x31) && same
      let n := bits s.grp.tstat 3 0
      let back : Fragment :=
        { s.frag with
          pc := if past then s.grp.tpc + BitVec.ofNat 64 (bits s.grp.tstat 23 16) else s.grp.tpc, skip := n,
          hold := !past && !(s.grp.trapPass && same) && n != 0, kept := if n = 0 then [] else s.frag.kept }
      (bit s0.grp.tstat 6 = false →
        exec (.eret o) s0 = .next (s0.raise { cause := 0x01, tval := (Instr.eret o).firstWord.zeroExtend 64 } 8))
      ∧ (bit s0.grp.tstat 6 = true → s.grp.held = none →
          exec (.eret o) s0 = .next { s with grp := { s.grp with tstat := s.grp.tstat &&& 0xFFFFFD30 }, frag := back })
      ∧ (bit s0.grp.tstat 6 = true → s0.cur.stream = .lane → s0.team.hdr.trapHandler ≠ 0 → other.windows = [] → other.park = [] →
          ∀ h, s0.grp.held = some h → h.slotB = (!s0.cur.slotB) → h.trap.cause ≠ 0x03 →
            ∃ t, exec (.eret o) s0 = .next t ∧ t.frag = back
              ∧ t.grp.tpc = h.pc ∧ t.grp.tcause = BitVec.ofNat 32 h.trap.cause ∧ t.grp.tval = h.trap.tval ∧ t.grp.held = none
              ∧ bit t.grp.tstat 9 = false ∧ bit t.grp.tstat 6 = true ∧ bit t.grp.tstat 4 = h.slotB
              ∧ bits t.grp.tstat 23 16 = h.len % 256 ∧ bits t.grp.tstat 3 0 = h.wdone % 16
              ∧ t.grp.slotOf h.slotB = { other with pc := s0.team.hdr.trapHandler, skip := 0, hold := false }
              ∧ t.grp.v = s0.grp.v ∧ t.grp.g = s0.grp.g ∧ t.mem = s0.mem))
    ∧ (∀ s : State, s.grp.held = none → (∀ w ∈ s.frag.windows, w.waiting = 0) →
        let t := s.holdTrap
        let holds (pc : W64) (len wdone : Nat) (x : Trap) : Prop :=
          t.grp.held = some { slotB := s.cur.slotB, pc := pc, len := len, wdone := min wdone 15, trap := x }
          ∧ t.grp.tstat = s.grp.tstat ||| 0x200 ∧ t.frag = { s.frag with windows := [], park := [], kept := t.frag.kept }
        (∀ w x, s.frag.park = [] → firstFault s.frag.windows = some (w, .trap x) → holds w.pc w.len (w.passed + s.frag.skip) x)
        ∧ (∀ p ps, s.frag.park = p :: ps → p.failed = true → (∀ w ∈ s.frag.windows, w.fault = none) →
            holds s.frag.pc (s.peekLen s.team.vf s.team.ctx s.frag.pc) s.frag.skip { cause := 0x10, tval := p.vaddr })
        ∧ (s.frag.park = [] → (∀ w ∈ s.frag.windows, w.fault = none) → t = s))
    ∧ ∀ (w : S32) (s : State),
        let past : Bool := (s.team.sTrapCause == 0x30 || s.team.sTrapCause == 0x31) && s.team.sTpc == s.team.sTrapPc
        (bit s.team.sTstat 6 = false →
          exec (.seret w) s = .next (s.raiseScalar { cause := 0x01, tval := (w.word 0x7F 1).zeroExtend 64 } 4))
        ∧ (bit s.team.sTstat 6 = true →
            exec (.seret w) s = .next { s with
              team := { s.team with
                spc := if past then s.team.sTpc + BitVec.ofNat 64 (bits s.team.sTstat 23 16) else s.team.sTpc,
                sTstat := s.team.sTstat &&& 0xFFFFFF3F } }))

/-! ### Group code: mesh emission, pixels, rays, textures -/

/-- 12 R329, R331, 07 R177: emitv and emitp store, for each enabled lane that is no helper lane and whose index B is at most 255 or
511, 16 bytes or one word of A at C + 0x40 + 16 B or C + 0x1040 + 4 B of the window, where these places are aligned, at or above
byte 384, below the spill stacks and free of a race fault; of lanes that meet, the highest remains. Nothing outside these places changes.
Otherwise the lowest lane whose place is not so traps MISALIGN, SPAD_RANGE or RACE.

12 R327, R330, R332: emitend. With no lane enabled it only issues. Otherwise the lowest enabled lane names the descriptor and
the batch; where its checks pass, the batch takes the lowest progress record of the core that is free, and the
instruction waits for its status; with all sixteen in use it does not issue. A batch whose header is not allowed counts
its primitives as culled. Where a check fails the instruction stops: MISALIGN for a descriptor that is not 64-byte aligned, and
RECORD_FAULT with VREC for a descriptor with a reserved field set, a record that is no visibility image, and a PHDR that no kernel
header with one group, allowed and with the core's features, stands at; MISALIGN for a batch offset that is no multiple of 64, and
SPAD_RANGE for a batch that reaches the spill stacks: of two the first in the order of R156.
Where the manual is open or is read by inference, it follows the model's choices of log 14 (DESIGN CHOICE), log 46 (DEDUCED), log 61
(DESIGN CHOICE),
log 64 (DESIGN CHOICE: what holds an entry of the return buffer). -/
def Obligations.MeshEmissionAndHandOver : Prop :=
  (
    ∀ (o : LOp) (s : State), s.bufferFull = false →
      let emits (i : Instr) (n base limit : Nat) : Prop :=
        let at_ (l : Nat) : Nat := s.srcC o false false l + base + n * s.srcB o false false l
        let ls := (lanesOf (s.enabled o)).filter fun l => !s.isHelper l && decide (s.srcB o false false l ≤ limit)
        let writes (l b : Nat) : Prop := l ∈ ls ∧ at_ l ≤ b ∧ b < at_ l + n
        let trap (l : Nat) : Option Trap := windowTrap s.team s.grp.gid n true true (at_ l)
        (s.laneCheck i o = none → ∀ l ∈ ls, ∀ f, trap l = some f → (∀ k ∈ ls, k < l → trap k = none) →
          ∃ t, exec i s = .next t ∧ StopsLong s t o.la.toNat i.size [] (.trap f))
        ∧ (s.laneCheck i o = none →
        (∀ l ∈ ls, at_ l % n = 0 ∧ 384 ≤ at_ l ∧ at_ l + n ≤ spillBase s.team ∧ raceFault s.team s.grp.gid (at_ l) n = none) →
          ∃ w u k, exec i s = .next (u.count 0x05 k) ∧ LongIssued w u o.la.toNat i.size 0 [] 0
            ∧ w = { s with team := { s.team with win := w.team.win, race := w.team.race } }
            ∧ (∀ b, (∀ l, ¬writes l b) → readByte w.team.win b = readByte s.team.win b)
            ∧ (∀ l b, writes l b → (∀ k, l < k → ¬writes k b) →
                readByte w.team.win b = BitVec.ofNat 8 (s.regsVal o.a.toNat (n / 4) l / 256 ^ (b - at_ l)))
            ∧ (s.team.hdr.raceCheck = false → w.team.race = s.team.race)
            ∧ (s.team.hdr.raceCheck = true → ∀ l ∈ ls, w.team.race.lookup (at_ l / 32) = some (s.grp.gid, s.team.raceGen)))
      emits (.emitv o) 16 0x40 255 ∧ emits (.emitp o) 4 0x1040 511)
  ∧ (
    ∀ (o : LOp) (s : State), s.bufferFull = false → s.laneCheck (.emitend o) o = none →
      (s.enabled o = 0 → ∃ u, exec (.emitend o) s = .next u ∧ LongIssued s u o.la.toNat 8 0 [] 0)
      ∧ ∀ l ls, lanesOf (s.enabled o) = l :: ls → s.redQueues = [] →
        let off := s.srcB o false false l
        let desc : W64 := BitVec.ofNat 64 (s.srcA o true l)
        (∀ st, s.emitCheck desc off = .error st → ∃ u, exec (.emitend o) s = .next u ∧ StopsLong s u o.la.toNat 8 [] st)
        ∧ (desc.toNat % 64 ≠ 0 → s.drawCheck desc = .error (.trap { cause := 0x0B, tval := desc }))
        ∧ (desc.toNat % 64 = 0 → ∀ s1 x, s.loadVa s.team.vf s.team.ctx { kind := 0 } desc 64 = .ok (s1, x) →
            let d := Draw.ofRaw x
            let bad : Except Stop (State × Draw × Nat × Header) := .error (.trap { cause := 0x12, tval := BitVec.ofNat 64 d.vrec })
            (drawOk x = false → s.drawCheck desc = bad)
            ∧ ∀ s2 raw, drawOk x = true → s1.readRecord { kind := 0 } d.vrec = .ok (s2, raw) →
                (imageOk raw = false ∨ (Image.ofRaw raw).ifmt ≠ 0x30 → s.drawCheck desc = bad)
                ∧ (imageOk raw = true → (Image.ofRaw raw).ifmt = 0x30 → d.phdr ≠ 0 → ∀ h s3 y,
                    (d.phdr.toNat % 128 ≠ 0 → s.drawCheck desc = bad)
                    ∧ (s2.headerSeen s2.team.vf s2.team.ctx d.phdr = (s3, none) → s.drawCheck desc = bad)
                    ∧ (s2.headerSeen s2.team.vf s2.team.ctx d.phdr = (s3, some y) → h = Header.ofRaw y →
                        headerOk y = false ∨ h.groups ≠ 1 ∨ h.featMask &&& ~~~((s3.feat0 s3.team.core).zeroExtend 128) ≠ 0 →
                        s.drawCheck desc = bad)))
        -- the batch's own fault, and which of two is taken
        ∧ (let top := spillBase s.team
          let head := winRead s.team off 4
          let v := min 256 (head / 2 ^ 16 % 2 ^ 9)
          let p := min 512 (head % 2 ^ 10)
          let last := max (if v = 0 then 0 else 0x40 + 16 * v) (if p = 0 then 0 else 0x1040 + 4 * p)
          let range : Option Trap := some { cause := 0x06, tval := BitVec.ofNat 64 (max off top) }
          (off % 64 ≠ 0 → s.batchFault off = some { cause := 0x0B, tval := BitVec.ofNat 64 off })
          ∧ (off % 64 = 0 → top < off + 16 → s.batchFault off = range)
          ∧ (off % 64 = 0 → off + 16 ≤ top → s.batchFault off = if top < off + last then range else none))
        ∧ (s.batchFault off = none → s.emitCheck desc off = s.drawCheck desc)
        ∧ (∀ f, s.batchFault off = some f →
            (∀ x, s.drawCheck desc = .ok x → s.emitCheck desc off = .error (.trap f))
            ∧ (∀ g, s.drawCheck desc = .error (.trap g) →
                s.emitCheck desc off = .error (.trap (if (Stop.trap f).rank < (Stop.trap g).rank then f else g)))
            ∧ ∀ q, s.drawCheck desc = .error (.page q) → s.emitCheck desc off = .error (.trap f))
        ∧ ∀ s1 d img h, s.emitCheck desc off = .ok (s1, d, img, h) →
          let used (k : Nat) : Prop := ∃ b ∈ s.flush.batchesOf s.team.core, b.2.1 = k
          ((∀ k < 16, used k) → exec (.emitend o) s = .next s.wait)
          ∧ ∀ k < 16, ¬used k → (∀ j < k, used j) →
            let head := winRead s.team off 4
            let vcount := head / 2 ^ 16 % 2 ^ 9
            let pcount := head % 2 ^ 10
            let allowed : Bool := head / 2 ^ 25 % 2 ^ 7 == 0 && head / 2 ^ 10 % 2 ^ 6 == 0 && decide (vcount ≤ 256) && decide (pcount ≤ 512)
            ∃ u b, exec (.emitend o) s = .next u ∧ CachesOnly s u
              ∧ LongIssued
                  { s with
                    cores := u.cores, hdrCache := u.hdrCache, freeCount := u.freeCount, batchIssued := s.batchIssued + 1,
                    team := { s.team with batches := u.team.batches } }
                  u o.la.toNat 8 1 [] 0
              ∧ (∀ j, u.team.batches.lookup j = if j = k then some b else s.team.batches.lookup j)
              ∧ b.order = s.batchIssued ∧ b.gid = s.cur.gid ∧ b.window = s.grp.opened ∧ b.dest = o.d.toNat ∧ b.mask = s.enabled o
              ∧ b.off = off ∧ b.vcount = vcount ∧ b.pcount = pcount ∧ b.pbase = winRead s.team (off + 8) 5
              ∧ b.desc = desc ∧ b.draw = d ∧ b.img = img ∧ b.hdr = h ∧ b.drawn = 0 ∧ b.hz = 0 ∧ b.jobs = [] ∧ b.running = []
              ∧ b.setup = none ∧ b.tile = 0 ∧ b.park = [] ∧ b.fault = none ∧ b.word = (Instr.emitend o).firstWord
              ∧ b.next = (if allowed then 0 else pcount) ∧ b.culled = (if allowed then 0 else pcount))

/-- 12 R339, R342-R344: vbld reads the sample a lane names, or zeros; vbary gives the barycentrics of the sample from the
triangle's vertices and the descriptor's viewport, a value of its own where the manual gives none (DESIGN CHOICE, log 28); vinterp rounds the
exact interpolation once; cover keeps A, and B as the depth where F[0] = 1 and DW has a meaning, for the merge at the team's
end, and traps ILLEGAL_ENC outside a raster team, before every later check. vbld stops where its record or a lane's place faults, RECORD_FAULT for
a record that is no visibility image, BOUNDS with x + width y for a pixel or sample outside the image under BMODE 2; vbary where its
descriptor is not 64-byte aligned (MISALIGN) or cannot be read.
Where the manual is open or is read by inference, it follows the model's choices of log 14 (DESIGN CHOICE: when a stop is
reported), log 46 (DEDUCED),
log 64 (DESIGN CHOICE: what holds an entry of the return buffer). -/
def Obligations.PixelInstructions : Prop :=
  ∀ (o : LOp) (s : State),
    let m := s.enabled o
    (s.bufferFull = false → s.laneCheck (.vbld o) o = none →
      (m = 0 → ∃ u, exec (.vbld o) s = .next u ∧ LongIssued s u o.la.toNat o.size 0 [] 0)
      ∧ (m ≠ 0 → s.redQueues = [] → ∀ s1 g, s.imageRec { kind := 0 } o.sub.toNat = .ok (s1, g) → g.ifmt = 0x30 →
          ∀ as, gather ((lanesOf m).map fun l => (l, s1.vbldPlace g (s.srcA o false l) o.imm.toNat)) = .ok as →
            ∃ u, exec (.vbld o) s = .next u ∧ CachesOnly s u
              ∧ LongIssued { s with cores := u.cores } u o.la.toNat o.size 0
                  (regsResult o.d.toNat 3 m (as.map fun p => (p.1, match p.2 with | none => 0 | some ps => (s.loadParts ps).2))) 0)
      ∧ (m ≠ 0 → ∀ st, s.imageRec { kind := 0 } o.sub.toNat = .error st →
          ∃ u, exec (.vbld o) s = .next u ∧ StopsLong s u o.la.toNat o.size [] st)
      ∧ (m ≠ 0 → ∀ s1 g, s.imageRec { kind := 0 } o.sub.toNat = .ok (s1, g) →
          (g.ifmt ≠ 0x30 → ∃ u, exec (.vbld o) s = .next u
            ∧ StopsLong s1 u o.la.toNat o.size [] (.trap { cause := 0x12, tval := BitVec.ofNat 64 o.sub.toNat }))
          ∧ (g.ifmt = 0x30 → ∀ st ps,
              gather ((lanesOf m).map fun l => (l, s1.vbldPlace g (s.srcA o false l) o.imm.toNat)) = .error (st, ps) →
                ∃ u, exec (.vbld o) s = .next u ∧ StopsLong s1 u o.la.toNat o.size ps st)))
    ∧ (∀ (g : Image) (w k : Nat), g.bmode ≠ 0 → g.bmode ≠ 1 →
        g.width ≤ w % 2 ^ 14 ∨ g.height ≤ w / 2 ^ 14 % 2 ^ 14 ∨ g.samples ≤ k →
          s.vbldPlace g w k = .error (.trap { cause := 0x13, tval := BitVec.ofNat 64 (w % 2 ^ 14 + g.width * (w / 2 ^ 14 % 2 ^ 14)) }))
    ∧ (s.bufferFull = false → s.laneCheck (.vbary o) o = none →
      let a := s.rs (match o.cField with | some c => c.toNat | none => 0)
      (m = 0 → ∃ u, exec (.vbary o) s = .next u ∧ LongIssued s u o.la.toNat 8 0 [] 0)
      ∧ (m ≠ 0 → a.toNat % 64 ≠ 0 → ∃ u, exec (.vbary o) s = .next u
          ∧ StopsLong s u o.la.toNat 8 [] (.trap { cause := 0x0B, tval := a }))
      ∧ (m ≠ 0 → a.toNat % 64 = 0 → ∀ st, s.loadVa s.team.vf s.team.ctx { kind := 0 } a 64 = .error st →
          ∃ u, exec (.vbary o) s = .next u ∧ StopsLong s u o.la.toNat 8 [] st)
      ∧ (m ≠ 0 → a.toNat % 64 = 0 → s.redQueues = [] → ∀ s1 x, s.loadVa s.team.vf s.team.ctx { kind := 0 } a 64 = .ok (s1, x) →
          let vert (l k : Nat) : List W32 := (List.range 4).map fun c => s.lane (o.a.toNat + 4 * k + c) l
          let bary (l : Nat) := baryOf (Draw.ofRaw x).view [vert l 0, vert l 1, vert l 2] (2 ^ bits o.f 1 0) (s.srcB o false false l)
          ∃ u vs, exec (.vbary o) s = .next u ∧ vs.map (·.1) = lanesOf m
            ∧ (∀ p ∈ vs, ∀ b, bary p.1 = some b → p.2 = b.1.toNat + b.2.1.toNat * 2 ^ 32)
            ∧ LongIssued { s with freeCount := u.freeCount } u o.la.toNat 8 0 (regsResult o.d.toNat 2 m vs)
                (unionFlags m fun l => match bary l with | some b => b.2.2 | none => 0)))
    ∧ (s.laneCheck (.vinterp o) o = none →
      let r (l : Nat) : Nat × W32 :=
        fInterp (roundingOf (bits o.f 3 2) s.grp.fpctl) (bit s.grp.fpctl 2) (s.lane o.a.toNat l).toNat (s.lane (o.a.toNat + 1) l).toNat
          (s.lane o.b.toNat l).toNat (s.lane (o.b.toNat + 1) l).toNat (s.lane (o.b.toNat + 2) l).toNat
      ∃ t, exec (.vinterp o) s = .next t ∧ LaneDone s t 8 m o.d.toNat false (fun l => (r l).1) (unionFlags m fun l => (r l).2))
    ∧ (s.team.raster = none →
        exec (.cover o) s = .next (s.raise { cause := 0x01, tval := (Instr.cover o).firstWord.zeroExtend 64 } 8))
    ∧ (s.laneCheck (.cover o) o = none → ∀ r, s.team.raster = some r → ∃ t c, exec (.cover o) s = .next t
          ∧ t = { s with team := { s.team with raster := some { r with covers := c } }, frag := t.frag }
          ∧ Went s t (s.frag.pc + 8) ∧ SameMemory s t ∧ SameWindow s t
          ∧ ∀ l, l < 96 → c.lookup l =
              if m.getLsbD l && !s.isHelper l then
                some (s.srcA o false l, if bit o.f 0 && r.job.dw then some (BitVec.ofNat 32 (s.srcB o false false l)) else none)
              else r.covers.lookup l)

/-- 12 R346-R348: trace starts, or with F[0] goes on with, the ray slot of every enabled lane whose control word is allowed, and
the window waits for each, and keeps the slots of its lanes for a trap (14 R389); a lane with C[15:12] not 0 returns MISS, eight zeros, at once. hitacc accepts the pending
candidate, at A with kind B where F[0] = 1 and A lies between tmin and the limit: the best hit stays, the limit and D + 7
take t, queued candidates beyond it go; hitign drops it. A lane without a pending candidate is unchanged.
Where the manual is open or is read by inference, it follows the model's choices of log 28 (DESIGN CHOICE), log 47 (DEDUCED),
log 64 (DESIGN CHOICE: what holds an entry of the return buffer). -/
def Obligations.RayInstructions : Prop :=
  ∀ (o : LOp) (s : State),
    let m := s.enabled o
    let on (l : Nat) : Bool := m.getLsbD l
    (s.bufferFull = false → s.laneCheck (.trace o) o = none →
      let args (l : Nat) : RayArgs :=
        { regs := (List.range 8).map fun j => s.lane (o.a.toNat + j) l, ctl := BitVec.ofNat 32 (s.srcC o false false l),
          root := s.rs o.b.toNat, tableBase := s.rs (o.b.toNat + 1), tableLen := s.rs (o.b.toNat + 2) }
      let runs (l : Nat) : Bool := on l && bits (args l).ctl 15 12 == 0
      let cont := bit o.f 0
      ∃ u miss, exec (.trace o) s = .next u
        ∧ (∀ l, miss.getLsbD l = (on l && !runs l))
        ∧ LongIssued { s with freeCount := u.freeCount, grp := { s.grp with rays := u.grp.rays } } u o.la.toNat 8
            ((List.range 96).filter runs).length
            (if miss = 0 then [] else (List.range 8).map fun k => (o.d.toNat + k, miss, Vector.replicate 96 0)) 0 none
            (some (m, s.grp.rays.filter fun p => on p.1))
        ∧ ∀ l, l < 96 →
            (on l = false → u.grp.rays.lookup l = s.grp.rays.lookup l)
            ∧ (on l = true → runs l = false → u.grp.rays.lookup l = if cont then s.grp.rays.lookup l else none)
            ∧ (runs l = true → ∃ r, u.grp.rays.lookup l = some r
                ∧ r.busy = true ∧ r.window = s.grp.opened ∧ r.dest = o.d.toNat ∧ r.again = args l ∧ r.candidate = none
                ∧ ∀ q, q = (if cont then s.grp.rays.lookup l else none) →
                    (q = none → r.args = args l ∧ r.limit = s.lane (o.a.toNat + 7) l ∧ r.best = none ∧ r.queue = [] ∧ r.found = []
                      ∧ r.finished = false)
                    ∧ ∀ p, q = some p → r.args = p.args ∧ r.limit = p.limit ∧ r.best = p.best ∧ r.queue = p.queue ∧ r.found = p.found
                        ∧ r.finished = p.finished))
    ∧ (s.laneCheck (.hitacc o) o = none → ∃ t, exec (.hitacc o) s = .next t
        ∧ t = { s with grp := { s.grp with v := t.grp.v, rays := t.grp.rays }, frag := t.frag }
        ∧ Went s t (s.frag.pc + 8) ∧ SameMemory s t
        ∧ (∀ q l, l < 96 → q ≠ o.d.toNat + 7 → t.lane q l = s.lane q l)
        ∧ ∀ l, l < 96 →
            let same : Prop := t.grp.rays.lookup l = s.grp.rays.lookup l ∧ t.lane (o.d.toNat + 7) l = s.lane (o.d.toNat + 7) l
            (on l = false → same) ∧ (s.grp.rays.lookup l = none → same)
            ∧ ∀ r, on l = true → s.grp.rays.lookup l = some r →
              (r.candidate = none → same)
              ∧ ∀ c, r.candidate = some c →
                let a : W32 := BitVec.ofNat 32 (s.srcA o false l)
                let tmin := r.args.regs.getD 3 0
                let le (x y : W32) : Bool := f32Lt x y || f32Eq x y
                let hit : Hit := if bit o.f 0 then
                    { c with t := a, inst := (c.inst &&& 0xFFFFFF) ||| (BitVec.ofNat 32 (s.srcB o false false l) <<< 24) } else c
                if bit o.f 0 && !(le tmin a && le a r.limit) then
                  t.grp.rays.lookup l = some { r with candidate := none } ∧ t.lane (o.d.toNat + 7) l = s.lane (o.d.toNat + 7) l
                else
                  t.grp.rays.lookup l = some { r with
                    candidate := none, limit := hit.t, queue := r.queue.filter fun q => !f32Lt hit.t q.t,
                    finished := r.finished || bit r.args.ctl 9,
                    best := some (match r.best with | some b => if b.before hit then b else hit | none => hit) }
                  ∧ t.lane (o.d.toNat + 7) l = hit.t)
    ∧ (s.laneCheck (.hitign o) o = none → ∃ t, exec (.hitign o) s = .next t
        ∧ t = { s with grp := { s.grp with rays := t.grp.rays }, frag := t.frag } ∧ Went s t (s.frag.pc + 8) ∧ SameMemory s t
        ∧ ∀ l, t.grp.rays.lookup l = (s.grp.rays.lookup l).map fun r => if on l then { r with candidate := none } else r)

/-- 12 R351-R356: texture reads where the record is valid, the coordinates and the level of detail have a value and no place
faults. tsamp gives the weighted sum of the texels its sampler and level choose, rounded once, or the one texel of an
integer format; tgath a component of four texels; tload one texel; tquery the size of a level, or zeros. Only the record cache
changes beside the four result registers of the enabled lanes.

06 R156, 12 R351, R353, R356: where the record or a lane's place faults, the instruction stops, with the lowest lane's trap or else every
replayable fault: RECORD_FAULT for a record beyond the count, one with a bad value, and a result type that the format does not list;
BOUNDS with x for a tload out of range under BMODE 2.
Where the manual is open or is read by inference, it follows the model's choices of log 10 (DESIGN CHOICE), log 11 (PRESUMED), log 14 (DESIGN
CHOICE: when a stop is reported), log 28 (DESIGN CHOICE), log 29 (PRESUMED), log 47 (DEDUCED), log 60 (PRESUMED),
log 64 (DESIGN CHOICE: what holds an entry of the return buffer). -/
def Obligations.TextureReads : Prop :=
  ∀ (o : LOp) (s : State), s.bufferFull = false →
    let m := s.enabled o
    let idle (i : Instr) : Prop :=
      s.laneCheck i o = none → m = 0 → ∃ u, exec i s = .next u ∧ LongIssued s u o.la.toNat o.size 0 [] 0
    let color (g : Image) (p : Tap × Option (List (Loc × Nat))) : List W32 :=
      match p.2, p.1.place with
      | some ps, some (_, x, y, _) => texel g (s.loadParts ps).2 (x % g.bw) (y % g.bh)
      | _, _ => [0, 0, 0, 0]
    let reads (i : Instr) (taps : Image → Nat → Option (List Tap)) (f : Image → List (List W32 × Nat) → List W32) : Prop :=
      s.laneCheck i o = none → m ≠ 0 → s.redQueues = [] → ∀ s1 g, s.texImage o = .ok (s1, g) →
        (∀ l ∈ lanesOf m, (taps g l).isSome) →
        ∀ as, gather ((lanesOf m).map fun l => (l, s1.tapPlaces g ((taps g l).getD []))) = .ok as →
          ∃ u, exec i s = .next u ∧ CachesOnly s u
            ∧ LongIssued { s with cores := u.cores } u o.la.toNat o.size 0
                (regsResult o.d.toNat 4 m (as.map fun p => (p.1, pack4 (f g (p.2.map fun q => (color g q, q.1.weight)))))) 0
    let stops (i : Instr) (taps : Image → Nat → Option (List Tap)) : Prop :=
      s.laneCheck i o = none → m ≠ 0 →
        (∀ st, s.texImage o = .error st → ∃ u, exec i s = .next u ∧ StopsLong s u o.la.toNat o.size [] st)
        ∧ ∀ s1 g, s.texImage o = .ok (s1, g) → (∀ l ∈ lanesOf m, (taps g l).isSome) → ∀ st ps,
            gather ((lanesOf m).map fun l => (l, s1.tapPlaces g ((taps g l).getD []))) = .error (st, ps) →
              ∃ u, exec i s = .next u ∧ StopsLong s1 u o.la.toNat o.size ps st
    let record : Stop := .trap { cause := 0x12, tval := BitVec.ofNat 64 o.sub.toNat }
    let coord (g : Image) (l : Nat) : Option TexCoord :=
      texCoord g (s.lane o.a.toNat l) (s.lane (o.a.toNat + 1) l) (s.lane (o.a.toNat + 2) l)
    let sampled (g : Image) (l : Nat) : Option (List Tap) :=
      match coord g l, s.laneLod g o m l with | some c, some x => some (sampleTaps g o.imm c x) | _, _ => none
    let gathered (g : Image) (l : Nat) : Option (List Tap) := (coord g l).map fun c => gatherTaps g o.imm c
    let load (g : Image) (l : Nat) : Except Stop Tap :=
      loadTap g o.imm.toNat (s.lane o.a.toNat l).toNat (s.lane (o.a.toNat + 1) l).toNat (s.lane (o.a.toNat + 2) l).toNat
    idle (.tsamp o) ∧ idle (.tgath o) ∧ idle (.tload o) ∧ idle (.tquery o)
    ∧ reads (.tsamp o) sampled
        (fun g ts => if isIntImage g.ifmt then (ts.headD ([], 0)).1 else (List.range 4).map fun k => weighted k ts)
    ∧ reads (.tgath o) gathered (fun _ ts => ts.map fun t => t.1.getD (bits o.f 1 0) 0)
    ∧ reads (.tload o) (fun g l => match load g l with | .ok t => some [t] | .error _ => none) (fun _ ts => (ts.headD ([], 0)).1)
    ∧ stops (.tsamp o) sampled ∧ stops (.tgath o) gathered
    ∧ (s.laneCheck (.tload o) o = none → m ≠ 0 →
        (∀ st, s.texImage o = .error st → ∃ u, exec (.tload o) s = .next u ∧ StopsLong s u o.la.toNat o.size [] st)
        ∧ ∀ s1 g, s.texImage o = .ok (s1, g) → ∀ st ps,
            gather ((lanesOf m).map fun l => (l, match load g l with | .error e => .error e | .ok t => s1.tapPlaces g [t])) = .error (st, ps) →
              ∃ u, exec (.tload o) s = .next u ∧ StopsLong s1 u o.la.toNat o.size ps st)
    ∧ (∀ (g : Image) (k x y z : Nat), g.bmode ≠ 0 → g.bmode ≠ 1 → g.mips ≤ k ∨ (g.level k).1 ≤ x ∨ (g.dim ≠ 0 ∧ (g.level k).2.1 ≤ y) →
        loadTap g k x y z = .error (.trap { cause := 0x13, tval := BitVec.ofNat 64 x }))
    ∧ (s.team.hdr.recCount ≤ o.sub.toNat → s.texImage o = .error record ∧ s.imageRec { kind := 6 } o.sub.toNat = .error record)
    ∧ (∀ s1 g, s.imageRec { kind := 6 } o.sub.toNat = .ok (s1, g) →
        s.texImage o = if resultTypeOk g.ifmt (bits o.f 3 2) then .ok (s1, g) else .error record)
    ∧ (s.laneCheck (.tquery o) o = none → m ≠ 0 → ∀ st, s.imageRec { kind := 6 } o.sub.toNat = .error st →
        ∃ u, exec (.tquery o) s = .next u ∧ StopsLong s u o.la.toNat o.size [] st)
    ∧ (s.laneCheck (.tquery o) o = none → m ≠ 0 → s.redQueues = [] → ∀ s1 g, s.imageRec { kind := 6 } o.sub.toNat = .ok (s1, g) →
        let k := o.imm.toNat
        let v : Nat := if k < g.mips then
            (g.level k).1 + (g.level k).2.1 * 2 ^ 32 + (g.level k).2.2 * 2 ^ 64 + g.mips * 2 ^ 96 else 0
        ∃ u, exec (.tquery o) s = .next u ∧ CachesOnly s u
          ∧ LongIssued { s with cores := u.cores } u o.la.toNat o.size 0 (regsResult o.d.toNat 4 m ((lanesOf m).map fun l => (l, v))) 0)

/-! ### The scalar stream -/

/-- 03 R89, R78-R80, R84, 13 R362, R364: the scalar integer instructions, in both streams that execute them: F selects saturation or the
unsigned form, shift amounts are the whole of B, nothing traps; in the line sequencer a next word behind the bank is a program fault of
MISALIGN after D is written.
Where the manual is open or is read by inference, it follows the model's choices of log 45 (DEDUCED). -/
def Obligations.ScalarArithmetic : Prop :=
  let int (u : Bool) (x : W64) : Int := if u then (x.toNat : Int) else x.toInt
  let fit (f : Nat) (v : Int) : W64 :=
    BitVec.ofInt 64 (if f = 0 then v else if f = 2 then min (max v 0) (2 ^ 64 - 1) else min (max v (-2 ^ 63)) (2 ^ 63 - 1))
  let i (f : Nat) (x : W64) : Int := int (f == 2) x
  let u (f : Nat) : Bool := f == 1
  let least : W64 := BitVec.twoPow 64 63
  ScalarBoth .saddS32 .saddS64 (fun f _ a b => fit f (i f a + i f b))
  ∧ ScalarBoth .ssubS32 .ssubS64 (fun f _ a b => fit f (i f a - i f b))
  ∧ ScalarBoth .smulS32 .smulS64 (fun f _ a b => fit f (i f a * i f b))
  ∧ ScalarBoth .smulhiS32 .smulhiS64 (fun f _ a b => BitVec.ofInt 64 (int (u f) a * int (u f) b / 2 ^ 64))
  ∧ ScalarBoth .sdivS32 .sdivS64 (fun f _ a b =>
      if b = 0 then BitVec.allOnes 64 else if f ≠ 1 ∧ a = least ∧ b = BitVec.allOnes 64 then least
      else BitVec.ofInt 64 ((int (u f) a).tdiv (int (u f) b)))
  ∧ ScalarBoth .sremS32 .sremS64 (fun f _ a b =>
      if b = 0 then a else if f ≠ 1 ∧ a = least ∧ b = BitVec.allOnes 64 then 0 else BitVec.ofInt 64 ((int (u f) a).tmod (int (u f) b)))
  ∧ ScalarBoth .sminS32 .sminS64 (fun f _ a b => if int (u f) a ≤ int (u f) b then a else b)
  ∧ ScalarBoth .smaxS32 .smaxS64 (fun f _ a b => if int (u f) a ≤ int (u f) b then b else a)
  ∧ ScalarBoth .sandS32 .sandS64 (fun _ _ a b => a &&& b)
  ∧ ScalarBoth .sorS32 .sorS64 (fun _ _ a b => a ||| b)
  ∧ ScalarBoth .sxorS32 .sxorS64 (fun _ _ a b => a ^^^ b)
  ∧ ScalarBoth .sandnS32 .sandnS64 (fun _ _ a b => a &&& ~~~b)
  ∧ ScalarBoth .sshlS32 .sshlS64 (fun _ _ a b => if 64 ≤ b.toNat then 0 else a <<< b.toNat)
  ∧ ScalarBoth .sshrS32 .sshrS64 (fun _ _ a b => if 64 ≤ b.toNat then 0 else a >>> b.toNat)
  ∧ ScalarBoth .ssraS32 .ssraS64 (fun _ _ a b => a.sshiftRight (min b.toNat 63))
  ∧ ScalarBoth .sbfeS32 .sbfeS64 (fun f _ a b =>
      let pos := b.toNat % 256
      let len := b.toNat / 256 % 256
      let field : BitVec len := BitVec.ofInt len (int (f == 0) a / 2 ^ pos)
      if len = 0 then 0 else if f = 0 then field.setWidth 64 else field.signExtend 64)
  ∧ ScalarBoth .sbfiS32 .sbfiS64 (fun _ d a b =>
      let pos := b.toNat % 256
      let end_ := min (pos + b.toNat / 256 % 256) 64
      let m : W64 := BitVec.ofNat 64 (2 ^ end_ - 2 ^ pos)
      (d &&& ~~~m) ||| ((a <<< pos) &&& m))
  ∧ (∀ w, ScalarGives (.spopc w) 4 w.d.toNat fun s =>
      BitVec.ofNat 64 ((List.range 64).filter (s.rs w.a.toNat).getLsbD).length)
  ∧ (∀ w, ScalarGives (.sclz w) 4 w.d.toNat fun s =>
      BitVec.ofNat 64 ((List.range 64).takeWhile fun i => !(s.rs w.a.toNat).getMsbD i).length)
  ∧ (∀ w, ScalarGives (.sctz w) 4 w.d.toNat fun s =>
      BitVec.ofNat 64 ((List.range 64).takeWhile fun i => !(s.rs w.a.toNat).getLsbD i).length)
  ∧ ScalarBoth .smovS32 .smovS64 (fun _ _ _ b => b)
  ∧ (∀ o, ScalarGives (.sli o) 12 o.w.d.toNat fun _ => o.e2 ++ o.e1)
  ∧ ScalarBoth .scmpS32 .scmpS64 (fun f _ a b =>
      if int (u f) a < int (u f) b then BitVec.allOnes 64 else if a = b then 0 else 1)
  ∧ ScalarBoth .sselS32 .sselS64 (fun _ d a b => if d ≠ 0 then a else b)
  ∧ ScalarBoth .sleaS32 .sleaS64 (fun f _ a b => a + (b <<< f))

/-- 05 R139, R141, 02 R39: the scalar stream's branches go to their target when taken and on when not; a target that is
no multiple of 4 traps MISALIGN in either case; calls leave the return address in D, and scall with D = A goes where A pointed before
(DESIGN CHOICE, log 54); sexit ends the stream; sdqpush
appends A to the decision queue, freeing what every live group has taken, and waits while 32 entries stand there.

05 R139, R141, 13 R362, R364: in the line sequencer sbr and sjmp go on at their target, a byte offset of the program bank, when taken, and at the
next word of the bank when not; a target that is no multiple of 4 or lies outside the bank, and a next word behind it, is a
program fault of MISALIGN, whether or not the branch is taken. Nothing else changes.
Where the manual is open or is read by inference, it follows the model's choices of log 45 (DEDUCED), log 54 (DESIGN CHOICE). -/
def Obligations.ScalarControl : Prop :=
  (∀ s : State, s.cur.stream = .sequencer →
    let branch (i : Instr) (words : Nat) (target : Int) (taken : Bool) : Prop :=
      let fault : Out := .next { s with head := { s.head with fault := some 0x0B } }
      (target % 4 ≠ 0 ∨ target < 0 ∨ 16384 ≤ target → exec i s = fault)
      ∧ (target % 4 = 0 → 0 ≤ target → target < 16384 →
          (taken = true → exec i s = .next { s with head := { s.head with pc := (target / 4).toNat } })
          ∧ (taken = false → s.head.pc + words < 4096 → exec i s = .next { s with head := { s.head with pc := s.head.pc + words } })
          ∧ (taken = false → 4096 ≤ s.head.pc + words → exec i s = fault))
    (∀ o : S64,
      let x := s.rs o.w.a.toNat
      branch (.sbr o) 2 (4 * s.head.pc + o.e1.toInt)
        (match o.w.f.toNat with | 0 => x == 0 | 1 => x != 0 | 2 => decide (x.toInt < 0) | _ => decide (0 < x.toInt)))
    ∧ (∀ w : S32, branch (.sjmpS32 w) 1 (s.rs w.a.toNat).toNat true)
    ∧ ∀ o : S64, branch (.sjmpS64 o) 2 (4 * s.head.pc + o.e1.toInt) true)
  ∧ ∀ s : State, s.cur.stream = .scalar →
    let branch (i : Instr) (size : Nat) (target : W64) (taken : Bool) (link : Option Nat) : Prop :=
      (target.toNat % 4 ≠ 0 → exec i s = .next (s.raiseScalar { cause := 0x0B, tval := target } size))
      ∧ (target.toNat % 4 = 0 → ∃ t, exec i s = .next t
          ∧ t = { s with
              team := { s.team with
                s := t.team.s, spc := if taken then target else s.team.spc + BitVec.ofNat 64 size, sphase := 0 } }
          ∧ ScalarWritten s t (link.getD 0) (s.team.spc + BitVec.ofNat 64 size))
    (∀ o : S64,
      let a := s.rs o.w.a.toNat
      branch (.sbr o) 8 (s.team.spc + o.e1.signExtend 64)
        (match o.w.f.toNat with | 0 => a == 0 | 1 => a != 0 | 2 => decide (a.toInt < 0) | _ => decide (0 < a.toInt)) none)
    ∧ (∀ w : S32, branch (.sjmpS32 w) 4 (s.rs w.a.toNat) true none)
    ∧ (∀ o : S64, branch (.sjmpS64 o) 8 (s.team.spc + o.e1.signExtend 64) true none)
    ∧ (∀ w : S32, branch (.scallS32 w) 4 (s.rs w.a.toNat) true (some w.d.toNat))
    ∧ (∀ o : S64, branch (.scallS64 o) 8 (s.team.spc + o.e1.signExtend 64) true (some o.w.d.toNat))
    ∧ (∀ w : S32, branch (.sret w) 4 (s.rs w.a.toNat) true none)
    ∧ (∀ w : S32, exec (.sexit w) s = .next { s with team := { s.team with spc := s.team.spc + 4, sphase := 0, srun := false } })
    ∧ ∀ w : S32,
      (32 ≤ s.team.dq.length → exec (.sdqpush w) s = .next s.wait)
      ∧ (s.team.dq.length < 32 → exec (.sdqpush w) s =
          .next { s with team := { freeDq { s.team with dq := s.team.dq ++ [s.rs w.a.toNat] } with spc := s.team.spc + 4, sphase := 0 } })

/-- 07 R175, R178, R179, R197-R201, R204: scalar memory accesses of 8, 4, 2 or 1 bytes, or of 4 or 8 for satom. In the window, an
aligned offset below the spill stacks (for stores at or above byte 384) is read, zero-extended, or written, and a store
makes its sectors' race records none; one that is not aligned traps MISALIGN with it, another that is outside SPAD_RANGE with the first
byte outside. In device or host memory an aligned address that translates is read or written, a misaligned one
traps MISALIGN, one whose translation traps, traps so, and the stream parks on a replayable fault, which is posted. satom leaves the operation's value and returns the old one; host memory takes add of
integers, exch and cas, on pages where the host completes AtomicOps, and PERM_FAULT is raised otherwise. Nothing else changes.
Where the manual is open or is read by inference, it follows the model's choices of log 6 (DEDUCED), log 57 (DESIGN CHOICE), log 63
(DESIGN CHOICE). -/
def Obligations.ScalarMemory : Prop :=
  ∀ s : State, s.cur.stream = .scalar →
    let width (f : BitVec 2) : Nat := match f.toNat with | 0 => 8 | 1 => 4 | 2 => 2 | _ => 1
    let ok (a : Int) (n : Nat) (write : Bool) : Prop :=
      a % n = 0 ∧ 0 ≤ a ∧ (write = true → 384 ≤ a) ∧ a + n ≤ spillBase s.team
    let stored (t : State) (a n x : Nat) : Prop :=
      (∀ b, a ≤ b → b < a + n → readByte t.team.win b = BitVec.ofNat 8 (x / 256 ^ (b - a)))
      ∧ ∀ b, b < a ∨ a + n ≤ b → readByte t.team.win b = readByte s.team.win b
    let bad (i : Instr) (size : Nat) (a : Int) (n : Nat) (write : Bool) : Prop :=
      let traps (x : Trap) : Prop := exec i s = .next (s.raiseScalar x size)
      (a % n ≠ 0 → traps { cause := 0x0B, tval := BitVec.ofInt 64 a })
      ∧ (a % n = 0 → a < 0 ∨ (write = true ∧ a < 384) → traps { cause := 0x06, tval := BitVec.ofInt 64 a })
      ∧ (a % n = 0 → 0 ≤ a → (write = true → 384 ≤ a) → spillBase s.team < a + n →
          traps { cause := 0x06, tval := BitVec.ofInt 64 (max a (spillBase s.team)) })
    let winLoad (i : Instr) (w : S32) (size : Nat) (off : Int) : Prop :=
      let a : Int := (s.rs w.a.toNat).toNat + off
      (ok a (width w.f) false → ∃ t, exec i s = .next t ∧ ScalarWent s t size
        ∧ ScalarWritten s t w.d.toNat (BitVec.ofNat 64 (winRead s.team a.toNat (width w.f))))
      ∧ bad i size a (width w.f) false
    let winStore (i : Instr) (w : S32) (size : Nat) (off : Int) : Prop :=
      let a : Int := (s.rs w.a.toNat).toNat + off
      (ok a (width w.f) true → ∃ t, exec i s = .next t
        ∧ t = { s with
            team := { s.team with win := t.team.win, race := t.team.race, spc := s.team.spc + BitVec.ofNat 64 size, sphase := 0 } }
        ∧ stored t a.toNat (width w.f) (s.rs w.b.toNat).toNat
        ∧ ∀ k, t.team.race.lookup k =
            if a.toNat / 32 ≤ k ∧ k ≤ (a.toNat + width w.f - 1) / 32 then none else s.team.race.lookup k)
      ∧ bad i size a (width w.f) true
    let glob (i : Instr) (n size : Nat) (va : W64) (write : Bool) (f : Loc → Prop) : Prop :=
      (va.toNat % n ≠ 0 → exec i s = .next (s.raiseScalar { cause := 0x0B, tval := va } size))
      ∧ (va.toNat % n = 0 →
        (∀ x, s.xlate s.team.vf s.team.ctx { kind := 8, write := write } va = .error (.trap x) → exec i s = .next (s.raiseScalar x size))
        ∧ (∀ q, s.xlate s.team.vf s.team.ctx { kind := 8, write := write } va = .error (.page q) →
            let r := s.postFault s.team.vf s.team.ctx s.team.core s.team.spc q
            exec i s = .next { r.1 with team := { r.1.team with spark := [r.2] } })
        ∧ ∀ loc, s.xlate s.team.vf s.team.ctx { kind := 8, write := write } va = .ok loc → f loc)
    let globLoad (i : Instr) (w : S32) (size : Nat) (off : W64) : Prop :=
      glob i (width w.f) size (s.rs w.a.toNat + off) false fun loc =>
        s.redQueues = [] → ∃ t, exec i s = .next t ∧ ScalarWent s t size
          ∧ ScalarWritten s t w.d.toNat (BitVec.ofNat 64 (match loc with
            | .dev a => readBytes s.mem a (width w.f)
            | .host a => readBytes s.hostMem a (width w.f)))
    let put (t : State) (loc : Loc) (n x : Nat) : Prop :=
      let inside (m m' : Store Byte) (a : Nat) : Prop :=
        (∀ b, a ≤ b → b < a + n → readByte m' b = BitVec.ofNat 8 (x / 256 ^ (b - a)))
        ∧ ∀ b, b < a ∨ a + n ≤ b → readByte m' b = readByte m b
      match loc with
      | .dev a => inside s.mem t.mem a ∧ t.hostMem = s.hostMem
      | .host a => inside s.hostMem t.hostMem a ∧ t.mem = s.mem
    let globStore (i : Instr) (w : S32) (size : Nat) (off : W64) : Prop :=
      glob i (width w.f) size (s.rs w.a.toNat + off) true fun loc =>
        s.redQueues = [] → ∃ t, exec i s = .next t
          ∧ t = { s with mem := t.mem, hostMem := t.hostMem, team := { s.team with spc := s.team.spc + BitVec.ofNat 64 size, sphase := 0 } }
          ∧ put t loc (width w.f) (s.rs w.b.toNat).toNat
    (∀ w : S32, winLoad (.sldsS32 w) w 4 0 ∧ winStore (.sstsS32 w) w 4 0 ∧ globLoad (.sldgS32 w) w 4 0 ∧ globStore (.sstgS32 w) w 4 0)
    ∧ (∀ o : S64, winLoad (.sldsS64 o) o.w 8 o.e1.toInt ∧ winStore (.sstsS64 o) o.w 8 o.e1.toInt
        ∧ globLoad (.sldgS64 o) o.w 8 (o.e1.signExtend 64) ∧ globStore (.sstgS64 o) o.w 8 (o.e1.signExtend 64))
    ∧ ∀ o : S96,
      let op := bits o.e2 2 0
      let ty := bits o.e2 5 4
      let n := if bit o.e2 3 then 8 else 4
      let d := (s.rs o.w.d.toNat).toNat % 2 ^ (8 * n)
      let b := (s.rs o.w.b.toNat).toNat % 2 ^ (8 * n)
      let new (old : Nat) : Nat := if op = 7 then (if old = d then b else old) else atomOp op ty n old b
      let old64 (old : Nat) : W64 := if n = 4 ∧ ty = 0 then (BitVec.ofNat 32 old).signExtend 64 else BitVec.ofNat 64 old
      (o.w.f = 1 →
        let a : Int := (s.rs o.w.a.toNat).toNat + o.e1.toInt
        bad (.satom o) 12 a n true ∧ (ok a n true → ∃ t, exec (.satom o) s = .next t
          ∧ t = { s with team := { s.team with s := t.team.s, win := t.team.win, spc := s.team.spc + 12, sphase := 0 } }
          ∧ stored t a.toNat n (new (winRead s.team a.toNat n))
          ∧ ScalarWritten s t o.w.d.toNat (old64 (winRead s.team a.toNat n))))
      ∧ (o.w.f ≠ 1 → glob (.satom o) n 12 (s.rs o.w.a.toNat + o.e1.signExtend 64) true fun loc =>
          let completes : Prop := match loc with
            | .host a => ((op = 0 ∧ ty ≠ 2) ∨ op = 6 ∨ op = 7) ∧ a / 4096 ∉ s.hostNoAtomic
            | .dev _ => True
          let old := match loc with | .dev a => readBytes s.mem a n | .host a => readBytes s.hostMem a n
          (¬completes →
            exec (.satom o) s = .next (s.raiseScalar { cause := 0x11, tval := s.rs o.w.a.toNat + o.e1.signExtend 64 } 12))
          ∧ (completes → s.redQueues = [] → ∃ t, exec (.satom o) s = .next t
            ∧ t = { s with
                mem := t.mem, hostMem := t.hostMem, team := { s.team with s := t.team.s, spc := s.team.spc + 12, sphase := 0 } }
            ∧ put t loc n (new old) ∧ ScalarWritten s t o.w.d.toNat (old64 old)))

/-- 08 R209, R210, R216-R220, R231, R232, R238: a matrix command that passes its checks takes the lowest operation slot, which holds its words, its operand
addresses and the feed point's phase, with its k-step count at zero, and returns the slot's number; an accumulator
command joins the team's queue. Both make the team the owner of the core's accumulator memory, zeroed if it had
none; they wait while another team owns it, or no slot is free; a failed check traps. acc.rd reads, at its issue, the
element that each enabled lane names, rounded once, with its flags, MBND and MSTAT at the close of its window.
Where the manual is open or is read by inference, it follows the model's choices of log 37 (DEDUCED),
log 64 (DESIGN CHOICE: what holds an entry of the return buffer). -/
def Obligations.MatrixCommands : Prop :=
  ∀ s : State,
    let mine := (s.core s.team.core).acmOwner = some s.cur.uid
    let free := (s.core s.team.core).acmOwner = none
    let owned (t : State) : Prop :=
      (∀ k, k ≠ s.team.core → t.core k = s.core k)
      ∧ (mine → t.core s.team.core = s.core s.team.core)
      ∧ (free → t.core s.team.core = { s.core s.team.core with acmOwner := some s.cur.uid, acm := [] })
    let matrix (i : Instr) (kind : Nat) (op : BitVec 7) (o : S96) : Prop :=
      let c := MatCmd.ofWords kind o.e1 o.e2
      (∀ x, s.matrixFault kind o (o.w.word op 3) = some x → exec i s = .next (s.raiseScalar x 12))
      ∧ (s.matrixFault kind o (o.w.word op 3) = none →
        (¬mine → ¬free → exec i s = .next s.wait)
        ∧ (mine → (∀ n < 4, (s.team.matOps.lookup n).isSome) → exec i s = .next s.wait)
        ∧ (mine ∨ free → ∀ n < 4, s.team.matOps.lookup n = none → (∀ k < n, (s.team.matOps.lookup k).isSome) →
          ∃ t m, exec i s = .next t ∧ owned t
            ∧ t = { s with
                cores := t.cores,
                team := { s.team with
                  s := t.team.s, matOps := t.team.matOps, mprog := t.team.mprog, matIssued := s.team.matIssued + 1,
                  acmUsed := s.team.acmUsed ||| c.slots, spc := s.team.spc + 12, sphase := 0 } }
            ∧ (∀ k, t.team.matOps.lookup k = if k = n then some m else s.team.matOps.lookup k)
            ∧ (∀ k, t.team.mprog.get 0 k = if k = n then 0 else s.team.mprog.get 0 k)
            ∧ m.kind = kind ∧ m.e1 = o.e1 ∧ m.e2 = o.e2 ∧ m.pc = s.team.spc ∧ m.order = s.team.matIssued ∧ m.granted = false ∧ m.feedWait = false
            ∧ m.a = s.rs o.w.a.toNat ∧ m.b = s.rs o.w.b.toNat
            ∧ (c.feed < 24 → m.feedBase = (s.team.points.get {} c.feed).phase)
            ∧ (s.cur.stream = .scalar → ScalarWritten s t o.w.d.toNat (BitVec.ofNat 64 n))))
    let macc (i : Instr) (kind : Nat) (op : BitVec 7) (o : S64) : Prop :=
      let m : MaccOp := { kind := kind, e1 := o.e1, order := s.team.matIssued, a := s.rs o.w.a.toNat, b := s.rs o.w.b.toNat }
      (∀ x, s.maccFault kind o (o.w.word op 2) = some x → exec i s = .next (s.raiseScalar x 8))
      ∧ (s.maccFault kind o (o.w.word op 2) = none →
        (¬mine → ¬free → exec i s = .next s.wait)
        ∧ (mine ∨ free → ∃ t, exec i s = .next t ∧ owned t
            ∧ t = { s with
                cores := t.cores,
                team := { s.team with
                  maccOps := s.team.maccOps ++ [m], matIssued := s.team.matIssued + 1, acmUsed := s.team.acmUsed ||| m.slots,
                  spc := s.team.spc + 8, sphase := 0 } }))
    s.cur.stream ≠ .sequencer →
    (∀ o : S96, matrix (.mmul o) 0 0x50 o ∧ matrix (.mmulp o) 1 0x51 o ∧ matrix (.mmv o) 2 0x56 o)
    ∧ (∀ o : S64, macc (.maccLd o) 0 0x52 o ∧ macc (.maccSt o) 1 0x53 o ∧ macc (.maccRb o) 2 0x54 o ∧ macc (.maccClr o) 3 0x55 o)
    ∧ ∀ o : LOp, s.bufferFull = false → s.laneCheck (.accRd o) o = none →
      (¬mine → ¬free → exec (.accRd o) s = .next s.wait)
      ∧ (mine ∨ free →
        let lay := match o.cField with | some c => c.toNat | none => 0
        let ft := bits o.f 1 0
        let m := s.enabled o
        let acm : Store Byte := if (s.core s.team.core).acmOwner = none then [] else (s.core s.team.core).acm
        let raw (l : Nat) : Nat :=
          let x := (s.lane o.a.toNat l).toNat % 4096
          readBytes acm (accAddr lay o.b.toNat (x / 64) (x % 64)) (layBytes lay)
        let r (l : Nat) := readoutEl lay (ftFmt ft) (roundingOf (bits o.f 3 2) s.grp.fpctl) (bit s.grp.fpctl 2) (AccEl.ofRaw lay (raw l))
        let reads (n : Nat) (f : Nat → Nat) (flags : W32) (out : Option (W64 × W32)) : Prop :=
          ∃ u, exec (.accRd o) s = .next u ∧ owned u
            ∧ LongIssued { s with cores := u.cores } u o.la.toNat 8 0 (regsResult o.d.toNat n m ((lanesOf m).map fun l => (l, f l))) flags out
        (m = 0 → ∃ u, exec (.accRd o) s = .next u ∧ owned u ∧ LongIssued { s with cores := u.cores } u o.la.toNat 8 0 [] 0)
        ∧ (m ≠ 0 → lay = 0 → reads 1 raw 0 (some (0, 0)))
        ∧ (m ≠ 0 → lay ≠ 0 → reads (if ft = 1 then 2 else 1) (fun l => (r l).1) (unionFlags m fun l => (r l).2.1)
            (some (mbndOf ((lanesOf m).map fun l => (r l).2.2.2), unionFlags m fun l => (r l).2.2.1))))

/-- 09 R246-R252: sboard, salight, swcap, its until form, and swrew. On their first turn they queue their one action at the stop of the key's
strand and wait; later turns wait until it has performed. sboard reserves a slot and names a home address from its s register where
E1[11] = 1; a home that is not 64-byte aligned traps MISALIGN, one that no slot can hold PAGE_FAULT, a full quota QUOTA.
Where the manual is open or is read by inference, it follows the model's choices of log 38 (DEDUCED). -/
def Obligations.ScalarRingActions : Prop :=
  ∀ (o : S96) (s : State), s.cur.stream = .scalar →
    let key : W32 := (s.rs o.w.a.toNat).truncate 32
    let cw : W32 := (o.e2 &&& 0xFFFF0000) ||| (o.e1 &&& 0xFFFF)
    let sc := s.rs (bits o.e2 13 7)
    let v := s.vf s.team.vf
    let act (kind : Nat) (home : Option W64) : RingAct :=
      { kind := kind, id := s.ringIssued, uid := s.cur.uid, vf := s.team.vf, ctx := s.team.ctx, pc := s.team.spc, dest := o.w.d.toNat,
        stReg := bits o.e2 6 0, key := key, cw := cw, op := bits o.e1 31 28, home := home, since := s.ringStep,
        lanes := [{ lane := 0, field := bits o.e1 3 0 % (if bit o.e1 12 then 8 else 16), b := s.rs o.w.b.toNat, new := sc }] }
    let queues (i : Instr) (kind : Nat) (home : Option W64) : Prop :=
      ∃ t, exec i s = .next t
        ∧ (∀ k, k ≠ s.team.core → t.core k = s.core k)
        ∧ t.core s.team.core = { s.core s.team.core with stops := (t.core s.team.core).stops }
        ∧ (∀ st, (t.core s.team.core).stops.get [] st =
            (s.core s.team.core).stops.get [] st ++ (if key.toNat % 8 = st then [act kind home] else []))
        ∧ (∀ k, t.vf k = if kind = 0 ∧ k = s.team.vf then { s.vf k with ringHeld := (s.vf k).ringHeld + 1 } else s.vf k)
        ∧ t = { s with
            ringIssued := s.ringIssued + 1, cores := t.cores, vfs := t.vfs, cur := { s.cur with waited := true },
            team := { s.team with sphase := 1 } }
    (s.team.sphase ≠ 0 → ∀ i ∈ [Instr.sboard o, .salight o, .swcap o, .swrew o], exec i s = .next s.wait)
    ∧ (s.team.sphase = 0 →
      let traps (x : Trap) : Prop := exec (.sboard o) s = .next (s.raiseScalar x 12)
      let homed := bit o.e1 11 = true
      let aligned := sc.toNat % 64 = 0
      let near := bits sc 63 53 = 0 ∨ bits sc 63 53 = 2047
      (homed → ¬aligned → traps { cause := 0x0B, tval := sc })
      ∧ (homed → aligned → ¬near → traps { cause := 0x10, tval := sc })
      ∧ (¬homed ∨ (aligned ∧ near) →
          (v.quota < v.ringHeld + 1 → traps { cause := 0x15, tval := key.zeroExtend 64 })
          ∧ (v.ringHeld + 1 ≤ v.quota → queues (.sboard o) 0 (if bit o.e1 11 then some sc else none)))
      ∧ queues (.salight o) 1 none
      ∧ (bit o.e1 11 = false → queues (.swcap o) 2 none)
      ∧ (bit o.e1 11 = true → queues (.swcap o) 3 none)
      ∧ queues (.swrew o) 4 none)

/-- 10 R275, R278-R286, R288, 14 R379, R383: engine commands. xcopy and xcoll that pass their checks leave for their engine with their words and
operands, counted in the publish set they write, whose shadow backing of this moment they will write (R285), and the stream goes on; xcopy takes the lowest free entry of eight.
xpub changes a valid, idle set over, returns its new generation, and drops the VF's cached records; xdrain waits until what was
outstanding on its path at its first turn has completed, and then advances the race generation; sfence goes on.
Where the manual is open or is read by inference, it follows the model's choices of log 6 (DEDUCED), log 15 (DESIGN CHOICE), log 39 (DEDUCED). -/
def Obligations.EngineCommands : Prop :=
  ∀ s : State, s.cur.stream = .scalar →
    let t := s.team
    let going (size : Nat) : Team := { t with spc := t.spc + BitVec.ofNat 64 size, sphase := 0 }
    let shadow (k : Nat) : Option (Nat × Bool) := some (k, !((s.vf t.vf).pubs.get {} k).cur)
    let counted (u : State) (set : Option (Nat × Bool)) : Prop :=
      (set = none → u.vfs = s.vfs)
      ∧ ∀ k back, set = some (k, back) → ∃ x, VfIs s u t.vf { s.vf t.vf with pubs := x } ∧ ∀ j, x.get {} j =
          if j = k then { (s.vf t.vf).pubs.get {} k with inflight := ((s.vf t.vf).pubs.get {} k).inflight + 1 }
          else (s.vf t.vf).pubs.get {} j
    (∀ o : S96,
      let set : Option (Nat × Bool) := if bit o.e1 22 then shadow (bits o.e1 21 12) else none
      let entry (n : Nat) : Option CopyOp := (s.core t.core).copies.lookup n
      (∀ x, s.copyFault o = .error x → exec (.xcopy o) s = .next (s.raiseScalar x 12))
      ∧ ∀ st dt, s.copyFault o = .ok (st, dt) →
        ((∀ n < 8, (entry n).isSome) ∨ s.pubFull t.vf set = true → exec (.xcopy o) s = .next s.wait)
        ∧ ∀ n < 8, entry n = none → (∀ k < n, (entry k).isSome) → s.pubFull t.vf set = false →
          let c : CopyOp :=
            { order := s.engineIssued, uid := s.cur.uid, vf := t.vf, ctx := t.ctx, e1 := o.e1, e2 := o.e2, f := o.w.f.toNat,
              src := s.rs o.w.a.toNat, dst := s.rs o.w.b.toNat, scd := if o.w.f = 0 then 0 else s.rs o.w.d.toNat,
              srcTeam := st, dstTeam := dt, pub := set }
          ∃ u, exec (.xcopy o) s = .next u ∧ counted u set
            ∧ (∃ x, CoreIs s u t.core { s.core t.core with copies := x } ∧ ∀ k, x.lookup k = if k = n then some c else entry k)
            ∧ u = { s with engineIssued := s.engineIssued + 1, cores := u.cores, vfs := u.vfs, team := going 12 })
    ∧ (∀ o : S96,
      let set : Option (Nat × Bool) := if bit o.e1 15 then shadow (bits o.e1 14 5) else none
      let p := bits o.e1 20 16
      (p ≠ 31 → t.hdr.rdv ≤ p → exec (.xcoll o) s = .next (s.raiseScalar { cause := 0x05, tval := BitVec.ofNat 64 p } 12))
      ∧ (p = 31 ∨ p < t.hdr.rdv →
        (s.pubFull t.vf set = true → exec (.xcoll o) s = .next s.wait)
        ∧ (s.pubFull t.vf set = false → ∃ u, exec (.xcoll o) s = .next u ∧ counted u set
          ∧ u = { s with
              engineIssued := s.engineIssued + 1, vfs := u.vfs, team := going 12,
              collWait := s.collWait ++
                [{ order := s.engineIssued, uid := s.cur.uid, vf := t.vf, ctx := t.ctx, core := t.core, e1 := o.e1, e2 := o.e2,
                   f := o.w.f.toNat, src := s.rs o.w.a.toNat, dst := s.rs o.w.b.toNat, part := s.rs o.w.d.toNat, pub := set }] })))
    ∧ (∀ w : S32,
      let k := bits (s.rs w.a.toNat) 9 0
      let p : PubSet := (s.vf t.vf).pubs.get {} k
      let traps (v : Nat) : Prop := exec (.xpub w) s = .next (s.raiseScalar { cause := 0x16, tval := BitVec.ofNat 64 v } 4)
      (p.valid = false → traps (2 ^ 63 + k))
      ∧ (p.valid = true → p.inflight ≠ 0 → w.f = 0 → traps k)
      ∧ (p.valid = true → p.inflight ≠ 0 → w.f ≠ 0 → exec (.xpub w) s = .next s.wait)
      ∧ (p.valid = true → p.inflight = 0 → ∃ u, exec (.xpub w) s = .next u
          ∧ (∃ x, VfIs s u t.vf { s.vf t.vf with pubs := x }
              ∧ ∀ j, x.get {} j = if j = k then { p with cur := !p.cur, gen := p.gen + 1 } else (s.vf t.vf).pubs.get {} j)
          ∧ (∀ c, u.core c = { s.core c with recs := (u.core c).recs }
              ∧ ∀ r, (u.core c).recs.lookup r =
                  if (s.launch (r / 256)).vf = t.vf then none else (s.core c).recs.lookup r)
          ∧ ScalarWent { s with vfs := u.vfs, cores := u.cores } u 4
          ∧ ScalarWritten s u w.d.toNat ((p.gen + 1).zeroExtend 64)))
    ∧ (∀ w : S32,
      let out := s.outstanding t.core w.f.toNat
      let wanted := if t.sphase = 0 then out else t.drain
      ((∀ x ∈ wanted, x ∉ out) → exec (.xdrain w) s = .next { s with team := { going 4 with drain := [], raceGen := t.raceGen + 1 } })
      ∧ ((∃ x ∈ wanted, x ∈ out) → exec (.xdrain w) s =
          .next { s with cur := { s.cur with waited := true }, team := { t with sphase := 1, drain := wanted } }))
    ∧ ∀ w : S32, exec (.sfence w) s = .next { s with team := going 4 }

/-- 11 R302-R312: sfsnew makes the lowest free device scope a child of a valid scope; sfswait returns a scope's status, waiting
until it is done unless F = 2, and with F = 1 deletes a device scope and all below it; sqfence reads a queue's fence count,
waiting with F = 1 until it reaches B; slaunch reads a packet of 64 bytes, raises its scope by one, or that of a new child
with F = 1, and appends it to the context's device queue, with the kernel header that it names (02 R61), which the header cache takes
now, and the memory (02 R40) as they stand at this moment, waiting while 256 packets stand there. FINISH_OVERFLOW names an invalid
scope or one that finds no child free.
Where the manual is open or is read by inference, it follows the model's choices of log 41 (DEDUCED). -/
def Obligations.LaunchInstructions : Prop :=
  ∀ s : State, s.cur.stream = .scalar →
    let t := s.team
    let ctx := s.ctx t.vf t.ctx
    let lowest (n : Nat) : Prop := 64 ≤ n ∧ n < 256 ∧ (ctx.scope n).valid = false ∧ ∀ k, 64 ≤ k → k < n → (ctx.scope k).valid = true
    let full : Prop := ∀ k, 64 ≤ k → k < 256 → (ctx.scope k).valid = true
    let child (p : Nat) : Scope := { valid := true, hasParent := true, parent := p }
    let overflow (i : Instr) (v : Nat) : Prop := exec i s = .next (s.raiseScalar { cause := 0x42, tval := BitVec.ofNat 64 v } 4)
    let status (k : Nat) : W64 :=
      let x := ctx.scope k
      if x.valid = false then 0x400
      else BitVec.ofNat 64 (x.count % 2 ^ 32 * 2 ^ 32 + (if x.err then 0x200 else 0) + (if Context.done 257 ctx k then 0x100 else 0) + x.cause)
    (∀ w : S32,
      let p := bits (s.rs w.a.toNat) 7 0
      ((ctx.scope p).valid = false → overflow (.sfsnew w) (2 ^ 63 + p))
      ∧ ((ctx.scope p).valid = true → full → overflow (.sfsnew w) p)
      ∧ ((ctx.scope p).valid = true → ∀ n, lowest n → ∃ (u : State) (c : Context), exec (.sfsnew w) s = .next u
          ∧ CtxIs s u t.vf t.ctx { ctx with scopes := c.scopes } ∧ (∀ j, c.scope j = if j = n then child p else ctx.scope j)
          ∧ ScalarWent { s with vfs := u.vfs } u 4 ∧ ScalarWritten s u w.d.toNat (BitVec.ofNat 64 n)))
    ∧ (∀ w : S32,
      let k := bits (s.rs w.a.toNat) 7 0
      let done := Context.done 257 ctx k = true
      let returns (u : State) : Prop := ScalarWent { s with vfs := u.vfs } u 4 ∧ ScalarWritten s u w.d.toNat (status k)
      (w.f = 2 ∨ (ctx.scope k).valid = false ∨ (done ∧ ¬(w.f = 1 ∧ 64 ≤ k)) → ∃ u, exec (.sfswait w) s = .next u ∧ u.vfs = s.vfs ∧ returns u)
      ∧ (w.f ≠ 2 → (ctx.scope k).valid = true → ¬done → exec (.sfswait w) s = .next s.wait)
      ∧ (w.f = 1 → 64 ≤ k → (ctx.scope k).valid = true → done → ∃ (u : State) (c : Context), exec (.sfswait w) s = .next u ∧ returns u
          ∧ CtxIs s u t.vf t.ctx { ctx with scopes := c.scopes }
          ∧ ∀ j, c.scope j = if j ∈ Context.below 257 ctx k then { valid := decide (j < 64) } else ctx.scope j))
    ∧ (∀ w : S32,
      let v := s.vf t.vf
      let q := bits (s.rs w.a.toNat) 15 0
      let f := (v.queues.get {} q).fence
      let returns (x : W64) : Prop := ∃ u, exec (.sqfence w) s = .next u ∧ ScalarWent s u 4 ∧ ScalarWritten s u w.d.toNat x
      (v.qCount ≤ q → returns (BitVec.allOnes 64))
      ∧ (q < v.qCount → w.f = 1 → f < bits (s.rs w.b.toNat) 47 0 → exec (.sqfence w) s = .next s.wait)
      ∧ (q < v.qCount → w.f ≠ 1 ∨ bits (s.rs w.b.toNat) 47 0 ≤ f → returns (BitVec.ofNat 64 f)))
    ∧ ∀ w : S32,
      let a := s.rs w.a.toNat
      let queued (s0 : State) (x : S32) (words : List W64) (n : Nat) (scopes : Nat → Scope) : Prop :=
        ∃ (u s2 : State) (c : Context), exec (.slaunch w) s = .next u ∧ (∀ j, c.scope j = scopes j)
          -- the scope has been raised as the packet arrives
          ∧ s2 = { s0 with vfs := s2.vfs } ∧ CtxIs s s2 t.vf t.ctx { ctx with scopes := c.scopes }
          ∧ (256 ≤ ctx.devq.length →
              CtxIs s u t.vf t.ctx { ctx with scopes := c.scopes }
              ∧ u = { s0 with
                  vfs := u.vfs, cur := { s.cur with waited := true }, team := { t with sphase := 1, launching := some (x, words, n) } })
          ∧ (ctx.devq.length < 256 →
              let r := s2.packetHeader t.vf t.ctx words
              CtxIs s u t.vf t.ctx { ctx with
                scopes := c.scopes,
                devq := ctx.devq ++
                  [{ words := words, addr := s.rs x.a.toNat, tpc := t.spc, scope := some n, launch := s.nextLaunch,
                     seen := r.2, code := r.1.snapshot }] }
              ∧ ScalarWent { r.1 with vfs := u.vfs, nextLaunch := s.nextLaunch + 1, team := { t with launching := none } } u 4
              ∧ ScalarWritten s u x.d.toNat (BitVec.ofNat 64 n))
      (∀ x words n, t.launching = some (x, words, n) → queued s x words n ctx.scope)
      ∧ (t.launching = none →
        (a.toNat % 64 ≠ 0 → exec (.slaunch w) s = .next (s.raiseScalar { cause := 0x0B, tval := a } 4))
        ∧ (a.toNat % 64 = 0 → s.redQueues = [] → ∀ s1 x, s.loadVa t.vf t.ctx { kind := 8 } a 64 = .ok (s1, x) →
          let word (k : Nat) : W64 := if k = 3 ∧ w.b ≠ 0 then s.rs w.b.toNat else BitVec.ofNat 64 (x / 2 ^ (64 * k))
          let words : List W64 := (List.range 8).map word
          let p := x / 2 ^ 72 % 2 ^ 8
          let bump (y : Scope) : Scope := { y with count := y.count + 1 }
          ((ctx.scope p).valid = false → overflow (.slaunch w) (2 ^ 63 + p))
          ∧ ((ctx.scope p).valid = true →
            (w.f ≠ 1 → queued s w words p fun j => if j = p then bump (ctx.scope p) else ctx.scope j)
            ∧ (w.f = 1 → full → overflow (.slaunch w) p)
            ∧ (w.f = 1 → ∀ n, lowest n → queued s w words n fun j => if j = n then bump (child p) else ctx.scope j))))

/-! ### The line sequencer -/

/-- 13 R364-R366, R371: the band instructions that hold no shared unit, in the line sequencer: what each gives, when each is a
program fault, and that nothing else changes. A latched frame's bytes are remembered, so that a pixel written since can be told
(DESIGN CHOICE, log 16). ltime gives the whole cycles from its issue to the deadline D(b) of R360, and lput keeps with its band the
margin that R374 logs: (D(b) - the cycle at which it completes) div 64, saturated.
Where the manual is open or is read by inference, it follows the model's choices of log 45 (DEDUCED). -/
def Obligations.SequencerControl : Prop :=
  ∀ s : State, s.cur.stream = .sequencer →
    let h := s.head
    let go (h : Head) (words : Nat) : Head :=
      if h.pc + words < 4096 then { h with pc := h.pc + words } else { h with fault := some 0x0B }
    let gives (h : Head) (d : BitVec 7) (x : W64) : Head := if d.toNat = 0 then h else { h with s := h.s.set d.toNat x }
    let faults (i : Instr) (c : Nat) : Prop := exec i s = .next { s with head := { h with fault := some c } }
    let ends (i : Instr) (g : Head) : Prop := exec i s = .next { s with head := go g 1 }
    -- D(b), in 1/256 cycle
    let due (b : Nat) : Int :=
      256 * (h.start : Int) + (((h.vtotal - h.vact : Nat) : Int) + h.frame * h.vtotal + 16 * b) * h.lineper - 2 * h.lineper
    ∀ w : S32,
      let k := w.f.getLsbD 0
      let set : Option PubSet := (h.set? k).map fun x => (s.vf (s.vfOfHead s.cur.hid)).pubs.get {} x
      (set = none → faults (.lgen w) 1 ∧ faults (.lgenWait w) 1 ∧ faults (.llatch w) 1)
      ∧ (set = none ↔ k = true ∧ h.sets.getLsbD 32 = true)
      ∧ (∀ p, set = some p →
          let frame : Latched :=
            { base := (if p.cur then p.pbase1 else p.pbase0) + h.srcOff.toNat, gen := p.gen,
              snap := s.mem.filter fun b =>
                decide ((if p.cur then p.pbase1 else p.pbase0) + h.srcOff.toNat ≤ b.1
                  ∧ b.1 < (if p.cur then p.pbase1 else p.pbase0) + h.srcOff.toNat + (h.sh * h.pitch + 4 * h.sw)) }
          let g := p.gen.zeroExtend 64
          ends (.lgen w) (gives h w.d g)
          ∧ (p.gen ≠ (s.rs w.a.toNat).truncate 32 → ends (.lgenWait w) (gives h w.d g))
          ∧ (p.gen = (s.rs w.a.toNat).truncate 32 → exec (.lgenWait w) s = .next { s with cur := { s.cur with waited := true } })
          ∧ (s.redQueues = [] → ends (.llatch w) (gives { h with f1 := h.f0, f0 := some frame, mfv := false } w.d g)))
      ∧ ends (.lpose w) (gives h w.d h.pose)
      ∧ exec (.ltime w) s = .next { s with head := go (gives h w.d (BitVec.ofInt 64 ((due (h.next - 1) - 256 * h.now) / 256))) 1 }
      -- band b is the last whose program has started; its put copies L rows to slot b mod 3, once
      ∧ (let b := h.next - 1
         let a := (s.rs w.a.toNat).toNat
         let n := 4 * h.outw * min 16 (h.vact - 16 * b)
         let slot := 2 ^ 20 * (b % 3)
         let cycles := 8 + (4 * h.outw * min 16 (h.vact - 16 * b) + 255) / 256
         let margin := min 0xFFFF ((due b - 256 * (h.now + cycles)) / 16384).toNat
         exec (.lend w) s = .next { s with head := ({ h with running := false }).endBand b }
         ∧ ((h.info b).ended = false → ({ h with running := false }).endBand b =
              { h with running := false, bands := h.bands.set b { h.info b with ended := true, latched := h.f0.isSome } })
         ∧ ((h.info b).put = true → ends (.lput w) h)
         ∧ ((h.info b).put = false → h.workSize < a + n → faults (.lput w) 6)
         ∧ ((h.info b).put = false → a + n ≤ h.workSize →
              ∃ t : State, exec (.lput w) s = .next t
                ∧ t = { s with
                    head := { go h 1 with bands := h.bands.set b { h.info b with put := true, margin := margin }, slots := t.head.slots } }
                ∧ ∀ x, readByte t.head.slots x =
                    if slot ≤ x ∧ x < slot + n then readByte h.work (a + (x - slot)) else readByte h.slots x))

/-- 13 R365, R368-R370: the operations on latched frames: lfetch copies source rows, lwarp computes output rows, lme asks for the
motion block and then writes one block's entry at each turn that it holds the unit; every byte of the work store they do
not name is as before. The entry names a displacement that no other beats.

13 R367, R370: lnet: the faults of its descriptor, the request for the tensor array, and one block of 32 rows at each turn that it
holds the array; the last block ends it. A layer's output byte is the exact sum, scaled and rounded to nearest even, made
non-negative with RELU, added to the byte in its place with RESID, and clamped to the output format.
Where the manual is open or is read by inference, it follows the model's choices of log 1 (DESIGN CHOICE), log 9 (DESIGN CHOICE), log 16 (DESIGN
CHOICE), log 45 (DEDUCED), log 48 (PRESUMED). -/
def Obligations.SequencerOperations : Prop :=
  (
    ∀ s : State, s.cur.stream = .sequencer → s.redQueues = [] →
      let h := s.head
      let go (h : Head) : Head := if h.pc + 2 < 4096 then { h with pc := h.pc + 2 } else { h with fault := some 0x0B }
      let faults (i : Instr) (c : Nat) : Prop := exec i s = .next { s with head := { h with fault := some c } }
      let pixels := s.freeCount + 8192 * h.sh
      let byteOf (v k : Nat) : Byte := BitVec.ofNat 8 (v / 256 ^ k)
      ∀ o : S64,
        let a := (s.rs o.w.a.toNat).toNat
        let y := (s.rs o.w.b.toNat).toNat
        (let n := (o.e1.extractLsb' 0 6).toNat + 1
         let f := if o.w.f.getLsbD 0 then h.f1 else h.f0
         (f = none → faults (.lfetch o) 1)
         ∧ ∀ fr, f = some fr →
            (h.workSize < a + n * (4 * h.sw) → faults (.lfetch o) 6)
            ∧ (a + n * (4 * h.sw) ≤ h.workSize →
                ∃ t : State, exec (.lfetch o) s = .next t
                  ∧ t = { s with freeCount := pixels, head := { go h with work := t.head.work } }
                  ∧ (∀ r x k, r < n → x < h.sw → k < 4 →
                      readByte t.head.work (a + r * 4 * h.sw + 4 * x + k) = byteOf (s.framePixel h fr x (min (y + r) (h.sh - 1))) k)
                  ∧ ∀ x, ¬(a ≤ x ∧ x < a + n * (4 * h.sw)) → readByte t.head.work x = readByte h.work x))
        ∧ (let n := (o.e1.extractLsb' 16 8).toNat + 1
           let mo := o.w.f.getLsbD 0
           let pose := if o.e1.getLsbD 8 then h.pose else 0
           ((h.f0 = none ∨ (mo = true ∧ h.mfv = false)) → faults (.lwarp o) 1)
           ∧ ∀ fr, h.f0 = some fr → ¬(mo = true ∧ h.mfv = false) →
              (h.workSize < a + 4 * h.outw * n → faults (.lwarp o) 6)
              ∧ (a + 4 * h.outw * n ≤ h.workSize →
                  ∃ t : State, exec (.lwarp o) s = .next t
                    ∧ t = { s with freeCount := pixels, head := { go h with work := t.head.work } }
                    ∧ (∀ r x k, r < n → x < h.outw → k < 4 →
                        readByte t.head.work (a + 4 * (h.outw * r + x) + k)
                          = byteOf (s.warpPixel h fr mo (o.e1.extractLsb' 0 8).toNat pose x (y + r)) k)
                    ∧ ∀ x, ¬(a ≤ x ∧ x < a + 4 * h.outw * n) → readByte t.head.work x = readByte h.work x))
        ∧ (let n := (o.e1.extractLsb' 0 8).toNat + 1
           let bw := (h.sw + 7) / 8
           ((h.f0 = none ∨ h.f1 = none) → faults (.lme o) 1)
           ∧ ∀ f0 f1, h.f0 = some f0 → h.f1 = some f1 →
              (h.workSize < 4 * (a + n) * bw → faults (.lme o) 6)
              ∧ (4 * (a + n) * bw ≤ h.workSize →
                  (h.request = none →
                    exec (.lme o) s = .next { s with cur := { s.cur with waited := true }, head := { h with request := some true, progress := 0 } })
                  ∧ (h.request ≠ none → h.granted = false → exec (.lme o) s = .next { s with cur := { s.cur with waited := true } })
                  ∧ (h.request ≠ none → h.granted = true →
                      let i := h.progress
                      let bx := i % bw
                      let by_ := a + i / bw
                      let e := 4 * (by_ * bw + bx)
                      let v := s.motionEntry h f0 f1 bx by_
                      ∃ t : State, exec (.lme o) s = .next t
                        ∧ (i + 1 < n * bw →
                            t = { s with
                              freeCount := pixels, cur := { s.cur with waited := true },
                              head := { h with work := t.head.work, progress := i + 1 } })
                        ∧ (n * bw ≤ i + 1 →
                            t = { s with
                              freeCount := pixels,
                              head := { go h with work := t.head.work, mfv := true, request := none, granted := false, progress := 0 } })
                        ∧ (∀ x, readByte t.head.work x =
                            if e ≤ x ∧ x < e + 4 then byteOf v (x - e) else readByte h.work x)
                        ∧ (∃ dx dy : Int, dx.natAbs ≤ 64 ∧ dy.natAbs ≤ 64
                            ∧ v = (dx % 256).toNat + 256 * (dy % 256).toNat + 65536 * min (s.blockCost h f0 f1 bx by_ dx dy) 65535
                            ∧ ∀ dx' dy' : Int, dx'.natAbs ≤ 64 → dy'.natAbs ≤ 64 →
                                let c := s.blockCost h f0 f1 bx by_ dx dy
                                let c' := s.blockCost h f0 f1 bx by_ dx' dy'
                                let d := dx.natAbs + dy.natAbs
                                let d' := dx'.natAbs + dy'.natAbs
                                c < c' ∨ (c = c' ∧ (d < d' ∨ (d = d' ∧ (dy < dy' ∨ (dy = dy' ∧ dx ≤ dx'))))))))))
  ∧ (
    ∀ (s : State) (w : S32), s.cur.stream = .sequencer →
      let h := s.head
      let a := (s.rs w.a.toNat).toNat
      let x := readBytes h.wts a 32
      let l := Layer.ofRaw x
      let faults (c : Nat) : Prop := exec (.lnet w) s = .next { s with head := { h with fault := some c } }
      (a % 32 ≠ 0 → faults 0x18)
      ∧ (a % 32 = 0 → h.wtsSize < a + 32 → faults 6)
      ∧ (a % 32 = 0 → a + 32 ≤ h.wtsSize → layerOk x = false → faults 0x18)
      ∧ (a % 32 = 0 → a + 32 ≤ h.wtsSize → layerOk x = true → l.fits h = false → faults 6)
      ∧ (a % 32 = 0 → a + 32 ≤ h.wtsSize → layerOk x = true → l.fits h = true →
          (h.request = none →
            exec (.lnet w) s = .next { s with cur := { s.cur with waited := true }, head := { h with request := some false, progress := 0 } })
          ∧ (h.request ≠ none → h.granted = false → exec (.lnet w) s = .next { s with cur := { s.cur with waited := true } })
          ∧ (h.request ≠ none → h.granted = true →
              let i := h.progress
              let g := l.rowsDone h s.freeCount (32 * i) (min (32 * i + 32) l.rows)
              (32 * (i + 1) < l.rows →
                exec (.lnet w) s = .next { s with
                  freeCount := s.freeCount + 4194304, cur := { s.cur with waited := true }, head := { h with work := g.work, progress := i + 1 } })
              ∧ (l.rows ≤ 32 * (i + 1) →
                exec (.lnet w) s = .next { s with
                  freeCount := s.freeCount + 4194304,
                  head := if h.pc + 1 < 4096
                    then { h with work := g.work, request := none, granted := false, progress := 0, pc := h.pc + 1 }
                    else { h with work := g.work, request := none, granted := false, progress := 0, fault := some 0x0B } })))
      -- a block writes its own outputs only
      ∧ (∀ (k : Layer) (free lo hi : Nat), ∀ y, (∀ i j, lo ≤ i → i < hi → j < k.n → y ≠ k.ooff + i * k.opitch + j) →
            readByte (k.rowsDone h free lo hi).work y = readByte h.work y)
      -- and forms them from the work store as it stood before the block; where two outputs share a place, the later row stays
      ∧ (∀ (k : Layer) (free lo hi i j : Nat), lo ≤ i → i < hi → j < k.n →
            let y := k.ooff + i * k.opitch + j
            (∀ i' j', i < i' → i' < hi → j' < k.n → y ≠ k.ooff + i' * k.opitch + j') →
              readByte (k.rowsDone h free lo hi).work y = BitVec.ofNat 8 (k.out h (free + 1024 * i) i j (readByte h.work y).toNat))
      ∧ ∀ (k : Layer) (free i j old : Nat) (v : Machine.Dyadic), k.acc h i j = some v → v.e = 0 →
          let q : Int := v.m / 2 ^ k.sh
          let r : Int := v.m % 2 ^ k.sh
          let n : Int := if 2 * r > 2 ^ k.sh ∨ (2 * r = 2 ^ k.sh ∧ q % 2 ≠ 0) then q + 1 else q
          let n : Int := if k.relu then max n 0 else n
          let n : Int := if k.resid then n + (if k.ofmt = 1 then ((old % 256 : Nat) : Int) else (BitVec.ofNat 8 old).toInt) else n
          k.out h free i j old = (if k.ofmt = 1 then min (max n 0) 255 else (min (max n (-128)) 127) % 256).toNat)

/-! ### Events -/

/-- 11 R294, R295, R297; 02 R61; 06 R161: what the driver's writes of a VF's queue and fault registers do, and that they change nothing
else. Enabling a queue restarts its indices; QRESUME clears STOP, and QHEAD, which names the packet that stopped the queue, stays.
Where the manual is open or is read by inference, it follows the model's choices of log 40 (DEDUCED). -/
def Obligations.QueueRegisterWrites : Prop :=
  ∀ (s : State) (v : Nat) (x : W64),
    let f := s.vf v
    let q : Queue := f.queues.get {} f.qsel
    let k := f.ctxsel
    let c := s.ctx v k
    let sc := c.scope f.fssel
    -- the doorbell
    (∀ n, (f.qCount ≤ n → Idle (.doorbellWrite v n x) s)
      ∧ (n < f.qCount →
          let y : Queue := f.queues.get {} n
          VfGives (.doorbellWrite v n x) s v { f with queues := f.queues.set n { y with tail := x.toNat % 2 ^ y.n } }))
    -- QRESUME and QCFG
    ∧ (x ≠ 1 ∨ f.qCount ≤ f.qsel → Idle (.qresume v x) s)
    ∧ (x = 1 → f.qsel < f.qCount →
        VfGives (.qresume v x) s v { f with queues := f.queues.set f.qsel { q with stat := q.stat &&& 0xFFFFFFFF7FFFFFFF#64 } })
    ∧ (let n := (x.extractLsb' 0 5).toNat
       let ctx := (x.extractLsb' 8 16).toNat
       let on := x.getLsbD 24
       (n < 4 ∨ 16 < n ∨ (on = true ∧ (s.ctx v ctx).state = 0) ∨ f.qCount ≤ f.qsel → Idle (.qcfgWrite v x) s)
       ∧ (4 ≤ n → n ≤ 16 → ¬(on = true ∧ (s.ctx v ctx).state = 0) → f.qsel < f.qCount →
          let y : Queue := { q with n := n, ctx := ctx, enable := on }
          let z := if on = true ∧ q.enable = false then { y with head := 0, tail := 0, fence := 0, taken := [] } else y
          VfGives (.qcfgWrite v x) s v { f with queues := f.queues.set f.qsel z }))
    -- HCINV evicts the header that any context of the VF read at the address
    ∧ (∃ t : State, exec (.hcinv v x) s = .next t ∧ t = { s with vfs := t.vfs, hdrCache := t.hdrCache } ∧ VfIs s t v { f with hcinv := 0 }
        ∧ ∀ e, e ∈ t.hdrCache ↔ e ∈ s.hdrCache ∧ ¬(e.1.1 = v ∧ e.1.2.2 = x))
    -- the record of a host scope whose count is 0, and the function-level error
    ∧ (x.getLsbD 0 = false ∨ 64 ≤ f.fssel ∨ sc.count ≠ 0 → Idle (.fsreset v x) s)
    ∧ (x.getLsbD 0 = true → f.fssel < 64 → sc.count = 0 →
        CtxGives (.fsreset v x) s v k
          { c with scopes := c.scopes.set f.fssel { sc with err := false, cause := 0, team := 0, tpc := 0, tval := 0 } })
    ∧ (x.getLsbD 1 = false → Idle (.vfstatClear v x) s)
    ∧ (x.getLsbD 1 = true → VfGives (.vfstatClear v x) s v { f with errPending := false, errCause := 0 })
    -- the fault queue: a consumed count beyond what it holds is ignored
    ∧ (let n := (x.extractLsb' 0 5).toNat
       (n < 4 ∨ 16 < n → Idle (.fqcfgWrite v x) s)
       ∧ (4 ≤ n → n ≤ 16 → VfGives (.fqcfgWrite v x) s v { f with fqN := n, fqWritten := 0, fqCons := 0 }))
    ∧ (let n : W32 := x.truncate 32
       let held := (BitVec.ofNat 32 f.fqWritten - n).toNat
       (2 ^ f.fqN < held → Idle (.fqconsWrite v x) s)
       ∧ (held ≤ 2 ^ f.fqN → VfGives (.fqconsWrite v x) s v { f with fqCons := n }))

/-- 01 R23, R28-R30, R34; 11 R296, R297, R300, R301, R303: a packet at the head of a queue that the manager serves is taken; the oldest
taken packet of a context is checked, and accepted or faulted; a chosen team that fits starts with its launch values; a team whose
streams have exited, with no work in an engine, ends. Which packet is ready and which team is chosen, fits and may be saved are
the model's readiness, choice and admission functions.
Where the manual is open or is read by inference, it follows the model's choices of log 13 (DESIGN CHOICE), log 27 (DEDUCED), log 40 (DEDUCED), log 41
(DEDUCED), log 58 (DESIGN CHOICE). -/
def Obligations.LaunchEvents : Prop :=
  (∀ (s : State) (v n k : Nat),
    let f := s.vf v
    let q : Queue := f.queues.get {} n
    let c := s.ctx v k
    (s.running v = none → Idle (.packetTake v n) s)
    ∧ (s.running v = some k → c.phase = .save → Idle (.packetTake v n) s)
    -- the stop phase takes device packets only
    ∧ (s.running v = some k → c.phase = .stop → n < 65536 → Idle (.packetTake v n) s)
    ∧ (s.running v = some k → c.phase = .none ∨ c.phase = .grace →
        -- a queue that may not be read, and a ring that cannot be
        (n < 65536 → f.qCount ≤ n ∨ q.enable = false ∨ q.stat.getLsbD 31 = true ∨ q.head = q.tail → Idle (.packetTake v n) s)
        ∧ (n < 65536 → q.ctx = k → s.headPacket v n = .fault →
            ∃ t : State, exec (.packetTake v n) s = .next t ∧ t = { s with vfs := t.vfs, msix := s.msix ++ [(v, 2)] }
              ∧ VfIs s t v { f with queues := f.queues.set n { q with stat := BitVec.ofNat 64 (3 * 2 ^ 30 + q.head) } })
        -- a packet is ready when its dependences and its SER are satisfied, and waits until then
        ∧ (∀ ws, (s.packetReady v n ws = true ↔
              ((ws.getD 0 0).getLsbD 15 = true → ∀ x ∈ q.taken, x.done = true)
              ∧ ∀ d ∈ pkDeps ws, f.qCount ≤ d.1 ∨ d.2 ≤ (f.queues.get {} d.1 : Queue).fence)
            ∧ (∀ d, d ∈ pkDeps ws ↔ ∃ b < 2, (ws.getD 0 0).getLsbD (13 + b) = true
                ∧ d = (((ws.getD (5 + b) 0).extractLsb' 0 16).toNat, ((ws.getD (5 + b) 0).extractLsb' 16 48).toNat))
            ∧ (n < 65536 → q.ctx = k → s.headPacket v n = .packet ws → s.packetReady v n ws = false → Idle (.packetTake v n) s))
        ∧ (∀ ws, n < 65536 → q.ctx = k → s.headPacket v n = .packet ws → s.packetReady v n ws = true → s.serves v k n (pkPrio ws) = true →
            (∀ x ∈ q.taken, x.done = false) →
            -- a launch packet, or a marker with a dependence beyond the VF's queues, which its check will find illegal
            (pkKind ws ≠ 2 ∨ (∃ d ∈ pkDeps ws, f.qCount ≤ d.1) → pkScope ws < 64 →
              let r := s.packetHeader v k ws
              ∃ t : State, exec (.packetTake v n) s = .next t ∧ t = { r.1 with vfs := t.vfs, nextLaunch := s.nextLaunch + 1 }
                ∧ VfIs s t v { f with
                    queues := f.queues.set n { q with
                      head := (q.head + 1) % 2 ^ q.n, fence := q.fence % 2 ^ 48,
                      taken := q.taken ++ [{ launch := s.nextLaunch, fence := pkFence ws }] },
                    lastQueue := n, ctxs := (t.vf v).ctxs }
                ∧ (∀ j, j ≠ k → t.ctx v j = s.ctx v j)
                ∧ t.ctx v k = { c with
                    scopes := c.scopes.set (pkScope ws) { c.scope (pkScope ws) with count := (c.scope (pkScope ws)).count + 1 },
                    checking := c.checking ++ [{ words := ws, addr := q.base + BitVec.ofNat 64 (64 * q.head), queue := some (n, q.head),
                                                 scope := some (pkScope ws), launch := s.nextLaunch,
                                                 seen := r.2, code := r.1.snapshot }] })
            -- a marker completes as it is taken
            ∧ (pkKind ws = 2 → pkMarkerOk ws = true → (∀ d ∈ pkDeps ws, d.1 < f.qCount) → q.taken = [] →
              ∃ t : State, exec (.packetTake v n) s = .next t ∧ t = { s with vfs := t.vfs, nextLaunch := s.nextLaunch + 1 }
                ∧ VfIs s t v { f with
                    queues := f.queues.set n { q with
                      head := (q.head + 1) % 2 ^ q.n, fence := (q.fence + if pkFence ws then 1 else 0) % 2 ^ 48 },
                    lastQueue := n }))
        )
    ∧ (s.running v = some k → c.phase ≠ .save → ∀ p ps, 65536 ≤ n → c.devq = p :: ps →
        (c.phase = .stop ∨ (∀ r ∈ s.readyQueues v k, r.2 ≤ pkPrio p.words) →
          CtxGives (.packetTake v n) s v k { c with devq := ps, checking := c.checking ++ [p] })
        ∧ (c.phase ≠ .stop → (∃ r ∈ s.readyQueues v k, pkPrio p.words < r.2) → Idle (.packetTake v n) s))
    -- what an arriving packet's header is: the header cache's, or what memory holds, which the cache takes
    ∧ ∀ ws,
        let a := pkHdr ws
        (pkKind ws ≠ 1 ∨ a.toNat % 128 ≠ 0 → s.packetHeader v k ws = (s, none))
        ∧ (pkKind ws = 1 → a.toNat % 128 = 0 → canonical a = true →
            (∀ x, s.hdrCache.lookup (v, k, a) = some x → s.packetHeader v k ws = (s, some x))
            ∧ (s.hdrCache.lookup (v, k, a) = none →
              (∀ e, s.loadVa v k { kind := 8 } a 128 = .error e → s.packetHeader v k ws = (s, none))
              ∧ ∀ s1 x, s.loadVa v k { kind := 8 } a 128 = .ok (s1, x) → s1.hdrCache.length < 256 →
                  s.packetHeader v k ws = ({ s1 with hdrCache := s1.hdrCache ++ [((v, k, a), x)] }, some x))))
  ∧ (∀ (s : State) (v k : Nat),
    let c := s.ctx v k
    (c.checking = [] → Idle (.launchCheck v k) s)
    ∧ ∀ p ps, c.checking = p :: ps → pkKind p.words ≠ 2 ∨ p.queue.isSome = true →
      let s0 := s.onCtx v k fun c => { c with checking := ps }
      (∀ s1 h place, s0.check v k p = (s1, .legal h place) →
        -- what a legal header and placement are; the header is what stood there when the packet arrived
        (∀ x, p.seen = some x → h = Header.ofRaw x)
        ∧ 1 ≤ h.groups ∧ h.groups ≤ 16 ∧ 1 ≤ h.vregs32 ∧ h.vregs32 ≤ 32 ∧ h.rdv ≤ 24 ∧ 32 * h.groups * h.vregs32 ≤ 2048
        ∧ h.spad % 128 = 0 ∧ 384 + 32 * h.groups * h.spill ≤ h.spad ∧ h.spad ≤ 786432 ∧ h.recCount ≤ 256
        ∧ 1 ≤ pkTeams p.words ∧ place.length = pkTeams p.words
        ∧ (∀ x ∈ place, x < 768 ∧ (s.coreMap.get {} x).present = true ∧ (s.vf v).part.getLsbD (x / 24) = true
            ∧ ∀ b, b < 16 → h.featMask.getLsbD b = true → (s0.feat0 x).getLsbD b = true)
        ∧ ∃ t : State, exec (.launchCheck v k) s = .next t
          ∧ t = { s1 with vfs := t.vfs, launches := t.launches, nextLaunch := s1.nextLaunch + 1 }
          ∧ CtxIs s1 t v k (let c := s1.ctx v k
              let z := p.scope.getD 0
              { c with scopes := c.scopes.set z { c.scope z with count := (c.scope z).count + (pkTeams p.words - 1) } })
          ∧ (∀ j, j ≠ p.launch → t.launch j = s1.launch j)
          ∧ t.launch p.launch =
              { vf := v, ctx := k, hdr := h, args := pkArgs p.words, teams := pkTeams p.words, span := pkSpan p.words, prio := pkPrio p.words,
                scope := p.scope.getD 0, queue := p.queue.map (·.1), place := place, waiting := List.range (pkTeams p.words),
                order := s1.nextLaunch, code := some p.code })
      ∧ (∀ s1 cause, (s0.check v k p = (s1, .illegal) ∧ cause = 0x40) ∨ (s0.check v k p = (s1, .mismatch) ∧ cause = 0x41) →
          ∀ n i, p.queue = some (n, i) →
            ∃ t, exec (.launchCheck v k) s = .next t
              ∧ t.msix.getLast? = some (v, 2) ∧ t.launches = s1.launches
              ∧ ((t.vf v).queues.get {} n).stat = BitVec.ofNat 64 (cause * 2 ^ 32 + 2 ^ 31 + i)
              ∧ ((t.vf v).queues.get {} n).head = i))
  ∧ (∀ (s : State) (core : Nat),
    (s.chosen core = none → Idle (.teamStart core) s)
    ∧ ∀ k i, s.chosen core = some (k, i) → (s.launch k).span = 0 → (s.launch k).place.getD i 0 = core →
      let l := s.launch k
      let h := l.hdr
      (s.cluster (core / 24)).on = true → (s.core core).quarantined = false → s.coreOf l.vf core = true →
      s.fits core h 1 = true → s.rasterWaits (core / 24) = false →
      ((s.vf l.vf).saveB = 0 ∨ s.residentsOf l.vf l.ctx = []) →
        ∃ (t : State) (x : Team), exec (.teamStart core) s = .next t
          ∧ t = { s with freeCount := s.freeCount + 1, teams := t.teams, nextTeam := s.nextTeam + 1, launches := t.launches, cores := t.cores }
          ∧ t.teams.get {} s.nextTeam = x
          -- other windows move only where what is free is in pieces too small
          ∧ (∀ u, u ≠ s.nextTeam → t.teams.get {} u = { s.teams.get {} u with winBase := (t.teams.get {} u).winBase })
          ∧ (offsetsFor (s.windowsOf core) h.spad ≠ [] → TeamIs s t s.nextTeam x)
          ∧ x = { live := true, vf := l.vf, ctx := l.ctx, launch := k, core := core, index := i, teams := l.teams, span := 0, prio := l.prio,
                  hdr := h, winBase := x.winBase, spc := h.scalarEntry, perfReq := (s.vf l.vf).perfDef,
                  s := [(1, l.args), (2, h.recTab), (3, BitVec.ofNat 64 i), (4, BitVec.ofNat 64 l.teams)], groups := x.groups }
          -- the window lies beside the others of the core
          ∧ x.winBase + h.spad ≤ 786432
          ∧ (∀ u y, u ≠ s.nextTeam → t.teams.get {} u = y → y.live = true → y.core = core →
              x.winBase + h.spad ≤ y.winBase ∨ y.winBase + y.hdr.spad ≤ x.winBase)
          -- every group begins at LANE_ENTRY with every lane, in a residency slot of its own
          ∧ x.groups.length = h.groups
          ∧ (∀ g, g < h.groups → ∃ slot, x.groups.lookup g = some
              { gid := g, role := h.roleMap.toNat / 16 ^ g % 16, vcount := 32 * h.vregs32, slot := slot,
                slotA := { valid := true, pc := h.laneEntry, mask := BitVec.allOnes 96 } })
          ∧ (t.launch k).waiting = l.waiting.filter fun j => j != i)
  -- a team starts with the whole of its span, and only where all of it fits and may be saved
  ∧ (∀ (s : State) (core k i : Nat), s.chosen core = some (k, i) →
      let l := s.launch k
      let h := l.hdr
      let ms := if l.span = 0 then [i] else List.range' (i / l.span * l.span) l.span
      let at_ (m : Nat) : Nat := l.place.getD m 0
      let cores := ms.map at_
      let all := (s.residentsOf l.vf l.ctx).map (fun p => (p.2.core, p.2.hdr)) ++ cores.map fun c => (c, h)
      let size := (all.map fun p => 8192 + 12288 * p.2.groups * p.2.vregs32 + p.2.spad).sum + 266240 * (all.map (·.1)).dedup.length
      let f := s.vf l.vf
      let may := (∀ c ∈ cores, (s.cluster (c / 24)).on = true ∧ (s.core c).quarantined = false ∧ s.coreOf l.vf c = true
            ∧ s.rasterWaits (c / 24) = false ∧ (∃ j ∈ ms, s.chosen c = some (k, j)) ∧ s.fits c h (cores.count c) = true)
          ∧ (f.saveB = 0 ∨ size ≤ 1000 * f.saveB * (46 - f.saveG) ∨ (s.residentsOf l.vf l.ctx = [] ∧ ms.length = 1))
      (¬may → Idle (.teamStart core) s)
      ∧ (may → ∃ t : State, exec (.teamStart core) s = .next t
          ∧ t = { s with freeCount := s.freeCount + ms.length, teams := t.teams, nextTeam := s.nextTeam + ms.length,
                         launches := t.launches, cores := t.cores }
          ∧ (∀ u, u < s.nextTeam ∨ s.nextTeam + ms.length ≤ u →
              t.teams.get {} u = { s.teams.get {} u with winBase := (t.teams.get {} u).winBase })
          ∧ (∀ n, n < ms.length → ∃ x : Team, t.teams.get {} (s.nextTeam + n) = x
              ∧ x = { live := true, vf := l.vf, ctx := l.ctx, launch := k, core := at_ (ms.getD n 0), index := ms.getD n 0, teams := l.teams,
                      span := l.span, prio := l.prio, hdr := h, winBase := x.winBase, spc := h.scalarEntry, perfReq := f.perfDef,
                      s := [(1, l.args), (2, h.recTab), (3, BitVec.ofNat 64 (ms.getD n 0)), (4, BitVec.ofNat 64 l.teams)], groups := x.groups }
              ∧ ∀ g, g < h.groups → ∃ slot, x.groups.lookup g = some
                  { gid := g, role := h.roleMap.toNat / 16 ^ g % 16, vcount := 32 * h.vregs32, slot := slot,
                    slotA := { valid := true, pc := h.laneEntry, mask := BitVec.allOnes 96 } })
          ∧ (∀ j, j ∈ (t.launch k).waiting ↔ j ∈ l.waiting ∧ j ∉ ms) ∧ t.launch k = { l with waiting := (t.launch k).waiting }
          ∧ ∀ j, j ≠ k → t.launch j = s.launch j))
  ∧ ∀ (s : State) (u : Nat), s.cur = {} →
    let x : Team := s.teams.get {} u
    (x.live = false ∨ (x.aborted = false ∧ (x.srun = true ∨ ∃ g ∈ x.groups, g.2.ended = false)) → Idle (.teamEnd u) s)
    ∧ (x.live = true → x.aborted = false → x.srun = false → (∀ g ∈ x.groups, g.2.ended = true) → x.raster = none →
        (s.teamBusy u = true → Idle (.teamEnd u) s)
        ∧ (s.teamBusy u = false →
            let l := s.launch x.launch
            l.ended + 1 < l.teams → 1 < ((s.ctx l.vf l.ctx).scope l.scope).count →
              ∃ t : State, exec (.teamEnd u) s = .next t
                ∧ t = { s with teams := t.teams, cores := t.cores, vfs := t.vfs, launches := t.launches, msix := t.msix }
                ∧ TeamIs s t u {} ∧ t.launch x.launch = { l with ended := l.ended + 1 }
                ∧ ((t.ctx l.vf l.ctx).scope l.scope).count = ((s.ctx l.vf l.ctx).scope l.scope).count - 1
                ∧ (t.core x.core).acmOwner = if (s.core x.core).acmOwner = some u then none else (s.core x.core).acmOwner))
    -- a team that an abort stopped: its batches start no tile, and it ends once its engines are done
    ∧ (x.live = true → x.aborted = true → x.scrubbed = false → s.teamBusy u = true →
        ∃ t : State, exec (.teamEnd u) s = .next t ∧ t = { s with teams := t.teams }
          ∧ TeamIs s t u { x with batches := x.batches.map fun b => (b.1, { b.2 with jobs := [] }) })
    -- the last team of a launch: the launch is done, its packet completes, and with the packets that completed in order before the first
    -- that has not, the fence count of the queue rises
    ∧ (let l := s.launch x.launch
       let c := s.ctx l.vf l.ctx
       let z := c.scope l.scope
       x.live = true → x.raster = none →
       ((x.aborted = false ∧ x.srun = false ∧ ∀ g ∈ x.groups, g.2.ended = true) ∨ (x.aborted = true ∧ x.scrubbed = false)) →
       s.teamBusy u = false → l.teams ≤ l.ended + 1 →
        ∃ t : State, exec (.teamEnd u) s = .next t
          ∧ t = { s with teams := t.teams, cores := t.cores, vfs := t.vfs, launches := t.launches, msix := t.msix }
          ∧ TeamIs s t u {} ∧ (t.launch x.launch).teams = 0 ∧ (∀ j, j ≠ x.launch → t.launch j = s.launch j)
          ∧ (∀ w, w ≠ l.vf → t.vf w = s.vf w) ∧ t.vf l.vf = { s.vf l.vf with ctxs := (t.vf l.vf).ctxs, queues := (t.vf l.vf).queues }
          ∧ t.ctx l.vf l.ctx = { c with scopes := c.scopes.set l.scope { z with count := z.count - 1 } }
          -- a host scope that is then done raises vector 1
          ∧ (l.scope < 64 → z.hasParent = false → 1 < z.count → t.msix = s.msix)
          ∧ (l.scope < 64 → z.hasParent = false → z.count ≤ 1 → (∀ j, 64 ≤ j → (c.scope j).valid = false) → t.msix = s.msix ++ [(l.vf, 1)])
          ∧ (l.queue = none → (t.vf l.vf).queues = (s.vf l.vf).queues)
          ∧ ∀ n, l.queue = some n →
              let q : Queue := (s.vf l.vf).queues.get {} n
              let ts := q.taken.map fun y => if y.launch = x.launch then { y with done := true } else y
              (t.vf l.vf).queues = (s.vf l.vf).queues.set n
                { q with taken := ts.dropWhile (·.done), fence := (q.fence + ((ts.takeWhile (·.done)).filter (·.fence)).length) % 2 ^ 48 })

/-- 11 R302, R316-R324, R326; 14 R386-R388, R392; 06 R159: creating, destroying, pre-empting, saving and resuming a context, its watchdog and
the host's abort. Creation needs a save area that is mapped and large enough; destruction disables the context's queues and waits for
its launches before the context is free (DEDUCED, log 25); a phase ends when nothing holds it; the next context that runs is the first
with work after the one that ran last. A save writes the scopes, the split tables and a digest, and keeps every stopped team as it
stands; a resume puts the teams back where they were, or on the lowest cluster with their positions free.
Where the manual is open or is read by inference, it follows the model's choices of log 13 (DESIGN CHOICE), log 17 (DESIGN CHOICE),
log 26 (DEDUCED), log 41 (DEDUCED), log 60 (PRESUMED). -/
def Obligations.ContextEvents : Prop :=
  ∀ (s : State) (v : Nat), s.cur = {} →
    let f := s.vf v
    let k := f.ctxsel
    let c := s.ctx v k
    -- creation: the error codes in order, and a fresh context
    (c.state ≠ 0 → Idle (.ctxcmdCreate v) s)
    ∧ (c.state = 0 →
        let size := c.saveSize.toNat
        let mapped := s.saveAreaOk v k c = true
        let fails (e : Nat) : Prop := CtxGives (.ctxcmdCreate v) s v k { c with error := e }
        let need := 2 ^ 20 + if f.saveB = 0 then 1871872 * (s.partitionCores v).length else 1000 * f.saveB * (46 - f.saveG)
        (¬mapped → fails 1)
        ∧ (mapped → size < need → fails (if f.saveB = 0 then 3 else 2))
        ∧ (mapped → need ≤ size →
            CtxGives (.ctxcmdCreate v) s v k { saveBase := c.saveBase, saveSize := c.saveSize, root := c.root, state := 1 }))
    -- destruction: its queues are disabled, whatever the context does; it is free where nothing of it runs
    ∧ (let busy := s.residentsOf v k ≠ [] ∨ ∃ p ∈ s.launches, p.2.vf = v ∧ p.2.ctx = k
       ∃ t : State, exec (.ctxcmdDestroy v) s = .next t ∧ t = { s with vfs := t.vfs }
            ∧ (∀ w, w ≠ v → t.vf w = s.vf w) ∧ t.vf v = { f with ctxs := (t.vf v).ctxs, queues := (t.vf v).queues }
            ∧ (∀ j, j ≠ k → t.ctx v j = s.ctx v j)
            ∧ (c.state = 0 ∨ busy → t.ctx v k = c)
            ∧ (c.state ≠ 0 → ¬busy → t.ctx v k = { saveBase := c.saveBase, saveSize := c.saveSize, root := c.root })
            ∧ ∀ n, (t.vf v).queues.lookup n =
                (f.queues.lookup n).map fun q => if q.ctx = k then { q with enable := false } else q)
    -- pre-emption by command or at the end of a slice: a request merges into one in progress
    ∧ (∀ r, s.running v = some r →
        let d := s.ctx v r
        let waits := ∃ p ∈ f.ctxs, p.2.state = 1 ∧ s.hasWork v p.1 = true
        (k ≠ r ∨ d.phase ≠ .none → Idle (.ctxcmdPreempt v) s) ∧ (¬waits ∨ d.phase ≠ .none → Idle (.timeSliceEnd v) s)
        ∧ (k = r → d.phase = .none → CtxGives (.ctxcmdPreempt v) s v r { d with phase := .grace })
        ∧ (waits → d.phase = .none → CtxGives (.timeSliceEnd v) s v r { d with phase := .grace })
        -- a watchdog period of 0 never expires; otherwise the context stops, and every team of its launches with it
        ∧ (f.wdog = 0 ∨ s.residentsOf v r = [] → Idle (.contextWatchdogExpiry v) s)
        ∧ (f.wdog ≠ 0 → s.residentsOf v r ≠ [] →
            ∃ t, exec (.contextWatchdogExpiry v) s = .next t ∧ t = s.stopContext v r 0x21 0x8000000000000000
              ∧ (t.vf v).errPending = true ∧ (t.vf v).errCause = 0x21))
    ∧ (s.running v = none → Idle (.ctxcmdPreempt v) s ∧ Idle (.timeSliceEnd v) s ∧ Idle (.contextWatchdogExpiry v) s)
    ∧ (∀ j, ((s.ctx v j).state = 0 → Idle (.hostAbort v j) s)
        ∧ ((s.ctx v j).state ≠ 0 → ∃ t, exec (.hostAbort v j) s = .next t ∧ t = s.stopContext v j 0x22 0
            ∧ (t.vf v).errPending = true ∧ (t.vf v).errCause = 0x22
            ∧ ∀ u x l, s.teams.lookup u = some x → x.live = true → (x.launch, l) ∈ s.launches → s.launch x.launch = l →
                l.vf = v → l.ctx = j → l.aborted = false →
                ∃ y, t.teams.lookup u = some y ∧ y.stopped = true ∧ y.aborted = true))
    -- the phases
    ∧ ((s.inPhase v .grace = none → Idle (.gracePhaseEnd v) s) ∧ (s.inPhase v .stop = none → Idle (.stopPhaseSettled v) s)
        ∧ (s.inPhase v .save = none → Idle (.saveComplete v) s))
    ∧ (∀ j, s.inPhase v .grace = some j →
        let d := s.ctx v j
        (s.residentsOf v j ≠ [] →
          ∃ t : State, exec (.gracePhaseEnd v) s = .next t ∧ t = { s with vfs := t.vfs, teams := t.teams } ∧ CtxIs s t v j { d with phase := .stop }
            ∧ ∀ u, t.teams.lookup u = (s.teams.lookup u).map fun x =>
                if x.vf = v ∧ x.ctx = j ∧ x.live = true then { x with stopped := true } else x))
    ∧ (∀ j, s.inPhase v .stop = some j →
        let us := (s.residentsOf v j).map (·.1)
        let s1 := us.foldl (fun s u => (s.cancelRing u).settleLaunch u) s
        (us.any s1.teamUnsettled = true → exec (.stopPhaseSettled v) s = .next s1)
        ∧ (us.any s1.teamUnsettled = false → ∃ t, exec (.stopPhaseSettled v) s = .next t ∧ (t.ctx v j).phase = .save
            -- copies stop where they are, and array operations lose their grants
            ∧ (∀ core, ∀ p ∈ (t.core core).copies, p.2.uid ∉ us)
            ∧ ∀ u ∈ us, ∀ p ∈ (t.teams.get {} u).matOps, p.2.granted = false))
    -- the save, at the boundary of the grace phase where nothing is resident, or after the stop: what it writes, and what it keeps
    ∧ (∀ (i : Instr) (j size : Nat) (ts : List (Nat × Team)),
        ((i = .gracePhaseEnd v ∧ s.inPhase v .grace = some j ∧ s.residentsOf v j = [] ∧ ts = [] ∧ size = 0)
          ∨ (i = .saveComplete v ∧ s.inPhase v .save = some j ∧ ts = s.residentsOf v j
              ∧ size = (ts.map fun p => 8192 + 12288 * p.2.hdr.groups * p.2.hdr.vregs32 + p.2.hdr.spad).sum
                  + 266240 * (ts.map (·.2.core)).dedup.length)) →
        let d := s.ctx v j
        let gs := ts.flatMap (·.2.groups)
        let known := joinImages (scopesImage d.scope :: gs.map fun g => g.2.image)
        let n := (max size (known.2 + 64) + 4095) / 4096
        let r := s.formImage known n
        -- where each part lies, the digest at the end of all of them, rotated by a free number of bytes
        (∀ a, a < 256 → known.1 / 2 ^ (256 * a) % 2 ^ 256 = (d.scope a).image)
        ∧ (∀ a b, a < gs.length → b < 16 →
            let g := (gs.getD a (0, {})).2
            known.1 / 2 ^ (8 * (8192 + 784 * a + 48 * b)) % 2 ^ 384 = (match g.split[b]? with | some x => x.image b | none => 0)
            ∧ known.1 / 2 ^ (8 * (8192 + 784 * a + 768)) % 2 ^ 96 = g.dormant.toNat
            ∧ known.1 / 2 ^ (8 * (8192 + 784 * a + 780)) % 2 ^ 32 = g.spills % 2 ^ 32)
        ∧ known.2 = 8192 + 784 * gs.length
        ∧ (∃ (turn : Nat) (body : List Nat), turn < 4096 * n ∧ body.length = 4096 * n - 64
            ∧ (∀ b, b < known.2 → body.getD b 0 = known.1 / 2 ^ (8 * b) % 256)
            ∧ r.2.length = n
            ∧ ∀ b, b < 4096 * n →
                let at_ := (b + 4096 * n - turn) % (4096 * n)
                r.2.getD (at_ / 4096) 0 / 2 ^ (8 * (at_ % 4096)) % 256 = (body ++ sha512 body).getD b 0)
        ∧ (r.1.savePages v j d.saveBase r.2 0 = none →
            ∃ t, exec i s = .next t ∧ (t.ctx v j).state = 3 ∧ (t.ctx v j).phase = .none)
        ∧ (∀ w, r.1.savePages v j d.saveBase r.2 0 = some w → (s.teams.map (·.1)).Nodup → (∀ p ∈ s.teams, s.teams.get {} p.1 = p.2) →
            ∃ t : State, exec i s = .next t ∧ t.mem = w.mem ∧ t.hostMem = w.hostMem ∧ t.launches = s.launches ∧ t.msix = s.msix
              ∧ VfIs s t v { f with ctxs := (t.vf v).ctxs, lastCtx := j } ∧ (∀ i, i ≠ j → t.ctx v i = s.ctx v i)
              ∧ t.ctx v j = { d with phase := .none, saveImage := r.2, saved := (t.ctx v j).saved, state := if d.state = 2 then 1 else d.state }
              ∧ (∀ u, u ∉ ts.map (·.1) → t.teams.get {} u = s.teams.get {} u ∧ (t.ctx v j).saved.get {} u = d.saved.get {} u)
              ∧ ∀ u x, (u, x) ∈ ts → t.teams.get {} u = {}
                  ∧ (t.ctx v j).saved.get {} u =
                      { x with live := false,
                               acmSaved := if (s.core x.core).acmOwner = some u
                                 then some ((s.core x.core).acm.filter fun b => x.acmUsed.getLsbD (b.1 / 16384)) else none }))
    -- the 32 bytes of a scope and the 48 bytes of a split record
    ∧ (∀ x : Scope, let y := x.image
        y < 2 ^ 256 ∧ y % 2 ^ 32 = x.count % 2 ^ 32 ∧ y / 2 ^ 32 % 2 ^ 8 = x.parent % 2 ^ 8 ∧ y / 2 ^ 40 % 2 ^ 8 = x.cause % 2 ^ 8
        ∧ (y.testBit 48 = true ↔ x.valid = true) ∧ (y.testBit 49 = true ↔ x.err = true) ∧ (y.testBit 50 = true ↔ x.hasParent = true)
        ∧ y / 2 ^ 51 % 2 ^ 13 = 0 ∧ y / 2 ^ 64 % 2 ^ 64 = x.team % 2 ^ 24 ∧ y / 2 ^ 128 % 2 ^ 64 = x.tpc.toNat ∧ y / 2 ^ 192 = x.tval.toNat)
    ∧ (∀ (x : SplitRec) (rank : Nat), let y := x.image rank
        y % 2 ^ 96 = x.expected.toNat ∧ y / 2 ^ 96 % 2 ^ 96 = x.arrived.toNat ∧ y / 2 ^ 192 % 2 ^ 64 = x.cont.toNat
        ∧ y / 2 ^ 256 % 2 ^ 16 = x.token % 2 ^ 16 ∧ y / 2 ^ 272 % 2 ^ 16 = x.budget % 2 ^ 16 ∧ y / 2 ^ 288 % 16 = rank % 16
        ∧ (y.testBit 292 = true ↔ x.pending = true) ∧ (y.testBit 293 = true ↔ x.armed = true) ∧ y.testBit 294 = true ∧ y < 2 ^ 295)
    -- resumption
    ∧ (s.nextContext v = none → Idle (.contextResume v) s)
    ∧ (∀ j, s.nextContext v = some j →
        (∃ p ∈ f.ctxs, p.1 = j ∧ p.2.state = 1) ∧ s.hasWork v j = true
        ∧ ((∃ p ∈ s.teams, p.2.live = true ∧ p.2.vf = v) → Idle (.contextResume v) s)
        -- a core of the partition that waits for its repair holds the resume
        ∧ ((∃ core, s.coreOf v core = true ∧ (s.core core).quarantined = true) → Idle (.contextResume v) s)
        ∧ ((∀ p ∈ s.teams, p.2.live = true → p.2.vf ≠ v) → s.running v = none →
            (∀ core, s.coreOf v core = true → (s.core core).quarantined = false) →
            let d := s.ctx v j
            -- a save area that no longer holds what the save wrote loses the context
            (s.imageStands v j d.saveBase 0 d.saveImage = false →
              ∃ t, exec (.contextResume v) s = .next t ∧ (t.ctx v j).state = 3 ∧ (t.ctx v j).phase = .none)
            ∧ ((∀ a, a < d.saveImage.length → ∃ w, s.loadVa v j { kind := 8 } (d.saveBase + BitVec.ofNat 64 (4096 * a)) 4096
                  = .ok (w, d.saveImage.getD a 0)) ↔ s.imageStands v j d.saveBase 0 d.saveImage = true)
            -- teams that have not started stay where they were to start, or, with their span, go to the lowest cluster that holds it; where
            -- none does the context is stopped
            ∧ (s.imageStands v j d.saveBase 0 d.saveImage = true → d.saved = [] → d.heldCopies = [] → d.heldColls = [] →
                (∀ p ∈ s.launches, s.launch p.1 = p.2) →
                (PlacesLeft s v j →
                  ∃ t : State, exec (.contextResume v) s = .next t ∧ t = { s with vfs := t.vfs, launches := t.launches }
                    ∧ CtxIs s t v j { d with state := 2, phase := .none, saveImage := [] } ∧ TeamsPlaced s t v j)
                ∧ (¬PlacesLeft s v j →
                  ∃ loc, exec (.contextResume v) s = .next (({ s with freeCount := s.freeCount + 1 }).stopContext v j 0x20 loc)))
            -- a saved team comes back as it was, to its core or to the lowest cluster with its position free
            ∧ (∀ u y core, s.imageStands v j d.saveBase 0 d.saveImage = true → d.saved = [(u, y)] → y.raster = none → y.hdr.spad ≤ 786432 →
                y.ringHeld = [] → y.batches = [] → (∀ p ∈ d.heldCopies, p.2.uid = u) → d.heldCopies.length ≤ 8 → (∀ p ∈ d.heldColls, p.uid = u) →
                (∀ p ∈ s.launches, s.launch p.1 = p.2 ∧ (p.2.vf = v → p.2.ctx = j → p.2.waiting = [])) →
                let usable (n : Nat) : Prop := s.coreOf v n = true ∧ (s.core n).quarantined = false
                ((usable y.core ∧ core = y.core)
                  ∨ (¬usable y.core ∧ ∃ cl < 32, usable (24 * cl + y.core % 24) ∧ core = 24 * cl + y.core % 24
                      ∧ ∀ c < cl, ¬usable (24 * c + y.core % 24))) →
                (s.feat0 core).getLsbD 0 = true → (s.feat0 core).getLsbD 1 = true → (s.feat0 core).getLsbD 2 = true →
                (s.core core).copies = [] → (∀ p ∈ s.teams, p.2.live = true → p.2.core ≠ core) →
                -- a cluster that is not powered is waited for
                ((s.cluster (core / 24)).on = false → Idle (.contextResume v) s)
                ∧ ((s.cluster (core / 24)).on = true →
                ∃ (t : State) (x : Team), exec (.contextResume v) s = .next t
                  ∧ t = { s with freeCount := s.freeCount + 1, vfs := t.vfs, teams := t.teams, cores := t.cores, launches := t.launches,
                                 collWait := s.collWait ++ d.heldColls.map fun c => { c with core := core } }
                  ∧ CtxIs s t v j { d with state := 2, phase := .none, saved := [], heldCopies := [], heldColls := [], saveImage := [] }
                  ∧ TeamIs s t u x ∧ (∀ p ∈ s.launches, t.launch p.1 = p.2)
                  ∧ x = { y with core := core, live := true, stopped := y.aborted, acmSaved := none, winBase := x.winBase, groups := x.groups }
                  ∧ x.winBase + y.hdr.spad ≤ 786432
                  ∧ (x.groups.map fun g => (g.1, { g.2 with slot := 0 })) = (y.groups.map fun g => (g.1, { g.2 with slot := 0 }))
                  ∧ (∀ n, n ≠ core → t.core n = s.core n)
                  ∧ (t.core core).copies = (List.range d.heldCopies.length).zip (d.heldCopies.map (·.2))
                  ∧ (∀ m, y.acmSaved = some m → (t.core core).acm = m ∧ (t.core core).acmOwner = some u)
                  ∧ (y.acmSaved = none → (t.core core).acm = (s.core core).acm ∧ (t.core core).acmOwner = (s.core core).acmOwner)))))

/-- 06 R160, R161, 11 R294: the driver's answers to faults, and the retry of posts that found the queue full. A replay releases every parked
access to the page: of lane fragments, rays, batches, scalar streams and array operations of resident and saved teams, of copies in an
engine or held, of ring home writes and of collectives; other pages' accesses stay parked. A failure makes each of them fail instead:
an array operation ends and its team's scalar stream has a PAGE_FAULT to take, so does that of a copy, which fails, and a home write
fails its alight; a fragment, a scalar stream, a ray, a batch and a rank take it as they go on. A retry posts what has not been posted, in
turn: coalesced with an unserved entry of its page and context, written as the queue's next entry, or left while the queue is full.
Nothing else changes; a fault that a lookahead window still holds has not been posted, and stays.
Where the manual is open or is read by inference, it follows the model's choices of log 12 (DEDUCED), log 33 (DEDUCED), log 56 (DESIGN CHOICE). -/
def Obligations.FaultQueueEvents : Prop :=
  ∀ (s : State) (v : Nat) (page : W64), s.cur = {} →
    let same (p : PageReq) : Bool := (p.vaddr &&& 0x000FFFFFFFFFF000) == (page &&& 0x000FFFFFFFFFF000)
    let served : List FaultEntry := (s.vf v).faults.filter fun e => (e.page &&& 0x000FFFFFFFFFF000) != (page &&& 0x000FFFFFFFFFF000)
    -- a team with every park of it changed: of both slots and the rays of its groups, of its batches, its scalar stream and its array operations
    let team (f : List PageReq → List PageReq) (x : Team) : Team :=
      { x with
        groups := x.groups.map fun g => (g.1, { g.2 with
          slotA := { g.2.slotA with park := f g.2.slotA.park }, slotB := { g.2.slotB with park := f g.2.slotB.park },
          rays := g.2.rays.map fun r => (r.1, { r.2 with park := f r.2.park }) }),
        batches := x.batches.map fun b => (b.1, { b.2 with park := f b.2.park }),
        spark := f x.spark, matOps := x.matOps.map fun m => (m.1, { m.2 with park := f m.2.park }) }
    let copy (f : Nat → List PageReq → List PageReq) (c : CopyOp) : CopyOp := if c.vf = v then { c with park := f c.ctx c.park } else c
    -- every parked unit of the VF has changed, and the entries of the queue that are unserved; nothing else has
    let parks (s t : State) (left : List FaultEntry) (f : Nat → List PageReq → List PageReq) : Prop :=
      t = { s with
        teams := s.teams.map fun p => (p.1, if p.2.vf = v then team (f p.2.ctx) p.2 else p.2),
        cores := s.cores.map fun p => (p.1, { p.2 with
          copies := p.2.copies.map fun q => (q.1, copy f q.2),
          stops := p.2.stops.map fun q => (q.1, q.2.map fun a => if a.vf = v then { a with park := f a.ctx a.park } else a) }),
        colls := s.colls.map fun g => { g with
          ranks := g.ranks.map fun p => (p.1, if p.2.vf = v then { p.2 with park := f p.2.ctx p.2.park } else p.2) },
        vfs := t.vfs }
      ∧ VfIs s t v { s.vf v with
          faults := left,
          ctxs := (s.vf v).ctxs.map fun p => (p.1, { p.2 with
            saved := p.2.saved.map fun q => (q.1, team (f p.1) q.2), heldCopies := p.2.heldCopies.map fun q => (q.1, copy f q.2) }) }
    -- the PAGE_FAULT of a list that holds a failed request
    let fault (ps : List PageReq) : Option Trap := (ps.find? (·.failed)).map fun p => { cause := 0x10, tval := p.vaddr }
    (∃ t, exec (.fqrespReplay v page) s = .next t ∧ parks s t served fun _ ps => ps.filter fun p => !same p)
    ∧ (∃ u t : State, exec (.fqrespFailure v page) s = .next t
        ∧ parks s u served (fun _ ps => ps.map fun p => if same p then { p with failed := true } else p)
        ∧ (-- what an engine can not go on with ends at once
          let ended (x : Team) : Team :=
            { x with
              matOps := x.matOps.filter fun m => (fault m.2.park).isNone,
              engineFault := x.engineFault ++ (x.matOps.filterMap fun m => fault m.2.park).map fun e => (e, none) }
          let failing : List CopyOp := (u.cores.flatMap fun p => p.2.copies.map (·.2)) ++ (u.vf v).ctxs.flatMap fun p => p.2.heldCopies.map (·.2)
          let fails (n : Nat) : List (Trap × Option W64) :=
            failing.filterMap fun c => if c.vf = v ∧ c.uid = n then (fault c.park).map fun e => (e, none) else none
          let copyEnds (c : CopyOp) : CopyOp := if c.vf = v ∧ (fault c.park).isSome = true then { c with failed := true, park := [] } else c
          t = { u with
            teams := t.teams, vfs := t.vfs,
            cores := u.cores.map fun p => (p.1, { p.2 with
              copies := p.2.copies.map fun q => (q.1, copyEnds q.2),
              stops := p.2.stops.map fun q => (q.1, q.2.map fun a =>
                match fault a.park, a.phase with
                | some e, .home k _ => if a.vf = v then { a with phase := .homeFail k e, park := [] } else a
                | _, _ => a) }) }
          ∧ (∀ n, t.teams.get {} n =
              let x : Team := u.teams.get {} n
              let y := if x.vf = v then ended x else x
              { y with engineFault := y.engineFault ++ if x.live then fails n else [] })
          ∧ VfIs u t v { u.vf v with ctxs := (u.vf v).ctxs.map fun p => (p.1, { p.2 with
              saved := p.2.saved.map fun q => (q.1, { ended q.2 with engineFault := (ended q.2).engineFault ++ fails q.1 }),
              heldCopies := p.2.heldCopies.map fun q => (q.1, copyEnds q.2) }) }))
    -- the retry: which requests wait, and what becomes of each
    ∧ (let wait : List (Nat × Nat × W64 × PageReq) := s.unposted v
       let u := wait.foldl (fun (s : State) x => (s.postFault v x.1 x.2.1 x.2.2.1 x.2.2.2).1) s
       ∃ t, exec (.faultPostRetry v) s = .next t
        ∧ parks u t (u.vf v).faults (fun k ps => ps.map fun p =>
            if (u.vf v).faults.any fun e => e.ctx == k && e.page == p.vaddr &&& 0xFFFFFFFFFFFFF000 then { p with posted := true } else p)
        ∧ (∀ x ∈ wait, x.2.2.2.posted = false ∧ x.2.2.2.failed = false)
        ∧ (let waits (ctx core : Nat) (pc : W64) (ps : List PageReq) : Prop :=
             ∀ p ∈ ps, p.posted = false → p.failed = false → (ctx, core, pc, p) ∈ wait
           (∀ x : Team, ((∃ n, (n, x) ∈ s.teams ∧ x.vf = v) ∨ ∃ c ∈ (s.vf v).ctxs, ∃ n, (n, x) ∈ c.2.saved) →
             (∀ g ∈ x.groups, waits x.ctx x.core g.2.slotA.parkPc g.2.slotA.park ∧ waits x.ctx x.core g.2.slotB.parkPc g.2.slotB.park
               ∧ ∀ r ∈ g.2.rays, waits x.ctx x.core (g.2.windowPc r.2.window) r.2.park)
             ∧ (∀ b ∈ x.batches, waits x.ctx x.core ((x.groups.get {} b.2.gid).windowPc b.2.window) b.2.park)
             ∧ waits x.ctx x.core x.spc x.spark ∧ ∀ m ∈ x.matOps, waits x.ctx x.core 0 m.2.park)
           ∧ (∀ k ∈ s.cores, ∀ c ∈ k.2.copies, c.2.vf = v → waits c.2.ctx k.1 0 c.2.park)
           ∧ (∀ c ∈ (s.vf v).ctxs, ∀ q ∈ c.2.heldCopies, q.2.vf = v → waits q.2.ctx q.1 0 q.2.park)
           ∧ (∀ g ∈ s.colls, ∀ c ∈ g.ranks, c.2.vf = v → waits c.2.ctx c.2.core 0 c.2.park)
           ∧ ∀ k ∈ s.cores, ∀ q ∈ k.2.stops, ∀ a ∈ q.2, a.vf = v → waits a.ctx k.1 a.pc a.park)
        ∧ (s.unposted v = [] → t.mem = s.mem ∧ t.hostMem = s.hostMem ∧ t.msix = s.msix ∧ (t.vf v).fqWritten = (s.vf v).fqWritten)
        -- no entry is written beyond the 2^n that the queue holds
        ∧ ((BitVec.ofNat 32 (s.vf v).fqWritten - (s.vf v).fqCons).toNat ≤ 2 ^ (s.vf v).fqN → (s.vf v).fqN ≤ 16 →
            (BitVec.ofNat 32 (t.vf v).fqWritten - (t.vf v).fqCons).toNat ≤ 2 ^ (s.vf v).fqN))
    -- one post
    ∧ ∀ (ctx core : Nat) (pc : W64) (p : PageReq),
        let f := s.vf v
        let at_ : W64 := p.vaddr &&& 0xFFFFFFFFFFFFF000
        let stands : Prop := ∃ e ∈ f.faults, e.ctx = ctx ∧ e.page = at_
        let full : Prop := 2 ^ f.fqN ≤ (BitVec.ofNat 32 f.fqWritten - f.fqCons).toNat
        let flag (b : Bool) (n : Nat) : Nat := if b then 2 ^ n else 0
        let entry : Nat := p.vaddr.toNat + pc.toNat * 2 ^ 64
          + (ctx * 2 ^ 16 + flag p.host 7 + flag p.stage2 6 + flag p.exec 5 + flag p.write 4 + p.kind) * 2 ^ 128 + core * 2 ^ 160
          + f.fqSeq.toNat * 2 ^ 192 + (if f.fqWritten / 2 ^ f.fqN % 2 = 0 then 1 else 0) * 2 ^ 224
        (stands → s.postFault v ctx core pc p = (s, { p with posted := true }))
        ∧ (¬stands → full → s.postFault v ctx core pc p = (s, p))
        ∧ (¬stands → ¬full →
            let r := s.postFault v ctx core pc p
            r.2 = { p with posted := true } ∧ r.1.msix = s.msix ++ [(v, 0)]
            ∧ VfIs s r.1 v { f with
                fqWritten := f.fqWritten + 1, fqSeq := f.fqSeq + 1, faults := f.faults ++ [{ page := at_, ctx := ctx }] }
            ∧ match s.storeVa v 0 { kind := 0, write := true } (f.fqBase + BitVec.ofNat 64 (32 * (f.fqWritten % 2 ^ f.fqN))) 32 entry with
              | .ok w => r.1.mem = w.mem ∧ r.1.hostMem = w.hostMem
              | .error _ => r.1.mem = s.mem ∧ r.1.hostMem = s.hostMem)

/-- 02 R49, R50; 05 R133, R136; 07 R196, R203; 08 R219, R220, R224, R232, R236, R238, R239; 15 R395, R397, R403, R404: what a core's
and a team's own events do: units reach their points, windows close, the timer of a record expires, a deadlock traps, a home slice
drains, an array operation, a pair and a stack operation make a k-step, wait or fail, a pair times out, an accumulator command acts,
and the governor grants starts in order of presentation and runs ballast.
Where the manual is open or is read by inference, it follows the model's choices of log 6 (DEDUCED), log 23 (DESIGN CHOICE), log 37 (DEDUCED). -/
def Obligations.CoreUnitEvents : Prop :=
  -- rendezvous units: each point acts once, and each sender learns the phase it counted in
  (∀ (s : State) (u : Nat), s.cur = {} →
    let x : Team := s.teams.get {} u
    (x.live = false → Idle (.rdvUnitsArrive u) s)
    ∧ (x.live = true → ∃ t : State, exec (.rdvUnitsArrive u) s = .next t ∧ t = { s with teams := t.teams }
        ∧ (∀ w, w ≠ u → t.teams.get {} w = s.teams.get {} w)
        ∧ (t.teams.get {} u).units = []
        ∧ (∀ n, n < 24 →
            let us := x.units.filter fun y => y.point == n
            let p : Point := x.points.get {} n
            let drops := (us.filter fun y => y.drop).length
            let e : W32 := if p.init then BitVec.ofNat 32 (p.expected.toNat - drops) else p.expected + BitVec.ofNat 32 drops
            let a : W32 := p.arrived + BitVec.ofNat 32 (us.map (·.units)).sum
            (t.teams.get {} u).points.get {} n =
              if us = [] then p
              else if p.init = true ∧ e.toNat ≤ a.toNat then { p with expected := e, arrived := 0, phase := p.phase + 1 }
              else { p with expected := e, arrived := a })
        -- the race generation rises by one, however many phases complete
        ∧ (let ends (n : Nat) : Prop :=
             let us := x.units.filter fun y => y.point == n
             let p : Point := x.points.get {} n
             let drops := (us.filter fun y => y.drop).length
             us ≠ [] ∧ p.init = true ∧ (BitVec.ofNat 32 (p.expected.toNat - drops)).toNat ≤ (p.arrived + BitVec.ofNat 32 (us.map (·.units)).sum).toNat
           ((∃ n < 24, ends n) → (t.teams.get {} u).raceGen = x.raceGen + 1)
           ∧ ((∀ n < 24, ¬ends n) → (t.teams.get {} u).raceGen = x.raceGen))
        ∧ (∀ y g b d, x.units = [y] → y.point < 24 → y.frag = some (g, b) → y.dest = some d →
            let grp := (t.teams.get {} u).groups.get {} g
            (grp.slotOf b).inRdv = false ∧ grp.g.get 0 d = ((x.points.get {} y.point : Point)).phase)
        ∧ (∀ y d, x.units = [y] → y.point < 24 → y.frag = none → y.scalar = true → y.dest = some d → d ≠ 0 →
            (t.teams.get {} u).sinRdv = false ∧ (t.teams.get {} u).s.get 0 d = ((x.points.get {} y.point : Point)).phase.zeroExtend 64)))
  -- a window that no instruction may enter any more writes its results; a record's timer; a deadlock
  ∧ (∀ (s : State) (u g : Nat), s.Settled →
    let x : Team := s.teams.get {} u
    let grp : Group := x.groups.get {} g
    let off := x.live = false ∨ x.stopped = true
    (off → Idle (.windowClose u g) s ∧ (∀ k, Idle (.joinTimerExpiry u g k) s) ∧ Idle (.joinDeadlock u g) s)
    ∧ (¬off → (x.groups.lookup g).isSome = true →
        (∀ w, grp.slotA.windows = [w] → grp.slotB.windows = [] → w.left = 0 → w.waiting = 0 → w.fault = none → w.readout = none →
          ∃ t : State, exec (.windowClose u g) s = .next t ∧ t.unfocus = { s with teams := t.unfocus.teams }
            ∧ (let y := (t.unfocus.teams.get {} u).groups.get {} g
               y = { grp with v := y.v, slotA := { grp.slotA with windows := [] }, fpctl := grp.fpctl ||| w.flags }
               ∧ ∀ r l, l < 96 → (y.v.get (vInit x.hdr.poison r) r).getD l 0 =
                    afterWrites w.writes r l ((grp.v.get (vInit x.hdr.poison r) r).getD l 0)))
        ∧ (∀ w, grp.slotA.windows = [w] → grp.slotB.windows = [] → (w.left ≠ 0 ∨ w.waiting ≠ 0 ∨ w.fault.isSome = true) →
            ∃ t : State, exec (.windowClose u g) s = .next t ∧ t.unfocus = { s with teams := t.unfocus.teams }
              ∧ (t.unfocus.teams.get {} u).groups.get {} g = grp)
        ∧ (∀ k, (∀ r ∈ grp.split, ¬(r.token = k ∧ r.armed = true ∧ r.arrived ≠ 0)) → Idle (.joinTimerExpiry u g k) s)
        ∧ (∀ k r, grp.split = [r] → r.token = k → r.armed = true → r.arrived ≠ 0 → grp.ended = false →
            grp.slotA.valid = true → grp.slotB.valid = true → (s.vf x.vf).pmEn = false →
            ∃ t : State, exec (.joinTimerExpiry u g k) s = .next t ∧ t = { s with teams := t.teams }
              ∧ (t.teams.get {} u).groups.get {} g =
                  { grp with
                    tstat := grp.tstat ||| 0x100,
                    split := [{ r with
                      released := r.released ++ [(r.arrived, r.cont)], pending := true, expected := r.expected &&& ~~~r.arrived, arrived := 0, armed := false }] })
        ∧ (grp.deadlocked = false → Idle (.joinDeadlock u g) s)
        ∧ (∀ r, grp.split = [r] → grp.deadlocked = true → grp.tstat.getLsbD 6 = false → x.hdr.trapHandler ≠ 0 →
            ∃ t : State, exec (.joinDeadlock u g) s = .next t ∧ t.unfocus = { s with teams := t.unfocus.teams }
              ∧ (let y := (t.unfocus.teams.get {} u).groups.get {} g
                 y.split = [] ∧ y.slotA.valid = true ∧ y.slotA.mask = r.arrived ∧ y.slotA.pc = x.hdr.trapHandler
                 ∧ y.tpc = r.joinPc ∧ y.tcause = 8 ∧ y.tval = BitVec.ofNat 64 r.token ∧ y.tstat.getLsbD 6 = true))))
  -- a home slice's write queue: one rounding per element
  ∧ (∀ (s : State) (k : Nat),
    (s.redQueues.get [] k = [] → Idle (.homeSliceAccess k) s)
    ∧ ∀ e es o x, s.redQueues.get [] k = e :: es → e.partials = [(o, x)] →
      ∃ t : State, exec (.homeSliceAccess k) s = .next t ∧ t = { s with mem := t.mem, redQueues := t.redQueues }
        ∧ t.redQueues.get [] k = es ∧ (∀ j, j ≠ k → t.redQueues.get [] j = s.redQueues.get [] j)
        ∧ ∀ a, readByte t.mem a =
            let at_ := 128 * e.line + o
            if at_ ≤ a ∧ a < at_ + e.width
            then BitVec.ofNat 8 (atomOp e.op e.ty e.width (readBytes s.mem at_ e.width) x.toNat / 256 ^ (a - at_)) else readByte s.mem a)
  -- the matrix engine
  ∧ (∀ (s : State) (k : Nat), s.cur = {} →
    (s.arrayNext k = none → Idle (.matrixKStep k) s ∧ Idle (.pairTimeout k) s)
    ∧ (∀ u n o, s.arrayNext k = some (u, n, o) →
        let x : Team := s.teams.get {} u
        let c := o.cmd
        let steps (x : Team) (n : Nat) : Nat := (x.mprog.get 0 n : W32).toNat
        let j := steps x n
        let acm (k : Nat) : Store Byte := (s.core k).acm
        -- what a finished k-step does to its team, what a lost grant does, and what a failure does
        let stepped (x : Team) (n : Nat) (c : MatCmd) (m : W32) : Team :=
          let p : W32 := BitVec.ofNat 32 (steps x n) + 1
          if p.toNat ≥ c.kb then { x with
            mprog := x.mprog.set n p, mstat := x.mstat ||| m, matOps := x.matOps.erase n,
            units := x.units ++ if c.crdv < 24 then [{ point := c.crdv, units := 1 }] else [] }
          else { x with mprog := x.mprog.set n p, mstat := x.mstat ||| m }
        let waits (x : Team) (n : Nat) (park : List PageReq → List PageReq) : Team := { x with
          matOps := x.matOps.map fun p => if p.1 = n
            then (p.1, { p.2 with granted := false, feedWait := p.2.feedWait || p.2.granted, park := park p.2.park }) else p }
        let fails (x : Team) (n : Nat) (e : Trap) : Team := { x with matOps := x.matOps.erase n, engineFault := x.engineFault ++ [(e, none)] }
        -- an operation of one core: it waits for its feed point, for its grant, and for earlier accumulator commands
        (o.kind ≠ 1 → feedOk x o j = false → TeamGives (.matrixKStep k) s u (waits x n id))
        ∧ (o.kind ≠ 1 → feedOk x o j = true → (o.kind = 0 ∧ o.granted = false) ∨ arrayFree x o = false → Idle (.matrixKStep k) s)
        ∧ (o.kind = 0 → feedOk x o j = true → o.granted = true → arrayFree x o = true →
            let step := tileStep c (j == 0 && !c.acc) (acm k) (winRows x o.a c c.m c.fa j) (winRows x o.b c c.n c.fb j)
            ∃ t : State, exec (.matrixKStep k) s = .next t ∧ t = { s with teams := t.teams, cores := t.cores, clusters := t.clusters }
              ∧ CoreIs s t k { s.core k with acm := step.1, ksteps := (s.core k).ksteps + 1 }
              ∧ ClusterIs s t (k / 24)
                  { s.cluster (k / 24) with crec := (s.cluster (k / 24)).crec + BitVec.ofNat 32 (4096 * c.cycles) }
              ∧ TeamIs s t u (stepped x n c step.2))
        -- a stack operation: its columns come from its stack, no array runs and no charge is made; a fault of a chunk stops it or parks it
        ∧ (o.kind = 2 → feedOk x o j = true → arrayFree x o = true →
            (∀ s1 cols, s.stackCols x o j c.n 0 = .ok (s1, cols) →
              let step := tileStep c (j == 0 && !c.acc) (acm k) (winRows x o.a c c.m c.fa j) cols
              ∃ t : State, exec (.matrixKStep k) s = .next t ∧ t = { s1 with teams := t.teams, cores := t.cores }
                ∧ CoreIs s1 t k { s1.core k with acm := step.1 }
                ∧ TeamIs s1 t u (stepped x n c step.2))
            ∧ (∀ e, s.stackCols x o j c.n 0 = .error (.trap e) → TeamGives (.matrixKStep k) s u (fails x n e))
            ∧ (∀ p, s.stackCols x o j c.n 0 = .error (.page p) →
                let r := s.postFault x.vf x.ctx k 0 p
                ∃ t : State, exec (.matrixKStep k) s = .next t ∧ t = { r.1 with teams := t.teams }
                  ∧ TeamIs s t u (waits x n fun _ => [r.2])))
        -- a paired operation: it waits for its partner, fails with it where their command words differ, and runs in lockstep
        ∧ (∀ u2 n2 o2, s.partner k o = some (u2, n2, o2) ↔ s.arrayNext (k ^^^ 1) = some (u2, n2, o2) ∧ o2.kind = 1 ∧ o2.cmd.tag = o.cmd.tag)
        ∧ (o.kind = 1 → s.partner k o = none →
            TeamGives (.matrixKStep k) s u (waits x n id) ∧ TeamGives (.pairTimeout k) s u (fails x n { cause := 0x19, tval := BitVec.ofNat 64 c.tag }))
        ∧ (∀ u2 n2 o2, o.kind = 1 → s.partner k o = some (u2, n2, o2) → u2 ≠ u →
            let x2 : Team := s.teams.get {} u2
            let c2 := o2.cmd
            let j2 := steps x2 n2
            let both (y y2 : Team) : Prop := ∃ t : State, exec (.matrixKStep k) s = .next t ∧ t = { s with teams := t.teams }
              ∧ (∀ w, w ≠ u → w ≠ u2 → t.teams.get {} w = s.teams.get {} w) ∧ t.teams.get {} u = y ∧ t.teams.get {} u2 = y2
            (o2.e1 ≠ o.e1 → both (fails x n { cause := 0x18, tval := o.word.zeroExtend 64 }) (fails x2 n2 { cause := 0x18, tval := o2.word.zeroExtend 64 }))
            ∧ (o2.e1 = o.e1 → feedOk x o j = false ∨ feedOk x2 o2 j2 = false → both (waits x n id) (waits x2 n2 id))
            ∧ (o2.e1 = o.e1 → feedOk x o j = true → feedOk x2 o2 j2 = true →
                (o.granted = false ∨ o2.granted = false ∨ arrayFree x o = false ∨ arrayFree x2 o2 = false → Idle (.matrixKStep k) s)
                ∧ (o.granted = true → o2.granted = true → arrayFree x o = true → arrayFree x2 o2 = true →
                    -- both read A from the window of the even core's team, and B each from its own
                    let rows := if k % 2 = 0 then winRows x o.a c 64 c.fa j else winRows x2 o2.a c2 64 c.fa j
                    let step := tileStep c (j == 0 && !c.acc) (acm k) rows (winRows x o.b c 64 c.fb j)
                    let step2 := tileStep c2 (j2 == 0 && !c2.acc) (acm (k ^^^ 1)) rows (winRows x2 o2.b c2 64 c.fb j)
                    ∃ t : State, exec (.matrixKStep k) s = .next t ∧ t = { s with teams := t.teams, cores := t.cores, clusters := t.clusters }
                      ∧ (∀ w, w ≠ k → w ≠ k ^^^ 1 → t.core w = s.core w)
                      ∧ t.core k = { s.core k with acm := step.1, ksteps := (s.core k).ksteps + 1 }
                      ∧ t.core (k ^^^ 1) = { s.core (k ^^^ 1) with acm := step2.1, ksteps := (s.core (k ^^^ 1)).ksteps + 1 }
                      ∧ ClusterIs s t (k / 24) { s.cluster (k / 24) with
                          crec := (s.cluster (k / 24)).crec + BitVec.ofNat 32 (4096 * c.cycles) + BitVec.ofNat 32 (4096 * c2.cycles) }
                      ∧ (∀ w, w ≠ u → w ≠ u2 → t.teams.get {} w = s.teams.get {} w)
                      ∧ t.teams.get {} u = stepped x n c step.2 ∧ t.teams.get {} u2 = stepped x2 n2 c2 step2.2)))
        ∧ (o.kind ≠ 1 ∨ (s.partner k o).isSome = true → Idle (.pairTimeout k) s))
    -- the chunk that holds a byte of B, and where its stack serves that byte
    ∧ (∀ (x : Team) (v : W64) (m : Nat),
        let va := v + BitVec.ofNat 64 (65536 * m)
        let perm : Stop := .trap { cause := 0x11, tval := va }
        (∀ h z, s.xlateSized x.vf x.ctx { kind := 4 } va = .ok (.host h, z) → s.chunkAddr x v m = .error perm)
        ∧ (∀ pa z, s.xlateSized x.vf x.ctx { kind := 4 } va = .ok (.dev pa, z) →
            (z < 16 → s.chunkAddr x v m = .error perm)
            ∧ (16 ≤ z → s.chunkAddr x v m = .ok pa
                ∧ ∀ (stack o : Nat), pa < 2 ^ 64 →
                  let p := BitVec.ofNat 64 pa
                  let h := p.extractLsb' 21 3 ^^^ p.extractLsb' 29 3 ^^^ p.extractLsb' 37 3
                  stackByte pa stack o = pa + 8192 * (stack ^^^ h.toNat) + o % 8192)))
    ∧ ((s.core k).acmOwner = none → Idle (.maccComplete k) s)
    ∧ (∀ u, (s.core k).acmOwner = some u →
        let x : Team := s.teams.get {} u
        (x.stopped = true → x.aborted = false → Idle (.maccComplete k) s)
        ∧ (x.stopped = false ∨ x.aborted = true → (x.maccOps.find? (maccFree x) = none → Idle (.maccComplete k) s)
            ∧ ∀ o, x.maccOps.find? (maccFree x) = some o →
                let y : Team := { x with maccOps := x.maccOps.filter fun m => m.order != o.order }
                (∃ t : State, exec (.maccComplete k) s = .next t ∧ t = { s with teams := t.teams, cores := t.cores }
                  ∧ TeamIs s t u (maccEffect o y (s.core k).acm).1
                  ∧ CoreIs s t k { s.core k with acm := (maccEffect o y (s.core k).acm).2 })
                -- macc.clr zeroes every byte of its slots, and only those
                ∧ (o.kind = 3 → ∃ t, exec (.maccComplete k) s = .next t ∧ t.teams.get {} u = y
                    ∧ (∀ a, o.slots.getLsbD (a / 16384) = true → readByte (t.core k).acm a = 0)
                    ∧ ∀ b, b ∈ (t.core k).acm ↔ b ∈ (s.core k).acm ∧ o.slots.getLsbD (b.1 / 16384) = false))))
  -- the governor
  ∧ ∀ (s : State) (k : Nat), s.cur = {} →
    let c := s.cluster k
    let idle := c.idleMax ≤ c.idle
    let c' : Cluster := if idle then { c with rampTab := s.pfGov, down := s.pfGov2Down, idleMax := s.pfGov2Idle } else c
    let i := if idle then 0 else c.ramp
    let allow := (c'.rampTab.toNat / 2 ^ (4 * i)) % 16
    -- an operation that holds a grant and does not run gives it up; the clauses after this one speak of a step without such
    (∀ u n o, k < 32 → (∀ i ∈ coresOf k, s.asks i = none) → (∃ core ∈ coresOf k, s.arrayReady core = some (u, n, o) ∧ o.granted = true ∧ o.kind = 0
          ∧ feedOk (s.teams.get {} u) o ((s.teams.get {} u).mprog.get 0 n).toNat = false ∧ (s.core core).acmOwner = some u
          ∧ ∀ i ∈ coresOf k, i ≠ core → s.arrayReady i = none) →
        ∃ t, exec (.governorStep k) s = .next t
          ∧ TeamIs s t u { s.teams.get {} u with matOps := (s.teams.get {} u).matOps.map fun p =>
              if p.1 = n then (p.1, { p.2 with granted := false, feedWait := p.2.feedWait || p.2.granted }) else p })
    ∧ ((∀ v, (s.vf v).pmEn = false) → (∀ i ∈ coresOf k, ∀ u n o, s.arrayReady i = some (u, n, o) → o.granted = true → s.runsArray i = true) →
    -- a step in which nothing starts: DOWN bounds the fall of the running count, with ballast on the lowest stopping arrays
    ((∀ i ∈ coresOf k, s.asks i = none) →
        let prev := c.running ++ c.ballast
        let running := (coresOf k).filter s.runsArray
        let stopping := (coresOf k).filter fun i => prev.contains i && !running.contains i
        let ballast := stopping.take (prev.length - c'.down - running.length)
        ∃ t : State, exec (.governorStep k) s = .next t ∧ t = { s with clusters := t.clusters }
          ∧ ClusterIs s t k { c' with
              requests := [], running := running, ballast := ballast, ramp := if idle then 0 else Nat.min (c.ramp + 1) 16,
              idle := if running = [] ∧ ballast = [] then c.idle + 1 else 0, ballastSteps := c.ballastSteps + ballast.length,
              crec := c.crec + BitVec.ofNat 32 (16384 * ballast.length) }
          ∧ (prev.length ≤ running.length + stopping.length → prev.length ≤ running.length + ballast.length + c'.down))
    -- starts, in order of presentation and then in ascending core, as many as the ramp allows in the step
    ∧ (c.running = [] → c.ballast = [] → c.requests.Nodup → (∀ i ∈ coresOf k, s.asks i = none ∨ s.asks i = some [i]) →
        (∀ i ∈ coresOf k, ∀ l ∈ coresOf k, i ≠ l → (s.core i).acmOwner = (s.core l).acmOwner → (s.core i).acmOwner = none) →
        let asking := (coresOf k).filter fun i => (s.asks i).isSome
        let order := c.requests.filter asking.contains ++ asking.filter fun i => !c.requests.contains i
        let count := if 15 < i then order.length else min order.length allow
        ∃ t, exec (.governorStep k) s = .next t ∧ (t.cluster k).requests = order.drop count
          ∧ (t.cluster k).ungranted = c.ungranted + (if order.drop count = [] then 0 else 1)
          ∧ (t.cluster k).ramp = (if idle then (if count = 0 then 0 else 1) else Nat.min (c.ramp + 1) 16)
          ∧ ∀ core u n o, s.arrayNext core = some (u, n, o) →
              (core ∈ order.take count → t.teams.get {} u = { s.teams.get {} u with
                matOps := (s.teams.get {} u).matOps.map fun p => if p.1 = n then (p.1, { p.2 with granted := true, feedWait := false }) else p })
              ∧ (core ∈ order.drop count → t.teams.get {} u = s.teams.get {} u))
    ∧ (c.running = [] → c.ballast = [] → c.requests = [] →
      ((∀ i ∈ coresOf k, s.asks i = none ∧ s.runsArray i = false) →
        ∃ t : State, exec (.governorStep k) s = .next t ∧ t = { s with clusters := t.clusters }
          ∧ ClusterIs s t k { c' with ramp := if idle then 0 else Nat.min (c.ramp + 1) 16, idle := c.idle + 1 })
      ∧ (∀ core u n o, core ∈ coresOf k → s.asks core = some [core] → (∀ i ∈ coresOf k, i ≠ core → s.asks i = none) →
          s.arrayNext core = some (u, n, o) → 0 < allow ∨ 15 < i →
            ∃ t, exec (.governorStep k) s = .next t
              ∧ TeamIs s t u { s.teams.get {} u with
                  matOps := (s.teams.get {} u).matOps.map fun p => if p.1 = n then (p.1, { p.2 with granted := true, feedWait := false }) else p })))

/-- 04 R118-R120; 09 R243, R244, R247, R252-R258; 10 R268: one ring step moves every slot by one position, and the actions at a stop's
matching slot perform; of two claims of a key one loses; an alight with a home writes it home; a watch of one revolution ends ABSENT or
FULL; a wcap.until's budget ends in TIMEOUT; REV counts revolutions; and what each action does to a payload. The clauses about an
action's visit speak of a stop whose queue holds that action alone, in a ring with nothing else to settle.
Where the manual is open or is read by inference, it follows the model's choices of log 38 (DEDUCED) and log 55 (DESIGN CHOICE). -/
def Obligations.RingEvents : Prop :=
  (∀ s : State,
    let due := s.ringActs.any fun a => s.ringExpired a.1 a.2.2 || s.ringTimedOut a.1 a.2.2
    let seam := s.ringStep / 1024 % 2 ^ 32 ≠ s.ringRev.toNat
    (seam ∨ due = true → Idle .ringSlotPassage s)
    ∧ (seam → exec .seamRevolution s = .next { s with ringRev := s.ringRev + 1 })
    ∧ (¬seam → Idle .seamRevolution s)
    -- the visits of a step go strand by strand, at each by position and at each stop in queue order; one that ends a watch or a budget holds
    -- those behind it until the expiry or the time-out has acted, at the same passage
    ∧ s.ringOrder = ((List.range 8).flatMap fun st => s.cores.flatMap fun c => (c.2.stops.get [] st).map fun a => (st, c.1, a.id))
    ∧ (¬seam → due = false → s.ringLeft ≠ [] → exec .ringSlotPassage s = .next (s.ringVisits s.ringLeft))
    ∧ s.ringVisits [] = { s with ringLeft := [] }
    ∧ (∀ st core id vs,
        let s1 := { s with ringLeft := vs }
        let queue : List RingAct := (s1.core core).stops.get [] st
        ((∀ a ∈ queue, a.id ≠ id) → s.ringVisits ((st, core, id) :: vs) = s1.ringVisits vs)
        ∧ ∀ a, (queue.find? fun a => a.id == id) = some a →
            let s2 := s1.ringAct core st a
            s.ringVisits ((st, core, id) :: vs) =
              if s2.ringActs.any fun a => s2.ringExpired a.1 a.2.2 || s2.ringTimedOut a.1 a.2.2 then s2 else s2.ringVisits vs)
    ∧ (∃ u v : State, exec .ringWatchExpiry s = .next (if u.ringDue then u else u.ringVisits u.ringLeft)
        ∧ exec .wcapUntilTimeout s = .next (if v.ringDue then v else v.ringVisits v.ringLeft)
        ∧ u = (s.ringActs.filter fun a => s.ringExpired a.1 a.2.2).foldl (fun s a => s.ringExpire a.1 a.2.1 a.2.2) s
        ∧ v = (s.ringActs.filter fun a => s.ringTimedOut a.1 a.2.2).foldl (fun s a => s.ringTimeOut a.1 a.2.1 a.2.2) s)
    ∧ (¬seam → s.ringLeft = [] → (∀ c ∈ s.cores, c.2.stops = []) → (∀ p ∈ s.slots, p.2.lost = false ∧ p.2.revert = none) →
        exec .ringSlotPassage s = .next { s with ringStep := s.ringStep + 1 })
    ∧ (s.ringLeft = [] → (∀ a ∈ s.ringActs, s.ringExpired a.1 a.2.2 = false) → Idle .ringWatchExpiry s)
    ∧ (s.ringLeft = [] → (∀ a ∈ s.ringActs, s.ringTimedOut a.1 a.2.2 = false) → Idle .wcapUntilTimeout s)
    -- a lost claim becomes empty, and an abandoned home write landed, as it passes the position that owns it
    ∧ (∀ (n : Nat) (x : RingSlot), ¬seam → s.ringLeft = [] → (∀ c ∈ s.cores, c.2.stops = []) → s.slots = [(n, x)] →
        let now := s.ringStep + 1
        let here (pos : Nat) : Prop := (pos + 1024 - now % 1024) % 1024 = n % 1024
        let goes (l : List (Nat × RingSlot)) : Prop := exec .ringSlotPassage s = .next { s with ringStep := now, slots := l }
        (x.lost = true → here x.bpos → goes [])
        ∧ (x.lost = true → ¬here x.bpos → x.revert = none → goes [(n, x)])
        ∧ (∀ q, x.lost = false → x.revert = some q → (here q → goes [(n, { x with st := 2, revert := none })]) ∧ (¬here q → goes [(n, x)])))
    -- an action waits for the earlier actions of its group, but for one with ANY that is no release
    ∧ (∀ core a, s.ringInOrder core a = false ↔ ∃ q ∈ (s.core core).stops, ∃ b ∈ q.2,
        b.id < a.id ∧ b.uid = a.uid ∧ b.win.map (·.1) = a.win.map (·.1) ∧ b.win ≠ a.win
        ∧ ¬(a.cw.getLsbD 13 = true ∧ a.cw.getLsbD 15 = false))
    -- a board that issues again reserves a unit for every key or, with the trap of the first that has none, for none
    ∧ (∀ (core : Nat) (a : RingAct) (as : List RingAct),
        let v := s.vf a.vf
        let n := as.length + 1
        (a.kind ≠ 0 → s.reissue core (a :: as) = s.ringEnter core (a :: as))
        ∧ (a.kind = 0 → v.ringHeld + n ≤ v.quota →
            s.reissue core (a :: as) = (s.onVf a.vf fun v => { v with ringHeld := v.ringHeld + n }).ringEnter core (a :: as))
        ∧ (a.kind = 0 → v.quota < v.ringHeld + n →
            let b := (a :: as).getD (v.quota - v.ringHeld) a
            s.reissue core (a :: as) = s.ringTrap b n { cause := 0x15, tval := b.key.zeroExtend 64 })))
  -- fields of a payload
  ∧ (∀ (p : BitVec 512) (w64 : Bool) (f : Nat) (x : W64), f < (if w64 then 8 else 16) →
      let n := if w64 then 64 else 32
      (payField p w64 f).toNat = p.toNat / 2 ^ (n * f) % 2 ^ n
      ∧ ∀ b, b < 512 → (setPayField p w64 f x).getLsbD b = if n * f ≤ b ∧ b < n * f + n then x.getLsbD (b - n * f) else p.getLsbD b)
  -- rewrites: the field's new value and the value returned
  ∧ (∀ (op : Nat) (w64 : Bool) (p : BitVec 512) (l : RingLane), op < 11 →
      let w := if w64 then 64 else 32
      let x := (payField p w64 l.field).toNat
      let b := l.b.toNat % 2 ^ w
      let sgn (n : Nat) : Int := if n < 2 ^ (w - 1) then n else (n : Int) - 2 ^ w
      let r := rewriteStep op w64 p l
      let gives (y : Nat) : Prop := r.1 = setPayField p w64 l.field (BitVec.ofNat 64 y)
      r.2.1.toNat = x ∧ r.2.2 = (if op = 9 ∧ x ≠ b then 7 else 0)
      ∧ (op = 0 → gives ((x + b) % 2 ^ w))
      ∧ (op = 1 → gives (if sgn b < sgn x then b else x)) ∧ (op = 2 → gives (min x b))
      ∧ (op = 3 → gives (if sgn x < sgn b then b else x)) ∧ (op = 4 → gives (max x b))
      ∧ (op = 5 → gives (x &&& b)) ∧ (op = 6 → gives (x ||| b)) ∧ (op = 7 → gives (x ^^^ b)) ∧ (op = 8 → gives b)
      ∧ (op = 9 → gives (if x = b then l.new.toNat % 2 ^ w else x)) ∧ (op = 10 → gives (max x (b % 2 ^ 31))))
  -- deques
  ∧ (∀ (op : Nat) (w64 : Bool) (p : BitVec 512) (l : RingLane), 11 ≤ op → op ≤ 13 →
      let top : W32 := p.extractLsb' 0 32
      let bottom : W32 := p.extractLsb' 32 32
      let n := (bottom - top).toNat
      let r := rewriteStep op w64 p l
      let keeps (st : Nat) : Prop := r = (p, bottom ++ top, st)
      (op = 11 → ((p.extractLsb' 64 32 : W32).toNat ≤ n → keeps 5)
        ∧ (n < (p.extractLsb' 64 32 : W32).toNat → r = (setPayField p false 1 ((bottom + 1).zeroExtend 64), bottom ++ top, 0)))
      ∧ (op = 12 → (n = 0 → keeps 4) ∧ (n ≠ 0 → r = (setPayField p false 1 ((bottom - 1).zeroExtend 64), bottom ++ top, 0)))
      ∧ (op = 13 → (top ≠ l.b.extractLsb' 0 32 → keeps 7)
        ∧ (top = l.b.extractLsb' 0 32 → (n = 0 → keeps 4) ∧ (n ≠ 0 → r = (setPayField p false 0 ((top + 1).zeroExtend 64), bottom ++ top, 0)))))
  -- the until comparisons
  ∧ (∀ x b : W32,
      (untilHolds 0 x b = true ↔ x = b) ∧ (untilHolds 1 x b = true ↔ x ≠ b) ∧ (untilHolds 2 x b = true ↔ x.toInt < b.toInt)
      ∧ (untilHolds 3 x b = true ↔ b.toInt ≤ x.toInt) ∧ (untilHolds 4 x b = true ↔ x < b) ∧ (untilHolds 5 x b = true ↔ b ≤ x)
      ∧ (untilHolds 6 x b = true ↔ x &&& b ≠ 0))
  -- an amax history: the exponent code of a magnitude, a merge, a commit, a scale
  ∧ (∀ x, x < 0x7F800000 → amaxCode x = if x = 0 then 0 else max 1 (x / 2 ^ 23))
  ∧ (∀ (p : BitVec 512) (m : W32),
      let pend : W32 := p.extractLsb' 128 32
      let head := ((p.extractLsb' 160 4).toNat + 1) % 16
      (∀ b, b < 512 → (histMerge p m).getLsbD b =
        if 128 ≤ b ∧ b < 160 then (if pend.toNat < m.toNat then m.getLsbD (b - 128) else pend.getLsbD (b - 128)) else p.getLsbD b)
      ∧ (∀ k, k < 16 → (histCommit p).extractLsb' (8 * k) 8 = if k = head then BitVec.ofNat 8 (amaxCode pend.toNat) else p.extractLsb' (8 * k) 8)
      ∧ (histCommit p).extractLsb' 128 32 = 0#32 ∧ (histCommit p).extractLsb' 160 4 = BitVec.ofNat 4 head
      ∧ (histCommit p).extractLsb' 164 28 = p.extractLsb' 164 28
      ∧ (histCommit p).extractLsb' 192 32 = p.extractLsb' 192 32 + 1#32 ∧ (histCommit p).extractLsb' 224 288 = p.extractLsb' 224 288
      ∧ (∀ k e, (∀ i < 16, (p.extractLsb' (8 * i) 8).toNat ≤ e) → (∃ i < 16, (p.extractLsb' (8 * i) 8).toNat = e) →
          histScale k p = if e = 0 then 127 else min (e - (match k with | 0 => 8 | 1 => 15 | 2 => 2 | _ => 0)) 254))
  -- what cvtq and amxcom return, and AB for an absent key; an mxi8 element
  ∧ (∀ (a : RingAct) (p : BitVec 512),
      let f := BitVec.ofNat 4 a.op
      let code (sc : Nat) (l : RingLane) : Nat := sc * 2 ^ 8
        + (cvtqElement (f.extractLsb' 0 2).toNat sc (f.getLsbD 3) (f.getLsbD 2) (if f.getLsbD 2 then l.b.toNat % 2 ^ 16 else l.b.toNat)).1
      let all (v : RingLane → Nat) : List RingLane := a.lanes.map fun l => { l with result := some (BitVec.ofNat 64 (v l), 0) }
      (a.kind = 5 → (historyResults a (some p)).1 = all (code (histScale (f.extractLsb' 0 2).toNat p)) ∧ (historyResults a none).1 = all (code 127))
      ∧ (a.kind = 6 → historyResults a (some p) = (all fun _ => amaxCode (p.extractLsb' 128 32 : W32).toNat, 0)
          ∧ historyResults a none = (all fun _ => 0, 0x200#32))
      ∧ (a.kind = 5 → (historyResults a none).2.getLsbD 9 = true))
  ∧ (∀ (sc x : Nat) (sat n : Bool) (m : Nat) (e : Int), sc < 256 → fmtF32.read x = .fin n m e →
      let y : ℚ := (if n then -1 else 1) * (m : ℚ) * (2 : ℚ) ^ (e + 133 - (sc : Int))
      let q := (cvtqElement 3 sc sat false x).1
      ∃ r : Int, -128 ≤ r ∧ r ≤ 127 ∧ (q : Int) = r % 256 ∧ (127 < y → r = 127) ∧ (y < -128 → r = -128)
        ∧ (-128 ≤ y → y ≤ 127 → |y - r| ≤ 1 / 2 ∧ (|y - r| = 1 / 2 → r % 2 = 0)))
  ∧ ∀ (s : State) (core strand : Nat) (c : Core) (a : RingAct), strand < 8 →
    s.cores = [(core, c)] → c.stops = [(strand, [a])] → s.ringLeft = [] → (∀ p ∈ s.slots, p.2.lost = false ∧ p.2.revert = none) →
    s.ringStep / 1024 % 2 ^ 32 = s.ringRev.toNat →
    let w64 := a.cw.getLsbD 12
    let ends (s : State) (ls : List RingLane) : State := ({ s with cores := [(core, { c with stops := [] })] }).ringResult { a with lanes := ls } 0
    let stays (s : State) (b : RingAct) : State := { s with cores := [(core, { c with stops := [(strand, [b])] })] }
    let done (s : State) (ls : List RingLane) : State := (s.ringResult { a with lanes := ls } 0).onCore core fun k => { k with stops := [] }
    let all (v : BitVec 512) (st : Nat) : List RingLane := a.lanes.map fun l => { l with result := some (payField v w64 l.field, st) }
    let pos := 52 + 243 * (core / 192) + core % 192
    -- the stop of a core under quarantine is bypassed
    (c.quarantined = true → a.mustFinish = false → exec .ringSlotPassage s = .next (stays { s with ringStep := s.ringStep + 1 } a))
    ∧ (c.quarantined = false →
    -- a watch that has lasted a revolution
    (a.entered = true → a.phase = .watch → a.kind < 5 → a.since + 1024 ≤ s.ringStep → (∀ l ∈ a.lanes, l.result = none) →
      let none_ (st : Nat) : List RingLane := a.lanes.map fun l => { l with result := some (0, st) }
      (a.kind ≠ 0 → exec .ringWatchExpiry s = .next (ends s (none_ 1)))
      ∧ (a.kind = 0 → exec .ringWatchExpiry s =
          .next (ends (s.onVf a.vf fun v => { v with ringHeld := v.ringHeld - 1 }) (none_ 3))))
    -- a board that lost and met no landed slot begins again
    ∧ (a.entered = true → a.phase = .lost → a.kind = 0 → a.since + 1024 ≤ s.ringStep →
        exec .ringWatchExpiry s = .next (stays s { a with phase := .watch, since := s.ringStep }))
    -- a lane of a wcap.until that has used its budget
    ∧ (a.entered = true → a.kind = 3 → (a.cw.extractLsb' 16 16).toNat ≠ 0 → (∀ l ∈ a.lanes, l.result = none ∧ (a.cw.extractLsb' 16 16).toNat ≤ l.passes) →
        a.lanes ≠ [] → exec .wcapUntilTimeout s = .next (ends s (a.lanes.map fun l => { l with result := some (l.last, 6) })))
    -- a passage
    ∧ (a.entered = true → a.phase = .watch → s.ringStep < a.since + 1024 → s.ringTimedOut core a = false →
        let now := s.ringStep + 1
        let i := (pos + 1024 - now % 1024) % 1024
        let x := s.slot strand i
        let mine := x.st ≠ 0 ∧ x.key = a.key ∧ x.vf = a.vf
        let goes (t : State) : Prop := exec .ringSlotPassage s = .next t
        let s := { s with ringStep := now }
        -- no slot of the key: an empty slot is claimed by a board, and everything else goes on watching
        (a.kind = 0 → x.st = 0 →
          let first := a.lanes.foldl (fun p l => setPayField p w64 l.field l.b) 0
          let y : RingSlot := { key := a.key, st := 1, vf := a.vf, bpos := pos, home := a.home, payload := first, claim := a.id }
          goes (stays (s.setSlot strand i y) { a with phase := .claimed i }))
        ∧ (a.kind = 0 → x.st ≠ 0 → ¬mine → goes (stays s a))
        ∧ (1 ≤ a.kind → ¬(mine ∧ 2 ≤ x.st) → goes (stays s a))
        -- a landed slot of the key
        ∧ (mine → x.st = 2 →
            (a.kind = 0 → goes (done (s.onVf a.vf fun v => { v with ringHeld := v.ringHeld - 1 }) (all x.payload 2)))
            ∧ (a.kind = 1 → ¬(a.cw.getLsbD 11 = true ∧ x.home.isSome = true) →
                goes (done ((s.setSlot strand i {}).onVf a.vf fun v => { v with ringHeld := v.ringHeld - 1 }) (all x.payload 0)))
            ∧ (a.kind = 2 → goes (done s (all x.payload 0)))
            ∧ (a.kind = 4 →
                let r := rewriteLanes a.op w64 x.payload a.lanes
                goes (done (s.setSlot strand i { x with payload := r.1 }) r.2))
            -- lanes of a wcap.until: those whose condition holds perform, the others have met one passage more
            ∧ (a.kind = 3 →
                let ls := a.lanes.map fun l => match l.result with
                  | some _ => l
                  | none =>
                    let v := payField x.payload w64 l.field
                    if untilHolds (a.cw.extractLsb' 8 3).toNat (v.extractLsb' 0 32) (l.b.extractLsb' 0 32) then { l with result := some (v, 0) }
                    else { l with passes := l.passes + 1, last := v }
                ((∀ l ∈ ls, l.result.isSome = true) → goes (done s ls))
                ∧ ((∃ l ∈ ls, l.result = none) → goes (stays s { a with lanes := ls, since := now })))
            -- cvtq merges its maximum, amxcom commits the history
            ∧ (a.kind = 5 ∨ a.kind = 6 →
                let r := historyResults a (some x.payload)
                let p := if a.kind = 5 then histMerge x.payload a.amax else histCommit x.payload
                goes (((s.setSlot strand i { x with payload := p }).ringResult { a with lanes := r.1 } r.2).onCore core fun k => { k with stops := [] }))
            -- an alight with a home: the payload is captured, the slot is alighting, and the home write is made, parks or fails
            ∧ (a.kind = 1 → a.cw.getLsbD 11 = true → ∀ home, x.home = some home →
                let b : RingAct := { a with lanes := all x.payload 0 }
                let z := s.setSlot strand i { x with st := 3 }
                let at_ : W64 := (home.truncate 54 : BitVec 54).signExtend 64
                let puts (w : State) (b : RingAct) : State := w.onCore core fun k => { k with stops := [(strand, [b])] }
                let stored := z.storeVa a.vf a.ctx { kind := 7, write := true } at_ 64 x.payload.toNat
                (∀ w, stored = .ok w → goes (puts w { b with phase := .home i true, park := [] }))
                ∧ (∀ e, stored = .error (.trap e) → goes (puts z { b with phase := .homeFail i { e with tval := at_ }, park := [] }))
                ∧ (∀ q, stored = .error (.page q) →
                    let r := z.postFault a.vf a.ctx (s.teamOf a.uid).core a.pc q
                    goes (puts r.1 { b with phase := .home i false, park := [r.2] }))))
        -- an alighting slot of the key restarts the watch
        ∧ (mine → x.st = 3 → (a.kind = 0 → goes (stays s { a with phase := .alightWait i })) ∧ (1 ≤ a.kind → goes (stays s { a with since := now }))))
    -- a claimed slot comes back unopposed: the board ends OK, and the slot is landed
    ∧ (∀ i, a.entered = true → a.phase = .claimed i → a.kind = 0 →
        let now := s.ringStep + 1
        let x := s.slot strand i
        i = (pos + 1024 - now % 1024) % 1024 →
          exec .ringSlotPassage s = .next (done (({ s with ringStep := now } : State).setSlot strand i { x with st := 2 }) (all x.payload 0)))
    ∧ (a.entered = true → a.kind < 3 →
        let now := s.ringStep + 1
        let i := (pos + 1024 - now % 1024) % 1024
        let x := s.slot strand i
        let mine := x.st ≠ 0 ∧ x.key = a.key ∧ x.vf = a.vf
        let goes (t : State) : Prop := exec .ringSlotPassage s = .next t
        let s0 := s
        let s := { s with ringStep := now }
        let present := done (s.onVf a.vf fun v => { v with ringHeld := v.ringHeld - 1 }) (all x.payload 2)
        -- another slot passes while its own travels: a landed slot of the key makes the board PRESENT, a pending one with a lower BPOS, or
        -- claimed earlier at its own stop, makes it lose
        (∀ k, a.phase = .claimed k → k ≠ i →
          let lose (s : State) : State := s.setSlot strand k { s.slot strand k with lost := true }
          let beaten := x.bpos < pos ∨ (x.bpos = pos ∧ x.claim < a.id)
          (mine → x.st = 2 → goes (done ((lose s).onVf a.vf fun v => { v with ringHeld := v.ringHeld - 1 }) (all x.payload 2)))
          ∧ (mine → x.st = 1 → beaten → goes (stays (lose s) { a with phase := .lost, since := now }))
          ∧ (¬(mine ∧ (x.st = 2 ∨ (x.st = 1 ∧ beaten))) → goes (stays s a)))
        -- a board that has lost waits for the landed slot
        ∧ (a.phase = .lost → s0.ringStep < a.since + 1024 → (mine → x.st = 2 → goes present) ∧ (¬(mine ∧ x.st = 2) → goes (stays s a)))
        -- a board that waits for an alighting slot: landed again, it is PRESENT; empty, the board begins anew and may claim it
        ∧ (∀ k, a.phase = .alightWait k →
            (k ≠ i ∨ (mine ∧ x.st = 3) → goes (stays s a)) ∧ (k = i → mine → x.st = 2 → goes present)
            ∧ (k = i → x.st = 0 →
                let first := a.lanes.foldl (fun p l => setPayField p w64 l.field l.b) 0
                let y : RingSlot := { key := a.key, st := 1, vf := a.vf, bpos := pos, home := a.home, payload := first, claim := a.id }
                goes (stays (s.setSlot strand i y) { a with phase := .claimed i, since := now }))
            ∧ (k = i → x.st ≠ 0 → ¬(mine ∧ (x.st = 2 ∨ x.st = 3)) → goes (stays s { a with phase := .watch, since := now })))
        -- a home write that has performed empties its slot; one that failed lands it again and traps; one that is parked waits
        ∧ (∀ k, a.phase = .home k true → (k ≠ i → goes (stays s a))
            ∧ (k = i → goes (((s.setSlot strand i {}).onVf x.vf fun v => { v with ringHeld := v.ringHeld - 1 }).ringResult a 0
                |>.onCore core fun c => { c with stops := [] })))
        ∧ (∀ k, a.phase = .home k false → (k ≠ i ∨ a.park ≠ [] → goes (stays s a)))
        ∧ (∀ k e, a.phase = .homeFail k e → (k ≠ i → goes (stays s a))
            ∧ (k = i → goes (((s.setSlot strand i { x with st := 2 }).ringTrap a 1 e).onCore core fun c => { c with stops := [] })))))

/-- 10 R280-R285, R289, R290: a copy writes each of its words once and then signals; collectives join by key and rank, and a rank that
every rank has joined receives its elements; a link's failure stops the contexts whose collectives use it.
Where the manual is open or is read by inference, it follows the model's choices of log 9 (DESIGN CHOICE), log 15 (DESIGN CHOICE), log 39
(DEDUCED), log 57 (DESIGN CHOICE). -/
def Obligations.EngineEvents : Prop :=
  (∀ (s : State) (core entry word : Nat), s.cur = {} →
    ((s.core core).copies.lookup entry = none → Idle (.copyWordWrite core entry word) s ∧ Idle (.copyComplete core entry) s)
    ∧ ∀ c, (s.core core).copies.lookup entry = some c →
        let all := ∀ u, u < c.units → u ∈ c.written
        (c.failed = true ∨ c.park ≠ [] ∨ c.units ≤ word ∨ word ∈ c.written → Idle (.copyWordWrite core entry word) s)
        ∧ (c.failed = false → c.park = [] → word < c.units → word ∉ c.written →
            (∀ s1 c1, s.copyUnit c word = .ok (s1, c1) →
              exec (.copyWordWrite core entry word) s = .next (s1.onCore core fun k => { k with copies := k.copies.set entry c1 })
              ∧ c1 = { c with held := c1.held, written := c.written ++ [word] })
            -- a word of a plain copy between windows of one core: it is read once and written once
            ∧ (∀ u v a b, c.f = 0 → c.srcTeam = some (u, a) → c.dstTeam = some (v, b) → u ≠ v → (s.teams.get {} v).live = true →
                a + c.at word + 4 < 2 ^ 40 → b + c.at word + 4 < 2 ^ 40 → c.held = [] → 384 ≤ a + c.at word →
                ∃ t : State, exec (.copyWordWrite core entry word) s = .next t ∧ t = { s with teams := t.teams, cores := t.cores }
                  ∧ (∀ w, w ≠ v → t.teams.get {} w = s.teams.get {} w)
                  ∧ ∀ x, readByte (t.teams.get {} v).win x =
                      if b + c.at word ≤ x ∧ x < b + c.at word + 4
                      then readByte (s.teams.get {} u).win (a + c.at word + (x - (b + c.at word))) else readByte (s.teams.get {} v).win x))
        ∧ (c.failed = false → ¬all → Idle (.copyComplete core entry) s)
        ∧ (c.failed = true ∨ all → c.pub = none →
            let w := if 2 ≤ copyDk c.e1 then (match c.dstTeam with | some (u, _) => u | none => c.uid) else c.uid
            let x : Team := s.teams.get {} w
            ∃ t : State, exec (.copyComplete core entry) s = .next t ∧ t = { s with teams := t.teams, cores := t.cores }
              ∧ CoreIs s t core { s.core core with copies := (s.core core).copies.erase entry }
              ∧ TeamIs s t w (if x.live = true ∧ (c.e1.extractLsb' 23 5).toNat < 24
                  then { x with units := x.units ++ [{ point := (c.e1.extractLsb' 23 5).toNat, units := 1 }] } else x)))
  ∧ (∀ (s : State) (die : Nat), s.cur = {} →
    ((∀ c ∈ s.collWait, c.key.toNat % 4 ≠ die) → Idle (.collectiveJoin die) s)
    ∧ ∀ c cs, s.collWait = c :: cs → c.key.toNat % 4 = die → (∀ d ∈ cs, d.order ≠ c.order) →
        let s1 := { s with collWait := cs }
        let mine (g : Coll) : Prop := g.vf = c.vf ∧ g.key = c.key
        (c.rank < c.n → (∀ g ∈ s.colls, ¬mine g) →
          exec (.collectiveJoin die) s = .next { s1 with colls := s.colls ++ [{ vf := c.vf, key := c.key, ranks := [(c.rank, c)] }] })
        ∧ (∀ g d r, c.rank < c.n → s.colls = [g] → mine g → g.ranks.head? = some (r, d) →
            ((g.ranks.lookup c.rank).isSome = false → c.n = d.n → c.op = d.op → c.red = d.red → c.fmt = d.fmt → c.count = d.count →
              exec (.collectiveJoin die) s = .next { s1 with colls := [{ g with ranks := g.ranks.set c.rank c }] })
            ∧ ((g.ranks.lookup c.rank).isSome = true ∨ ¬(c.n = d.n ∧ c.op = d.op ∧ c.red = d.red ∧ c.fmt = d.fmt ∧ c.count = d.count) →
              exec (.collectiveJoin die) s = .next (s1.collEnds c)))
        ∧ (c.n ≤ c.rank → exec (.collectiveJoin die) s = .next (s1.collEnds c)))
  ∧ (∀ (s : State) (die rank : Nat), s.cur = {} →
    ((∀ g ∈ s.colls, g.key.toNat % 4 ≠ die ∨ g.ranks.lookup rank = none) → Idle (.collectiveRankDone die rank) s)
    ∧ ∀ g c res s2, s.colls = [g] → g.key.toNat % 4 = die → g.ranks.lookup rank = some c → g.ranks.length = c.n → c.done = false → c.peer = false → c.vf = g.vf → c.key = g.key →
        (∀ p ∈ g.ranks, p.2.park = []) → g.result = some res → (s.teams.get {} c.uid).live = true → c.pub = none →
        let share := (List.range c.destLen).map fun i => (i, res.getD (if c.op = 1 then c.rank * c.count + i else i) 0)
        -- already written by an earlier attempt, or written now
        (c.written = true ∧ s2 = s) ∨ (c.written = false ∧ s.collWrite c share = .ok s2) →
          let x : Team := s2.teams.get {} c.uid
          ∃ t : State, exec (.collectiveRankDone die rank) s = .next t
            ∧ t = { s2 with teams := t.teams, colls := t.colls }
            ∧ t.teams.get {} c.uid = (if (c.e1.extractLsb' 16 5).toNat < 24
                then { x with units := x.units ++ [{ point := (c.e1.extractLsb' 16 5).toNat, units := 1 }] } else x)
            ∧ ((∀ p ∈ g.ranks, p.1 = rank ∨ p.2.done = true) → t.colls = [])
            ∧ ((∃ p ∈ g.ranks, p.1 ≠ rank ∧ p.2.done = false) →
                t.colls = [{ g with ranks := g.ranks.map fun p => if p.1 = rank then (p.1, { p.2 with written := true, done := true }) else p }]))
  ∧ ∀ (s : State) (port : Nat),
    -- a collective over the link, joined by any rank of this device or of another, until every rank has joined and is done
    (∀ g : Coll, g.over = true ↔ (∀ p, g.ranks.head? = some p → g.ranks.length = p.2.n) ∧ ∀ p ∈ g.ranks, p.2.done = true)
    ∧ ((∀ g ∈ s.colls, g.over = true ∨ ∀ p ∈ g.ranks, p.2.f ≠ 1) →
      exec (.wolynLinkPortFailure port) s = .next { s with freeCount := s.freeCount + 1 })
    ∧ ∀ g v k, s.colls = [g] → g.vf = v → g.over = false → (∃ p ∈ g.ranks, p.2.f = 1) → s.contextsOf v = [k] →
        exec (.wolynLinkPortFailure port) s =
          .next (({ s with freeCount := s.freeCount + 1 }).stopContext v k 0x20 (Config.free (100 + port) s.freeCount))

/-- 12 R332-R340, R346-R350, R357; 14 R389: the raster co-processor works through the primitives of a batch; a tile's team starts with its
launch values where it fits, a coverage team of an unordered draw and a pixel team of an ordered one; the status comes when every
primitive is done and every team of the batch has ended; a traversal that has a result returns it to its window. What a
primitive does in a tile and where a ray goes are the model's rasterJob and rayStep.
Where the manual is open or is read by inference, it follows the model's choices of log 28 (DESIGN CHOICE), log 46 (DEDUCED), log 47 (DEDUCED). -/
def Obligations.RenderEvents : Prop :=
  ∀ s : State, s.Settled →
    let here (u : Nat) : State := s.focus { stream := .scalar, uid := u }
    (∀ core k, s.batchAt core k = none →
      Idle (.rasterPrimitive core k) s ∧ Idle (.emitendResult core k) s ∧ Idle (.coverageTeamStart core k) s ∧ Idle (.pixelTeamStart core k) s)
    ∧ (∀ core k u b, s.batchAt core k = some (u, b) →
        let x : Team := s.teams.get {} u
        x.batches.lookup k = some b →
        -- primitives
        ((x.stopped = true ∧ x.aborted = false) ∨ ((∀ p ∈ b.park, p.failed = false) ∧ (b.fault.isSome = true ∨ b.park ≠ [] ∨ b.pcount ≤ b.next)) →
          Idle (.rasterPrimitive core k) s)
        ∧ (x.stopped = false ∨ x.aborted = true → b.fault = none → b.park = [] → b.next < b.pcount →
            -- it is culled, or set up for its tiles
            (b.setup = none →
              let n := (here u).nextPrimitive b
              ∃ t : State, exec (.rasterPrimitive core k) s = .next t
                ∧ t.unfocus = { s with freeCount := n.1.freeCount, teams := t.unfocus.teams }
                ∧ TeamIs s t.unfocus u { x with batches := x.batches.set k (match n.2.2 with
                    | none => { b with next := b.next + 1, culled := b.culled + 1 }
                    | some tri => { b with setup := some (n.2.1, tri), tile := 0 }) })
            -- one tile is done; after the last of them the next primitive follows
            ∧ (∀ p tri, b.setup = some (p, tri) →
                let js := b.tileJobs p tri
                let ends (b : Batch) : Batch := { b with next := b.next + 1, drawn := b.drawn + 1, tile := 0, setup := none }
                (js.length ≤ b.tile → ∃ t : State, exec (.rasterPrimitive core k) s = .next t ∧ t.unfocus = { s with teams := t.unfocus.teams }
                  ∧ TeamIs s t.unfocus u { x with batches := x.batches.set k (ends b) })
                ∧ ∀ j, js[b.tile]? = some j →
                    (∀ s1 hz new, (here u).rasterJob b p j = .ok (s1, hz, new) →
                      let b' : Batch := { b with hz := b.hz + hz, jobs := b.jobs ++ new }
                      ∃ t : State, exec (.rasterPrimitive core k) s = .next t ∧ t.mem = s1.mem ∧ t.hostMem = s1.hostMem
                        ∧ TeamIs s t.unfocus u { x with
                            batches := x.batches.set k (if b.tile + 1 < js.length then { b' with tile := b.tile + 1 } else ends b') })
                    ∧ (∀ e, (here u).rasterJob b p j = .error (.trap e) →
                      ∃ t : State, exec (.rasterPrimitive core k) s = .next t ∧ t.unfocus = { s with teams := t.unfocus.teams }
                        ∧ TeamIs s t.unfocus u { x with batches := x.batches.set k { b with fault := some e, next := b.pcount, jobs := [] } })
                    ∧ (∀ q, (here u).rasterJob b p j = .error (.page q) →
                      ∃ (t : State) (q' : PageReq), exec (.rasterPrimitive core k) s = .next t ∧ q' = { q with posted := q'.posted }
                        ∧ TeamIs s t.unfocus u { x with batches := x.batches.set k { b with park := [q'] } })))
        -- the teams of tiles
        ∧ (x.stopped = true ∨ (s.ctx x.vf x.ctx).phase ≠ .none ∨ s.nextJob core b = none →
            Idle (.coverageTeamStart core k) s ∧ Idle (.pixelTeamStart core k) s)
        ∧ (b.draw.ordered = true → Idle (.coverageTeamStart core k) s) ∧ (b.draw.ordered = false → Idle (.pixelTeamStart core k) s)
        ∧ (∀ j c, x.stopped = false → (s.ctx x.vf x.ctx).phase = .none → s.nextJob core b = some j →
            s.rasterCore x.vf (core / 24) b.hdr = some c → (s.vf x.vf).saveB = 0 → u ≠ s.nextTeam →
            ∃ (t : State) (y : Team), exec (if b.draw.ordered then .pixelTeamStart core k else .coverageTeamStart core k) s = .next t
              ∧ t = { s with freeCount := s.freeCount + 1, teams := t.teams, nextTeam := s.nextTeam + 1, cores := t.cores }
              ∧ t.teams.get {} s.nextTeam = y
              ∧ t.teams.get {} u = { x with
                  winBase := (t.teams.get {} u).winBase, batches := x.batches.set k { b with jobs := b.jobs.erase j, running := b.running ++ [(s.nextTeam, j.tx, j.ty)] } }
              ∧ y.live = true ∧ y.core = c ∧ y.hdr = b.hdr ∧ y.spc = b.hdr.scalarEntry ∧ y.launch = x.launch
              ∧ y.raster = some { parent := u, batch := b.order, draw := b.draw, img := b.img, job := j }
              ∧ y.s.get 0 1 = b.draw.pargs ∧ y.s.get 0 2 = b.hdr.recTab ∧ y.s.get 0 4 = 1
              ∧ (let g : Group := y.groups.get {} 0
                 let cov (l : Nat) : Nat := if l < 64 then j.cov.getD l 0 else 0
                 g.slotA.valid = true ∧ g.slotA.pc = b.hdr.laneEntry
                 ∧ (∀ l, l < 96 → (g.slotA.mask.getLsbD l = true ↔ ∃ i, i < 4 ∧ cov (l / 4 * 4 + i) ≠ 0))
                 ∧ (∀ l, l < 96 → (g.helper.getLsbD l = true ↔ cov l = 0 ∧ ∃ i, i < 4 ∧ cov (l / 4 * 4 + i) ≠ 0))
                 ∧ ∀ l, l < 64 →
                    let q := l / 4
                    let px := 8 * j.tx + 2 * (q % 4) + l % 2
                    let py := 8 * j.ty + 2 * (q / 4) + l % 4 / 2
                    (g.v.get (vInit b.hdr.poison 0) 0).getD l 0 = BitVec.ofNat 32 (cov l)
                    ∧ (g.v.get (vInit b.hdr.poison 1) 1).getD l 0 = BitVec.ofNat 32 (px + 16384 * py)
                    ∧ (g.v.get (vInit b.hdr.poison 2) 2).getD l 0 = j.id.truncate 32
                    ∧ (g.v.get (vInit b.hdr.poison 3) 3).getD l 0 = BitVec.ofNat 32 (j.id.toNat / 2 ^ 32)))
        -- the status
        ∧ (b.next < b.pcount ∨ b.jobs ≠ [] ∨ b.running ≠ [] → Idle (.emitendResult core k) s)
        ∧ (b.pcount ≤ b.next → b.jobs = [] → b.running = [] → ∀ w, (x.groups.get {} b.gid).slotA.windows = [w] → w.id = b.window →
            ∃ t : State, exec (.emitendResult core k) s = .next t ∧ t = { s with teams := t.teams }
              ∧ (∀ v, v ≠ u → t.teams.get {} v = s.teams.get {} v)
              ∧ (t.teams.get {} u).batches = x.batches.erase k
              ∧ (let status := BitVec.ofNat 32 (b.drawn + 1024 * b.culled + 1048576 * min 1023 b.hz)
                 (((t.teams.get {} u).groups.get {} b.gid).slotA).windows =
                  [match b.fault with
                   | some e => { w with fault := some (.trap e), after := 0, waiting := w.waiting - 1 }
                   | none => { w with writes := w.writes ++ [(b.dest, b.mask, Vector.replicate 96 status)], waiting := w.waiting - 1 }])))
    ∧ ∀ u g l,
        let x : Team := s.teams.get {} u
        let grp : Group := x.groups.get {} g
        (grp.rays.lookup l = none → Idle (.traversalResult u g l) s)
        ∧ ∀ r, grp.rays.lookup l = some r →
          (x.live = false ∨ x.stopped = true ∨ r.busy = false → Idle (.traversalResult u g l) s)
          ∧ ((∀ p ∈ r.park, p.failed = false) → r.park ≠ [] → Idle (.traversalResult u g l) s)
          ∧ (x.live = true → x.stopped = false → r.busy = true → r.park = [] → ∀ s1 r1 ws w,
              (here u).rayStep (64 - s.candidates x.core) r = .result s1 r1 ws → grp.slotA.windows = [w] → w.id = r1.window → s1.team = x →
                ∃ t : State, exec (.traversalResult u g l) s = .next t ∧ t.mem = s1.mem ∧ t.hostMem = s1.hostMem
                  ∧ (let y : Group := (t.unfocus.teams.get {} u).groups.get {} g
                     y.rays.lookup l = some r1
                     ∧ y.slotA.windows = [{ w with
                        writes := w.writes ++ ws.zipIdx.map fun q => (r1.dest + q.2, BitVec.twoPow 96 l, Vector.replicate 96 q.1),
                        waiting := w.waiting - 1 }]))
          -- a trap is precise: no lane of the trace returns, and its lanes have the slots they had before it
          ∧ (x.live = true → x.stopped = false → r.busy = true → ∀ e w m old,
              failedOf r.park = some e ∨ (r.park = [] ∧ (here u).rayStep (64 - s.candidates x.core) r = .stops (.trap e)) →
              grp.slotA.windows = [w] → grp.slotB.windows = [] → w.id = r.window → w.rays = some (m, old) →
                ∃ t : State, exec (.traversalResult u g l) s = .next t ∧ t = { s with teams := t.teams }
                  ∧ (let y : Group := (t.teams.get {} u).groups.get {} g
                     y.slotA.windows = [{ w with fault := some (.trap e), after := 0, waiting := 0, writes := [] }]
                     ∧ y.rays = old.foldl (fun rs p => Store.set rs p.1 p.2) (grp.rays.filter fun p => !m.getLsbD p.1)))
          -- a replayable fault parks the lane's ray
          ∧ (x.live = true → x.stopped = false → r.busy = true → r.park = [] → ∀ q,
              (here u).rayStep (64 - s.candidates x.core) r = .stops (.page q) →
                ∃ (t : State) (q' : PageReq), exec (.traversalResult u g l) s = .next t ∧ q' = { q with posted := q'.posted }
                  ∧ ((t.teams.get {} u).groups.get {} g).rays.lookup l = some { r with park := [q'] })

/-- 13 R359-R363, R366, R369-R377: a head's registers, enabling and disabling, banks and loads; band programs, deadlines and codes, the
band log, the fallback path and what it writes, scan-out, frames, and errors in a bank or a slot. A head that is off, or a band for
which an event comes too early, makes the event idle.
Where the manual is open or is read by inference, it follows the model's choices of log 1 (DESIGN CHOICE), log 12 (DEDUCED), log 16
(DESIGN CHOICE), log 45 (DEDUCED), log 48 (PRESUMED). -/
def Obligations.HeadEvents : Prop :=
  ∀ s : State, s.cur = {} →
    -- the program of a band 0 that has not ended has not faulted, once its bank is a good one
    let unfaulted (h : Head) : Store BandInfo :=
      if (h.info 0).faulted = true ∧ (h.info 0).ended = false then h.bands.set 0 { h.info 0 with faulted := false } else h.bands
    (∀ v j x, s.localHead v j = none →
      Idle (.headEnable v j x) s ∧ Idle (.headDisable v j x) s ∧ Idle (.hctlSwap v j) s ∧ Idle (.hposeWrite v j x) s ∧ Idle (.hload v j x) s)
    ∧ (∀ v j k x, s.localHead v j = some k →
        let h := s.headOf k
        let sel := (x.extractLsb' 8 5).toNat
        -- enabling: the lowest enable error, or a fresh start of the first frame
        (h.en = false → x.getLsbD 0 = true → x.getLsbD 1 = false → h.swap = false →
          let s1 := s.onHead k fun h => { h with outsel := sel }
          (∀ e, s1.enableError v k = e → e ≠ 0 → HeadGives (.headEnable v j x) s k { h with outsel := sel, enError := e })
          ∧ (s1.enableError v k = 0 →
            ∃ t : State, exec (.headEnable v j x) s = .next t ∧ t = { s with freeCount := s.freeCount + 1, heads := t.heads }
              ∧ (∀ i, i ≠ k → t.headOf i = s.headOf i)
              ∧ t.headOf k = { h with
                  outsel := sel, en := true, enError := 0, running := false, request := none, granted := false, progress := 0, pending := [],
                  f0 := none, f1 := none, mfv := false, run := 0, next := 0, dead := 0, shown := 0, frame := 0, lastCode := 0,
                  bands := (if h.faultNext then [(0, { faulted := true })] else []), faultNext := false,
                  mode := (if h.stuck then some 0 else none), s := [], pc := 0, start := (Config.free 20 s.freeCount).toNat }))
        ∧ (h.en = true → x.getLsbD 0 = true → x.getLsbD 1 = false → HeadGives (.headEnable v j x) s k { h with outsel := sel })
        -- disabling drops what runs or waits
        ∧ (x.getLsbD 0 = true → Idle (.headDisable v j x) s)
        ∧ (x.getLsbD 0 = false → x.getLsbD 1 = false → h.swap = false → h.en = true →
            HeadGives (.headDisable v j x) s k { h with
              outsel := sel, en := false, running := false, request := none, granted := false, progress := 0, pending := [], f0 := none, f1 := none,
              mfv := false })
        -- a swap takes effect at once while the head is off and no load is busy; otherwise it waits
        ∧ (h.en = true ∨ h.load.isSome = true → HeadGives (.hctlSwap v j) s k { h with swap := true })
        ∧ (h.en = false → h.load = none → h.stuck = false → HeadGives (.hctlSwap v j) s k { h with swap := false, bank := !h.bank, s := [] })
        ∧ (h.en = false → h.load = none → h.stuck = true →
            HeadGives (.hctlSwap v j) s k (if (if h.bank then h.fresh0 else h.fresh1)
              then { h with
                swap := false, bank := !h.bank, s := [], stuck := false, faultNext := false, mode := none, bands := unfaulted h }
              else { h with swap := false, bank := !h.bank, s := [] }))
        ∧ HeadGives (.hposeWrite v j x) s k { h with pose := x &&& 0xFFFF0000FFFFFFFF#64 }
        -- loads
        ∧ (h.load.isSome = true → Idle (.hload v j x) s)
        ∧ (h.load = none →
            let size := if x.getLsbD 0 then h.wtsSize else 16384
            let bad := h.loadSrc.toNat % 64 ≠ 0 ∨ h.loadLen.toNat % 4 ≠ 0 ∨ size < h.loadLen.toNat
            (bad → HeadGives (.hload v j x) s k { h with loadErr := true })
            ∧ (¬bad → HeadGives (.hload v j x) s k { h with loadErr := false, load := some (x.getLsbD 0, h.loadSrc, h.loadLen) })))
    -- times, codes, fallback mode as HSTAT shows it, the log
    ∧ (∀ (h : Head) (b : Nat) (t : Int),
        h.deadline b = 256 * (h.start : Int) + (((h.vtotal - h.vact : Nat) : Int) + h.frame * h.vtotal + 16 * b) * h.lineper - 2 * h.lineper
        ∧ h.release b = (if b < 2 then 256 * (h.start : Int) + h.frame * h.vtotal * h.lineper else h.deadline (b - 2) + 2 * h.lineper)
        ∧ 256 * cycleOf t ≥ t ∧ 256 * (cycleOf t - 1) < t
        ∧ h.code b = (let i := h.info b
            if i.put then 0 else if i.latched = false then 4 else if i.faulted then 3 else if i.mode then 2 else 1)
        ∧ (h.modeHolds = true ↔ ∃ m, h.mode = some m ∧ (m = 0 ∨ m < h.next ∨ 8 ≤ h.run)))
    ∧ (∀ k b code margin,
        let h := s.headOf k
        let at_ := h.log + BitVec.ofNat 64 (8 * ((h.frame % max (h.logCfg.extractLsb' 0 8).toNat 1) * h.nb + b))
        let entry := h.frame % 2 ^ 32 * 2 ^ 32 + b * 2 ^ 20 + code * 2 ^ 16 + margin
        let stored := s.storeVa (s.vfOfHead k) 0 { kind := 1, write := true } at_ 8 entry
        (h.log = 0 → s.logBand k b code margin = s)
        ∧ (h.log ≠ 0 → (∀ w, stored = .ok w → s.logBand k b code margin = w) ∧ (∀ e, stored = .error e → s.logBand k b code margin = s)))
    ∧ (∀ k,
        let h := s.headOf k
        let b := h.next
        let inMode (n : Nat) : Prop := ∃ m, h.mode = some m ∧ m ≤ n
        -- a bank swap waits for a frame's start; after an error, a swap to a bank loaded since ends the fallback mode
        (h.en = true → (h.next ≠ 0 ∨ h.dead ≠ 0) → Idle (.bankSwap k) s)
        ∧ ((h.en = false ∨ (h.next = 0 ∧ h.dead = 0)) → h.swap = true → h.load = none →
            let g := { h with swap := false, bank := !h.bank, s := [] }
            (h.stuck = false ∨ (if h.bank then h.fresh0 else h.fresh1) = false → HeadGives (.bankSwap k) s k g)
            ∧ (h.stuck = true → (if h.bank then h.fresh0 else h.fresh1) = true →
                HeadGives (.bankSwap k) s k { g with stuck := false, faultNext := false, mode := none, bands := unfaulted h }))
        ∧ (h.load = none → Idle (.hloadDone k) s)
        ∧ (∀ w src len s1 m bad, h.load = some (w, src, len) → h.en = true ∨ h.swap = false →
            let old := if w then (if h.bank then h.wts0 else h.wts1) else if h.bank then h.prog0 else h.prog1
            s.loadBank (s.vfOfHead k) src (len.toNat / 4) 0 old = (s1, m, bad) →
              let g := { h with load := none, loadErr := bad }
              ∃ t : State, exec (.hloadDone k) s = .next t ∧ t = { s1 with heads := t.heads } ∧ (∀ j, j ≠ k → t.headOf j = s.headOf j)
                ∧ t.headOf k =
                    if w then (if h.bank then { g with wts0 := m, fresh0 := h.fresh0 || !bad } else { g with wts1 := m, fresh1 := h.fresh1 || !bad })
                    else if h.bank then { g with prog0 := m, fresh0 := h.fresh0 || !bad } else { g with prog1 := m, fresh1 := h.fresh1 || !bad })
        -- a band's program
        ∧ ((h.en = false ∨ h.running = true ∨ h.nb ≤ b ∨ inMode b ∨ (2 ≤ b ∧ h.shown + 1 < b) ∨ b < h.dead
              ∨ (b ≠ 0 ∧ (h.info (b - 1)).ended = false) ∨ (b = 0 ∧ h.swap = true ∧ h.load = none)) → Idle (.bandProgramStart k) s)
        ∧ (h.en = true → h.running = false → b < h.nb → ¬inMode b → (b < 2 ∨ b ≤ h.shown + 1) → h.dead ≤ b →
            ¬(b = 0 ∧ h.swap = true ∧ h.load = none) → (b ≠ 0 → (h.info (b - 1)).ended = true) →
            HeadGives (.bandProgramStart k) s k { h with
              running := true, next := b + 1, pc := 0, held := false, waited := false,
              now := (if b = 0 then cycleOf (h.release 0) else max h.now (cycleOf (h.release b))),
              s := ((h.s.set 1 (BitVec.ofNat 64 b)).set 2 (BitVec.ofNat 64 (h.frame % 2 ^ 32))).set 3
                (BitVec.ofNat 64 (if b ≠ 0 then h.code (b - 1) else if h.frame = 0 then 0 else h.lastCode)) })
        -- a deadline: the band is on time, or its fallback write begins; after 8 such bands the head falls back for the frame
        ∧ (let d := h.dead
           let i := h.info d
           let remains := inMode d ∧ (i.ended = false ∨ i.mode = true)
           let own := h.running = true ∧ h.next = d + 1
           (h.en = false ∨ h.nb ≤ d ∨ h.shown < d ∨ (¬remains ∧ (b ≤ d ∨ (own ∧ h.held = false))) ∨ (remains ∧ i.mode = false) → Idle (.bandDeadline k) s)
           ∧ (h.en = true → d < h.nb → d ≤ h.shown → remains → i.mode = true → HeadGives (.bandDeadline k) s k { h with dead := d + 1 })
           ∧ (h.en = true → d < h.nb → d ≤ h.shown → ¬remains → d < b → (own → h.held = true) →
                -- a program of the band that has not ended by then is cancelled, and the band ends
                let i' : BandInfo := if i.ended then i else { i with ended := true, latched := h.f0.isSome }
                let h1 : Head := if h.running && h.next == d + 1
                  then { h with running := false, request := none, granted := false, progress := 0, now := cycleOf (h.deadline d) } else h
                let h2 : Head := { h1 with dead := d + 1, bands := if i.ended then h.bands else h.bands.set d i' }
                let h3 : Head := { h2 with
                  run := h.run + 1,
                  pending := h.pending ++ [{
                    band := d, code := if i'.latched = false then 4 else if i'.faulted then 3 else if i'.mode then 2 else 1,
                    frame := if i'.latched then h.f0 else none, motion := bit h.fb 8 && h.mfv,
                    phase := (h.fb.extractLsb' 0 8).toNat, pose := h.pose }] }
                let mode := some (match h.mode with | some m => min m (d + 1) | none => d + 1)
                (i.put = true → exec (.bandDeadline k) s =
                    .next ((s.onHead k fun _ => { h2 with run := 0 }).logBand k d (if i.ue then 3 else 0) (if i.ue then 0 else i.margin))
                  ∧ (h.log = 0 → HeadGives (.bandDeadline k) s k { h2 with run := 0 }))
                ∧ (i.put = false → h.run + 1 < 8 → HeadGives (.bandDeadline k) s k h3)
                ∧ (i.put = false → 7 ≤ h.run → h2.running = false → HeadGives (.bandDeadline k) s k { h3 with mode := mode })
                -- a later band's program is cancelled as the mode begins; its lput, where it has completed, stands
                ∧ (i.put = false → 7 ≤ h.run → h2.running = true → d + 1 < b →
                    let e := b - 1
                    let j := h.info e
                    HeadGives (.bandDeadline k) s k { h3 with
                      mode := mode, running := false, request := none, granted := false, progress := 0,
                      bands := if j.put && !j.ended then h2.bands.set e { j with ended := true, latched := h.f0.isSome } else h2.bands })))
        -- fallback mode writes the first band that remains and is released
        ∧ (let due (n : Nat) : Prop := inMode n ∧ h.dead ≤ n ∧ n < h.nb ∧ (h.info n).ended = false ∧ (n < 2 ∨ n ≤ h.shown + 1)
           (h.en = false ∨ (∀ n, ¬due n) ∨ (h.dead = 0 ∧ h.swap = true ∧ h.load = none ∧ due 0) → Idle (.fallbackModeBand k) s)
           ∧ (∀ n, h.en = true → due n → (∀ m, m < n → ¬due m) → ¬(n = 0 ∧ h.swap = true ∧ h.load = none) → (h.info n).put = false →
              HeadGives (.fallbackModeBand k) s k { h with
                next := max h.next (n + 1),
                bands := h.bands.set n { h.info n with ended := true, mode := true, latched := h.f0.isSome },
                pending := h.pending ++ [{
                  band := n, code := if h.f0 = none then 4 else if (h.info n).faulted then 3 else 2, frame := h.f0, motion := bit h.fb 8 && h.mfv,
                  phase := (h.fb.extractLsb' 0 8).toNat, pose := h.pose }] }))
        -- a fallback write: zeros, or each pixel of the warp of the frame
        ∧ (h.pending = [] → Idle (.fallbackWriteDone k) s)
        ∧ (∀ p ps, h.pending = p :: ps →
            let n := h.lines p.band
            let lo := 2 ^ 20 * (p.band % 3)
            let code := if (h.info p.band).ue then 3 else p.code
            let s1 (f : Latched) : State := s.drainFrame h f.base
            ∃ t t1 : State, exec (.fallbackWriteDone k) s = .next t ∧ t = t1.logBand k p.band code 0
              ∧ (p.frame = none → t1 = { s with heads := t1.heads })
              ∧ (∀ f, p.frame = some f → t1 = { s1 f with freeCount := (s1 f).freeCount + 8192 * h.sh, heads := t1.heads })
              ∧ (∀ j, j ≠ k → t1.headOf j = s.headOf j) ∧ t1.headOf k = { h with pending := ps, slots := (t1.headOf k).slots }
              ∧ (∀ a, ¬(lo ≤ a ∧ a < lo + 4 * h.outw * n) → readByte (t1.headOf k).slots a = readByte h.slots a)
              ∧ ∀ r x c, r < n → x < h.outw → c < 4 → readByte (t1.headOf k).slots (lo + 4 * (h.outw * r + x) + c) =
                  match p.frame with
                  | none => 0
                  | some f => BitVec.ofNat 8 ((s1 f).warpPixel h f p.motion p.phase p.pose x (16 * p.band + r) / 256 ^ c))
        -- scan-out and frames
        ∧ (h.en = false ∨ h.nb ≤ h.shown ∨ h.dead ≤ h.shown ∨ (∃ p ∈ h.pending, p.band = h.shown) → Idle (.bandScanout k) s)
        ∧ (h.en = true → h.shown < h.nb → h.shown < h.dead → (∀ p ∈ h.pending, p.band ≠ h.shown) →
            ∃ bytes, HeadGives (.bandScanout k) s k { h with shown := h.shown + 1, output := some (h.frame, h.shown, bytes) }
              ∧ ∀ a x, (a, x) ∈ bytes ↔ a < 4 * h.outw * h.lines h.shown ∧ (2 ^ 20 * (h.shown % 3) + a, x) ∈ h.slots)
        ∧ (h.en = false ∨ h.shown < h.nb → Idle (.frameStart k) s)
        ∧ (h.en = true → h.nb ≤ h.shown →
            HeadGives (.frameStart k) s k { h with
              frame := h.frame + 1, lastCode := h.code (h.nb - 1), run := 0, next := 0, dead := 0, shown := 0,
              bands := (if h.faultNext then [(0, { faulted := true })] else []), faultNext := false, mode := if h.stuck then some 0 else none })
        -- an uncorrectable error in a bank is a program fault of the band that runs, or of the next that has not ended; with none left it
        -- falls on band 0 of the next frame
        ∧ (∀ loc,
            let g (pc : Nat) : Head := { h with
              stuck := true, fresh0 := false, fresh1 := false, fault := none, hfault := BitVec.ofNat 64 (0x20 + pc % 65536 * 2 ^ 16 + h.frame % 2 ^ 32 * 2 ^ 32) }
            let from_ (n : Nat) : Option Nat := some (match h.mode with | some m => min m (n + 1) | none => n + 1)
            let ev := Instr.uncorrectableError (.bank k) loc
            (h.en = true → h.running = true → 0 < b → (h.info (b - 1)).ended = false →
                HeadGives ev s k { g h.pc with
                  running := false, request := none, granted := false, progress := 0, mode := from_ (b - 1),
                  bands := h.bands.set (b - 1) { h.info (b - 1) with ended := true, latched := h.f0.isSome, faulted := true } })
            ∧ (h.en = false ∨ (h.running = false ∧ ∀ n < h.nb, (h.info n).ended = true) → HeadGives ev s k { g h.pc with faultNext := true })
            ∧ (∀ n, h.en = true → h.running = false → n < h.nb → (h.info n).ended = false → (∀ m < n, (h.info m).ended = true) →
                (inMode n → HeadGives ev s k { g h.pc with bands := h.bands.set n { h.info n with faulted := true } })
                ∧ (¬inMode n → HeadGives ev s k { g 0 with
                    next := n + 1, pc := 0, running := false, request := none, granted := false, progress := 0, mode := from_ n,
                    bands := h.bands.set n { h.info n with ended := true, latched := h.f0.isSome, faulted := true } })))
        -- an error in a slot makes the band that is scanned out next FAULT in the log
        ∧ (∀ loc,
            let d := h.shown
            let s1 := s.onHead k fun h => { h with bands := h.bands.set d { h.info d with ue := true } }
            (h.en = false ∨ h.nb ≤ d → Idle (.uncorrectableError (.bandSlot k) loc) s)
            ∧ (h.en = true → d < h.nb → d < h.dead → (∀ p ∈ h.pending, p.band ≠ d) →
                exec (.uncorrectableError (.bandSlot k) loc) s = .next (s1.logBand k d 3 0))
            ∧ (h.en = true → d < h.nb → (h.dead ≤ d ∨ ∃ p ∈ h.pending, p.band = d) → exec (.uncorrectableError (.bandSlot k) loc) s = .next s1)))
    -- an output pixel: the bilinear mean of four pixels of the frame, rounded to nearest with ties to even
    ∧ (∀ (h : Head) (f : Latched) (motion : Bool) (phase : Nat) (pose : W64) (x y c : Nat), 0 < h.sw → 0 < h.sh → c < 4 →
        let u0 : ℚ := (x + 1 / 2) * h.sw / h.outw - 1 / 2
        let w0 : ℚ := (y + 1 / 2) * h.sh / h.vact - 1 / 2
        let clamp (n : Nat) (i : Int) : Nat := (min (max i 0) (n - 1)).toNat
        let m : Int × Int := if motion then h.motionAt (clamp ((h.sw + 7) / 8) ⌊u0 / 8⌋) (clamp ((h.sh + 7) / 8) ⌊w0 / 8⌋) else (0, 0)
        let pdx : Int := (pose.extractLsb' 0 16 : BitVec 16).toInt
        let pdy : Int := (pose.extractLsb' 16 16 : BitVec 16).toInt
        let ui := ⌊256 * (u0 + phase / 256 * m.1 + pdx / 16 * h.sw / h.outw)⌋
        let wi := ⌊256 * (w0 + phase / 256 * m.2 + pdy / 16 * h.sh / h.vact)⌋
        let px (dx dy : Int) : Nat := s.framePixel h f (clamp h.sw (ui / 256 + dx)) (clamp h.sh (wi / 256 + dy)) / 256 ^ c % 256
        let fu := ui % 256
        let fw := wi % 256
        let sum : Int := (256 - fw) * ((256 - fu) * px 0 0 + fu * px 1 0) + fw * ((256 - fu) * px 0 1 + fu * px 1 1)
        let q : Int := (s.warpPixel h f motion phase pose x y / 256 ^ c % 256 : Nat)
        |65536 * q - sum| ≤ 32768 ∧ (|65536 * q - sum| = 32768 → q % 2 = 0))
    -- a pixel that nothing has written since the latch is the frame's
    ∧ (∀ (h : Head) (f : Latched) (x y : Nat),
        let at_ := f.base + y * h.pitch + 4 * x
        readBytes s.mem at_ 4 = readBytes f.snap at_ 4 → s.framePixel h f x y = readBytes s.mem at_ 4)
    -- a shared unit goes to the waiting head of the earliest deadline, of equal ones to the lower head, and to no other
    ∧ ∀ motion : Bool,
        let waits (p : Nat × Head) : Prop := p.2.en = true ∧ p.2.request = some motion
        let held := ∃ p ∈ s.heads, p.2.request = some motion ∧ p.2.granted = true
        (held ∨ (∀ p ∈ s.heads, ¬waits p) → Idle (.sharedUnitGrant motion) s)
        ∧ (¬held → (∃ p ∈ s.heads, waits p) →
            ∃ p ∈ s.heads, waits p ∧ (∀ q ∈ s.heads, waits q →
                let d := p.2.deadline (p.2.next - 1)
                let e := q.2.deadline (q.2.next - 1)
                d < e ∨ (d = e ∧ p.1 ≤ q.1))
              ∧ ∃ t : State, exec (.sharedUnitGrant motion) s = .next t ∧ t = { s with heads := t.heads }
                ∧ t.headOf p.1 = { s.headOf p.1 with granted := true }
                ∧ (∀ q ∈ s.heads, waits q → q.1 ≠ p.1 → t.headOf q.1 = { s.headOf q.1 with waited := true })
                ∧ ∀ j, j ≠ p.1 → (∀ q ∈ s.heads, waits q → q.1 ≠ j) → t.headOf j = s.headOf j)

/-- 11 R292-R294, R318; 13 R358, R359; 14 R382-R385, R393; 15 R405, R411: writes of the register windows: translation invalidation, roots,
atomic routines, publish sets, what the PF gives a VF with the error code of each rejection, the governor's and the counters'
registers, and the plain registers. A change of a VF's publish sets drops the records cached for the VF, PMCTL with CLR zeroes the
counters of its clusters and cores whatever EN is, and a change of a routine entry waits with BUSY until no patom that names the entry
is in flight. Nothing else changes, and with no VF selected the PF's writes change nothing.
Where the manual is open or is read by inference, it follows the model's choices of log 7 (DEDUCED), log 43 (DEDUCED), log 49
(DESIGN CHOICE), log 51 (DEDUCED), log 56 (DESIGN CHOICE), log 62 (DESIGN CHOICE). -/
def Obligations.RegisterWindowWrites : Prop :=
  ∀ (s : State) (x : W64),
    let k := s.pfVfSel
    let f := s.vf k
    let rejects (i : Instr) (e : Nat) : Prop := exec i s = .next { s with pfErr := e }
    let sets (i : Instr) (g : Vf) : Prop := VfGives i s k g
    let field (hi lo : Nat) : Nat := (x.toNat / 2 ^ lo) % 2 ^ (hi + 1 - lo)
    -- no translation outlives its access, so an invalidation leaves nothing to do (DEDUCED, log 7)
    (∀ v, Idle (.tlbinv v x) s) ∧ Idle (.pftlbinv x) s
    -- the root of a free context, and of a VF without contexts
    ∧ (∀ v, let c := s.ctx v (s.vf v).ctxsel
        CtxGives (.ctxrootWrite v x) s v (s.vf v).ctxsel (if c.state = 0 then { c with root := x } else c))
    -- atomic routines: only a routine that passes every check becomes valid; BUSY stands until no patom that names the entry is in flight
    ∧ (∀ v n, let y := s.vf v
        let runs (f : Fragment) (j : Nat) : Prop := f.valid = true ∧ (f.patom = some (f.pc, j)
          ∨ ∃ w ∈ f.windows ++ f.kept, w.patom = some j ∧ ((∃ a z, w.fault = some (.page a z)) ∨ ∃ e, w.fault = some (.parked e)))
        let inFlight (j : Nat) : Prop := ∃ r : Nat × Team, ((r ∈ s.flush.teams ∧ r.2.vf = v) ∨ ∃ c ∈ y.ctxs, r ∈ c.2.saved) ∧ r.2.aborted = false
          ∧ ∃ g ∈ r.2.groups, runs g.2.slotA j ∨ runs g.2.slotB j
        let entry (j : Nat) : Option (List W32) → Store (List W32) | some ws => y.routines.set j ws | none => y.routines.erase j
        (y.atrPending.isSome = true → Idle (.atrcmdRegister v n) s ∧ Idle (.atrcmdRemove v) s)
        ∧ (y.atrPending = none →
          (∀ ws, s.routineCheck v n = .ok ws → (1 ≤ n ∧ n ≤ 16 ∧ y.atrAddr.toNat % 4 = 0)
            ∧ (¬inFlight y.atrSel → VfGives (.atrcmdRegister v n) s v { y with atrStat := 0, routines := entry y.atrSel (some ws) })
            ∧ (inFlight y.atrSel → VfGives (.atrcmdRegister v n) s v { y with atrStat := 0, atrPending := some (y.atrSel, some ws) }))
          ∧ (∀ e, s.routineCheck v n = .error e → VfGives (.atrcmdRegister v n) s v { y with atrStat := e } ∧ 1 ≤ e ∧ e ≤ 7)
          ∧ (¬inFlight y.atrSel → VfGives (.atrcmdRemove v) s v { y with routines := entry y.atrSel none })
          ∧ (inFlight y.atrSel → VfGives (.atrcmdRemove v) s v { y with atrPending := some (y.atrSel, none) }))
        -- what the end of each turn does with a change that stands
        ∧ (y.atrPending = none → s.settleRoutine v = s)
        ∧ ∀ j ws, y.atrPending = some (j, ws) →
          (inFlight j → s.settleRoutine v = s)
          ∧ (¬inFlight j → s.settleRoutine v = { s with vfs := (s.settleRoutine v).vfs }
              ∧ VfIs s (s.settleRoutine v) v { y with routines := entry j ws, atrPending := none }))
    -- with PFVFSEL = 0
    ∧ (k = 0 → Idle .pfpscmdConfigure s ∧ Idle .pfpscmdInvalidate s ∧ Idle (.pfpartWrite x) s ∧ Idle (.pfqrangeWrite x) s ∧ Idle (.pfringWrite x) s
        ∧ Idle (.pfsaveWrite x) s ∧ Idle (.pfs2rootWrite x) s ∧ Idle (.pfheadsWrite x) s ∧ Idle (.pfpcapWrite x) s ∧ Idle (.pfperfWrite x) s
        ∧ Idle (.pfgovWrite x) s ∧ Idle (.pfgov2Write x) s ∧ Idle (.pfwdogWrite x) s
        ∧ exec .pferrRead s = .next { s with pfErrRead := 0 })
    ∧ (k ≠ 0 →
        let set : PubSet := f.pubs.get {} s.pfPsSel
        let len := s.pfPsLen.toNat
        let b0 := s.pfPsB0.toNat
        let b1 := s.pfPsB1.toNat
        let place := canonical s.pfPsVbase = true ∧ s.pfPsVbase.toNat % 65536 = 0 ∧ len ≠ 0 ∧ len % 65536 = 0 ∧ b0 % 65536 = 0 ∧ b1 % 65536 = 0
          ∧ b0 + len ≤ 384 * 2 ^ 30 ∧ b1 + len ≤ 384 * 2 ^ 30 ∧ (b0 + len ≤ b1 ∨ b1 + len ≤ b0)
        -- publish sets; the records cached for the VF go
        let changes (i : Instr) (y : PubSet) : Prop :=
          ∃ t, exec i s = .next t ∧ t = { s with vfs := t.vfs, cores := t.cores } ∧ VfIs s t k { f with pubs := f.pubs.set s.pfPsSel y }
            ∧ ∀ c, t.core c = { s.core c with recs := (t.core c).recs }
              ∧ ∀ r, r ∈ (t.core c).recs ↔ r ∈ (s.core c).recs ∧ (s.launch (r.1 / 256)).vf ≠ k
        (place → (set.valid = false ∨ set.inflight = 0) →
          changes .pfpscmdConfigure
            { valid := true, vbase := s.pfPsVbase, len := len, pbase0 := b0, pbase1 := b1, inflight := set.inflight })
        ∧ (¬(place ∧ (set.valid = false ∨ set.inflight = 0)) → rejects .pfpscmdConfigure 1)
        ∧ (set.inflight = 0 → changes .pfpscmdInvalidate { set with valid := false })
        ∧ (set.inflight ≠ 0 → rejects .pfpscmdInvalidate 2)
        -- clusters: no cluster of another VF or disabled, and no change while a context runs
        ∧ (let m : W32 := x.truncate 32
           let bad := (∃ p ∈ s.vfs, p.1 ≠ k ∧ p.2.part &&& m ≠ 0) ∨ (∃ c, c < 32 ∧ m.getLsbD c = true ∧ (s.cluster c).disabled = true)
             ∨ (m ≠ f.part ∧ (s.running k).isSome = true)
           (bad → rejects (.pfpartWrite x) 3)
           ∧ (¬bad → ∃ t : State, exec (.pfpartWrite x) s = .next t ∧ t = { s with vfs := t.vfs, cores := t.cores, clusters := t.clusters }
                ∧ VfIs s t k { f with part := m }
                ∧ ∀ c, c < 32 → (f.part.getLsbD c = true → m.getLsbD c = false → (t.cluster c).on = false)
                    ∧ (¬(f.part.getLsbD c = true ∧ m.getLsbD c = false) → t.cluster c = s.cluster c)))
        -- queues, slots, save budget, heads
        ∧ (let a := field 15 0
           let n := field 32 16
           let bad := 65536 < a + n ∨ ∃ p ∈ s.vfs, p.1 ≠ k ∧ n ≠ 0 ∧ p.2.qCount ≠ 0 ∧ ¬(a + n ≤ p.2.qFirst ∨ p.2.qFirst + p.2.qCount ≤ a)
           (bad → rejects (.pfqrangeWrite x) 4) ∧ (¬bad → sets (.pfqrangeWrite x) { f with qFirst := a, qCount := n }))
        ∧ (8192 < field 13 0 → rejects (.pfringWrite x) 5) ∧ (field 13 0 ≤ 8192 → sets (.pfringWrite x) { f with quota := field 13 0 })
        ∧ (let b := field 13 0
           let g := field 20 16
           let sl := field 63 32
           let sum := b + ((s.vfs.filter fun p => p.1 != k).map fun p => p.2.saveB).sum
           let ok := sum ≤ 16000 ∧ g ≤ 20 ∧ 10 ≤ sl ∧ sl ≤ 100000
           (¬ok → rejects (.pfsaveWrite x) 6) ∧ (ok → sets (.pfsaveWrite x) { f with saveB := b, saveG := g, slice := sl }))
        ∧ (s.contextsOf k ≠ [] → Idle (.pfs2rootWrite x) s) ∧ (s.contextsOf k = [] → sets (.pfs2rootWrite x) { f with s2root := x })
        ∧ (let m : BitVec 16 := x.truncate 16
           let taken := ∃ p ∈ s.vfs, p.1 ≠ k ∧ p.2.heads &&& m ≠ 0
           (taken → rejects (.pfheadsWrite x) 7) ∧ (¬taken → sets (.pfheadsWrite x) { f with heads := m }))
        -- power, performance, the governor, the watchdog
        ∧ (let p := field 11 0
           (p < 500 ∨ 2000 < p → rejects (.pfpcapWrite x) 8) ∧ (500 ≤ p → p ≤ 2000 → exec (.pfpcapWrite x) s = .next { s with pfPcap := p }))
        ∧ (let lo := field 3 0
           let hi := field 7 4
           let d := field 11 8
           let ok := lo ≤ d ∧ d ≤ hi ∧ (f.saveB = 0 ∨ 5 ≤ lo)
           (¬ok → rejects (.pfperfWrite x) 8) ∧ (ok → sets (.pfperfWrite x) { f with perfMin := lo, perfMax := hi, perfDef := d }))
        ∧ ((∃ i, i < 16 ∧ field (4 * i + 3) (4 * i) = 0) → rejects (.pfgovWrite x) 9)
        ∧ ((∀ i, i < 16 → field (4 * i + 3) (4 * i) ≠ 0) → exec (.pfgovWrite x) s = .next { s with pfGov := x })
        ∧ (let ok := 1 ≤ field 4 0 ∧ field 4 0 ≤ 24 ∧ 1 ≤ field 15 8
           (¬ok → rejects (.pfgov2Write x) 9)
           ∧ (ok → exec (.pfgov2Write x) s = .next { s with pfGov2Down := field 4 0, pfGov2Idle := field 15 8 }))
        ∧ sets (.pfwdogWrite x) { f with wdog := x.truncate 32 }
        ∧ exec .pferrRead s = .next { s with pfErrRead := s.pfErr, pfErr := 0 })
    -- performance counters
    ∧ (∀ v, let y := s.vf v
        -- a counter of an event that no turn stands for takes a free value before the selection changes
        let unseen (k : Nat) : Prop := y.pmEn = true ∧ y.pmEv.get 0 k ∈ [0x02, 0x03, 0x07, 0x0B]
        let unseenCl (k : Nat) : Prop := y.pmEn = true ∧ y.pmCev.get 0 k = 0x20
        let quiet := x.getLsbD 0 = true ∨ y.pmEn = false
        (quiet → x.getLsbD 1 = false → VfGives (.pmctlWrite v x) s v { y with pmEn := x.getLsbD 0 })
        ∧ (quiet → x.getLsbD 1 = true → ∃ t : State, exec (.pmctlWrite v x) s = .next t ∧ t = { s with vfs := t.vfs, cores := t.cores, clusters := t.clusters }
            ∧ VfIs s t v { y with pmEn := x.getLsbD 0 }
            ∧ (∀ c, t.core c = if y.part.getLsbD (c / 24) then { s.core c with pmc := [] } else s.core c)
            ∧ ∀ c, t.cluster c = if y.part.getLsbD c then { s.cluster c with ccs := [] } else s.cluster c)
        ∧ (x.getLsbD 0 = false → ∃ t : State, exec (.pmctlWrite v x) s = .next t
            ∧ t = { s with freeCount := t.freeCount, vfs := t.vfs, cores := t.cores, clusters := t.clusters }
            ∧ VfIs s t v { y with pmEn := false }
            ∧ (∀ c, t.core c = { s.core c with pmc := (t.core c).pmc }) ∧ (∀ c, t.cluster c = { s.cluster c with ccs := (t.cluster c).ccs })
            ∧ (x.getLsbD 1 = true → ∀ c, y.part.getLsbD (c / 24) = true → (t.core c).pmc = [] ∧ (t.cluster (c / 24)).ccs = [])
            ∧ (x.getLsbD 1 = false → ∀ c k, (¬unseen k → (t.core c).pmc.get 0 k = (s.core c).pmc.get 0 k)
                ∧ (¬unseenCl k → (t.cluster c).ccs.get 0 k = (s.cluster c).ccs.get 0 k)))
        ∧ ∀ n, let code := field 7 0
            let listed := code ≤ 12 ∨ (32 ≤ code ∧ code ≤ 35)
            (¬listed ∨ 12 ≤ n → Idle (.pmevWrite v n x) s)
            ∧ (listed → n < 8 → ∃ t : State, exec (.pmevWrite v n x) s = .next t ∧ t = { s with freeCount := t.freeCount, vfs := t.vfs, cores := t.cores }
                ∧ VfIs s t v { y with pmEv := y.pmEv.set n code } ∧ (¬unseen n → t = { s with vfs := t.vfs })
                ∧ ∀ c, t.core c = { s.core c with pmc := (t.core c).pmc } ∧ ∀ k, k ≠ n → (t.core c).pmc.get 0 k = (s.core c).pmc.get 0 k)
            ∧ (listed → 8 ≤ n → n < 12 → ∃ t : State, exec (.pmevWrite v n x) s = .next t
                ∧ t = { s with freeCount := t.freeCount, vfs := t.vfs, clusters := t.clusters }
                ∧ VfIs s t v { y with pmCev := y.pmCev.set (n - 8) code } ∧ (¬unseenCl (n - 8) → t = { s with vfs := t.vfs })
                ∧ ∀ c, t.cluster c = { s.cluster c with ccs := (t.cluster c).ccs } ∧ ∀ k, k ≠ n - 8 → (t.cluster c).ccs.get 0 k = (s.cluster c).ccs.get 0 k))
    -- plain registers
    ∧ (∀ v, v ≠ 0 → let y := s.vf v
        let c := s.ctx v y.ctxsel
        VfGives (.registerWrite v 0x08 x) s v { y with qsel := field 15 0 }
        ∧ VfGives (.registerWrite v 0x48 x) s v { y with fqBase := x }
        ∧ VfGives (.registerWrite v 0x60 x) s v { y with fssel := field 7 0 }
        ∧ VfGives (.registerWrite v 0x80 x) s v { y with ctxsel := field 15 0 }
        ∧ CtxGives (.registerWrite v 0x88 x) s v y.ctxsel { c with saveBase := x }
        ∧ CtxGives (.registerWrite v 0x90 x) s v y.ctxsel { c with saveSize := x }
        ∧ VfGives (.registerWrite v 0xC0 x) s v { y with atrSel := field 5 0 }
        ∧ VfGives (.registerWrite v 0xC8 x) s v { y with atrAddr := x }
        -- QBASE, only while the queue is disabled
        ∧ (y.qsel < y.qCount →
            let q : Queue := y.queues.get {} y.qsel
            VfGives (.registerWrite v 0x10 x) s v { y with queues := y.queues.set y.qsel (if q.enable then q else { q with base := x }) })
        -- read-only registers and those with events of their own
        ∧ Idle (.registerWrite v 0x00 x) s ∧ Idle (.registerWrite v 0x20 x) s ∧ Idle (.registerWrite v 0x30 x) s ∧ Idle (.registerWrite v 0x68 x) s
        ∧ Idle (.registerWrite v 0xA0 x) s ∧ Idle (.registerWrite v 0xD8 x) s)
    ∧ exec (.registerWrite 0 0x2000 x) s = .next { s with pfVfSel := field 5 0 }
    ∧ (k ≠ 0 → exec (.registerWrite 0 0x2038 x) s = .next { s with pfPsSel := field 9 0 }
        ∧ exec (.registerWrite 0 0x2040 x) s = .next { s with pfPsVbase := x } ∧ exec (.registerWrite 0 0x2048 x) s = .next { s with pfPsLen := x }
        ∧ exec (.registerWrite 0 0x2050 x) s = .next { s with pfPsB0 := x } ∧ exec (.registerWrite 0 0x2058 x) s = .next { s with pfPsB1 := x })

/-- 00 R14-R16; 06 R159; 09 R246; 11 R292; 14 R390-R392, R425; 15 R401, R402, R408, R409, R412: bring-up and its recovery modes, the loss of
power, the cap controller and clocks, resets of functions, errors, and the repair of a core at run time.
Where the manual is open or is read by inference, it follows the model's choices of log 19 (DESIGN CHOICE), log 22 (DEDUCED), log 24
(DESIGN CHOICE), log 42 (DEDUCED), log 44 (DEDUCED), log 59 (DESIGN CHOICE). -/
def Obligations.PackageEvents : Prop :=
  (∀ (s : State) (r : BringUpReport),
    let all := BitVec.allOnes 26
    let good (c : Nat) : Nat := popcount 26 (r.goodCores.get all c).toNat
    (s.bringUpDone = true ∨ s.recovery.isSome = true → Idle (.powerUpBringUp r) s)
    ∧ (s.bringUpDone = false → s.recovery = none →
        let fails (n : Nat) : Prop := ∃ t, exec (.powerUpBringUp r) s = .next t ∧ t.recovery = some n ∧ t.bringUpDone = false ∧ t.power = true
        let links := r.linksOk = true ∧ r.failedLinks = []
        let stacksUp := r.stacksOk = true ∧ ∀ k, k < 8 → ∃ i, 32 * k ≤ i ∧ i < 32 * k + 32 ∧ i ∉ r.failedChannels
        (r.firmwareOk = false → fails 1)
        -- the mailbox holds the links that failed
        ∧ (r.firmwareOk = true → ¬links → fails 2 ∧ ∃ t, exec (.powerUpBringUp r) s = .next t ∧ t.mailbox = r.failedLinks)
        ∧ (r.firmwareOk = true → links → ¬stacksUp → fails 3)
        ∧ (r.firmwareOk = true → links → stacksUp →
            ((∀ c, c < 32 → good c < 22) → fails 4)
            ∧ ((∃ c, c < 32 ∧ 22 ≤ good c ∧ (s.cluster c).disabled = false) → r.strandsOk = false → fails 5)
            ∧ ((∃ c, c < 32 ∧ 22 ≤ good c ∧ (s.cluster c).disabled = false) → r.strandsOk = true →
                ∃ t : State, exec (.powerUpBringUp r) s = .next t ∧ t.bringUpDone = true ∧ t.recovery = none ∧ t.power = true ∧ t.linkUp = true
                  ∧ t.mem = s.mem ∧ t.teams = s.teams
                  -- every error counter is 0
                  ∧ (∀ k, t.dieErrors.get 0 k = 0 ∧ t.core k = { s.core k with sramErrors := 0, sramSecond := 0 })
                  -- every strand has made one empty revolution; what SPDM reports is measured
                  ∧ t.ringStep = s.ringStep + 1024 ∧ t.ringRev = s.ringRev + 1
                  ∧ t.measured = { coreMap := t.coreMap, channelMap := t.channelMap, stackMap := t.stackMap }
                  ∧ (∀ i, i < 256 → t.channelMap.get (BitVec.ofNat 9 i) i =
                      if ∃ j ∈ r.failedChannels, j % 256 = i then BitVec.ofNat 9 (i ^^^ 1) ||| 0x100 else BitVec.ofNat 9 i)
                  ∧ (∀ c, c < 32 →
                      (good c < 22 → (t.cluster c).disabled = true)
                      ∧ (22 ≤ good c → (t.cluster c).degraded = decide (good c < 24)
                          ∧ ∀ i, i < 24 → (t.coreMap.get {} (24 * c + i)).present = (decide (24 ≤ good c ∨ i < 22)
                              || (s.coreMap.get {} (24 * c + i)).present)))
                  ∧ (∀ i, i < 8 → t.stackMap.get false i = r.stackUnits.getLsbD i)))))
  ∧ (∀ s : State,
    let off : State := { State.reset with power := false, agenda := s.agenda, freeCount := s.freeCount, hostMem := s.hostMem, hostOut := s.hostOut,
                                           hostNoAtomic := s.hostNoAtomic }
    exec .powerRemoval s = .next off
    ∧ (∀ c : ℚ, (105 ≤ c → exec (.junctionShutdown c) s = .next off) ∧ (c < 105 → Idle (.junctionShutdown c) s)))
  -- a window's end: its record is latched; above the cap the performance levels do not rise, below 95 % they rise towards GRANT
  ∧ (∀ (s : State) (r : PowerReading),
    let cap : ℚ := match r.inlet with
      | some d => if 45 < d then max 500 (min (s.pfPcap : ℚ) (2000 - 50 * (d - 45))) else s.pfPcap
      | none => max 500 (min (s.pfPcap : ℚ) 1500)
    let here (k : Nat) : Prop := k < 768 ∧ (s.coreMap.get {} k : CoreMap).present = true
    let low (c : Nat) : Nat := match s.vfOfCluster c with | some v => (s.vf v).perfMin | none => 0
    ∃ t : State, exec (.capWindowEnd r) s = .next t ∧ t = { s with freeCount := t.freeCount, clusters := t.clusters, cores := t.cores }
      -- the record less the inverted byte lanes, whose number is free, of a cluster that is on
      ∧ (∀ c, c < 32 → (t.cluster c).crec = 0 ∧ ((s.cluster c).on = false → (t.cluster c).crecLast = (s.cluster c).crec))
      -- beyond the cap, or hot, some core slows down as long as one can
      ∧ (cap < r.watts ∨ r.hot = true → (∃ k, here k ∧ (s.cluster (k / 24)).on = true ∧ low (k / 24) < (s.core k).eff) →
          ∃ k, here k ∧ (t.core k).eff + 1 = (s.core k).eff)
      -- no core falls below MIN of its VF, and what is no core of the part does not change
      ∧ (cap < r.watts ∨ r.hot = true → ∀ k, k < 768 → (t.core k).eff ≠ (s.core k).eff → here k ∧ (s.cluster (k / 24)).on = true ∧ low (k / 24) ≤ (t.core k).eff)
      ∧ (∀ k, t.core k = { s.core k with eff := (t.core k).eff })
      ∧ (cap < r.watts ∨ r.hot = true → ∀ k, (t.core k).eff ≤ (s.core k).eff ∧ (s.core k).eff ≤ (t.core k).eff + 1)
      ∧ (¬(cap < r.watts ∨ r.hot = true) → 100 * r.watts < 95 * cap → ∀ k,
          (here k → (s.cluster (k / 24)).on = true → (s.core k).eff < (s.core k).grant → (t.core k).eff = (s.core k).eff + 1)
          ∧ (¬here k ∨ (s.cluster (k / 24)).on = false ∨ (s.core k).grant ≤ (s.core k).eff → (t.core k).eff = (s.core k).eff))
      ∧ (¬(cap < r.watts ∨ r.hot = true) → 95 * cap ≤ 100 * r.watts → ∀ k, (t.core k).eff = (s.core k).eff))
  ∧ (∀ (s : State) (k : Nat),
    let c := s.cluster k
    (∃ t : State, exec (.clockRatioChange k) s = .next t ∧ t = { s with cores := t.cores } ∧ CoreIs s t k { s.core k with clock := (s.core k).eff })
    ∧ (c.on = true ∨ c.disabled = true ∨ s.vfOfCluster k = none → Idle (.clusterPowerOn k) s)
    ∧ (c.on = false → c.disabled = false → (s.vfOfCluster k).isSome = true →
        ∃ t : State, exec (.clusterPowerOn k) s = .next t ∧ t = { s with clusters := t.clusters, cores := t.cores }
          ∧ ClusterIs s t k { c with on := true }
          ∧ ∀ i, t.core i = if i / 24 = k then { ({} : Core) with quarantined := (s.core i).quarantined, stops := (s.core i).stops } else s.core i))
  -- functions
  ∧ (∀ (s : State) (n : Nat),
    (s.bringUpDone = false ∨ s.recovery.isSome = true → Idle (.vfEnable n) s)
    ∧ (s.bringUpDone = true → s.recovery = none → ∃ t : State, exec (.vfEnable n) s = .next t ∧ t = { s with vfs := t.vfs }
        ∧ ∀ v, t.vf v = if 1 ≤ v ∧ v ≤ min n 63 then { s.vf v with enabled := true } else s.vf v)
    ∧ (s.linkUp = true → s.bringUpDone = true → exec .spdmRequest s = .next { s with spdm := s.spdm ++ [s.measured] })
    ∧ (s.linkUp = false ∨ s.bringUpDone = false → Idle .spdmRequest s))
  ∧ (∀ (s : State) (v : Nat), s.cur = {} →
    let gone (t : State) (v : Nat) : Prop :=
      (∀ u, (t.teams.get {} u : Team).live = true → (t.teams.get {} u : Team).vf ≠ v) ∧ (∀ p ∈ t.launches, p.2.vf ≠ v) ∧ (∀ p ∈ t.slots, p.2.vf ≠ v)
      ∧ (∀ g ∈ t.colls, g.vf ≠ v) ∧ (∀ c ∈ t.collWait, c.vf ≠ v)
    ∃ t : State, exec (.vfFunctionLevelReset v) s = .next t ∧ t.mem = s.mem ∧ t.hostMem = s.hostMem ∧ gone t v
      ∧ (∀ k, t.ctx v k = {}) ∧ (t.vf v).enabled = false
      ∧ (t.vf v).part = (s.vf v).part ∧ (t.vf v).qCount = (s.vf v).qCount ∧ (t.vf v).heads = (s.vf v).heads ∧ (t.vf v).wdog = (s.vf v).wdog)
  ∧ (∀ s : State, s.cur = {} → ∃ t : State, exec .pfFunctionLevelReset s = .next t ∧ t.mem = s.mem ∧ t.hostMem = s.hostMem
      ∧ (∀ v, (t.vf v).part = 0 ∧ (t.vf v).qCount = 0 ∧ (t.vf v).heads = 0) ∧ ∀ c, c < 32 → (t.cluster c).on = false)
  -- errors
  ∧ (∀ (s : State) (loc : W64), s.cur = {} →
    (∀ v k, (s.ctx v k).state ≠ 0 → exec (.uncorrectableError (.context v k) loc) s = .next (s.stopContext v k 0x20 loc))
    ∧ (∀ v k, (s.ctx v k).state = 0 → Idle (.uncorrectableError (.context v k) loc) s ∧ Idle (.uncorrectableError (.save v k) loc) s)
    ∧ (∀ v k, (s.ctx v k).state ≠ 0 → ∃ t, exec (.uncorrectableError (.save v k) loc) s = .next t ∧ (t.ctx v k).state = 3 ∧ (t.ctx v k).phase = .none)
    -- a slot whose tag cannot be read stops no context
    ∧ (∀ n, n < 8192 → (s.slots.get {} n : RingSlot).st = 0 → Idle (.uncorrectableError (.ringSlotNoTag n) loc) s)
    ∧ (∀ n, n < 8192 → (s.slots.get {} n : RingSlot).st ≠ 0 → ∃ t : State, exec (.uncorrectableError (.ringSlotNoTag n) loc) s = .next t
        ∧ t = { s with slots := t.slots, vfs := t.vfs, cores := t.cores } ∧ (t.slots.get {} n : RingSlot) = {}
        ∧ ∀ v k, (t.ctx v k).state = (s.ctx v k).state)
    ∧ (∀ n, (∀ i, 0 < i → i ≤ 3 → exec (.correctedError i n 1 false) s =
          .next { s with dieErrors := s.dieErrors.set (4 * n + i) (BitVec.ofNat 32 (min ((s.dieErrors.get 0 (4 * n + i)).toNat + 1) (2 ^ 32 - 1))) })
        -- 64 errors of a core's SRAM within one second begin its repair
        ∧ (∀ m within, let c := s.core n
            let sum := (if within then c.sramSecond else 0) + m
            let c' : Core := { c with sramErrors := min (c.sramErrors + m) (2 ^ 32 - 1), sramSecond := sum }
            (sum < 64 → ∃ t : State, exec (.correctedError 0 n m within) s = .next t ∧ t = { s with cores := t.cores } ∧ CoreIs s t n c')
            ∧ (64 ≤ sum → ∃ t : State, exec (.correctedError 0 n m within) s = .next t ∧ t = { s with cores := t.cores, vfs := t.vfs }
                ∧ CoreIs s t n { c' with quarantined := true } ∧ (s.residents n = [] → t.vfs = s.vfs)
                ∧ ∀ u x, s.residents n = [(u, x)] → ∀ k, s.running x.vf = some k → (s.ctx x.vf k).phase = .none → (t.ctx x.vf k).phase = .grace))))
  -- after a repair the teams of the VF's running context that have not started stay where they were to start, or go, with their span, to
  -- the lowest cluster that holds it; where none does the context is stopped
  ∧ (∀ s : State, s.settleRepair none = s ∧ ∀ v, (s.running v = none → s.settleRepair (some v) = s)
      ∧ ∀ j, s.running v = some j → (∀ p ∈ s.launches, s.launch p.1 = p.2) →
        (PlacesLeft s v j → ∃ t : State, s.settleRepair (some v) = t ∧ t = { s with launches := t.launches } ∧ TeamsPlaced s t v j)
        ∧ (¬PlacesLeft s v j → ∃ loc, s.settleRepair (some v) = ({ s with freeCount := s.freeCount + 1 }).stopContext v j 0x20 loc))
  -- a repair: the teams of the core leave first; then the lowest spare takes the number, or the extensions go
  ∧ ∀ (s : State) (k : Nat) (bad : BitVec 3),
    let c := s.cluster (k / 24)
    let m : CoreMap := s.coreMap.get {} k
    let repaired (t : State) : Prop := exec (.runTimeRepair k bad) s = .next (t.settleRepair (s.vfOfCluster (k / 24)))
    (m.present = false → Idle (.runTimeRepair k bad) s)
    ∧ (m.present = true → s.residents k = [] →
        (∀ p, p ∈ c.spares → (∀ q ∈ c.spares, p ≤ q) → ∃ t : State, repaired t
            ∧ t = { s with coreMap := t.coreMap, cores := t.cores, clusters := t.clusters, epoch := s.epoch + 1 }
            ∧ (t.coreMap.get {} k).phys = p ∧ (t.coreMap.get {} k).present = true
            -- the extensions of the core that serves it now
            ∧ (∀ i, i < 3 → (t.coreMap.get {} k).feat0.getLsbD (i + 1) = !(s.badCoprocessors.get 0 (26 * (k / 24) + p)).getLsbD i)
            ∧ (∀ i, i = 0 ∨ (4 ≤ i ∧ i < 7) → (t.coreMap.get {} k).feat0.getLsbD i = m.feat0.getLsbD i)
            ∧ (∀ j, j ≠ k → (t.coreMap.get {} j : CoreMap) = s.coreMap.get {} j)
            ∧ CoreIs s t k { ({} : Core) with stops := (s.core k).stops } ∧ ClusterIs s t (k / 24) { c with spares := c.spares.filter (· ≠ p) })
        ∧ (c.spares = [] → bad ≠ 0 → ∃ t : State, repaired t
            ∧ t = { s with coreMap := t.coreMap, cores := t.cores, epoch := s.epoch + 1, badCoprocessors := t.badCoprocessors }
            ∧ (∀ j, j ≠ k → (t.coreMap.get {} j : CoreMap) = s.coreMap.get {} j)
            ∧ (t.coreMap.get {} k : CoreMap) = { m with featLoss := true, feat0 := m.feat0 &&& ~~~((bad.zeroExtend 16 : BitVec 16) <<< 1) }
            ∧ (∀ j, t.badCoprocessors.get 0 j = if j = 26 * (k / 24) + m.phys then s.badCoprocessors.get 0 j ||| bad else s.badCoprocessors.get 0 j)
            ∧ CoreIs s t k { ({} : Core) with stops := (s.core k).stops })
        -- 22 cores are left: positions 22 and 23 go, one of their cores takes the failed number and the other is the spare
        ∧ (c.spares = [] → bad = 0 → c.degraded = false →
            let a := 24 * (k / 24) + 22
            let b := 24 * (k / 24) + 23
            let old (j : Nat) : CoreMap := s.coreMap.get {} j
            ((s.residents a ≠ [] ∨ s.residents b ≠ []) → ∃ t, exec (.runTimeRepair k bad) s = .next t ∧ t.coreMap = s.coreMap ∧ t.epoch = s.epoch
                ∧ ∀ j, j = k ∨ j = a ∨ j = b → (t.core j).quarantined = true)
            ∧ (s.residents a = [] → s.residents b = [] → ∃ t : State, repaired t
                ∧ t = { s with coreMap := t.coreMap, cores := t.cores, clusters := t.clusters, epoch := s.epoch + 1 }
                ∧ (∀ j, (t.coreMap.get {} j : CoreMap) = if j = a ∨ j = b then {} else if j = k then old a else old j)
                ∧ (∀ j, t.core j = if j = k ∨ j = a ∨ j = b then { ({} : Core) with stops := (s.core j).stops } else s.core j)
                ∧ ClusterIs s t (k / 24) { c with degraded := true, spares := [if k % 24 = 23 then (old a).phys else (old b).phys] }))
        ∧ (c.spares = [] → bad = 0 → c.degraded = true → (∀ i ∈ coresOf (k / 24), s.residents i = []) →
            ∃ t : State, repaired t ∧ t = { s with coreMap := t.coreMap, cores := t.cores, clusters := t.clusters, vfs := t.vfs, epoch := s.epoch + 1 }
              ∧ (t.cluster (k / 24)).disabled = true ∧ (∀ v, s.vfOfCluster (k / 24) = some v →
                  VfIs s t v { s.vf v with part := (s.vf v).part &&& ~~~(1#32 <<< (k / 24)) })
              ∧ ∀ i ∈ coresOf (k / 24), (t.coreMap.get {} i).present = false))
    ∧ (m.present = true → s.residents k ≠ [] → ∃ t, exec (.runTimeRepair k bad) s = .next t ∧ (t.core k).quarantined = true
        ∧ t.coreMap = s.coreMap ∧ t.epoch = s.epoch)


/-! ### Encoding -/

/-- 02 R39, R41-R48, R53-R58 and the encoding tables: decoding the words of a well-formed instruction gives it back, on its page and,
for an instruction of the scalar integer set with registers below s32, in the line sequencer too; and words that decode
to an instruction are its words, so that no two words mean one instruction. An instruction of an extension decodes where its feature
bit is 1, and is EXT_EMU elsewhere.
Where the manual is open or is read by inference, it follows the model's choices of log 31 (DEDUCED). -/
def Obligations.DecodeAndEncodeAgree : Prop :=
  let word (i : Instr) (k : Nat) : W32 := (encode i).getD k 0
  let feature (i : Instr) : Option Nat :=
    match i with
    | .mmv _ => some 0
    | .trace _ | .hitacc _ | .hitign _ => some 1
    | .emitv _ | .emitp _ | .emitend _ | .vbld _ | .vbary _ | .vinterp _ | .cover _ => some 2
    | .tsamp _ | .tgath _ | .tload _ | .tquery _ => some 3
    | .xcoll o => if o.w.f = 1 then some 5 else none
    | .patom _ => some 6
    | _ => none
  (∀ i : Instr, i.wf = true → i.isEvent = false →
    (encode i).length = bits (word i 0) 1 0
    ∧ (∀ feat, decode i.page feat (word i 0) (word i 1) (word i 2) =
        if (match feature i with | some k => bit feat k | none => true) then .instr i else .extEmu)
    ∧ (parseBase (word i 0) (word i 1) (word i 2) = some i → (∃ w, i.s32? = some w ∧ w.regsBelow 32 = true) →
        ∀ feat, decode .sequencer feat (word i 0) (word i 1) (word i 2) = .instr i))
  ∧ (∀ p feat w0 w1 w2 i, decode p feat w0 w1 w2 = .instr i →
      i.wf = true ∧ i.isEvent = false ∧ (i.page = p ∨ p = .sequencer ∧ parseBase w0 w1 w2 = some i)
      ∧ encode i = [w0, w1, w2].take (bits w0 1 0))
  ∧ ∀ p feat w0 w1 w2,
      (w0 = 0 → decode p feat w0 w1 w2 = .zeroWord)
      ∧ (w0 ≠ 0 → bits w0 1 0 = 0 → decode p feat w0 w1 w2 = .illegal)
      ∧ (p = .lane → 2 ≤ bits w0 1 0 → 0xE6 ≤ bits w0 9 2 → bits w0 9 2 ≤ 0xEF → decode p feat w0 w1 w2 = .extEmu)
      ∧ (p = .scalar → 1 ≤ bits w0 1 0 → 0x58 ≤ bits w0 8 2 → bits w0 8 2 ≤ 0x5F → decode p feat w0 w1 w2 = .extEmu)

/-- 02 R41-R47 and the assembled programs of 02, 16, 17 and 18: words of the manual decode to the instructions they stand
for, and the two altered words of 02 to a running instruction and to none. -/
def Obligations.WordsOfTheManual : Prop :=
  let l (x : Ext) (f : BitVec 4) (d a b : BitVec 10) : LOp := { pn := false, ps := 0, f := f, la := 0, x := x, b := b, a := a, d := d }
  let s (f : BitVec 2) (d a b : BitVec 7) : S32 := { f := f, b := b, a := a, d := d }
  let lane (w0 w1 w2 : W32) (i : Instr) : Prop := decode .lane allFeatures w0 w1 w2 = .instr i
  let scal (w0 w1 w2 : W32) (i : Instr) : Prop := decode .scalar allFeatures w0 w1 w2 = .instr i
  let line (w0 w1 w2 : W32) (i : Instr) : Prop := decode .sequencer allFeatures w0 w1 w2 = .instr i
  lane 0x00408801 0 0 (.addL32 { g := false, f := 0, b := 2, a := 1, d := 4 })
  ∧ lane 0x80818A01 0 0 (.addL32 { g := true, f := 0, b := 4, a := 3, d := 5 })
  ∧ lane 0x80101002 0x90000000 0 (.add { l (.reg 0) 0 4 1 2 with ps := 4, pn := true })
  ∧ lane 0x80101002 0xB0000000 0 (.add { l (.reg 0) 0 4 1 2 with ps := 12, pn := true })
  ∧ decode .lane allFeatures 0x80101002 0xD8000000 0 = .illegal
  ∧ lane 0x00101003 0 0x40 (.add (l (.lit 0 0 0x40) 0 4 1 0))
  ∧ lane 0x00000216 0 0 (.exit (l (.reg 0) 0 0 0 0))
  ∧ lane 0x00000A03 0x84000200 0x30 (.bra { l (.lit 0 2 0x30) 0 2 0 0 with ps := 1, pn := true })
  ∧ lane 0x00200C6A 0x01000001 0 (.cmp (l (.reg 0) 4 3 2 4))
  ∧ lane 0x00000606 0 0 (.join (l (.reg 0) 0 1 0 0))
  ∧ lane 0x87E00271 0 0 (.movL32 { g := true, f := 0, b := 63, a := 0, d := 1 })
  ∧ lane 0xC0F03C7E 0x00001803 0 (.perm (l (.reg 24) 0 15 15 15))
  ∧ lane 0x51679E81 0 0 (.paddL32 { g := false, f := 10, b := 11, a := 15, d := 15 })
  ∧ lane 0x00501E26 0 0 (.vote (l (.reg 0) 0 7 5 0))
  ∧ lane 0x00003283 0x038C0200 0x200 (.lds { l (.lit 0 2 0x200) 14 12 0 0 with la := 3 })
  ∧ lane 0x00C0790E 0x00401E05 0 (.fma (l (.reg 30) 1 30 12 20))
  ∧ lane 0x8020028F 0x04400207 0x10 (.stb { l (.lit 0 2 0x10) 1 0 2 30 with ps := 1 })
  ∧ scal 0x00040A02 0x40 0 (.saddS64 { w := s 0 5 4 0, e1 := 0x40 })
  ∧ scal 0x03040A01 0 0 (.saddS32 (s 0 5 4 6))
  ∧ scal 0x000000D1 0 0 (.sexit (s 0 0 0 0))
  ∧ scal 0x000001E9 0 0 (.srdvWait (s 0 0 0 0))
  ∧ scal 0x03851343 0x00094E90 0x00003E10 (.mmul { w := s 0 9 5 7, e1 := 0x00094E90, e2 := 0x00003E10 })
  ∧ scal 0x00000156 0x00000020 0 (.maccClr { w := s 0 0 0 0, e1 := 0x20 })
  ∧ scal 0x0A941183 0x00000002 0x00000009 (.sboard { w := s 0 8 20 21, e1 := 2, e2 := 9 })
  ∧ scal 0x0F17118F 0xD0005000 0x00000009 (.swrew { w := s 0 8 23 30, e1 := 0xD0005000, e2 := 9 })
  ∧ scal 0x028401A3 0x40000000 0x00001FFF (.xcopy { w := s 0 0 4 5, e1 := 0x40000000, e2 := 0x1FFF })
  ∧ line 0x400100C2 0x00000010 0 (.sbr { w := s 1 0 1 0, e1 := 0x10 })
  ∧ line 0x80040B01 0 0 (.lgenWait (s 2 5 4 0))
  ∧ line 0x00000905 0 0 (.llatch (s 0 4 0 0))
  ∧ line 0x03800112 0x000F0000 0 (.lwarp { w := s 0 0 0 7, e1 := 0x000F0000 })
  ∧ line 0x00000119 0 0 (.lput (s 0 0 0 0))
  ∧ line 0x00000125 0 0 (.lend (s 0 0 0 0))

/-! ### Steps -/

/-- 00 R14, R16, 01 R27, R33, 02 R39, R49-R51, R57, 05 R130, R132, 06 R151, R161, R165, 10 R268, 13 R362-R364, R371, 15 R400, R409: a step takes
the oldest turn of the agenda (DESIGN CHOICE, log 1). The stream in its turn decodes the words at its program counter and runs exec of the
instruction; then its state returns to its team and the instruction counts, with its charge. Around it stand the windows that
close, the accesses that failed or were served, the traps that are due or held, the acquires that come first, the instructions passed over
after a trap, and in the line sequencer the time that instructions take, up to the deadline. Before bring-up has ended and in recovery
mode nothing runs but bring-up and the loss of power. What the outside does to link group, ranks and host memory is done at once.
Where the manual is open or is read by inference, it follows the model's choices of log 32 (DEDUCED), log 14 (DESIGN CHOICE), log 42
(DEDUCED), log 45 (DEDUCED) and log 57 (DESIGN CHOICE). -/
def Obligations.StepRunsTheTurn : Prop :=
  (∀ s : State, s.agenda = [] → step s = .next s)
  ∧ (∀ (s : State) (ts : List Turn), s.power = false →
      (∀ t, s.agenda = t :: ts → (∀ o, t ≠ .event (.powerUpBringUp o)) → step s = .next { s with agenda := ts })
      ∧ ∀ o, s.agenda = .event (.powerUpBringUp o) :: ts →
          ∃ u, exec (.powerUpBringUp o) { s with agenda := ts } = .next u ∧ step s = .next u.endTurn)
  ∧ (∀ (s : State) (ts : List Turn), s.power = true → (s.recovery ≠ none ∨ s.bringUpDone = false) →
      (∀ t, s.agenda = t :: ts → (∀ o, t ≠ .event (.powerUpBringUp o)) → t ≠ .event .powerRemoval →
        (∀ c, t ≠ .event (.junctionShutdown c)) → step s = .next { s with agenda := ts })
      ∧ ∀ e, s.agenda = .event e :: ts → runsInRecovery (.event e) = true → ∃ u, exec e { s with agenda := ts } = .next u ∧ step s = .next u.endTurn)
  ∧ (∀ (s : State) (ts : List Turn), s.power = true → s.bringUpDone = true → s.recovery = none →
      (∀ e, s.agenda = .event e :: ts →
        (e.isEvent = true → ∃ u, exec e { s with agenda := ts } = .next u ∧ step s = .next u.endTurn)
        ∧ (e.isEvent = false → step s = .next { s with agenda := ts }))
      -- what comes from outside: the link group of up to 64 devices, ranks on them, their commands, and pages of host memory
      ∧ ∀ o, s.agenda = .outside o :: ts →
          let s0 : State := { s with agenda := ts }
          let t := s0.outside o
          step s = .next t
          ∧ (∀ n, o = .linkGroup n → t = if 1 ≤ n ∧ n ≤ 64 then { s0 with linkGroup := n } else s0)
          ∧ (∀ v k d, o = .mapRank v k d → t = { s0 with vfs := t.vfs }
              ∧ VfIs s t v { s.vf v with rankDevice := (t.vf v).rankDevice }
              ∧ ∀ j, (t.vf v).rankDevice.get 0 j = if j = k then (if d < s.linkGroup then d else 0) else (s.vf v).rankDevice.get 0 j)
          ∧ (∀ page b, o = .hostPage page b → t = { s0 with hostOut := t.hostOut }
              ∧ ∀ q, q ∈ t.hostOut ↔ (q = page ∧ b = false) ∨ (q ≠ page ∧ q ∈ s.hostOut))
          ∧ (∀ page b, o = .hostAtomics page b → t = { s0 with hostNoAtomic := t.hostNoAtomic }
              ∧ ∀ q, q ∈ t.hostNoAtomic ↔ (q = page ∧ b = false) ∨ (q ≠ page ∧ q ∈ s.hostNoAtomic))
          ∧ ∀ v e1 e2 part, o = .peerJoin v e1 e2 part →
              let key : W32 := part.truncate 32
              let rank := bits part 39 32
              ((s.vf v).rankDevice.get 0 rank = 0 → t = s0)
              ∧ ((s.vf v).rankDevice.get 0 rank ≠ 0 → rank < bits part 47 40 → 1 < bits part 47 40 →
                  (∀ g ∈ s.colls, g.over = false ∧ ¬(g.vf = v ∧ g.key = key)) →
                  ∃ c : CollOp, c.peer = true ∧ c.done = true ∧ c.e1 = e1 ∧ c.e2 = e2 ∧ c.part = part ∧ c.vf = v
                    ∧ t = { s0 with engineIssued := s.engineIssued + 1, colls := s.colls ++ [{ vf := v, key := key, ranks := [(rank, c)] }] }))
  ∧ (∀ (s : State) (ts : List Turn) (uid gid : Nat) (b : Bool), s.power = true → s.bringUpDone = true → s.recovery = none → s.agenda = .lane uid gid b :: ts →
      ((∀ t g, s.teams.lookup uid = some t → t.groups.lookup gid = some g → laneReady t g b = false) →
        step s = .next { s with agenda := ts })
      ∧ ∀ t g, s.teams.lookup uid = some t → t.groups.lookup gid = some g → laneReady t g b = true →
        let s0 : State := { s with
          agenda := ts, cur := { stream := .lane, uid := uid, gid := gid, slotB := b }, team := t, grp := g, frag := g.slotOf b }
        let s1 := s0.closeDue
        let size (w0 : W32) : Nat := 4 * max 1 (bits w0 1 0)
        s.teams.get {} uid = t → t.groups.get {} gid = g →
        (bit g.tstat 6 = true → bit g.tstat 4 ≠ b → step s = .next s0.holdTrap.unfocus)
        ∧ ((bit g.tstat 6 = false ∨ bit g.tstat 4 = b) →
          (∀ e, failedOf s0.frag.park = some e →
            (∀ w r, s0.frag.parkedWindow = some (w, r) → ∀ x l, firstFault (s0.failLate w e).frag.windows = some (x, l) →
              step s = .next ((s0.failLate w e).reportLate x l).endTurn)
            ∧ (s0.frag.parkedWindow = none →
              (answersOpen s0.frag.windows = true → step s = .next s0.wait.endTurn)
              ∧ (answersOpen s0.frag.windows = false →
                step s = .next (({ s0 with frag := { s0.frag with park := [] } }).raise e (s0.peekLen t.vf t.ctx s0.frag.pc)).endTurn)))
          ∧ (failedOf s0.frag.park = none → ∀ w r, s0.frag.parkedWindow = some (w, r) → step s = .next (s0.replay w r).endTurn)
          ∧ (failedOf s0.frag.park = none → s0.frag.parkedWindow = none →
            (∀ w l, dueFault s0.frag = some (w, l) → step s = .next (s0.reportLate w l).endTurn)
            ∧ (dueFault s0.frag = none →
              ((∃ w ∈ s1.frag.windows, w.left = 0) → step s = .next s1.wait.endTurn)
              ∧ ((∀ w ∈ s1.frag.windows, w.left ≠ 0) →
                (∀ e n, s1.fetch t.vf t.ctx s1.frag.pc = .error (e, n) → step s = .next (s1.stopLane n [] e).endTurn)
                ∧ ∀ s2 w0 w1 w2, s1.fetch t.vf t.ctx s1.frag.pc = .ok (s2, w0, w1, w2) →
                  (s2.frag.skip ≠ 0 → s2.frag.hold = false → step s = .next (s2.passOver (size w0)).endTurn)
                  ∧ ((s2.frag.skip = 0 ∨ s2.frag.hold = true) →
                    (decode .lane (s2.feat0 t.core) w0 w1 w2 = .zeroWord →
                      step s = .next (s2.raise { cause := 0x02, tval := 0 } (size w0)).endTurn)
                    ∧ (decode .lane (s2.feat0 t.core) w0 w1 w2 = .extEmu →
                      step s = .next (s2.raise { cause := 0x03, tval := w0.zeroExtend 64 } (size w0)).endTurn)
                    ∧ (decode .lane (s2.feat0 t.core) w0 w1 w2 = .illegal →
                      step s = .next (s2.raise { cause := 0x01, tval := w0.zeroExtend 64 } (size w0)).endTurn)
                    ∧ ∀ i, decode .lane (s2.feat0 t.core) w0 w1 w2 = .instr i →
                      let s3 := if closesWindows i then s2.closeAll else s2
                      -- one that closes the windows waits for their answers, and it and a release come after their faults
                      let held := (closesWindows i = true ∧ ∃ w ∈ s2.frag.windows, w.waiting ≠ 0 ∨ w.fault.isSome = true)
                        ∨ (releases i = true ∧ ∃ w ∈ s2.frag.windows, w.fault.isSome = true)
                      (held → step s = .next (match firstFault s2.frag.windows with
                          | some (w, l) => (s2.reportLate w l).endTurn
                          | none => s2.wait.endTurn))
                      ∧ (¬held →
                        ∃ u, exec i s3 = .next u
                          ∧ step s = .next (if u.cur.waited then u
                              else u.chargeLane s3.team.core s3.team.vf (chargeOf i s3.frag.lanes)).endTurn)))))))
  ∧ (∀ (s : State) (ts : List Turn) (uid : Nat), s.power = true → s.bringUpDone = true → s.recovery = none → s.agenda = .scalar uid :: ts →
      ((∀ t, s.teams.lookup uid = some t → scalarReady t = false) → step s = .next { s with agenda := ts })
      ∧ ∀ t, s.teams.lookup uid = some t → s.teams.get {} uid = t → scalarReady t = true →
        let s0 : State := { s with agenda := ts, cur := { stream := .scalar, uid := uid }, team := t }
        let size (w0 : W32) : Nat := 4 * max 1 (bits w0 1 0)
        (∀ e, failedOf t.spark = some e →
          step s = .next (({ s0 with team := { t with spark := [] } }).raiseScalar e (s0.peekLen t.vf t.ctx t.spc)).endTurn)
        ∧ (failedOf t.spark = none →
          (∀ e pc rest, t.sphase = 0 → t.engineFault = (e, pc) :: rest →
            let s1 : State := { s0 with team := { t with engineFault := rest } }
            step s = .next (match pc with | some pc => s1.enterScalarTrap e pc 12 | none => s1.enterScalarTrap e t.spc 0).endTurn)
          ∧ (t.sphase ≠ 0 ∨ t.engineFault = [] →
            -- an instruction that has begun completes with the words that it began with
            let words : Except (Stop × Nat) (State × W32 × W32 × W32) := match (if t.sphase = 0 then none else t.begun) with
              | some ws => .ok (s0, ws)
              | none => s0.fetch t.vf t.ctx t.spc
            (∀ e n, words = .error (e, n) → step s = .next (s0.stopScalar n e).endTurn)
            ∧ ∀ s1 w0 w1 w2, words = .ok (s1, w0, w1, w2) →
              (decode .scalar (s1.feat0 t.core) w0 w1 w2 = .zeroWord →
                step s = .next (s1.raiseScalar { cause := 0x02, tval := 0 } (size w0)).endTurn)
              ∧ (decode .scalar (s1.feat0 t.core) w0 w1 w2 = .extEmu →
                step s = .next (s1.raiseScalar { cause := 0x03, tval := w0.zeroExtend 64 } (size w0)).endTurn)
              ∧ (decode .scalar (s1.feat0 t.core) w0 w1 w2 = .illegal →
                step s = .next (s1.raiseScalar { cause := 0x01, tval := w0.zeroExtend 64 } (size w0)).endTurn)
              ∧ ∀ i, decode .scalar (s1.feat0 t.core) w0 w1 w2 = .instr i →
                ∃ u, exec i s1 = .next u
                  ∧ step s = .next (if u.cur.waited then (if u.team.sphase = 0 then u else { u with team := { u.team with begun := some (w0, w1, w2) } })
                      else u.onCore t.core fun c => { c with scalarIssued := (c.scalarIssued + 1) % 2 ^ 64 }).endTurn)))
  ∧ ∀ (s : State) (ts : List Turn) (hid : Nat), s.power = true → s.bringUpDone = true → s.recovery = none → s.agenda = .sequencer hid :: ts →
      ((∀ h, s.heads.lookup hid = some h → h.en = false ∨ h.running = false) → step s = .next { s with agenda := ts })
      ∧ ∀ h, s.heads.lookup hid = some h → s.heads.get {} hid = h → h.en = true → h.running = true →
        let s0 : State := { s with agenda := ts, cur := { stream := .sequencer, hid := hid }, head := h }
        let w (k : Nat) : W32 := BitVec.ofNat 32 (readBytes (if h.bank then h.prog1 else h.prog0) (4 * (h.pc + k)) 4)
        let ends (cause : Nat) : State := { s0 with head := ({ h with fault := some cause } : Head).programFault cause }
        (4096 < h.pc + bits (w 0) 1 0 → step s = .next (ends 0x0B).endTurn)
        ∧ (h.pc + bits (w 0) 1 0 ≤ 4096 →
          (decode .sequencer allFeatures (w 0) (w 1) (w 2) = .zeroWord → step s = .next (ends 0x02).endTurn)
          ∧ (decode .sequencer allFeatures (w 0) (w 1) (w 2) = .illegal → step s = .next (ends 0x01).endTurn)
          ∧ ∀ i, decode .sequencer allFeatures (w 0) (w 1) (w 2) = .instr i →
            -- an instruction that cannot complete by the deadline is held until it
            (h.onTime (h.next - 1) (h.now + lineCost i s0) = false → step s = .next ({ s0 with head := { h with held := true } }).endTurn)
            ∧ (h.onTime (h.next - 1) (h.now + lineCost i s0) = true →
              ∃ u, exec i s0 = .next u
                ∧ (u.cur.waited = true → step s = .next u.lineHold.endTurn)
                ∧ (u.cur.waited = false →
                  let v := u.lineTick (h.waited || isLfetch i) (lineCost i s0)
                  step s = .next (match v.head.fault with
                    | some c => { v with head := v.head.programFault c }
                    | none => v).endTurn)))

/-- 01 R18, R29, R36, 06 R155: no exec refuses: from every state every instruction and every event answers with a next state, and so
does every step: no trap, no stopped launch and no stopped context stops the machine. What the effects are, the other statements say. -/
def Obligations.EveryStepAnswers : Prop := (∀ (i : Instr) (s : State), ∃ t, exec i s = .next t) ∧ ∀ s : State, SafeStep s

/-- 01 R21, R27: between steps no stream is in focus, so that each register stands in one place: a step from a settled state
ends in one (DESIGN CHOICE, log 1).
Where the manual is open or is read by inference, it follows the model's choices of log 53 (DESIGN CHOICE). -/
def Obligations.SettledKept : Prop := ∀ s t : State, s.Settled → step s = .next t → t.Settled

/-- 07 R168, R169: device memory and host memory keep their canonical form, so that equal memories are equal data
(DESIGN CHOICE, log 2). -/
def Obligations.MemoryStaysCanonical : Prop := ∀ s t : State, s.MemoryOk → step s = .next t → t.MemoryOk

/-- 00 R14, R16, 09 R247, 11 R294, R295, R302, R314, R318, 13 R359, 14 R391, R393, 15 R401-R409: with power applied, before bring-up, the
registers hold the reset values of the manual, and no function, context, queue, head or team exists. The machine is settled and its
memories are in canonical form. Where the manual gives no reset value, the values are the model's: memory and registers at 0 (DESIGN CHOICE, log 2 and log 3), EFF, GRANT and
the clock at 15 (DESIGN CHOICE, log 3), an empty agenda (DESIGN CHOICE, log 1), an idle governor (DESIGN CHOICE, log 23).
Where the manual is open or is read by inference, it follows the model's choices of log 2 (DESIGN CHOICE). -/
def Obligations.ResetState : Prop :=
  let r := State.reset
  r.Settled ∧ r.MemoryOk ∧ r.agenda = [] ∧ r.power = true ∧ r.recovery = none ∧ r.bringUpDone = false ∧ r.linkUp = false
  ∧ r.mailbox = [] ∧ r.spdm = [] ∧ r.teams = [] ∧ r.launches = [] ∧ r.msix = [] ∧ r.hdrCache = [] ∧ r.collWait = [] ∧ r.colls = []
  ∧ (∀ a, readByte r.mem a = 0 ∧ readByte r.hostMem a = 0)
  ∧ r.ringRev = 0 ∧ r.ringStep = 0 ∧ (∀ k, r.slots.get {} k = {})
  ∧ r.epoch = 0 ∧ r.pfErr = 0 ∧ r.pfPcap = 2000 ∧ r.pfGov2Down = 2 ∧ r.pfGov2Idle = 16
  ∧ ((List.range 16).map fun k => bits r.pfGov (4 * k + 3) (4 * k)) = [1, 1, 1, 1, 2, 2, 2, 2, 4, 4, 4, 4, 8, 8, 8, 8]
  ∧ (∀ k, (r.coreMap.get {} k).present = false ∧ r.dieErrors.get 0 k = 0 ∧ r.redQueues.get [] k = [])
  ∧ (∀ v, (r.vf v).enabled = false ∧ (r.vf v).part = 0 ∧ (r.vf v).qFirst = 0 ∧ (r.vf v).qCount = 0 ∧ (r.vf v).heads = 0
      ∧ (r.vf v).wdog = 1000000 ∧ (r.vf v).perfMin = 5 ∧ (r.vf v).perfMax = 15 ∧ (r.vf v).perfDef = 15
      ∧ (r.vf v).ringHeld = 0 ∧ (r.vf v).faults = []
      ∧ (∀ q, ((r.vf v).queues.get {} q).enable = false ∧ ((r.vf v).queues.get {} q).head = 0 ∧ ((r.vf v).queues.get {} q).tail = 0
          ∧ ((r.vf v).queues.get {} q).stat = 0 ∧ ((r.vf v).queues.get {} q).fence = 0)
      ∧ (∀ k, (r.ctx v k).state = 0 ∧ (r.ctx v k).error = 0 ∧ (r.ctx v k).phase = .none ∧ (r.ctx v k).scopes = [])
      ∧ ∀ k, ((r.vf v).pubs.get {} k).valid = false)
  ∧ (∀ k, (r.core k).cyc = 0 ∧ (r.core k).eff = 15 ∧ (r.core k).grant = 15 ∧ (r.core k).clock = 15 ∧ (r.core k).laneIssued = 0
      ∧ (r.core k).ksteps = 0 ∧ (r.core k).scalarIssued = 0 ∧ (r.core k).sramErrors = 0 ∧ (∀ p, (r.core k).pmc.get 0 p = 0)
      ∧ (r.core k).acmOwner = none ∧ (∀ a, (r.core k).acm.get 0 a = 0) ∧ (r.core k).copies = [] ∧ (r.core k).stops = []
      ∧ (r.core k).quarantined = false)
  ∧ (∀ k, (r.cluster k).crec = 0 ∧ (r.cluster k).crecLast = 0 ∧ (r.cluster k).pairTh = 1536 ∧ (r.cluster k).requests = []
      ∧ (r.cluster k).running = [] ∧ (r.cluster k).ballast = [] ∧ (r.cluster k).idle = 16 ∧ (∀ p, (r.cluster k).ccs.get 0 p = 0)
      ∧ (r.cluster k).ballastSteps = 0 ∧ (r.cluster k).ungranted = 0 ∧ (r.cluster k).effCuts = 0 ∧ (r.cluster k).on = false)
  ∧ ∀ k, (r.headOf k).en = false ∧ (r.headOf k).running = false ∧ (r.headOf k).f0 = none ∧ (r.headOf k).f1 = none
      ∧ (r.headOf k).mode = none ∧ (∀ d, (r.headOf k).s.get 0 d = 0)
end

