-- ==== Sys2Proof/Laws/Store.lean ====
section
/-! SUPPORT. Laws of the sparse tables and of memory: reading after writing, and the canonical form. -/

namespace Sys2Proof
variable {α : Type} (d : α)

@[simp] theorem Store.get_set_self (m : Store α) (i : Nat) (x : α) : Store.get d (Store.set m i x) i = x := by
  induction m with
  | nil => simp [Store.set, Store.get]
  | cons p m ih =>
    obtain ⟨k, v⟩ := p
    by_cases h : k = i
    · simp [Store.set, Store.get, h]
    · by_cases h2 : i < k
      · simp [Store.set, Store.get, h, h2]
      · simp [Store.set, Store.get, h, h2, ih]

theorem Store.get_set_ne (m : Store α) {i j : Nat} (x : α) (hj : j ≠ i) : Store.get d (Store.set m i x) j = Store.get d m j := by
  induction m with
  | nil => have := hj.symm; simp [Store.set, Store.get, this]
  | cons p m ih =>
    obtain ⟨k, v⟩ := p
    have hij : i ≠ j := hj.symm
    by_cases h : k = i
    · subst h; simp [Store.set, Store.get, hij]
    · by_cases h2 : i < k
      · simp only [Store.set, h, h2, if_false, if_true, Store.get, hij]
        by_cases h3 : j < i
        · have h4 : k ≠ j := by omega
          have h5 : j < k := by omega
          simp [h3, h4, h5]
        · simp [h3]
      · simp [Store.set, Store.get, h, h2, ih]

theorem Store.get_set (m : Store α) (i j : Nat) (x : α) :
    Store.get d (Store.set m i x) j = if j = i then x else Store.get d m j := by
  by_cases h : j = i
  · subst h; simp
  · simp [h, Store.get_set_ne d m x h]

section
variable [DecidableEq α]

theorem Store.canonFrom_mono {lo lo' : Nat} (h : lo' ≤ lo) {m : Store α} (c : Store.canonFrom d lo m = true) :
    Store.canonFrom d lo' m = true := by
  cases m with
  | nil => rfl
  | cons p m =>
    obtain ⟨k, v⟩ := p
    simp only [Store.canonFrom, Bool.and_eq_true, decide_eq_true_eq] at c ⊢
    exact ⟨⟨le_trans h c.1.1, c.1.2⟩, c.2⟩

theorem Store.get_below {lo : Nat} {m : Store α} (c : Store.canonFrom d lo m = true) {i : Nat} (h : i < lo) :
    Store.get d m i = d := by
  cases m with
  | nil => rfl
  | cons p m =>
    obtain ⟨k, v⟩ := p
    simp only [Store.canonFrom, Bool.and_eq_true, decide_eq_true_eq] at c
    have h1 : k ≠ i := by omega
    have h2 : i < k := by omega
    simp [Store.get, h1, h2]

theorem Store.canonFrom_set {m : Store α} {lo : Nat} (c : Store.canonFrom d lo m = true) {i : Nat} (hi : lo ≤ i) {x : α}
    (hx : x ≠ d) : Store.canonFrom d lo (Store.set m i x) = true := by
  induction m generalizing lo with
  | nil => simp [Store.set, Store.canonFrom, hi, hx]
  | cons p m ih =>
    obtain ⟨k, v⟩ := p
    simp only [Store.canonFrom, Bool.and_eq_true, decide_eq_true_eq] at c
    by_cases h : k = i
    · subst h; simp [Store.set, Store.canonFrom, hi, hx, c.2]
    · by_cases h2 : i < k
      · simp [Store.set, Store.canonFrom, h, h2, hi, hx, c.1.2, c.2, Nat.succ_le_of_lt h2]
      · have h3 : k + 1 ≤ i := by omega
        simp [Store.set, Store.canonFrom, h, h2, c.1.1, c.1.2, ih c.2 h3]

theorem Store.filter_above {lo : Nat} {m : Store α} (c : Store.canonFrom d lo m = true) {i : Nat} (h : i < lo) :
    (m.filter fun p => decide (i < p.1)) = m := by
  induction m generalizing lo with
  | nil => rfl
  | cons p m ih =>
    obtain ⟨k, v⟩ := p
    simp only [Store.canonFrom, Bool.and_eq_true, decide_eq_true_eq] at c
    have h1 : i < k := by omega
    simp [h1, ih c.2 (by omega)]

theorem Store.canonFrom_erase {m : Store α} {lo : Nat} (c : Store.canonFrom d lo m = true) (i : Nat) :
    Store.canonFrom d lo (Store.erase m i) = true := by
  induction m generalizing lo with
  | nil => rfl
  | cons p m ih =>
    obtain ⟨k, v⟩ := p
    simp only [Store.canonFrom, Bool.and_eq_true, decide_eq_true_eq] at c
    by_cases h : k = i
    · subst h
      simp only [Store.erase, if_true, Store.filter_above d c.2 (Nat.lt_succ_self _)]
      exact Store.canonFrom_mono d (by omega) c.2
    · by_cases h2 : i < k
      · simp [Store.erase, Store.canonFrom, h, h2, c.1.1, c.1.2, c.2]
      · simp [Store.erase, Store.canonFrom, h, h2, c.1.1, c.1.2, ih c.2]
end

theorem Store.get_filter_above (m : Store α) (i j : Nat) :
    Store.get d (m.filter fun p => decide (i < p.1)) j = if j ≤ i then d else Store.get d m j := by
  induction m with
  | nil => simp [Store.get]
  | cons p m ih =>
    obtain ⟨k, v⟩ := p
    by_cases h : i < k
    · simp only [List.filter_cons, h, decide_true, if_true, Store.get, ih]
      by_cases h1 : j ≤ i
      · have h2 : k ≠ j := by omega
        have h3 : j < k := by omega
        simp [h1, h2, h3]
      · simp [h1]
    · simp only [List.filter_cons, h, decide_false, Bool.false_eq_true, if_false, ih, Store.get]
      by_cases h1 : j ≤ i
      · simp [h1]
      · have h2 : k ≠ j := by omega
        have h3 : ¬j < k := by omega
        simp [h1, h2, h3]

theorem Store.get_erase (m : Store α) (i j : Nat) :
    Store.get d (Store.erase m i) j = if j = i then d else Store.get d m j := by
  induction m with
  | nil => simp [Store.erase, Store.get]
  | cons p m ih =>
    obtain ⟨k, v⟩ := p
    by_cases h : k = i
    · subst h
      simp only [Store.erase, if_true, Store.get, Store.get_filter_above]
      by_cases h1 : j = k
      · subst h1; simp
      · have h2 : k ≠ j := fun e => h1 e.symm
        by_cases h3 : j < k
        · simp [h1, h2, h3, Nat.le_of_lt h3]
        · have h4 : ¬j ≤ k := by omega
          simp [h1, h2, h3, h4]
    · by_cases h2 : i < k
      · simp only [Store.erase, h, h2, if_false, if_true]
        by_cases h1 : j = i
        · subst h1; simp [Store.get, h, h2]
        · simp [h1]
      · simp only [Store.erase, h, h2, if_false, Store.get, ih]
        by_cases h1 : k = j
        · subst h1; simp [h]
        · by_cases h3 : j < k
          · have h4 : j ≠ i := by omega
            simp [h1, h3, h4]
          · simp [h1, h3]

section
variable [DecidableEq α]

/-- put keeps the canonical form. -/
theorem Store.canon_put {m : Store α} (c : Store.canon d m = true) (i : Nat) (x : α) :
    Store.canon d (Store.put d m i x) = true := by
  unfold Store.put
  split
  · exact Store.canonFrom_erase d c i
  · next h => exact Store.canonFrom_set d c (Nat.zero_le _) h

/-- Reading after put. -/
theorem Store.get_put (m : Store α) (i j : Nat) (x : α) :
    Store.get d (Store.put d m i x) j = if j = i then x else Store.get d m j := by
  unfold Store.put
  split
  · next h => subst h; exact Store.get_erase _ m i j
  · exact Store.get_set d m i j x
end

end Sys2Proof

namespace Sys2Proof.Machine
open Sys2Proof

/-- Writing a byte keeps the canonical form. -/
theorem writeByte_wf {m : Store Byte} (c : Memory.wf m = true) (a : Nat) (x : Byte) : Memory.wf (writeByte m a x) = true :=
  Store.canon_put 0 c a x

/-- Reading a byte after writing one. -/
theorem readByte_writeByte (m : Store Byte) (a b : Nat) (x : Byte) :
    readByte (writeByte m a x) b = if b = a then x else readByte m b :=
  Store.get_put 0 m a b x

/-- Writing bytes keeps the canonical form. -/
theorem writeBytes_wf {m : Store Byte} (c : Memory.wf m = true) (a n x : Nat) : Memory.wf (writeBytes m a n x) = true := by
  induction n generalizing m a x with
  | zero => exact c
  | succ n ih => exact ih (writeByte_wf c _ _) _ _

/-- Writing bytes changes the bytes written alone. -/
theorem readByte_writeBytes (m : Store Byte) (a n x b : Nat) :
    readByte (writeBytes m a n x) b =
      if a ≤ b ∧ b < a + n then BitVec.ofNat 8 (x / 256 ^ (b - a)) else readByte m b := by
  induction n generalizing m a x with
  | zero => rw [if_neg (by omega)]; rfl
  | succ n ih =>
    rw [writeBytes, ih]
    by_cases h : a + 1 ≤ b ∧ b < a + 1 + n
    · have h1 : a ≤ b ∧ b < a + (n + 1) := by omega
      have h2 : b - a = (b - (a + 1)) + 1 := by omega
      rw [if_pos h, if_pos h1, h2, Nat.pow_succ, Nat.mul_comm, Nat.div_div_eq_div_mul]
    · rw [if_neg h, readByte_writeByte]
      by_cases h2 : b = a
      · subst h2; simp
      · have h3 : ¬(a ≤ b ∧ b < a + (n + 1)) := by omega
        rw [if_neg h2, if_neg h3]

end Sys2Proof.Machine
end

