-- ==== Sys2Proof/Laws/State.lean ====
section
/-! SUPPORT. Laws of the named updates of State: the fields each leaves alone, and what a read of the one it changes gives.
Each is true by unfolding the update once, so that no later proof does. -/

namespace Sys2Proof.Machine
open Sys2Proof

variable (s : State)

section
variable (k : Nat) (f : Vf → Vf)
@[simp] theorem State.onVf_agenda : (s.onVf k f).agenda = s.agenda := rfl
@[simp] theorem State.onVf_freeCount : (s.onVf k f).freeCount = s.freeCount := rfl
@[simp] theorem State.onVf_cur : (s.onVf k f).cur = s.cur := rfl
@[simp] theorem State.onVf_team : (s.onVf k f).team = s.team := rfl
@[simp] theorem State.onVf_grp : (s.onVf k f).grp = s.grp := rfl
@[simp] theorem State.onVf_frag : (s.onVf k f).frag = s.frag := rfl
@[simp] theorem State.onVf_head : (s.onVf k f).head = s.head := rfl
@[simp] theorem State.onVf_power : (s.onVf k f).power = s.power := rfl
@[simp] theorem State.onVf_recovery : (s.onVf k f).recovery = s.recovery := rfl
@[simp] theorem State.onVf_mailbox : (s.onVf k f).mailbox = s.mailbox := rfl
@[simp] theorem State.onVf_bringUpDone : (s.onVf k f).bringUpDone = s.bringUpDone := rfl
@[simp] theorem State.onVf_linkUp : (s.onVf k f).linkUp = s.linkUp := rfl
@[simp] theorem State.onVf_mem : (s.onVf k f).mem = s.mem := rfl
@[simp] theorem State.onVf_hostMem : (s.onVf k f).hostMem = s.hostMem := rfl
@[simp] theorem State.onVf_hostOut : (s.onVf k f).hostOut = s.hostOut := rfl
@[simp] theorem State.onVf_hostNoAtomic : (s.onVf k f).hostNoAtomic = s.hostNoAtomic := rfl
@[simp] theorem State.onVf_teams : (s.onVf k f).teams = s.teams := rfl
@[simp] theorem State.onVf_nextTeam : (s.onVf k f).nextTeam = s.nextTeam := rfl
@[simp] theorem State.onVf_launches : (s.onVf k f).launches = s.launches := rfl
@[simp] theorem State.onVf_nextLaunch : (s.onVf k f).nextLaunch = s.nextLaunch := rfl
@[simp] theorem State.onVf_hdrCache : (s.onVf k f).hdrCache = s.hdrCache := rfl
@[simp] theorem State.onVf_msix : (s.onVf k f).msix = s.msix := rfl
@[simp] theorem State.onVf_cores : (s.onVf k f).cores = s.cores := rfl
@[simp] theorem State.onVf_clusters : (s.onVf k f).clusters = s.clusters := rfl
@[simp] theorem State.onVf_heads : (s.onVf k f).heads = s.heads := rfl
@[simp] theorem State.onVf_coreMap : (s.onVf k f).coreMap = s.coreMap := rfl
@[simp] theorem State.onVf_channelMap : (s.onVf k f).channelMap = s.channelMap := rfl
@[simp] theorem State.onVf_stackMap : (s.onVf k f).stackMap = s.stackMap := rfl
@[simp] theorem State.onVf_measured : (s.onVf k f).measured = s.measured := rfl
@[simp] theorem State.onVf_spdm : (s.onVf k f).spdm = s.spdm := rfl
@[simp] theorem State.onVf_badCoprocessors : (s.onVf k f).badCoprocessors = s.badCoprocessors := rfl
@[simp] theorem State.onVf_epoch : (s.onVf k f).epoch = s.epoch := rfl
@[simp] theorem State.onVf_redQueues : (s.onVf k f).redQueues = s.redQueues := rfl
@[simp] theorem State.onVf_ringStep : (s.onVf k f).ringStep = s.ringStep := rfl
@[simp] theorem State.onVf_ringIssued : (s.onVf k f).ringIssued = s.ringIssued := rfl
@[simp] theorem State.onVf_ringRev : (s.onVf k f).ringRev = s.ringRev := rfl
@[simp] theorem State.onVf_slots : (s.onVf k f).slots = s.slots := rfl
@[simp] theorem State.onVf_ringLeft : (s.onVf k f).ringLeft = s.ringLeft := rfl
@[simp] theorem State.onVf_batchIssued : (s.onVf k f).batchIssued = s.batchIssued := rfl
@[simp] theorem State.onVf_engineIssued : (s.onVf k f).engineIssued = s.engineIssued := rfl
@[simp] theorem State.onVf_collWait : (s.onVf k f).collWait = s.collWait := rfl
@[simp] theorem State.onVf_colls : (s.onVf k f).colls = s.colls := rfl
@[simp] theorem State.onVf_linkGroup : (s.onVf k f).linkGroup = s.linkGroup := rfl
@[simp] theorem State.onVf_dieErrors : (s.onVf k f).dieErrors = s.dieErrors := rfl
@[simp] theorem State.onVf_pfVfSel : (s.onVf k f).pfVfSel = s.pfVfSel := rfl
@[simp] theorem State.onVf_pfErr : (s.onVf k f).pfErr = s.pfErr := rfl
@[simp] theorem State.onVf_pfErrRead : (s.onVf k f).pfErrRead = s.pfErrRead := rfl
@[simp] theorem State.onVf_pfPsSel : (s.onVf k f).pfPsSel = s.pfPsSel := rfl
@[simp] theorem State.onVf_pfPsVbase : (s.onVf k f).pfPsVbase = s.pfPsVbase := rfl
@[simp] theorem State.onVf_pfPsLen : (s.onVf k f).pfPsLen = s.pfPsLen := rfl
@[simp] theorem State.onVf_pfPsB0 : (s.onVf k f).pfPsB0 = s.pfPsB0 := rfl
@[simp] theorem State.onVf_pfPsB1 : (s.onVf k f).pfPsB1 = s.pfPsB1 := rfl
@[simp] theorem State.onVf_pfRepSel : (s.onVf k f).pfRepSel = s.pfRepSel := rfl
@[simp] theorem State.onVf_pfPcap : (s.onVf k f).pfPcap = s.pfPcap := rfl
@[simp] theorem State.onVf_pfGov : (s.onVf k f).pfGov = s.pfGov := rfl
@[simp] theorem State.onVf_pfGov2Down : (s.onVf k f).pfGov2Down = s.pfGov2Down := rfl
@[simp] theorem State.onVf_pfGov2Idle : (s.onVf k f).pfGov2Idle = s.pfGov2Idle := rfl
end

section
variable (v k : Nat) (f : Context → Context)
@[simp] theorem State.onCtx_agenda : (s.onCtx v k f).agenda = s.agenda := rfl
@[simp] theorem State.onCtx_freeCount : (s.onCtx v k f).freeCount = s.freeCount := rfl
@[simp] theorem State.onCtx_cur : (s.onCtx v k f).cur = s.cur := rfl
@[simp] theorem State.onCtx_team : (s.onCtx v k f).team = s.team := rfl
@[simp] theorem State.onCtx_grp : (s.onCtx v k f).grp = s.grp := rfl
@[simp] theorem State.onCtx_frag : (s.onCtx v k f).frag = s.frag := rfl
@[simp] theorem State.onCtx_head : (s.onCtx v k f).head = s.head := rfl
@[simp] theorem State.onCtx_power : (s.onCtx v k f).power = s.power := rfl
@[simp] theorem State.onCtx_recovery : (s.onCtx v k f).recovery = s.recovery := rfl
@[simp] theorem State.onCtx_mailbox : (s.onCtx v k f).mailbox = s.mailbox := rfl
@[simp] theorem State.onCtx_bringUpDone : (s.onCtx v k f).bringUpDone = s.bringUpDone := rfl
@[simp] theorem State.onCtx_linkUp : (s.onCtx v k f).linkUp = s.linkUp := rfl
@[simp] theorem State.onCtx_mem : (s.onCtx v k f).mem = s.mem := rfl
@[simp] theorem State.onCtx_hostMem : (s.onCtx v k f).hostMem = s.hostMem := rfl
@[simp] theorem State.onCtx_hostOut : (s.onCtx v k f).hostOut = s.hostOut := rfl
@[simp] theorem State.onCtx_hostNoAtomic : (s.onCtx v k f).hostNoAtomic = s.hostNoAtomic := rfl
@[simp] theorem State.onCtx_teams : (s.onCtx v k f).teams = s.teams := rfl
@[simp] theorem State.onCtx_nextTeam : (s.onCtx v k f).nextTeam = s.nextTeam := rfl
@[simp] theorem State.onCtx_launches : (s.onCtx v k f).launches = s.launches := rfl
@[simp] theorem State.onCtx_nextLaunch : (s.onCtx v k f).nextLaunch = s.nextLaunch := rfl
@[simp] theorem State.onCtx_hdrCache : (s.onCtx v k f).hdrCache = s.hdrCache := rfl
@[simp] theorem State.onCtx_msix : (s.onCtx v k f).msix = s.msix := rfl
@[simp] theorem State.onCtx_cores : (s.onCtx v k f).cores = s.cores := rfl
@[simp] theorem State.onCtx_clusters : (s.onCtx v k f).clusters = s.clusters := rfl
@[simp] theorem State.onCtx_heads : (s.onCtx v k f).heads = s.heads := rfl
@[simp] theorem State.onCtx_coreMap : (s.onCtx v k f).coreMap = s.coreMap := rfl
@[simp] theorem State.onCtx_channelMap : (s.onCtx v k f).channelMap = s.channelMap := rfl
@[simp] theorem State.onCtx_stackMap : (s.onCtx v k f).stackMap = s.stackMap := rfl
@[simp] theorem State.onCtx_measured : (s.onCtx v k f).measured = s.measured := rfl
@[simp] theorem State.onCtx_spdm : (s.onCtx v k f).spdm = s.spdm := rfl
@[simp] theorem State.onCtx_badCoprocessors : (s.onCtx v k f).badCoprocessors = s.badCoprocessors := rfl
@[simp] theorem State.onCtx_epoch : (s.onCtx v k f).epoch = s.epoch := rfl
@[simp] theorem State.onCtx_redQueues : (s.onCtx v k f).redQueues = s.redQueues := rfl
@[simp] theorem State.onCtx_ringStep : (s.onCtx v k f).ringStep = s.ringStep := rfl
@[simp] theorem State.onCtx_ringIssued : (s.onCtx v k f).ringIssued = s.ringIssued := rfl
@[simp] theorem State.onCtx_ringRev : (s.onCtx v k f).ringRev = s.ringRev := rfl
@[simp] theorem State.onCtx_slots : (s.onCtx v k f).slots = s.slots := rfl
@[simp] theorem State.onCtx_ringLeft : (s.onCtx v k f).ringLeft = s.ringLeft := rfl
@[simp] theorem State.onCtx_batchIssued : (s.onCtx v k f).batchIssued = s.batchIssued := rfl
@[simp] theorem State.onCtx_engineIssued : (s.onCtx v k f).engineIssued = s.engineIssued := rfl
@[simp] theorem State.onCtx_collWait : (s.onCtx v k f).collWait = s.collWait := rfl
@[simp] theorem State.onCtx_colls : (s.onCtx v k f).colls = s.colls := rfl
@[simp] theorem State.onCtx_linkGroup : (s.onCtx v k f).linkGroup = s.linkGroup := rfl
@[simp] theorem State.onCtx_dieErrors : (s.onCtx v k f).dieErrors = s.dieErrors := rfl
@[simp] theorem State.onCtx_pfVfSel : (s.onCtx v k f).pfVfSel = s.pfVfSel := rfl
@[simp] theorem State.onCtx_pfErr : (s.onCtx v k f).pfErr = s.pfErr := rfl
@[simp] theorem State.onCtx_pfErrRead : (s.onCtx v k f).pfErrRead = s.pfErrRead := rfl
@[simp] theorem State.onCtx_pfPsSel : (s.onCtx v k f).pfPsSel = s.pfPsSel := rfl
@[simp] theorem State.onCtx_pfPsVbase : (s.onCtx v k f).pfPsVbase = s.pfPsVbase := rfl
@[simp] theorem State.onCtx_pfPsLen : (s.onCtx v k f).pfPsLen = s.pfPsLen := rfl
@[simp] theorem State.onCtx_pfPsB0 : (s.onCtx v k f).pfPsB0 = s.pfPsB0 := rfl
@[simp] theorem State.onCtx_pfPsB1 : (s.onCtx v k f).pfPsB1 = s.pfPsB1 := rfl
@[simp] theorem State.onCtx_pfRepSel : (s.onCtx v k f).pfRepSel = s.pfRepSel := rfl
@[simp] theorem State.onCtx_pfPcap : (s.onCtx v k f).pfPcap = s.pfPcap := rfl
@[simp] theorem State.onCtx_pfGov : (s.onCtx v k f).pfGov = s.pfGov := rfl
@[simp] theorem State.onCtx_pfGov2Down : (s.onCtx v k f).pfGov2Down = s.pfGov2Down := rfl
@[simp] theorem State.onCtx_pfGov2Idle : (s.onCtx v k f).pfGov2Idle = s.pfGov2Idle := rfl
end

section
variable (k : Nat) (f : Core → Core)
@[simp] theorem State.onCore_agenda : (s.onCore k f).agenda = s.agenda := rfl
@[simp] theorem State.onCore_freeCount : (s.onCore k f).freeCount = s.freeCount := rfl
@[simp] theorem State.onCore_cur : (s.onCore k f).cur = s.cur := rfl
@[simp] theorem State.onCore_team : (s.onCore k f).team = s.team := rfl
@[simp] theorem State.onCore_grp : (s.onCore k f).grp = s.grp := rfl
@[simp] theorem State.onCore_frag : (s.onCore k f).frag = s.frag := rfl
@[simp] theorem State.onCore_head : (s.onCore k f).head = s.head := rfl
@[simp] theorem State.onCore_power : (s.onCore k f).power = s.power := rfl
@[simp] theorem State.onCore_recovery : (s.onCore k f).recovery = s.recovery := rfl
@[simp] theorem State.onCore_mailbox : (s.onCore k f).mailbox = s.mailbox := rfl
@[simp] theorem State.onCore_bringUpDone : (s.onCore k f).bringUpDone = s.bringUpDone := rfl
@[simp] theorem State.onCore_linkUp : (s.onCore k f).linkUp = s.linkUp := rfl
@[simp] theorem State.onCore_mem : (s.onCore k f).mem = s.mem := rfl
@[simp] theorem State.onCore_hostMem : (s.onCore k f).hostMem = s.hostMem := rfl
@[simp] theorem State.onCore_hostOut : (s.onCore k f).hostOut = s.hostOut := rfl
@[simp] theorem State.onCore_hostNoAtomic : (s.onCore k f).hostNoAtomic = s.hostNoAtomic := rfl
@[simp] theorem State.onCore_teams : (s.onCore k f).teams = s.teams := rfl
@[simp] theorem State.onCore_nextTeam : (s.onCore k f).nextTeam = s.nextTeam := rfl
@[simp] theorem State.onCore_launches : (s.onCore k f).launches = s.launches := rfl
@[simp] theorem State.onCore_nextLaunch : (s.onCore k f).nextLaunch = s.nextLaunch := rfl
@[simp] theorem State.onCore_vfs : (s.onCore k f).vfs = s.vfs := rfl
@[simp] theorem State.onCore_hdrCache : (s.onCore k f).hdrCache = s.hdrCache := rfl
@[simp] theorem State.onCore_msix : (s.onCore k f).msix = s.msix := rfl
@[simp] theorem State.onCore_clusters : (s.onCore k f).clusters = s.clusters := rfl
@[simp] theorem State.onCore_heads : (s.onCore k f).heads = s.heads := rfl
@[simp] theorem State.onCore_coreMap : (s.onCore k f).coreMap = s.coreMap := rfl
@[simp] theorem State.onCore_channelMap : (s.onCore k f).channelMap = s.channelMap := rfl
@[simp] theorem State.onCore_stackMap : (s.onCore k f).stackMap = s.stackMap := rfl
@[simp] theorem State.onCore_measured : (s.onCore k f).measured = s.measured := rfl
@[simp] theorem State.onCore_spdm : (s.onCore k f).spdm = s.spdm := rfl
@[simp] theorem State.onCore_badCoprocessors : (s.onCore k f).badCoprocessors = s.badCoprocessors := rfl
@[simp] theorem State.onCore_epoch : (s.onCore k f).epoch = s.epoch := rfl
@[simp] theorem State.onCore_redQueues : (s.onCore k f).redQueues = s.redQueues := rfl
@[simp] theorem State.onCore_ringStep : (s.onCore k f).ringStep = s.ringStep := rfl
@[simp] theorem State.onCore_ringIssued : (s.onCore k f).ringIssued = s.ringIssued := rfl
@[simp] theorem State.onCore_ringRev : (s.onCore k f).ringRev = s.ringRev := rfl
@[simp] theorem State.onCore_slots : (s.onCore k f).slots = s.slots := rfl
@[simp] theorem State.onCore_ringLeft : (s.onCore k f).ringLeft = s.ringLeft := rfl
@[simp] theorem State.onCore_batchIssued : (s.onCore k f).batchIssued = s.batchIssued := rfl
@[simp] theorem State.onCore_engineIssued : (s.onCore k f).engineIssued = s.engineIssued := rfl
@[simp] theorem State.onCore_collWait : (s.onCore k f).collWait = s.collWait := rfl
@[simp] theorem State.onCore_colls : (s.onCore k f).colls = s.colls := rfl
@[simp] theorem State.onCore_linkGroup : (s.onCore k f).linkGroup = s.linkGroup := rfl
@[simp] theorem State.onCore_dieErrors : (s.onCore k f).dieErrors = s.dieErrors := rfl
@[simp] theorem State.onCore_pfVfSel : (s.onCore k f).pfVfSel = s.pfVfSel := rfl
@[simp] theorem State.onCore_pfErr : (s.onCore k f).pfErr = s.pfErr := rfl
@[simp] theorem State.onCore_pfErrRead : (s.onCore k f).pfErrRead = s.pfErrRead := rfl
@[simp] theorem State.onCore_pfPsSel : (s.onCore k f).pfPsSel = s.pfPsSel := rfl
@[simp] theorem State.onCore_pfPsVbase : (s.onCore k f).pfPsVbase = s.pfPsVbase := rfl
@[simp] theorem State.onCore_pfPsLen : (s.onCore k f).pfPsLen = s.pfPsLen := rfl
@[simp] theorem State.onCore_pfPsB0 : (s.onCore k f).pfPsB0 = s.pfPsB0 := rfl
@[simp] theorem State.onCore_pfPsB1 : (s.onCore k f).pfPsB1 = s.pfPsB1 := rfl
@[simp] theorem State.onCore_pfRepSel : (s.onCore k f).pfRepSel = s.pfRepSel := rfl
@[simp] theorem State.onCore_pfPcap : (s.onCore k f).pfPcap = s.pfPcap := rfl
@[simp] theorem State.onCore_pfGov : (s.onCore k f).pfGov = s.pfGov := rfl
@[simp] theorem State.onCore_pfGov2Down : (s.onCore k f).pfGov2Down = s.pfGov2Down := rfl
@[simp] theorem State.onCore_pfGov2Idle : (s.onCore k f).pfGov2Idle = s.pfGov2Idle := rfl
end

section
variable (k : Nat) (f : Cluster → Cluster)
@[simp] theorem State.onCluster_agenda : (s.onCluster k f).agenda = s.agenda := rfl
@[simp] theorem State.onCluster_freeCount : (s.onCluster k f).freeCount = s.freeCount := rfl
@[simp] theorem State.onCluster_cur : (s.onCluster k f).cur = s.cur := rfl
@[simp] theorem State.onCluster_team : (s.onCluster k f).team = s.team := rfl
@[simp] theorem State.onCluster_grp : (s.onCluster k f).grp = s.grp := rfl
@[simp] theorem State.onCluster_frag : (s.onCluster k f).frag = s.frag := rfl
@[simp] theorem State.onCluster_head : (s.onCluster k f).head = s.head := rfl
@[simp] theorem State.onCluster_power : (s.onCluster k f).power = s.power := rfl
@[simp] theorem State.onCluster_recovery : (s.onCluster k f).recovery = s.recovery := rfl
@[simp] theorem State.onCluster_mailbox : (s.onCluster k f).mailbox = s.mailbox := rfl
@[simp] theorem State.onCluster_bringUpDone : (s.onCluster k f).bringUpDone = s.bringUpDone := rfl
@[simp] theorem State.onCluster_linkUp : (s.onCluster k f).linkUp = s.linkUp := rfl
@[simp] theorem State.onCluster_mem : (s.onCluster k f).mem = s.mem := rfl
@[simp] theorem State.onCluster_hostMem : (s.onCluster k f).hostMem = s.hostMem := rfl
@[simp] theorem State.onCluster_hostOut : (s.onCluster k f).hostOut = s.hostOut := rfl
@[simp] theorem State.onCluster_hostNoAtomic : (s.onCluster k f).hostNoAtomic = s.hostNoAtomic := rfl
@[simp] theorem State.onCluster_teams : (s.onCluster k f).teams = s.teams := rfl
@[simp] theorem State.onCluster_nextTeam : (s.onCluster k f).nextTeam = s.nextTeam := rfl
@[simp] theorem State.onCluster_launches : (s.onCluster k f).launches = s.launches := rfl
@[simp] theorem State.onCluster_nextLaunch : (s.onCluster k f).nextLaunch = s.nextLaunch := rfl
@[simp] theorem State.onCluster_vfs : (s.onCluster k f).vfs = s.vfs := rfl
@[simp] theorem State.onCluster_hdrCache : (s.onCluster k f).hdrCache = s.hdrCache := rfl
@[simp] theorem State.onCluster_msix : (s.onCluster k f).msix = s.msix := rfl
@[simp] theorem State.onCluster_cores : (s.onCluster k f).cores = s.cores := rfl
@[simp] theorem State.onCluster_heads : (s.onCluster k f).heads = s.heads := rfl
@[simp] theorem State.onCluster_coreMap : (s.onCluster k f).coreMap = s.coreMap := rfl
@[simp] theorem State.onCluster_channelMap : (s.onCluster k f).channelMap = s.channelMap := rfl
@[simp] theorem State.onCluster_stackMap : (s.onCluster k f).stackMap = s.stackMap := rfl
@[simp] theorem State.onCluster_measured : (s.onCluster k f).measured = s.measured := rfl
@[simp] theorem State.onCluster_spdm : (s.onCluster k f).spdm = s.spdm := rfl
@[simp] theorem State.onCluster_badCoprocessors : (s.onCluster k f).badCoprocessors = s.badCoprocessors := rfl
@[simp] theorem State.onCluster_epoch : (s.onCluster k f).epoch = s.epoch := rfl
@[simp] theorem State.onCluster_redQueues : (s.onCluster k f).redQueues = s.redQueues := rfl
@[simp] theorem State.onCluster_ringStep : (s.onCluster k f).ringStep = s.ringStep := rfl
@[simp] theorem State.onCluster_ringIssued : (s.onCluster k f).ringIssued = s.ringIssued := rfl
@[simp] theorem State.onCluster_ringRev : (s.onCluster k f).ringRev = s.ringRev := rfl
@[simp] theorem State.onCluster_slots : (s.onCluster k f).slots = s.slots := rfl
@[simp] theorem State.onCluster_ringLeft : (s.onCluster k f).ringLeft = s.ringLeft := rfl
@[simp] theorem State.onCluster_batchIssued : (s.onCluster k f).batchIssued = s.batchIssued := rfl
@[simp] theorem State.onCluster_engineIssued : (s.onCluster k f).engineIssued = s.engineIssued := rfl
@[simp] theorem State.onCluster_collWait : (s.onCluster k f).collWait = s.collWait := rfl
@[simp] theorem State.onCluster_colls : (s.onCluster k f).colls = s.colls := rfl
@[simp] theorem State.onCluster_linkGroup : (s.onCluster k f).linkGroup = s.linkGroup := rfl
@[simp] theorem State.onCluster_dieErrors : (s.onCluster k f).dieErrors = s.dieErrors := rfl
@[simp] theorem State.onCluster_pfVfSel : (s.onCluster k f).pfVfSel = s.pfVfSel := rfl
@[simp] theorem State.onCluster_pfErr : (s.onCluster k f).pfErr = s.pfErr := rfl
@[simp] theorem State.onCluster_pfErrRead : (s.onCluster k f).pfErrRead = s.pfErrRead := rfl
@[simp] theorem State.onCluster_pfPsSel : (s.onCluster k f).pfPsSel = s.pfPsSel := rfl
@[simp] theorem State.onCluster_pfPsVbase : (s.onCluster k f).pfPsVbase = s.pfPsVbase := rfl
@[simp] theorem State.onCluster_pfPsLen : (s.onCluster k f).pfPsLen = s.pfPsLen := rfl
@[simp] theorem State.onCluster_pfPsB0 : (s.onCluster k f).pfPsB0 = s.pfPsB0 := rfl
@[simp] theorem State.onCluster_pfPsB1 : (s.onCluster k f).pfPsB1 = s.pfPsB1 := rfl
@[simp] theorem State.onCluster_pfRepSel : (s.onCluster k f).pfRepSel = s.pfRepSel := rfl
@[simp] theorem State.onCluster_pfPcap : (s.onCluster k f).pfPcap = s.pfPcap := rfl
@[simp] theorem State.onCluster_pfGov : (s.onCluster k f).pfGov = s.pfGov := rfl
@[simp] theorem State.onCluster_pfGov2Down : (s.onCluster k f).pfGov2Down = s.pfGov2Down := rfl
@[simp] theorem State.onCluster_pfGov2Idle : (s.onCluster k f).pfGov2Idle = s.pfGov2Idle := rfl
end

section
variable (k : Nat) (f : Launch → Launch)
@[simp] theorem State.onLaunch_agenda : (s.onLaunch k f).agenda = s.agenda := rfl
@[simp] theorem State.onLaunch_freeCount : (s.onLaunch k f).freeCount = s.freeCount := rfl
@[simp] theorem State.onLaunch_cur : (s.onLaunch k f).cur = s.cur := rfl
@[simp] theorem State.onLaunch_team : (s.onLaunch k f).team = s.team := rfl
@[simp] theorem State.onLaunch_grp : (s.onLaunch k f).grp = s.grp := rfl
@[simp] theorem State.onLaunch_frag : (s.onLaunch k f).frag = s.frag := rfl
@[simp] theorem State.onLaunch_head : (s.onLaunch k f).head = s.head := rfl
@[simp] theorem State.onLaunch_power : (s.onLaunch k f).power = s.power := rfl
@[simp] theorem State.onLaunch_recovery : (s.onLaunch k f).recovery = s.recovery := rfl
@[simp] theorem State.onLaunch_mailbox : (s.onLaunch k f).mailbox = s.mailbox := rfl
@[simp] theorem State.onLaunch_bringUpDone : (s.onLaunch k f).bringUpDone = s.bringUpDone := rfl
@[simp] theorem State.onLaunch_linkUp : (s.onLaunch k f).linkUp = s.linkUp := rfl
@[simp] theorem State.onLaunch_mem : (s.onLaunch k f).mem = s.mem := rfl
@[simp] theorem State.onLaunch_hostMem : (s.onLaunch k f).hostMem = s.hostMem := rfl
@[simp] theorem State.onLaunch_hostOut : (s.onLaunch k f).hostOut = s.hostOut := rfl
@[simp] theorem State.onLaunch_hostNoAtomic : (s.onLaunch k f).hostNoAtomic = s.hostNoAtomic := rfl
@[simp] theorem State.onLaunch_teams : (s.onLaunch k f).teams = s.teams := rfl
@[simp] theorem State.onLaunch_nextTeam : (s.onLaunch k f).nextTeam = s.nextTeam := rfl
@[simp] theorem State.onLaunch_nextLaunch : (s.onLaunch k f).nextLaunch = s.nextLaunch := rfl
@[simp] theorem State.onLaunch_vfs : (s.onLaunch k f).vfs = s.vfs := rfl
@[simp] theorem State.onLaunch_hdrCache : (s.onLaunch k f).hdrCache = s.hdrCache := rfl
@[simp] theorem State.onLaunch_msix : (s.onLaunch k f).msix = s.msix := rfl
@[simp] theorem State.onLaunch_cores : (s.onLaunch k f).cores = s.cores := rfl
@[simp] theorem State.onLaunch_clusters : (s.onLaunch k f).clusters = s.clusters := rfl
@[simp] theorem State.onLaunch_heads : (s.onLaunch k f).heads = s.heads := rfl
@[simp] theorem State.onLaunch_coreMap : (s.onLaunch k f).coreMap = s.coreMap := rfl
@[simp] theorem State.onLaunch_channelMap : (s.onLaunch k f).channelMap = s.channelMap := rfl
@[simp] theorem State.onLaunch_stackMap : (s.onLaunch k f).stackMap = s.stackMap := rfl
@[simp] theorem State.onLaunch_measured : (s.onLaunch k f).measured = s.measured := rfl
@[simp] theorem State.onLaunch_spdm : (s.onLaunch k f).spdm = s.spdm := rfl
@[simp] theorem State.onLaunch_badCoprocessors : (s.onLaunch k f).badCoprocessors = s.badCoprocessors := rfl
@[simp] theorem State.onLaunch_epoch : (s.onLaunch k f).epoch = s.epoch := rfl
@[simp] theorem State.onLaunch_redQueues : (s.onLaunch k f).redQueues = s.redQueues := rfl
@[simp] theorem State.onLaunch_ringStep : (s.onLaunch k f).ringStep = s.ringStep := rfl
@[simp] theorem State.onLaunch_ringIssued : (s.onLaunch k f).ringIssued = s.ringIssued := rfl
@[simp] theorem State.onLaunch_ringRev : (s.onLaunch k f).ringRev = s.ringRev := rfl
@[simp] theorem State.onLaunch_slots : (s.onLaunch k f).slots = s.slots := rfl
@[simp] theorem State.onLaunch_ringLeft : (s.onLaunch k f).ringLeft = s.ringLeft := rfl
@[simp] theorem State.onLaunch_batchIssued : (s.onLaunch k f).batchIssued = s.batchIssued := rfl
@[simp] theorem State.onLaunch_engineIssued : (s.onLaunch k f).engineIssued = s.engineIssued := rfl
@[simp] theorem State.onLaunch_collWait : (s.onLaunch k f).collWait = s.collWait := rfl
@[simp] theorem State.onLaunch_colls : (s.onLaunch k f).colls = s.colls := rfl
@[simp] theorem State.onLaunch_linkGroup : (s.onLaunch k f).linkGroup = s.linkGroup := rfl
@[simp] theorem State.onLaunch_dieErrors : (s.onLaunch k f).dieErrors = s.dieErrors := rfl
@[simp] theorem State.onLaunch_pfVfSel : (s.onLaunch k f).pfVfSel = s.pfVfSel := rfl
@[simp] theorem State.onLaunch_pfErr : (s.onLaunch k f).pfErr = s.pfErr := rfl
@[simp] theorem State.onLaunch_pfErrRead : (s.onLaunch k f).pfErrRead = s.pfErrRead := rfl
@[simp] theorem State.onLaunch_pfPsSel : (s.onLaunch k f).pfPsSel = s.pfPsSel := rfl
@[simp] theorem State.onLaunch_pfPsVbase : (s.onLaunch k f).pfPsVbase = s.pfPsVbase := rfl
@[simp] theorem State.onLaunch_pfPsLen : (s.onLaunch k f).pfPsLen = s.pfPsLen := rfl
@[simp] theorem State.onLaunch_pfPsB0 : (s.onLaunch k f).pfPsB0 = s.pfPsB0 := rfl
@[simp] theorem State.onLaunch_pfPsB1 : (s.onLaunch k f).pfPsB1 = s.pfPsB1 := rfl
@[simp] theorem State.onLaunch_pfRepSel : (s.onLaunch k f).pfRepSel = s.pfRepSel := rfl
@[simp] theorem State.onLaunch_pfPcap : (s.onLaunch k f).pfPcap = s.pfPcap := rfl
@[simp] theorem State.onLaunch_pfGov : (s.onLaunch k f).pfGov = s.pfGov := rfl
@[simp] theorem State.onLaunch_pfGov2Down : (s.onLaunch k f).pfGov2Down = s.pfGov2Down := rfl
@[simp] theorem State.onLaunch_pfGov2Idle : (s.onLaunch k f).pfGov2Idle = s.pfGov2Idle := rfl
end

section
variable (p : Nat)
@[simp] theorem State.free_agenda : (s.free p).1.agenda = s.agenda := rfl
@[simp] theorem State.free_cur : (s.free p).1.cur = s.cur := rfl
@[simp] theorem State.free_team : (s.free p).1.team = s.team := rfl
@[simp] theorem State.free_grp : (s.free p).1.grp = s.grp := rfl
@[simp] theorem State.free_frag : (s.free p).1.frag = s.frag := rfl
@[simp] theorem State.free_head : (s.free p).1.head = s.head := rfl
@[simp] theorem State.free_power : (s.free p).1.power = s.power := rfl
@[simp] theorem State.free_recovery : (s.free p).1.recovery = s.recovery := rfl
@[simp] theorem State.free_mailbox : (s.free p).1.mailbox = s.mailbox := rfl
@[simp] theorem State.free_bringUpDone : (s.free p).1.bringUpDone = s.bringUpDone := rfl
@[simp] theorem State.free_linkUp : (s.free p).1.linkUp = s.linkUp := rfl
@[simp] theorem State.free_mem : (s.free p).1.mem = s.mem := rfl
@[simp] theorem State.free_hostMem : (s.free p).1.hostMem = s.hostMem := rfl
@[simp] theorem State.free_hostOut : (s.free p).1.hostOut = s.hostOut := rfl
@[simp] theorem State.free_hostNoAtomic : (s.free p).1.hostNoAtomic = s.hostNoAtomic := rfl
@[simp] theorem State.free_teams : (s.free p).1.teams = s.teams := rfl
@[simp] theorem State.free_nextTeam : (s.free p).1.nextTeam = s.nextTeam := rfl
@[simp] theorem State.free_launches : (s.free p).1.launches = s.launches := rfl
@[simp] theorem State.free_nextLaunch : (s.free p).1.nextLaunch = s.nextLaunch := rfl
@[simp] theorem State.free_vfs : (s.free p).1.vfs = s.vfs := rfl
@[simp] theorem State.free_hdrCache : (s.free p).1.hdrCache = s.hdrCache := rfl
@[simp] theorem State.free_msix : (s.free p).1.msix = s.msix := rfl
@[simp] theorem State.free_cores : (s.free p).1.cores = s.cores := rfl
@[simp] theorem State.free_clusters : (s.free p).1.clusters = s.clusters := rfl
@[simp] theorem State.free_heads : (s.free p).1.heads = s.heads := rfl
@[simp] theorem State.free_coreMap : (s.free p).1.coreMap = s.coreMap := rfl
@[simp] theorem State.free_channelMap : (s.free p).1.channelMap = s.channelMap := rfl
@[simp] theorem State.free_stackMap : (s.free p).1.stackMap = s.stackMap := rfl
@[simp] theorem State.free_measured : (s.free p).1.measured = s.measured := rfl
@[simp] theorem State.free_spdm : (s.free p).1.spdm = s.spdm := rfl
@[simp] theorem State.free_badCoprocessors : (s.free p).1.badCoprocessors = s.badCoprocessors := rfl
@[simp] theorem State.free_epoch : (s.free p).1.epoch = s.epoch := rfl
@[simp] theorem State.free_redQueues : (s.free p).1.redQueues = s.redQueues := rfl
@[simp] theorem State.free_ringStep : (s.free p).1.ringStep = s.ringStep := rfl
@[simp] theorem State.free_ringIssued : (s.free p).1.ringIssued = s.ringIssued := rfl
@[simp] theorem State.free_ringRev : (s.free p).1.ringRev = s.ringRev := rfl
@[simp] theorem State.free_slots : (s.free p).1.slots = s.slots := rfl
@[simp] theorem State.free_ringLeft : (s.free p).1.ringLeft = s.ringLeft := rfl
@[simp] theorem State.free_batchIssued : (s.free p).1.batchIssued = s.batchIssued := rfl
@[simp] theorem State.free_engineIssued : (s.free p).1.engineIssued = s.engineIssued := rfl
@[simp] theorem State.free_collWait : (s.free p).1.collWait = s.collWait := rfl
@[simp] theorem State.free_colls : (s.free p).1.colls = s.colls := rfl
@[simp] theorem State.free_linkGroup : (s.free p).1.linkGroup = s.linkGroup := rfl
@[simp] theorem State.free_dieErrors : (s.free p).1.dieErrors = s.dieErrors := rfl
@[simp] theorem State.free_pfVfSel : (s.free p).1.pfVfSel = s.pfVfSel := rfl
@[simp] theorem State.free_pfErr : (s.free p).1.pfErr = s.pfErr := rfl
@[simp] theorem State.free_pfErrRead : (s.free p).1.pfErrRead = s.pfErrRead := rfl
@[simp] theorem State.free_pfPsSel : (s.free p).1.pfPsSel = s.pfPsSel := rfl
@[simp] theorem State.free_pfPsVbase : (s.free p).1.pfPsVbase = s.pfPsVbase := rfl
@[simp] theorem State.free_pfPsLen : (s.free p).1.pfPsLen = s.pfPsLen := rfl
@[simp] theorem State.free_pfPsB0 : (s.free p).1.pfPsB0 = s.pfPsB0 := rfl
@[simp] theorem State.free_pfPsB1 : (s.free p).1.pfPsB1 = s.pfPsB1 := rfl
@[simp] theorem State.free_pfRepSel : (s.free p).1.pfRepSel = s.pfRepSel := rfl
@[simp] theorem State.free_pfPcap : (s.free p).1.pfPcap = s.pfPcap := rfl
@[simp] theorem State.free_pfGov : (s.free p).1.pfGov = s.pfGov := rfl
@[simp] theorem State.free_pfGov2Down : (s.free p).1.pfGov2Down = s.pfGov2Down := rfl
@[simp] theorem State.free_pfGov2Idle : (s.free p).1.pfGov2Idle = s.pfGov2Idle := rfl
end

section
variable (vf vector : Nat)
@[simp] theorem State.sendMsix_agenda : (s.sendMsix vf vector).agenda = s.agenda := rfl
@[simp] theorem State.sendMsix_freeCount : (s.sendMsix vf vector).freeCount = s.freeCount := rfl
@[simp] theorem State.sendMsix_cur : (s.sendMsix vf vector).cur = s.cur := rfl
@[simp] theorem State.sendMsix_team : (s.sendMsix vf vector).team = s.team := rfl
@[simp] theorem State.sendMsix_grp : (s.sendMsix vf vector).grp = s.grp := rfl
@[simp] theorem State.sendMsix_frag : (s.sendMsix vf vector).frag = s.frag := rfl
@[simp] theorem State.sendMsix_head : (s.sendMsix vf vector).head = s.head := rfl
@[simp] theorem State.sendMsix_power : (s.sendMsix vf vector).power = s.power := rfl
@[simp] theorem State.sendMsix_recovery : (s.sendMsix vf vector).recovery = s.recovery := rfl
@[simp] theorem State.sendMsix_mailbox : (s.sendMsix vf vector).mailbox = s.mailbox := rfl
@[simp] theorem State.sendMsix_bringUpDone : (s.sendMsix vf vector).bringUpDone = s.bringUpDone := rfl
@[simp] theorem State.sendMsix_linkUp : (s.sendMsix vf vector).linkUp = s.linkUp := rfl
@[simp] theorem State.sendMsix_mem : (s.sendMsix vf vector).mem = s.mem := rfl
@[simp] theorem State.sendMsix_hostMem : (s.sendMsix vf vector).hostMem = s.hostMem := rfl
@[simp] theorem State.sendMsix_hostOut : (s.sendMsix vf vector).hostOut = s.hostOut := rfl
@[simp] theorem State.sendMsix_hostNoAtomic : (s.sendMsix vf vector).hostNoAtomic = s.hostNoAtomic := rfl
@[simp] theorem State.sendMsix_teams : (s.sendMsix vf vector).teams = s.teams := rfl
@[simp] theorem State.sendMsix_nextTeam : (s.sendMsix vf vector).nextTeam = s.nextTeam := rfl
@[simp] theorem State.sendMsix_launches : (s.sendMsix vf vector).launches = s.launches := rfl
@[simp] theorem State.sendMsix_nextLaunch : (s.sendMsix vf vector).nextLaunch = s.nextLaunch := rfl
@[simp] theorem State.sendMsix_vfs : (s.sendMsix vf vector).vfs = s.vfs := rfl
@[simp] theorem State.sendMsix_hdrCache : (s.sendMsix vf vector).hdrCache = s.hdrCache := rfl
@[simp] theorem State.sendMsix_cores : (s.sendMsix vf vector).cores = s.cores := rfl
@[simp] theorem State.sendMsix_clusters : (s.sendMsix vf vector).clusters = s.clusters := rfl
@[simp] theorem State.sendMsix_heads : (s.sendMsix vf vector).heads = s.heads := rfl
@[simp] theorem State.sendMsix_coreMap : (s.sendMsix vf vector).coreMap = s.coreMap := rfl
@[simp] theorem State.sendMsix_channelMap : (s.sendMsix vf vector).channelMap = s.channelMap := rfl
@[simp] theorem State.sendMsix_stackMap : (s.sendMsix vf vector).stackMap = s.stackMap := rfl
@[simp] theorem State.sendMsix_measured : (s.sendMsix vf vector).measured = s.measured := rfl
@[simp] theorem State.sendMsix_spdm : (s.sendMsix vf vector).spdm = s.spdm := rfl
@[simp] theorem State.sendMsix_badCoprocessors : (s.sendMsix vf vector).badCoprocessors = s.badCoprocessors := rfl
@[simp] theorem State.sendMsix_epoch : (s.sendMsix vf vector).epoch = s.epoch := rfl
@[simp] theorem State.sendMsix_redQueues : (s.sendMsix vf vector).redQueues = s.redQueues := rfl
@[simp] theorem State.sendMsix_ringStep : (s.sendMsix vf vector).ringStep = s.ringStep := rfl
@[simp] theorem State.sendMsix_ringIssued : (s.sendMsix vf vector).ringIssued = s.ringIssued := rfl
@[simp] theorem State.sendMsix_ringRev : (s.sendMsix vf vector).ringRev = s.ringRev := rfl
@[simp] theorem State.sendMsix_slots : (s.sendMsix vf vector).slots = s.slots := rfl
@[simp] theorem State.sendMsix_ringLeft : (s.sendMsix vf vector).ringLeft = s.ringLeft := rfl
@[simp] theorem State.sendMsix_batchIssued : (s.sendMsix vf vector).batchIssued = s.batchIssued := rfl
@[simp] theorem State.sendMsix_engineIssued : (s.sendMsix vf vector).engineIssued = s.engineIssued := rfl
@[simp] theorem State.sendMsix_collWait : (s.sendMsix vf vector).collWait = s.collWait := rfl
@[simp] theorem State.sendMsix_colls : (s.sendMsix vf vector).colls = s.colls := rfl
@[simp] theorem State.sendMsix_linkGroup : (s.sendMsix vf vector).linkGroup = s.linkGroup := rfl
@[simp] theorem State.sendMsix_dieErrors : (s.sendMsix vf vector).dieErrors = s.dieErrors := rfl
@[simp] theorem State.sendMsix_pfVfSel : (s.sendMsix vf vector).pfVfSel = s.pfVfSel := rfl
@[simp] theorem State.sendMsix_pfErr : (s.sendMsix vf vector).pfErr = s.pfErr := rfl
@[simp] theorem State.sendMsix_pfErrRead : (s.sendMsix vf vector).pfErrRead = s.pfErrRead := rfl
@[simp] theorem State.sendMsix_pfPsSel : (s.sendMsix vf vector).pfPsSel = s.pfPsSel := rfl
@[simp] theorem State.sendMsix_pfPsVbase : (s.sendMsix vf vector).pfPsVbase = s.pfPsVbase := rfl
@[simp] theorem State.sendMsix_pfPsLen : (s.sendMsix vf vector).pfPsLen = s.pfPsLen := rfl
@[simp] theorem State.sendMsix_pfPsB0 : (s.sendMsix vf vector).pfPsB0 = s.pfPsB0 := rfl
@[simp] theorem State.sendMsix_pfPsB1 : (s.sendMsix vf vector).pfPsB1 = s.pfPsB1 := rfl
@[simp] theorem State.sendMsix_pfRepSel : (s.sendMsix vf vector).pfRepSel = s.pfRepSel := rfl
@[simp] theorem State.sendMsix_pfPcap : (s.sendMsix vf vector).pfPcap = s.pfPcap := rfl
@[simp] theorem State.sendMsix_pfGov : (s.sendMsix vf vector).pfGov = s.pfGov := rfl
@[simp] theorem State.sendMsix_pfGov2Down : (s.sendMsix vf vector).pfGov2Down = s.pfGov2Down := rfl
@[simp] theorem State.sendMsix_pfGov2Idle : (s.sendMsix vf vector).pfGov2Idle = s.pfGov2Idle := rfl
end

section
@[simp] theorem State.wait_agenda : (s.wait).agenda = s.agenda := rfl
@[simp] theorem State.wait_freeCount : (s.wait).freeCount = s.freeCount := rfl
@[simp] theorem State.wait_team : (s.wait).team = s.team := rfl
@[simp] theorem State.wait_grp : (s.wait).grp = s.grp := rfl
@[simp] theorem State.wait_frag : (s.wait).frag = s.frag := rfl
@[simp] theorem State.wait_head : (s.wait).head = s.head := rfl
@[simp] theorem State.wait_power : (s.wait).power = s.power := rfl
@[simp] theorem State.wait_recovery : (s.wait).recovery = s.recovery := rfl
@[simp] theorem State.wait_mailbox : (s.wait).mailbox = s.mailbox := rfl
@[simp] theorem State.wait_bringUpDone : (s.wait).bringUpDone = s.bringUpDone := rfl
@[simp] theorem State.wait_linkUp : (s.wait).linkUp = s.linkUp := rfl
@[simp] theorem State.wait_mem : (s.wait).mem = s.mem := rfl
@[simp] theorem State.wait_hostMem : (s.wait).hostMem = s.hostMem := rfl
@[simp] theorem State.wait_hostOut : (s.wait).hostOut = s.hostOut := rfl
@[simp] theorem State.wait_hostNoAtomic : (s.wait).hostNoAtomic = s.hostNoAtomic := rfl
@[simp] theorem State.wait_teams : (s.wait).teams = s.teams := rfl
@[simp] theorem State.wait_nextTeam : (s.wait).nextTeam = s.nextTeam := rfl
@[simp] theorem State.wait_launches : (s.wait).launches = s.launches := rfl
@[simp] theorem State.wait_nextLaunch : (s.wait).nextLaunch = s.nextLaunch := rfl
@[simp] theorem State.wait_vfs : (s.wait).vfs = s.vfs := rfl
@[simp] theorem State.wait_hdrCache : (s.wait).hdrCache = s.hdrCache := rfl
@[simp] theorem State.wait_msix : (s.wait).msix = s.msix := rfl
@[simp] theorem State.wait_cores : (s.wait).cores = s.cores := rfl
@[simp] theorem State.wait_clusters : (s.wait).clusters = s.clusters := rfl
@[simp] theorem State.wait_heads : (s.wait).heads = s.heads := rfl
@[simp] theorem State.wait_coreMap : (s.wait).coreMap = s.coreMap := rfl
@[simp] theorem State.wait_channelMap : (s.wait).channelMap = s.channelMap := rfl
@[simp] theorem State.wait_stackMap : (s.wait).stackMap = s.stackMap := rfl
@[simp] theorem State.wait_measured : (s.wait).measured = s.measured := rfl
@[simp] theorem State.wait_spdm : (s.wait).spdm = s.spdm := rfl
@[simp] theorem State.wait_badCoprocessors : (s.wait).badCoprocessors = s.badCoprocessors := rfl
@[simp] theorem State.wait_epoch : (s.wait).epoch = s.epoch := rfl
@[simp] theorem State.wait_redQueues : (s.wait).redQueues = s.redQueues := rfl
@[simp] theorem State.wait_ringStep : (s.wait).ringStep = s.ringStep := rfl
@[simp] theorem State.wait_ringIssued : (s.wait).ringIssued = s.ringIssued := rfl
@[simp] theorem State.wait_ringRev : (s.wait).ringRev = s.ringRev := rfl
@[simp] theorem State.wait_slots : (s.wait).slots = s.slots := rfl
@[simp] theorem State.wait_ringLeft : (s.wait).ringLeft = s.ringLeft := rfl
@[simp] theorem State.wait_batchIssued : (s.wait).batchIssued = s.batchIssued := rfl
@[simp] theorem State.wait_engineIssued : (s.wait).engineIssued = s.engineIssued := rfl
@[simp] theorem State.wait_collWait : (s.wait).collWait = s.collWait := rfl
@[simp] theorem State.wait_colls : (s.wait).colls = s.colls := rfl
@[simp] theorem State.wait_linkGroup : (s.wait).linkGroup = s.linkGroup := rfl
@[simp] theorem State.wait_dieErrors : (s.wait).dieErrors = s.dieErrors := rfl
@[simp] theorem State.wait_pfVfSel : (s.wait).pfVfSel = s.pfVfSel := rfl
@[simp] theorem State.wait_pfErr : (s.wait).pfErr = s.pfErr := rfl
@[simp] theorem State.wait_pfErrRead : (s.wait).pfErrRead = s.pfErrRead := rfl
@[simp] theorem State.wait_pfPsSel : (s.wait).pfPsSel = s.pfPsSel := rfl
@[simp] theorem State.wait_pfPsVbase : (s.wait).pfPsVbase = s.pfPsVbase := rfl
@[simp] theorem State.wait_pfPsLen : (s.wait).pfPsLen = s.pfPsLen := rfl
@[simp] theorem State.wait_pfPsB0 : (s.wait).pfPsB0 = s.pfPsB0 := rfl
@[simp] theorem State.wait_pfPsB1 : (s.wait).pfPsB1 = s.pfPsB1 := rfl
@[simp] theorem State.wait_pfRepSel : (s.wait).pfRepSel = s.pfRepSel := rfl
@[simp] theorem State.wait_pfPcap : (s.wait).pfPcap = s.pfPcap := rfl
@[simp] theorem State.wait_pfGov : (s.wait).pfGov = s.pfGov := rfl
@[simp] theorem State.wait_pfGov2Down : (s.wait).pfGov2Down = s.pfGov2Down := rfl
@[simp] theorem State.wait_pfGov2Idle : (s.wait).pfGov2Idle = s.pfGov2Idle := rfl
end

section
variable (fl : W32)
@[simp] theorem State.orFlags_agenda : (s.orFlags fl).agenda = s.agenda := rfl
@[simp] theorem State.orFlags_freeCount : (s.orFlags fl).freeCount = s.freeCount := rfl
@[simp] theorem State.orFlags_cur : (s.orFlags fl).cur = s.cur := rfl
@[simp] theorem State.orFlags_team : (s.orFlags fl).team = s.team := rfl
@[simp] theorem State.orFlags_frag : (s.orFlags fl).frag = s.frag := rfl
@[simp] theorem State.orFlags_head : (s.orFlags fl).head = s.head := rfl
@[simp] theorem State.orFlags_power : (s.orFlags fl).power = s.power := rfl
@[simp] theorem State.orFlags_recovery : (s.orFlags fl).recovery = s.recovery := rfl
@[simp] theorem State.orFlags_mailbox : (s.orFlags fl).mailbox = s.mailbox := rfl
@[simp] theorem State.orFlags_bringUpDone : (s.orFlags fl).bringUpDone = s.bringUpDone := rfl
@[simp] theorem State.orFlags_linkUp : (s.orFlags fl).linkUp = s.linkUp := rfl
@[simp] theorem State.orFlags_mem : (s.orFlags fl).mem = s.mem := rfl
@[simp] theorem State.orFlags_hostMem : (s.orFlags fl).hostMem = s.hostMem := rfl
@[simp] theorem State.orFlags_hostOut : (s.orFlags fl).hostOut = s.hostOut := rfl
@[simp] theorem State.orFlags_hostNoAtomic : (s.orFlags fl).hostNoAtomic = s.hostNoAtomic := rfl
@[simp] theorem State.orFlags_teams : (s.orFlags fl).teams = s.teams := rfl
@[simp] theorem State.orFlags_nextTeam : (s.orFlags fl).nextTeam = s.nextTeam := rfl
@[simp] theorem State.orFlags_launches : (s.orFlags fl).launches = s.launches := rfl
@[simp] theorem State.orFlags_nextLaunch : (s.orFlags fl).nextLaunch = s.nextLaunch := rfl
@[simp] theorem State.orFlags_vfs : (s.orFlags fl).vfs = s.vfs := rfl
@[simp] theorem State.orFlags_hdrCache : (s.orFlags fl).hdrCache = s.hdrCache := rfl
@[simp] theorem State.orFlags_msix : (s.orFlags fl).msix = s.msix := rfl
@[simp] theorem State.orFlags_cores : (s.orFlags fl).cores = s.cores := rfl
@[simp] theorem State.orFlags_clusters : (s.orFlags fl).clusters = s.clusters := rfl
@[simp] theorem State.orFlags_heads : (s.orFlags fl).heads = s.heads := rfl
@[simp] theorem State.orFlags_coreMap : (s.orFlags fl).coreMap = s.coreMap := rfl
@[simp] theorem State.orFlags_channelMap : (s.orFlags fl).channelMap = s.channelMap := rfl
@[simp] theorem State.orFlags_stackMap : (s.orFlags fl).stackMap = s.stackMap := rfl
@[simp] theorem State.orFlags_measured : (s.orFlags fl).measured = s.measured := rfl
@[simp] theorem State.orFlags_spdm : (s.orFlags fl).spdm = s.spdm := rfl
@[simp] theorem State.orFlags_badCoprocessors : (s.orFlags fl).badCoprocessors = s.badCoprocessors := rfl
@[simp] theorem State.orFlags_epoch : (s.orFlags fl).epoch = s.epoch := rfl
@[simp] theorem State.orFlags_redQueues : (s.orFlags fl).redQueues = s.redQueues := rfl
@[simp] theorem State.orFlags_ringStep : (s.orFlags fl).ringStep = s.ringStep := rfl
@[simp] theorem State.orFlags_ringIssued : (s.orFlags fl).ringIssued = s.ringIssued := rfl
@[simp] theorem State.orFlags_ringRev : (s.orFlags fl).ringRev = s.ringRev := rfl
@[simp] theorem State.orFlags_slots : (s.orFlags fl).slots = s.slots := rfl
@[simp] theorem State.orFlags_ringLeft : (s.orFlags fl).ringLeft = s.ringLeft := rfl
@[simp] theorem State.orFlags_batchIssued : (s.orFlags fl).batchIssued = s.batchIssued := rfl
@[simp] theorem State.orFlags_engineIssued : (s.orFlags fl).engineIssued = s.engineIssued := rfl
@[simp] theorem State.orFlags_collWait : (s.orFlags fl).collWait = s.collWait := rfl
@[simp] theorem State.orFlags_colls : (s.orFlags fl).colls = s.colls := rfl
@[simp] theorem State.orFlags_linkGroup : (s.orFlags fl).linkGroup = s.linkGroup := rfl
@[simp] theorem State.orFlags_dieErrors : (s.orFlags fl).dieErrors = s.dieErrors := rfl
@[simp] theorem State.orFlags_pfVfSel : (s.orFlags fl).pfVfSel = s.pfVfSel := rfl
@[simp] theorem State.orFlags_pfErr : (s.orFlags fl).pfErr = s.pfErr := rfl
@[simp] theorem State.orFlags_pfErrRead : (s.orFlags fl).pfErrRead = s.pfErrRead := rfl
@[simp] theorem State.orFlags_pfPsSel : (s.orFlags fl).pfPsSel = s.pfPsSel := rfl
@[simp] theorem State.orFlags_pfPsVbase : (s.orFlags fl).pfPsVbase = s.pfPsVbase := rfl
@[simp] theorem State.orFlags_pfPsLen : (s.orFlags fl).pfPsLen = s.pfPsLen := rfl
@[simp] theorem State.orFlags_pfPsB0 : (s.orFlags fl).pfPsB0 = s.pfPsB0 := rfl
@[simp] theorem State.orFlags_pfPsB1 : (s.orFlags fl).pfPsB1 = s.pfPsB1 := rfl
@[simp] theorem State.orFlags_pfRepSel : (s.orFlags fl).pfRepSel = s.pfRepSel := rfl
@[simp] theorem State.orFlags_pfPcap : (s.orFlags fl).pfPcap = s.pfPcap := rfl
@[simp] theorem State.orFlags_pfGov : (s.orFlags fl).pfGov = s.pfGov := rfl
@[simp] theorem State.orFlags_pfGov2Down : (s.orFlags fl).pfGov2Down = s.pfGov2Down := rfl
@[simp] theorem State.orFlags_pfGov2Idle : (s.orFlags fl).pfGov2Idle = s.pfGov2Idle := rfl
end

section
variable (r : Nat) (m : Mask) (f : Nat → W32)
@[simp] theorem State.wv_agenda : (s.wv r m f).agenda = s.agenda := rfl
@[simp] theorem State.wv_freeCount : (s.wv r m f).freeCount = s.freeCount := rfl
@[simp] theorem State.wv_cur : (s.wv r m f).cur = s.cur := rfl
@[simp] theorem State.wv_team : (s.wv r m f).team = s.team := rfl
@[simp] theorem State.wv_frag : (s.wv r m f).frag = s.frag := rfl
@[simp] theorem State.wv_head : (s.wv r m f).head = s.head := rfl
@[simp] theorem State.wv_power : (s.wv r m f).power = s.power := rfl
@[simp] theorem State.wv_recovery : (s.wv r m f).recovery = s.recovery := rfl
@[simp] theorem State.wv_mailbox : (s.wv r m f).mailbox = s.mailbox := rfl
@[simp] theorem State.wv_bringUpDone : (s.wv r m f).bringUpDone = s.bringUpDone := rfl
@[simp] theorem State.wv_linkUp : (s.wv r m f).linkUp = s.linkUp := rfl
@[simp] theorem State.wv_mem : (s.wv r m f).mem = s.mem := rfl
@[simp] theorem State.wv_hostMem : (s.wv r m f).hostMem = s.hostMem := rfl
@[simp] theorem State.wv_hostOut : (s.wv r m f).hostOut = s.hostOut := rfl
@[simp] theorem State.wv_hostNoAtomic : (s.wv r m f).hostNoAtomic = s.hostNoAtomic := rfl
@[simp] theorem State.wv_teams : (s.wv r m f).teams = s.teams := rfl
@[simp] theorem State.wv_nextTeam : (s.wv r m f).nextTeam = s.nextTeam := rfl
@[simp] theorem State.wv_launches : (s.wv r m f).launches = s.launches := rfl
@[simp] theorem State.wv_nextLaunch : (s.wv r m f).nextLaunch = s.nextLaunch := rfl
@[simp] theorem State.wv_vfs : (s.wv r m f).vfs = s.vfs := rfl
@[simp] theorem State.wv_hdrCache : (s.wv r m f).hdrCache = s.hdrCache := rfl
@[simp] theorem State.wv_msix : (s.wv r m f).msix = s.msix := rfl
@[simp] theorem State.wv_cores : (s.wv r m f).cores = s.cores := rfl
@[simp] theorem State.wv_clusters : (s.wv r m f).clusters = s.clusters := rfl
@[simp] theorem State.wv_heads : (s.wv r m f).heads = s.heads := rfl
@[simp] theorem State.wv_coreMap : (s.wv r m f).coreMap = s.coreMap := rfl
@[simp] theorem State.wv_channelMap : (s.wv r m f).channelMap = s.channelMap := rfl
@[simp] theorem State.wv_stackMap : (s.wv r m f).stackMap = s.stackMap := rfl
@[simp] theorem State.wv_measured : (s.wv r m f).measured = s.measured := rfl
@[simp] theorem State.wv_spdm : (s.wv r m f).spdm = s.spdm := rfl
@[simp] theorem State.wv_badCoprocessors : (s.wv r m f).badCoprocessors = s.badCoprocessors := rfl
@[simp] theorem State.wv_epoch : (s.wv r m f).epoch = s.epoch := rfl
@[simp] theorem State.wv_redQueues : (s.wv r m f).redQueues = s.redQueues := rfl
@[simp] theorem State.wv_ringStep : (s.wv r m f).ringStep = s.ringStep := rfl
@[simp] theorem State.wv_ringIssued : (s.wv r m f).ringIssued = s.ringIssued := rfl
@[simp] theorem State.wv_ringRev : (s.wv r m f).ringRev = s.ringRev := rfl
@[simp] theorem State.wv_slots : (s.wv r m f).slots = s.slots := rfl
@[simp] theorem State.wv_ringLeft : (s.wv r m f).ringLeft = s.ringLeft := rfl
@[simp] theorem State.wv_batchIssued : (s.wv r m f).batchIssued = s.batchIssued := rfl
@[simp] theorem State.wv_engineIssued : (s.wv r m f).engineIssued = s.engineIssued := rfl
@[simp] theorem State.wv_collWait : (s.wv r m f).collWait = s.collWait := rfl
@[simp] theorem State.wv_colls : (s.wv r m f).colls = s.colls := rfl
@[simp] theorem State.wv_linkGroup : (s.wv r m f).linkGroup = s.linkGroup := rfl
@[simp] theorem State.wv_dieErrors : (s.wv r m f).dieErrors = s.dieErrors := rfl
@[simp] theorem State.wv_pfVfSel : (s.wv r m f).pfVfSel = s.pfVfSel := rfl
@[simp] theorem State.wv_pfErr : (s.wv r m f).pfErr = s.pfErr := rfl
@[simp] theorem State.wv_pfErrRead : (s.wv r m f).pfErrRead = s.pfErrRead := rfl
@[simp] theorem State.wv_pfPsSel : (s.wv r m f).pfPsSel = s.pfPsSel := rfl
@[simp] theorem State.wv_pfPsVbase : (s.wv r m f).pfPsVbase = s.pfPsVbase := rfl
@[simp] theorem State.wv_pfPsLen : (s.wv r m f).pfPsLen = s.pfPsLen := rfl
@[simp] theorem State.wv_pfPsB0 : (s.wv r m f).pfPsB0 = s.pfPsB0 := rfl
@[simp] theorem State.wv_pfPsB1 : (s.wv r m f).pfPsB1 = s.pfPsB1 := rfl
@[simp] theorem State.wv_pfRepSel : (s.wv r m f).pfRepSel = s.pfRepSel := rfl
@[simp] theorem State.wv_pfPcap : (s.wv r m f).pfPcap = s.pfPcap := rfl
@[simp] theorem State.wv_pfGov : (s.wv r m f).pfGov = s.pfGov := rfl
@[simp] theorem State.wv_pfGov2Down : (s.wv r m f).pfGov2Down = s.pfGov2Down := rfl
@[simp] theorem State.wv_pfGov2Idle : (s.wv r m f).pfGov2Idle = s.pfGov2Idle := rfl
end

section
variable (n : Nat) (x : W32)
@[simp] theorem State.wg_agenda : (s.wg n x).agenda = s.agenda := rfl
@[simp] theorem State.wg_freeCount : (s.wg n x).freeCount = s.freeCount := rfl
@[simp] theorem State.wg_cur : (s.wg n x).cur = s.cur := rfl
@[simp] theorem State.wg_team : (s.wg n x).team = s.team := rfl
@[simp] theorem State.wg_frag : (s.wg n x).frag = s.frag := rfl
@[simp] theorem State.wg_head : (s.wg n x).head = s.head := rfl
@[simp] theorem State.wg_power : (s.wg n x).power = s.power := rfl
@[simp] theorem State.wg_recovery : (s.wg n x).recovery = s.recovery := rfl
@[simp] theorem State.wg_mailbox : (s.wg n x).mailbox = s.mailbox := rfl
@[simp] theorem State.wg_bringUpDone : (s.wg n x).bringUpDone = s.bringUpDone := rfl
@[simp] theorem State.wg_linkUp : (s.wg n x).linkUp = s.linkUp := rfl
@[simp] theorem State.wg_mem : (s.wg n x).mem = s.mem := rfl
@[simp] theorem State.wg_hostMem : (s.wg n x).hostMem = s.hostMem := rfl
@[simp] theorem State.wg_hostOut : (s.wg n x).hostOut = s.hostOut := rfl
@[simp] theorem State.wg_hostNoAtomic : (s.wg n x).hostNoAtomic = s.hostNoAtomic := rfl
@[simp] theorem State.wg_teams : (s.wg n x).teams = s.teams := rfl
@[simp] theorem State.wg_nextTeam : (s.wg n x).nextTeam = s.nextTeam := rfl
@[simp] theorem State.wg_launches : (s.wg n x).launches = s.launches := rfl
@[simp] theorem State.wg_nextLaunch : (s.wg n x).nextLaunch = s.nextLaunch := rfl
@[simp] theorem State.wg_vfs : (s.wg n x).vfs = s.vfs := rfl
@[simp] theorem State.wg_hdrCache : (s.wg n x).hdrCache = s.hdrCache := rfl
@[simp] theorem State.wg_msix : (s.wg n x).msix = s.msix := rfl
@[simp] theorem State.wg_cores : (s.wg n x).cores = s.cores := rfl
@[simp] theorem State.wg_clusters : (s.wg n x).clusters = s.clusters := rfl
@[simp] theorem State.wg_heads : (s.wg n x).heads = s.heads := rfl
@[simp] theorem State.wg_coreMap : (s.wg n x).coreMap = s.coreMap := rfl
@[simp] theorem State.wg_channelMap : (s.wg n x).channelMap = s.channelMap := rfl
@[simp] theorem State.wg_stackMap : (s.wg n x).stackMap = s.stackMap := rfl
@[simp] theorem State.wg_measured : (s.wg n x).measured = s.measured := rfl
@[simp] theorem State.wg_spdm : (s.wg n x).spdm = s.spdm := rfl
@[simp] theorem State.wg_badCoprocessors : (s.wg n x).badCoprocessors = s.badCoprocessors := rfl
@[simp] theorem State.wg_epoch : (s.wg n x).epoch = s.epoch := rfl
@[simp] theorem State.wg_redQueues : (s.wg n x).redQueues = s.redQueues := rfl
@[simp] theorem State.wg_ringStep : (s.wg n x).ringStep = s.ringStep := rfl
@[simp] theorem State.wg_ringIssued : (s.wg n x).ringIssued = s.ringIssued := rfl
@[simp] theorem State.wg_ringRev : (s.wg n x).ringRev = s.ringRev := rfl
@[simp] theorem State.wg_slots : (s.wg n x).slots = s.slots := rfl
@[simp] theorem State.wg_ringLeft : (s.wg n x).ringLeft = s.ringLeft := rfl
@[simp] theorem State.wg_batchIssued : (s.wg n x).batchIssued = s.batchIssued := rfl
@[simp] theorem State.wg_engineIssued : (s.wg n x).engineIssued = s.engineIssued := rfl
@[simp] theorem State.wg_collWait : (s.wg n x).collWait = s.collWait := rfl
@[simp] theorem State.wg_colls : (s.wg n x).colls = s.colls := rfl
@[simp] theorem State.wg_linkGroup : (s.wg n x).linkGroup = s.linkGroup := rfl
@[simp] theorem State.wg_dieErrors : (s.wg n x).dieErrors = s.dieErrors := rfl
@[simp] theorem State.wg_pfVfSel : (s.wg n x).pfVfSel = s.pfVfSel := rfl
@[simp] theorem State.wg_pfErr : (s.wg n x).pfErr = s.pfErr := rfl
@[simp] theorem State.wg_pfErrRead : (s.wg n x).pfErrRead = s.pfErrRead := rfl
@[simp] theorem State.wg_pfPsSel : (s.wg n x).pfPsSel = s.pfPsSel := rfl
@[simp] theorem State.wg_pfPsVbase : (s.wg n x).pfPsVbase = s.pfPsVbase := rfl
@[simp] theorem State.wg_pfPsLen : (s.wg n x).pfPsLen = s.pfPsLen := rfl
@[simp] theorem State.wg_pfPsB0 : (s.wg n x).pfPsB0 = s.pfPsB0 := rfl
@[simp] theorem State.wg_pfPsB1 : (s.wg n x).pfPsB1 = s.pfPsB1 := rfl
@[simp] theorem State.wg_pfRepSel : (s.wg n x).pfRepSel = s.pfRepSel := rfl
@[simp] theorem State.wg_pfPcap : (s.wg n x).pfPcap = s.pfPcap := rfl
@[simp] theorem State.wg_pfGov : (s.wg n x).pfGov = s.pfGov := rfl
@[simp] theorem State.wg_pfGov2Down : (s.wg n x).pfGov2Down = s.pfGov2Down := rfl
@[simp] theorem State.wg_pfGov2Idle : (s.wg n x).pfGov2Idle = s.pfGov2Idle := rfl
end

section
variable (size : Nat)
@[simp] theorem State.retire_agenda : (s.retire size).agenda = s.agenda := rfl
@[simp] theorem State.retire_freeCount : (s.retire size).freeCount = s.freeCount := rfl
@[simp] theorem State.retire_cur : (s.retire size).cur = s.cur := rfl
@[simp] theorem State.retire_team : (s.retire size).team = s.team := rfl
@[simp] theorem State.retire_grp : (s.retire size).grp = s.grp := rfl
@[simp] theorem State.retire_head : (s.retire size).head = s.head := rfl
@[simp] theorem State.retire_power : (s.retire size).power = s.power := rfl
@[simp] theorem State.retire_recovery : (s.retire size).recovery = s.recovery := rfl
@[simp] theorem State.retire_mailbox : (s.retire size).mailbox = s.mailbox := rfl
@[simp] theorem State.retire_bringUpDone : (s.retire size).bringUpDone = s.bringUpDone := rfl
@[simp] theorem State.retire_linkUp : (s.retire size).linkUp = s.linkUp := rfl
@[simp] theorem State.retire_mem : (s.retire size).mem = s.mem := rfl
@[simp] theorem State.retire_hostMem : (s.retire size).hostMem = s.hostMem := rfl
@[simp] theorem State.retire_hostOut : (s.retire size).hostOut = s.hostOut := rfl
@[simp] theorem State.retire_hostNoAtomic : (s.retire size).hostNoAtomic = s.hostNoAtomic := rfl
@[simp] theorem State.retire_teams : (s.retire size).teams = s.teams := rfl
@[simp] theorem State.retire_nextTeam : (s.retire size).nextTeam = s.nextTeam := rfl
@[simp] theorem State.retire_launches : (s.retire size).launches = s.launches := rfl
@[simp] theorem State.retire_nextLaunch : (s.retire size).nextLaunch = s.nextLaunch := rfl
@[simp] theorem State.retire_vfs : (s.retire size).vfs = s.vfs := rfl
@[simp] theorem State.retire_hdrCache : (s.retire size).hdrCache = s.hdrCache := rfl
@[simp] theorem State.retire_msix : (s.retire size).msix = s.msix := rfl
@[simp] theorem State.retire_cores : (s.retire size).cores = s.cores := rfl
@[simp] theorem State.retire_clusters : (s.retire size).clusters = s.clusters := rfl
@[simp] theorem State.retire_heads : (s.retire size).heads = s.heads := rfl
@[simp] theorem State.retire_coreMap : (s.retire size).coreMap = s.coreMap := rfl
@[simp] theorem State.retire_channelMap : (s.retire size).channelMap = s.channelMap := rfl
@[simp] theorem State.retire_stackMap : (s.retire size).stackMap = s.stackMap := rfl
@[simp] theorem State.retire_measured : (s.retire size).measured = s.measured := rfl
@[simp] theorem State.retire_spdm : (s.retire size).spdm = s.spdm := rfl
@[simp] theorem State.retire_badCoprocessors : (s.retire size).badCoprocessors = s.badCoprocessors := rfl
@[simp] theorem State.retire_epoch : (s.retire size).epoch = s.epoch := rfl
@[simp] theorem State.retire_redQueues : (s.retire size).redQueues = s.redQueues := rfl
@[simp] theorem State.retire_ringStep : (s.retire size).ringStep = s.ringStep := rfl
@[simp] theorem State.retire_ringIssued : (s.retire size).ringIssued = s.ringIssued := rfl
@[simp] theorem State.retire_ringRev : (s.retire size).ringRev = s.ringRev := rfl
@[simp] theorem State.retire_slots : (s.retire size).slots = s.slots := rfl
@[simp] theorem State.retire_ringLeft : (s.retire size).ringLeft = s.ringLeft := rfl
@[simp] theorem State.retire_batchIssued : (s.retire size).batchIssued = s.batchIssued := rfl
@[simp] theorem State.retire_engineIssued : (s.retire size).engineIssued = s.engineIssued := rfl
@[simp] theorem State.retire_collWait : (s.retire size).collWait = s.collWait := rfl
@[simp] theorem State.retire_colls : (s.retire size).colls = s.colls := rfl
@[simp] theorem State.retire_linkGroup : (s.retire size).linkGroup = s.linkGroup := rfl
@[simp] theorem State.retire_dieErrors : (s.retire size).dieErrors = s.dieErrors := rfl
@[simp] theorem State.retire_pfVfSel : (s.retire size).pfVfSel = s.pfVfSel := rfl
@[simp] theorem State.retire_pfErr : (s.retire size).pfErr = s.pfErr := rfl
@[simp] theorem State.retire_pfErrRead : (s.retire size).pfErrRead = s.pfErrRead := rfl
@[simp] theorem State.retire_pfPsSel : (s.retire size).pfPsSel = s.pfPsSel := rfl
@[simp] theorem State.retire_pfPsVbase : (s.retire size).pfPsVbase = s.pfPsVbase := rfl
@[simp] theorem State.retire_pfPsLen : (s.retire size).pfPsLen = s.pfPsLen := rfl
@[simp] theorem State.retire_pfPsB0 : (s.retire size).pfPsB0 = s.pfPsB0 := rfl
@[simp] theorem State.retire_pfPsB1 : (s.retire size).pfPsB1 = s.pfPsB1 := rfl
@[simp] theorem State.retire_pfRepSel : (s.retire size).pfRepSel = s.pfRepSel := rfl
@[simp] theorem State.retire_pfPcap : (s.retire size).pfPcap = s.pfPcap := rfl
@[simp] theorem State.retire_pfGov : (s.retire size).pfGov = s.pfGov := rfl
@[simp] theorem State.retire_pfGov2Down : (s.retire size).pfGov2Down = s.pfGov2Down := rfl
@[simp] theorem State.retire_pfGov2Idle : (s.retire size).pfGov2Idle = s.pfGov2Idle := rfl
end

section
variable (pc : W64)
@[simp] theorem State.retireTo_agenda : (s.retireTo pc).agenda = s.agenda := rfl
@[simp] theorem State.retireTo_freeCount : (s.retireTo pc).freeCount = s.freeCount := rfl
@[simp] theorem State.retireTo_cur : (s.retireTo pc).cur = s.cur := rfl
@[simp] theorem State.retireTo_team : (s.retireTo pc).team = s.team := rfl
@[simp] theorem State.retireTo_grp : (s.retireTo pc).grp = s.grp := rfl
@[simp] theorem State.retireTo_head : (s.retireTo pc).head = s.head := rfl
@[simp] theorem State.retireTo_power : (s.retireTo pc).power = s.power := rfl
@[simp] theorem State.retireTo_recovery : (s.retireTo pc).recovery = s.recovery := rfl
@[simp] theorem State.retireTo_mailbox : (s.retireTo pc).mailbox = s.mailbox := rfl
@[simp] theorem State.retireTo_bringUpDone : (s.retireTo pc).bringUpDone = s.bringUpDone := rfl
@[simp] theorem State.retireTo_linkUp : (s.retireTo pc).linkUp = s.linkUp := rfl
@[simp] theorem State.retireTo_mem : (s.retireTo pc).mem = s.mem := rfl
@[simp] theorem State.retireTo_hostMem : (s.retireTo pc).hostMem = s.hostMem := rfl
@[simp] theorem State.retireTo_hostOut : (s.retireTo pc).hostOut = s.hostOut := rfl
@[simp] theorem State.retireTo_hostNoAtomic : (s.retireTo pc).hostNoAtomic = s.hostNoAtomic := rfl
@[simp] theorem State.retireTo_teams : (s.retireTo pc).teams = s.teams := rfl
@[simp] theorem State.retireTo_nextTeam : (s.retireTo pc).nextTeam = s.nextTeam := rfl
@[simp] theorem State.retireTo_launches : (s.retireTo pc).launches = s.launches := rfl
@[simp] theorem State.retireTo_nextLaunch : (s.retireTo pc).nextLaunch = s.nextLaunch := rfl
@[simp] theorem State.retireTo_vfs : (s.retireTo pc).vfs = s.vfs := rfl
@[simp] theorem State.retireTo_hdrCache : (s.retireTo pc).hdrCache = s.hdrCache := rfl
@[simp] theorem State.retireTo_msix : (s.retireTo pc).msix = s.msix := rfl
@[simp] theorem State.retireTo_cores : (s.retireTo pc).cores = s.cores := rfl
@[simp] theorem State.retireTo_clusters : (s.retireTo pc).clusters = s.clusters := rfl
@[simp] theorem State.retireTo_heads : (s.retireTo pc).heads = s.heads := rfl
@[simp] theorem State.retireTo_coreMap : (s.retireTo pc).coreMap = s.coreMap := rfl
@[simp] theorem State.retireTo_channelMap : (s.retireTo pc).channelMap = s.channelMap := rfl
@[simp] theorem State.retireTo_stackMap : (s.retireTo pc).stackMap = s.stackMap := rfl
@[simp] theorem State.retireTo_measured : (s.retireTo pc).measured = s.measured := rfl
@[simp] theorem State.retireTo_spdm : (s.retireTo pc).spdm = s.spdm := rfl
@[simp] theorem State.retireTo_badCoprocessors : (s.retireTo pc).badCoprocessors = s.badCoprocessors := rfl
@[simp] theorem State.retireTo_epoch : (s.retireTo pc).epoch = s.epoch := rfl
@[simp] theorem State.retireTo_redQueues : (s.retireTo pc).redQueues = s.redQueues := rfl
@[simp] theorem State.retireTo_ringStep : (s.retireTo pc).ringStep = s.ringStep := rfl
@[simp] theorem State.retireTo_ringIssued : (s.retireTo pc).ringIssued = s.ringIssued := rfl
@[simp] theorem State.retireTo_ringRev : (s.retireTo pc).ringRev = s.ringRev := rfl
@[simp] theorem State.retireTo_slots : (s.retireTo pc).slots = s.slots := rfl
@[simp] theorem State.retireTo_ringLeft : (s.retireTo pc).ringLeft = s.ringLeft := rfl
@[simp] theorem State.retireTo_batchIssued : (s.retireTo pc).batchIssued = s.batchIssued := rfl
@[simp] theorem State.retireTo_engineIssued : (s.retireTo pc).engineIssued = s.engineIssued := rfl
@[simp] theorem State.retireTo_collWait : (s.retireTo pc).collWait = s.collWait := rfl
@[simp] theorem State.retireTo_colls : (s.retireTo pc).colls = s.colls := rfl
@[simp] theorem State.retireTo_linkGroup : (s.retireTo pc).linkGroup = s.linkGroup := rfl
@[simp] theorem State.retireTo_dieErrors : (s.retireTo pc).dieErrors = s.dieErrors := rfl
@[simp] theorem State.retireTo_pfVfSel : (s.retireTo pc).pfVfSel = s.pfVfSel := rfl
@[simp] theorem State.retireTo_pfErr : (s.retireTo pc).pfErr = s.pfErr := rfl
@[simp] theorem State.retireTo_pfErrRead : (s.retireTo pc).pfErrRead = s.pfErrRead := rfl
@[simp] theorem State.retireTo_pfPsSel : (s.retireTo pc).pfPsSel = s.pfPsSel := rfl
@[simp] theorem State.retireTo_pfPsVbase : (s.retireTo pc).pfPsVbase = s.pfPsVbase := rfl
@[simp] theorem State.retireTo_pfPsLen : (s.retireTo pc).pfPsLen = s.pfPsLen := rfl
@[simp] theorem State.retireTo_pfPsB0 : (s.retireTo pc).pfPsB0 = s.pfPsB0 := rfl
@[simp] theorem State.retireTo_pfPsB1 : (s.retireTo pc).pfPsB1 = s.pfPsB1 := rfl
@[simp] theorem State.retireTo_pfRepSel : (s.retireTo pc).pfRepSel = s.pfRepSel := rfl
@[simp] theorem State.retireTo_pfPcap : (s.retireTo pc).pfPcap = s.pfPcap := rfl
@[simp] theorem State.retireTo_pfGov : (s.retireTo pc).pfGov = s.pfGov := rfl
@[simp] theorem State.retireTo_pfGov2Down : (s.retireTo pc).pfGov2Down = s.pfGov2Down := rfl
@[simp] theorem State.retireTo_pfGov2Idle : (s.retireTo pc).pfGov2Idle = s.pfGov2Idle := rfl
end

section
variable (size : Nat)
@[simp] theorem State.retireScalar_agenda : (s.retireScalar size).agenda = s.agenda := rfl
@[simp] theorem State.retireScalar_freeCount : (s.retireScalar size).freeCount = s.freeCount := rfl
@[simp] theorem State.retireScalar_cur : (s.retireScalar size).cur = s.cur := rfl
@[simp] theorem State.retireScalar_grp : (s.retireScalar size).grp = s.grp := rfl
@[simp] theorem State.retireScalar_frag : (s.retireScalar size).frag = s.frag := rfl
@[simp] theorem State.retireScalar_head : (s.retireScalar size).head = s.head := rfl
@[simp] theorem State.retireScalar_power : (s.retireScalar size).power = s.power := rfl
@[simp] theorem State.retireScalar_recovery : (s.retireScalar size).recovery = s.recovery := rfl
@[simp] theorem State.retireScalar_mailbox : (s.retireScalar size).mailbox = s.mailbox := rfl
@[simp] theorem State.retireScalar_bringUpDone : (s.retireScalar size).bringUpDone = s.bringUpDone := rfl
@[simp] theorem State.retireScalar_linkUp : (s.retireScalar size).linkUp = s.linkUp := rfl
@[simp] theorem State.retireScalar_mem : (s.retireScalar size).mem = s.mem := rfl
@[simp] theorem State.retireScalar_hostMem : (s.retireScalar size).hostMem = s.hostMem := rfl
@[simp] theorem State.retireScalar_hostOut : (s.retireScalar size).hostOut = s.hostOut := rfl
@[simp] theorem State.retireScalar_hostNoAtomic : (s.retireScalar size).hostNoAtomic = s.hostNoAtomic := rfl
@[simp] theorem State.retireScalar_teams : (s.retireScalar size).teams = s.teams := rfl
@[simp] theorem State.retireScalar_nextTeam : (s.retireScalar size).nextTeam = s.nextTeam := rfl
@[simp] theorem State.retireScalar_launches : (s.retireScalar size).launches = s.launches := rfl
@[simp] theorem State.retireScalar_nextLaunch : (s.retireScalar size).nextLaunch = s.nextLaunch := rfl
@[simp] theorem State.retireScalar_vfs : (s.retireScalar size).vfs = s.vfs := rfl
@[simp] theorem State.retireScalar_hdrCache : (s.retireScalar size).hdrCache = s.hdrCache := rfl
@[simp] theorem State.retireScalar_msix : (s.retireScalar size).msix = s.msix := rfl
@[simp] theorem State.retireScalar_cores : (s.retireScalar size).cores = s.cores := rfl
@[simp] theorem State.retireScalar_clusters : (s.retireScalar size).clusters = s.clusters := rfl
@[simp] theorem State.retireScalar_heads : (s.retireScalar size).heads = s.heads := rfl
@[simp] theorem State.retireScalar_coreMap : (s.retireScalar size).coreMap = s.coreMap := rfl
@[simp] theorem State.retireScalar_channelMap : (s.retireScalar size).channelMap = s.channelMap := rfl
@[simp] theorem State.retireScalar_stackMap : (s.retireScalar size).stackMap = s.stackMap := rfl
@[simp] theorem State.retireScalar_measured : (s.retireScalar size).measured = s.measured := rfl
@[simp] theorem State.retireScalar_spdm : (s.retireScalar size).spdm = s.spdm := rfl
@[simp] theorem State.retireScalar_badCoprocessors : (s.retireScalar size).badCoprocessors = s.badCoprocessors := rfl
@[simp] theorem State.retireScalar_epoch : (s.retireScalar size).epoch = s.epoch := rfl
@[simp] theorem State.retireScalar_redQueues : (s.retireScalar size).redQueues = s.redQueues := rfl
@[simp] theorem State.retireScalar_ringStep : (s.retireScalar size).ringStep = s.ringStep := rfl
@[simp] theorem State.retireScalar_ringIssued : (s.retireScalar size).ringIssued = s.ringIssued := rfl
@[simp] theorem State.retireScalar_ringRev : (s.retireScalar size).ringRev = s.ringRev := rfl
@[simp] theorem State.retireScalar_slots : (s.retireScalar size).slots = s.slots := rfl
@[simp] theorem State.retireScalar_ringLeft : (s.retireScalar size).ringLeft = s.ringLeft := rfl
@[simp] theorem State.retireScalar_batchIssued : (s.retireScalar size).batchIssued = s.batchIssued := rfl
@[simp] theorem State.retireScalar_engineIssued : (s.retireScalar size).engineIssued = s.engineIssued := rfl
@[simp] theorem State.retireScalar_collWait : (s.retireScalar size).collWait = s.collWait := rfl
@[simp] theorem State.retireScalar_colls : (s.retireScalar size).colls = s.colls := rfl
@[simp] theorem State.retireScalar_linkGroup : (s.retireScalar size).linkGroup = s.linkGroup := rfl
@[simp] theorem State.retireScalar_dieErrors : (s.retireScalar size).dieErrors = s.dieErrors := rfl
@[simp] theorem State.retireScalar_pfVfSel : (s.retireScalar size).pfVfSel = s.pfVfSel := rfl
@[simp] theorem State.retireScalar_pfErr : (s.retireScalar size).pfErr = s.pfErr := rfl
@[simp] theorem State.retireScalar_pfErrRead : (s.retireScalar size).pfErrRead = s.pfErrRead := rfl
@[simp] theorem State.retireScalar_pfPsSel : (s.retireScalar size).pfPsSel = s.pfPsSel := rfl
@[simp] theorem State.retireScalar_pfPsVbase : (s.retireScalar size).pfPsVbase = s.pfPsVbase := rfl
@[simp] theorem State.retireScalar_pfPsLen : (s.retireScalar size).pfPsLen = s.pfPsLen := rfl
@[simp] theorem State.retireScalar_pfPsB0 : (s.retireScalar size).pfPsB0 = s.pfPsB0 := rfl
@[simp] theorem State.retireScalar_pfPsB1 : (s.retireScalar size).pfPsB1 = s.pfPsB1 := rfl
@[simp] theorem State.retireScalar_pfRepSel : (s.retireScalar size).pfRepSel = s.pfRepSel := rfl
@[simp] theorem State.retireScalar_pfPcap : (s.retireScalar size).pfPcap = s.pfPcap := rfl
@[simp] theorem State.retireScalar_pfGov : (s.retireScalar size).pfGov = s.pfGov := rfl
@[simp] theorem State.retireScalar_pfGov2Down : (s.retireScalar size).pfGov2Down = s.pfGov2Down := rfl
@[simp] theorem State.retireScalar_pfGov2Idle : (s.retireScalar size).pfGov2Idle = s.pfGov2Idle := rfl
end

/-! ### Reading what an update changed -/

@[simp] theorem State.vf_onVf (k j : Nat) (f : Vf → Vf) : (s.onVf k f).vf j = if j = k then f (s.vf k) else s.vf j :=
  Store.get_set _ s.vfs k j _
@[simp] theorem State.core_onCore (k j : Nat) (f : Core → Core) : (s.onCore k f).core j = if j = k then f (s.core k) else s.core j :=
  Store.get_set _ s.cores k j _
@[simp] theorem State.cluster_onCluster (k j : Nat) (f : Cluster → Cluster) :
    (s.onCluster k f).cluster j = if j = k then f (s.cluster k) else s.cluster j :=
  Store.get_set _ s.clusters k j _
@[simp] theorem State.launch_onLaunch (k j : Nat) (f : Launch → Launch) :
    (s.onLaunch k f).launch j = if j = k then f (s.launch k) else s.launch j :=
  Store.get_set _ s.launches k j _
theorem State.ctx_onCtx (v k w j : Nat) (f : Context → Context) :
    (s.onCtx v k f).ctx w j = if w = v ∧ j = k then f (s.ctx v k) else s.ctx w j := by
  unfold State.ctx State.onCtx
  rw [State.vf_onVf]
  by_cases h : w = v
  · subst h; simp [Store.get_set]
  · simp [h]

/-- A free value is the next of its purpose. -/
@[simp] theorem State.free_value (p : Nat) : (s.free p).2 = Config.free p s.freeCount := rfl
@[simp] theorem State.free_freeCount (p : Nat) : (s.free p).1.freeCount = s.freeCount + 1 := rfl
@[simp] theorem State.wait_waited : s.wait.cur.waited = true := rfl
@[simp] theorem State.retire_pc (size : Nat) : (s.retire size).frag.pc = s.frag.pc + BitVec.ofNat 64 size := rfl
@[simp] theorem State.retireTo_pc (pc : W64) : (s.retireTo pc).frag.pc = pc := rfl
@[simp] theorem State.retireScalar_spc (size : Nat) : (s.retireScalar size).team.spc = s.team.spc + BitVec.ofNat 64 size := rfl

/-! ### The focus -/

/-- Ending the focus leaves nothing in focus. -/
theorem State.unfocus_focusFields : s.unfocus.cur = {} ∧ s.unfocus.team = {} ∧ s.unfocus.grp = {} ∧ s.unfocus.frag = {} ∧ s.unfocus.head = {} :=
  ⟨rfl, rfl, rfl, rfl, rfl⟩

/-- Writing back what is in focus changes the teams, the heads and the copies in focus alone. -/
theorem State.flush_frame : s.flush = { s with team := s.flush.team, grp := s.flush.grp, teams := s.flush.teams, heads := s.flush.heads } := by
  unfold State.flush
  split <;> rfl

/-- Reading back what is in focus changes the copies in focus alone. -/
theorem State.reload_frame :
    s.reload = { s with team := s.reload.team, grp := s.reload.grp, frag := s.reload.frag, head := s.reload.head } := by
  unfold State.reload
  split <;> rfl

/-- Changing a team changes the teams, the heads and the copies in focus alone. -/
theorem State.onTeam_frame (u : Nat) (f : Team → Team) :
    s.onTeam u f = { s with
      team := (s.onTeam u f).team, grp := (s.onTeam u f).grp, frag := (s.onTeam u f).frag, head := (s.onTeam u f).head,
      teams := (s.onTeam u f).teams, heads := (s.onTeam u f).heads } := by
  unfold State.onTeam State.flush State.reload
  cases h : s.cur.stream <;> simp [h]

/-- With nothing in focus, the team that was changed reads as changed, and every other as before. -/
theorem State.teamOf_onTeam (h : s.cur.stream = .none) (u w : Nat) (f : Team → Team) :
    (s.onTeam u f).teamOf w = if w = u then f (s.teamOf u) else s.teamOf w := by
  simp only [State.onTeam, State.teamOf, State.flush, State.reload, h]
  exact Store.get_set _ s.teams u w _

/-! ### Registers of the scalar streams -/

/-- A write of an s register changes the s registers of the stream in focus alone. -/
theorem State.ws_frame (n : Nat) (x : W64) :
    s.ws n x = { s with team := { s.team with s := (s.ws n x).team.s }, head := { s.head with s := (s.ws n x).head.s } } := by
  unfold State.ws
  split
  · rfl
  · split <;> rfl

/-- An s register after a write: s0 reads as zero and takes none (02 R47). -/
@[simp] theorem State.rs_ws (n r : Nat) (x : W64) : (s.ws n x).rs r = if r = n ∧ r ≠ 0 then x else s.rs r := by
  unfold State.ws State.rs
  by_cases hn : n = 0
  · subst hn; by_cases hr : r = 0 <;> simp [hr]
  · cases h : s.cur.stream <;> by_cases hr : r = 0 <;> simp [hn, hr, h, Store.get_set]

end Sys2Proof.Machine
end

