-- ==== Sys2Proof/Laws/Lanes.lean ====
section
/-! SUPPORT. Laws of the lane registers and of the shapes of register instructions: what each shared operation does, said
once. -/

namespace Sys2Proof.Machine
open Sys2Proof

/-- A lane after a write of the lanes of a mask. -/
theorem State.lane_wv (s : State) (r : Nat) (m : Mask) (f : Nat → W32) (q l : Nat) (h : l < 96) :
    (s.wv r m f).lane q l = if m.getLsbD l ∧ q = r then f l else s.lane q l := by
  unfold State.lane State.wv State.rv
  by_cases hq : q = r
  · subst hq
    simp [Store.get_set_self, blend, Vector.getD, h, Vector.get]
  · simp [Store.get_set_ne _ _ _ hq, hq]

/-- What a write of 32-bit values or pairs leaves in the lanes. -/
theorem State.lane_wlanes (s : State) (wide : Bool) (d : Nat) (m : Mask) (f : Nat → Nat) :
    LanesWritten s (s.wlanes wide d m f) m d wide f := by
  intro r l h
  unfold State.wlanes
  cases wide
  · simp [State.lane_wv _ _ _ _ _ _ h]
  · simp only [if_true, State.lane_wv _ _ _ _ _ _ h]
    by_cases hm : m.getLsbD l <;> by_cases h1 : r = d <;> by_cases h2 : r = d + 1 <;> simp [hm, h1, h2]

/-- A write of v registers changes nothing but the v registers of the group in focus. -/
theorem State.wlanes_frame (s : State) (wide : Bool) (d : Nat) (m : Mask) (f : Nat → Nat) :
    s.wlanes wide d m f = { s with grp := { s.grp with v := (s.wlanes wide d m f).grp.v } } := by
  cases wide <;> rfl

/-- A short-latency result, with flags, completes an instruction. -/
theorem laneDone_flags (s : State) (size : Nat) (m : Mask) (d : Nat) (wide : Bool) (f : Nat → Nat) (fl : W32) :
    LaneDone s (((s.wlanes wide d m f).orFlags fl).retire size) size m d wide f fl := by
  have h := State.lane_wlanes s wide d m f
  refine ⟨?_, ?_, ?_, fun a => ⟨?_, ?_⟩⟩
  · cases wide <;> rfl
  · cases wide <;> rfl
  · intro r l hl
    exact h r l hl
  · cases wide <;> rfl
  · cases wide <;> rfl

theorem orFlags_zero (s : State) : s.orFlags 0 = s := by simp [State.orFlags]

/-- A short-latency result completes an instruction. -/
theorem laneDone_pure (s : State) (size : Nat) (m : Mask) (d : Nat) (wide : Bool) (f : Nat → Nat) :
    LaneDone s ((s.wlanes wide d m f).retire size) size m d wide f 0 := by
  have h := laneDone_flags s size m d wide f 0
  rwa [orFlags_zero] at h

/-- A lane instruction that passes its decode checks has its effect. -/
theorem laneExec_ok {i : Instr} {o : LOp} {s : State} {e : State → State} (h : s.laneCheck i o = none) :
    laneExec i o s e = .next (e s) := by
  simp [laneExec, h]

/-- A register instruction of group code gives its result. -/
theorem lanePure_gives {i : Instr} {o : LOp} {s : State} {wide : Bool} {f : Nat → Nat} (h : s.laneCheck i o = none) :
    ∃ t, lanePure i o s wide f = .next t ∧ LaneDone s t i.size (s.enabled o) o.d.toNat wide f 0 :=
  ⟨_, laneExec_ok h, laneDone_pure s i.size (s.enabled o) o.d.toNat wide f⟩

/-- An instruction that is lanePure gives its result. -/
theorem laneGives_of_pure {i : Instr} {o : LOp} {wide : Bool} {f : State → Nat → Nat}
    (h : ∀ s, exec i s = lanePure i o s wide (f s)) : LaneGives i o wide f := by
  intro s hs
  rw [h]
  exact lanePure_gives hs

/-- The same for an instruction with a short form. -/
theorem bothGive_of_pure {long : LOp → Instr} {short : L32 → Instr} {wide : BitVec 4 → Bool} {f : LOp → State → Nat → Nat}
    (h1 : ∀ o s, exec (long o) s = lanePure (long o) o s (wide o.f) (f o s))
    (h2 : ∀ (w : L32) s, w.g = false → exec (short w) s = lanePure (short w) w.toLOp s (wide w.f) (f w.toLOp s)) :
    BothGive long short wide f :=
  ⟨fun o => laneGives_of_pure (h1 o), fun w hg s hs => by rw [h2 w s hg]; exact lanePure_gives hs⟩

/-! ### g registers -/

theorem State.rg_wg (s : State) (n r : Nat) (x : W32) (h : 3 ≤ n) :
    (s.wg n x).rg r = if r = n then x else s.rg r := by
  unfold State.rg State.wg
  by_cases h3 : r < 3
  · have h4 : r ≠ n := by omega
    simp [h3, h4]
  · simp [h3, Store.get_set]

theorem State.wg_frame (s : State) (n : Nat) (x : W32) :
    s.wg n x = { s with grp := { s.grp with g := (s.wg n x).grp.g } } := rfl

/-- Past the mask words, a write of a g register or pair writes its words. -/
theorem State.writeGVal_high (s : State) (wide : Bool) (d x : Nat) (hd : 3 ≤ d) :
    s.writeGVal wide d x
      = if wide then (s.wg d (BitVec.ofNat 32 x)).wg (d + 1) (BitVec.ofNat 32 (x / 2 ^ 32)) else s.wg d (BitVec.ofNat 32 x) := by
  have h1 : ¬d < 3 := by omega
  have h2 : ¬d + 1 < 3 := by omega
  cases wide <;> simp [State.writeGVal, State.writeG, h1, h2]

/-- A fragment that keeps its slot has issued plainly. -/
theorem State.issued_valid (s t : State) (h : t.frag.valid = true) : s.issued t = t := by simp [State.issued, h]

/-- A G = 1 form whose destination is no mask word completes with its value. -/
theorem gExec_gives {i : Instr} {s : State} {wide : Bool} {d x : Nat} (hd : 3 ≤ d) (hv : s.frag.valid = true) (hs : i.size = 4) :
    ∃ t, gExec i s wide d x = .next t
      ∧ t = { s with grp := { s.grp with g := t.grp.g }, frag := t.frag }
      ∧ Went s t (s.frag.pc + 4) ∧ SameMemory s t
      ∧ ∀ r, t.rg r = if r = d then BitVec.ofNat 32 x
          else if wide = true ∧ r = d + 1 then BitVec.ofNat 32 (x / 2 ^ 32) else s.rg r := by
  have h1 : ¬d < 3 := by omega
  unfold gExec
  rw [State.writeGVal_high s wide d x hd]
  simp only [h1, false_and, if_false]
  cases wide
  · rw [State.issued_valid _ _ (by exact hv)]
    refine ⟨_, rfl, rfl, ?_, fun a => ⟨rfl, rfl⟩, fun r => ?_⟩
    · simp [Went, hs, State.retire, State.wg, tickWindows]
    · show (s.wg d _).rg r = _
      simp [State.rg_wg _ _ _ _ hd]
  · rw [State.issued_valid _ _ (by exact hv)]
    refine ⟨_, rfl, rfl, ?_, fun a => ⟨rfl, rfl⟩, fun r => ?_⟩
    · simp [Went, hs, State.retire, State.wg, tickWindows]
    · show ((s.wg d _).wg (d + 1) _).rg r = _
      rw [State.rg_wg _ _ _ _ (by omega), State.rg_wg _ _ _ _ hd]
      by_cases h3 : r = d
      · subst h3; simp
      · simp [h3]

/-- An instruction whose G = 1 form is gExec gives its value. -/
theorem groupGives_of_gExec {short : L32 → Instr} {wide : BitVec 4 → Bool} {f : L32 → State → Nat}
    (hs : ∀ w, (short w).size = 4)
    (h : ∀ (w : L32) s, w.g = true → exec (short w) s = gExec (short w) s (wide w.f) w.d.toNat (f w s)) : GroupGives short wide f := by
  intro w s hg hd hv
  rw [h w s hg]
  exact gExec_gives hd hv (hs w)

/-! ### Predicate triples -/

theorem State.triple_wtriple (s : State) (k : Nat) (m x : Mask) (hk : 1 ≤ k) (l : Nat) (hl : l < 96) :
    ((s.wtriple k m x).triple k).getLsbD l = if m.getLsbD l then x.getLsbD l else (s.triple k).getLsbD l := by
  have e : (s.wtriple k m x).triple k = (s.triple k &&& ~~~m) ||| (x &&& m) := by
    unfold State.wtriple
    generalize (s.triple k &&& ~~~m) ||| (x &&& m) = v
    unfold State.triple
    simp only [State.rg_wg _ _ _ _ (show 3 ≤ 3 * k by omega), State.rg_wg _ _ _ _ (show 3 ≤ 3 * k + 1 by omega),
      State.rg_wg _ _ _ _ (show 3 ≤ 3 * k + 2 by omega)]
    have h1 : 3 * k + 1 ≠ 3 * k + 2 := by omega
    have h2 : 3 * k ≠ 3 * k + 2 := by omega
    have h3 : 3 * k ≠ 3 * k + 1 := by omega
    simp only [h1, h2, h3, if_false, if_true, maskWord]
    apply BitVec.eq_of_getLsbD_eq
    intro i hi
    simp only [BitVec.getLsbD_append, BitVec.getLsbD_extractLsb']
    by_cases a1 : i < 32
    · simp [a1]
    · by_cases a2 : i - 32 < 32
      · simp [a1, a2]; congr 1; omega
      · have a3 : i - 32 - 32 < 32 := by omega
        simp [a1, a2, a3]; congr 1; omega
  rw [e]
  by_cases hm : m.getLsbD l <;> simp [hm]
  all_goals simp_all [BitVec.getLsbD_eq_getElem]

theorem State.rg_wtriple (s : State) (k : Nat) (m x : Mask) (hk : 1 ≤ k) (r : Nat) (hr : r / 3 ≠ k) :
    (s.wtriple k m x).rg r = s.rg r := by
  unfold State.wtriple
  simp only [State.rg_wg _ _ _ _ (show 3 ≤ 3 * k by omega), State.rg_wg _ _ _ _ (show 3 ≤ 3 * k + 1 by omega),
    State.rg_wg _ _ _ _ (show 3 ≤ 3 * k + 2 by omega)]
  have h1 : r ≠ 3 * k + 2 := by omega
  have h2 : r ≠ 3 * k := by omega
  have h3 : r ≠ 3 * k + 1 := by omega
  simp [h1, h2, h3]

end Sys2Proof.Machine
end

