-- ==== Sys2Proof/Laws/Memory.lean ====
section
/-! SUPPORT. Laws of the accesses to device and host memory: what each may change, that each keeps the canonical form, and
what bytes read as afterwards (07 R167-R169, R203). -/

namespace Sys2Proof.Machine
open Sys2Proof

/-- Memory after reset is in canonical form. -/
theorem reset_memoryOk : State.reset.MemoryOk := ⟨rfl, rfl⟩

/-- Changes of device memory and the write queues alone, one after the other. -/
theorem devFrame_trans {s t u : State} (h1 : t = { s with mem := t.mem, redQueues := t.redQueues })
    (h2 : u = { t with mem := u.mem, redQueues := u.redQueues }) : u = { s with mem := u.mem, redQueues := u.redQueues } :=
  h2.trans (by rw [h1])

/-- Changes of memory and the write queues alone, one after the other. -/
theorem memFrame_trans {s t u : State} (h1 : t = { s with mem := t.mem, hostMem := t.hostMem, redQueues := t.redQueues })
    (h2 : u = { t with mem := u.mem, hostMem := u.hostMem, redQueues := u.redQueues }) :
    u = { s with mem := u.mem, hostMem := u.hostMem, redQueues := u.redQueues } :=
  h2.trans (by rw [h1])

/-! ### The home slices' write queues -/

theorem RedEntry.apply_wf (e : RedEntry) {m : Store Byte} (c : Memory.wf m = true) : Memory.wf (e.apply m) = true := by
  unfold RedEntry.apply
  induction e.partials generalizing m with
  | nil => exact c
  | cons p ps ih => exact ih (writeBytes_wf c _ _ _)

/-- Draining a line changes device memory and the write queues alone. -/
theorem State.drainLine_frame (s : State) (line : Nat) :
    s.drainLine line = { s with mem := (s.drainLine line).mem, redQueues := (s.drainLine line).redQueues } := by
  unfold State.drainLine
  dsimp only
  split <;> rfl

theorem State.drainLine_wf {s : State} (c : Memory.wf s.mem = true) (line : Nat) : Memory.wf (s.drainLine line).mem = true := by
  unfold State.drainLine
  dsimp only
  split
  · exact c
  · exact RedEntry.apply_wf _ c

theorem State.drain_frame (s : State) (pa n : Nat) :
    s.drain pa n = { s with mem := (s.drain pa n).mem, redQueues := (s.drain pa n).redQueues } := by
  unfold State.drain
  split
  · rfl
  · next h =>
    clear h
    generalize List.range _ = ls
    induction ls generalizing s with
    | nil => rfl
    | cons i ls ih => exact devFrame_trans (State.drainLine_frame s _) (ih _)

theorem State.drain_wf {s : State} (c : Memory.wf s.mem = true) (pa n : Nat) : Memory.wf (s.drain pa n).mem = true := by
  unfold State.drain
  split
  · exact c
  · next h =>
    clear h
    generalize List.range _ = ls
    induction ls generalizing s with
    | nil => exact c
    | cons i ls ih => exact ih (State.drainLine_wf c _)

/-- With no reduction pending, a drain changes nothing. -/
@[simp] theorem State.drain_none {s : State} (h : s.redQueues = []) (pa n : Nat) : s.drain pa n = s := by simp [State.drain, h]

/-! ### One location -/

theorem State.loadLoc_frame (s : State) (l : Loc) (n : Nat) :
    (s.loadLoc l n).1 = { s with mem := (s.loadLoc l n).1.mem, redQueues := (s.loadLoc l n).1.redQueues } := by
  cases l with
  | dev a => exact State.drain_frame s a n
  | host a => rfl

theorem State.loadLoc_ok {s : State} (c : s.MemoryOk) (l : Loc) (n : Nat) : (s.loadLoc l n).1.MemoryOk := by
  cases l with
  | dev a => exact ⟨State.drain_wf c.1 a n, by
      show Memory.wf (s.drain a n).hostMem = true
      rw [State.drain_frame s a n]; exact c.2⟩
  | host a => exact c

/-- A store to a location changes memory and the write queues alone. -/
theorem State.storeLoc_frame (s : State) (l : Loc) (n x : Nat) :
    s.storeLoc l n x =
      { s with mem := (s.storeLoc l n x).mem, hostMem := (s.storeLoc l n x).hostMem, redQueues := (s.storeLoc l n x).redQueues } := by
  cases l with
  | dev a =>
    simp only [State.storeLoc]
    rw [State.drain_frame s a n]
  | host a => rfl

theorem State.storeLoc_ok {s : State} (c : s.MemoryOk) (l : Loc) (n x : Nat) : (s.storeLoc l n x).MemoryOk := by
  cases l with
  | dev a => exact ⟨writeBytes_wf (State.drain_wf c.1 a n) _ _ _, by
      show Memory.wf (s.drain a n).hostMem = true
      rw [State.drain_frame s a n]; exact c.2⟩
  | host a => exact ⟨c.1, writeBytes_wf c.2 _ _ _⟩

/-- With no reduction pending, the bytes stored to read as stored, and every other byte of memory as before. -/
theorem State.storeLoc_bytes {s : State} (h : s.redQueues = []) (l : Loc) (n x b : Nat) :
    readByte (s.storeLoc l n x).mem b
        = (match l with
          | .dev a => if a ≤ b ∧ b < a + n then BitVec.ofNat 8 (x / 256 ^ (b - a)) else readByte s.mem b
          | .host _ => readByte s.mem b)
    ∧ readByte (s.storeLoc l n x).hostMem b
        = (match l with
          | .dev _ => readByte s.hostMem b
          | .host a => if a ≤ b ∧ b < a + n then BitVec.ofNat 8 (x / 256 ^ (b - a)) else readByte s.hostMem b) := by
  cases l with
  | dev a =>
    simp only [State.storeLoc, State.drain_none h]
    exact ⟨readByte_writeBytes _ _ _ _ _, trivial⟩
  | host a => exact ⟨rfl, readByte_writeBytes _ _ _ _ _⟩

theorem State.storeLoc_redQueues {s : State} (h : s.redQueues = []) (l : Loc) (n x : Nat) : (s.storeLoc l n x).redQueues = [] := by
  cases l with
  | dev a => simp only [State.storeLoc, State.drain_none h, h]
  | host a => exact h

/-! ### Translated parts -/

theorem State.loadParts_frame (s : State) (ps : List (Loc × Nat)) :
    (s.loadParts ps).1 = { s with mem := (s.loadParts ps).1.mem, redQueues := (s.loadParts ps).1.redQueues } := by
  induction ps generalizing s with
  | nil => rfl
  | cons p ps ih =>
    obtain ⟨l, n⟩ := p
    exact devFrame_trans (State.loadLoc_frame s l n) (ih _)

/-- With no reduction pending, reading parts changes nothing. -/
theorem State.loadParts_same {s : State} (h : s.redQueues = []) (ps : List (Loc × Nat)) : (s.loadParts ps).1 = s := by
  induction ps with
  | nil => rfl
  | cons p ps ih =>
    obtain ⟨l, n⟩ := p
    cases l <;> simp only [State.loadParts, State.loadLoc, State.drain_none h, ih]

theorem State.loadParts_ok {s : State} (c : s.MemoryOk) (ps : List (Loc × Nat)) : (s.loadParts ps).1.MemoryOk := by
  induction ps generalizing s with
  | nil => exact c
  | cons p ps ih => exact ih (State.loadLoc_ok c p.1 p.2)

theorem State.storeParts_frame (s : State) (ps : List (Loc × Nat)) (x : Nat) :
    s.storeParts ps x =
      { s with mem := (s.storeParts ps x).mem, hostMem := (s.storeParts ps x).hostMem, redQueues := (s.storeParts ps x).redQueues } := by
  induction ps generalizing s x with
  | nil => rfl
  | cons p ps ih =>
    obtain ⟨l, n⟩ := p
    exact memFrame_trans (State.storeLoc_frame s l n _) (ih _ _)

theorem State.storeParts_ok {s : State} (c : s.MemoryOk) (ps : List (Loc × Nat)) (x : Nat) : (s.storeParts ps x).MemoryOk := by
  induction ps generalizing s x with
  | nil => exact c
  | cons p ps ih => exact ih (State.storeLoc_ok c p.1 p.2 _) _

/-- With no reduction pending, a byte outside the parts reads as before. -/
theorem State.storeParts_outside {s : State} (h : s.redQueues = []) (ps : List (Loc × Nat)) (x b : Nat) :
    (¬covers ps .dev b → readByte (s.storeParts ps x).mem b = readByte s.mem b)
    ∧ (¬covers ps .host b → readByte (s.storeParts ps x).hostMem b = readByte s.hostMem b) := by
  induction ps generalizing s x with
  | nil => exact ⟨fun _ => rfl, fun _ => rfl⟩
  | cons p ps ih =>
    obtain ⟨l, n⟩ := p
    have step := ih (State.storeLoc_redQueues h l n (x % 2 ^ (8 * n))) (x / 2 ^ (8 * n))
    have first := State.storeLoc_bytes h l n (x % 2 ^ (8 * n)) b
    refine ⟨fun hc => ?_, fun hc => ?_⟩
    · have hr : ¬covers ps .dev b := fun ⟨q, hq, e⟩ => hc ⟨q, List.mem_cons_of_mem _ hq, e⟩
      refine (step.1 hr).trans (first.1.trans ?_)
      cases l with
      | host a => rfl
      | dev a => exact if_neg fun e => hc ⟨(.dev a, n), List.mem_cons_self .., e⟩
    · have hr : ¬covers ps .host b := fun ⟨q, hq, e⟩ => hc ⟨q, List.mem_cons_of_mem _ hq, e⟩
      refine (step.2 hr).trans (first.2.trans ?_)
      cases l with
      | dev a => rfl
      | host a => exact if_neg fun e => hc ⟨(.host a, n), List.mem_cons_self .., e⟩

/-! ### Virtual addresses -/

/-- What a load at a virtual address that completes does: it changes device memory and the write queues alone, by drains,
and keeps the canonical form. -/
theorem State.loadVa_next {s t : State} {vf ctx : Nat} {a : Acc} {va : W64} {n x : Nat} (h : s.loadVa vf ctx a va n = .ok (t, x)) :
    t = { s with mem := t.mem, redQueues := t.redQueues } ∧ (s.MemoryOk → t.MemoryOk) := by
  unfold State.loadVa at h
  split at h
  · cases h
  · next ps _ =>
    injection h with h
    have e : t = (s.loadParts ps).1 := by rw [h]
    rw [e]
    exact ⟨State.loadParts_frame s ps, fun c => State.loadParts_ok c ps⟩

/-- With no reduction pending, a load changes nothing. -/
theorem State.loadVa_same {s t : State} {vf ctx : Nat} {a : Acc} {va : W64} {n x : Nat} (hq : s.redQueues = [])
    (h : s.loadVa vf ctx a va n = .ok (t, x)) : t = s := by
  unfold State.loadVa at h
  split at h
  · cases h
  · injection h with h
    exact (congrArg Prod.fst h).symm.trans (State.loadParts_same hq _)

/-- What a store at a virtual address that completes does: it changes memory and the write queues alone, keeps the canonical
form, and with no reduction pending leaves every byte outside the translated parts as it was. -/
theorem State.storeVa_next {s t : State} {vf ctx : Nat} {a : Acc} {va : W64} {n x : Nat} (h : s.storeVa vf ctx a va n x = .ok t) :
    t = { s with mem := t.mem, hostMem := t.hostMem, redQueues := t.redQueues } ∧ (s.MemoryOk → t.MemoryOk)
    ∧ ∃ ps, s.xlateRange vf ctx a va n = .ok ps ∧ t = s.storeParts ps x
      ∧ (s.redQueues = [] → ∀ b, (¬covers ps .dev b → readByte t.mem b = readByte s.mem b)
          ∧ (¬covers ps .host b → readByte t.hostMem b = readByte s.hostMem b)) := by
  unfold State.storeVa at h
  split at h
  · cases h
  · next ps hp =>
    injection h with h
    subst h
    exact ⟨State.storeParts_frame s ps x, fun c => State.storeParts_ok c ps x, ps, hp, rfl,
      fun hq b => State.storeParts_outside hq ps x b⟩

end Sys2Proof.Machine
end

