-- ==== Sys2Proof/Laws/Windows.lean ====
section
/-! SUPPORT. Laws of lookahead windows, traps, predicate results, floating instructions and scalar instructions: what each
shared operation does, said once (02 R47, R49, R50; 04 R96; 06 R153-R155). -/

namespace Sys2Proof.Machine
open Sys2Proof

/-! ### Windows -/

/-- A window's register writes change the v registers of the group in focus alone. -/
theorem State.writes_frame (s : State) (ws : List (Nat × Mask × LaneVec)) :
    ws.foldl (fun s x => s.wv x.1 x.2.1 fun l => x.2.2.getD l 0) s
      = { s with grp := { s.grp with v := (ws.foldl (fun s x => s.wv x.1 x.2.1 fun l => x.2.2.getD l 0) s).grp.v } } := by
  induction ws generalizing s with
  | nil => rfl
  | cons w ws ih => exact (ih _).trans rfl

/-- The lanes after a window's register writes. -/
theorem State.lane_writes (s : State) (ws : List (Nat × Mask × LaneVec)) (r l : Nat) (h : l < 96) :
    (ws.foldl (fun s x => s.wv x.1 x.2.1 fun l => x.2.2.getD l 0) s).lane r l = afterWrites ws r l (s.lane r l) := by
  unfold afterWrites
  induction ws generalizing s with
  | nil => rfl
  | cons w ws ih =>
    simp only [List.foldl_cons]
    rw [ih, State.lane_wv _ _ _ _ _ _ h]
    congr 1
    by_cases hm : w.2.1.getLsbD l <;> by_cases hr : r = w.1 <;> simp [hm, hr, eq_comm]

/-- Writing a window changes the v registers and FPCTL of the group, and MBND and MSTAT for a readout. -/
theorem State.writeWindow_frame (s : State) (w : Window) :
    s.writeWindow w = { s with
      grp := { s.grp with v := (s.writeWindow w).grp.v, fpctl := s.grp.fpctl ||| w.flags },
      team := match w.readout with | some r => { s.team with mbnd := r.1, mstat := s.team.mstat ||| r.2 } | none => s.team } := by
  unfold State.writeWindow State.orFlags
  dsimp only
  rw [State.writes_frame]
  cases w.readout <;> rfl

theorem State.lane_writeWindow (s : State) (w : Window) (r l : Nat) (h : l < 96) :
    (s.writeWindow w).lane r l = afterWrites w.writes r l (s.lane r l) := by
  rw [← State.lane_writes s w.writes r l h]
  unfold State.writeWindow State.orFlags
  dsimp only
  cases w.readout <;> rfl

/-- Closing every window changes v registers, FPCTL, MBND and MSTAT, and leaves the fragment without windows. -/
theorem State.closeAll_frame (s : State) :
    s.closeAll = { s with
      grp := { s.grp with v := s.closeAll.grp.v, fpctl := s.closeAll.grp.fpctl },
      team := { s.team with mbnd := s.closeAll.team.mbnd, mstat := s.closeAll.team.mstat }, frag := { s.frag with windows := [] } } := by
  unfold State.closeAll
  suffices h : ∀ (ws : List Window) (u : State),
      ws.foldl State.writeWindow u = { u with
        grp := { u.grp with v := (ws.foldl State.writeWindow u).grp.v, fpctl := (ws.foldl State.writeWindow u).grp.fpctl },
        team := { u.team with mbnd := (ws.foldl State.writeWindow u).team.mbnd, mstat := (ws.foldl State.writeWindow u).team.mstat } } from
    h _ _
  intro ws
  induction ws with
  | nil => intro u; rfl
  | cons w ws ih =>
    intro u
    refine (ih (u.writeWindow w)).trans ?_
    simp only [List.foldl_cons]
    generalize ws.foldl State.writeWindow (u.writeWindow w) = t
    rw [State.writeWindow_frame u w]
    cases w.readout <;> rfl

/-- A fragment without windows has none to close. -/
@[simp] theorem State.closeAll_none {s : State} (h : s.frag.windows = []) : s.closeAll = s := by
  obtain ⟨⟩ := s
  simp only at h
  simp [State.closeAll, h]
  rw [← h]

/-- A long-latency instruction issues. -/
theorem longIssued_openWindow (s : State) (la size waiting : Nat) (ws : List (Nat × Mask × LaneVec)) (flags : W32)
    (readout : Option (W64 × W32)) (rays : Option (Mask × Store RaySlot)) :
    LongIssued s (s.openWindow la size waiting ws flags readout rays) la size waiting ws flags readout rays := by
  unfold State.openWindow LongIssued
  dsimp only
  have hw : (tickWindows s.frag.windows).isEmpty = s.frag.windows.isEmpty := by cases s.frag.windows <;> rfl
  by_cases h : la = 0 ∧ waiting = 0 ∧ s.frag.windows = []
  · obtain ⟨h1, h2, h3⟩ := h
    simp only [h1, h2, h3, and_self, if_true]
    simp only [State.retire, h3, tickWindows, List.map_nil, List.isEmpty_nil, beq_self_eq_true, Bool.and_self, if_true]
    have ln := fun r l => State.lane_writeWindow
      { s with
        grp := { s.grp with opened := s.grp.opened + 1 },
        frag := { s.frag with pc := s.frag.pc + BitVec.ofNat 64 size, windows := [], hold := false } }
      { id := s.grp.opened, left := 0, writes := ws, flags := flags, readout := readout, waiting := 0, pc := s.frag.pc, len := size,
        rays := rays } r l
    have fr := State.writeWindow_frame
      { s with
        grp := { s.grp with opened := s.grp.opened + 1 },
        frag := { s.frag with pc := s.frag.pc + BitVec.ofNat 64 size, windows := [], hold := false } }
      { id := s.grp.opened, left := 0, writes := ws, flags := flags, readout := readout, waiting := 0, pc := s.frag.pc, len := size,
        rays := rays }
    generalize State.writeWindow _ _ = u at fr ln ⊢
    have hf : u.frag = { s.frag with pc := s.frag.pc + BitVec.ofNat 64 size, windows := [], hold := false } := by rw [fr]
    refine ⟨fun a => ?_, fun a => ?_, ?_, ?_, ln⟩
    · rw [fr]; exact ⟨rfl, rfl⟩
    · rw [fr]; cases readout <;> rfl
    · rw [hf]
      refine fr.trans ?_
      cases readout <;> rfl
    · simp [Went, hf, h3]
  · have h' : (la == 0 && waiting == 0 && (tickWindows s.frag.windows).isEmpty) = false := by
      rw [hw]
      by_contra hc
      simp only [Bool.not_eq_false, Bool.and_eq_true, beq_iff_eq, List.isEmpty_iff] at hc
      exact h ⟨hc.1.1, hc.1.2, hc.2⟩
    simp only [State.retire, h', h, if_false, Bool.false_eq_true]
    exact ⟨fun a => ⟨rfl, rfl⟩, fun a => rfl, rfl⟩

/-- An instruction that does not complete stops. -/
theorem stopsNow_stopLane (s : State) (size : Nat) (ps : List PageReq) (st : Stop) : StopsNow s (s.stopLane size ps st) size ps st := by
  cases st with
  | trap t => rfl
  | ue loc => rfl
  | page p =>
    intro hw
    have hf : firstFault s.frag.windows = none := List.findSome?_eq_none_iff.2 fun w m => by simp [hw w m]
    simp [State.stopLane, hf]

/-- What a long-latency instruction does that faults. -/
theorem stopsLong_stopLong (s : State) (la size : Nat) (ps : List PageReq) (st : Stop) :
    StopsLong s (s.stopLong la size ps st) la size ps st := by
  unfold StopsLong State.stopLong
  cases s.lateOf ps st with
  | none => exact stopsNow_stopLane s size ps st
  | some late =>
    have hl : (la = 0 ∨ s.frag.hold = true ∨ (s.frag.windows.any fun w => w.waiting != 0 || w.fault.isSome) = true)
        ↔ ¬(la ≠ 0 ∧ s.frag.hold = false ∧ ∀ w ∈ s.frag.windows, w.waiting = 0 ∧ w.fault = none) := by
      simp only [List.any_eq_true, Bool.or_eq_true, bne_iff_ne, Option.isSome_iff_ne_none]
      grind
    dsimp only
    by_cases c : la ≠ 0 ∧ s.frag.hold = false ∧ ∀ w ∈ s.frag.windows, w.waiting = 0 ∧ w.fault = none
    · refine ⟨fun a => absurd c a, fun _ => ?_⟩
      rw [if_neg (fun a => hl.1 a c)]
      by_cases k : (Config.free 14 s.freeCount).toNat % (la + 1) = 0
      · simp only [State.free, k, if_true]
        exact .inl (stopsNow_stopLane ..)
      · simp only [State.free, k, if_false]
        exact .inr ⟨_, Nat.pos_of_ne_zero k, Nat.le_of_lt_succ (Nat.mod_lt _ (Nat.succ_pos la)), rfl⟩
    · refine ⟨fun _ => ?_, fun a => absurd a c⟩
      rw [if_pos (hl.2 c)]
      exact stopsNow_stopLane ..

/-- A long-latency floating instruction waits, stops or issues with its results and flags. -/
theorem longGives_of_floatLong {i : Instr} {o : LOp} {fs : List PoisonField} {wide : Bool} {f : State → Nat → Nat × W32}
    (h : ∀ s, exec i s = floatLong i o s fs wide (f s)) : LongGives i o fs wide f := by
  intro s hc
  rw [h, floatLong, longExec, laneExec_ok hc]
  refine ⟨fun hb => by simp only [hb, if_true], fun hb => ⟨fun hp => ?_, fun x hp => ?_⟩⟩ <;>
    simp only [hb, Bool.false_eq_true, if_false, hp]
  · exact ⟨_, rfl, longIssued_openWindow ..⟩
  · exact ⟨_, rfl, stopsLong_stopLong ..⟩

/-! ### Short-latency results with checks -/

/-- A floating instruction of short latency gives its results and flags. -/
theorem floatGives_of_floatPure {i : Instr} {o : LOp} {fs : List PoisonField} {wide : Bool} {f : State → Nat → Nat × W32}
    (h : ∀ s, exec i s = floatPure i o s fs wide (f s)) : FloatGives i o fs wide f := by
  intro s hc hp
  rw [h, floatPure, laneExecP, laneExec_ok hc]
  simp only [hp]
  exact ⟨_, rfl, laneDone_flags _ _ _ _ _ _ _⟩

/-- An instruction that writes a predicate triple gives its bits. -/
theorem tripleGives_of_lanePred {i : Instr} {o : LOp} {f : State → Nat → Bool} {ok : State → Prop}
    (hm : ∀ (g : Nat → Bool) l, l < 96 → (maskOf g).getLsbD l = g l)
    (h : ∀ s, exec i s = lanePred i o s (f s)) : TripleGives i o f (fun _ => 0) ok := by
  intro s hc hd _
  rw [h, lanePred, laneExec_ok hc]
  refine ⟨_, rfl, ?_, ?_, fun a => ⟨rfl, rfl⟩, fun l hl => ?_, fun r hr => ?_⟩
  · simp [State.wtriple, State.wg, State.retire]
  · rfl
  · show ((s.wtriple o.d.toNat (s.enabled o) (maskOf (f s))).triple o.d.toNat).getLsbD l = _
    rw [State.triple_wtriple _ _ _ _ hd _ hl, hm _ _ hl]
  · exact State.rg_wtriple s _ _ _ hd r hr

/-- The mask of the lanes where a test holds. -/
theorem getLsbD_maskOf (f : Nat → Bool) (l : Nat) (h : l < 96) : (maskOf f).getLsbD l = f l := by
  unfold maskOf
  suffices k : ∀ n (m : Mask), n ≤ 96 →
      ((List.range n).foldl (fun m l => if f l then m ||| BitVec.twoPow 96 l else m) m).getLsbD l
        = (m.getLsbD l || (decide (l < n) && f l)) by
    rw [k 96 0 (le_refl _)]; simp [h]
  intro n
  induction n with
  | zero => intro m _; simp
  | succ n ih =>
    intro m hn
    rw [List.range_succ, List.foldl_append]
    simp only [List.foldl_cons, List.foldl_nil]
    by_cases hf : f n = true
    · simp only [hf, if_true, BitVec.getLsbD_or, ih m (by omega), BitVec.getLsbD_twoPow]
      by_cases e : l = n
      · subst e; simp [hf, h]
      · have h1 : ¬n = l := fun x => e x.symm
        have h2 : (l < n + 1) ↔ l < n := by omega
        simp [h1, h2]
    · simp only [hf, if_false, ih m (by omega), Bool.false_eq_true]
      by_cases e : l = n
      · subst e; simp [hf]
      · have h2 : (l < n + 1) ↔ l < n := by omega
        simp [h2]

/-! ### Taking a trap -/

/-- With INH set, a trap aborts the launch (06 R154). -/
theorem State.enterTrap_double {s : State} (h : inh s.grp.tstat = true) (t : Trap) (pc : W64) (len wdone : Nat) :
    s.enterTrap t pc len wdone = s.abortLaunch s.team.launch t.cause s.team.index pc t.tval := by
  simp [State.enterTrap, h]

/-- A trap that is no double trap and has a handler: the trap registers take it, the fragment goes on at the handler, and nothing
else changes (06 R153). -/
theorem State.enterTrap_handler {s : State} {t : Trap} {pc : W64} {len wdone : Nat} (hi : inh s.grp.tstat = false)
    (hn : t.cause ≠ causeEmu) (hh : s.team.hdr.trapHandler ≠ 0) :
    s.enterTrap t pc len wdone = { s with
      grp := { s.grp with tpc := pc, tcause := BitVec.ofNat 32 t.cause, tval := t.tval, trapCause := t.cause, trapPc := pc,
                          trapPass := s.frag.passing && pc == s.frag.pc,
                          tstat := tstatEntry s.grp.tstat len false s.frag.bracket s.cur.slotB wdone },
      frag := { s.frag with pc := s.team.hdr.trapHandler, skip := 0, hold := false } } := by
  have h1 : (t.cause == causeEmu) = false := by simpa using hn
  simp [State.enterTrap, hi, h1]
  exact fun e => absurd e hh

/-! ### Scalar instructions -/

/-- A write of an s register in the scalar stream changes the team's s registers alone. -/
theorem State.ws_scalar {s : State} (h : s.cur.stream = .scalar) (n : Nat) (x : W64) :
    s.ws n x = { s with team := { s.team with s := (s.ws n x).team.s } } := by
  unfold State.ws
  split
  · rfl
  · rw [h]

/-- In the line sequencer it changes the head's s registers alone. -/
theorem State.ws_sequencer {s : State} (h : s.cur.stream = .sequencer) (n : Nat) (x : W64) :
    s.ws n x = { s with head := { s.head with s := (s.ws n x).head.s } } := by
  unfold State.ws
  split
  · rfl
  · rw [h]

/-- A jump of the line sequencer keeps the focus and its s registers. -/
@[simp] theorem State.seqTo_cur (s : State) (w : Int) : (s.seqTo w).cur = s.cur := by unfold State.seqTo; split <;> rfl
@[simp] theorem State.seqTo_s (s : State) (w : Int) : (s.seqTo w).head.s = s.head.s := by unfold State.seqTo; split <;> rfl

/-- An instruction of the scalar integer set gives its value in both streams. -/
theorem scalarGives_of_pure {i : Instr} {size : Nat} {w : S32} {x : State → Nat}
    (h : ∀ s, exec i s = scalarPure size w s (x s)) : ScalarGives i size w.d.toNat fun s => BitVec.ofNat 64 (x s) := by
  intro s
  rw [h]
  unfold scalarPure
  have rd := fun r => State.rs_ws s w.d.toNat r (BitVec.ofNat 64 (x s))
  refine ⟨fun hs => ?_, fun hs => ?_⟩
  · have fr := State.ws_scalar hs w.d.toNat (BitVec.ofNat 64 (x s))
    generalize s.ws w.d.toNat (BitVec.ofNat 64 (x s)) = u at fr rd ⊢
    have hc : u.cur.stream = .scalar := by rw [fr]; exact hs
    have e : scalarDone u size = u.retireScalar size := by simp [scalarDone, hc]
    refine ⟨_, rfl, ?_, fun r => ?_⟩
    · rw [ScalarWent, e]
      show u.retireScalar size = { s with team := { s.team with s := u.team.s, spc := s.team.spc + BitVec.ofNat 64 size, sphase := 0 } }
      rw [fr]; rfl
    · rw [e, ← rd r]
      unfold State.rs
      simp only [State.retireScalar_cur, hc]
      rfl
  · have fr := State.ws_sequencer hs w.d.toNat (BitVec.ofNat 64 (x s))
    generalize s.ws w.d.toNat (BitVec.ofNat 64 (x s)) = u at fr rd ⊢
    have hc : u.cur.stream = .sequencer := by rw [fr]; exact hs
    have hp : u.head.pc = s.head.pc := by rw [fr]
    refine ⟨_, rfl, fun r => ?_, ?_⟩
    · rw [← rd r]
      unfold State.rs scalarDone
      simp only [hc, State.seqTo_cur, State.seqTo_s]
    · unfold scalarDone
      simp only [hc, State.seqTo, hp]
      by_cases hb : s.head.pc + size / 4 < 4096
      · have hb' : ¬(((s.head.pc + size / 4 : Nat) : Int) < 0 ∨ ((s.head.pc + size / 4 : Nat) : Int) ≥ 4096) := by omega
        simp only [hb, hb', if_false, if_true]
        rw [fr]; simp; omega
      · have hb' : ((s.head.pc + size / 4 : Nat) : Int) < 0 ∨ ((s.head.pc + size / 4 : Nat) : Int) ≥ 4096 := by omega
        simp only [hb, hb', if_false, if_true]
        rw [fr]; rfl

end Sys2Proof.Machine
end

