-- ==== Sys2Proof/Tests/Slice0.lean ====
section
/-! SUPPORT. Tests: words of the manual and their instructions, ill-formed terms, one-step results the manual gives, and a
witness for the hypotheses of every statement. -/

namespace Sys2Proof.Tests
open Sys2Proof Sys2Proof.Machine

-- one test at a time: many that wait for one another would each hold a thread
set_option Elab.async false

/-! ### Words (02 R39-R47; the words are the manual's, or written out from the encoding table named) -/

/-- A lane instruction without predicate, lookahead and literal. -/
def lop (f : BitVec 4) (d a b c : BitVec 10) : LOp := { pn := false, ps := 0, f := f, la := 0, x := .reg c, b := b, a := a, d := d }
/-- One with a literal. -/
def llit (f : BitVec 4) (d a b : BitVec 10) (sub : BitVec 8) (slot : BitVec 2) (imm : W32) : LOp :=
  { pn := false, ps := 0, f := f, la := 0, x := .lit sub slot imm, b := b, a := a, d := d }
/-- A short form on v registers. -/
def sh (f : BitVec 4) (d a b : BitVec 6) : L32 := { g := false, f := f, b := b, a := a, d := d }
/-- A scalar word's fields. -/
def s32 (f : BitVec 2) (d a b : BitVec 7) : S32 := { f := f, b := b, a := a, d := d }
def s64 (f : BitVec 2) (d a b : BitVec 7) (e1 : W32) : S64 := { w := s32 f d a b, e1 := e1 }
def s96 (f : BitVec 2) (d a b : BitVec 7) (e1 e2 : W32) : S96 := { w := s32 f d a b, e1 := e1, e2 := e2 }

/-- The words decode to the instruction, and it encodes to them. -/
abbrev Reads (p : Page) (ws : List W32) (i : Instr) : Prop :=
  decode p allFeatures (ws.getD 0 0) (ws.getD 1 0) (ws.getD 2 0) = .instr i ∧ encode i = ws

-- 02, 03: the integer, packed and move families
theorem test_words_integer :
    Reads .lane [0x00408801] (.addL32 (sh 0 4 1 2)) ∧ Reads .lane [0x40408801] (.addL32 (sh 8 4 1 2))
    ∧ Reads .lane [0x80818A01] (.addL32 { sh 0 5 3 4 with g := true })
    ∧ Reads .lane [0x80101002, 0x90000000] (.add { lop 0 4 1 2 0 with ps := 4, pn := true })
    ∧ Reads .lane [0x00101003, 0, 0x40] (.add (llit 0 4 1 0 0 0 0x40))
    ∧ Reads .lane [0x80101012, 0x00000300] (.mad (lop 0 4 1 2 3))
    ∧ Reads .lane [0x8010086A, 0x00800000] (.cmp (lop 2 2 1 2 0))
    ∧ Reads .lane [0xC0F03C7E, 0x00001803] (.perm (lop 0 15 15 15 24))
    ∧ Reads .lane [0x51679E81] (.paddL32 (sh 10 15 15 11)) ∧ Reads .lane [0x31E932A5] (.pcmpL32 (sh 6 25 18 15))
    ∧ Reads .lane [0x87E00271] (.movL32 { sh 0 1 0 63 with g := true }) := by decide

-- 04: the floating families
theorem test_words_float :
    Reads .lane [0x08C10901] (.faddL32 (sh 1 4 2 6)) ∧ Reads .lane [0x8010110E, 0x00000300] (.fma (lop 0 4 1 2 3))
    ∧ Reads .lane [0x00C0790E, 0x00401E05] (.fma (lop 1 30 12 20 30)) := by decide

-- 05, 06, 15: control, exchanges, traps, special registers, rendezvous
theorem test_words_control :
    Reads .lane [0x00000603, 0x04000200, 0x30] (.bra { llit 0 1 0 0 0 2 0x30 with ps := 1 })
    ∧ Reads .lane [0x00000A03, 0x84000200, 0x30] (.bra { llit 0 2 0 0 0 2 0x30 with ps := 1, pn := true })
    ∧ Reads .lane [0x00000A06, 0] (.join (lop 0 2 0 0 0)) ∧ Reads .lane [0x00040A0B, 0, 0x7D0] (.joint (llit 0 0x102 0 0 0 0 2000))
    ∧ Reads .lane [0x00000216, 0] (.exit (lop 0 0 0 0 0)) ∧ Reads .lane [0x00101236, 0] (.scan (lop 0 4 1 0 0))
    ∧ Reads .lane [0x0010163A, 0x01C00000] (.redc (lop 7 5 1 0 0)) ∧ Reads .lane [0x00501E26, 0] (.vote (lop 0 7 5 0 0)) := by decide
theorem test_words_system :
    Reads .lane [0x010013E2, 0] (.sysrd (lop 0 4 0x10 0 0)) ∧ Reads .lane [0x000023E7, 0, 1] (.syswr (llit 0 8 0 0 0 0 1))
    ∧ Reads .lane [0x000003EB, 0, 0x2A] (.trap (llit 0 0 0 0 0 0 0x2A)) ∧ Reads .lane [0x000003F2, 0] (.eret (lop 0 0 0 0 0))
    ∧ Reads .lane [0x000003F6, 0] (.nop (lop 0 0 0 0 0)) ∧ Reads .lane [0x002027C2, 0x00400000] (.rdvArr (lop 1 9 2 0 0))
    ∧ Reads .lane [0x402003C6, 0x00000002] (.rdvWait (lop 0 0 2 9 0)) ∧ Reads .lane [0x002003CA, 0] (.rdvDrop (lop 0 0 2 0 0)) := by decide

-- 07, 09 R249, 12: memory, ring, rendering
theorem test_words_memory :
    Reads .lane [0x0060228B, 0x00080E00, 0] (.ldb { llit 0 8 6 0 3 2 0 with la := 2 })
    ∧ Reads .lane [0xC0600287, 0x01000201, 0x40] (.sts (llit 4 0 6 7 0 2 0x40))
    ∧ Reads .lane [0x00003283, 0x038C0200, 0x200] (.lds { llit 14 12 0 0 0 2 0x200 with la := 3 })
    ∧ Reads .lane [0x8020028F, 0x04400207, 0x10] (.stb { llit 1 0 2 30 0 2 0x10 with ps := 1 })
    -- wrew.add.b32: OP 0xC3, D 8, A 4, B 6, F 0, SLOT 0b01, control word 0
    ∧ Reads .lane [0x8040230F, 0x00000101, 0] (.wrew (llit 0 8 4 6 0 1 0))
    ∧ Reads .lane [0x0080437E, 0x00081805] (.trace { lop 0 16 8 20 24 with la := 2 })
    ∧ Reads .lane [0x0080538B, 0x004C2503, 0x1E00000B] (.tsamp { llit 1 20 8 12 9 1 0x1E00000B with la := 3 })
    -- emitp: OP 0xD9, A 4, B 5, C 6
    ∧ Reads .lane [0x40400366, 0x00000601] (.emitp (lop 0 0 4 5 6)) := by decide

-- the scalar stream
theorem test_words_scalar :
    Reads .scalar [0x00040A02, 0x40] (.saddS64 (s64 0 5 4 0 0x40)) ∧ Reads .scalar [0x03040A01] (.saddS32 (s32 0 5 4 6))
    ∧ Reads .scalar [0xC2840C61] (.sleaS32 (s32 3 6 4 5)) ∧ Reads .scalar [0x000000D1] (.sexit (s32 0 0 0 0))
    ∧ Reads .scalar [0x400700C2, 0xFFFFFFE0] (.sbr (s64 1 0 7 0 0xFFFFFFE0)) ∧ Reads .scalar [0x00000BF2, 0x100] (.ssysrd (s64 0 5 0 0 0x100))
    ∧ Reads .scalar [0x000001FD] (.seret (s32 0 0 0 0)) ∧ Reads .scalar [0x00040B02, 0x40] (.sldsS64 (s64 0 5 4 0 0x40))
    ∧ Reads .scalar [0x4304010E, 8] (.sstgS64 (s64 1 0 4 6 8)) ∧ Reads .scalar [0x030201E1] (.srdvInit (s32 0 0 2 6))
    ∧ Reads .scalar [0x00030FE5] (.srdvArrS32 (s32 0 7 3 0)) ∧ Reads .scalar [0x038301E9] (.srdvWait (s32 0 0 3 7)) := by decide
theorem test_words_engines :
    Reads .scalar [0x03851343, 0x00094E90, 0x00003E10] (.mmul (s96 0 9 5 7 0x00094E90 0x00003E10))
    ∧ Reads .scalar [0x00000156, 0x20] (.maccClr (s64 0 0 0 0 0x20)) ∧ Reads .scalar [0x0005014E, 0x00022010] (.maccSt (s64 0 0 5 0 0x00022010))
    ∧ Reads .scalar [0x028401A3, 0x40000000, 0x00001FFF] (.xcopy (s96 0 0 4 5 0x40000000 0x1FFF))
    ∧ Reads .scalar [0x0A941183, 2, 9] (.sboard (s96 0 8 20 21 2 9)) ∧ Reads .scalar [0x0017118B, 0x5000, 9] (.swcap (s96 0 8 23 0 0x5000 9))
    ∧ Reads .scalar [0x0F17118F, 0xD0005000, 9] (.swrew (s96 0 8 23 30 0xD0005000 9))
    ∧ Reads .scalar [0x028413C1] (.slaunch (s32 0 9 4 5)) ∧ Reads .scalar [0x000315C5] (.sfsnew (s32 0 10 3 0))
    ∧ Reads .scalar [0x400A17C9] (.sfswait (s32 1 11 10 0)) ∧ Reads .scalar [0x000619CD] (.sqfence (s32 0 12 6 0)) := by decide

-- the line sequencer
theorem test_words_sequencer :
    Reads .sequencer [0x40000B01] (.lgen (s32 1 5 0 0)) ∧ Reads .sequencer [0x80040B01] (.lgenWait (s32 2 5 4 0))
    ∧ Reads .sequencer [0x00000B05] (.llatch (s32 0 5 0 0)) ∧ Reads .sequencer [0x43860112, 0x000F0180] (.lwarp (s64 1 0 6 7 0x000F0180))
    ∧ Reads .sequencer [0x00060119] (.lput (s32 0 0 6 0)) ∧ Reads .sequencer [0x00000125] (.lend (s32 0 0 0 0))
    ∧ Reads .sequencer [0x400100C2, 0x10] (.sbr (s64 1 0 1 0 0x10)) := by decide

/-- No instruction: a zero word, a length code of 0, PS beyond 20, a code point without an instruction, an extension's (02
R39, R53, R57 and the altered words of 02 and 03). -/
theorem test_words_rejected :
    decode .lane allFeatures 0 1 1 = .zeroWord ∧ decode .lane allFeatures 4 0 0 = .illegal
    ∧ decode .lane allFeatures 0x80101002 0xD8000000 0 = .illegal ∧ decode .lane allFeatures 0x00000011 0 0 = .illegal
    ∧ decode .lane allFeatures 0x0000039A 0 0 = .extEmu ∧ decode .lane 0x77 0x0080538B 0x004C2503 0x1E00000B = .extEmu
    ∧ decode .scalar allFeatures 0x00000161 0 0 = .extEmu ∧ decode .scalar allFeatures 0x0000015D 0 0 = .illegal := by decide

/-- The opcode maps list each instruction under the code with which it encodes (02 R53, R54; 13 R364). -/
theorem test_tables_encode_lane :
    let o := lop 0 2 4 6 8
    let q := llit 5 3 4 6 7 1 0x800
    (∀ p ∈ laneTable, encode (p.2 o) = o.words (BitVec.ofNat 8 p.1)) ∧ (∀ p ∈ laneTable, encode (p.2 q) = q.words (BitVec.ofNat 8 p.1))
    ∧ ∀ p ∈ shortTable, encode (p.2 (sh 5 2 4 6)) = [(sh 5 2 4 6).word (BitVec.ofNat 7 p.1)] := by
  refine ⟨?_, ?_, ?_⟩ <;> decide +kernel
theorem test_tables_encode_scalar :
    (∀ p ∈ scalarS32Table ++ seqS32Table, encode (p.2 (s32 1 2 4 6)) = [(s32 1 2 4 6).word (BitVec.ofNat 7 p.1) 1])
    ∧ (∀ p ∈ scalarS64Table ++ seqS64Table, encode (p.2 (s64 1 2 4 6 7)) = [(s32 1 2 4 6).word (BitVec.ofNat 7 p.1) 2, 7])
    ∧ ∀ p ∈ scalarS96Table, encode (p.2 (s96 1 2 4 6 7 8)) = [(s32 1 2 4 6).word (BitVec.ofNat 7 p.1) 3, 7, 8] := by
  refine ⟨?_, ?_, ?_⟩ <;> decide +kernel

/-! ### Well-formedness: for each check a term that it refuses (02 R42-R48) -/

theorem test_wf_refuses :
    ¬(Instr.add (lop 2 1 2 3 0)).wf ∧ ¬(Instr.add (lop 0 1 2 3 1)).wf ∧ ¬(Instr.add (lop 4 1 2 4 0)).wf        -- F, C unused, odd pair
    ∧ ¬(Instr.add { lop 0 1 2 3 0 with la := 1 }).wf ∧ ¬(Instr.add { lop 0 1 2 3 0 with ps := 21 }).wf           -- LA, PS
    ∧ ¬(Instr.add { lop 0 1 2 3 0 with pn := true }).wf ∧ ¬(Instr.join { lop 0 1 0 0 0 with ps := 1 }).wf        -- PN, PS where none stands
    ∧ ¬(Instr.add (llit 0 1 2 0 0 2 7)).wf ∧ ¬(Instr.add (llit 0 1 2 0 1 0 7)).wf ∧ ¬(Instr.add (llit 0 1 2 3 0 0 7)).wf -- SLOT, SUB, B
    ∧ ¬(Instr.bra (lop 0 0 0 0 0)).wf ∧ ¬(Instr.fadd (llit 2 1 2 0 0 0 0x10000)).wf                              -- length, literal
    ∧ ¬(Instr.cmp (lop 0 21 1 2 0)).wf ∧ ¬(Instr.cmp (lop 0 0 1 2 0)).wf                                         -- triple
    ∧ ¬(Instr.mov (lop 1 1 0 64 0)).wf ∧ ¬(Instr.mov (lop 2 1 0 128 0)).wf ∧ ¬(Instr.rdvWait (lop 0 0 24 3 0)).wf -- g, s, point
    ∧ ¬(Instr.mulhiL32 { sh 0 1 2 3 with g := true }).wf ∧ ¬(Instr.addL32 { sh 4 1 2 4 with g := true }).wf      -- G = 1, odd g pair
    ∧ ¬(Instr.notL32 (sh 0 1 2 3)).wf ∧ ¬(Instr.patom (llit 0 4 1 0 0 0 64)).wf := by decide                     -- B unused, literal's range
theorem test_wf_refuses_scalar :
    ¬(Instr.saddS32 (s32 3 1 2 3)).wf ∧ ¬(Instr.saddS64 (s64 0 1 2 3 0)).wf ∧ ¬(Instr.sexit (s32 0 1 0 0)).wf    -- F, B with a literal, D unused
    ∧ ¬(Instr.mmul (s96 0 9 5 7 0 0x04003E10)).wf ∧ ¬(Instr.mmul (s96 0 9 5 7 0 0x00003010)).wf                  -- reserved bit, point field
    ∧ ¬(Instr.xcopy (s96 0 0 4 5 0 0x1FFE)).wf ∧ ¬(Instr.xcoll (s96 0 1 2 3 0x01000000 0)).wf                    -- row bytes, count
    ∧ ¬(Instr.ssyswr (s64 0 0 5 0 0x200)).wf ∧ ¬(Instr.ssysrd (s64 0 5 0 0 0x002)).wf                            -- not writable, group scope
    ∧ ¬(Instr.lgen (s32 1 32 0 0)).wf ∧ ¬(Instr.lwarp (s64 0 0 6 7 0x00400000)).wf                               -- register, rows
    ∧ pageOk .sequencer (.saddS32 (s32 0 32 0 0)) = false ∧ pageOk .scalar (.saddS32 (s32 0 32 0 0)) = true := by decide


/-! ### States for the witnesses -/

/-- A fragment of lanes 0 and 1 in slot A, at 0x1000. -/
def frag0 : Fragment := { valid := true, pc := 0x1000, mask := 3 }
def hdr0 : Header :=
  { vregs32 := 32, rdv := 24, spill := 1, spad := 1024, recCount := 8, laneEntry := 0x1000, scalarEntry := 0x1000, trapHandler := 0x2000 }
def grp0 : Group := { vcount := 1024, slotA := frag0 }
def team0 : Team := { live := true, vf := 1, launch := 1, hdr := hdr0, spc := 0x1000, groups := [(0, grp0)] }
def ctx0 : Context := { state := 2, root := 0x1000, scopes := [(1, { valid := true, count := 2 })] }
def vf0 : Vf := { enabled := true, s2root := 0x2000, part := 1, qCount := 2, quota := 8, ctxs := [(0, ctx0)] }
/-- A buffer record of 64 i32 elements at 0x1800, cached as record 0 of launch 1. -/
def rec0 : Nat := 0x1800 + 0x100 * 2 ^ 64 + 0x04 * 2 ^ 243
/-- A visibility image of 8 × 8 pixels and a texture of 8 × 8 texels at 0x1800, records 1 and 2. -/
def rec1 : Nat := 0x1800 + 7 * 2 ^ 64 + 7 * 2 ^ 78 + 2 ^ 106 + 2 ^ 112 + 0x30 * 2 ^ 192 + 2 * 2 ^ 224
def rec2 : Nat := 0x1800 + 7 * 2 ^ 64 + 7 * 2 ^ 78 + 2 ^ 106 + 2 ^ 112 + 0x01 * 2 ^ 192 + 2 * 2 ^ 224
/-- A powered package with one team of one group on core 0; virtual page 1 is device page 3. -/
def base : State :=
  { bringUpDone := true, mem := codeMemory [] 0, vfs := [(1, vf0)], teams := [(1, team0)], nextTeam := 2,
    launches := [(1, { vf := 1, ctx := 0, hdr := hdr0, args := 0, teams := 2, span := 0, prio := 0, scope := 1, order := 1 })],
    nextLaunch := 2, cores := [(0, { recs := [(256, rec0), (257, rec1), (258, rec2)] })], clusters := [(0, { on := true })],
    coreMap := [(0, { present := true, feat0 := 0x7E })], stackMap := (List.range 8).map fun k => (k, true) }
/-- The fragment in focus. -/
def lane0 : State := base.focus { stream := .lane, uid := 1 }
/-- The scalar stream in focus. -/
def scal0 : State := base.focus { stream := .scalar, uid := 1 }
/-- A lane state with another fragment, group or team. -/
def laneF (f : Fragment) : State := { lane0 with frag := f }
def laneG (g : Group) : State := { lane0 with grp := g }
def laneT (t : Team) : State := { lane0 with team := t }
def scalT (t : Team) : State := { scal0 with team := t }
/-- The instruction passes its decode checks in the state. -/
def passes (s : State) (i : Instr) : Bool :=
  match i.lop?, i.l32? with
  | some o, _ => (s.laneCheck i o).isNone
  | _, some w => !w.g && (s.laneCheck i w.toLOp).isNone
  | _, _ => false
def okay {ε α : Type} : Except ε α → Bool
  | .ok _ => true
  | .error _ => false

/-! ### Witnesses for the statements about group code -/

theorem witness_IntegerArithmeticResults :
    let o := lop 0 1 2 3 0
    (∀ i ∈ [Instr.add o, .sub o, .mul o, .mad o, .mulhi o, .min o, .max o, .abs o, .neg o, .absL32 (sh 0 1 2 0), .negL32 (sh 0 1 2 0),
      .addL32 (sh 0 1 2 3), .subL32 (sh 0 1 2 3), .mulL32 (sh 0 1 2 3), .mulhiL32 (sh 0 1 2 3), .minL32 (sh 0 1 2 3), .maxL32 (sh 0 1 2 3)],
      passes lane0 i = true) ∧ bit o.f 0 = false := by decide
theorem witness_DivisionResults : passes lane0 (.div (lop 0 1 2 3 0)) = true ∧ passes lane0 (.rem (lop 5 2 4 6 0)) = true := by decide
theorem witness_BitAndShiftResults :
    let o := lop 4 2 4 6 8
    let w := sh 4 2 4 6
    ∀ i ∈ [Instr.and o, .or o, .xor o, .andn o, .not o, .shl o, .shr o, .sra o, .rotl o, .popc o, .clz o, .ctz o, .brev o, .bfe o, .bfi o,
      .andL32 w, .orL32 w, .xorL32 w, .andnL32 w, .notL32 w, .shlL32 w, .shrL32 w, .sraL32 w, .rotlL32 w, .popcL32 w, .clzL32 w, .ctzL32 w,
      .brevL32 w, .bfeL32 w], passes lane0 i = true := by decide
theorem witness_MoveAndAddressResults :
    ∀ i ∈ [Instr.sel (lop 0 1 2 3 20), .mov (lop 1 1 0 63 0), .movL32 (sh 0 1 0 2), .lea (lop 3 4 2 1 0), .cvti (lop 4 2 1 0 0), .cvtiL32 (sh 4 2 1 0),
      .perm (lop 0 1 2 3 4)], passes lane0 i = true := by decide
theorem witness_PackedResults :
    let o := lop 0 1 2 3 4
    let w := sh 0 1 2 3
    ∀ i ∈ [Instr.padd o, .psub o, .pmul o, .pmin o, .pmax o, .pabs o, .pshl o, .pshr o, .psra o, .pcmp o, .ppack o, .punpk o, .pdot o, .sad o,
      .paddL32 w, .psubL32 w, .pmulL32 w, .pminL32 w, .pmaxL32 w, .pabsL32 w, .pshlL32 w, .pshrL32 w, .psraL32 w, .pcmpL32 w, .ppackL32 w,
      .punpkL32 w], passes lane0 i = true := by decide
theorem witness_GroupRegisterForms :
    let w : L32 := { sh 0 3 63 0 with g := true }
    w.g = true ∧ 3 ≤ w.d.toNat ∧ lane0.frag.valid = true := by decide
theorem witness_MaskWordWrites :
    let w : L32 := { sh 0 2 0 3 with g := true }
    let v : L32 := { sh 0 0 0 3 with g := true }
    w.g = true ∧ w.f = 0 ∧ w.d.toNat < 3 ∧ v.d.toNat < 3
    ∧ (laneF { frag0 with bracket := true }).frag.bracket = true
    ∧ (let s := lane0; setMaskWord s.frag.mask w.d.toNat (s.rg w.b.toNat) &&& (s.frag.mask ||| s.grp.dormant) ≠ 0)
    ∧ (let s := lane0; setMaskWord s.frag.mask v.d.toNat (s.rg v.b.toNat) &&& (s.frag.mask ||| s.grp.dormant) = 0 ∧ s.frag.windows = []) := by decide
theorem witness_CompareResults :
    let o := lop 4 20 2 3 0
    passes lane0 (.cmp o) = true ∧ passes lane0 (.fcmp o) = true ∧ 1 ≤ o.d.toNat
    ∧ lane0.poisonCheck (lane0.enabled o) (poisonOf o (ftRegs (ftOf o.f)) (ftRegs (ftOf o.f)) 0) = none := by decide
/-- A launch with poison, whose registers hold numbers. -/
def poison0 : State :=
  { lane0 with
    team := { team0 with hdr := { hdr0 with poison := true } },
    grp := { grp0 with v := (List.range 32).map fun k => (k, Vector.replicate 96 1) } }
theorem witness_FloatResults :
    let o := lop 0 1 2 3 4
    let w := sh 0 1 2 3
    (∀ i ∈ [Instr.fadd o, .fsub o, .fmul o, .fma o, .fmin o, .fmax o, .frnd o, .fscale o, .fexpo o, .fdot2 o, .cvt o, .cvtfi o, .cvtif o, .fsgn o,
      .fclass o, .cvtx o, .faddL32 w, .fsubL32 w, .fmulL32 w, .fminL32 w, .fmaxL32 w, .frndL32 w, .fexpoL32 w, .cvtL32 w, .cvtfiL32 w, .cvtifL32 w,
      .fsgnL32 w, .fclassL32 w, .cvtxL32 w], passes poison0 i = true)
    ∧ poison0.poisonCheck (poison0.enabled o) (poisonOf o 1 1 1) = none
    ∧ poison0.poisonCheck (poison0.enabled w.toLOp) (poisonOf w.toLOp 1 1 1) = none := by decide
theorem witness_LongFloatResults :
    let o := { lop 0 1 2 3 0 with la := 15 }
    (∀ i ∈ [Instr.fdiv o, .fsqrt o, .frcp o, .frsq o, .fexp2 o, .flog2 o, .fsin o, .fcos o, .ftanh o, .cvtn o], passes poison0 i = true)
    ∧ poison0.bufferFull = false ∧ poison0.poisonCheck (poison0.enabled o) (poisonOf o 1 1 0) = none := by decide
theorem witness_WelfordResults :
    let o := lop 0 4 1 0 0
    passes poison0 (.wfup o) = true ∧ passes poison0 (.wfmerge o) = true
    ∧ poison0.poisonCheck (poison0.enabled o)
        [{ reg := o.a.toNat, count := 1 }, { reg := o.d.toNat, count := 1 }, { reg := o.a.toNat, count := 2, off := 1 }, { reg := o.d.toNat, count := 2, off := 1 }]
      = none
    ∧ poison0.poisonCheck (poison0.enabled o)
        [{ reg := o.a.toNat, count := 1 }, { reg := o.d.toNat, count := 1 }, { reg := o.d.toNat, count := 2, off := 1 }] = none := by decide
theorem witness_RoundingToNearestIsNearest : 0 < 1 ∧ 0 < 3 ∧ (fmtF32.round 0 false false 1 3).1 < fmtF32.infBits false := by decide
theorem witness_NanAndInvalidResults :
    let f := fmtF32
    (f.read 0x7F800001).isNan = true ∧ (f.read 0x7F800000).isNan = false ∧ (f.read 0x7F800000) = .inf false ∧ (f.read 0xFF800000) = .inf true
    ∧ (f.read 0).isZero = true ∧ (f.read 0x80000001).neg? = true ∧ (f.read 0x80000001).isZero = false ∧ (f.read 0x80000001).isNan = false := by decide
theorem witness_RegisterPool :
    let g (n : Nat) : State := { lane0 with grp := { grp0 with vcount := n }, team := { team0 with vpool := 1 } }
    let o := lop 0 0 0 0 0
    let t := lop 0 20 0 0 0
    (g 63).groupWindowsClosed = true ∧ passes (g 63) (.vgive o) = true ∧ passes (g 64) (.vgive o) = true ∧ 63 < 32 * 1 + 32
    ∧ passes (g 992) (.vclaim o) = true ∧ passes (g 993) (.vclaimTry t) = true ∧ o.d = 0 ∧ t.d ≠ 0 ∧ 1024 < 993 + 32 * 1
    ∧ (laneG { grp0 with vcount := 992 }).team.vpool < 1 ∧ 1 ≤ (g 992).team.vpool := by decide
theorem witness_BranchResults :
    let o := { llit 0 5 0 0 0 2 0x10 with ps := 1 }
    let u := llit 0 0 0 0 0 2 0x10
    let g1 : Group := { grp0 with g := [(3, 1)] }
    let recs : List SplitRec := (List.range 16).map fun k => { token := 100 + k, expected := 3 }
    let full : Group := { g1 with split := recs }
    let other : Group := { g1 with slotB := { frag0 with mask := 12 } }
    let s := laneG g1
    passes s (.bra o) = true ∧ passes s (.bra u) = true
    ∧ (laneF { frag0 with bracket := true }).frag.bracket = true ∧ o.ps ≠ 0
    ∧ (lane0.frag.pc + (0x11 : W32).signExtend 64).toNat % 4 ≠ 0 ∧ (s.frag.pc + o.imm.signExtend 64).toNat % 4 = 0
    -- a taken and a left lane, with the other slot empty and full, with and without a record and spill space
    ∧ s.frag.mask &&& s.enabled o = 1 ∧ s.frag.mask &&& ~~~s.enabled o = 2
    ∧ (laneG { grp0 with g := [(3, 3)] }).frag.mask &&& ~~~(laneG { grp0 with g := [(3, 3)] }).enabled o = 0
    ∧ lane0.frag.mask &&& lane0.enabled o = 0
    ∧ (∀ r ∈ full.split, r.token ≠ 5) ∧ 16 ≤ full.split.length ∧ s.grp.split.length < 16
    ∧ (other.slotOf true).valid = true ∧ (s.grp.slotOf true).valid = false
    ∧ ({ other with spills := 1 } : Group).spills = hdr0.spill ∧ other.spills < hdr0.spill := by decide
theorem witness_JoinAndExitResults :
    let o := lop 0 5 0 0 0
    let j := llit 0 5 0 0 0 0 100
    let g : Group := { grp0 with split := [{ token := 4, expected := 3 }, { token := 5, expected := 7 }, { token := 6, expected := 3 }] }
    passes (laneG g) (.join o) = true ∧ passes (laneG g) (.joint j) = true ∧ passes (laneG g) (.exit (lop 0 0 0 0 0)) = true
    ∧ (laneF { frag0 with bracket := true }).frag.bracket = true ∧ lane0.frag.bracket = false ∧ (∀ r ∈ lane0.grp.split, r.token ≠ 5)
    ∧ g.split = [{ token := 4, expected := 3 }] ++ { token := 5, expected := 7 } :: [{ token := 6, expected := 3 }] := by decide
theorem witness_CallAndReturnResults :
    let c := llit 0 2 0 0 0 2 0x10
    let r := lop 0 0 2 0 0
    let at_ (x : W32) : State := laneG { grp0 with v := [(2, Vector.replicate 96 x)] }
    passes lane0 (.call c) = true ∧ passes lane0 (.ret r) = true ∧ (laneF { frag0 with bracket := true }).frag.bracket = true
    ∧ (lane0.frag.pc + (0x11 : W32).signExtend 64).toNat % 4 ≠ 0 ∧ (lane0.frag.pc + c.imm.signExtend 64).toNat % 4 = 0
    ∧ (lanesOf (lane0.enabled r)).head? = some 0 ∧ (at_ 0x1002).laneVal true 2 0 % 4 ≠ 0 ∧ (at_ 0x1004).laneVal true 2 0 % 4 = 0
    ∧ lanesOf ((laneF { frag0 with mask := 0 }).enabled r) = [] := by decide
theorem witness_BracketAndDecisionResults :
    let o := lop 0 0 0 0 0
    let d := lop 0 4 0 0 0
    let v := lop 1 4 0 0 0
    let q : Team := { team0 with dq := [7], dqFreed := 3 }
    passes lane0 (.allon o) = true ∧ passes lane0 (.alloff o) = true ∧ (laneF { frag0 with bracket := true }).frag.bracket = true
    ∧ passes lane0 (.dqtake d) = true ∧ passes lane0 (.dqtake v) = true ∧ d.f = 0 ∧ v.f ≠ 0 ∧ 3 ≤ d.d.toNat
    ∧ team0.dqFreed + team0.dq.length ≤ grp0.taken ∧ team0.srun = true ∧ ({ team0 with srun := false } : Team).srun = false
    ∧ ({ grp0 with taken := 3 } : Group).taken < q.dqFreed + q.dq.length := by decide
theorem witness_LaneExchanges :
    let o := lop 0 20 1 0 0
    let r := lop 0 2 1 3 0
    passes lane0 (.vote o) = true ∧ 1 ≤ o.d.toNat
    ∧ ∀ i ∈ [Instr.shfl r, .qswap (lop 1 2 1 0 0), .qdiff (lop 0 2 1 0 0), .scan (lop 0 2 1 0 0), .redc (lop 7 2 1 0 0)], passes lane0 i = true := by decide
theorem witness_WindowAccesses :
    let l := llit 4 8 1 0 0 2 0x3DC
    let st := llit 4 0 1 2 0 2 0x180
    let at_ := llit 0 8 1 2 0 2 0x180
    let s := { lane0 with team := { team0 with hdr := { hdr0 with raceCheck := true } }, frag := { frag0 with mask := 1 } }
    let ok (o : LOp) (n : Nat) (write race : Bool) (a : Int) : Bool :=
      a % n == 0 && decide (0 ≤ a) && (!write || decide (384 ≤ a)) && decide (a + n ≤ spillBase s.team)
        && (!race || (raceFault s.team s.grp.gid a.toNat n).isNone) && o.isLit
    s.bufferFull = false ∧ passes s (.lds l) = true ∧ passes s (.sts st) = true ∧ passes s (.atoms at_) = true
    ∧ lanesOf (s.enabled l) = [0] ∧ s.isHelper 0 = false ∧ s.team.hdr.raceCheck = true ∧ lane0.team.hdr.raceCheck = false
    -- the last four bytes below the spill stack, and the first that may be stored
    ∧ s.spadAddr l 0 = 988 ∧ spillBase s.team = 992 ∧ ok l 4 false true (s.spadAddr l 0) = true
    ∧ s.spadAddr st 0 = 384 ∧ ok st 4 true true (s.spadAddr st 0) = true
    ∧ ok at_ 4 true false ((s.lane 1 0).toNat + byteOff at_) = true := by decide
/-- One lane in group code, whose index register v1 holds 5. -/
def one0 : State := { lane0 with frag := { frag0 with mask := 1 }, grp := { grp0 with v := [(1, Vector.replicate 96 5)] } }
theorem witness_RecordLoads :
    let o := llit 0 8 1 0 0 2 0
    let p := llit 0 0 1 0 0 2 0
    one0.bufferFull = false ∧ passes one0 (.ldb o) = true ∧ passes one0 (.pfb p) = true ∧ one0.enabled o ≠ 0 ∧ one0.redQueues = []
    ∧ (laneF { frag0 with mask := 0 }).enabled o = 0
    ∧ (match one0.bufferRec { kind := 0 } 0 with
      | .ok (s1, r) => okay (s1.elems o r { kind := 0 } (elemWidth r.fmt) (loadAllowed 0 r.fmt) true (fun _ _ => false))
      | .error _ => false) = true := by decide
theorem witness_RecordStores :
    let o := llit 0 0 1 2 0 2 0
    let acc : Acc := { kind := 1, write := true }
    one0.bufferFull = false ∧ passes one0 (.stb o) = true ∧ one0.enabled o ≠ 0 ∧ one0.redQueues = []
    ∧ (match one0.bufferRec acc 0 with
      | .ok (s1, r) =>
        (match s1.elems o r acc (elemWidth r.fmt) (storeAllowed 0 false r.fmt) false
            (fun l j => isMx r.fmt && !s1.isHelper l
              && decide (((s1.writtenElems o r (elemWidth r.fmt)).filter fun k => k / 32 == j / 32).length < 32)) with
        | .ok [(0, some e)] => e.place == .global [(.dev 0x3814, 4)] && e.scale == [] && e.pos % 8 == 0 && e.w == 32 && e.n == 4 && !r.race
        | _ => false)
      | .error _ => false) = true ∧ one0.isHelper 0 = false := by decide
theorem witness_RecordAtomics :
    let o := llit 0 8 1 2 0 2 0
    let g := llit 0 0 1 2 0 2 0
    let p := llit 0 8 1 0 0 0 3
    let acc : Acc := { kind := 2, write := true }
    let s := { one0 with vfs := [(1, { vf0 with routines := [(3, [0x00000001])] })] }
    s.bufferFull = false ∧ s.enabled o ≠ 0 ∧ s.redQueues = [] ∧ s.isHelper 0 = false
    ∧ passes s (.atom o) = true ∧ passes s (.gred g) = true ∧ passes s (.patom p) = true
    ∧ (s.vf s.team.vf).routines.lookup p.imm.toNat = some [0x00000001]
    ∧ (match s.bufferRec acc 0 with
      | .ok (s1, r) =>
        (match s1.atomElems o r acc 0 (atomType r.fmt false) 32 with
          | .ok [(0, some e)] => e.place == .global [(.dev 0x3814, 4)] && e.pos % 8 == 0 && e.w == 32 && e.n == 4
          | _ => false)
        && okay (gather ((lanesOf (s.enabled p)).map fun l =>
            (l, s1.hostCheck false (r.base + BitVec.ofInt 64 (r.pos (elemWidth r.fmt) (s1.elemIndex p l) 0 / 8))
              (s1.elem { r with race := false } p.sub.toNat acc (elemWidth r.fmt) true false (s1.elemIndex p l) 0 (fun _ => false)))))
      | .error _ => false) = true ∧ 0x3814 % 128 + 4 ≤ 128 := by decide
theorem witness_LaneRingActions :
    let o := llit 0 8 1 2 0 1 0
    let u := llit 0 8 1 2 0 1 0x00010800
    let w := llit 9 8 1 2 0 1 0
    let q := lop 8 8 1 0 0
    let x := lop 0 8 0 0 0
    let none_ := { one0 with frag := { frag0 with mask := 0 } }
    one0.bufferFull = false ∧ passes one0 (.board o) = true ∧ passes one0 (.alight o) = true ∧ passes one0 (.wcap o) = true
    ∧ passes one0 (.wcapUntil u) = true ∧ passes one0 (.wrew w) = true ∧ passes one0 (.cvtq q) = true ∧ passes one0 (.amxcom x) = true
    ∧ (one0.vf 1).quota - (one0.vf 1).ringHeld = 8
    ∧ (let full := { one0 with vfs := [(1, { vf0 with ringHeld := 8 })] }; (full.vf 1).quota - (full.vf 1).ringHeld = 0)
    ∧ one0.poisonCheck (one0.enabled q) [{ reg := q.a.toNat, count := 1 }] = none
    ∧ (lanesOf (one0.enabled o)).filter (fun l => !one0.isHelper l) = [0]
    ∧ (lanesOf (none_.enabled o)).filter (fun l => !none_.isHelper l) = [] := by decide
theorem witness_RendezvousInstructions :
    let arr := llit 1 9 23 0 0 0 7
    let wt := lop 0 0 2 9 0
    let s := laneT { team0 with points := [(2, { phase := 1 })] }
    let t := scalT { team0 with points := [(2, { phase := 1, expected := 1 }), (3, { init := true, expected := 4 })], s := [(1, 1), (2, 0)] }
    passes s (.rdvArr arr) = true ∧ passes s (.rdvDrop (lop 0 0 2 0 0)) = true ∧ passes s (.rdvWait wt) = true
    ∧ passes s (.fence (lop 0 1 0 0 0)) = true ∧ passes s (.nop (lop 0 0 0 0 0)) = true
    ∧ ((s.team.points.get {} 2).phase - s.rg 9).toNat = 1 ∧ ((lane0.team.points.get {} 2).phase - lane0.rg 9).toNat = 0
    -- the scalar stream: a point beyond the count, a second init, an init that completes a phase and one that does not
    ∧ t.cur.stream = .scalar ∧ (30 : Nat) ≠ 31 ∧ t.team.hdr.rdv ≤ 30 ∧ 2 < t.team.hdr.rdv
    ∧ (t.team.points.get {} 3).init = true ∧ (t.team.points.get {} 2).init = false
    ∧ bits (t.rs 1) 15 0 - (t.team.points.get {} 2).expected.toNat = 0 ∧ (t.team.points.get {} 2).arrived.toNat < 65536 - 1
    ∧ ((t.team.points.get {} 2).phase - (t.rs 2).truncate 32).toNat = 1 ∧ ((t.team.points.get {} 2).phase - (t.rs 1).truncate 32).toNat = 0 := by decide
theorem witness_SpecialRegisterAccesses :
    let rd (n : BitVec 10) := lop 0 2 n 0 0
    passes lane0 (.sysrd (rd 0)) = true ∧ passes lane0 (.sysrd (lop 8 4 0x10 0 0)) = true ∧ bit (lop 8 4 0x10 0 0).f 3 = true
    ∧ bits (rd 0x18).f 1 0 * 1024 + (rd 0x18).a.toNat = 0x018 ∧ passes lane0 (.sysrd (rd 0x18)) = true
    ∧ scal0.cur.stream = .scalar ∧ bits (0x018 : W32) 11 0 = 0x018
    ∧ (∀ k ∈ [0x01, 0x11, 0x20, 0x21, 0x22, 0x23, 0x30, 0x31, 0x32, 0x33, 0x40, 0x41, 0x4F],
        passes lane0 (.ctrrd (llit 0 2 0 0 0 0 (BitVec.ofNat 32 k))) = true) ∧ lane0.bufferFull = false
    ∧ passes lane0 (.syswr (llit 0 8 0 0 0 0 1)) = true ∧ lanesOf (lane0.enabled (llit 0 8 0 0 0 0 1)) = [0, 1]
    ∧ (laneF { frag0 with mask := 0 }).enabled (llit 0 8 0 0 0 0 1) = 0
    ∧ passes lane0 (.setperf (llit 0 0 0 0 0 0 15)) = true ∧ lane0.cur.stream = .lane ∧ lane0.team.live = true ∧ scal0.team.live = true := by decide
theorem witness_RegisterRangeTraps :
    let s := laneG { grp0 with vcount := 32 }
    let o := lop 4 30 30 32 0
    let w := sh 4 30 30 32
    let p := lop 0 0 23 3 0
    (Instr.add o).lop? = some o ∧ (laneSpec (Instr.add o).long).isSome = true ∧ (s.laneCheck (.add o) o).isSome = true
    ∧ (Instr.addL32 w).l32? = some w ∧ w.g = false ∧ (s.laneCheck (.addL32 w) w.toLOp).isSome = true
    ∧ ((laneT { team0 with hdr := { hdr0 with rdv := 23 } }).laneCheck (.rdvWait p) p).isSome = true := by decide
theorem witness_TrapEntry :
    let w : Window := { id := 0, left := 3, pc := 0xFF4, len := 12 }
    let f : Window := { w with fault := some (.trap { cause := 0x0B, tval := 0 }), passed := 16 }
    lane0.frag.windows = [] ∧ bit lane0.grp.tstat 6 = false ∧ bit (laneG { grp0 with tstat := 0x40 }).grp.tstat 6 = true
    ∧ lane0.team.hdr.trapHandler ≠ 0 ∧ (laneT { team0 with hdr := { hdr0 with trapHandler := 0 } }).team.hdr.trapHandler = 0
    ∧ (∀ x ∈ [w], x.fault = none ∧ x.waiting = 0) ∧ (∃ x ∈ [{ w with waiting := 1 }], x.waiting ≠ 0)
    ∧ [w, f, w] = [w] ++ f :: [w] ∧ (∀ q ∈ [w], q.fault = none) ∧ f.fault.isSome = true ∧ (∀ q ∈ [w, f, w], q.waiting = 0)
    ∧ bit scal0.team.sTstat 6 = false ∧ bit (scalT { team0 with sTstat := 0x40 }).team.sTstat 6 = true := by decide
theorem witness_TrapInstructionsAndReturn :
    let o := lop 0 0 0 0 0
    let t := { llit 0 0 0 0 0 0 0x2A with ps := 1 }
    let h : HeldTrap := { slotB := true, pc := 0x1040, len := 8, wdone := 0, trap := { cause := 0x30, tval := 0 } }
    let g := laneG { grp0 with tstat := 0x240, held := some h }
    passes lane0 (.trap t) = true ∧ passes lane0 (.brk o) = true ∧ t.ps ≠ 0 ∧ lane0.enabled t = 0 ∧ o.ps = 0
    ∧ passes g (.eret o) = true ∧ bit lane0.grp.tstat 6 = false ∧ bit g.grp.tstat 6 = true ∧ g.cur.stream = .lane
    ∧ g.team.hdr.trapHandler ≠ 0 ∧ g.grp.held = some h ∧ h.slotB = (!g.cur.slotB) ∧ h.trap.cause ≠ 0x03
    ∧ (laneG { grp0 with tstat := 0x40 }).grp.held = none ∧ bit scal0.team.sTstat 6 = false
    ∧ bit (scalT { team0 with sTstat := 0x40 }).team.sTstat 6 = true := by decide

/-- A team with a window of 16 KiB, whose lane registers name a batch at 0x200 and a descriptor at 0x1D00. -/
def mesh0 : State :=
  { lane0 with
    mem := writeBytes base.mem 0x3D00 1 1, frag := { frag0 with mask := 1 },
    team := { team0 with hdr := { hdr0 with spad := 16384 } },
    grp := { grp0 with v := [(4, Vector.replicate 96 0x1D00), (6, Vector.replicate 96 0x200), (7, Vector.replicate 96 511)] } }
def batch0 : Batch :=
  { order := 0, gid := 0, window := 0, dest := 0, mask := 1, word := 0, off := 0x200, vcount := 3, pcount := 1, pbase := 0, bytes := 0, desc := 0x1D00,
    draw := {}, img := rec1, hdr := hdr0 }
theorem witness_MeshEmissionAndHandOver :
    let v := lop 0 0 8 1 6
    let p := lop 0 0 8 7 6
    let e := lop 0 8 4 6 0
    mesh0.bufferFull = false ∧ passes mesh0 (.emitv v) = true ∧ passes mesh0 (.emitp p) = true ∧ passes mesh0 (.emitend e) = true
    -- vertex 0 and the last primitive, 511
    ∧ (let a := mesh0.srcC v false false 0 + 0x40 + 16 * mesh0.srcB v false false 0
       a % 16 = 0 ∧ 384 ≤ a ∧ a + 16 ≤ spillBase mesh0.team ∧ raceFault mesh0.team mesh0.grp.gid a 16 = none)
    ∧ mesh0.srcB p false false 0 = 511
    ∧ (let a := mesh0.srcC p false false 0 + 0x1040 + 4 * mesh0.srcB p false false 0
       a % 4 = 0 ∧ 384 ≤ a ∧ a + 4 ≤ spillBase mesh0.team ∧ raceFault mesh0.team mesh0.grp.gid a 4 = none)
    ∧ (laneF { frag0 with mask := 0 }).enabled e = 0 ∧ lanesOf (mesh0.enabled e) = [0] ∧ mesh0.redQueues = []
    ∧ okay (mesh0.emitCheck (BitVec.ofNat 64 (mesh0.srcA e true 0)) (mesh0.srcB e false false 0)) = true
    ∧ (mesh0.flush.batchesOf 0).map (·.2.1) = []
    ∧ (let s := { mesh0 with team := { mesh0.team with batches := (List.range 16).map fun k => (k, batch0) } }
       (s.flush.batchesOf 0).map (·.2.1) = List.range 16) := by decide +kernel
def raster0 : Raster := { parent := 1, batch := 0, draw := {}, img := rec1, job := { tx := 0, ty := 0, id := 0, dw := true, cov := [1], depth := [] } }
theorem witness_PixelInstructions :
    let vb := llit 0 8 1 0 1 0 0
    let va := { lop 0 8 12 1 5 with x := .reg 5 }
    let s := { one0 with team := { team0 with s := [(5, 0x1D00)] }, grp := { grp0 with v := [] } }
    passes s (.vbld vb) = true ∧ passes s (.vbary va) = true ∧ passes s (.vinterp (lop 0 8 2 4 0)) = true ∧ passes s (.cover (lop 1 0 2 3 0)) = true
    ∧ s.bufferFull = false ∧ s.enabled vb ≠ 0 ∧ (laneF { frag0 with mask := 0 }).enabled vb = 0 ∧ s.redQueues = []
    ∧ (match s.imageRec { kind := 0 } 1 with
      | .ok (s1, g) => g.ifmt == 0x30 && okay (gather ((lanesOf (s.enabled vb)).map fun l => (l, s1.vbldPlace g (s.srcA vb false l) 0)))
      | .error _ => false) = true
    ∧ (s.rs 5).toNat % 64 = 0 ∧ okay (s.loadVa s.team.vf s.team.ctx { kind := 0 } (s.rs 5) 64) = true
    ∧ s.team.raster = none ∧ (laneT { team0 with raster := some raster0 }).team.raster = some raster0 := by decide
theorem witness_RayInstructions :
    let o := lop 0 16 8 20 24
    let h : Hit := { proc := false, path := [], t := 0x3F800000, b1 := 0, b2 := 0, prim := 0, inst := 0, geom := 0, index := 0, range := false }
    let s := laneG { grp0 with rays := [(0, { candidate := some h, limit := 0x40000000 })] }
    lane0.bufferFull = false ∧ passes lane0 (.trace o) = true ∧ passes lane0 (.hitacc (lop 1 8 1 2 0)) = true ∧ passes lane0 (.hitign (lop 0 0 0 0 0)) = true
    ∧ (lane0.enabled o).getLsbD 0 = true ∧ (lane0.enabled o).getLsbD 2 = false ∧ bits (0 : W32) 15 12 = 0 ∧ bits (0x1000 : W32) 15 12 ≠ 0
    ∧ lane0.grp.rays.lookup 0 = none ∧ (s.grp.rays.lookup 0).map (·.candidate) = some (some h) ∧ (s.grp.rays.lookup 1).isNone = true := by decide
theorem witness_TextureReads :
    let smp := { llit 1 20 8 12 2 1 0 with la := 3 }
    let gth := llit 0 20 8 0 2 1 0
    let ld := llit 0 20 8 0 2 0 0
    let q := llit 0 20 0 0 2 0 14
    let s := one0
    s.bufferFull = false ∧ passes s (.tsamp smp) = true ∧ passes s (.tgath gth) = true ∧ passes s (.tload ld) = true ∧ passes s (.tquery q) = true
    ∧ s.enabled smp ≠ 0 ∧ (laneF { frag0 with mask := 0 }).enabled smp = 0 ∧ s.redQueues = []
    ∧ (match s.texImage smp with
      | .ok (s1, g) =>
        (match texCoord g (s.lane 8 0) (s.lane 9 0) (s.lane 10 0), s.laneLod g smp (s.enabled smp) 0 with
          | some c, some x => okay (s1.tapPlaces g (sampleTaps g smp.imm c x)) && okay (s1.tapPlaces g (gatherTaps g gth.imm c))
          | _, _ => false)
        && (match loadTap g 0 0 0 0 with | .ok t => okay (s1.tapPlaces g [t]) | .error _ => false)
      | .error _ => false) = true
    ∧ okay (s.imageRec { kind := 6 } q.sub.toNat) = true := by decide +kernel

/-! ### Witnesses for the statements about scalar code -/

theorem witness_ScalarArithmetic :
    scal0.cur.stream = .scalar ∧ (let q : State := { scal0 with cur := { stream := .sequencer }, head := { pc := 4091 } }
      q.cur.stream = .sequencer ∧ q.head.pc + 12 / 4 < 4096 ∧ 4096 ≤ q.head.pc + 20 / 4) := by decide
/-- The scalar stream with s4 = 0x1800, s5 = 0x1803, s6 = 0x2010, s7 = 0x9000, s8 = 384 and s9 = 984; virtual page 2 is host
page 5. -/
def scalM : State :=
  { scal0 with
    mem := writeBytes (writeBytes scal0.mem 0x1010 8 0x400F) 0x2020 8 0x502F,
    team := { team0 with s := [(4, 0x1800), (5, 0x1803), (6, 0x2010), (7, 0x9000), (8, 384), (9, 984)] } }
theorem witness_ScalarControl :
    let s := scalT { team0 with dq := List.replicate 32 0 }
    scal0.cur.stream = .scalar ∧ (scal0.team.spc + (0xFFFFFFE0 : W32).signExtend 64).toNat % 4 = 0
    ∧ (scal0.team.spc + (0xFFFFFFE1 : W32).signExtend 64).toNat % 4 ≠ 0 ∧ (scalM.rs 4).toNat % 4 = 0 ∧ (scalM.rs 5).toNat % 4 ≠ 0
    ∧ 32 ≤ s.team.dq.length ∧ scal0.team.dq.length < 32 := by decide
theorem witness_ScalarMemory :
    let fits (a : Int) (n : Nat) (write : Bool) : Bool :=
      a % n == 0 && decide (0 ≤ a) && (!write || decide (384 ≤ a)) && decide (a + n ≤ spillBase scalM.team)
    let acc : Acc := { kind := 8, write := true }
    let o := s96 0 1 6 4 0 2
    scalM.cur.stream = .scalar ∧ scalM.redQueues = []
    -- the first double word that may be stored, and the last below the spill stack
    ∧ fits (scalM.rs 8).toNat 8 true = true ∧ fits (scalM.rs 9).toNat 8 true = true
    ∧ spadFault scalM.team 380 4 true = some { cause := 0x06, tval := 380 } ∧ (spadFault scalM.team 992 1 false).isSome = true
    ∧ (scalM.rs 5).toNat % 8 ≠ 0 ∧ (scalM.rs 4).toNat % 8 = 0
    ∧ (match scalM.xlate 1 0 acc (scalM.rs 4), scalM.xlate 1 0 acc (scalM.rs 6), scalM.xlate 1 0 acc (2 ^ 60) with
      | .ok (.dev a), .ok (.host b), .error (.trap x) => a == 0x3800 && b == 0x5010 && x.cause == 0x10
      | _, _, _ => false) = true
    -- satom: in the window and not, an operation that host memory refuses and one that it takes
    ∧ (s96 1 1 6 4 0 0).w.f = 1 ∧ o.w.f ≠ 1 ∧ bits o.e2 2 0 ≠ 0 ∧ bits (0 : W32) 2 0 = 0 ∧ bits (0 : W32) 5 4 ≠ 2 := by decide +kernel
def mat0 : MatOp := { kind := 0, word := 0, e1 := 0x00084800, e2 := 0x3FF0, pc := 0x1000, order := 0, a := 0, b := 0 }
theorem witness_MatrixCommands :
    let mv := s96 0 9 0 0 0x00084800 0x3FF0
    let ld := s64 0 0 8 0 0x000826A0
    let clr := s64 0 0 0 0 0x20
    let s : State := { scalM with team := { scalM.team with hdr := { hdr0 with spad := 262144 }, s := [(8, 0x1000), (9, 100)] } }
    let own (u : Nat) (t : State) : State := { t with cores := [(0, { acmOwner := some u })] }
    let full := own 1 { s with team := { s.team with matOps := (List.range 4).map fun k => (k, mat0) } }
    s.cur.stream ≠ .sequencer
    ∧ (∀ k ∈ [(0, s96 0 9 0 0 0x00084800 0x3FF0), (1, s96 0 9 0 0 0x0008480A 0x3FF0), (2, mv)],
        s.matrixFault k.1 k.2 0 = none)
    ∧ (s.matrixFault 0 (s96 0 9 9 0 0x00084800 0x3FF0) 0).isSome = true
    ∧ (s.core 0).acmOwner = none ∧ ((own 1 s).core 0).acmOwner = some s.cur.uid ∧ ((own 7 s).core 0).acmOwner ≠ some s.cur.uid
    ∧ ((own 7 s).core 0).acmOwner ≠ none
    ∧ (∀ n < 4, (full.team.matOps.lookup n).isSome = true) ∧ s.team.matOps.lookup 0 = none
    ∧ s.maccFault 0 ld 0 = none ∧ s.maccFault 1 ld 0 = none ∧ s.maccFault 2 (s64 0 0 8 0 0x000822A0) 0 = none ∧ s.maccFault 3 clr 0 = none
    ∧ (s.maccFault 3 (s64 0 0 0 0 0x11F) 0).isSome = true
    ∧ lane0.bufferFull = false ∧ passes lane0 (.accRd (lop 0 8 1 0 0)) = true
    ∧ (laneF { frag0 with mask := 0 }).enabled (lop 0 8 1 0 0) = 0 ∧ lane0.enabled (lop 0 8 1 0 0) ≠ 0 := by decide
theorem witness_ScalarRingActions :
    let s := scalT { team0 with s := [(20, 0x40), (21, 0x41), (22, 1 <<< 60)] }
    let o := s96 0 8 20 21 (2 + 0x800) (9 + 20 * 128)
    let full := { s with vfs := [(1, { vf0 with ringHeld := 8 })] }
    s.cur.stream = .scalar ∧ s.team.sphase = 0 ∧ (scalT { team0 with sphase := 1 }).team.sphase ≠ 0
    ∧ bit o.e1 11 = true ∧ bit (2 : W32) 11 = false ∧ (s.rs (bits o.e2 13 7)).toNat % 64 = 0 ∧ bits (s.rs 20) 63 53 = 0
    ∧ (s.rs 21).toNat % 64 ≠ 0 ∧ bits (s.rs 22) 63 53 ≠ 0 ∧ bits (s.rs 22) 63 53 ≠ 2047
    ∧ (s.vf 1).ringHeld + 1 ≤ (s.vf 1).quota ∧ (full.vf 1).quota < (full.vf 1).ringHeld + 1 := by decide
def copy0 : CopyOp := { order := 0, uid := 1, vf := 1, ctx := 0, e1 := 0, e2 := 0, f := 0, src := 0, dst := 0 }
theorem witness_EngineCommands :
    let o := s96 0 0 8 4 0x1F800000 15
    let with_ (n : Nat) : State := { scalM with cores := [(0, { copies := (List.range n).map fun k => (k, copy0) })] }
    let sets (p : PubSet) : State := { scalM with vfs := [(1, { vf0 with pubs := [(0, p)] })] }
    let busy : PubSet := { valid := true, inflight := 65535 }
    let w := s32 1 5 0 0
    let drains (d : List (Nat × Nat × Nat)) : State := { with_ 1 with team := { scalM.team with sphase := 1, drain := d } }
    scalM.cur.stream = .scalar
    ∧ (match scalM.copyFault o with | .ok (some (1, 384), none) => true | _ => false) = true
    ∧ (match scalM.copyFault (s96 0 0 5 4 0x1F800000 15) with | .error x => x.cause == 0x0B | _ => false) = true
    ∧ (∀ n < 8, (((with_ 8).core 0).copies.lookup n).isSome = true)
    ∧ (((with_ 7).core 0).copies.lookup 7).isNone = true ∧ (∀ k < 7, (((with_ 7).core 0).copies.lookup k).isSome = true)
    ∧ scalM.pubFull 1 none = false ∧ (sets busy).pubFull 1 (some 0) = true ∧ (sets { busy with inflight := 65534 }).pubFull 1 (some 0) = false
    -- the last declared point and the first beyond
    ∧ (23 : Nat) ≠ 31 ∧ 23 < scalM.team.hdr.rdv ∧ scalM.team.hdr.rdv ≤ 24
    ∧ ((scalM.vf 1).pubs.get {} 0).valid = false ∧ (((sets busy).vf 1).pubs.get {} 0).inflight ≠ 0 ∧ w.f ≠ 0
    ∧ (((sets { busy with inflight := 0 }).vf 1).pubs.get {} 0).inflight = 0
    -- a copy into a window is outstanding on path 2; one drain waits for it and another for one that has completed
    ∧ (with_ 1).outstanding 0 2 = [(0, 0, 0)] ∧ (∃ x ∈ (drains [(0, 0, 0)]).team.drain, x ∈ (with_ 1).outstanding 0 2)
    ∧ (∀ x ∈ (drains [(0, 0, 9)]).team.drain, x ∉ (with_ 1).outstanding 0 2) := by decide
/-- The scalar stream with these scopes and s10 = k. -/
def withScopes (scopes : Store Scope) (k : W64) : State :=
  { scalM with vfs := [(1, { vf0 with ctxs := [(0, { ctx0 with scopes := scopes })] })], team := { scalM.team with s := [(10, k)] } }
theorem witness_LaunchInstructions :
    let one : Scope := { valid := true }
    let all : Store Scope := (List.range 256).map fun k => (k, one)
    let busy := withScopes [(1, { valid := true, count := 2 })] 1
    let lowest (s : State) (n : Nat) : Bool :=
      !((s.ctx 1 0).scope n).valid && (List.range n).all fun k => decide (k < 64) || ((s.ctx 1 0).scope k).valid
    let w (f : BitVec 2) := s32 f 5 10 4
    let fence (n : Nat) : State := { scalM with vfs := [(1, { vf0 with queues := [(1, { fence := n })] })], team := { team0 with s := [(4, 7), (10, 1)] } }
    let devq (n : Nat) : State :=
      { scalM with
        vfs := [(1, { vf0 with ctxs := [(0, { ctx0 with devq := List.replicate n { words := [], addr := 0, launch := 9 } })] })],
        team := { scalM.team with launching := some (s32 0 9 4 5, [], 1) } }
    scalM.cur.stream = .scalar ∧ scalM.redQueues = []
    ∧ ((scalM.ctx 1 0).scope 64).valid = false ∧ ((scalM.ctx 1 0).scope 1).valid = true
    ∧ (∀ k < 256, 64 ≤ k → (((withScopes all 1).ctx 1 0).scope k).valid = true)
    ∧ lowest scalM 64 = true ∧ lowest (withScopes (all.take 255) 1) 255 = true
    -- a scope that is done and one that is not; every form
    ∧ Context.done 257 (busy.ctx 1 0) 1 = false ∧ Context.done 257 ((withScopes [(64, one)] 64).ctx 1 0) 64 = true
    ∧ (w 2).f = 2 ∧ (w 1).f = 1 ∧ (w 0).f ≠ 1 ∧ (w 0).b ≠ 0
    -- sqfence: below the count and at it, with the fence count below B and at it
    ∧ (scalM.vf 1).qCount ≤ 2 ∧ 1 < (scalM.vf 1).qCount ∧ (((fence 6).vf 1).queues.get {} 1).fence < bits ((fence 6).rs 4) 47 0
    ∧ bits ((fence 7).rs 4) 47 0 ≤ (((fence 7).vf 1).queues.get {} 1).fence
    -- slaunch: a packet held, with the device queue full and with one place free; a misaligned packet; one that can be read
    ∧ (devq 256).team.launching = some (s32 0 9 4 5, [], 1) ∧ 256 ≤ ((devq 256).ctx 1 0).devq.length ∧ ((devq 255).ctx 1 0).devq.length < 256
    ∧ scalM.team.launching = none ∧ (scalM.rs 5).toNat % 64 ≠ 0 ∧ (scalM.rs 4).toNat % 64 = 0
    ∧ (let p (s : State) : Option Nat :=
         match s.loadVa 1 0 { kind := 8 } (s.rs 4) 64 with | .ok (_, x) => some (x / 2 ^ 72 % 2 ^ 8) | .error _ => none
       p scalM = some 0 ∧ p { scalM with mem := writeBytes scalM.mem 0x3809 1 64 } = some 64) := by decide +kernel

/-! ### Witnesses for the statements about the line sequencer -/

/-- Head 0's sequencer: 64 source columns and rows, output columns and lines, 64 KiB of work store and of weights, with s6 = 0x80, s7 = 65537
and a layer of one row, 32 × 1 weights at 0x80. -/
def frame0 : Latched := { base := 0x3000, gen := 0, snap := [] }
def seqHead : Head :=
  { en := true, running := true, next := 3, tim1 := 64 + (64 <<< 16), src := 64 + (64 <<< 16) + (256 <<< 32), alloc := 1 + (1 <<< 16), f0 := some frame0, f1 := some frame0,
    s := [(6, 0x80), (7, 65537), (8, 65536)], wts0 := writeBytes [] 0x84 4 (1 + 32 * 65536) ++ writeBytes [] 0x88 4 1 }
def seq0 : State := { base with cur := { stream := .sequencer }, head := seqHead }
def seqH (h : Head) : State := { seq0 with head := h }
theorem witness_SequencerControl :
    let none1 : Head := { seqHead with sets := 1 <<< 32 }
    let w := s32 1 5 6 0
    let p (h : Head) : Option PubSet := (h.set? (w.f.getLsbD 0)).map fun x => ((seqH h).vf ((seqH h).vfOfHead 0)).pubs.get {} x
    seq0.cur.stream = .sequencer ∧ seq0.redQueues = [] ∧ p none1 = none ∧ p seqHead = some {}
    ∧ (PubSet.gen {} ≠ (seq0.rs w.a.toNat).truncate 32) ∧ (PubSet.gen {} = (seq0.rs 0).truncate 32)
    ∧ (seqHead.info 2).put = false ∧ (({ seqHead with bands := [(2, { put := true })] } : Head).info 2).put = true
    ∧ seqHead.workSize < (seq0.rs 8).toNat + 4 * seqHead.outw * min 16 (seqHead.vact - 32)
    ∧ (seq0.rs 6).toNat + 4 * seqHead.outw * min 16 (seqHead.vact - 32) ≤ seqHead.workSize := by decide
theorem witness_SequencerOperations :
    let l := Layer.ofRaw (readBytes seqHead.wts 0x80 32)
    let asks (r : Option Bool) (g : Bool) (i : Nat) : Head := { seqHead with request := r, granted := g, progress := i }
    seq0.cur.stream = .sequencer ∧ seq0.redQueues = [] ∧ seqHead.f0 = some frame0 ∧ seqHead.f1 = some frame0 ∧ ({} : Head).f0 = none ∧ ({} : Head).f1 = none
    ∧ seqHead.mfv = false ∧ ({ seqHead with mfv := true } : Head).mfv = true
    -- lfetch of one row, lwarp of one row, lme of one row of blocks: inside the work store and beyond
    ∧ (seq0.rs 6).toNat + 1 * (4 * seqHead.sw) ≤ seqHead.workSize ∧ seqHead.workSize < (seq0.rs 8).toNat + 1 * (4 * seqHead.sw)
    ∧ (seq0.rs 6).toNat + 4 * seqHead.outw * 1 ≤ seqHead.workSize ∧ seqHead.workSize < (seq0.rs 8).toNat + 4 * seqHead.outw * 1
    ∧ 4 * ((seq0.rs 6).toNat + 1) * ((seqHead.sw + 7) / 8) ≤ seqHead.workSize ∧ seqHead.workSize < 4 * ((seq0.rs 8).toNat + 1) * ((seqHead.sw + 7) / 8)
    -- no request, one not granted, one granted with blocks to come and at its last
    ∧ seqHead.request = none ∧ (asks (some true) false 0).request ≠ none ∧ (asks (some true) true 0).granted = true
    ∧ 0 + 1 < 1 * ((seqHead.sw + 7) / 8) ∧ 1 * ((seqHead.sw + 7) / 8) ≤ 7 + 1
    -- descriptors: misaligned, beyond the bank, not allowed, beyond the stores, and one that fits
    ∧ (seq0.rs 7).toNat % 32 ≠ 0 ∧ (seq0.rs 8).toNat % 32 = 0 ∧ seqHead.wtsSize < (seq0.rs 8).toNat + 32
    ∧ (seq0.rs 6).toNat % 32 = 0 ∧ (seq0.rs 6).toNat + 32 ≤ seqHead.wtsSize ∧ layerOk (readBytes seqHead.wts 0x80 32) = true
    ∧ layerOk (readBytes seqHead.wts 0 32) = false ∧ l.fits seqHead = true ∧ l.fits { seqHead with alloc := 1 <<< 16 } = false
    ∧ l.rows = 1 ∧ l.rows ≤ 32 * (0 + 1) ∧ 32 * (0 + 1) < (Layer.ofRaw (33 * 2 ^ 32)).rows
    ∧ (l.acc {} 0 0).map (·.e) = some 0 := by decide +kernel

/-! ### Witnesses for the statements about events -/

def vfS (f : Vf) : State := { base with vfs := [(1, f)] }
def ctxS (c : Context) : State := vfS { vf0 with ctxs := [(0, c)] }
def teamS (t : Team) : State := { base with teams := [(1, t)] }
theorem witness_QueueRegisterWrites :
    let f : Vf := { vf0 with ctxsel := 1, fssel := 63, fqN := 4, fqWritten := 16 }
    let s := vfS f
    let fits (x : W64) : Bool := let n := (x.extractLsb' 0 5).toNat; decide (4 ≤ n ∧ n ≤ 16)
    f.qsel < f.qCount ∧ 1 < f.qCount ∧ f.qCount ≤ 2
    -- the sizes where the clauses meet
    ∧ fits 3 = false ∧ fits 4 = true ∧ fits 16 = true ∧ fits 17 = false
    ∧ (s.ctx 1 1).state = 0 ∧ (s.ctx 1 0).state ≠ 0 ∧ ((s.ctx 1 1).scope 63).count = 0 ∧ ((base.ctx 1 0).scope 1).count ≠ 0
    ∧ (let held (x : W64) : Nat := (BitVec.ofNat 32 f.fqWritten - x.truncate 32).toNat
       held 0 ≤ 2 ^ f.fqN ∧ 2 ^ f.fqN < held 0xFFFFFFFF ∧ 2 ^ f.fqN < held 17) := by decide
/-- A launch of one team by PMODE on core 0, with its header at 0x1880; a marker. -/
def pkt0 : Nat := 1 + 2 ^ 11 + 2 ^ 32 + 0x1880 * 2 ^ 128
def hdrRaw : Nat := 0x00014F4C + 0x21 * 2 ^ 32 + 384 * 2 ^ 64
def queueS (pkt hdr : Nat) (q : Queue) : State :=
  { vfS { vf0 with queues := [(1, q)] } with mem := writeBytes (writeBytes base.mem 0x3800 64 pkt) 0x3880 128 hdr }
def queue0 : Queue := { base := 0x1800, n := 4, enable := true, tail := 1 }
def packet0 (x : Nat) : Packet := { words := wordsOf x, addr := 0x1800, queue := some (1, 0), scope := some 0, launch := 2 }
theorem witness_LaunchEvents :
    let s := queueS pkt0 hdrRaw queue0
    let ws := wordsOf pkt0
    let m := wordsOf 2
    let checks (s : State) (x : Nat) (h : Nat) : Nat :=
      let s : State := { s with mem := writeBytes (writeBytes s.mem 0x3800 64 x) 0x3880 128 h }
      match s.check 1 0 { packet0 x with code := s.snapshot } with
      | (_, .legal _ p) => if p = [0] then 1 else 9 | (_, .illegal) => 2 | (_, .mismatch) => 3
    let h : Header := { hdr0 with spad := 785408 }
    let l : Launch := { vf := 1, ctx := 0, hdr := h, args := 0, teams := 2, span := 0, prio := 0, scope := 1, place := [5, 0], waiting := [0, 1], order := 1 }
    let st : State := { base with launches := [(1, l)] }
    let done : Team := { team0 with srun := false, groups := [(0, { grp0 with ended := true })] }
    (ctxS { ctx0 with state := 1 }).running 1 = none ∧ s.running 1 = some 0 ∧ (s.ctx 1 0).phase = .none ∧ (ctxS { ctx0 with phase := .stop }).running 1 = some 0
    ∧ ((vfS vf0).vf 1).qCount ≤ 2
    ∧ (match (queueS pkt0 hdrRaw { queue0 with base := 0x9000 }).headPacket 1 1 with | .fault => true | _ => false) = true
    ∧ (match s.headPacket 1 1 with | .packet x => x == ws | _ => false) = true
    ∧ s.packetReady 1 1 ws = true ∧ s.serves 1 0 1 (pkPrio ws) = true ∧ queue0.taken = [] ∧ pkKind ws ≠ 2 ∧ pkScope ws < 64
    ∧ pkKind m = 2 ∧ pkMarkerOk m = true ∧ pkDepv m = 0
    ∧ (let d := ctxS { ctx0 with devq := [packet0 pkt0] }; d.running 1 = some 0 ∧ d.readyQueues 1 0 = [])
    -- the check: legal, illegal, mismatch
    ∧ checks s pkt0 hdrRaw = 1 ∧ checks s (pkt0 + 2) hdrRaw = 2 ∧ checks s pkt0 (hdrRaw + 2 ^ 143) = 3
    -- a team that starts, and teams that do not end, wait for an engine, and end
    ∧ base.chosen 0 = none ∧ st.chosen 0 = some (1, 1) ∧ (st.launch 1).span = 0 ∧ (st.launch 1).place.getD 1 0 = 0
    ∧ (st.cluster 0).on = true ∧ (st.core 0).quarantined = false ∧ st.coreOf 1 0 = true ∧ st.fits 0 h 1 = true
    ∧ st.rasterWaits 0 = false ∧ (st.vf 1).saveB = 0
    ∧ base.cur = {} ∧ (base.teams.get {} 9).live = false ∧ team0.aborted = false ∧ team0.srun = true
    ∧ done.live = true ∧ done.srun = false ∧ (∀ g ∈ done.groups, g.2.ended = true) ∧ done.raster = none
    ∧ (teamS { done with matOps := [(0, mat0)] }).teamBusy 1 = true ∧ (teamS done).teamBusy 1 = false
    ∧ (let k := (teamS done).launch 1; k.ended + 1 < k.teams ∧ 1 < (((teamS done).ctx k.vf k.ctx).scope k.scope).count) := by decide +kernel
/-- Virtual addresses from 2 GiB map to device memory from 0, in pages of 1 GiB. -/
def bigMem : Store Byte := [(0x1000, 0x01), (0x1001, 0x10), (0x1010, 0x0F), (0x2000, 0x01), (0x2001, 0x40), (0x4000, 0x0F)]
/-- A free context with a save area, of a VF without clusters. -/
def freshCtx (at_ size : W64) : State :=
  { vfS { vf0 with part := 0, ctxs := [(0, { root := 0x1000, saveBase := at_, saveSize := size })] } with mem := bigMem, teams := [], launches := [] }
theorem witness_ContextEvents_creation :
    (freshCtx 0 0x1000).cur = {} ∧ (base.ctx 1 (base.vf 1).ctxsel).state ≠ 0 ∧ ((freshCtx 0 0x1000).ctx 1 0).state = 0
    ∧ (freshCtx 0 0x1000).saveAreaOk 1 0 ((freshCtx 0 0x1000).ctx 1 0) = false ∧ (freshCtx 0 0).partitionCores 1 = [] := by decide +kernel
/-! The save area of that map, page by page. -/

theorem freshCtx_devCheck (va : W64) (pa : Nat) (h : pa < 2 ^ 30) : (freshCtx 0x80000000 0).devCheck va pa = .ok () := by
  have h0 : ¬ (pa ≥ 384 * 2 ^ 30) := by omega
  have h1 (k : Nat) : bit ((freshCtx 0x80000000 0).channelMap.get 0 k) 8 = false := by show bit (0 : BitVec 9) 8 = false; decide
  simp only [State.devCheck, h0, h1, if_false, Bool.or_self, Bool.false_and, Bool.false_eq_true]
/-- Stage 2 is the identity. -/
theorem freshCtx_stage2 (va : W64) (a : Acc) (gpa : Nat) (h : gpa < 2 ^ 30) :
    (freshCtx 0x80000000 0).stage2 1 va a gpa = .ok { addr := gpa, host := false, w := true, x := true, size := 30 } := by
  have h3 : gpa / 2 ^ (12 + 9 * 3) % 2 ^ 18 = 0 := by omega
  have h2 : gpa / 2 ^ (12 + 9 * 2) % 2 ^ 9 = 0 := by omega
  have hm : gpa % 2 ^ 30 = gpa := by omega
  have r : ((freshCtx 0x80000000 0).vfs.get {} 1).s2root.toNat = 0x2000 := rfl
  have e0 : (freshCtx 0x80000000 0).entryAt (.dev 0x2000) = 0x4001 := by decide
  have e1 : (freshCtx 0x80000000 0).entryAt (.dev 0x4000) = 0x0F := by decide
  obtain ⟨b0, c0, c1, c2, c3, c4, c5, c6, c7, c8, c9, c10⟩ :
    bits (0x4001 : W64) 51 12 * 4096 = 0x4000 ∧ entryOk true 3 0 0x4001 = true ∧ entryOk true 2 0 0x0F = true ∧ bit (0x4001 : W64) 0 = true
    ∧ bit (0x4001 : W64) 1 = false ∧ bit (0x0F : W64) 0 = true ∧ bit (0x0F : W64) 1 = true ∧ bit (0x0F : W64) 4 = false ∧ bit (0x0F : W64) 5 = false
    ∧ bit (0x0F : W64) 2 = true ∧ bit (0x0F : W64) 3 = true ∧ bits (0x0F : W64) 51 12 = 0 := by decide
  simp only [State.stage2, walkLevels, walk, r, freshCtx_devCheck va 0x2000 (by decide), freshCtx_devCheck va 0x4000 (by decide), e0, e1, h3, h2, b0, c0, c1, c2, c3, c4, c5,
    c6, c7, c8, c9, c10, hm, Nat.reduceMul, Nat.reduceAdd, Nat.reduceEqDiff, if_true, if_false, Bool.not_true, Bool.not_false, Bool.false_eq_true, Nat.reduceBEq,
    Bool.false_and, Nat.zero_add, Nat.add_zero, Nat.mul_zero, false_and, ite_self]
/-- Stage 1 maps the first megabyte from 2 GiB. -/
theorem freshCtx_xlate (va : W64) (h : 2 ^ 31 ≤ va.toNat ∧ va.toNat < 2 ^ 31 + 2 ^ 20) (a : Acc) (hx : a.exec = false) :
    ∃ l, (freshCtx 0x80000000 0).xlate 1 0 a va = .ok l := by
  have h3 : va.toNat / 2 ^ (12 + 9 * 3) % 2 ^ 18 = 0 := by omega
  have h2 : va.toNat / 2 ^ (12 + 9 * 2) % 2 ^ 9 = 2 := by omega
  have hm : va.toNat % 2 ^ 30 < 2 ^ 30 := by omega
  have hc : canonical va = true := by
    have h56 : va.getLsbD 56 = false := by rw [BitVec.getLsbD, Nat.testBit_lt_two_pow]; omega
    simp only [canonical, bits, bit, Nat.shiftRight_eq_div_pow, h56, beq_iff_eq]
    simp only [Bool.false_eq_true, if_false]
    omega
  have r : (((freshCtx 0x80000000 0).vfs.get {} 1).ctxs.get {} 0).root.toNat = 0x1000 := rfl
  have e0 : (freshCtx 0x80000000 0).entryAt (.dev 0x1000) = 0x1001 := by decide
  have e1 : (freshCtx 0x80000000 0).entryAt (.dev 0x1010) = 0x0F := by decide
  obtain ⟨b0, c0, c1, c2, c3, c4, c5, c6, c7, c8, c9, c10⟩ :
    bits (0x1001 : W64) 51 12 * 4096 = 0x1000 ∧ entryOk false 3 0 0x1001 = true ∧ entryOk false 2 2 0x0F = true ∧ bit (0x1001 : W64) 0 = true
    ∧ bit (0x1001 : W64) 1 = false ∧ bit (0x0F : W64) 0 = true ∧ bit (0x0F : W64) 1 = true ∧ bit (0x0F : W64) 4 = false ∧ bit (0x0F : W64) 5 = false
    ∧ bit (0x0F : W64) 2 = true ∧ bit (0x0F : W64) 3 = true ∧ bits (0x0F : W64) 51 12 = 0 := by decide
  exact ⟨.dev (va.toNat % 2 ^ 30), by
    simp only [State.xlate, State.xlateSized, State.leafLoc, hc, hx, walkLevels, walk, r, freshCtx_stage2 va a _ (show 0x1000 < 2 ^ 30 by decide),
      freshCtx_stage2 va a _ (show 0x1010 < 2 ^ 30 by decide), freshCtx_stage2 va a _ hm, freshCtx_devCheck va _ (show 0x1000 < 2 ^ 30 by decide),
      freshCtx_devCheck va _ (show 0x1010 < 2 ^ 30 by decide), freshCtx_devCheck va _ hm, e0, e1, h3, h2, b0, c0, c1, c2, c3, c4, c5, c6, c7, c8, c9, c10,
      Nat.reduceMul, Nat.reduceAdd, Nat.reduceEqDiff, if_true, if_false, Bool.not_true, Bool.not_false, Bool.false_eq_true, Nat.reduceBEq,
      Bool.false_and, Nat.zero_add, Nat.add_zero, Nat.mul_zero, false_and, ite_self, Bool.and_self, Bool.and_false, Bool.or_self]⟩
/-- A save area of 2^20 bytes, the smallest that is large enough without a partition, is mapped. -/
theorem witness_ContextEvents_area (c : Context) (hb : c.saveBase = 0x80000000) (hs : c.saveSize = 0x100000) :
    (freshCtx 0x80000000 0).saveAreaOk 1 0 c = true := by
  simp only [State.saveAreaOk, hb, hs, Bool.and_eq_true, List.all_eq_true, List.mem_range]
  refine ⟨by decide, fun i hi => ?_⟩
  have hi : i < 256 := by simpa using hi
  have hva : ((0x80000000 : W64) + BitVec.ofNat 64 (4096 * i)).toNat = 2 ^ 31 + 4096 * i := by
    rw [BitVec.toNat_add, BitVec.toNat_ofNat]
    simp
    omega
  obtain ⟨l, hl⟩ := freshCtx_xlate (0x80000000 + BitVec.ofNat 64 (4096 * i)) (by rw [hva]; omega) { kind := 8, write := true } rfl
  rw [hl]
/-- One of a page is mapped, and too small. -/
theorem witness_ContextEvents_page : (freshCtx 0x80000000 0x1000).saveAreaOk 1 0 ((freshCtx 0x80000000 0x1000).ctx 1 0) = true := by decide +kernel
/-- Context 0 runs, in a phase; context 1 is ready and has a device packet. -/
def readyCtx : Context := { ctx0 with state := 1, scopes := [], devq := [packet0 pkt0] }
def twoCtx (p : Phase) (sel : Nat) : State := vfS { vf0 with ctxsel := sel, ctxs := [(0, { ctx0 with phase := p }), (1, readyCtx)] }
def noTeams (s : State) : State := { s with teams := [] }
/-- An aborted team with a unit on its way to a rendezvous point. -/
def abortedTeam : State := { twoCtx .stop 0 with teams := [(1, { team0 with aborted := true, units := [{ point := 0, units := 1 }] })] }
theorem witness_ContextEvents :
    -- destruction
    base.residentsOf 1 0 ≠ [] ∧ (base.ctx 1 0).state ≠ 0 ∧ (noTeams base).residentsOf 1 0 = []
    -- requests, and the end of a slice
    ∧ (twoCtx .none 0).running 1 = some 0 ∧ ((twoCtx .none 1).vf 1).ctxsel ≠ 0 ∧ ((twoCtx .grace 0).ctx 1 0).phase ≠ .none
    ∧ (twoCtx .none 0).hasWork 1 1 = true ∧ vf0.wdog ≠ 0 ∧ (twoCtx .none 0).residentsOf 1 0 ≠ [] ∧ (ctxS readyCtx).running 1 = none
    -- the phases
    ∧ (twoCtx .none 0).inPhase 1 .grace = none ∧ (twoCtx .grace 0).inPhase 1 .grace = some 0 ∧ (noTeams (twoCtx .grace 0)).residentsOf 1 0 = []
    ∧ (twoCtx .grace 0).residentsOf 1 0 ≠ [] ∧ (twoCtx .stop 0).inPhase 1 .stop = some 0
    ∧ ((twoCtx .stop 0).residentsOf 1 0).map (·.1) = [1] ∧ (State.cancelRing (twoCtx .stop 0) 1).teamUnsettled 1 = false
    ∧ (abortedTeam.residentsOf 1 0).map (·.1) = [1] ∧ (State.cancelRing abortedTeam 1).teamUnsettled 1 = true
    ∧ (noTeams (twoCtx .save 0)).inPhase 1 .save = some 0 ∧ (noTeams (twoCtx .save 0)).residentsOf 1 0 = [] := by decide
theorem witness_ContextEvents_resumption :
    base.nextContext 1 = none ∧ (twoCtx .none 0).nextContext 1 = some 1 ∧ (ctxS readyCtx).nextContext 1 = some 0 ∧ (noTeams (ctxS readyCtx)).teams = []
    ∧ readyCtx.saved = [] ∧ readyCtx.saveImage = [] ∧ readyCtx.heldCopies = [] ∧ readyCtx.heldColls = []
    -- the host's abort of a context with a team
    ∧ base.teams.lookup 1 = some team0 ∧ team0.live = true ∧ (base.launch 1).vf = 1 ∧ (base.launch 1).ctx = 0 ∧ (base.launch 1).aborted = false
    ∧ (ctxS {}).cur = {} ∧ ((ctxS {}).ctx 1 0).state = 0 := by decide
theorem witness_FaultQueueEvents :
    let p : PageReq := { vaddr := 0x9010, kind := 0, write := false, exec := false, stage2 := false }
    let t : Team := { team0 with groups := [(0, { grp0 with slotA := { frag0 with park := [p, { p with vaddr := 0xA000 }] } })] }
    let s := teamS t
    s.cur = {} ∧ (s.teams.lookup 1).isSome = true ∧ (s.teams.get {} 1).vf = 1 ∧ (t.groups.lookup 0).isSome = true
    ∧ ((p.vaddr &&& 0x000FFFFFFFFFF000) = (0x9FFF &&& 0x000FFFFFFFFFF000)) ∧ ((0xA000 : W64) &&& 0x000FFFFFFFFFF000) ≠ (0x9FFF &&& 0x000FFFFFFFFFF000)
    ∧ s.unposted 1 ≠ [] ∧ base.unposted 1 = []
    ∧ (let f : Vf := { vf0 with fqN := 4, fqWritten := 16 }; (BitVec.ofNat 32 f.fqWritten - f.fqCons).toNat ≤ 2 ^ f.fqN ∧ f.fqN ≤ 16) := by decide
/-- Between steps no stream is in focus. -/
def settled (s : State) : Bool := decide (s.cur = {} ∧ s.team = {} ∧ s.grp = {} ∧ s.frag = {} ∧ s.head = {})
theorem witness_CoreUnitEvents :
    let y : ArrUnit := { point := 23, units := 1, frag := some (0, false), dest := some 3 }
    let z : ArrUnit := { point := 0, units := 1, scalar := true, dest := some 31 }
    let w : Window := { id := 0, left := 0, pc := 0, len := 8 }
    let r : SplitRec := { token := 5, expected := 7, arrived := 1, armed := true, budget := 1 }
    let both : Group := { grp0 with slotB := { frag0 with mask := 12 }, split := [r] }
    let dead : Group := { grp0 with slotA := {}, split := [{ r with armed := false }] }
    let e : RedEntry := { line := 3, op := 0, ty := 0, width := 4, partials := [(124, 1)] }
    let grp (g : Group) : State := teamS { team0 with groups := [(0, g)] }
    settled base = true ∧ (base.teams.get {} 9).live = false ∧ team0.live = true ∧ team0.stopped = false
    ∧ y.point < 24 ∧ z.point < 24 ∧ y.frag = some (0, false) ∧ z.frag = none ∧ z.scalar = true
    -- windows: closing, still open, waiting
    ∧ settled (grp { grp0 with slotA := { frag0 with windows := [w] } }) = true ∧ w.left = 0 ∧ w.waiting = 0 ∧ w.fault = none ∧ w.readout = none
    ∧ ({ w with left := 1 } : Window).left ≠ 0 ∧ ({ w with waiting := 1 } : Window).waiting ≠ 0
    -- a record whose timer runs, with both slots full; a deadlock
    ∧ r.token = 5 ∧ r.armed = true ∧ r.arrived ≠ 0 ∧ both.split = [r] ∧ both.ended = false ∧ both.slotA.valid = true ∧ both.slotB.valid = true
    ∧ vf0.pmEn = false ∧ grp0.deadlocked = false ∧ dead.deadlocked = true ∧ dead.tstat.getLsbD 6 = false ∧ hdr0.trapHandler ≠ 0
    ∧ settled (grp both) = true ∧ settled (grp dead) = true
    -- a home slice's write at the end of its line
    ∧ e.partials = [(124, 1)] ∧ base.redQueues.get [] 0 = [] := by decide
/-- Core 0 with an array operation that feeds from point 2, whose phase is given. -/
def arr0 : MatOp := { mat0 with e2 := 0x05F0 }
def arrS (o : MatOp) (fed : W32) : State :=
  { base with
    vfs := [], cores := [(0, { acmOwner := some 1 })],
    teams := [(1, { team0 with hdr := { hdr0 with spad := 262144 }, matOps := [(0, o)], points := [(2, { phase := fed })] })] }
def clr0 : MaccOp := { kind := 3, e1 := 0x20, order := 0, a := 0, b := 0 }
def maccTeam : Team := { team0 with maccOps := [clr0] }
theorem witness_CoreUnitEvents_arrays :
    let go : MatOp := { arr0 with granted := true }
    let pair : MatOp := { arr0 with kind := 1 }
    -- none, waiting for its feed point, for its grant, running, paired without a partner
    base.arrayReady 0 = none ∧ (arrS arr0 0).arrayReady 0 = some (1, 0, arr0) ∧ feedOk ((arrS arr0 0).teams.get {} 1) arr0 0 = false
    ∧ feedOk ((arrS arr0 1).teams.get {} 1) arr0 0 = true ∧ arr0.granted = false ∧ (arrS go 1).arrayReady 0 = some (1, 0, go)
    ∧ (arrS pair 1).arrayReady 0 = some (1, 0, pair) ∧ (arrS pair 1).partner 0 pair = none
    -- accumulator commands
    ∧ (base.core 0).acmOwner = none ∧ ((arrS arr0 0).core 0).acmOwner = some 1
    ∧ maccTeam.maccOps.find? (maccFree maccTeam) = some clr0 ∧ clr0.kind = 3 ∧ team0.maccOps.find? (maccFree team0) = none := by decide
theorem witness_CoreUnitEvents_governor :
    (∀ i ∈ coresOf 0, base.asks i = none ∧ base.runsArray i = false) ∧ (arrS arr0 1).asks 0 = some [0]
    ∧ (∀ i ∈ coresOf 0, i ≠ 0 → (arrS arr0 1).asks i = none) ∧ (base.cluster 0).running = [] ∧ (base.cluster 0).ballast = []
    ∧ (base.cluster 0).requests = [] ∧ (base.cluster 0).idleMax ≤ (base.cluster 0).idle ∧ 0 < (base.pfGov.toNat / 2 ^ (4 * 0)) % 16 := by decide
/-- No function counts events. -/
theorem witness_CoreUnitEvents_uncounted : ∀ v, ((arrS arr0 1).vf v).pmEn = false := fun _ => rfl
/-- A board of key 0x104, whose strand is 4, at the stop of core 5, entered at step 0; and other actions of that key. -/
def act0 (kind : Nat) : RingAct :=
  { kind := kind, id := 0, uid := 1, vf := 1, ctx := 0, key := 0x104, entered := true, lanes := [{ lane := 0, b := 0xAA }] }
def ringS (step : Nat) (a : RingAct) (slots : Store RingSlot) : State :=
  { base with ringStep := step, ringRev := BitVec.ofNat 32 (step / 1024), cores := [(5, { stops := [(4, [a])] })], slots := slots }
/-- The slot that passes position 57 at the step after the one given, and its name. -/
def atStop5 (step : Nat) : Nat := (57 + 1024 - (step + 1) % 1024) % 1024
theorem witness_RingEvents :
    let until_ : RingAct := { act0 3 with cw := 0x00010800, lanes := [{ lane := 0, passes := 1 }] }
    let landed : RingSlot := { key := 0x104, st := 2, vf := 1 }
    let x (st : Nat) (k : W32) : State := ringS 0 (act0 0) [(1024 * 4 + atStop5 0, { landed with st := st, key := k })]
    let seen (s : State) : RingSlot := s.slot 4 (atStop5 s.ringStep)
    -- the seam, and no seam; a ring without actions
    { base with ringStep := 1024 }.ringStep / 1024 % 2 ^ 32 ≠ base.ringRev.toNat ∧ base.ringStep / 1024 % 2 ^ 32 = base.ringRev.toNat
    ∧ (∀ c ∈ base.cores, c.2.stops = []) ∧ base.slots = [] ∧ base.ringActs.length = 0
    -- a watch before its end and at it
    ∧ (act0 0).entered = true ∧ (act0 0).phase = .watch ∧ (ringS 1023 (act0 0) []).ringStep < (act0 0).since + 1024
    ∧ (act0 0).since + 1024 ≤ (ringS 1024 (act0 0) []).ringStep ∧ (∀ l ∈ (act0 0).lanes, l.result = none)
    ∧ (ringS 1024 (act0 0) []).ringStep / 1024 % 2 ^ 32 = (ringS 1024 (act0 0) []).ringRev.toNat
    -- a budget that is used up, and one that is not
    ∧ (until_.cw.extractLsb' 16 16).toNat = 1 ∧ until_.kind = 3 ∧ (∀ l ∈ until_.lanes, l.result = none ∧ 1 ≤ l.passes) ∧ base.ringTimedOut 5 until_ = true
    ∧ base.ringTimedOut 5 (act0 0) = false ∧ base.ringTimedOut 5 (act0 4) = false
    -- a passage: an empty slot, another key's, and the key's while landed and alighting
    ∧ (seen (ringS 0 (act0 0) [])).st = 0 ∧ (seen (x 2 0x10C)).st ≠ 0 ∧ (seen (x 2 0x10C)).key ≠ (act0 0).key ∧ (seen (x 2 0x104)).st = 2
    ∧ (seen (x 2 0x104)).key = (act0 0).key ∧ (seen (x 2 0x104)).vf = (act0 0).vf ∧ (seen (x 3 0x104)).st = 3 ∧ (act0 1).cw.getLsbD 11 = false
    -- a claimed slot that comes back
    ∧ ({ act0 0 with phase := .claimed (atStop5 0) } : RingAct).phase = .claimed (atStop5 0) := by decide
/-- Two teams on core 0: a copy of four words from window offset 400 of team 1 to 512 of team 2. -/
def team2 : Team := { team0 with index := 1, winBase := 1024 }
def copy1 : CopyOp :=
  { order := 0, uid := 1, vf := 1, ctx := 0, e1 := 0x21000000, e2 := 15, f := 0, src := 400, dst := 512, srcTeam := some (1, 400), dstTeam := some (2, 512) }
def copyS (c : CopyOp) : State := { base with teams := [(1, team0), (2, team2)], cores := [(0, { copies := [(3, c)] })] }
/-- A collective of two ranks of one i32 element: an all-reduce. -/
def coll0 (rank : Nat) : CollOp :=
  { order := rank, uid := 1, vf := 1, ctx := 0, core := 0, e1 := 0x009F0000, e2 := 1, f := 1, src := 0x1800, dst := 0x1840,
    part := BitVec.ofNat 64 (5 + 2 ^ 32 * rank + 2 ^ 40 * 2) }
def opened (ranks : List Nat) (res : Option (List Nat)) : Coll := { vf := 1, key := 5, ranks := ranks.map fun r => (r, coll0 r), result := res }
theorem witness_EngineEvents :
    let gone : CopyOp := { copy1 with written := [0, 1, 2, 3] }
    let s (wait : List CollOp) (gs : List Coll) : State := { base with collWait := wait, colls := gs }
    let full := opened [0, 1] (some [7])
    base.cur = {} ∧ (base.core 0).copies.lookup 3 = none ∧ ((copyS copy1).core 0).copies.lookup 3 = some copy1
    ∧ copy1.failed = false ∧ copy1.park = [] ∧ copy1.units = 4 ∧ 3 ∉ copy1.written ∧ 3 ∈ gone.written
    ∧ okay ((copyS copy1).copyUnit copy1 3) = true
    ∧ copy1.f = 0 ∧ (1 : Nat) ≠ 2 ∧ ((copyS copy1).teams.get {} 2).live = true ∧ 400 + copy1.at 3 + 4 < 2 ^ 40 ∧ 512 + copy1.at 3 + 4 < 2 ^ 40
    ∧ copy1.held = [] ∧ 384 ≤ 400 + copy1.at 0 ∧ (∀ u < gone.units, u ∈ gone.written) ∧ ¬(∀ u < copy1.units, u ∈ copy1.written) ∧ gone.pub = none
    -- collectives: a first rank, a second, one that stands there, one beyond the number of ranks
    ∧ (coll0 0).key.toNat % 4 = 1 ∧ (coll0 1).rank < (coll0 1).n ∧ (coll0 2).n ≤ (coll0 2).rank
    ∧ (opened [0] none).ranks.head? = some (0, coll0 0) ∧ ((opened [0] none).ranks.lookup 1).isSome = false ∧ ((opened [0] none).ranks.lookup 0).isSome = true
    ∧ (coll0 1).n = (coll0 0).n ∧ (coll0 1).op = (coll0 0).op ∧ (coll0 1).red = (coll0 0).red ∧ (coll0 1).fmt = (coll0 0).fmt ∧ (coll0 1).count = (coll0 0).count
    -- a rank that receives its share: first and last
    ∧ full.ranks.lookup 1 = some (coll0 1) ∧ full.ranks.length = (coll0 1).n ∧ (coll0 1).done = false ∧ (coll0 1).vf = full.vf ∧ (coll0 1).key = full.key
    ∧ (∀ p ∈ full.ranks, p.2.park = []) ∧ full.result = some [7] ∧ (base.teams.get {} (coll0 1).uid).live = true ∧ (coll0 1).pub = none
    ∧ (coll0 1).written = false ∧ okay ((s [] [full]).collWrite (coll0 1) ((List.range (coll0 1).destLen).map fun i => (i, [7].getD i 0))) = true
    -- a link failure
    ∧ (∃ p ∈ full.ranks, p.2.f = 1 ∧ p.2.done = false) ∧ base.contextsOf 1 = [0] ∧ base.colls = [] := by decide +kernel
/-- A batch at offset 0x200 of a window of 16 KiB: three vertices and two primitives, the second degenerate, on an image of 8 × 8 pixels. -/
def meshWin : Store Byte :=
  let f32 (a : Nat) (x : Nat) (m : Store Byte) : Store Byte := writeBytes m a 4 x
  let m := f32 0x240 0xBF800000 (f32 0x244 0xBF800000 (f32 0x24C 0x3F800000 []))
  let m := f32 0x250 0x3F800000 (f32 0x254 0xBF800000 (f32 0x25C 0x3F800000 m))
  let m := f32 0x260 0xBF800000 (f32 0x264 0x3F800000 (f32 0x26C 0x3F800000 m))
  writeBytes m 0x1240 4 0x00020100
def batch1 (next : Nat) (ordered : Bool) (img : Nat) : Batch :=
  { batch0 with
    vcount := 3, pcount := 2, bytes := winRead { team0 with win := meshWin } 0x240 48 * 2 ^ 512 + 0x00020100 * 2 ^ 33280, img := img, next := next,
    draw := { ordered := ordered, view := [0x40800000, 0x40800000, 0x40800000, 0x40800000, 0x3F800000, 0], x1 := 1, y1 := 1, phdr := 0x1880 } }
def meshTeam (b : Batch) : Team := { team0 with hdr := { hdr0 with spad := 16384 }, win := meshWin, batches := [(0, b)] }
def meshS (b : Batch) : State := teamS (meshTeam b)
def rasters (s : State) (b : Batch) : Option (Bool × Nat) :=
  let n := (s.focus { stream := .scalar, uid := 1 }).nextPrimitive b
  match n.2.2 with
  | none => none
  | some t =>
    match ((b.tileJobs n.2.1 t)[0]?).map (n.1.rasterJob b n.2.1) with
    | some (.ok (_, _, js)) => some (true, js.length)
    | some (.error (.trap _)) => some (false, 0)
    | _ => none
theorem witness_RenderEvents_primitives :
    let b := batch1 0 false rec1
    settled (meshS b) = true ∧ base.batchAt 0 0 = none ∧ (meshS b).batchAt 0 0 = some (1, b) ∧ (meshTeam b).batches.lookup 0 = some b
    ∧ b.fault = none ∧ b.park = [] ∧ b.next < b.pcount
    -- drawn, culled, and a visibility image that cannot be read
    ∧ rasters (meshS b) b = some (true, 0) ∧ rasters (meshS (batch1 1 false rec1)) (batch1 1 false rec1) = none
    ∧ rasters (meshS (batch1 0 false (rec1 + 2 ^ 60))) (batch1 0 false (rec1 + 2 ^ 60)) = some (false, 0) := by decide +kernel
theorem witness_RenderEvents_teams :
    let j : RasterJob := { tx := 0, ty := 0, id := 0, dw := true, cov := [1], depth := [] }
    let h : Header := { hdr0 with spad := 770048, vregs32 := 1 }
    let b (o : Bool) : Batch := { batch1 2 o rec1 with jobs := [j], hdr := h }
    let done : Batch := batch1 2 false rec1
    let w : Window := { id := 0, left := 0, waiting := 1, pc := 0, len := 8 }
    (meshS (b false)).nextJob 0 (b false) = some j ∧ (meshS (b true)).nextJob 0 (b true) = some j ∧ base.nextJob 0 done = none
    ∧ (meshS (b false)).rasterCore 1 0 h = some 0 ∧ (vf0.saveB = 0) ∧ base.nextTeam ≠ 1 ∧ (base.ctx 1 0).phase = .none
    ∧ done.pcount ≤ done.next ∧ done.jobs = [] ∧ done.running = [] ∧ (b false).jobs ≠ []
    ∧ ({ meshTeam done with groups := [(0, { grp0 with slotA := { frag0 with windows := [w] } })] } : Team).batches.lookup 0 = some done
    ∧ w.id = done.window := by decide +kernel
/-- A ray whose structure has no node: a miss. -/
theorem witness_RenderEvents_rays :
    let r : RaySlot := { args := { regs := List.replicate 8 0x3F800000 }, busy := true }
    let w : Window := { id := 0, left := 0, waiting := 1, pc := 0, len := 8 }
    let g : Group := { grp0 with slotA := { frag0 with windows := [w] }, rays := [(5, r)] }
    let s := teamS { team0 with groups := [(0, g)] }
    settled s = true ∧ g.rays.lookup 5 = some r ∧ g.rays.lookup 6 = none ∧ r.busy = true ∧ r.park = []
    ∧ (match (s.focus { stream := .scalar, uid := 1 }).rayStep (64 - s.candidates 0) r with
      | .result s1 r1 ws => s1.team == { team0 with groups := [(0, g)] } && w.id == r1.window && ws.getD 7 9 == 0
      | _ => false) = true := by decide +kernel
/-- Head 2 is local head 0 of VF 1. -/
def headVf : Vf := { vf0 with heads := 4, pubs := [(0, { valid := true })] }
def headS (h : Head) : State := { vfS headVf with coreMap := [(0, { present := true, feat0 := 0x7E })], heads := [(2, h)] }
/-- A head whose timing and sizes are allowed: 64 × 32 pixels, two bands. -/
def head0 : Head :=
  { tim1 := 64 + (32 <<< 16) + (40 <<< 32), tim2 := 300000, src := 64 + (32 <<< 16) + (1 <<< 32), sets := 1 <<< 32, loadSrc := 0x1800, loadLen := 8 }
def headOn (next dead shown : Nat) : Head := { head0 with en := true, next := next, dead := dead, shown := shown }
theorem witness_HeadEvents_registers :
    (headS head0).cur = {} ∧ base.localHead 1 0 = none ∧ (headS head0).localHead 1 0 = some 2 ∧ (headS head0).localHead 1 1 = none
    ∧ head0.en = false ∧ head0.swap = false ∧ (1 : W64).getLsbD 0 = true ∧ (1 : W64).getLsbD 1 = false ∧ (0 : W64).getLsbD 0 = false
    ∧ (headS head0).enableError 1 2 = 0 ∧ (headS { head0 with outsel := 4 }).enableError 1 2 = 1 ∧ (headS { head0 with tim2 := 0 }).enableError 1 2 = 2
    ∧ (headS { head0 with sets := (1 <<< 32) + 1 }).enableError 1 2 = 3 ∧ (headS { head0 with alloc := 512 }).enableError 1 2 = 4
    ∧ (headS { head0 with outsel := 3 }).enableError 1 2 = 0
    -- loads: allowed, and not
    ∧ head0.load = none ∧ head0.loadSrc.toNat % 64 = 0 ∧ head0.loadLen.toNat % 4 = 0 ∧ head0.loadLen.toNat ≤ 16384 ∧ (16388 : W64).toNat % 4 = 0
    ∧ 16384 < (16388 : W64).toNat ∧ head0.stuck = false
    ∧ (match (headS head0).loadBank ((headS head0).vfOfHead 2) 0x1800 2 0 [] with | (_, _, bad) => !bad) = true := by decide +kernel
theorem witness_HeadEvents_bands :
    let put : BandInfo := { ended := true, put := true, latched := true }
    let h0 := headOn 0 0 0
    let h1 : Head := { headOn 1 0 0 with bands := [(0, put)] }
    let late : Head := { headOn 1 0 0 with run := 7, bands := [(0, { put with put := false })] }
    let fb : Head := { headOn 0 0 0 with mode := some 0 }
    let p : Fallback := { band := 0, code := 4, frame := none, motion := false, phase := 0, pose := 0 }
    -- the first band's program, the second's, and a third that there is not
    head0.nb = 2 ∧ h0.next < h0.nb ∧ h0.running = false ∧ h0.mode = none ∧ h0.dead ≤ h0.next ∧ h0.swap = false ∧ h1.next ≠ 0
    ∧ (h1.info (h1.next - 1)).ended = true ∧ h1.next < 2 ∧ (headOn 2 0 0).nb ≤ 2
    -- a deadline on time, one late at the eighth band, one in fallback mode
    ∧ h1.dead < h1.nb ∧ h1.dead ≤ h1.shown ∧ h1.dead < h1.next ∧ (h1.info 0).put = true ∧ (h1.info 0).ue = false ∧ h1.log = 0
    ∧ (late.info 0).ended = true ∧ (late.info 0).put = false ∧ 8 ≤ late.run + 1 ∧ 0 ≤ fb.dead ∧ fb.mode = some 0 ∧ 0 < fb.nb ∧ (fb.info 0).mode = false ∧ fb.f0 = none
    ∧ ({ fb with bands := [(0, { mode := true })] } : Head).info 0 = { mode := true }
    -- a fallback write, scan-out, a frame's end
    ∧ ({ h0 with pending := [p] } : Head).pending = [p] ∧ p.frame = none ∧ (headOn 1 1 0).shown < (headOn 1 1 0).nb ∧ (headOn 1 1 0).shown < (headOn 1 1 0).dead
    ∧ (∀ q ∈ (headOn 1 1 0).pending, q.band ≠ 0) ∧ (headOn 2 2 2).nb ≤ (headOn 2 2 2).shown
    -- a shared unit that waits for a grant, and one that is held
    ∧ (∃ q ∈ (headS { h0 with request := some true }).heads, q.2.en = true ∧ q.2.request = some true)
    ∧ ¬(∃ q ∈ (headS { h0 with request := some true }).heads, q.2.request = some true ∧ q.2.granted = true)
    ∧ (∃ q ∈ (headS { h0 with request := some true, granted := true }).heads, q.2.request = some true ∧ q.2.granted = true) := by decide
theorem witness_RegisterWindowWrites :
    let s : State :=
      { base with
        vfs := [(1, vf0), (2, { vf0 with part := 2, qFirst := 2, qCount := 2, heads := 2, saveB := 9000, ctxs := [] })], pfVfSel := 1,
        clusters := [(3, { disabled := true })], pfPsVbase := 0x10000, pfPsLen := 0x10000, pfPsB0 := 0x10000, pfPsB1 := 0x20000 }
    let sets (p : PubSet) : State := { s with vfs := [(1, { vf0 with pubs := [(0, p)] })] }
    let field (x : W64) (hi lo : Nat) : Nat := (x.toNat / 2 ^ lo) % 2 ^ (hi + 1 - lo)
    let routine (m : Nat) : State := { base with vfs := [(1, { vf0 with atrAddr := 0x1800 })], mem := writeBytes base.mem 0x3800 4 m, coreMap := [(0, { present := true, feat0 := 0x40 })] }
    s.pfVfSel ≠ 0 ∧ base.pfVfSel = 0 ∧ s.vf 1 = vf0
    -- publish sets: allowed, and with one too close; in flight or not
    ∧ canonical s.pfPsVbase = true ∧ s.pfPsLen.toNat % 65536 = 0 ∧ 0x10000 + 0x10000 ≤ 0x20000 ∧ ((s.vf 1).pubs.get {} s.pfPsSel).valid = false
    ∧ (((sets { inflight := 1 }).vf 1).pubs.get {} 0).inflight ≠ 0
    -- clusters of another VF, disabled, and a change while a context runs; one that is allowed
    ∧ (∃ p ∈ s.vfs, p.1 ≠ 1 ∧ p.2.part &&& 2 ≠ 0) ∧ (8 : W32).getLsbD 3 = true ∧ (s.cluster 3).disabled = true ∧ (1 : W32) = (s.vf 1).part ∧ (s.running 1).isSome = true
    -- queues that meet those of VF 2 and that end where they begin; 65,536 and beyond
    ∧ ¬(1 + 2 ≤ 2 ∨ 4 ≤ 1) ∧ 0 + 2 ≤ 2 ∧ field 0x1FFFF 15 0 + field 0x1FFFF 32 16 = 65536 ∧ 65536 < field 0x2FFFF 15 0 + field 0x2FFFF 32 16
    ∧ field 8192 13 0 = 8192 ∧ 8192 < field 8193 13 0
    -- the save budget: 7,000 beside 9,000, and one more
    ∧ 7000 + ((s.vfs.filter fun p => p.1 != 1).map fun p => p.2.saveB).sum = 16000 ∧ s.contextsOf 1 ≠ [] ∧ s.contextsOf 2 = []
    ∧ (∃ p ∈ s.vfs, p.1 ≠ 1 ∧ p.2.heads &&& 2 ≠ 0)
    ∧ field 500 11 0 = 500 ∧ field 2000 11 0 = 2000 ∧ field 0xAF5 3 0 ≤ field 0xAF5 11 8 ∧ field 0xAF5 11 8 ≤ field 0xAF5 7 4 ∧ field 0x1111111111111111 63 60 = 1 ∧ field 0x1111111111111110 3 0 = 0
    ∧ field 0x118 4 0 = 24 ∧ field 0x118 15 8 = 1 ∧ field 12 7 0 ≤ 12 ∧ field 13 7 0 = 13
    -- routines: the load of one register that the checks accept, no feature, and a register beyond 15
    ∧ okay ((routine 0x00000015).routineCheck 1 1) = false ∧ (match base.routineCheck 1 1 with | .error e => e | .ok _ => 0) = 6
    ∧ okay ((routine 0x000000D1).routineCheck 1 1) = true ∧ (match (routine 0x100000D1).routineCheck 1 1 with | .error e => e | .ok _ => 0) = 2 := by decide +kernel
theorem witness_PackageEvents :
    let r : BringUpReport :=
      { firmwareOk := true, linksOk := true, stacksOk := true, strandsOk := true, goodCores := [], badCoprocessors := [], failedChannels := [],
        stackUnits := 255, scanOk := true, linkOk := true }
    let cold : State := {}
    let k0 (c : Cluster) : State := { base with teams := [], clusters := [(0, c)], coreMap := [(0, { present := true, feat0 := 0x7E })] }
    let slot : RingSlot := { st := 2, vf := 1 }
    cold.bringUpDone = false ∧ cold.recovery = none ∧ base.bringUpDone = true ∧ base.cur = {}
    ∧ r.firmwareOk = true ∧ r.linksOk = true ∧ r.stacksOk = true ∧ r.strandsOk = true ∧ ({ r with strandsOk := false } : BringUpReport).strandsOk = false
    -- good cores: all, and one below the 22 that a cluster needs
    ∧ 22 ≤ popcount 26 (r.goodCores.get (BitVec.allOnes 26) 0).toNat ∧ popcount 26 (0x1FFFFF : BitVec 26).toNat = 21 ∧ (cold.cluster 0).disabled = false
    -- the cap: 105 °C and below, and the readings where the clauses meet
    ∧ (105 : Int) ≤ 105 ∧ (104 : Int) < 105 ∧ (100 * 1899 : Int) < 95 * 2000 ∧ (95 * 2000 : Int) ≤ 100 * 1900 ∧ ¬((2000 : Int) < 2000)
    ∧ (base.cluster 0).on = true ∧ (base.cluster 1).on = false ∧ (base.cluster 1).disabled = false ∧ base.vfOfCluster 1 = none
    ∧ (vfS { vf0 with part := 2 }).vfOfCluster 1 = some 1
    -- functions, errors
    ∧ base.linkUp = false ∧ base.recovery = none ∧ ({ base with linkUp := true } : State).linkUp = true ∧ (base.ctx 1 0).state ≠ 0 ∧ (base.ctx 1 1).state = 0
    ∧ (base.slots.get {} 8191).st = 0 ∧ (({ base with slots := [(8191, slot)] } : State).slots.get {} 8191).st ≠ 0
    -- a repair: by a spare, of co-processors, of a degraded cluster, with a team there
    ∧ (base.coreMap.get {} 1).present = false ∧ ((k0 { spares := [24] }).coreMap.get {} 0).present = true ∧ (k0 { spares := [24] }).residents 0 = []
    ∧ ((k0 { spares := [24] }).cluster 0).spares = [24] ∧ ((k0 {}).cluster 0).spares = [] ∧ (1 : BitVec 3) ≠ 0
    ∧ ((k0 { degraded := true }).cluster 0).degraded = true ∧ (∀ i ∈ coresOf 0, (k0 { degraded := true }).residents i = [])
    ∧ (base.coreMap.get {} 0).present = true ∧ base.residents 0 ≠ [] := by decide +kernel
theorem witness_DecodeAndEncodeAgree :
    let i := Instr.addL32 (sh 0 4 1 2)
    let s := Instr.saddS32 (s32 0 5 4 6)
    i.wf = true ∧ i.isEvent = false ∧ (Instr.mmv (s96 0 9 4 5 0x00084800 0x3FF0)).wf = true
    ∧ parseBase ((encode s).getD 0 0) 0 0 = some s ∧ (s32 0 5 4 6).regsBelow 32 = true ∧ s.s32? = some (s32 0 5 4 6)
    ∧ decode .lane 0 ((encode i).getD 0 0) 0 0 = .instr i ∧ (0 : W32) = 0 ∧ (4 : W32) ≠ 0 ∧ bits (4 : W32) 1 0 = 0
    ∧ 2 ≤ bits (0x39A : W32) 1 0 ∧ bits (0x39A : W32) 9 2 = 0xE6 ∧ bits (0x3BE : W32) 9 2 = 0xEF
    ∧ 1 ≤ bits (0x161 : W32) 1 0 ∧ bits (0x161 : W32) 8 2 = 0x58 ∧ bits (0x17D : W32) 8 2 = 0x5F := by decide

/-! ### Witnesses for the clauses about faults, waits and parks -/

/-- The cause of a stop that is a trap; 256 for a replayable fault. -/
def stopCause {α : Type} : Except Stop α → Option Nat
  | .error (.trap t) => some t.cause
  | .error (.page _) => some 256
  | _ => none
def stopCauses {α : Type} : Except (Stop × List PageReq) α → Option Nat
  | .error (.trap t, _) => some t.cause
  | .error (.page _, _) => some 256
  | _ => none
theorem witness_WindowAccesses_faults :
    let s := { lane0 with team := { team0 with hdr := { hdr0 with raceCheck := true }, race := [(12, (1, 0))] }, frag := { frag0 with mask := 1 } }
    let o (imm : W32) : LOp := llit 4 0 1 2 0 2 imm
    let f (imm : W32) (n : Nat) (write race : Bool) : Option Nat := (windowTrap s.team s.grp.gid n write race (s.spadAddr (o imm) 0)).map (·.cause)
    passes s (.sts (o 380)) = true ∧ passes s (.lds (llit 4 8 1 0 0 2 992)) = true ∧ lanesOf (s.enabled (o 380)) = [0] ∧ s.bufferFull = false
    -- below what may be stored, beyond the window's range, not aligned, in a sector that another group has written; and none
    ∧ f 380 4 true true = some 0x06 ∧ f 992 4 false true = some 0x06 ∧ f 386 4 false true = some 0x0B ∧ f 412 4 false true = some 0x14
    ∧ f 384 4 true false = none ∧ f 416 4 true true = none
    -- emitv and emitp with the last primitive beyond the window
    ∧ windowTrap lane0.team 0 4 true true ((0x1040 + 4 * 511 : Nat) : Int) ≠ none := by decide
/-- The lane's core with a record 3 of four i32 elements under BMODE 2, and a record 4 of an unmapped page. -/
def faulty0 : State :=
  { one0 with cores := [(0, { recs := [(256, rec0), (259, 0x1800 + 0x10 * 2 ^ 64 + 2 * 2 ^ 226 + 0x04 * 2 ^ 243), (260, 0x9000 + 0x100 * 2 ^ 64 + 0x04 * 2 ^ 243)] })] }
theorem witness_RecordLoads_faults :
    let o (n : BitVec 8) : LOp := llit 0 8 1 0 n 2 0
    let r := Rec.ofRaw (0x1800 + 0x10 * 2 ^ 64 + 2 * 2 ^ 226 + 0x04 * 2 ^ 243)
    let cause (n : BitVec 8) : Option Nat :=
      match faulty0.bufferRec { kind := 0 } n.toNat with
      | .ok (s1, r) => stopCauses (s1.elems (o n) r { kind := 0 } (elemWidth r.fmt) (loadAllowed 0 r.fmt) true (fun _ _ => false))
      | .error _ => none
    passes faulty0 (.ldb (o 3)) = true ∧ faulty0.enabled (o 3) ≠ 0 ∧ faulty0.bufferFull = false
    -- no such record, an element out of bounds, one whose page is not mapped, a format that the type does not allow
    ∧ stopCause (faulty0.bufferRec { kind := 0 } 8) = some 0x12 ∧ faulty0.team.hdr.recCount ≤ 8 ∧ cause 3 = some 0x13 ∧ cause 4 = some 256 ∧ cause 0 = none
    ∧ r.bmode = 2 ∧ ¬(r.pos 32 5 0 + 32 ≤ 8 * r.size) ∧ r.pos 32 3 0 + 32 ≤ 8 * r.size ∧ r.pos 32 0 1 % 32 ≠ 0 ∧ r.ok = true
    ∧ loadAllowed 0 0x09 = false := by decide
theorem witness_RecordStores_faults :
    let o (n : BitVec 8) : LOp := llit 0 0 1 2 n 2 0
    let acc : Acc := { kind := 1, write := true }
    let cause (n : BitVec 8) : Option Nat :=
      match faulty0.bufferRec acc n.toNat with
      | .ok (s1, r) => stopCauses (s1.elems (o n) r acc (elemWidth r.fmt) (storeAllowed 0 false r.fmt) false (fun _ _ => false))
      | .error _ => none
    let win : Elem := { pos := 0, w := 32, n := 4, place := .window 0x1FC }
    passes faulty0 (.stb (o 3)) = true ∧ faulty0.enabled (o 3) ≠ 0 ∧ faulty0.bufferFull = false ∧ stopCause (faulty0.bufferRec acc 8) = some 0x12
    ∧ cause 3 = some 0x13 ∧ cause 4 = some 256 ∧ isMx 0x04 = false
    -- the sectors that a checked store marks
    ∧ (match win.place with | .window a => a / 32 == 15 && (a + win.n - 1) / 32 == 15 | _ => false) = true := by decide
theorem witness_RecordAtomics_faults :
    let o (n : BitVec 8) : LOp := llit 0 8 1 2 n 2 0
    let p (n : BitVec 8) : LOp := llit 0 8 1 0 n 0 3
    let acc : Acc := { kind := 2, write := true }
    let s := { faulty0 with vfs := [(1, { vf0 with routines := [(3, [0x00000001])] })] }
    let causes (n : BitVec 8) : Option Nat × Option Nat :=
      match s.bufferRec acc n.toNat with
      | .ok (s1, r) =>
        (stopCauses (s1.atomElems (o n) r acc 0 (atomType r.fmt false) 32),
         stopCauses (gather ((lanesOf (s.enabled (p n))).map fun l =>
            (l, s1.hostCheck false (r.base + BitVec.ofInt 64 (r.pos (elemWidth r.fmt) (s1.elemIndex (p n) l) 0 / 8))
              (s1.elem { r with race := false } (p n).sub.toNat acc (elemWidth r.fmt) true false (s1.elemIndex (p n) l) 0 (fun _ => false))))))
      | .error _ => (none, none)
    passes s (.atom (o 3)) = true ∧ passes s (.gred (llit 0 0 1 2 4 2 0)) = true ∧ passes s (.patom (p 3)) = true ∧ s.enabled (o 3) ≠ 0
    ∧ (s.vf s.team.vf).routines.lookup (p 3).imm.toNat = some [0x00000001] ∧ (faulty0.vf faulty0.team.vf).routines.lookup (p 3).imm.toNat = none
    ∧ stopCause (s.bufferRec acc 8) = some 0x12 ∧ causes 3 = (some 0x13, some 0x13) ∧ causes 4 = (some 256, some 256) := by decide

theorem witness_MeshEmission_faults :
    let p := lop 0 0 8 7 6
    let small := { mesh0 with team := team0 }
    let phdr (m : Store Byte) (a : Nat) : State := { mesh0 with mem := writeBytes m 0x3D28 8 a }
    let word (x : Nat) : Option Nat := stopCause ({ mesh0 with mem := writeBytes mesh0.mem 0x3D00 4 x }.emitCheck 0x1D00 0x200)
    -- a primitive beyond a window of 1 KiB
    passes small (.emitp p) = true ∧ lanesOf (small.enabled p) = [0] ∧ small.bufferFull = false
    ∧ (windowTrap small.team small.grp.gid 4 true true ((small.srcC p false false 0 + 0x1040 + 4 * small.srcB p false false 0 : Nat) : Int)).map (·.cause) = some 0x06
    -- a descriptor not aligned, one with a reserved field or a CULL of 3, a record that is no visibility image or does not exist
    ∧ stopCause (mesh0.emitCheck 0x1D04 0x200) = some 0x0B ∧ (0x1D04 : W64).toNat % 64 ≠ 0
    ∧ word 0x1001 = some 0x12 ∧ word 0x301 = some 0x12 ∧ word 2 = some 0x12 ∧ word 0 = some 0x12 ∧ word 200 = some 0x12 ∧ word 1 = none
    ∧ drawOk 0x1001 = false ∧ imageOk rec2 = true ∧ (Image.ofRaw rec2).ifmt ≠ 0x30 ∧ imageOk rec0 = false
    -- a PHDR not aligned, one without a header, one of a team of two groups, one with a feature that the core lacks; and none of these
    ∧ stopCause ((phdr mesh0.mem 0x1840).emitCheck 0x1D00 0x200) = some 0x12 ∧ stopCause ((phdr mesh0.mem 0x1900).emitCheck 0x1D00 0x200) = some 0x12
    ∧ (let h (x : Nat) : Option Nat := stopCause ((phdr (writeBytes mesh0.mem 0x3880 128 x) 0x1880).emitCheck 0x1D00 0x200)
       h (hdrRaw + 2 ^ 32) = some 0x12 ∧ h (hdrRaw + 2 ^ 143) = some 0x12 ∧ headerOk (hdrRaw + 2 ^ 32) = true ∧ h hdrRaw = none) := by decide +kernel
theorem witness_PixelInstructions_faults :
    let vb (n : BitVec 8) : LOp := llit 0 8 1 0 n 0 0
    let va := { lop 0 8 12 1 5 with x := .reg 5 }
    let g := { Image.ofRaw rec1 with bmode := 2 }
    let s (a : W64) : State := { faulty0 with
      cores := [(0, { recs := [(257, rec1), (258, rec2), (259, rec1 + 2 * 2 ^ 226)] })], team := { team0 with s := [(5, a)] },
      grp := { grp0 with v := [(1, Vector.replicate 96 8)] } }
    passes (s 0) (.vbld (vb 3)) = true ∧ (s 0).enabled (vb 3) ≠ 0 ∧ passes (s 0) (.vbary va) = true ∧ (s 0).bufferFull = false
    -- no such record, one that is no visibility image, a pixel outside
    ∧ stopCause ((s 0).imageRec { kind := 0 } 8) = some 0x12 ∧ (Image.ofRaw rec2).ifmt ≠ 0x30 ∧ (Image.ofRaw rec1).ifmt = 0x30
    ∧ (match (s 0).imageRec { kind := 0 } 3 with
      | .ok (s1, g) => stopCauses (gather ((lanesOf (s1.enabled (vb 3))).map fun l => (l, s1.vbldPlace g (s1.srcA (vb 3) false l) 0)))
      | .error _ => none) = some 0x13
    ∧ g.bmode ≠ 0 ∧ g.bmode ≠ 1 ∧ g.width ≤ 8 % 2 ^ 14 ∧ g.height ≤ 8 * 2 ^ 14 / 2 ^ 14 % 2 ^ 14 ∧ g.samples ≤ 1
    -- vbary's descriptor
    ∧ ((s 0x1D20).rs 5).toNat % 64 ≠ 0 ∧ ((s 0x9000).rs 5).toNat % 64 = 0
    ∧ stopCause ((s 0x9000).loadVa 1 0 { kind := 0 } 0x9000 64) = some 256
    -- cover without a raster group
    ∧ (s 0).team.raster = none := by decide
theorem witness_TextureReads_faults :
    let smp (n : BitVec 8) : LOp := { llit 1 20 8 12 n 1 0 with la := 3 }
    let gth (n : BitVec 8) : LOp := llit 0 20 8 0 n 1 0
    let ld (n : BitVec 8) : LOp := llit 0 20 8 0 n 0 0
    let s : State := { one0 with
      cores := [(0, { recs := [(258, rec2), (259, rec2 + 2 * 2 ^ 226), (260, rec2 + 0x9000 - 0x1800)] })], grp := { grp0 with v := [(8, Vector.replicate 96 8)] } }
    let g := { Image.ofRaw rec2 with bmode := 2 }
    let places (n : BitVec 8) (taps : Image → Option (List Tap)) : Option Nat :=
      match s.texImage (smp n) with
      | .ok (s1, g) => stopCauses (gather ((lanesOf (s1.enabled (smp n))).map fun l => (l, s1.tapPlaces g ((taps g).getD []))))
      | .error _ => none
    let sampled (n : BitVec 8) (g : Image) : Option (List Tap) :=
      match texCoord g (s.lane 8 0) (s.lane 9 0) (s.lane 10 0), s.laneLod g (smp n) (s.enabled (smp n)) 0 with
      | some c, some x => some (sampleTaps g 0 c x) | _, _ => none
    let gathered (g : Image) : Option (List Tap) := (texCoord g (s.lane 8 0) (s.lane 9 0) (s.lane 10 0)).map fun c => gatherTaps g 0 c
    passes s (.tsamp (smp 4)) = true ∧ passes s (.tgath (gth 4)) = true ∧ passes s (.tload (ld 3)) = true ∧ passes s (.tquery (llit 0 20 0 0 8 0 14)) = true
    ∧ s.enabled (smp 4) ≠ 0 ∧ s.bufferFull = false
    -- a record that does not exist, a result type that the format does not list, an unmapped page, a coordinate out of range
    ∧ stopCause (s.texImage (smp 8)) = some 0x12 ∧ stopCause (s.imageRec { kind := 6 } 8) = some 0x12 ∧ s.team.hdr.recCount ≤ 8
    ∧ stopCause (s.texImage { smp 2 with f := 5 }) = some 0x12 ∧ (s.texImage (smp 4)).toOption.isSome = true
    ∧ (sampled 4 (Image.ofRaw rec2)).isSome = true ∧ (gathered (Image.ofRaw rec2)).isSome = true
    ∧ places 4 (sampled 4) = some 256 ∧ places 4 gathered = some 256
    ∧ g.bmode ≠ 0 ∧ g.bmode ≠ 1 ∧ (g.level 0).1 ≤ 8 ∧ (match loadTap g 0 8 0 0 with | .error (.trap t) => t.cause == 0x13 | _ => false) = true
    ∧ g.mips ≤ 1 ∧ g.dim ≠ 0 ∧ (g.level 0).2.1 ≤ 8 := by decide +kernel
theorem witness_SpecialRegisterAccesses_unseen :
    let s : State := { lane0 with vfs := [(1, { vf0 with pmEn := true, pmEv := [(0, 0x02), (1, 0x01)], pmCev := [(0, 0x20)] })] }
    let rd (k : W32) : Instr := .ctrrd (llit 0 2 0 0 0 0 k)
    passes s (rd 0x00) = true ∧ passes s (rd 0x01) = true ∧ (s.vf s.team.vf).pmEn = true ∧ (s.vf s.team.vf).pmEv.get 0 0 = 0x02
    ∧ (s.vf s.team.vf).pmEv.get 0 1 ∉ [0x02, 0x03, 0x07, 0x0B] ∧ (s.vf s.team.vf).pmCev.get 0 0 = 0x20 ∧ (s.vf s.team.vf).pmCev.get 0 1 ≠ 0x20
    ∧ (lane0.vf lane0.team.vf).pmEn = false := by decide

theorem witness_ScalarControl_sequencer :
    let q (pc : Nat) : State := { scal0 with cur := { stream := .sequencer }, head := { pc := pc, s := [(1, 0x4000), (2, 0x102), (3, 0x3FFC)] } }
    let dest (pc : Nat) (e : W32) : Int := 4 * (q pc).head.pc + e.toInt
    (q 0).cur.stream = .sequencer ∧ dest 4094 8 = 16384 ∧ dest 1 0xFFFFFFF8 < 0 ∧ dest 1 2 % 4 ≠ 0 ∧ dest 4095 0 = 16380 ∧ dest 4095 0 % 4 = 0
    ∧ ((q 0).rs 1).toNat = 16384 ∧ ((q 0).rs 2).toNat % 4 ≠ 0 ∧ ((q 0).rs 3).toNat = 16380
    -- a branch not taken, with and without a next word
    ∧ (q 4093).head.pc + 2 < 4096 ∧ 4096 ≤ (q 4094).head.pc + 2 ∧ ((q 0).rs 0 == 0) = true := by decide
theorem witness_ScalarMemory_faults :
    let at_ (a : Nat) : State := { scalM with team := { scalM.team with s := [(4, BitVec.ofNat 64 a)] } }
    let a (k : Nat) : Int := ((at_ k).rs 4).toNat
    -- not aligned; a store below byte 384; beyond the range; every later clause's earlier ones hold
    a 386 % 4 ≠ 0 ∧ a 380 % 4 = 0 ∧ a 380 < 384 ∧ a 992 % 4 = 0 ∧ 384 ≤ a 992 ∧ spillBase (at_ 992).team < a 992 + 4
    -- a page that is not mapped
    ∧ stopCause ((at_ 0x9000).xlate 1 0 { kind := 8, write := true } ((at_ 0x9000).rs 4)) = some 256 ∧ ((at_ 0x9000).rs 4).toNat % 8 = 0 := by decide +kernel
/-- A team of launch 1 with two fragments; the other holds a window whose load faulted. -/
def lateWin : Window := { id := 0, left := 3, pc := 0xFF4, len := 12, fault := some (.trap { cause := 0x0B, tval := 0 }), passed := 1 }
theorem witness_TrapEntry_late :
    let w : Window := { id := 0, left := 3, pc := 0xFF4, len := 12 }
    let p : PageReq := { vaddr := 0x9010, kind := 0, write := false, exec := false, stage2 := false }
    let r : Issued := { v := [], g := [], s := [], mask := 1 }
    let f : Window := { w with id := 1, fault := some (.page [p] r) }
    let s := laneF { frag0 with windows := [w, f, { w with id := 2, waiting := 1 }] }
    s.frag.windows = [w] ++ f :: [{ w with id := 2, waiting := 1 }] ∧ (∀ q ∈ [w], q.fault = none) ∧ f.fault = some (.page [p] r)
    ∧ (∃ q ∈ [lateWin, { w with waiting := 1 }], q.waiting ≠ 0) ∧ (∀ q ∈ [lateWin], q.waiting = 0) ∧ lateWin.fault = some (.trap { cause := 0x0B, tval := 0 })
    -- an abort: of a launch with a team to start, of its last, of one without, and of one that is aborted
    ∧ base.cur = {} ∧ (base.launch 1).aborted = false ∧ (base.launch 1).waiting.length = 0
    ∧ (let s (n e : Nat) (ab : Bool) : State := { base with launches := [(1, { base.launch 1 with waiting := List.range n, ended := e, aborted := ab })] }
       ((s 1 0 false).launch 1).waiting.length ≠ 0 ∧ ((s 1 0 false).launch 1).ended + 1 < ((s 1 0 false).launch 1).teams
       ∧ ((s 1 1 false).launch 1).teams ≤ ((s 1 1 false).launch 1).ended + 1 ∧ ((s 0 0 true).launch 1).aborted = true)
    ∧ ((base.ctx 1 0).scope 1).err = false := by decide
theorem witness_TrapReturn_held :
    let p : PageReq := { vaddr := 0x9010, kind := 0, write := false, exec := false, stage2 := false, failed := true }
    let late := laneF { frag0 with windows := [lateWin] }
    let parked := laneF { frag0 with park := [p] }
    late.grp.held = none ∧ (∀ w ∈ late.frag.windows, w.waiting = 0) ∧ late.frag.park = []
    ∧ firstFault late.frag.windows = some (lateWin, .trap { cause := 0x0B, tval := 0 })
    ∧ parked.frag.park = p :: [] ∧ p.failed = true ∧ parked.frag.windows = [] ∧ lane0.frag.park = [] ∧ lane0.frag.windows = []
    -- the return, with the other slot in use and without windows and parks
    ∧ (let g := laneG { grp0 with tstat := 0x240, slotB := { frag0 with mask := 12 } }
       (g.grp.slotOf !g.cur.slotB).valid = true ∧ (g.grp.slotOf !g.cur.slotB).windows = [] ∧ (g.grp.slotOf !g.cur.slotB).park = []) := by decide
theorem witness_BracketAndDecisionResults_waiting :
    let d := lop 0 4 0 0 0
    (laneF { frag0 with dqWait := true }).frag.dqWait = true ∧ lane0.frag.dqWait = false ∧ passes (laneF { frag0 with dqWait := true }) (.dqtake d) = true := by decide
theorem witness_MaskWordWrites_pair :
    let w : L32 := { sh 4 0 0 3 with g := true }
    w.f = 4 ∧ w.d = 0 ∧ (setMaskWord (setMaskWord lane0.frag.mask 0 (lane0.rg 3)) 1 (lane0.rg 4)) &&& (lane0.frag.mask ||| lane0.grp.dormant) = 0 := by decide

theorem witness_RingEvents_claims :
    let n := atStop5 0
    let k := 8 * n
    let slot (st bpos : Nat) : RingSlot := { key := 0x104, st := st, vf := 1, bpos := bpos }
    let x (ph : RingPhase) (st bpos : Nat) : State := ringS 0 { act0 0 with phase := ph } [(1024 * 4 + n, slot st bpos)]
    let seen (s : State) : RingSlot := s.slot 4 (atStop5 s.ringStep)
    let mine (s : State) : Bool := (seen s).st != 0 && (seen s).key == 0x104 && (seen s).vf == 1
    -- while another slot travels: a landed slot, a pending one that was claimed at a lower position, at the same one earlier, and at a higher one
    (4, [act0 0]) ∈ (ringS 0 (act0 0) []).cores.flatMap (·.2.stops) ∧ k ≠ n ∧ (∀ p ∈ (x (.claimed k) 2 60).slots, p.2.lost = false ∧ p.2.revert = none)
    ∧ mine (x (.claimed k) 2 60) = true ∧ mine (x (.claimed k) 1 52) = true ∧ (seen (x (.claimed k) 1 52)).bpos < 57
    ∧ (seen (x (.claimed k) 1 57)).bpos = 57 ∧ (seen (x (.claimed k) 1 57)).claim < ({ act0 0 with id := 1 } : RingAct).id
    ∧ ¬((seen (x (.claimed k) 1 60)).bpos < 57 ∨ ((seen (x (.claimed k) 1 60)).bpos = 57 ∧ (seen (x (.claimed k) 1 60)).claim < 0))
    -- a board that has lost; its watch before its end and at it
    ∧ mine (x .lost 2 60) = true ∧ mine (x .lost 1 60) = true ∧ (x .lost 2 60).ringStep < (act0 0).since + 1024
    ∧ (act0 0).since + 1024 ≤ (ringS 1024 { act0 0 with phase := .lost } []).ringStep ∧ act0 0 = { act0 0 with kind := 0 }
    -- a board at an alighting slot: still alighting, landed again, empty, another's
    ∧ mine (x (.alightWait n) 3 60) = true ∧ (seen (x (.alightWait n) 3 60)).st = 3 ∧ (seen (x (.alightWait n) 2 60)).st = 2 ∧ (seen (x (.alightWait n) 0 60)).st = 0
    ∧ (seen (x (.alightWait n) 1 60)).st = 1
    -- a home write that has performed, one parked, one that failed
    ∧ (x (.home n true) 3 60).ringActs.map (·.2.2.phase) = [.home n true] ∧ (x (.home k false) 3 60).ringActs.map (·.2.2.phase) = [.home k false]
    ∧ ({ act0 1 with phase := .homeFail n { cause := 0x10, tval := 0 } } : RingAct).phase = .homeFail n { cause := 0x10, tval := 0 } := by decide
theorem witness_RingEvents_passages :
    let n := atStop5 0
    let home (h : W64) (a : RingAct) : State := ringS 0 a [(1024 * 4 + n, { key := 0x104, st := 2, vf := 1, home := some h })]
    let alight : RingAct := { act0 1 with cw := 0x800 }
    let stored (h : W64) : Option Nat := stopCause (({ home h alight with ringStep := 1 }.setSlot 4 n { key := 0x104, st := 3, vf := 1, home := some h }).storeVa 1 0 { kind := 7, write := true } h 64 0)
    let until_ : RingAct := { act0 3 with cw := 0x00010800, lanes := [{ lane := 0, b := 5 }] }
    -- an alight with a home: written, an address that is not canonical, a page that is not mapped
    alight.cw.getLsbD 11 = true ∧ stored 0x1800 = none ∧ stored 0x9000 = some 256 ∧ (stored 0x9000000000000).isSome = true
    -- a wcap.until whose condition does not hold, and one whose does (a field of 0)
    ∧ untilHolds 0 0 5 = false ∧ untilHolds 0 0 0 = true ∧ (∀ l ∈ until_.lanes, l.result = none)
    -- cvtq and amxcom; a stop under quarantine; the scalar stream's action
    ∧ (act0 5).kind = 5 ∧ (act0 6).kind = 6 ∧ (act0 0).mustFinish = false
    ∧ (let s := ringS 0 (act0 0) []
       s.cores = [(5, { stops := [(4, [act0 0])] })] ∧ s.ringStep / 1024 % 2 ^ 32 = s.ringRev.toNat)
    -- in a ring without actions: a lost claim at its position, an abandoned home write
    ∧ (57 + 1024 - (0 + 1) % 1024) % 1024 = n ∧ (60 + 1024 - (0 + 1) % 1024) % 1024 ≠ n
    -- an action that waits for an earlier one of its group, and one with ANY that does not
    ∧ (let a : RingAct := { act0 4 with id := 1, win := some (0, 1) }
       let s : State := { base with cores := [(5, { stops := [(4, [{ act0 4 with win := some (0, 0) }, a])] })] }
       s.ringInOrder 5 a = false ∧ s.ringInOrder 5 { a with cw := 0x2000 } = true ∧ s.ringInOrder 5 { a with cw := 0xA000 } = false)
    -- payloads: a deque with room and one that is full or empty, a history
    ∧ (let q (top bottom limit : Nat) : BitVec 512 := BitVec.ofNat 512 (top + bottom * 2 ^ 32 + limit * 2 ^ 64)
       (rewriteStep 11 false (q 1 2 4) { lane := 0 }).2.2 = 0 ∧ (rewriteStep 11 false (q 1 5 4) { lane := 0 }).2.2 = 5
       ∧ (rewriteStep 12 false (q 1 1 4) { lane := 0 }).2.2 = 4 ∧ (rewriteStep 13 false (q 1 2 4) { lane := 0, b := 2 }).2.2 = 7)
    ∧ (∀ i < 16, ((0x80 : BitVec 512).extractLsb' (8 * i) 8).toNat ≤ 0x80) ∧ ((0x80 : BitVec 512).extractLsb' (8 * 0) 8).toNat = 0x80
    ∧ (match fmtF32.read 0x40400000 with | .fin false _ _ => true | _ => false) = true := by decide +kernel

/-- Cores 0 and 1 with one paired operation each, of teams 1 and 3. -/
def pairS (e1 : W32) (granted : Bool) (fed : W32) : State :=
  let o : MatOp := { arr0 with kind := 1, granted := granted }
  let team (core : Nat) (o : MatOp) : Team :=
    { team0 with core := core, hdr := { hdr0 with spad := 262144 }, matOps := [(0, o)], points := [(2, { phase := fed })] }
  { base with
    vfs := [], cores := [(0, { acmOwner := some 1 }), (1, { acmOwner := some 3 })], teams := [(1, team 0 o), (3, team 1 { o with e1 := e1 })] }
theorem witness_CoreUnitEvents_pairs :
    let partner (s : State) : Option (Nat × Nat) := (s.partner 0 { arr0 with kind := 1 }).map fun p => (p.1, p.2.1)
    let differs := pairS (0x00084800 ^^^ 1) false 0
    let feeds (s : State) (u : Nat) : Bool := match s.arrayNext (u / 2) with | some (u', _, o) => u' == u && feedOk (s.teams.get {} u) o 0 | none => false
    -- a partner whose command word differs though neither is fed; one that waits for its feed; both ready without and with grants
    partner differs = some (3, 0) ∧ feeds differs 1 = false ∧ feeds differs 3 = false ∧ (3 : Nat) ≠ 1
    ∧ ((differs.arrayNext 1).map (·.2.2.e1)) = some (0x00084800 ^^^ 1)
    ∧ partner (pairS 0x00084800 false 0) = some (3, 0) ∧ feeds (pairS 0x00084800 false 0) 1 = false
    ∧ feeds (pairS 0x00084800 true 1) 1 = true ∧ feeds (pairS 0x00084800 true 1) 3 = true
    ∧ arrayFree ((pairS 0x00084800 true 1).teams.get {} 1) arr0 = true
    ∧ ((pairS 0x00084800 true 1).arrayNext 0).map (·.2.2.granted) = some true ∧ ((pairS 0x00084800 false 1).arrayNext 0).map (·.2.2.granted) = some false := by decide
theorem witness_CoreUnitEvents_stacks :
    let mv : MatOp := { arr0 with kind := 2, b := 0x1800 }
    let blocked := { maccTeam with matOps := [(0, { arr0 with order := 1 })] }
    let big (b : W64) : State := { freshCtx 0x80000000 0 with teams := [(1, { team0 with matOps := [(0, { mv with b := b })] })], cores := [(0, { acmOwner := some 1 })] }
    mv.kind = 2 ∧ (arrS mv 1).arrayNext 0 = some (1, 0, mv) ∧ feedOk ((arrS mv 1).teams.get {} 1) mv 0 = true ∧ arrayFree team0 mv = true
    ∧ arrayFree blocked { arr0 with order := 1 } = false
    -- a chunk in a page of 1 GiB, one that is not mapped, one in a page of 4 KiB
    ∧ ((big 0x80000000).chunkAddr team0 0x80000000 0).toOption = some 0 ∧ stopCause ((big 0).chunkAddr team0 0 0) = some 0x10
    ∧ stopCause (base.chunkAddr team0 0x1800 0) = some 0x11
    ∧ stopCause ((big 0).stackCols team0 mv 0 8 0) = some 256 ∧ stopCause (base.stackCols team0 { mv with b := 0x1000 } 0 8 0) = some 0x11 := by decide +kernel
theorem witness_CoreUnitEvents_governor_moves :
    -- an operation that holds a grant and waits for its feed
    (let g := arrS { arr0 with granted := true } 0
     (∀ i ∈ coresOf 0, g.asks i = none) ∧ (g.arrayReady 0).map (fun x => (x.2.2.granted, x.2.2.kind)) = some (true, 0)
     ∧ feedOk (g.teams.get {} 1) { arr0 with granted := true } 0 = false ∧ (g.core 0).acmOwner = some 1 ∧ (∀ i ∈ coresOf 0, i ≠ 0 → g.arrayReady i = none))
    -- an array that runs
    ∧ (let r := arrS { arr0 with granted := true } 1
       (∀ i ∈ coresOf 0, r.asks i = none) ∧ r.runsArray 0 = true)
    -- three that stop, with DOWN of 1: two carry ballast
    ∧ (let c : Cluster := { running := [0, 1, 2] }
       (c.running ++ c.ballast).length ≤ 0 + 3 ∧ c.running.Nodup)
    -- requests of two cores
    ∧ (let q := pairS 0x00084800 false 1
       (q.cluster 0).requests.Nodup ∧ (q.cluster 0).running = [] ∧ (q.cluster 0).ballast = []
       ∧ (∀ i ∈ coresOf 0, ∀ l ∈ coresOf 0, i ≠ l → (q.core i).acmOwner = (q.core l).acmOwner → (q.core i).acmOwner = none)) := by decide +kernel

theorem witness_LaunchEvents_spans :
    let h : Header := { hdr0 with spad := 1024, vregs32 := 1 }
    let l : Launch := { vf := 1, ctx := 0, hdr := h, args := 0, teams := 2, span := 2, prio := 0, scope := 1, place := [0, 1], waiting := [0, 1], order := 1 }
    let s (f : Vf) (l : Launch) : State := { base with
      vfs := [(1, f)], teams := [], launches := [(1, l)], coreMap := [(0, { present := true, feat0 := 0x7E }), (1, { present := true, feat0 := 0x7E })] }
    let may (s : State) (n : Nat) : Bool :=
      [0, 1].all fun c => (s.cluster 0).on && !(s.core c).quarantined && s.coreOf 1 c && !s.rasterWaits 0 && s.chosen c == some (1, c)
        && s.fits c h n
    (s vf0 l).chosen 0 = some (1, 0) ∧ (0 / l.span * l.span) = 0 ∧ may (s vf0 l) 1 = true ∧ vf0.saveB = 0
    -- a save budget that the span exceeds, and that does not hold for one team alone
    ∧ ({ vf0 with saveB := 1 } : Vf).saveB ≠ 0
    ∧ (s { vf0 with saveB := 1, saveG := 45 } l).residentsOf 1 0 = [] ∧ ¬(2 * (8192 + 12288 + 1024) + 2 * 266240 ≤ 1000 * 1 * (46 - 45))
    ∧ ({ l with span := 0, waiting := [0] } : Launch).span = 0 ∧ (s { vf0 with saveB := 1, saveG := 45 } { l with span := 0, waiting := [0] }).chosen 0 = some (1, 0)
    -- packets that are not ready: a dependence, and SER
    ∧ (let dep : Nat := pkt0 + 2 ^ 13 + (1 + 5 * 2 ^ 16) * 2 ^ 320
       let q := queueS dep hdrRaw queue0
       q.packetReady 1 1 (wordsOf dep) = false ∧ pkDeps (wordsOf dep) = [(1, 5)] ∧ (vf0.qCount ≤ 1) = False
       ∧ (queueS dep hdrRaw { queue0 with fence := 5 }).packetReady 1 1 (wordsOf dep) = true
       ∧ (match q.headPacket 1 1 with | .packet x => x == wordsOf dep | _ => false) = true)
    -- a marker with a dependence, in and beyond the VF's queues
    ∧ (let m (n : Nat) : List W64 := wordsOf (2 + 2 ^ 13 + (n + 5 * 2 ^ 16) * 2 ^ 320)
       pkKind (m 1) = 2 ∧ pkMarkerOk (m 1) = true ∧ (∀ d ∈ pkDeps (m 1), d.1 < vf0.qCount) ∧ (∃ d ∈ pkDeps (m 2), vf0.qCount ≤ d.1))
    -- a device packet, in the stop phase too
    ∧ (let d : State := ctxS { ctx0 with devq := [packet0 pkt0], phase := .stop }
       d.running 1 = some 0 ∧ (d.ctx 1 0).phase = .stop ∧ (d.ctx 1 0).phase ≠ .save ∧ d.readyQueues 1 0 = []) := by decide +kernel
theorem witness_LaunchEvents_ends :
    let done : Team := { team0 with srun := false, groups := [(0, { grp0 with ended := true })] }
    let stopped : Team := { team0 with aborted := true, stopped := true }
    let s (t : Team) (l : Launch) : State := { teamS t with launches := [(1, l)] }
    let last : Launch := { base.launch 1 with teams := 1, queue := some 1 }
    -- an aborted team whose engines work, the last team of a launch, and an aborted one
    stopped.live = true ∧ stopped.scrubbed = false ∧ (s { stopped with matOps := [(0, mat0)] } last).teamBusy 1 = true
    ∧ (s done last).teamBusy 1 = false ∧ done.raster = none ∧ done.aborted = false ∧ ((s done last).launch 1).teams ≤ ((s done last).launch 1).ended + 1
    ∧ (s stopped last).teamBusy 1 = false ∧ last.queue = some 1
    -- its scope: with another launch to come, and at its last
    ∧ last.scope < 64 ∧ ((s done last).ctx 1 0).scope 1 = { valid := true, count := 2 } ∧ (∀ j ∈ [64, 65, 255], (((s done last).ctx 1 0).scope j).valid = false) := by decide
theorem witness_ContextEvents_saves :
    let x : SplitRec := { token := 5, expected := 7, arrived := 1, cont := 0x1234, pending := true, budget := 9 }
    let t : Team := { team0 with stopped := true, groups := [(0, { grp0 with split := [x] })] }
    let s : State := { twoCtx .save 0 with teams := [(1, t)], launches := base.launches }
    let known := joinImages (scopesImage ((s.ctx 1 0).scope) :: t.groups.map fun g => g.2.image)
    s.inPhase 1 .save = some 0 ∧ s.residentsOf 1 0 = [(1, t)] ∧ (s.teams.map (·.1)).Nodup ∧ s.teams.get {} 1 = t
    ∧ known.2 = 8192 + 784 ∧ known.1 / 2 ^ (256 * 1) % 2 ^ 256 = (ctx0.scope 1).image ∧ known.1 / 2 ^ (8 * 8192) % 2 ^ 384 = x.image 0
    ∧ (noTeams (twoCtx .grace 0)).inPhase 1 .grace = some 0 ∧ (noTeams (twoCtx .grace 0)).residentsOf 1 0 = []
    -- a page of a save area that is mapped and is written, and one that is not
    ∧ (base.savePages 1 0 0x1000 [7] 0).isSome = true ∧ base.savePages 1 0 0x9000 [7] 0 = none := by decide +kernel
theorem witness_ContextEvents_resumes :
    let y : Team := { team0 with live := false, stopped := true, acmSaved := some [(5, 1)] }
    let c : Context := { readyCtx with saved := [(1, y)], heldCopies := [(0, copy0)], saveBase := 0x1000 }
    let s : State := noTeams (ctxS c)
    let lost : State := noTeams (ctxS { c with saveImage := [7] })
    let away : State := { noTeams (ctxS { c with saved := [(1, { y with core := 24 })] }) with coreMap := [(0, { present := true, feat0 := 0x7F }), (24, { present := true, feat0 := 0x7F })] }
    let quarantined : State := { s with cores := [(0, { quarantined := true })] }
    s.nextContext 1 = some 0 ∧ s.hasWork 1 0 = true ∧ s.running 1 = none ∧ (∀ p ∈ s.teams, p.2.live = true → p.2.vf ≠ 1)
    ∧ s.imageStands 1 0 0x1000 0 [] = true ∧ lost.imageStands 1 0 0x1000 0 [7] = false
    ∧ (base.ctx 1 0).saved = [] ∧ y.raster = none ∧ y.hdr.spad ≤ 786432 ∧ y.ringHeld = [] ∧ y.batches = [] ∧ c.heldCopies.length ≤ 8
    -- the core where it ran, and another cluster
    ∧ s.coreOf 1 0 = true ∧ (s.cluster 0).on = true ∧ (s.core 0).quarantined = false ∧ (s.core 0).copies = []
    ∧ away.coreOf 1 24 = false ∧ away.coreOf 1 0 = true ∧ 24 * 0 + 24 % 24 = 0
    ∧ (away.feat0 0).getLsbD 0 = true ∧ (away.feat0 0).getLsbD 1 = true ∧ (away.feat0 0).getLsbD 2 = true
    -- a core that waits for its repair
    ∧ quarantined.coreOf 1 0 = true ∧ (quarantined.core 0).quarantined = true := by decide +kernel

theorem witness_RenderEvents_tiles :
    let b := batch1 0 false rec1
    let n := (meshS b).focus { stream := .scalar, uid := 1 } |>.nextPrimitive b
    -- a primitive set up, its tile drawn, past its last tile; an image in an unmapped page, and one that is not canonical
    (match n.2.2 with
    | none => false
    | some t =>
      let set (k : Nat) : Batch := { b with setup := some (n.2.1, t), tile := k }
      let job (b : Batch) : Option Nat :=
        ((b.tileJobs n.2.1 t)[b.tile]?).map fun j => (stopCause (((meshS b).focus { stream := .scalar, uid := 1 }).rasterJob b n.2.1 j)).getD 0
      (b.tileJobs n.2.1 t).length == 1 && job (set 0) == some 0 && job (set 1) == none
      && job { set 0 with img := rec1 + 0x9000 - 0x1800 } == some 256 && job { set 0 with img := rec1 + 2 ^ 60 } == some 0x10) = true := by decide +kernel
theorem witness_RenderEvents_ray_faults :
    let r (a : Nat) : RaySlot := { args := { regs := [BitVec.ofNat 32 a, 0] ++ List.replicate 6 0x3F800000 }, busy := true }
    let p : PageReq := { vaddr := 0x9010, kind := 6, write := false, exec := false, stage2 := false, failed := true }
    let w : Window := { id := 0, left := 0, waiting := 1, pc := 0, len := 8, rays := some (BitVec.twoPow 96 5, []) }
    let s (r : RaySlot) : State := teamS { team0 with groups := [(0, { grp0 with slotA := { frag0 with windows := [w] }, rays := [(5, r)] })] }
    failedOf [p] = some { cause := 0x10, tval := 0x9010 } ∧ ({ r 0 with park := [p] } : RaySlot).busy = true ∧ w.rays = some (BitVec.twoPow 96 5, []) ∧ w.id = (r 0).window
    ∧ (grp0.slotB).windows = [] ∧ ((s (r 0)).candidates 0 ≤ 64) := by decide +kernel
theorem witness_EngineEvents_members : (coll0 1).peer = false ∧ (coll0 1).key = (opened [0, 1] (some [7])).key := by decide
theorem witness_HeadEvents_errors :
    let mode : Head := { headOn 1 0 0 with mode := some 1 }
    let put : BandInfo := { ended := true, put := true, latched := true }
    let runs : Head := { headOn 1 0 0 with running := true }
    let late : Head := { headOn 2 0 0 with running := true, run := 7, bands := [(0, { put with put := false }), (1, { put := true })] }
    -- a program that is held at its deadline, and one that is not yet; a band that ended in time, and one whose program the mode cancels
    ({ runs with held := true } : Head).held = true ∧ runs.held = false ∧ runs.next = 0 + 1 ∧ runs.nb = 2
    ∧ (late.info 0).put = false ∧ 7 ≤ late.run ∧ late.next ≠ 0 + 1 ∧ 0 + 1 < late.next ∧ (late.info 1).put = true ∧ (late.info 1).ended = false
    -- fallback mode: the first band that remains, and a band that has ended before
    ∧ mode.dead ≤ 1 ∧ (mode.info 1).ended = false ∧ (∀ m < 1, ¬(1 ≤ m)) ∧ (mode.info 1).put = false ∧ mode.modeHolds = false
    ∧ ({ mode with next := 2 } : Head).modeHolds = true
    -- an error in the program bank: of the band that runs, of the next, within the mode, of no band
    ∧ (runs.info (runs.next - 1)).ended = false ∧ (headOn 0 0 0).running = false ∧ ((headOn 0 0 0).info 0).ended = false
    ∧ (∀ m < 1, ((({ headOn 2 0 0 with bands := [(0, put), (1, put)] } : Head).info m).ended = true)) ∧ head0.en = false
    -- in a slot: of a band with its deadline behind it, and of one before
    ∧ (headOn 1 1 0).shown < (headOn 1 1 0).dead ∧ (headOn 1 1 0).pending = [] ∧ (headOn 1 0 0).dead ≤ (headOn 1 0 0).shown
    -- a swap after an error, to a bank loaded since and to one that is not
    ∧ ({ head0 with stuck := true, fresh1 := true, swap := true } : Head).fresh1 = true ∧ ({ head0 with stuck := true, swap := true } : Head).fresh1 = false
    ∧ ({ head0 with stuck := true } : Head).bank = false
    -- a load that is done, with the head off and no swap to come
    ∧ ({ head0 with load := some (true, 0x1800, 8) } : Head).load = some (true, 0x1800, 8) ∧ head0.swap = false
    -- a fallback write of a frame, and an output pixel
    ∧ 0 < seqHead.sw ∧ 0 < seqHead.sh
    ∧ (let p : Fallback := { band := 1, code := 2, frame := some frame0, motion := false, phase := 0, pose := 0 }
       ({ headOn 2 2 1 with pending := [p] } : Head).pending = [p] ∧ p.frame = some frame0)
    ∧ readBytes base.mem (frame0.base + 0 * seqHead.pitch + 4 * 512) 4 = readBytes frame0.snap (frame0.base + 0 * seqHead.pitch + 4 * 512) 4 := by decide +kernel
theorem witness_RegisterWindowWrites_counters :
    let y : Vf := { vf0 with pmEn := true, pmEv := [(0, 0x02), (1, 0x01)], pmCev := [(0, 0x20), (1, 0x21)] }
    -- selections of events that a turn stands for and of others, with counting on and off
    y.pmEn = true ∧ y.pmEv.get 0 0 = 0x02 ∧ y.pmEv.get 0 1 ∉ [0x02, 0x03, 0x07, 0x0B] ∧ y.pmCev.get 0 0 = 0x20 ∧ y.pmCev.get 0 1 ≠ 0x20
    ∧ (1 : W64).getLsbD 0 = true ∧ (2 : W64).getLsbD 0 = false ∧ (2 : W64).getLsbD 1 = true ∧ vf0.pmEn = false ∧ vf0.part.getLsbD 0 = true := by decide
theorem witness_PackageEvents_errors :
    let r : BringUpReport :=
      { firmwareOk := true, linksOk := true, stacksOk := true, strandsOk := true, goodCores := [], badCoprocessors := [], failedChannels := [],
        stackUnits := 255, scanOk := true, linkOk := true }
    let k0 (c : Cluster) (cs : Store Core) : State := { base with teams := [], clusters := [(0, c)], cores := cs }
    let dead : List Nat := List.range' 32 32
    -- a link that failed, a stack without a channel
    ({ r with failedLinks := [3] } : BringUpReport).failedLinks ≠ [] ∧ (∀ i ∈ dead, 32 * 1 ≤ i ∧ i < 32 * 1 + 32) ∧ dead.length = 32
    ∧ (∀ k < 8, 32 * k < 32 * k + 32 ∧ 32 * k ∉ r.failedChannels)
    -- errors within a second: 63 and 64
    ∧ (let c : Core := { sramSecond := 60 }; (c.sramSecond + 3 < 64 ∧ 64 ≤ c.sramSecond + 4)) ∧ base.residents 0 = [(1, team0)] ∧ base.running 1 = some 0
    ∧ (base.ctx 1 0).phase = .none
    -- a repair: by the lowest spare, of co-processors, that leaves 22 cores, with and without teams
    ∧ (∀ q ∈ [24, 25], 24 ≤ q) ∧ ((k0 {} []).cluster 0).spares = [] ∧ ((k0 {} []).cluster 0).degraded = false ∧ (k0 {} []).residents 22 = [] ∧ (k0 {} []).residents 23 = []
    ∧ (teamS { team0 with core := 22 }).residents 22 ≠ []
    -- a cluster with a core that can slow down
    ∧ (let s : State := { base with vfs := [(1, { vf0 with perfMin := 2 })], cores := [(0, { eff := 8 })] }
       s.vfOfCluster 0 = some 1 ∧ (s.vf 1).perfMin < (s.core 0).eff ∧ (s.cluster 0).on = true ∧ 0 ∈ coresOf 0) := by decide +kernel

def laneTurn1 : Turn := .lane 1 0 false
theorem witness_StepRunsTheTurn_waits :
    let p : PageReq := { vaddr := 0x9010, kind := 0, write := false, exec := false, stage2 := false }
    let r : Issued := { v := [], g := [], s := [], mask := 1 }
    let w : Window := { id := 0, left := 3, pc := 0xFF4, len := 12, fault := some (.parked r) }
    let f (ps : List PageReq) (ws : List Window) : State := laneF { frag0 with park := ps, windows := ws }
    let bad := { p with failed := true }
    let e : Trap := { cause := 0x10, tval := 0x9010 }
    let seq (h : Head) : State := { base with cur := { stream := .sequencer }, head := h }
    let h : Head := { en := true, running := true, next := 1, tim1 := 0x001800100040, tim2 := 0x000FA000 }
    -- recovery; a stream that is not in its turn because the group's handler runs
    ({ base with recovery := some 1 } : State).recovery ≠ none ∧ runsInRecovery (.event .powerRemoval) = true ∧ runsInRecovery laneTurn1 = false
    ∧ bit ({ grp0 with tstat := 0x50 } : Group).tstat 6 = true ∧ bit ({ grp0 with tstat := 0x50 } : Group).tstat 4 ≠ false
    -- an access that failed: of a window and of the instruction itself, with and without answers to come; one that was served; one that waits
    ∧ failedOf [bad] = some e ∧ ((f [bad] [w]).frag.parkedWindow).map (·.1.id) = some 0 ∧ (firstFault ((f [bad] [w]).failLate w e).frag.windows).isSome = true
    ∧ (f [bad] []).frag.parkedWindow = none ∧ answersOpen [{ w with fault := none, waiting := 1 }] = true ∧ answersOpen [] = false
    ∧ ((f [] [w]).frag.parkedWindow).isSome = true ∧ laneReady team0 { grp0 with slotA := { frag0 with windows := [w] } } false = true
    ∧ laneReady team0 { grp0 with slotA := { frag0 with park := [p] } } false = false
    -- a fault that is due
    ∧ (dueFault { frag0 with windows := [{ w with fault := some (.trap e), passed := 1, after := 1 }] }).isSome = true
    -- a release behind a fault, and one without
    ∧ (let b := Instr.board (llit 0 8 1 2 0 1 0x00018000)
       let held (ws : List Window) : Bool := heldBack { frag0 with windows := ws } b
       releases b = true ∧ releases (.lds (lop 4 8 1 0 0)) = false ∧ closesWindows b = false
       ∧ held [{ w with fault := some (.trap e) }] = true ∧ held [{ w with fault := none, waiting := 1 }] = false)
    -- the scalar stream: a pending ring action keeps an engine's fault back
    ∧ scalarReady { team0 with sphase := 1, engineFault := [(e, none)] } = true
    -- the sequencer: before the deadline and at it
    ∧ h.onTime (h.next - 1) (h.now + lineCost (.lend (s32 0 0 0 0)) (seq h)) = true
    ∧ h.onTime (h.next - 1) ((cycleOf (h.deadline 0)) + 1) = false ∧ h.onTime (h.next - 1) (cycleOf (h.deadline 0)) = true := by decide +kernel

/-! ### Witnesses for the clauses about values, and for clauses that several faults meet -/

theorem witness_MaskWordWrites_windows :
    let pair : L32 := { sh 4 2 0 3 with g := true }
    let w : Window := { id := 0, left := 3, pc := 0xFF4, len := 12 }
    let s (ws : List Window) : State := laneF { frag0 with windows := ws }
    let new : Mask := setMaskWord lane0.frag.mask 0 (lane0.rg 3) &&& (lane0.frag.mask ||| lane0.grp.dormant)
    -- g2:g3; an empty new mask while a window holds a fault, waits for an answer, and is ready
    bit pair.f 2 = true ∧ pair.d = 2 ∧ pair.g = true ∧ new = 0 ∧ (s [w]).frag.windows ≠ [] ∧ (s [w]).frag.bracket = false
    ∧ (firstFault (s [lateWin]).frag.windows).isSome = true ∧ (firstFault (s [{ w with waiting := 1 }]).frag.windows).isNone = true
    ∧ answersOpen [{ w with waiting := 1 }] = true ∧ answersOpen [w] = false := by decide
theorem witness_CompareResults_values :
    let f := fmtF32
    (f.read (f.operand false 0x7F800001)).isNan = true ∧ f.isSnan 0x7F800001 = true ∧ (f.read (f.operand false 0x7FC00000)).isNan = true
    ∧ f.isSnan 0x7FC00000 = false ∧ (f.read (f.operand true 0x00000001)).isNan = false ∧ (f.read (f.operand false 0xFF800000)).isNan = false
    ∧ 0x7F800001 < 2 ^ f.width := by decide
/-- Codes of f32: a number, a zero, both infinities, a NaN; their values. -/
theorem witness_FloatResults_values :
    let f := fmtF32
    let x (c : Nat) : Bool × Bool × Bool := (f.finite (f.operand false c), f.infinite (f.operand false c), f.negative (f.operand false c))
    x 0x40400000 = (true, false, false) ∧ x 0x80000000 = (true, false, true) ∧ x 0x7F800000 = (false, true, false)
    ∧ x 0xFF800000 = (false, true, true) ∧ x 0x7FC00000 = (false, false, false)
    ∧ f.value 0x40400000 = 3 ∧ f.value 0x80000000 = 0 ∧ f.value 0x40800000 = 4 ∧ f.value 0x40000000 = 2
    ∧ (2 : ℚ) ^ (1 : Int) ≤ |f.value 0x40400000| ∧ |f.value 0x40400000| < (2 : ℚ) ^ ((1 : Int) + 1)
    ∧ (2 : ℚ) * 2 = f.value 0x40800000 ∧ fmtF32.operand true 1 = 0 := by decide +kernel
theorem witness_FloatResults_dot :
    let h := fmtF16
    -- halves: a number, a NaN, an infinity, a zero
    h.finite 0x3C00 = true ∧ (h.read 0x7C01).isNan = true ∧ h.infinite 0x7C00 = true ∧ h.infinite 0xFC00 = true ∧ h.value 0 = 0
    ∧ ([0x3C00, 0x7C01, 0x7E00, 0].find? fun x => (h.read x).isNan) = some 0x7C01
    ∧ ([0x3C00, 0x7C00, 0, 0].all fun x => !(h.read x).isNan) = true ∧ (0x7C003C00 : Nat) % 2 ^ 16 = 0x3C00 := by decide +kernel
/-- No fraction is the root of 2. -/
theorem witness_LongFloatResults_root : fmtF32.value 0x40000000 = 2 ∧ ∀ q : ℚ, q * q ≠ 2 := by
  refine ⟨by decide +kernel, fun q h => ?_⟩
  have h' : (q : ℝ) ^ 2 = 2 := by rw [pow_two]; exact_mod_cast h
  exact irrational_sqrt_two ⟨|q|, by rw [Rat.cast_abs, ← Real.sqrt_sq_eq_abs, h']⟩
theorem witness_LongFloatResults_stops :
    let o := { lop 0 1 2 3 0 with la := 15 }
    let w : Window := { id := 0, left := 15, pc := 0xFF4, len := 12 }
    let held := { poison0 with frag := { poison0.frag with windows := List.replicate 16 w } }
    let bad := { poison0 with grp := { poison0.grp with v := [(2, Vector.replicate 96 0x7F810003)] } }
    passes held (.fdiv o) = true ∧ held.bufferFull = true ∧ passes bad (.fdiv o) = true ∧ bad.bufferFull = false
    ∧ (bad.poisonCheck (bad.enabled o) (poisonOf o 1 1 0)).isSome = true := by decide
theorem witness_WelfordResults_values :
    let f := fmtF32
    let one : Nat := 0x3F800000
    let x (n : Nat) : Welford := { count := n, mean := one, m2 := one }
    (x 1).count < 2 ^ 32 - 1 ∧ f.finite (fAdd f 0 false true 0x40000000 (x 1).mean).1 = true ∧ (x (2 ^ 32 - 1)).count = 2 ^ 32 - 1
    ∧ (x 0).count = 0 ∧ 2 ^ 32 ≤ (x (2 ^ 31)).count + (x (2 ^ 31)).count ∧ (x 1).count + (x 2).count < 2 ^ 32
    ∧ (let delta := fAdd f 0 false true one one
       ∀ y ∈ [one, one, one, delta.1, (fMul f 0 false delta.1 delta.1).1], f.finite y = true) := by decide +kernel

theorem witness_RecordLoads_window :
    let r : Rec := { Rec.ofRaw rec0 with kind := 1, base := 0x204, bmode := 2 }
    -- 64-bit elements of a window record whose base is 4 modulo 8: within it, and out of bounds; 32-bit elements are aligned
    r.pos 64 0 0 % 64 = 0 ∧ ((r.base.toNat : Int) + r.pos 64 0 0 / 8) % 8 ≠ 0 ∧ r.pos 64 0 0 + 64 ≤ ((8 * r.size : Nat) : Int)
    ∧ ¬(r.pos 64 100 0 + 64 ≤ ((8 * r.size : Nat) : Int)) ∧ ((r.base.toNat : Int) + r.pos 32 0 0 / 8) % 4 = 0 ∧ r.kind = 1 := by decide
theorem witness_RecordAtomics_held :
    let p : PageReq := { vaddr := 0x9010, kind := 2, write := true, exec := false, stage2 := false }
    let o : LOp := { llit 0 8 1 0 4 0 3 with la := 2 }
    let s := { faulty0 with vfs := [(1, { vf0 with routines := [(3, [0x00000001])] })], frag := { faulty0.frag with patom := some (0x1000, 3) } }
    -- a patom whose access a page holds at its issue, which issues again
    passes s (.patom o) = true ∧ s.frag.patom = some (s.frag.pc, o.imm.toNat) ∧ (laneF { frag0 with park := [p] }).frag.park ≠ []
    ∧ o.la ≠ 0 ∧ s.frag.windows.length = 0 := by decide
theorem witness_MeshEmission_batches :
    let word (x : Nat) : State := { mesh0 with mem := writeBytes mesh0.mem 0x3D00 4 x }
    let cause (r : Option Trap) : Option Nat := r.map (·.cause)
    let batch (off x : Nat) : Option Nat := cause ({ mesh0 with team := { mesh0.team with win := writeBytes [] off 4 x } }.batchFault off)
    let top := spillBase mesh0.team
    -- the batch: not aligned; aligned with its header, its vertices or its primitives beyond the spill stacks' base, and within
    top = 16352 ∧ batch 0x204 0 = some 0x0B ∧ batch 16384 0 = some 0x06 ∧ batch 16320 0 = none ∧ batch 16320 1 = some 0x06
    ∧ batch 16256 (2 * 2 ^ 16) = none ∧ batch 16256 (3 * 2 ^ 16) = some 0x06 ∧ batch 0x200 (256 * 2 ^ 16 + 512) = none
    -- with a descriptor that is good, one that traps RECORD_FAULT, one not aligned, and one of a page that is not mapped
    ∧ okay (mesh0.drawCheck 0x1D00) = true ∧ stopCause ((word 200).drawCheck 0x1D00) = some 0x12 ∧ stopCause (mesh0.drawCheck 0x1D04) = some 0x0B
    ∧ stopCause (mesh0.drawCheck 0x9000) = some 256 ∧ stopCause (mesh0.emitCheck 0x9000 0x204) = some 0x0B
    ∧ stopCause ((word 200).emitCheck 0x1D00 0x204) = some 0x0B ∧ stopCause ((word 200).emitCheck 0x1D00 0xFFFFFFC0) = some 0x12
    -- a header that cannot be read, and one that can
    ∧ (match mesh0.headerSeen 1 0 0x9000, mesh0.headerSeen 1 0 0x1880 with | (_, none), (_, some _) => true | _, _ => false) = true := by decide +kernel
theorem witness_LaunchEvents_arrivals :
    let q := queueS pkt0 hdrRaw queue0
    let dev (ph : Phase) : State := { q with vfs := [(1, { vf0 with queues := [(1, queue0)], ctxs := [(0, { ctx0 with devq := [packet0 pkt0], phase := ph })] })] }
    let low := packet0 pkt0
    let ws := wordsOf pkt0
    let hdr : W64 := pkHdr ws
    -- a device packet in the stop phase, beside a host queue of no higher PRIO, and behind one of higher
    (dev .stop).running 1 = some 0 ∧ ((dev .stop).ctx 1 0).phase = .stop ∧ ((dev .none).ctx 1 0).devq = [low]
    ∧ (∀ r ∈ (dev .none).readyQueues 1 0, r.2 ≤ pkPrio low.words)
    -- the header of a packet that arrives: no launch, in the cache, in memory, in a page that is not mapped
    ∧ pkKind (wordsOf 2) ≠ 1 ∧ pkKind ws = 1 ∧ hdr.toNat % 128 = 0 ∧ canonical hdr = true ∧ (pkHdr (wordsOf (1 + 0x1881 * 2 ^ 128))).toNat % 128 ≠ 0
    ∧ q.hdrCache.lookup (1, 0, hdr) = none ∧ ({ q with hdrCache := [((1, 0, hdr), hdrRaw)] } : State).hdrCache.lookup (1, 0, hdr) = some hdrRaw
    ∧ okay (q.loadVa 1 0 { kind := 8 } hdr 128) = true ∧ okay (q.loadVa 1 0 { kind := 8 } 0x9000 128) = false ∧ q.hdrCache.length < 256
    ∧ ({ low with seen := some hdrRaw } : Packet).seen = some hdrRaw ∧ headerOk hdrRaw = true
    -- windows: room in one piece, and in pieces too small
    ∧ offsetsFor (base.windowsOf 0) 1024 ≠ [] ∧ offsetsFor [(100000, 1000), (300000, 200000), (600000, 1000)] 300000 = [] := by decide +kernel
theorem witness_LaunchEvents_priorities :
    let p (prio : Nat) : Nat := pkt0 + prio * 2 ^ 8
    let s (prio : Nat) : State :=
      { queueS (p prio) hdrRaw queue0 with vfs := [(1, { vf0 with queues := [(1, queue0)], ctxs := [(0, { ctx0 with devq := [packet0 pkt0] })] })] }
    (s 1).readyQueues 1 0 = [(1, 1)] ∧ pkPrio (packet0 pkt0).words = 0 := by decide +kernel

/-- A ready context with a launch of one team that has not started, whose place is the core given. -/
def waits0 (at_ : Nat) : Launch := { base.launch 1 with span := 0, place := [at_], waiting := [0] }
def waitingS (present : List Nat) (at_ : Nat) : State :=
  { noTeams (ctxS { readyCtx with saveBase := 0x1000 }) with
    launches := [(1, waits0 at_)], coreMap := present.map fun k => (k, { present := true, feat0 := 0x7F }) }
theorem witness_ContextEvents_places :
    PlacesLeft (waitingS [0] 0) 1 0 ∧ PlacesLeft (waitingS [0] 24) 1 0 ∧ ¬PlacesLeft (waitingS [] 0) 1 0
    ∧ (waitingS [0] 24).nextContext 1 = some 0 ∧ (waitingS [0] 24).running 1 = none ∧ (waitingS [] 0).imageStands 1 0 0x1000 0 [] = true := by
  refine ⟨fun p h _ _ i hi => ?_, fun p h _ _ i hi => ?_, fun h => ?_, by decide +kernel, by decide +kernel, by decide +kernel⟩
  · rcases List.mem_singleton.1 h; rcases List.mem_singleton.1 hi
    exact ⟨0, .inl ⟨by decide +kernel, rfl⟩⟩
  · rcases List.mem_singleton.1 h; rcases List.mem_singleton.1 hi
    exact ⟨0, .inr ⟨by decide +kernel, 0, by decide, by decide +kernel, by decide +kernel, fun c hc => absurd hc (Nat.not_lt_zero c)⟩⟩
  · have no (cl : Nat) (h : cl < 32) : ¬∀ m ∈ (waits0 0).mates 0, (waitingS [] 0).coreOf 1 (24 * cl + (waits0 0).place.getD m 0 % 24) = true := by
      revert cl; decide +kernel
    obtain ⟨_, ⟨w, _⟩ | ⟨_, cl, hcl, on, _⟩⟩ := h _ (List.mem_singleton.2 rfl) rfl rfl 0 (List.mem_singleton.2 rfl)
    exacts [absurd w (by decide +kernel), no cl hcl on]
/-- A VF with one parked unit of each kind, of page 9, and one fragment parked on page 10. -/
def parkedS (f : Vf) : State :=
  let p : PageReq := { vaddr := 0x9010, kind := 0, write := false, exec := false, stage2 := false }
  let g : Group :=
    { grp0 with slotA := { frag0 with park := [p] }, slotB := { frag0 with park := [{ p with vaddr := 0xA000 }] }, rays := [(5, { park := [p] })] }
  let t : Team := { team0 with groups := [(0, g)], spark := [p], matOps := [(0, { mat0 with park := [p] })], batches := [(0, { batch0 with park := [p] })] }
  let copy : CopyOp := { copy0 with park := [p] }
  { base with
    vfs := [(1, { f with ctxs := [(0, { ctx0 with saved := [(9, t)], heldCopies := [(0, copy)] })] })], teams := [(1, t)],
    cores := [(0, { copies := [(3, copy)], stops := [(4, [{ act0 1 with phase := .home 7 false, park := [p] }])] })],
    colls := [{ vf := 1, key := 5, ranks := [(0, { coll0 0 with park := [p] })] }] }
theorem witness_FaultQueueEvents_units :
    let p : PageReq := { vaddr := 0x9010, kind := 0, write := false, exec := false, stage2 := false }
    let s := parkedS { vf0 with fqN := 4, fqBase := 0x1800, faults := [{ page := 0x9000, ctx := 0 }] }
    let held := parkedS { vf0 with fqN := 4, fqBase := 0x1800, fqWritten := 16 }
    let free := parkedS { vf0 with fqN := 4, fqBase := 0x1800, fqWritten := 15 }
    let full (s : State) : Prop := 2 ^ (s.vf 1).fqN ≤ (BitVec.ofNat 32 (s.vf 1).fqWritten - (s.vf 1).fqCons).toNat
    -- every unit waits; its page's entry stands unserved, or the queue is full, or it has room
    s.cur = {} ∧ (s.unposted 1).length = 16 ∧ ((s.unposted 1).filter fun x => x.2.2.2.vaddr == 0x9010).length = 14
    ∧ (∃ e ∈ (s.vf 1).faults, e.ctx = 0 ∧ e.page = p.vaddr &&& 0xFFFFFFFFFFFFF000) ∧ (held.vf 1).faults = [] ∧ full held ∧ ¬full free
    ∧ okay (free.storeVa 1 0 { kind := 0, write := true } 0x1800 32 0) = true
    -- after a retry with room for one more entry, and after both answers
    ∧ (match exec (.faultPostRetry 1) free with | .next t => (t.vf 1).fqWritten == 16 && (t.unposted 1).length == 2 | _ => false) = true
    ∧ (match exec (.fqrespReplay 1 0x9FFF) s with | .next t => (t.unposted 1).length == 2 | _ => false) = true
    ∧ (match exec (.fqrespFailure 1 0x9FFF) s with
      | .next t => (t.unposted 1).length == 2 && (t.teams.get {} 1).engineFault.length == 3 && (t.teams.get {} 1).matOps == []
      | _ => false) = true := by decide +kernel
theorem witness_RingEvents_visits :
    let s (q : Nat) : State := { ringS 0 (act0 0) [] with ringLeft := [(4, 5, 0)], vfs := [(1, { vf0 with quota := q })] }
    let b : RingAct := { act0 0 with id := 1, key := 0x10C }
    -- a step with a visit left: of an action that is there and of one that is not
    (s 8).ringLeft ≠ [] ∧ (s 8).ringDue = false ∧ ((((s 8).core 5).stops.get [] 4).find? fun a => a.id == 0) = some (act0 0)
    ∧ (∀ a ∈ (((s 8).core 5).stops.get [] 4 : List RingAct), a.id ≠ 9) ∧ (s 8).ringStep / 1024 % 2 ^ 32 = (s 8).ringRev.toNat
    -- a re-issue of two keys within the quota and beyond it; of another action
    ∧ ((s 2).vf (act0 0).vf).ringHeld + 2 ≤ ((s 2).vf 1).quota ∧ ((s 1).vf 1).quota < ((s 1).vf 1).ringHeld + 2
    ∧ [act0 0, b].getD (((s 1).vf 1).quota - ((s 1).vf 1).ringHeld) (act0 0) = b ∧ (act0 1).kind ≠ 0
    -- a release with ANY waits in its group, and an acquire with ANY does not
    ∧ (0xA000 : W32).getLsbD 13 = true ∧ (0xA000 : W32).getLsbD 15 = true ∧ (0x6000 : W32).getLsbD 15 = false := by decide
theorem witness_EngineEvents_ports :
    let peer : CollOp := { coll0 0 with peer := true, written := true, done := true }
    let g (ranks : Store CollOp) : Coll := { vf := 1, key := 5, ranks := ranks }
    -- over the link, joined by a peer alone, by all and not done, and done by all; not over the link; none
    (g [(0, peer)]).over = false ∧ (∃ p ∈ (g [(0, peer)]).ranks, p.2.f = 1) ∧ (opened [0, 1] (some [7])).over = false
    ∧ (g [(0, peer), (1, { coll0 1 with done := true })]).over = true ∧ (∀ p ∈ (g [(0, { peer with f := 0 })]).ranks, p.2.f ≠ 1) ∧ base.colls = [] := by decide
theorem witness_HeadEvents_banks :
    let bad : Head := { head0 with en := true, stuck := true, fresh1 := true, swap := true, faultNext := true, mode := some 0, bands := [(0, { faulted := true })] }
    let two : State := { base with heads := [(0, { headOn 1 0 0 with request := some true }), (2, { headOn 1 0 0 with request := some true })] }
    -- band 0 faulted and not ended, and ended; fallback mode from the frame's start; two heads with one deadline
    (bad.info 0).faulted = true ∧ (bad.info 0).ended = false ∧ (({ bad with bands := [(0, { faulted := true, ended := true })] } : Head).info 0).ended = true
    ∧ bad.modeHolds = true ∧ bad.fresh1 = true
    ∧ (∃ p ∈ two.heads, p.2.en = true ∧ p.2.request = some true) ∧ ¬(∃ p ∈ two.heads, p.2.request = some true ∧ p.2.granted = true)
    ∧ (∀ p ∈ two.heads, ∀ q ∈ two.heads, p.2.deadline (p.2.next - 1) = q.2.deadline (q.2.next - 1)) := by decide
theorem witness_RegisterWindowWrites_routines :
    let p : PageReq := { vaddr := 0x9010, kind := 2, write := true, exec := false, stage2 := false }
    let r : Issued := { v := [], g := [], s := [], mask := 1 }
    let w (l : Late) : Window := { id := 0, left := 3, pc := 0xFF4, len := 12, patom := some 3, fault := some l }
    let s (f : Fragment) : State :=
      { teamS { team0 with groups := [(0, { grp0 with slotA := f })] } with vfs := [(1, { vf0 with atrSel := 3, atrPending := some (3, none) })] }
    -- a patom in flight: parked at its issue, in a window before its park and after it; and none
    (s { frag0 with patom := some (0x1000, 3), park := [p] }).patomInFlight 1 3 = true ∧ (s { frag0 with windows := [w (.page [p] r)] }).patomInFlight 1 3 = true
    ∧ (s { frag0 with windows := [w (.parked r)] }).patomInFlight 1 3 = true ∧ (s frag0).patomInFlight 1 3 = false
    ∧ (s { frag0 with patom := some (0x1000, 3) }).patomInFlight 1 4 = false ∧ vf0.atrPending = none ∧ ((s frag0).vf 1).atrPending = some (3, none) := by decide
theorem witness_PackageEvents_readings :
    let r (x : ℚ) (t : Option ℚ) (hot : Bool) : PowerReading := { watts := x, clusterWatts := [], inlet := t, hot := hot }
    let s : State := { base with coreMap := (List.range 22).map fun k => (k, { present := true }) }
    -- half a degree above 45; a reading between the bands; positions that are no core of the part
    (r 1976 (some (91 / 2)) false).inlet = some (91 / 2) ∧ max 500 (min (2000 : ℚ) (2000 - 50 * (91 / 2 - 45))) = 1975 ∧ (1975 : ℚ) < (r 1976 none false).watts
    ∧ (105 : ℚ) ≤ 105 ∧ (1049 / 10 : ℚ) < 105 ∧ (s.coreMap.get {} 21).present = true ∧ (s.coreMap.get {} 22).present = false ∧ (22 : Nat) ∈ coresOf 0
    -- after a repair: no VF, one without a running context, one whose waiting team has a place
    ∧ (waitingS [0] 24).running 1 = none ∧ ({ waitingS [0] 24 with vfs := base.vfs } : State).running 1 = some 0 := by decide +kernel
theorem witness_StepRunsTheTurn_outside :
    let s (o : Outside) : State := { base with agenda := [.outside o], linkGroup := 2, vfs := [(1, { vf0 with rankDevice := [(1, 1)] })] }
    let part (rank n : Nat) : W64 := BitVec.ofNat 64 (5 + 2 ^ 32 * rank + 2 ^ 40 * n)
    let t : Team := { team0 with sphase := 1, begun := some (1, 0, 0) }
    -- before bring-up; a peer's command: of a rank mapped to this device, of one mapped to another, with a first rank
    ({} : State).power = true ∧ ({} : State).bringUpDone = false ∧ (s (.linkGroup 2)).power = true
    ∧ ((s (.linkGroup 2)).vf 1).rankDevice.get 0 (bits (part 0 2) 39 32) = 0 ∧ ((s (.linkGroup 2)).vf 1).rankDevice.get 0 (bits (part 1 2) 39 32) ≠ 0
    ∧ bits (part 1 2) 39 32 < bits (part 1 2) 47 40 ∧ 1 < bits (part 1 2) 47 40 ∧ base.colls = []
    -- a scalar instruction that has begun
    ∧ t.sphase ≠ 0 ∧ t.begun = some (1, 0, 0) ∧ scalarReady t = true := by decide
theorem witness_ScalarMemory_host :
    let s (out : List Nat) : State := { scalM with hostNoAtomic := out }
    -- satom on host page 5: where the host completes AtomicOps, and where it does not
    (match (s []).xlate 1 0 { kind := 8, write := true } ((s []).rs 6) with | .ok (.host a) => a / 4096 == 5 | _ => false) = true
    ∧ 5 ∈ (s [5]).hostNoAtomic ∧ 5 ∉ (s []).hostNoAtomic ∧ bits (6 : W32) 2 0 = 6 := by decide +kernel

/-! ### One step -/

/-- The next state of a step, or the state itself. -/
noncomputable def after (s : State) : State := match step s with | .next t => t | _ => s
/-- add v4, v1, v2 (02 R42) as the next instruction of the team's fragment. -/
def placed (p : Turn) (w : Nat) : State := { base with mem := codeMemory [] w, agenda := [p] }
theorem witness_StepRunsTheTurn :
    let s := placed laneTurn1 0x00408801
    s.power = true ∧ s.agenda = [laneTurn1] ∧ s.teams.lookup 1 = some team0 ∧ team0.groups.lookup 0 = some grp0 ∧ laneReady team0 grp0 false = true
    ∧ laneReady team0 grp0 true = false ∧ s.teams.get {} 1 = team0 ∧ team0.groups.get {} 0 = grp0 ∧ bit grp0.tstat 6 = false ∧ failedOf grp0.slotA.park = none
    ∧ dueFault grp0.slotA = none ∧ grp0.slotA.windows = [] ∧ openWork grp0.slotA = false ∧ closesWindows (.addL32 (sh 0 4 1 2)) = false
    ∧ (match (s.focus { stream := .lane, uid := 1 }).fetch 1 0 0x1000 with
      | .ok (_, w0, w1, w2) => decide (decode .lane (s.feat0 0) w0 w1 w2 = .instr (.addL32 (sh 0 4 1 2)))
      | .error _ => false) = true
    ∧ scalarReady team0 = true ∧ failedOf team0.spark = none ∧ team0.engineFault = []
    ∧ (let h : Head := { en := true, running := true }; ({ base with heads := [(0, h)] } : State).heads.get {} 0 = h ∧ h.pc + 1 ≤ 4096) := by decide +kernel
/-- A step that runs an instruction: the fragment goes on behind it, the sum of two zeros is 0, the turn is over. -/
theorem witness_SettledKept :
    settled (placed laneTurn1 0x00408801) = true
    ∧ (match step (placed laneTurn1 0x00408801) with
      | .next t => settled t && t.agenda == [] && (((t.teams.get {} 1).groups.get {} 0).slotA).pc == 0x1004
      | _ => false) = true := by decide +kernel
/-- A step that stores into device memory: sst glob[s4], s5, with s4 = 0x1800. -/
theorem witness_MemoryStaysCanonical :
    let t : Team := { team0 with s := [(4, 0x1800), (5, 0x77)] }
    let s : State := { base with mem := codeMemory [] ((encode (.sstgS32 (s32 3 0 4 5))).getD 0 0).toNat, teams := [(1, t)], agenda := [.scalar 1] }
    Memory.wf s.mem = true ∧ Memory.wf s.hostMem = true
    ∧ (match step s with | .next t => readByte t.mem 0x3800 == 0x77 && Memory.wf t.mem | _ => false) = true := by decide +kernel
/-- The instruction that the host places as the first after reset. -/
theorem test_placed_word_is_fetched :
    (match step (State.reset.withFetchWord 32 0x00408801) with
      | .next t => (((t.teams.get {} 1).groups.get {} 0).slotA).pc == 0x1004 | _ => false) = true := by decide +kernel

/-! ### Results of one instruction (the values are the manual's) -/

/-- Lane 0 holds these v registers. -/
def regs (vs : List (Nat × W32)) : State := { one0 with grp := { grp0 with v := vs.map fun p => (p.1, Vector.replicate 96 p.2) } }
/-- What an instruction leaves in a v register of lane 0: written at once, or by its window. -/
def gives (i : Instr) (s : State) (r : Nat) : W32 :=
  match exec i s with
  | .next t => t.closeAll.lane r 0
  | _ => 0xDEADBEEF
def two (a b : W32) : State := regs [(1, a), (2, b)]
def sReg (i : Instr) (ss : List (Nat × W64)) (r : Nat) : W64 :=
  match exec i (scalT { team0 with s := ss }) with
  | .next t => t.rs r
  | _ => 0

-- 03 R79
theorem test_div_truncates :
    gives (.div (lop 0 4 1 2 0)) (two 0xFFFFFFF9 2) 4 = 0xFFFFFFFD ∧ gives (.rem (lop 0 4 1 2 0)) (two 0xFFFFFFF9 2) 4 = 0xFFFFFFFF := by decide +kernel
theorem test_div_by_zero :
    gives (.div (lop 8 4 1 2 0)) (two 0x80000000 0) 4 = 0x80000000 ∧ gives (.div (lop 1 4 1 2 0)) (two 0x80000000 0) 4 = 0xFFFFFFFF := by decide +kernel
-- 03 R80
theorem test_shifts_are_not_masked :
    gives (.shr (lop 1 4 1 2 0)) (two 0x80000000 0x28) 4 = 0 ∧ gives (.sra (lop 0 4 1 2 0)) (two 0x80000000 0x28) 4 = 0xFFFFFFFF
    ∧ gives (.sra (lop 0 4 1 2 0)) (two 0x80000000 0x1F) 4 = 0xFFFFFFFF ∧ gives (.shl (lop 0 4 1 2 0)) (two 1 0x10000) 4 = 0
    ∧ gives (.rotl (lop 0 4 1 2 0)) (two 0x80000001 0x21) 4 = 3 := by decide +kernel
theorem test_bfe_reads_beyond_the_register :
    gives (.bfe (lop 0 4 1 2 0)) (two 0x0F00 0x0408) 4 = 0xFFFFFFFF ∧ gives (.bfe (lop 1 4 1 2 0)) (two 0x80000000 0x101C) 4 = 8
    ∧ gives (.bfe (lop 0 4 1 2 0)) (two 0x80000000 0x101C) 4 = 0xFFFFFFF8 := by decide +kernel
-- 03 R85, R87, R88
theorem test_perm : gives (.perm (lop 0 4 1 2 3)) (regs [(1, 0x44332211), (2, 0x88776655), (3, 0xF470)]) 4 = 0xFF558811 := by decide
theorem test_padd_saturates :
    gives (.paddL32 (sh 10 4 1 2)) (two 0x7FF08005 0x0020FFF0) 4 = 0x7FFF8000 ∧ gives (.paddL32 (sh 2 4 1 2)) (two 0x7FF08005 0x0020FFF0) 4 = 0x80107FF5 := by decide +kernel
theorem test_pshl_byte_3_is_0 : gives (.pshl (llit 0 4 1 0 0 0 0x09000301)) (two 0xFFFFFFFF 0) 4 = 0x00FFF8FE := by decide
-- 04 R94, R100
theorem test_fadd_quiets_a_nan :
    gives (.fadd (lop 0 4 1 2 0)) (two 0x7FC01234 0x7F800001) 4 = 0x7FC01234 ∧ gives (.fadd (lop 0 4 1 2 0)) (two 0x7F800001 0x7FC01234) 4 = 0x7FC00001 := by decide +kernel
theorem test_fmul_invalid :
    (match exec (.fmul (lop 0 4 1 2 0)) (two 0x7F800000 0x80000000) with
      | .next t => t.lane 4 0 == 0x7FC00000 && t.grp.fpctl == 0x10 | _ => false) = true := by decide +kernel
-- 05 R130: the first branch of the divergence traced: lanes 48-95 stay in slot A at 0x0C, lanes 0-47 take slot B at 0x30
theorem test_branch_splits :
    let g : Group := { grp0 with slotA := { frag0 with pc := 0, mask := BitVec.allOnes 96 }, g := [(3, 0xFFFFFFFF), (4, 0x0000FFFF)] }
    let s := { lane0 with grp := g, frag := g.slotA }
    (match exec (.bra { llit 0 1 0 0 0 2 0x30 with ps := 1 }) s with
      | .next t =>
        let x := t.flush
        let y := (x.teams.get {} 1).groups.get {} 0
        y.slotA.pc == 0x0C && y.slotA.mask == (BitVec.allOnes 96 <<< 48) && y.slotB.pc == 0x30 && y.slotB.mask == BitVec.ofNat 96 (2 ^ 48 - 1)
        && (y.split.map fun r => (r.token, r.expected)) == [(1, BitVec.allOnes 96)]
      | _ => false) = true := by decide
-- 06 R151: taking a trap
theorem test_trap_enters_the_handler :
    (match exec (.trap (llit 0 0 0 0 0 0 0x2A)) lane0 with
      | .next t => t.frag.pc == 0x2000 && t.grp.tpc == 0x1000 && t.grp.tval == 0x2A && bit t.grp.tstat 6 | _ => false) = true := by decide
-- the scalar stream: 03 R89
theorem test_scalar_divides_as_r79 :
    sReg (.sdivS32 (s32 0 5 4 6)) [(4, 0xFFFFFFFFFFFFFFF9), (6, 2)] 5 = 0xFFFFFFFFFFFFFFFD
    ∧ sReg (.sremS32 (s32 0 5 4 6)) [(4, 0xFFFFFFFFFFFFFFF9), (6, 2)] 5 = 0xFFFFFFFFFFFFFFFF := by decide
theorem test_s0_is_zero : sReg (.smovS32 (s32 0 0 0 6)) [(6, 7)] 0 = 0 := by decide
-- 05 R139: sbr.nz s7 with offset -0x20
theorem test_sbr_goes_back :
    (match exec (.sbr (s64 1 0 7 0 0xFFFFFFE0)) (scalT { team0 with s := [(7, 1)] }) with
      | .next t => t.team.spc == 0xFE0 | _ => false) = true := by decide
-- 15 R395: a point that expects 3 and has 2 completes with the third unit, and the sender learns the phase it counted in
theorem test_rendezvous_completes :
    let y : ArrUnit := { point := 2, units := 1, frag := some (0, false), dest := some 9 }
    let s := teamS { team0 with points := [(2, { init := true, expected := 3, arrived := 2, phase := 7 })], units := [y] }
    (match exec (.rdvUnitsArrive 1) s with
      | .next t =>
        let x := t.teams.get {} 1
        x.points.get {} 2 == { init := true, expected := 3, phase := 8 } && (x.groups.get {} 0).g.get 0 9 == 7
      | _ => false) = true := by decide

/-- 18 R423: the margins of the bands of a head with lines of 2,000 cycles. -/
theorem test_margins :
    let h : Head := { tim1 := 64 + (48 <<< 16) + (56 <<< 32), tim2 := 2000 * 256 }
    h.marginAt 0 200 = 0xB8 ∧ h.marginAt 1 397 = 0x2A9 ∧ h.marginAt 2 16196 = 0x3A6 := by decide

end Sys2Proof.Tests
end

/-! PROOFS. Every instruction and every event answers with a next state (01 R18, R36). -/

namespace Sys2Proof.Machine
open Sys2Proof

/-- An outcome is a next state: no fault and no refusal. -/
def Answers (x : Out) : Prop := ∃ t, x = .next t

theorem answers_next (t : State) : Answers (.next t) := ⟨t, rfl⟩

theorem answers_ite {c : Prop} [Decidable c] {x y : Out} (hx : Answers x) (hy : Answers y) : Answers (if c then x else y) := by
  split <;> assumption

/-! ### Shapes of lane instructions -/

theorem answers_laneExec (i : Instr) (o : LOp) (s : State) (e : State → State) : Answers (laneExec i o s e) := by
  unfold laneExec
  split <;> exact answers_next _

theorem answers_lanePure (i : Instr) (o : LOp) (s : State) (wide : Bool) (f : Nat → Nat) : Answers (lanePure i o s wide f) :=
  answers_laneExec ..

theorem answers_lane1 (i : Instr) (o : LOp) (s : State) (dw aw : Bool) (f : Nat → Nat) : Answers (lane1 i o s dw aw f) :=
  answers_lanePure ..

theorem answers_lane2 (i : Instr) (o : LOp) (s : State) (w bw signed : Bool) (f : Nat → Nat → Nat) : Answers (lane2 i o s w bw signed f) :=
  answers_lanePure ..

theorem answers_lane3 (i : Instr) (o : LOp) (s : State) (w cw signed : Bool) (f : Nat → Nat → Nat → Nat) :
    Answers (lane3 i o s w cw signed f) :=
  answers_lanePure ..

theorem answers_lanePred (i : Instr) (o : LOp) (s : State) (f : Nat → Bool) : Answers (lanePred i o s f) := answers_laneExec ..

theorem answers_gExec (i : Instr) (s : State) (wide : Bool) (d x : Nat) : Answers (gExec i s wide d x) :=
  answers_ite (answers_next _) (answers_next _)

theorem answers_short2 (i : Instr) (w : L32) (s : State) (wide bw signed : Bool) (f : Nat → Nat → Nat) :
    Answers (short2 i w s wide bw signed f) :=
  answers_ite (answers_gExec ..) (answers_lane2 ..)

theorem answers_short1 (i : Instr) (w : L32) (s : State) (dw aw : Bool) (f : Nat → Nat) : Answers (short1 i w s dw aw f) :=
  answers_ite (answers_gExec ..) (answers_lane1 ..)

theorem answers_laneExecP (i : Instr) (o : LOp) (s : State) (fs : List PoisonField) (e : State → State) : Answers (laneExecP i o s fs e) :=
  answers_laneExec ..

theorem answers_welfordLanes (i : Instr) (o : LOp) (s : State) (fs : List PoisonField) (f : Nat → Option Welford × W32) :
    Answers (welfordLanes i o s fs f) :=
  answers_laneExecP ..

theorem answers_floatPure (i : Instr) (o : LOp) (s : State) (fs : List PoisonField) (dw : Bool) (f : Nat → Nat × W32) :
    Answers (floatPure i o s fs dw f) :=
  answers_laneExecP ..

theorem answers_float1 (i : Instr) (o : LOp) (s : State) (ft : Nat) (dw : Bool) (f : Nat → Nat × W32) : Answers (float1 i o s ft dw f) :=
  answers_floatPure ..

theorem answers_float2 (i : Instr) (o : LOp) (s : State) (f : Nat → Nat → Nat × W32) : Answers (float2 i o s f) :=
  answers_floatPure ..

theorem answers_cvtLanes (i : Instr) (o : LOp) (s : State) : Answers (cvtLanes i o s) := answers_float1 ..
theorem answers_cvtfiLanes (i : Instr) (o : LOp) (s : State) : Answers (cvtfiLanes i o s) := answers_float1 ..
theorem answers_cvtifLanes (i : Instr) (o : LOp) (s : State) : Answers (cvtifLanes i o s) := answers_floatPure ..
theorem answers_fsgnLanes (i : Instr) (o : LOp) (s : State) : Answers (fsgnLanes i o s) := answers_lanePure ..

theorem answers_longExec (i : Instr) (o : LOp) (s : State) (e : State → State) : Answers (longExec i o s e) :=
  answers_laneExec ..

theorem answers_floatLong (i : Instr) (o : LOp) (s : State) (fs : List PoisonField) (dw : Bool) (f : Nat → Nat × W32) :
    Answers (floatLong i o s fs dw f) :=
  answers_longExec ..

theorem answers_floatLong1 (i : Instr) (o : LOp) (s : State) (f : Nat → Nat × W32) : Answers (floatLong1 i o s f) :=
  answers_floatLong ..

theorem answers_claim (i : Instr) (o : LOp) (k : Nat) (s : State) : Answers (claim i o k s) := answers_laneExec ..
theorem answers_joinAt (i : Instr) (o : LOp) (n : Option Nat) (s : State) : Answers (joinAt i o n s) := answers_laneExec ..
theorem answers_foldExec (i : Instr) (o : LOp) (total : Bool) (s : State) : Answers (foldExec i o total s) := answers_laneExec ..
theorem answers_rdvExec (i : Instr) (o : LOp) (drop : Bool) (s : State) : Answers (rdvExec i o drop s) := answers_laneExec ..
theorem answers_trapExec (i : Instr) (o : LOp) (cause : Nat) (s : State) : Answers (trapExec i o cause s) := answers_laneExec ..
theorem answers_ringExec (i : Instr) (o : LOp) (kind op : Nat) (s : State) : Answers (ringExec i o kind op s) := answers_longExec ..
theorem answers_emitExec (i : Instr) (o : LOp) (s : State) (n base limit : Nat) : Answers (emitExec i o s n base limit) := answers_longExec ..

theorem answers_historyExec (i : Instr) (o : LOp) (kind : Nat) (key : W32) (fs : List PoisonField) (amax : W32) (s : State) :
    Answers (historyExec i o kind key fs amax s) :=
  answers_longExec ..

/-! ### Shapes of scalar instructions -/

theorem answers_scalarPure (size : Nat) (w : S32) (s : State) (x : Nat) : Answers (scalarPure size w s x) := answers_next _
theorem answers_scalar32 (op : Nat) (w : S32) (s : State) : Answers (scalar32 op w s) := answers_scalarPure ..
theorem answers_scalar64 (op : Nat) (o : S64) (s : State) : Answers (scalar64 op o s) := answers_scalarPure ..

theorem answers_scalarWin (s : State) (size n : Nat) (base : W64) (off : Int) (write : Bool) (k : Nat → State) :
    Answers (s.scalarWin size n base off write k) := by
  unfold State.scalarWin
  dsimp only
  split <;> exact answers_next _

theorem answers_scalarGlob (s : State) (size n : Nat) (va : W64) (write : Bool) (k : List (Loc × Nat) → State) :
    Answers (s.scalarGlob size n va write k) := by
  unfold State.scalarGlob
  repeat' first | exact answers_next _ | split

theorem answers_sldsExec (w : S32) (size : Nat) (off : Int) (s : State) : Answers (sldsExec w size off s) := by
  unfold sldsExec
  exact answers_scalarWin ..

theorem answers_sstsExec (w : S32) (size : Nat) (off : Int) (s : State) : Answers (sstsExec w size off s) := by
  unfold sstsExec
  exact answers_scalarWin ..

theorem answers_sldgExec (w : S32) (size : Nat) (off : W64) (s : State) : Answers (sldgExec w size off s) := answers_scalarGlob ..
theorem answers_sstgExec (w : S32) (size : Nat) (off : W64) (s : State) : Answers (sstgExec w size off s) := answers_scalarGlob ..

theorem answers_matrixIssue (kind : Nat) (o : S96) (op : BitVec 7) (s : State) : Answers (matrixIssue kind o op s) := by
  unfold matrixIssue
  dsimp only
  repeat' first | exact answers_next _ | split

theorem answers_maccIssue (kind : Nat) (o : S64) (op : BitVec 7) (s : State) : Answers (maccIssue kind o op s) := by
  unfold maccIssue
  repeat' first | exact answers_next _ | split

theorem answers_scalarRing (o : S96) (kind : Nat) (s : State) : Answers (scalarRing o kind s) := by
  unfold scalarRing
  dsimp only
  repeat' first | exact answers_next _ | split

theorem answers_srdvArr (w : S32) (size units : Nat) (s : State) : Answers (srdvArr w size units s) := by
  unfold srdvArr
  split <;> exact answers_next _

/-! ### Instructions whose choice among outcomes hangs on a value computed before -/

theorem answers_execSlaunch (w : S32) (s : State) : Answers (execSlaunch w s) := by
  unfold execSlaunch
  dsimp only
  repeat' first | exact answers_next _ | split

theorem answers_execCollectiveRankDone (die rank : Nat) (s : State) : Answers (execCollectiveRankDone die rank s) := by
  unfold execCollectiveRankDone
  dsimp only
  repeat' first | exact answers_next _ | split

/-! ### Every instruction -/

/-- Every instruction and every event answers with a next state. The cases follow the shape of the meaning; the last group are meanings
with a tree of checks of their own, each leaf of which is a next state. -/
theorem exec_answers (i : Instr) (s : State) : Answers (exec i s) := by
  cases i <;> dsimp only [exec]
  case addL32 | subL32 | mulL32 | mulhiL32 | minL32 | maxL32 | andL32 | orL32 | xorL32 | andnL32 | shlL32 | shrL32 | sraL32 | rotlL32 |
      bfeL32 | paddL32 | psubL32 | pmulL32 | pminL32 | pmaxL32 | pshlL32 | pshrL32 | psraL32 | pcmpL32 | ppackL32 => exact answers_short2 ..
  case add | sub | mul | mulhi | div | rem | min | max | and | or | xor | andn | shl | shr | sra | rotl | bfe | padd | psub | pmul | pmin |
      pmax | pshl | pshr | psra | pcmp | ppack => exact answers_lane2 ..
  case mad | bfi | perm | pdot | sad => exact answers_lane3 ..
  case absL32 | negL32 | notL32 | popcL32 | clzL32 | ctzL32 | brevL32 | cvtiL32 | pabsL32 | punpkL32 => exact answers_short1 ..
  case abs | neg | not | popc | clz | ctz | brev | cvti | pabs | punpk | cvtxL32 | cvtx => exact answers_lane1 ..
  case sel | mov | lea | fclassL32 | fclass | shfl | qswap => exact answers_lanePure ..
  case vgive | bra | call | ret | exit | dqtake | allon | alloff | vote | fence | vinterp | hitacc | hitign | rdvWait | setperf | sysrd |
      syswr | eret | nop => exact answers_laneExec ..
  case vclaim | vclaimTry => exact answers_claim ..
  case faddL32 | fadd | fsubL32 | fsub | fmulL32 | fmul | fminL32 | fmin | fmaxL32 | fmax => exact answers_float2 ..
  case fsgnL32 | fsgn => exact answers_fsgnLanes ..
  case frndL32 | frnd | fexpoL32 | fexpo => exact answers_float1 ..
  case fma | fscale | fdot2 => exact answers_floatPure ..
  case fsqrt | frcp | frsq | fexp2 | flog2 | fsin | fcos | ftanh => exact answers_floatLong1 ..
  case cvtL32 | cvt => exact answers_cvtLanes ..
  case cvtfiL32 | cvtfi => exact answers_cvtfiLanes ..
  case cvtifL32 | cvtif => exact answers_cvtifLanes ..
  case cvtq | amxcom => exact answers_historyExec ..
  case fdiv | cvtn => exact answers_floatLong ..
  case join | joint => exact answers_joinAt ..
  case scan | redc => exact answers_foldExec ..
  case lds | sts | ldb | stb | atoms | atom | gred | pfb | accRd | emitend | vbld | vbary | trace | tsamp | tgath | tload | tquery | ctrrd
      => exact answers_longExec ..
  case board | alight | wcap | wcapUntil | wrew => exact answers_ringExec ..
  case emitv | emitp => exact answers_emitExec ..
  case rdvArr | rdvDrop => exact answers_rdvExec ..
  case trap | brk => exact answers_trapExec ..
  case saddS32 | ssubS32 | smulS32 | smulhiS32 | sdivS32 | sremS32 | sminS32 | smaxS32 | sandS32 | sorS32 | sxorS32 | sandnS32 | sshlS32 |
      sshrS32 | ssraS32 | sbfeS32 | sbfiS32 | spopc | sclz | sctz | smovS32 | scmpS32 | sselS32 | sleaS32 => exact answers_scalar32 ..
  case saddS64 | ssubS64 | smulS64 | smulhiS64 | sdivS64 | sremS64 | sminS64 | smaxS64 | sandS64 | sorS64 | sxorS64 | sandnS64 | sshlS64 |
      sshrS64 | ssraS64 | sbfeS64 | sbfiS64 | smovS64 | scmpS64 | sselS64 | sleaS64 => exact answers_scalar64 ..
  case sli => exact answers_scalarPure ..
  case sldsS32 | sldsS64 => exact answers_sldsExec ..
  case sstsS32 | sstsS64 => exact answers_sstsExec ..
  case sldgS32 | sldgS64 => exact answers_sldgExec ..
  case sstgS32 | sstgS64 => exact answers_sstgExec ..
  case mmul | mmulp | mmv => exact answers_matrixIssue ..
  case maccLd | maccSt | maccRb | maccClr => exact answers_maccIssue ..
  case sboard | salight | swcap | swrew => exact answers_scalarRing ..
  case srdvArrS32 | srdvArrS64 => exact answers_srdvArr ..
  case cmp => exact answers_lanePred ..
  case fcmp => exact answers_laneExecP ..
  case wfup | wfmerge => exact answers_welfordLanes ..
  case slaunch => exact answers_execSlaunch ..
  case collectiveRankDone => exact answers_execCollectiveRankDone ..
  case sbr | sjmpS32 | sjmpS64 | scallS32 | scallS64 | sret | sexit | ssetperf | ssyswr | strapS32 | strapS64 | lpose | ltime | powerRemoval
      | clockRatioChange | vfFunctionLevelReset | hcinv | fqrespReplay | fqrespFailure | ringWatchExpiry | wcapUntilTimeout | rdvUnitsArrive
      | coverageTeamStart | pixelTeamStart | tlbinv | pftlbinv | pfringWrite | pfwdogWrite | ctxrootWrite => exact answers_next _
  all_goals
    delta execMovL32 execQdiff execPatom execCover execSdqpush execSatom execXcopy execXpub execXdrain execXcoll execSfence execSfsnew
      execSfswait execSqfence execSrdvInit execSrdvWait execSsysrd execSeret execLgen execLgenWait execLlatch execLfetch execLme execLwarp
      execLnet execLput execLend execPowerUpBringUp execJunctionShutdown execCapWindowEnd execClusterPowerOn execPfFunctionLevelReset
      execUncorrectableError execHostAbort execCorrectedError execRunTimeRepair execDoorbellWrite execPacketTake execLaunchCheck
      execTeamStart execTeamEnd execQresume execQcfgWrite execFqcfgWrite execFqconsWrite execFaultPostRetry execFsreset execVfstatClear
      execCtxcmdCreate execCtxcmdDestroy execCtxcmdPreempt execTimeSliceEnd execGracePhaseEnd execStopPhaseSettled execSaveComplete
      execContextResume execContextWatchdogExpiry execWindowClose execJoinTimerExpiry execJoinDeadlock execPairTimeout execHomeSliceAccess
      execMatrixKStep execGovernorStep execMaccComplete execRingSlotPassage execSeamRevolution execCopyComplete execCollectiveJoin
      execRasterPrimitive execEmitendResult execTraversalResult execHeadEnable execHeadDisable execHctlSwap execBankSwap execHload
      execHloadDone execHposeWrite execBandProgramStart execBandDeadline execFallbackWriteDone execFallbackModeBand execFrameStart
      execBandScanout execSharedUnitGrant execAtrcmdRegister execAtrcmdRemove execPfpscmdConfigure execPfpscmdInvalidate execPfpartWrite
      execPfqrangeWrite execPfsaveWrite execPfheadsWrite execPfpcapWrite execPfperfWrite execPfgovWrite execPfgov2Write execPferrRead
      execPfs2rootWrite execPmctlWrite execPmevWrite execRegisterWrite execCopyWordWrite execWolynLinkPortFailure execVfEnable
      execSpdmRequest
    repeat' first
      | with_reducible exact answers_next _
      | with_reducible exact answers_laneExec ..
      | with_reducible exact answers_lanePure ..
      | with_reducible exact answers_longExec ..
      | with_reducible exact answers_gExec ..
      | with_reducible exact answers_scalarWin ..
      | with_reducible exact answers_scalarGlob ..
      | split
      | extract_lets

end Sys2Proof.Machine

/-! PROOFS. A step takes the oldest turn (O56), and the state after reset (O60). -/

namespace Sys2Proof.Machine
open Sys2Proof

/-! ### Turns -/

theorem step_cons {s : State} {t : Turn} {ts : List Turn} (h : s.agenda = t :: ts) : step s = ({ s with agenda := ts } : State).take t := by
  simp [step, h]

theorem runsInRecovery_event {e : Instr} (h : runsInRecovery (.event e) = true) : e.isEvent = true := by
  unfold runsInRecovery at h
  split at h
  · next e' => cases e'; rfl
  · next e' => cases e'; rfl
  · next e' => cases e'; rfl
  · cases h

theorem runsInRecovery_other {t : Turn} (hb : ∀ o, t ≠ .event (.powerUpBringUp o)) (hp : t ≠ .event .powerRemoval)
    (hj : ∀ c, t ≠ .event (.junctionShutdown c)) : runsInRecovery t = false := by
  unfold runsInRecovery
  split
  · exact absurd rfl (hb _)
  · exact absurd rfl hp
  · exact absurd rfl (hj _)
  · rfl

theorem runsUnpowered_other {t : Turn} (hb : ∀ o, t ≠ .event (.powerUpBringUp o)) : runsUnpowered t = false := by
  unfold runsUnpowered
  split
  · exact absurd rfl (hb _)
  · rfl

section
variable {s : State} {t : Turn} {ts : List Turn}

/-- Without power a turn passes, unless it is bring-up (00 R14). -/
theorem step_unpowered (ha : s.agenda = t :: ts) (hp : s.power = false) (ht : runsUnpowered t = false) :
    step s = .next { s with agenda := ts } := by
  simp [step_cons ha, State.take, hp, ht]

/-- Before bring-up has ended and in recovery mode a turn passes, unless it may run there (00 R16). -/
theorem step_recovering (ha : s.agenda = t :: ts) (hr : s.recovery ≠ none ∨ s.bringUpDone = false) (ht : runsInRecovery t = false) :
    step s = .next { s with agenda := ts } := by
  have h : (s.recovery.isSome || !s.bringUpDone) = true := by simpa [Option.isSome_iff_ne_none] using hr
  simp [step_cons ha, State.take, h, ht]

/-- An event that the machine's state allows runs, and its turn ends. -/
theorem step_event {e : Instr} (ha : s.agenda = .event e :: ts) (hp : s.power = true ∨ runsUnpowered (.event e) = true)
    (hr : (s.recovery = none ∧ s.bringUpDone = true) ∨ runsInRecovery (.event e) = true) (he : e.isEvent = true) :
    ∃ u, exec e { s with agenda := ts } = .next u ∧ step s = .next u.endTurn := by
  obtain ⟨u, hu⟩ := exec_answers e { s with agenda := ts }
  have h1 : (!s.power && !runsUnpowered (.event e)) = false := by obtain h | h := hp <;> simp [h]
  have h2 : ((s.recovery.isSome || !s.bringUpDone) && !runsInRecovery (.event e)) = false := by
    obtain ⟨h, h'⟩ | h := hr
    · simp [h, h']
    · simp [h]
  exact ⟨u, hu, by simp [step_cons ha, State.take, h1, h2, he, hu, endOut]⟩

/-! With power and after bring-up every turn is taken. -/

variable (hp : s.power = true) (hb : s.bringUpDone = true) (hr : s.recovery = none)
include hp hb hr

theorem step_lane {uid gid : Nat} {b : Bool} (ha : s.agenda = .lane uid gid b :: ts) :
    step s = ({ s with agenda := ts } : State).laneTurn uid gid b := by simp [step_cons ha, State.take, hp, hb, hr]
theorem step_scalar {uid : Nat} (ha : s.agenda = .scalar uid :: ts) : step s = ({ s with agenda := ts } : State).scalarTurn uid := by
  simp [step_cons ha, State.take, hp, hb, hr]
theorem step_sequencer {hid : Nat} (ha : s.agenda = .sequencer hid :: ts) : step s = ({ s with agenda := ts } : State).sequencerTurn hid := by
  simp [step_cons ha, State.take, hp, hb, hr]
theorem step_outside {o : Outside} (ha : s.agenda = .outside o :: ts) : step s = .next (({ s with agenda := ts } : State).outside o) := by
  simp [step_cons ha, State.take, hp, hb, hr]
theorem step_noEvent {e : Instr} (ha : s.agenda = .event e :: ts) (he : e.isEvent = false) : step s = .next { s with agenda := ts } := by
  simp [step_cons ha, State.take, hp, hb, hr, he]
end

/-! ### The outside -/

theorem mem_outPages {page q : Nat} {b : Bool} {ps : List Nat} :
    q ∈ (if b then ps.filter (· != page) else page :: ps.filter (· != page)) ↔ (q = page ∧ b = false) ∨ (q ≠ page ∧ q ∈ ps) := by
  cases b <;> simp [and_comm]

theorem State.outside_mapRank (s : State) (v k d : Nat) :
    s.outside (.mapRank v k d) = { s with vfs := (s.outside (.mapRank v k d)).vfs }
    ∧ VfIs s (s.outside (.mapRank v k d)) v { s.vf v with rankDevice := ((s.outside (.mapRank v k d)).vf v).rankDevice }
    ∧ ∀ j, ((s.outside (.mapRank v k d)).vf v).rankDevice.get 0 j
        = if j = k then (if d < s.linkGroup then d else 0) else (s.vf v).rankDevice.get 0 j := by
  refine ⟨rfl, ⟨fun w hw => ?_, ?_⟩, fun j => ?_⟩
  · simp [State.outside, hw]
  · simp [State.outside]
  · simp [State.outside, Store.get_put]

/-- A collective that one rank of several has joined is not over. -/
theorem Coll.over_single {v rank : Nat} {key : W32} {c : CollOp} (h : 1 < c.n) : ({ vf := v, key := key, ranks := [(rank, c)] } : Coll).over = false := by
  have h1 : ¬1 = c.n := by omega
  simp [Coll.over, h1]

theorem State.peerJoin_here {s : State} {v : Nat} {e1 e2 : W32} {part : W64} (h : (s.vf v).rankDevice.get 0 (bits part 39 32) = 0) :
    s.peerJoin v e1 e2 part = s := by
  simp [State.peerJoin, CollOp.rank, h]

/-- The command that a peer device sends, as its engine holds it. -/
def peerCommand (s : State) (v : Nat) (e1 e2 : W32) (part : W64) : CollOp :=
  { order := s.engineIssued, uid := 0, vf := v, ctx := 0, core := 0, e1 := e1, e2 := e2, f := 1, src := 0, dst := 0, part := part,
    peer := true, written := true, done := true }

theorem State.collReach_opens {s : State} {c : CollOp} (hr : c.rank < c.n) (hf : ∀ g ∈ s.colls, ¬(g.vf = c.vf ∧ g.key = c.key)) :
    s.collReach c = { s with colls := s.colls ++ [{ vf := c.vf, key := c.key, ranks := [(c.rank, c)] }] } := by
  have h : s.colls.find? (fun g => g.vf == c.vf && g.key == c.key) = none := by
    rw [List.find?_eq_none]
    intro g hg
    simpa using hf g hg
  simp only [State.collReach, Nat.not_le.2 hr, if_false, h]

/-- The first command of a collective opens it. -/
theorem State.peerJoin_opens {s : State} {v : Nat} {e1 e2 : W32} {part : W64} (hd : (s.vf v).rankDevice.get 0 (bits part 39 32) ≠ 0)
    (hr : bits part 39 32 < bits part 47 40) (hn : 1 < bits part 47 40)
    (hc : ∀ g ∈ s.colls, g.over = false ∧ ¬(g.vf = v ∧ g.key = part.truncate 32)) :
    s.peerJoin v e1 e2 part = { s with
      engineIssued := s.engineIssued + 1,
      colls := s.colls ++ [{ vf := v, key := part.truncate 32, ranks := [(bits part 39 32, peerCommand s v e1 e2 part)] }] } := by
  have hkeep : s.colls.filter (fun g => !g.over) = s.colls := List.filter_eq_self.2 fun g hg => by simp [(hc g hg).1]
  have hnew := Coll.over_single (v := v) (rank := bits part 39 32) (key := part.truncate 32) (c := peerCommand s v e1 e2 part) hn
  have hreach := State.collReach_opens (s := { s with engineIssued := s.engineIssued + 1 }) (c := peerCommand s v e1 e2 part) hr
    fun g hg => (hc g hg).2
  refine (if_neg hd).trans ((congrArg (fun t : State => { t with colls := t.colls.filter fun g => !g.over }) hreach).trans ?_)
  dsimp only
  rw [List.filter_append, hkeep]
  refine congrArg (fun x => ({ s with engineIssued := s.engineIssued + 1, colls := s.colls ++ x } : State)) ?_
  exact List.filter_eq_self.2 fun g hg => by rw [List.mem_singleton.1 hg]; exact congrArg not hnew

/-! ### Turns of streams -/

/-- The words are an instruction. -/
def decodedInstr : Decoded → Bool
  | .instr _ => true
  | _ => false

theorem ne_instr_of_decoded {d : Decoded} (h : decodedInstr d = false) (i : Instr) : d ≠ .instr i := by
  rintro rfl
  exact Bool.noConfusion h

theorem badWord_zeroWord (w0 : W32) : badWord .zeroWord w0 = ({ cause := 0x02, tval := 0 }, 4 * max 1 (bits w0 1 0)) := rfl
theorem badWord_extEmu (w0 : W32) : badWord .extEmu w0 = ({ cause := 0x03, tval := w0.zeroExtend 64 }, 4 * max 1 (bits w0 1 0)) := rfl
theorem badWord_illegal (w0 : W32) : badWord .illegal w0 = ({ cause := 0x01, tval := w0.zeroExtend 64 }, 4 * max 1 (bits w0 1 0)) := rfl

theorem endOut_next (t : State) : endOut (.next t) = .next t.endTurn := rfl

theorem State.laneTurn_idle {s : State} {uid gid : Nat} {b : Bool}
    (h : ∀ t g, s.teams.lookup uid = some t → t.groups.lookup gid = some g → laneReady t g b = false) : s.laneTurn uid gid b = .next s := by
  unfold State.laneTurn
  split
  · rfl
  · next t ht =>
    split
    · rfl
    · next g hg => simp [h t g ht hg]

/-- The state in which a fragment of a listed group takes its turn. -/
def State.laneFocus (s : State) (uid gid : Nat) (b : Bool) (t : Team) (g : Group) : State :=
  { s with cur := { stream := .lane, uid := uid, gid := gid, slotB := b }, team := t, grp := g, frag := g.slotOf b }

theorem State.laneTurn_ready {s : State} {uid gid : Nat} {b : Bool} {t : Team} {g : Group} (ht : s.teams.lookup uid = some t)
    (hg : t.groups.lookup gid = some g) (hr : laneReady t g b = true) (ht' : s.teams.get {} uid = t) (hg' : t.groups.get {} gid = g) :
    s.laneTurn uid gid b = if otherTraps g b then .next (s.laneFocus uid gid b t g).holdTrap.unfocus else endOut (s.laneFocus uid gid b t g).turnLane := by
  have hf : s.focus { stream := .lane, uid := uid, gid := gid, slotB := b } = s.laneFocus uid gid b t g := by
    subst ht' hg'
    rfl
  simp only [State.laneTurn, ht, hg, hr, hf, Bool.not_true, Bool.false_eq_true, if_false]

theorem otherTraps_iff {g : Group} {b : Bool} : otherTraps g b = true ↔ bit g.tstat 6 = true ∧ bit g.tstat 4 ≠ b := by
  simp [otherTraps, inh]

/-! The turn of a fragment, by what stands before its next instruction. -/

section
variable {s : State}

theorem State.turnLane_failedWindow {e : Trap} {w x : Window} {r : Issued} {l : Late} (hf : failedOf s.frag.park = some e)
    (hw : s.frag.parkedWindow = some (w, r)) (hx : firstFault (s.failLate w e).frag.windows = some (x, l)) :
    s.turnLane = .next ((s.failLate w e).reportLate x l) := by
  simp only [State.turnLane, hf, hw, hx]

theorem State.turnLane_failed {e : Trap} (hf : failedOf s.frag.park = some e) (hw : s.frag.parkedWindow = none) :
    s.turnLane = .next (if answersOpen s.frag.windows then s.wait
      else ({ s with frag := { s.frag with park := [] } }).raise e (s.peekLen s.team.vf s.team.ctx s.frag.pc)) := by
  simp only [State.turnLane, hf, hw]
  split <;> rfl

theorem State.turnLane_served {w : Window} {r : Issued} (hf : failedOf s.frag.park = none) (hw : s.frag.parkedWindow = some (w, r)) :
    s.turnLane = .next (s.replay w r) := by
  simp only [State.turnLane, hf, hw]

theorem State.turnLane_due {w : Window} {l : Late} (hf : failedOf s.frag.park = none) (hw : s.frag.parkedWindow = none)
    (hd : dueFault s.frag = some (w, l)) : s.turnLane = .next (s.reportLate w l) := by
  simp only [State.turnLane, hf, hw, hd]

theorem State.turnLane_issues (hf : failedOf s.frag.park = none) (hw : s.frag.parkedWindow = none) (hd : dueFault s.frag = none) :
    s.turnLane = s.issueLane := by
  simp only [State.turnLane, hf, hw, hd]

theorem State.issueLane_blocked (h : ∃ w ∈ s.closeDue.frag.windows, w.left = 0) : s.issueLane = .next s.closeDue.wait := by
  have h' : (s.closeDue.frag.windows.any fun w => w.left == 0) = true := by simpa using h
  simp only [State.issueLane, h', if_true]

variable (h : ∀ w ∈ s.closeDue.frag.windows, w.left ≠ 0)
include h

theorem State.issueLane_noFetch {e : Stop} {n : Nat} (hf : s.closeDue.fetch s.team.vf s.team.ctx s.closeDue.frag.pc = .error (e, n)) :
    s.issueLane = .next (s.closeDue.stopLane n [] e) := by
  have h' : (s.closeDue.frag.windows.any fun w => w.left == 0) = false := by simpa using h
  simp only [State.issueLane, h', hf, Bool.false_eq_true, if_false]

variable {u : State} {w0 w1 w2 : W32} (hf : s.closeDue.fetch s.team.vf s.team.ctx s.closeDue.frag.pc = .ok (u, w0, w1, w2))
include hf

theorem State.issueLane_passes (hp : u.frag.passing = true) : s.issueLane = .next (u.passOver (4 * max 1 (lengthWords w0))) := by
  have h' : (s.closeDue.frag.windows.any fun w => w.left == 0) = false := by simpa using h
  simp only [State.issueLane, h', hf, hp, Bool.false_eq_true, if_false, if_true]

variable (hp : u.frag.passing = false)
include hp

theorem State.issueLane_badWord {d : Decoded} (hd : decode .lane (u.feat0 s.team.core) w0 w1 w2 = d) (hi : decodedInstr d = false) :
    s.issueLane = .next (u.raise (badWord d w0).1 (badWord d w0).2) := by
  have hi' := ne_instr_of_decoded hi
  have h' : (s.closeDue.frag.windows.any fun w => w.left == 0) = false := by simpa using h
  simp only [State.issueLane, h', hf, hp, hd, Bool.false_eq_true, if_false]

theorem State.issueLane_runs {i : Instr} (hd : decode .lane (u.feat0 s.team.core) w0 w1 w2 = .instr i) : s.issueLane = u.runLane i := by
  have h' : (s.closeDue.frag.windows.any fun w => w.left == 0) = false := by simpa using h
  simp only [State.issueLane, h', hf, hp, hd, Bool.false_eq_true, if_false]
end

theorem heldBack_iff {f : Fragment} {i : Instr} :
    heldBack f i = true ↔ (closesWindows i = true ∧ ∃ w ∈ f.windows, w.waiting ≠ 0 ∨ w.fault.isSome = true)
      ∨ (releases i = true ∧ ∃ w ∈ f.windows, w.fault.isSome = true) := by
  simp [heldBack, openWork]

theorem State.runLane_fault {s : State} {i : Instr} {w : Window} {l : Late} (h : heldBack s.frag i = true)
    (hf : firstFault s.frag.windows = some (w, l)) : s.runLane i = .next (s.reportLate w l) := by
  simp only [State.runLane, h, hf, if_true]

theorem State.runLane_waits {s : State} {i : Instr} (h : heldBack s.frag i = true) (hf : firstFault s.frag.windows = none) :
    s.runLane i = .next s.wait := by
  simp only [State.runLane, h, hf, if_true]

/-- An instruction of group code runs in the windows that it leaves open, and is charged unless it waits. -/
theorem State.runLane_runs {s : State} {i : Instr} (h : heldBack s.frag i = false) :
    ∃ u, exec i (if closesWindows i then s.closeAll else s) = .next u
      ∧ s.runLane i = .next (if u.cur.waited then u
          else u.chargeLane (if closesWindows i then s.closeAll else s).team.core (if closesWindows i then s.closeAll else s).team.vf
            (chargeOf i (if closesWindows i then s.closeAll else s).frag.lanes)) := by
  obtain ⟨u, hu⟩ := exec_answers i (if closesWindows i then s.closeAll else s)
  refine ⟨u, hu, ?_⟩
  simp only [State.runLane, h, hu, Bool.false_eq_true, if_false]
  split <;> rfl

/-! The turn of a scalar stream. -/

theorem State.scalarTurn_idle {s : State} {uid : Nat} (h : ∀ t, s.teams.lookup uid = some t → scalarReady t = false) :
    s.scalarTurn uid = .next s := by
  unfold State.scalarTurn
  split
  · rfl
  · next t ht => simp [h t ht]

/-- The state in which the scalar stream of a listed team takes its turn. -/
def State.scalarFocus (s : State) (uid : Nat) (t : Team) : State := { s with cur := { stream := .scalar, uid := uid }, team := t }

theorem State.scalarTurn_ready {s : State} {uid : Nat} {t : Team} (ht : s.teams.lookup uid = some t) (ht' : s.teams.get {} uid = t)
    (hr : scalarReady t = true) : s.scalarTurn uid = endOut (s.scalarFocus uid t).turnScalar := by
  have hf : s.focus { stream := .scalar, uid := uid } = s.scalarFocus uid t := by
    subst ht'
    rfl
  simp only [State.scalarTurn, ht, hr, hf, if_true]

section
variable {s : State}

theorem State.turnScalar_failed {e : Trap} (hf : failedOf s.team.spark = some e) :
    s.turnScalar = .next (({ s with team := { s.team with spark := [] } }).raiseScalar e (s.peekLen s.team.vf s.team.ctx s.team.spc)) := by
  simp only [State.turnScalar, hf]

theorem State.turnScalar_engineFault {e : Trap} {pc : Option W64} {rest : List (Trap × Option W64)} (hf : failedOf s.team.spark = none)
    (hp : s.team.sphase = 0) (he : s.team.engineFault = (e, pc) :: rest) :
    s.turnScalar = .next (({ s with team := { s.team with engineFault := rest } } : State).enterScalarTrap e (pc.getD s.team.spc)
      (if pc.isSome then 12 else 0)) := by
  have h : (if s.team.sphase = 0 then s.team.engineFault else []) = (e, pc) :: rest := by rw [if_pos hp, he]
  simp only [State.turnScalar, hf, h]
  cases pc <;> rfl

theorem noEngineFault (he : s.team.sphase ≠ 0 ∨ s.team.engineFault = []) :
    (if s.team.sphase = 0 then s.team.engineFault else []) = [] := by
  obtain h | h := he
  · exact if_neg h
  · simp [h]

variable (hf : failedOf s.team.spark = none) (he : s.team.sphase ≠ 0 ∨ s.team.engineFault = [])
include hf he

theorem State.turnScalar_noWords {e : Stop} {n : Nat} (hw : s.scalarWords = .error (e, n)) : s.turnScalar = .next (s.stopScalar n e) := by
  simp only [State.turnScalar, hf, noEngineFault he, hw]

variable {u : State} {w0 w1 w2 : W32} (hw : s.scalarWords = .ok (u, w0, w1, w2))
include hw

theorem State.turnScalar_badWord {d : Decoded} (hd : decode .scalar (u.feat0 s.team.core) w0 w1 w2 = d) (hi : decodedInstr d = false) :
    s.turnScalar = .next (u.raiseScalar (badWord d w0).1 (badWord d w0).2) := by
  have hi' := ne_instr_of_decoded hi
  simp only [State.turnScalar, hf, noEngineFault he, hw, hd]

/-- An instruction of the scalar stream runs; one that waits keeps its words, one that completes counts. -/
theorem State.turnScalar_runs {i : Instr} (hd : decode .scalar (u.feat0 s.team.core) w0 w1 w2 = .instr i) :
    ∃ t, exec i u = .next t
      ∧ s.turnScalar = .next (if t.cur.waited then t.keepWords (w0, w1, w2)
          else t.onCore s.team.core fun c => { c with scalarIssued := (c.scalarIssued + 1) % 2 ^ 64 }) := by
  obtain ⟨t, ht⟩ := exec_answers i u
  refine ⟨t, ht, ?_⟩
  simp only [State.turnScalar, hf, noEngineFault he, hw, hd, ht]
  split <;> rfl
end

/-! The turn of a line sequencer. -/

theorem State.sequencerTurn_idle {s : State} {hid : Nat} (h : ∀ h, s.heads.lookup hid = some h → h.en = false ∨ h.running = false) :
    s.sequencerTurn hid = .next s := by
  unfold State.sequencerTurn
  split
  · rfl
  · next x hx => obtain e | e := h x hx <;> simp [e]

/-- The state in which the line sequencer of a listed head takes its turn. -/
def State.headFocus (s : State) (hid : Nat) (h : Head) : State := { s with cur := { stream := .sequencer, hid := hid }, head := h }

theorem State.sequencerTurn_ready {s : State} {hid : Nat} {h : Head} (hh : s.heads.lookup hid = some h) (hh' : s.heads.get {} hid = h)
    (he : h.en = true) (hr : h.running = true) : s.sequencerTurn hid = endOut (s.headFocus hid h).turnSequencer := by
  have hf : s.focus { stream := .sequencer, hid := hid } = s.headFocus hid h := by
    subst hh'
    rfl
  simp only [State.sequencerTurn, hh, he, hr, hf, Bool.and_true, if_true]

section
variable {s : State}

/-- The program in focus ends with a program fault. -/
def State.endsProgram (s : State) (cause : Nat) : State := { s with head := ({ s.head with fault := some cause } : Head).programFault cause }

theorem State.settleHead_lineFault (cause : Nat) : (s.lineFault cause).settleHead = s.endsProgram cause := rfl

variable {w0 w1 w2 : W32} (h0 : s.head.bankWord s.head.pc = w0)
include h0

theorem State.turnSequencer_beyond (h : 4096 < s.head.pc + bits w0 1 0) : s.turnSequencer = .next (s.endsProgram 0x0B) := by
  have h' : 4096 < s.head.pc + lengthWords w0 := h
  simp only [State.turnSequencer, gt_iff_lt, h0, h', if_true, State.settleHead_lineFault, causeMisalign]

variable (h1 : s.head.bankWord (s.head.pc + 1) = w1) (h2 : s.head.bankWord (s.head.pc + 2) = w2) (h : s.head.pc + bits w0 1 0 ≤ 4096)
include h1 h2 h

theorem State.turnSequencer_badWord {d : Decoded} {cause : Nat} (hd : decode .sequencer allFeatures w0 w1 w2 = d)
    (hi : decodedInstr d = false) (hc : (badWord d w0).1.cause = cause) : s.turnSequencer = .next (s.endsProgram cause) := by
  have hi' := ne_instr_of_decoded hi
  have h' : ¬4096 < s.head.pc + lengthWords w0 := Nat.not_lt.2 h
  simp only [State.turnSequencer, gt_iff_lt, h0, h1, h2, h', if_false, hd, hc, State.settleHead_lineFault]

variable {i : Instr} (hd : decode .sequencer allFeatures w0 w1 w2 = .instr i)
include hd

theorem State.turnSequencer_late (ht : s.head.onTime (s.head.next - 1) (s.head.now + lineCost i s) = false) :
    s.turnSequencer = .next { s with head := { s.head with held := true } } := by
  have h' : ¬4096 < s.head.pc + lengthWords w0 := Nat.not_lt.2 h
  simp only [State.turnSequencer, gt_iff_lt, h0, h1, h2, h', if_false, hd, ht, Bool.not_false, if_true]

/-- An instruction that completes by the deadline runs; its time passes unless it waits. -/
theorem State.turnSequencer_runs (ht : s.head.onTime (s.head.next - 1) (s.head.now + lineCost i s) = true) :
    ∃ u, exec i s = .next u
      ∧ s.turnSequencer = .next (if u.cur.waited then u.lineHold else (u.lineTick (s.head.waited || isLfetch i) (lineCost i s)).settleHead) := by
  have h' : ¬4096 < s.head.pc + lengthWords w0 := Nat.not_lt.2 h
  obtain ⟨u, hu⟩ := exec_answers i s
  refine ⟨u, hu, ?_⟩
  simp only [State.turnSequencer, gt_iff_lt, h0, h1, h2, h', if_false, hd, ht, hu, Bool.not_true, Bool.false_eq_true]
  split <;> rfl
end

/-- Settles O56: each conjunct takes the turn that stands first, through the lemma on what that turn does. -/
theorem stepRunsTheTurn : Obligations.StepRunsTheTurn := by
  unfold Obligations.StepRunsTheTurn
  refine ⟨fun s h => by simp [step, h], fun s ts hp => ⟨fun t ha hb => ?_, fun o ha => ?_⟩,
    fun s ts hp hr => ⟨fun t ha hb hq hj => ?_, fun e ha he => ?_⟩,
    fun s ts hp hb hr => ⟨fun e ha => ⟨fun he => ?_, fun he => ?_⟩, fun o ha => ?_⟩,
    fun s ts uid gid b hp hb hr ha => ⟨fun hn => ?_, fun t g ht hg hl => ?_⟩,
    fun s ts uid hp hb hr ha => ⟨fun hn => ?_, fun t ht ht' hl => ?_⟩,
    fun s ts hid hp hb hr ha => ⟨fun hn => ?_, fun h hh hh' he hu => ?_⟩⟩
  · exact step_unpowered ha hp (runsUnpowered_other hb)
  · exact step_event ha (.inr rfl) (.inr rfl) rfl
  · exact step_recovering ha hr (runsInRecovery_other hb hq hj)
  · exact step_event ha (.inl hp) (.inr he) (runsInRecovery_event he)
  · exact step_event ha (.inl hp) (.inl ⟨hr, hb⟩) he
  · exact step_noEvent hp hb hr ha he
  · refine ⟨step_outside hp hb hr ha, ?_, ?_, ?_, ?_, ?_⟩
    · rintro n rfl
      rfl
    · rintro v k d rfl
      exact State.outside_mapRank { s with agenda := ts } v k d
    · rintro page x rfl
      exact ⟨rfl, fun q => mem_outPages⟩
    · rintro page x rfl
      exact ⟨rfl, fun q => mem_outPages⟩
    · rintro v e1 e2 part rfl
      exact ⟨State.peerJoin_here (s := { s with agenda := ts }), fun h1 h2 h3 h4 =>
        ⟨peerCommand { s with agenda := ts } v e1 e2 part, rfl, rfl, rfl, rfl, rfl, rfl,
          State.peerJoin_opens (s := { s with agenda := ts }) h1 h2 h3 h4⟩⟩
  · rw [step_lane hp hb hr ha]
    exact State.laneTurn_idle (s := { s with agenda := ts }) hn
  · intro s0 s1 size ht' hg'
    have hs := (step_lane hp hb hr ha).trans (State.laneTurn_ready (s := { s with agenda := ts }) ht hg hl ht' hg')
    change step s = if otherTraps g b then .next s0.holdTrap.unfocus else endOut s0.turnLane at hs
    refine ⟨fun h1 h2 => by rw [hs, if_pos (otherTraps_iff.2 ⟨h1, h2⟩)], fun h1 => ?_⟩
    have hno : otherTraps g b = false := by
      rw [← Bool.not_eq_true, otherTraps_iff]
      grind
    have ends {u : State} (h : s0.turnLane = .next u) : step s = .next u.endTurn := by
      rw [hs, hno, if_neg Bool.false_ne_true, h, endOut_next]
    refine ⟨fun e he => ⟨fun w r hw x l hx => ends (State.turnLane_failedWindow he hw hx), fun hw => ⟨fun ho => ?_, fun ho => ?_⟩⟩,
      fun he w r hw => ends (State.turnLane_served he hw), fun he hw => ⟨fun w l hd => ends (State.turnLane_due he hw hd), fun hd => ?_⟩⟩
    · rw [ends (State.turnLane_failed he hw), if_pos ho]
    · rw [ends (State.turnLane_failed he hw), if_neg (Bool.not_eq_true _ ▸ ho)]
    have issues {u : State} (h : s0.issueLane = .next u) : step s = .next u.endTurn := ends ((State.turnLane_issues he hw hd).trans h)
    refine ⟨fun h => issues (State.issueLane_blocked h), fun h => ⟨fun e n hf => issues (State.issueLane_noFetch h hf),
      fun s2 w0 w1 w2 hf => ⟨fun hk hh => issues (State.issueLane_passes h hf (by simp [Fragment.passing, hk, hh])), fun hk => ?_⟩⟩⟩
    have hp' : s2.frag.passing = false := by obtain hk | hk := hk <;> simp [Fragment.passing, hk]
    refine ⟨fun hd => ?_, fun hd => ?_, fun hd => ?_, fun i hd => ?_⟩
    · rw [issues (State.issueLane_badWord h hf hp' hd rfl), badWord_zeroWord]
    · rw [issues (State.issueLane_badWord h hf hp' hd rfl), badWord_extEmu]
    · rw [issues (State.issueLane_badWord h hf hp' hd rfl), badWord_illegal]
    have runs {u : State} (h' : s2.runLane i = .next u) : step s = .next u.endTurn :=
      issues ((State.issueLane_runs h hf hp' hd).trans h')
    refine ⟨fun hheld => ?_, fun hheld => ?_⟩
    · cases hx : firstFault s2.frag.windows with
      | none => exact runs (State.runLane_waits (heldBack_iff.2 hheld) hx)
      | some x => exact runs (State.runLane_fault (heldBack_iff.2 hheld) hx)
    · obtain ⟨u, hu, hrun⟩ := State.runLane_runs (Bool.eq_false_iff.2 fun hx => hheld (heldBack_iff.1 hx))
      exact ⟨u, hu, runs hrun⟩
  · rw [step_scalar hp hb hr ha]
    exact State.scalarTurn_idle (s := { s with agenda := ts }) hn
  · intro s0 size
    have hs := (step_scalar hp hb hr ha).trans (State.scalarTurn_ready (s := { s with agenda := ts }) ht ht' hl)
    have ends {u : State} (h : s0.turnScalar = .next u) : step s = .next u.endTurn := hs.trans (congrArg endOut h)
    refine ⟨fun e hf => ends (State.turnScalar_failed hf), fun hf => ⟨fun e pc rest h0 he => ?_, fun he => ?_⟩⟩
    · have h := ends (State.turnScalar_engineFault (s := s0) hf h0 he)
      cases pc <;> exact h
    · intro words
      have hw : s0.scalarWords = words := rfl
      refine ⟨fun e n h => ends (State.turnScalar_noWords hf he (hw.trans h)), fun s1 w0 w1 w2 h => ?_⟩
      refine ⟨fun hd => ?_, fun hd => ?_, fun hd => ?_, fun i hd => ?_⟩
      · rw [ends (State.turnScalar_badWord hf he (hw.trans h) hd rfl), badWord_zeroWord]
      · rw [ends (State.turnScalar_badWord hf he (hw.trans h) hd rfl), badWord_extEmu]
      · rw [ends (State.turnScalar_badWord hf he (hw.trans h) hd rfl), badWord_illegal]
      obtain ⟨u, hu, hrun⟩ := State.turnScalar_runs hf he (hw.trans h) hd
      exact ⟨u, hu, ends hrun⟩
  · rw [step_sequencer hp hb hr ha]
    exact State.sequencerTurn_idle (s := { s with agenda := ts }) hn
  · intro s0 w ends'
    have hs := (step_sequencer hp hb hr ha).trans (State.sequencerTurn_ready (s := { s with agenda := ts }) hh hh' he hu)
    have ends {u : State} (h : s0.turnSequencer = .next u) : step s = .next u.endTurn := hs.trans (congrArg endOut h)
    have hends (cause : Nat) : ends' cause = s0.endsProgram cause := rfl
    have h0 : s0.head.bankWord s0.head.pc = w 0 := rfl
    have h1 : s0.head.bankWord (s0.head.pc + 1) = w 1 := rfl
    have h2 : s0.head.bankWord (s0.head.pc + 2) = w 2 := rfl
    refine ⟨fun hl => (ends (State.turnSequencer_beyond h0 hl)).trans (by rw [hends]), fun hl => ⟨fun hd => ?_, fun hd => ?_, fun i hd => ⟨fun ht => ?_, fun ht => ?_⟩⟩⟩
    · rw [hends, ends (State.turnSequencer_badWord (cause := 0x02) h0 h1 h2 hl hd rfl rfl)]
    · rw [hends, ends (State.turnSequencer_badWord (cause := 0x01) h0 h1 h2 hl hd rfl rfl)]
    · exact ends (State.turnSequencer_late h0 h1 h2 hl hd ht)
    · obtain ⟨u, hx, hrun⟩ := State.turnSequencer_runs h0 h1 h2 hl hd ht
      refine ⟨u, hx, fun hw => ?_, fun hw => ?_⟩
      · rw [ends hrun, if_pos hw]
      · rw [ends hrun, if_neg (Bool.not_eq_true _ ▸ hw)]
        rfl

/-! ### The state after reset -/

theorem reset_settled : State.reset.Settled := ⟨rfl, rfl, rfl, rfl, rfl⟩
theorem reset_vf (v : Nat) : State.reset.vf v = {} := rfl
theorem reset_ctx (v k : Nat) : State.reset.ctx v k = {} := rfl
theorem reset_core (k : Nat) : State.reset.core k = {} := rfl
theorem reset_cluster (k : Nat) : State.reset.cluster k = {} := rfl
theorem reset_headOf (k : Nat) : State.reset.headOf k = {} := rfl

/-- Settles O60: a table with nothing listed reads as its default, and the defaults are the reset values. -/
theorem resetState : Obligations.ResetState := by
  unfold Obligations.ResetState
  refine ⟨reset_settled, reset_memoryOk, rfl, rfl, rfl, rfl, rfl, rfl, rfl, rfl, rfl, rfl, rfl, rfl, rfl, fun _ => ⟨rfl, rfl⟩,
    rfl, rfl, fun _ => rfl, rfl, rfl, rfl, rfl, rfl, by decide, fun _ => ⟨rfl, rfl, rfl⟩, fun v => ?_, fun k => ?_, fun k => ?_, fun k => ?_⟩
  · rw [reset_vf]
    exact ⟨rfl, rfl, rfl, rfl, rfl, rfl, rfl, rfl, rfl, rfl, rfl, fun _ => ⟨rfl, rfl, rfl, rfl, rfl⟩, fun k => (reset_ctx v k).symm ▸ ⟨rfl, rfl, rfl, rfl⟩, fun _ => rfl⟩
  · rw [reset_core]
    exact ⟨rfl, rfl, rfl, rfl, rfl, rfl, rfl, rfl, fun _ => rfl, rfl, fun _ => rfl, rfl, rfl, rfl⟩
  · rw [reset_cluster]
    exact ⟨rfl, rfl, rfl, rfl, rfl, rfl, rfl, fun _ => rfl, rfl, rfl, rfl, rfl⟩
  · rw [reset_headOf]
    exact ⟨rfl, rfl, rfl, rfl, rfl, fun _ => rfl⟩

end Sys2Proof.Machine

/-! PROOFS. Package events (O53): bring-up, power, clocks, resets of functions, errors and repair, each by lemmas of its own. -/

namespace Sys2Proof.Machine
open Sys2Proof

/-! ### Folds of updates -/

/-- A fold keeps what each of its steps keeps. -/
theorem foldl_keeps {σ α β : Type} (view : σ → β) (g : σ → α → σ) (hg : ∀ s a, view (g s a) = view s) (l : List α) (s : σ) :
    view (l.foldl g s) = view s := by
  induction l generalizing s with
  | nil => rfl
  | cons a l ih => exact (ih (g s a)).trans (hg s a)

/-- Reading a table in which each of some entries has been updated once. -/
theorem get_foldl_update {α : Type} (d : α) (f : Nat → α → α) {l : List Nat} (hl : l.Nodup) (m : Store α) (i : Nat) :
    Store.get d (l.foldl (fun m k => Store.set m k (f k (Store.get d m k))) m) i = if i ∈ l then f i (Store.get d m i) else Store.get d m i := by
  induction l generalizing m with
  | nil => simp
  | cons k l ih =>
    obtain ⟨hk, hl⟩ := List.nodup_cons.mp hl
    rw [List.foldl_cons, ih hl]
    by_cases hik : i = k
    · subst hik; simp [hk]
    · simp [hik, Store.get_set_ne]

/-- Reading a table whose values have been mapped. -/
theorem get_map_value {α : Type} (d : α) (f : α → α) (m : Store α) (i : Nat) (hd : f d = d) :
    Store.get d (m.map fun p => (p.1, f p.2)) i = f (Store.get d m i) := by
  induction m with
  | nil => simp [Store.get, hd]
  | cons p m ih =>
    by_cases h : p.1 = i
    · simp [Store.get, h]
    · by_cases h2 : i < p.1
      · simp [Store.get, h, h2, hd]
      · simp only [List.map_cons, Store.get, h, h2, if_false]; exact ih

/-- What a table says of an index is a listed value, or the default. -/
theorem get_mem_or_default {α : Type} (d : α) (m : Store α) (i : Nat) : (i, Store.get d m i) ∈ m ∨ Store.get d m i = d := by
  induction m with
  | nil => exact .inr rfl
  | cons p m ih =>
    by_cases h : p.1 = i
    · left; rw [Store.get, if_pos h]; exact List.mem_cons.mpr (.inl (Prod.ext h.symm rfl))
    · by_cases h2 : i < p.1
      · right; simp [Store.get, h, h2]
      · simp only [Store.get, h, h2, if_false, List.mem_cons]
        exact ih.imp_left .inr

namespace State

/-! ### Updates of several cores, clusters or functions -/

/-- Updating cores changes the table of cores alone. -/
theorem foldl_onCore_eq (f : Nat → Core → Core) (l : List Nat) (s : State) :
    l.foldl (fun s k => s.onCore k (f k)) s =
      { s with cores := l.foldl (fun m k => Store.set m k (f k (Store.get {} m k))) s.cores } := by
  induction l generalizing s with
  | nil => rfl
  | cons k l ih => exact ih _

/-- Updating functions changes the table of functions alone. -/
theorem foldl_onVf_eq (f : Nat → Vf → Vf) (l : List Nat) (s : State) :
    l.foldl (fun s k => s.onVf k (f k)) s =
      { s with vfs := l.foldl (fun m k => Store.set m k (f k (Store.get {} m k))) s.vfs } := by
  induction l generalizing s with
  | nil => rfl
  | cons k l ih => exact ih _

end State

theorem mem_coresOf {cl i : Nat} : i ∈ coresOf cl ↔ i / 24 = cl := by
  unfold coresOf
  rw [List.mem_range'_1]
  omega

theorem nodup_coresOf (cl : Nat) : (coresOf cl).Nodup := List.nodup_range'

/-- One core is updated, the others stay. -/
theorem coreIs_onCore (s : State) (k : Nat) (f : Core → Core) : CoreIs s (s.onCore k f) k (f (s.core k)) :=
  ⟨fun _ hj => (State.core_onCore s ..).trans (if_neg hj), (State.core_onCore s ..).trans (if_pos rfl)⟩

/-- One cluster is updated, the others stay. -/
theorem clusterIs_onCluster (s : State) (k : Nat) (f : Cluster → Cluster) : ClusterIs s (s.onCluster k f) k (f (s.cluster k)) :=
  ⟨fun _ hj => (State.cluster_onCluster s ..).trans (if_neg hj), (State.cluster_onCluster s ..).trans (if_pos rfl)⟩

/-- One function is updated, the others stay. -/
theorem vfIs_onVf (s : State) (v : Nat) (f : Vf → Vf) : VfIs s (s.onVf v f) v (f (s.vf v)) :=
  ⟨fun _ hj => (State.vf_onVf s ..).trans (if_neg hj), (State.vf_onVf s ..).trans (if_pos rfl)⟩

/-! ### The loss of power (00 R14, R15) -/

theorem powerRemoval_eq (s : State) : exec .powerRemoval s = .next s.unpowered := rfl

theorem junctionShutdown_hot (s : State) {c : ℚ} (h : 105 ≤ c) : exec (.junctionShutdown c) s = .next s.unpowered := if_pos h

theorem junctionShutdown_idle (s : State) {c : ℚ} (h : c < 105) : Idle (.junctionShutdown c) s := if_neg (not_le.mpr h)

/-! ### Clocks and the power of a cluster (15 R402, R408) -/

theorem clockRatioChange_core (s : State) (k : Nat) :
    ∃ t : State, exec (.clockRatioChange k) s = .next t ∧ t = { s with cores := t.cores }
      ∧ CoreIs s t k { s.core k with clock := (s.core k).eff } :=
  ⟨_, rfl, rfl, coreIs_onCore s k fun c => { c with clock := c.eff }⟩

theorem clusterPowerOn_idle (s : State) (k : Nat)
    (h : (s.cluster k).on = true ∨ (s.cluster k).disabled = true ∨ s.vfOfCluster k = none) : Idle (.clusterPowerOn k) s :=
  if_pos (by simpa using h)

/-- What a core that loses its power keeps: its quarantine and its ring stops (15 R408). -/
def Core.unpowered (x : Core) : Core := { ({} : Core) with quarantined := x.quarantined, stops := x.stops }

/-- Cores that lose what they held, and a change of their cluster. -/
theorem unpowerCores_onCluster {l : List Nat} (hl : l.Nodup) (s : State) (k : Nat) (f : Cluster → Cluster) :
    ∃ t : State, (l.foldl (fun s k => s.onCore k Core.unpowered) s).onCluster k f = t
      ∧ t = { s with clusters := t.clusters, cores := t.cores } ∧ ClusterIs s t k (f (s.cluster k))
      ∧ ∀ i, t.core i = if i ∈ l then Core.unpowered (s.core i) else s.core i :=
  ⟨_, congrArg (State.onCluster · k f) (State.foldl_onCore_eq (fun _ => Core.unpowered) l s), rfl, clusterIs_onCluster s k f,
    fun i => get_foldl_update ({} : Core) (fun _ => Core.unpowered) hl s.cores i⟩

/-- A cluster with its power on. -/
def Cluster.powered (c : Cluster) : Cluster := { c with on := true }

theorem clusterPowerOn_on (s : State) (k : Nat) (hon : (s.cluster k).on = false) (hdis : (s.cluster k).disabled = false)
    (hvf : (s.vfOfCluster k).isSome = true) :
    ∃ t : State, exec (.clusterPowerOn k) s = .next t ∧ t = { s with clusters := t.clusters, cores := t.cores }
      ∧ ClusterIs s t k (Cluster.powered (s.cluster k))
      ∧ ∀ i, t.core i = if i / 24 = k then Core.unpowered (s.core i) else s.core i := by
  obtain ⟨t, ht, hframe, hcluster, hcore⟩ := unpowerCores_onCluster (nodup_coresOf k) s k Cluster.powered
  simp only [mem_coresOf] at hcore
  have hoff : ¬((s.cluster k).on = true ∨ (s.cluster k).disabled = true ∨ (s.vfOfCluster k).isNone = true) := by
    simp [hon, hdis, Option.isSome_iff_ne_none.mp hvf]
  exact ⟨t, (if_neg hoff).trans (congrArg _ ht), hframe, hcluster, hcore⟩

/-! ### Enabling functions and the SPDM responder (00 R16) -/

theorem vfEnable_idle (s : State) (n : Nat) (h : s.bringUpDone = false ∨ s.recovery.isSome = true) : Idle (.vfEnable n) s :=
  if_neg (by rcases h with h | h <;> simp [h, ← Option.not_isSome])

theorem mem_map_succ_range {n v : Nat} : v ∈ (List.range n).map (· + 1) ↔ 1 ≤ v ∧ v ≤ n := by
  simp only [List.mem_map, List.mem_range]
  exact ⟨by rintro ⟨a, ha, rfl⟩; omega, fun ⟨h1, h2⟩ => ⟨v - 1, by omega, by omega⟩⟩

/-- A VF that is enabled. -/
def Vf.enable (v : Vf) : Vf := { v with enabled := true }

theorem vfEnable_enables (s : State) (n : Nat) (hup : s.bringUpDone = true) (hrec : s.recovery = none) :
    ∃ t : State, exec (.vfEnable n) s = .next t ∧ t = { s with vfs := t.vfs }
      ∧ ∀ v, t.vf v = if 1 ≤ v ∧ v ≤ min n 63 then Vf.enable (s.vf v) else s.vf v := by
  have hnodup : ((List.range (min n 63)).map (· + 1)).Nodup := List.nodup_range.map (add_left_injective 1)
  have hget := get_foldl_update {} (fun _ => Vf.enable) hnodup s.vfs
  simp only [mem_map_succ_range] at hget
  have hfold := State.foldl_onVf_eq (fun _ => Vf.enable) ((List.range (min n 63)).map (· + 1)) s
  have hexec : exec (.vfEnable n) s = .next ((List.range (min n 63)).foldl (fun s k => s.onVf (k + 1) Vf.enable) s) :=
    if_pos (by simp [hup, hrec])
  rw [List.foldl_map] at hfold
  exact ⟨_, hexec.trans (congrArg _ hfold), rfl, hget⟩

theorem spdmRequest_answers (s : State) (hlink : s.linkUp = true) (hup : s.bringUpDone = true) :
    exec .spdmRequest s = .next { s with spdm := s.spdm ++ [s.measured] } := if_pos (by simp [hlink, hup])

theorem spdmRequest_idle (s : State) (h : s.linkUp = false ∨ s.bringUpDone = false) : Idle .spdmRequest s :=
  if_neg (by rcases h with h | h <;> simp [h])

/-! ### The cap controller (15 R401, R402) -/

/-- Updates of different cores, as one change of the state. -/
theorem onCores_spec {l : List Nat} (hl : l.Nodup) (f : Core → Core) (s : State) :
    ∃ t : State, l.foldl (fun s k => s.onCore k f) s = t ∧ t = { s with cores := t.cores }
      ∧ ∀ i, t.core i = if i ∈ l then f (s.core i) else s.core i :=
  ⟨_, State.foldl_onCore_eq (fun _ => f) l s, rfl, fun i => get_foldl_update ({} : Core) (fun _ => f) hl s.cores i⟩

theorem mem_exposed {s : State} {cl k : Nat} : k ∈ s.exposed cl ↔ k / 24 = cl ∧ (s.coreMap.get {} k : CoreMap).present = true := by
  unfold State.exposed
  rw [List.mem_filter, mem_coresOf]

theorem nodup_exposed (s : State) (cl : Nat) : (s.exposed cl).Nodup := (nodup_coresOf cl).filter _

/-- A cluster whose window has ended: its record is latched less the inverted lanes, of which a cluster that is off has none. -/
def WindowEnded (c c' : Cluster) : Prop :=
  ∃ x : W32, c' = { c with crecLast := c.crec - x, crec := 0 } ∧ (c.on = false → x = 0)

theorem endWindow_spec (s : State) (cl : Nat) :
    s.endWindow cl = { s with freeCount := (s.endWindow cl).freeCount, clusters := (s.endWindow cl).clusters }
      ∧ ∃ c', WindowEnded (s.cluster cl) c' ∧ ClusterIs s (s.endWindow cl) cl c' := by
  unfold State.endWindow
  by_cases h : (s.cluster cl).on = true
  · rw [if_pos h]
    exact ⟨rfl, _, ⟨_, rfl, fun hoff => absurd (h.symm.trans hoff) (by decide)⟩,
      clusterIs_onCluster (s.free 59).1 cl fun c => { c with crecLast := c.crec - (s.free 59).2.truncate 32, crec := 0 }⟩
  · rw [if_neg h]
    exact ⟨rfl, _, ⟨_, rfl, fun _ => rfl⟩, clusterIs_onCluster s cl fun c => { c with crecLast := c.crec - (0 : W64).truncate 32, crec := 0 }⟩

theorem endWindows_spec {l : List Nat} (hl : l.Nodup) (s : State) :
    ∃ t : State, l.foldl State.endWindow s = t ∧ t = { s with freeCount := t.freeCount, clusters := t.clusters }
      ∧ ∀ c, (c ∈ l → WindowEnded (s.cluster c) (t.cluster c)) ∧ (c ∉ l → t.cluster c = s.cluster c) := by
  induction l generalizing s with
  | nil => exact ⟨s, rfl, rfl, fun c => ⟨nofun, fun _ => rfl⟩⟩
  | cons cl l ih =>
    obtain ⟨hcl, hl⟩ := List.nodup_cons.mp hl
    obtain ⟨hframe, c', hended, hothers, hself⟩ := endWindow_spec s cl
    obtain ⟨t, ht, hframe', hclusters⟩ := ih hl (s.endWindow cl)
    refine ⟨t, ht, by rw [hframe', hframe], fun c => ?_⟩
    by_cases hc : c = cl
    · subst hc
      exact ⟨fun _ => by rw [(hclusters c).2 hcl, hself]; exact hended, fun h => absurd List.mem_cons_self h⟩
    · rw [List.mem_cons, or_iff_right hc, ← hothers c hc]
      exact hclusters c

/-- The lowest level of a core of a cluster: MIN of the VF that holds it. -/
def State.lowest (s : State) (cl : Nat) : Nat := match s.vfOfCluster cl with | some v => (s.vf v).perfMin | none => 0

/-- A core one level slower, where it may be. -/
def Core.lower (low : Nat) (c : Core) : Core := { c with eff := if c.eff > low then c.eff - 1 else c.eff }

theorem lower_eff (low : Nat) (c : Core) : (Core.lower low c).eff = if c.eff > low then c.eff - 1 else c.eff := rfl

/-- What a step of the controller that slows cores down may do: one level less for some cores of some clusters. -/
structure Slowed (s t : State) (cls : List Nat) : Prop where
  frame : t = { s with cores := t.cores, clusters := t.clusters }
  clusters : ∀ c, t.cluster c = { s.cluster c with effCuts := (t.cluster c).effCuts }
  core : ∀ k, t.core k = s.core k ∨ k / 24 ∈ cls ∧ k ∈ s.exposed (k / 24) ∧ s.lowest (k / 24) < (s.core k).eff
    ∧ t.core k = { s.core k with eff := (s.core k).eff - 1 }

theorem lowerCluster_spec (s : State) (cl : Nat) :
    s.lowerCluster cl = { s with cores := (s.lowerCluster cl).cores, clusters := (s.lowerCluster cl).clusters }
      ∧ (∀ c, (s.lowerCluster cl).cluster c = { s.cluster c with effCuts := ((s.lowerCluster cl).cluster c).effCuts })
      ∧ ∀ k, (s.lowerCluster cl).core k = if k ∈ s.exposed cl then Core.lower (s.lowest cl) (s.core k) else s.core k := by
  obtain ⟨t, ht, hframe, hcore⟩ := onCores_spec (nodup_exposed s cl) (Core.lower (s.lowest cl)) s
  have hlower : s.lowerCluster cl = if (s.exposed cl).any fun k => decide ((s.core k).eff > s.lowest cl) then
      t.onCluster cl fun c => { c with effCuts := c.effCuts + 1 } else t := by rw [← ht]; rfl
  rw [hlower]
  split
  · refine ⟨by rw [hframe]; rfl, fun c => ?_, hcore⟩
    rw [State.cluster_onCluster]
    by_cases hc : c = cl
    · rw [if_pos hc, hc, hframe]; rfl
    · rw [if_neg hc, hframe]; rfl
  · exact ⟨by rw [hframe], fun c => by rw [hframe]; rfl, hcore⟩
theorem lowest_congr {s t : State} (h : t.vfs = s.vfs) (cl : Nat) : t.lowest cl = s.lowest cl := by
  unfold State.lowest State.vfOfCluster State.vf
  rw [h]

theorem exposed_congr {s t : State} (h : t.coreMap = s.coreMap) (cl : Nat) : t.exposed cl = s.exposed cl := by
  unfold State.exposed
  rw [h]

namespace Slowed

theorem refl (s : State) (cls : List Nat) : Slowed s s cls := ⟨rfl, fun _ => rfl, fun _ => .inl rfl⟩

theorem lowest_eq {s t : State} {cls : List Nat} (h : Slowed s t cls) (cl : Nat) : t.lowest cl = s.lowest cl :=
  lowest_congr (by rw [h.frame]) cl

theorem exposed_eq {s t : State} {cls : List Nat} (h : Slowed s t cls) (cl : Nat) : t.exposed cl = s.exposed cl :=
  exposed_congr (by rw [h.frame]) cl

/-- A core that is one level slower is one of the clusters'. -/
theorem core_same {s t : State} {cls : List Nat} (h : Slowed s t cls) {k : Nat} (hk : k / 24 ∉ cls) : t.core k = s.core k :=
  (h.core k).resolve_right fun hd => hk hd.1

theorem lowerCluster (s : State) (cl : Nat) : Slowed s (s.lowerCluster cl) [cl] := by
  obtain ⟨hframe, hclusters, hcore⟩ := lowerCluster_spec s cl
  refine ⟨hframe, hclusters, fun k => ?_⟩
  rw [hcore]
  by_cases hk : k ∈ s.exposed cl
  · obtain rfl := (mem_exposed.mp hk).1
    by_cases hlow : s.lowest (k / 24) < (s.core k).eff
    · right
      refine ⟨List.mem_singleton_self _, hk, hlow, ?_⟩
      rw [if_pos hk, Core.lower, if_pos hlow]
    · left
      rw [if_pos hk, Core.lower, if_neg hlow]
  · exact .inl (if_neg hk)

/-- Different clusters, one after the other. -/
theorem append {s t u : State} {cl : Nat} {cls : List Nat} (h : Slowed s t [cl]) (h' : Slowed t u cls) (hcl : cl ∉ cls) :
    Slowed s u (cl :: cls) := by
  refine ⟨by rw [h'.frame, h.frame], fun c => by rw [h'.clusters, h.clusters], fun k => ?_⟩
  rcases h'.core k with hk | ⟨hmem, hexp, hlow, hk⟩
  · rw [hk]
    exact (h.core k).imp_right fun ⟨hmem, hd⟩ => ⟨List.mem_cons.mpr (.inl (List.mem_singleton.mp hmem)), hd⟩
  · have hsame := h.core_same (k := k) fun hd => hcl (List.mem_singleton.mp hd ▸ hmem)
    rw [h.exposed_eq] at hexp
    rw [h.lowest_eq, hsame] at hlow
    exact .inr ⟨List.mem_cons_of_mem _ hmem, hexp, hlow, hk.trans (by rw [hsame])⟩

end Slowed

/-- A core whose level has fallen by one. -/
def Fell (s t : State) (k : Nat) : Prop := k ∈ s.exposed (k / 24) ∧ (t.core k).eff + 1 = (s.core k).eff

theorem lowerCluster_fell {s : State} {k : Nat} (hk : k ∈ s.exposed (k / 24)) (hlow : s.lowest (k / 24) < (s.core k).eff) :
    Fell s (s.lowerCluster (k / 24)) k := by
  refine ⟨hk, ?_⟩
  rw [(lowerCluster_spec s (k / 24)).2.2, if_pos hk, lower_eff, if_pos hlow]
  omega

/-- The ratio of a cluster falls only where the level of one of its cores does. -/
theorem fell_of_ratioSum_lt {s t : State} {cls : List Nat} (h : Slowed s t cls) {cl : Nat} (hlt : t.ratioSum cl < s.ratioSum cl) :
    ∃ k, Fell s t k := by
  unfold State.ratioSum at hlt
  rw [h.exposed_eq] at hlt
  obtain ⟨k, hk, hk'⟩ := List.exists_lt_of_sum_lt _ _ hlt
  obtain rfl := (mem_exposed.mp hk).1
  rcases h.core k with he | ⟨_, _, hlow, he⟩
  · rw [he] at hk'; omega
  · refine ⟨k, hk, ?_⟩
    rw [he]
    show (s.core k).eff - 1 + 1 = _
    omega

/-- The controller slows cores of its clusters down, and some core as long as one can. -/
theorem lowerUntil_spec (cap : ℚ) (watts : Nat → ℚ) {cls : List Nat} (hcls : cls.Nodup) (s : State) (est : ℚ) :
    Slowed s (State.lowerUntil cap watts cls s est) cls
      ∧ ((∃ k, k / 24 ∈ cls ∧ k ∈ s.exposed (k / 24) ∧ s.lowest (k / 24) < (s.core k).eff) →
        ∃ k, Fell s (State.lowerUntil cap watts cls s est) k) := by
  induction cls generalizing s est with
  | nil => exact ⟨Slowed.refl s [], nofun⟩
  | cons cl cls ih =>
    obtain ⟨hcl, hcls⟩ := List.nodup_cons.mp hcls
    have hfirst := Slowed.lowerCluster s cl
    rw [State.lowerUntil]
    split
    · next hstop =>
      exact ⟨hfirst.append (Slowed.refl _ cls) hcl, fun _ => fell_of_ratioSum_lt hfirst hstop.2⟩
    · obtain ⟨hrest, hfell⟩ := ih hcls (s.lowerCluster cl) (est - watts cl * (s.ratioSum cl - (s.lowerCluster cl).ratioSum cl : ℚ) / s.ratioSum cl)
      refine ⟨hfirst.append hrest hcl, ?_⟩
      rintro ⟨k, hk, hexp, hlow⟩
      rcases List.mem_cons.mp hk with rfl | hk
      · exact ⟨k, hexp, by rw [hrest.core_same hcl]; exact (lowerCluster_fell hexp hlow).2⟩
      · have hother {j : Nat} (hj : j / 24 ∈ cls) : (s.lowerCluster cl).core j = s.core j :=
          hfirst.core_same fun h => hcl (List.mem_singleton.mp h ▸ hj)
        obtain ⟨j, hexp', hj⟩ := hfell ⟨k, hk, by rwa [hfirst.exposed_eq], by rwa [hfirst.lowest_eq, hother hk]⟩
        refine ⟨j, by rwa [hfirst.exposed_eq] at hexp', ?_⟩
        rcases hrest.core j with hsame | ⟨hmem, -⟩
        · rw [hsame] at hj; omega
        · rw [hother hmem] at hj; exact hj

/-- Ordering clusters by their records loses none and lists none twice. -/
theorem byCrec_perm (s : State) (cls : List Nat) : (s.byCrec cls).Perm cls := by
  induction cls with
  | nil => exact .refl _
  | cons c cls ih =>
    refine List.Perm.trans ?_ (ih.cons c)
    show (_ ++ [c] ++ _).Perm _
    rw [List.append_assoc, List.singleton_append]
    refine List.perm_middle.trans ?_
    rw [List.takeWhile_append_dropWhile]
    exact .refl _

/-- A core one level faster, up to its GRANT. -/
def Core.raise (c : Core) : Core := { c with eff := if c.eff < c.grant then c.eff + 1 else c.eff }

theorem raise_spec {cls : List Nat} (hcls : cls.Nodup) (s : State) :
    ∃ t : State, cls.foldl (fun s cl => (s.exposed cl).foldl (fun s k => s.onCore k Core.raise) s) s = t ∧ t = { s with cores := t.cores }
      ∧ ∀ k, t.core k = if k / 24 ∈ cls ∧ k ∈ s.exposed (k / 24) then Core.raise (s.core k) else s.core k := by
  induction cls generalizing s with
  | nil => exact ⟨s, rfl, rfl, fun k => (if_neg fun h => List.not_mem_nil h.1).symm⟩
  | cons cl cls ih =>
    obtain ⟨hcl, hcls⟩ := List.nodup_cons.mp hcls
    obtain ⟨u, hu, hframe, hcore⟩ := onCores_spec (nodup_exposed s cl) Core.raise s
    obtain ⟨t, ht, hframe', hcore'⟩ := ih hcls u
    refine ⟨t, by rw [List.foldl_cons, hu, ht], by rw [hframe', hframe], fun k => ?_⟩
    have hexp (cl : Nat) : u.exposed cl = s.exposed cl := exposed_congr (by rw [hframe]) cl
    rw [hcore', hexp, hcore]
    by_cases hk : k / 24 = cl
    · subst hk; simp [hcl]
    · have hno : k ∉ s.exposed cl := fun h => hk (mem_exposed.mp h).1
      simp [hk, hno]

/-- The effective cap, with its cases written out (15 R402). -/
theorem cap_eq (s : State) (inlet : Option ℚ) :
    s.cap inlet = match inlet with
      | some d => if 45 < d then max 500 (min (s.pfPcap : ℚ) (2000 - 50 * (d - 45))) else s.pfPcap
      | none => max 500 (min (s.pfPcap : ℚ) 1500) := by
  cases inlet with
  | some d => rfl
  | none =>
    unfold State.cap
    norm_num

/-- The clusters of the part that are on. -/
def State.onClusters (s : State) : List Nat := (List.range 32).filter fun cl => (s.cluster cl).on

theorem mem_onClusters {s : State} {cl : Nat} : cl ∈ s.onClusters ↔ cl < 32 ∧ (s.cluster cl).on = true := by
  unfold State.onClusters
  rw [List.mem_filter, List.mem_range]

theorem nodup_onClusters (s : State) : s.onClusters.Nodup := List.nodup_range.filter _

/-- The state in which the controller acts: every window has ended. -/
@[irreducible] def State.windowsEnded (s : State) : State := (List.range 32).foldl State.endWindow s

theorem windowEnded_on {c c' : Cluster} (h : WindowEnded c c') : c'.on = c.on := by
  obtain ⟨x, rfl, -⟩ := h
  rfl

/-- What the end of a window leaves of the cores' tables. -/
theorem windowsEnded_spec (s : State) :
    s.windowsEnded = { s with freeCount := s.windowsEnded.freeCount, clusters := s.windowsEnded.clusters }
      ∧ (∀ c, c < 32 → WindowEnded (s.cluster c) (s.windowsEnded.cluster c)) ∧ s.windowsEnded.onClusters = s.onClusters := by
  obtain ⟨t, ht, hframe, hclusters⟩ := endWindows_spec (List.nodup_range (n := 32)) s
  have ht : s.windowsEnded = t := by unfold State.windowsEnded; exact ht
  rw [ht]
  have hended (c : Nat) (hc : c < 32) := (hclusters c).1 (List.mem_range.mpr hc)
  exact ⟨hframe, hended, List.filter_congr fun c hc => by rw [windowEnded_on (hended c (List.mem_range.mp hc))]⟩

/-- The end of a window, by what the controller then does. -/
theorem capWindowEnd_eq (s : State) (r : PowerReading) :
    exec (.capWindowEnd r) s =
      if r.watts > s.windowsEnded.cap r.inlet ∨ r.hot then
        .next (State.lowerUntil (s.windowsEnded.cap r.inlet) (fun cl => r.clusterWatts.get 0 cl)
          (s.windowsEnded.byCrec s.windowsEnded.onClusters) s.windowsEnded r.watts)
      else if 100 * r.watts < 95 * s.windowsEnded.cap r.inlet then
        .next (s.windowsEnded.onClusters.foldl (fun s cl => (s.exposed cl).foldl (fun s k => s.onCore k Core.raise) s) s.windowsEnded)
      else .next s.windowsEnded := by
  unfold State.windowsEnded
  rfl

/-- What every end of a window does: the records are latched, and of the cores nothing but the levels changes (15 R401). -/
theorem windowEnd_frame {s t : State} (hframe : t = { s.windowsEnded with cores := t.cores, clusters := t.clusters })
    (hclusters : ∀ c, t.cluster c = { s.windowsEnded.cluster c with effCuts := (t.cluster c).effCuts }) :
    t = { s with freeCount := t.freeCount, clusters := t.clusters, cores := t.cores }
      ∧ ∀ c, c < 32 → (t.cluster c).crec = 0 ∧ ((s.cluster c).on = false → (t.cluster c).crecLast = (s.cluster c).crec) := by
  obtain ⟨hw, hended, -⟩ := windowsEnded_spec s
  generalize s.windowsEnded = w at *
  refine ⟨by rw [hframe, hw], fun c hc => ?_⟩
  obtain ⟨x, hx, hoff⟩ := hended c hc
  rw [hclusters, hx]
  exact ⟨rfl, fun h => by rw [hoff h]; exact BitVec.sub_zero _⟩

theorem windowsEnded_core (s : State) (k : Nat) : s.windowsEnded.core k = s.core k := by
  rw [(windowsEnded_spec s).1]; rfl

theorem windowsEnded_mem_exposed {s : State} {k : Nat} (hk : k < 768) :
    k ∈ s.windowsEnded.exposed (k / 24) ↔ k < 768 ∧ (s.coreMap.get {} k : CoreMap).present = true := by
  rw [exposed_congr (s := s) (by rw [(windowsEnded_spec s).1]), mem_exposed]
  simp [hk]

theorem windowsEnded_lowest (s : State) (cl : Nat) : s.windowsEnded.lowest cl = s.lowest cl :=
  lowest_congr (by rw [(windowsEnded_spec s).1]) cl

/-- Beyond the cap, or hot: the levels of the cores that are on fall (15 R402). -/
theorem capWindowEnd_lowers (s : State) (r : PowerReading) (h : s.windowsEnded.cap r.inlet < r.watts ∨ r.hot = true) :
    ∃ t cls, exec (.capWindowEnd r) s = .next t ∧ Slowed s.windowsEnded t cls ∧ (∀ cl, cl ∈ cls ↔ cl < 32 ∧ (s.cluster cl).on = true)
      ∧ ((∃ k, k / 24 ∈ cls ∧ k ∈ s.windowsEnded.exposed (k / 24) ∧ s.windowsEnded.lowest (k / 24) < (s.windowsEnded.core k).eff) →
        ∃ k, Fell s.windowsEnded t k) := by
  have hperm := byCrec_perm s.windowsEnded s.windowsEnded.onClusters
  obtain ⟨hslowed, hfell⟩ := lowerUntil_spec (s.windowsEnded.cap r.inlet) (fun cl => r.clusterWatts.get 0 cl)
    (hperm.nodup_iff.mpr (nodup_onClusters _)) s.windowsEnded r.watts
  refine ⟨_, _, (capWindowEnd_eq s r).trans (if_pos h), hslowed, fun cl => ?_, hfell⟩
  rw [hperm.mem_iff, (windowsEnded_spec s).2.2, mem_onClusters]

/-- Below 95 % of the cap the levels of the cores that are on rise (15 R402). -/
theorem capWindowEnd_raises (s : State) (r : PowerReading) (h : ¬(s.windowsEnded.cap r.inlet < r.watts ∨ r.hot = true))
    (hlow : 100 * r.watts < 95 * s.windowsEnded.cap r.inlet) :
    ∃ t, exec (.capWindowEnd r) s = .next t ∧ t = { s.windowsEnded with cores := t.cores }
      ∧ ∀ k, t.core k = if (k / 24 < 32 ∧ (s.cluster (k / 24)).on = true) ∧ k ∈ s.windowsEnded.exposed (k / 24) then Core.raise (s.core k)
        else s.core k := by
  obtain ⟨t, ht, hframe, hcore⟩ := raise_spec (nodup_onClusters s.windowsEnded) s.windowsEnded
  refine ⟨t, ?_, hframe, fun k => ?_⟩
  · rw [capWindowEnd_eq, if_neg h, if_pos hlow, ht]
  · simp only [hcore, (windowsEnded_spec s).2.2, mem_onClusters, windowsEnded_core]

theorem capWindowEnd_steady (s : State) (r : PowerReading) (h : ¬(s.windowsEnded.cap r.inlet < r.watts ∨ r.hot = true))
    (hhigh : 95 * s.windowsEnded.cap r.inlet ≤ 100 * r.watts) : exec (.capWindowEnd r) s = .next s.windowsEnded := by
  rw [capWindowEnd_eq, if_neg h, if_neg (not_lt.mpr hhigh)]

/-- What the end of a window leaves, by the package's power (15 R401, R402). -/
theorem capWindowEnd_spec (s : State) (r : PowerReading) :
    let cap : ℚ := match r.inlet with
      | some d => if 45 < d then max 500 (min (s.pfPcap : ℚ) (2000 - 50 * (d - 45))) else s.pfPcap
      | none => max 500 (min (s.pfPcap : ℚ) 1500)
    let here (k : Nat) : Prop := k < 768 ∧ (s.coreMap.get {} k : CoreMap).present = true
    ∃ t : State, exec (.capWindowEnd r) s = .next t ∧ t = { s with freeCount := t.freeCount, clusters := t.clusters, cores := t.cores }
      ∧ (∀ c, c < 32 → (t.cluster c).crec = 0 ∧ ((s.cluster c).on = false → (t.cluster c).crecLast = (s.cluster c).crec))
      ∧ (cap < r.watts ∨ r.hot = true → (∃ k, here k ∧ (s.cluster (k / 24)).on = true ∧ s.lowest (k / 24) < (s.core k).eff) →
          ∃ k, here k ∧ (t.core k).eff + 1 = (s.core k).eff)
      ∧ (cap < r.watts ∨ r.hot = true → ∀ k, k < 768 → (t.core k).eff ≠ (s.core k).eff →
          here k ∧ (s.cluster (k / 24)).on = true ∧ s.lowest (k / 24) ≤ (t.core k).eff)
      ∧ (∀ k, t.core k = { s.core k with eff := (t.core k).eff })
      ∧ (cap < r.watts ∨ r.hot = true → ∀ k, (t.core k).eff ≤ (s.core k).eff ∧ (s.core k).eff ≤ (t.core k).eff + 1)
      ∧ (¬(cap < r.watts ∨ r.hot = true) → 100 * r.watts < 95 * cap → ∀ k,
          (here k → (s.cluster (k / 24)).on = true → (s.core k).eff < (s.core k).grant → (t.core k).eff = (s.core k).eff + 1)
          ∧ (¬here k ∨ (s.cluster (k / 24)).on = false ∨ (s.core k).grant ≤ (s.core k).eff → (t.core k).eff = (s.core k).eff))
      ∧ (¬(cap < r.watts ∨ r.hot = true) → 95 * cap ≤ 100 * r.watts → ∀ k, (t.core k).eff = (s.core k).eff) := by
  intro cap here
  have hcap : cap = s.windowsEnded.cap r.inlet := by
    rw [(windowsEnded_spec s).1]
    exact (cap_eq s r.inlet).symm
  have hhere {k : Nat} (hk : k < 768) : k ∈ s.windowsEnded.exposed (k / 24) ↔ here k := windowsEnded_mem_exposed hk
  rw [hcap]
  by_cases hov : s.windowsEnded.cap r.inlet < r.watts ∨ r.hot = true
  · obtain ⟨t, cls, hexec, hslowed, hcls, hfell⟩ := capWindowEnd_lowers s r hov
    have hcases (k : Nat) : t.core k = s.core k ∨ here k ∧ (s.cluster (k / 24)).on = true ∧ s.lowest (k / 24) < (s.core k).eff
        ∧ t.core k = { s.core k with eff := (s.core k).eff - 1 } := by
      have hk := hslowed.core k
      rw [windowsEnded_core, windowsEnded_lowest, hcls] at hk
      exact hk.imp_right fun ⟨⟨hlt, hon⟩, hexp, hd⟩ => ⟨(hhere (by omega)).mp hexp, hon, hd⟩
    obtain ⟨hframe, hwindow⟩ := windowEnd_frame hslowed.frame hslowed.clusters
    refine ⟨t, hexec, hframe, hwindow, fun _ => ?_, fun _ k _ hne => ?_, fun k => ?_, fun _ k => ?_, fun h => absurd hov h, fun h => absurd hov h⟩
    · rintro ⟨k, hk, hon, hlow⟩
      obtain ⟨j, hexp, hj⟩ := hfell ⟨k, (hcls _).mpr ⟨by have := hk.1; omega, hon⟩, (hhere hk.1).mpr hk, by
        rwa [windowsEnded_core, windowsEnded_lowest]⟩
      rw [windowsEnded_core] at hj
      rcases hcases j with hsame | ⟨hj', -⟩
      · rw [hsame] at hj; omega
      · exact ⟨j, hj', hj⟩
    · rcases hcases k with hsame | ⟨hk, hon, hlow, he⟩
      · exact absurd (congrArg Core.eff hsame) hne
      · exact ⟨hk, hon, by rw [he]; exact Nat.le_sub_one_of_lt hlow⟩
    · rcases hcases k with he | ⟨_, _, _, he⟩ <;> rw [he]
    · rcases hcases k with he | ⟨_, _, _, he⟩
      · rw [he]; omega
      · rw [he]
        show (s.core k).eff - 1 ≤ (s.core k).eff ∧ (s.core k).eff ≤ (s.core k).eff - 1 + 1
        omega
  · by_cases hlow : 100 * r.watts < 95 * s.windowsEnded.cap r.inlet
    · obtain ⟨t, hexec, ht, hcore⟩ := capWindowEnd_raises s r hov hlow
      obtain ⟨hframe, hwindow⟩ := windowEnd_frame (t := t) (by rw [ht]) fun c => by rw [ht]; rfl
      refine ⟨t, hexec, hframe, hwindow, fun h => absurd h hov, fun h => absurd h hov, fun k => ?_, fun h => absurd h hov, fun _ _ k => ⟨?_, ?_⟩,
        fun _ h => absurd hlow (not_lt.mpr h)⟩
      · rw [hcore]
        split <;> rfl
      · intro hk hon hlt
        have hk' : k / 24 < 32 := by have := hk.1; omega
        rw [hcore, if_pos ⟨⟨hk', hon⟩, (hhere hk.1).mpr hk⟩]
        exact if_pos hlt
      · intro hno
        rw [hcore]
        split
        · next hyes =>
          obtain ⟨⟨hlt, hon⟩, hexp⟩ := hyes
          have hk : here k := (hhere (by omega)).mp hexp
          have hgrant : (s.core k).grant ≤ (s.core k).eff :=
            (hno.resolve_left (not_not_intro hk)).resolve_left fun hoff => by rw [hoff] at hon; exact absurd hon (by decide)
          exact if_neg (not_lt.mpr hgrant)
        · rfl
    · have hhigh := not_lt.mp hlow
      have hexec := capWindowEnd_steady s r hov hhigh
      obtain ⟨hframe, hwindow⟩ := windowEnd_frame (t := s.windowsEnded) rfl fun _ => rfl
      exact ⟨_, hexec, hframe, hwindow, fun h => absurd h hov, fun h => absurd h hov, fun k => by rw [windowsEnded_core],
        fun h => absurd h hov, fun _ h => absurd h hlow, fun _ _ k => by rw [windowsEnded_core]⟩

/-! ### Bring-up (00 R16; 14 R390, R425) -/

/-- A table after entries have been set: an entry that was set is one of those set there. -/
theorem get_foldl_set_mem {α β : Type} (d : α) (P : α → Prop) (key : β → Nat) (val : β → α) {l : List β} {i : Nat}
    (hval : ∀ k, key k = i → P (val k)) (hi : ∃ k ∈ l, key k = i) (m : Store α) :
    P (Store.get d (l.foldl (fun m k => Store.set m (key k) (val k)) m) i) := by
  induction l using List.reverseRecOn with
  | nil => obtain ⟨k, hk, -⟩ := hi; exact absurd hk List.not_mem_nil
  | append_singleton l a ih =>
    rw [List.foldl_concat, Store.get_set]
    split
    · next h => exact hval a h.symm
    · next h =>
      obtain ⟨k, hk, hki⟩ := hi
      refine ih ⟨k, ?_, hki⟩
      rcases List.mem_append.mp hk with hk | hk
      · exact hk
      · exact absurd (List.mem_singleton.mp hk ▸ hki.symm) h

/-- A table after entries have been set, at an index that is none of theirs. -/
theorem get_foldl_set_of_not_mem {α β : Type} (d : α) (key : β → Nat) (val : β → α) {l : List β} {i : Nat}
    (hi : ∀ k ∈ l, key k ≠ i) (m : Store α) : Store.get d (l.foldl (fun m k => Store.set m (key k) (val k)) m) i = Store.get d m i := by
  induction l generalizing m with
  | nil => rfl
  | cons a l ih =>
    rw [List.foldl_cons, ih fun k hk => hi k (List.mem_cons_of_mem _ hk)]
    exact Store.get_set_ne d m _ (hi a List.mem_cons_self).symm

/-- Reading a table that lists the first n indices. -/
theorem get_map_range {α : Type} (d : α) (f : Nat → α) {n i : Nat} (hi : i < n) (a : Nat) :
    Store.get d ((List.range' a n).map fun k => (k, f k)) (a + i) = f (a + i) := by
  induction n generalizing a i with
  | zero => omega
  | succ n ih =>
    rw [List.range'_succ, List.map_cons, Store.get]
    cases i with
    | zero => rw [if_pos (by omega)]; rfl
    | succ i =>
      rw [if_neg (by omega), if_neg (by omega), show a + (i + 1) = a + 1 + i by omega]
      exact ih (by omega) (a + 1)

/-- The good physical cores of a cluster. -/
def goodOf (r : BringUpReport) (c : Nat) : Nat := popcount 26 (r.goodCores.get (BitVec.allOnes 26) c).toNat

/-- What step 4 of bring-up makes of a cluster, by its good cores (14 R390, R425). -/
structure BroughtUp (r : BringUpReport) (s t : State) (c : Nat) : Prop where
  disabled : (t.cluster c).disabled = (decide (goodOf r c < 22) || (s.cluster c).disabled)
  degraded : 22 ≤ goodOf r c → (t.cluster c).degraded = decide (goodOf r c < 24)
  present : 22 ≤ goodOf r c → ∀ i, i < 24 → (t.coreMap.get {} (24 * c + i) : CoreMap).present =
    (decide (24 ≤ goodOf r c ∨ i < 22) || (s.coreMap.get {} (24 * c + i) : CoreMap).present)

/-- A cluster and its part of the map are as they were. -/
structure SameCluster (s t : State) (c : Nat) : Prop where
  cluster : t.cluster c = s.cluster c
  map : ∀ i, i < 24 → (t.coreMap.get {} (24 * c + i) : CoreMap) = s.coreMap.get {} (24 * c + i)

theorem positionsOf_none {r : BringUpReport} {c : Nat} (h : goodOf r c < 22) : positionsOf (r.goodCores.get (BitVec.allOnes 26) c) = none :=
  (if_neg (not_le.mpr (by omega : goodOf r c < 24))).trans (if_neg (not_le.mpr h))

theorem positionsOf_some {r : BringUpReport} {c : Nat} (h : 22 ≤ goodOf r c) :
    positionsOf (r.goodCores.get (BitVec.allOnes 26) c) = some (if 24 ≤ goodOf r c then 24 else 22) := by
  by_cases h24 : 24 ≤ goodOf r c
  · exact (if_pos h24).trans (by rw [if_pos h24])
  · exact (if_neg h24).trans ((if_pos h).trans (by rw [if_neg h24]))

/-- Entries for the first n positions of a cluster. -/
def State.mapCluster (s : State) (cl n : Nat) (entry : Nat → CoreMap) (f : Cluster → Cluster) : State :=
  ({ s with coreMap := (List.range n).foldl (fun m k => Store.set m (24 * cl + k) (entry k)) s.coreMap }).onCluster cl f

/-- The entry of position k of a cluster of n positions. -/
def bringUpEntry (r : BringUpReport) (cl n k : Nat) : CoreMap :=
  let p := (assignCores (r.goodCores.get (BitVec.allOnes 26) cl) n).1.getD k 0
  { phys := p, present := true, feat0 := featBits (r.badCoprocessors.get 0 (26 * cl + p)) r.scanOk r.linkOk }

/-- A cluster with n positions, and the spares that its good cores leave. -/
def Cluster.mapped (r : BringUpReport) (cl n : Nat) (c : Cluster) : Cluster :=
  { c with spares := (assignCores (r.goodCores.get (BitVec.allOnes 26) cl) n).2, degraded := n == 22 }

theorem mapCluster_present (s : State) (cl n : Nat) {entry : Nat → CoreMap} (f : Cluster → Cluster) (hentry : ∀ k, (entry k).present = true)
    (i : Nat) : ((s.mapCluster cl n entry f).coreMap.get {} (24 * cl + i) : CoreMap).present =
      (decide (i < n) || (s.coreMap.get {} (24 * cl + i) : CoreMap).present) := by
  show (Store.get {} ((List.range n).foldl (fun m k => Store.set m (24 * cl + k) (entry k)) s.coreMap) (24 * cl + i)).present = _
  by_cases h : i < n
  · rw [decide_eq_true h, Bool.true_or]
    exact get_foldl_set_mem {} (fun m : CoreMap => m.present = true) (fun k => 24 * cl + k) entry (fun k _ => hentry k)
      ⟨i, List.mem_range.mpr h, rfl⟩ s.coreMap
  · rw [decide_eq_false h, Bool.false_or, get_foldl_set_of_not_mem {} (24 * cl + ·) entry]
    intro k hk hki
    exact h (by have := List.mem_range.mp hk; omega)

theorem mapCluster_same (s : State) {cl c n : Nat} (entry : Nat → CoreMap) (f : Cluster → Cluster) (hn : n ≤ 24) (hc : c ≠ cl) :
    SameCluster s (s.mapCluster cl n entry f) c := by
  refine ⟨(State.cluster_onCluster _ _ _ f).trans (if_neg hc), fun i hi => ?_⟩
  refine get_foldl_set_of_not_mem {} (24 * cl + ·) entry (fun k hk => ?_) s.coreMap
  have := List.mem_range.mp hk
  show 24 * cl + k ≠ _
  omega

theorem bringUpCluster_spec (r : BringUpReport) (s : State) (cl : Nat) :
    ∃ t : State, State.bringUpCluster r s cl = t ∧ t = { s with coreMap := t.coreMap, clusters := t.clusters } ∧ BroughtUp r s t cl
      ∧ ∀ c, c ≠ cl → SameCluster s t c := by
  by_cases h : 22 ≤ goodOf r cl
  · have hn := positionsOf_some h
    generalize hN : (if 24 ≤ goodOf r cl then 24 else 22) = n at hn
    have hn24 : n = 24 ∧ 24 ≤ goodOf r cl ∨ n = 22 ∧ goodOf r cl < 24 := by split at hN <;> omega
    refine ⟨s.mapCluster cl n (bringUpEntry r cl n) (Cluster.mapped r cl n), ?_, rfl, ⟨?_, fun _ => ?_, fun _ i hi => ?_⟩,
      fun c hc => mapCluster_same s _ _ (by omega) hc⟩
    · simp only [State.bringUpCluster, hn]
      rfl
    · rw [decide_eq_false (by omega), Bool.false_or, State.mapCluster, State.cluster_onCluster, if_pos rfl]
      rfl
    · rw [State.mapCluster, State.cluster_onCluster, if_pos rfl]
      show (n == 22) = _
      rcases hn24 with ⟨rfl, h24⟩ | ⟨rfl, h24⟩
      · rw [decide_eq_false (by omega)]; rfl
      · rw [decide_eq_true h24]; rfl
    · rw [mapCluster_present s cl n _ fun _ => rfl]
      congr 1
      exact decide_eq_decide.mpr (by omega)
  · have hlt : goodOf r cl < 22 := by omega
    refine ⟨s.onCluster cl fun c => { c with disabled := true }, ?_, rfl, ⟨?_, fun h' => absurd h' h, fun h' => absurd h' h⟩,
      fun c hc => ⟨(State.cluster_onCluster ..).trans (if_neg hc), fun _ _ => rfl⟩⟩
    · simp only [State.bringUpCluster, positionsOf_none hlt]
    · rw [decide_eq_true hlt, State.cluster_onCluster, if_pos rfl]
      rfl

theorem SameCluster.refl (s : State) (c : Nat) : SameCluster s s c := ⟨rfl, fun _ _ => rfl⟩

theorem SameCluster.trans {s t u : State} {c : Nat} (h : SameCluster s t c) (h' : SameCluster t u c) : SameCluster s u c :=
  ⟨h'.cluster.trans h.cluster, fun i hi => (h'.map i hi).trans (h.map i hi)⟩

theorem BroughtUp.of_same {r : BringUpReport} {s t u : State} {c : Nat} (h : SameCluster s t c) (h' : BroughtUp r t u c) :
    BroughtUp r s u c :=
  ⟨by rw [h'.disabled, h.cluster], h'.degraded, fun hg i hi => by rw [h'.present hg i hi, h.map i hi]⟩

theorem BroughtUp.then_same {r : BringUpReport} {s t u : State} {c : Nat} (h : BroughtUp r s t c) (h' : SameCluster t u c) :
    BroughtUp r s u c :=
  ⟨by rw [h'.cluster, h.disabled], fun hg => by rw [h'.cluster, h.degraded hg], fun hg i hi => by rw [h'.map i hi, h.present hg i hi]⟩

/-- Step 4 of bring-up: each cluster of the part once. -/
theorem bringUpClusters_spec (r : BringUpReport) {l : List Nat} (hl : l.Nodup) (s : State) :
    ∃ t : State, l.foldl (State.bringUpCluster r) s = t ∧ t = { s with coreMap := t.coreMap, clusters := t.clusters }
      ∧ ∀ c, (c ∈ l → BroughtUp r s t c) ∧ (c ∉ l → SameCluster s t c) := by
  induction l generalizing s with
  | nil => exact ⟨s, rfl, rfl, fun c => ⟨nofun, fun _ => .refl s c⟩⟩
  | cons cl l ih =>
    obtain ⟨hcl, hl⟩ := List.nodup_cons.mp hl
    obtain ⟨u, hu, hframe, hup, hsame⟩ := bringUpCluster_spec r s cl
    obtain ⟨t, ht, hframe', hclusters⟩ := ih hl u
    refine ⟨t, by rw [List.foldl_cons, hu, ht], by rw [hframe', hframe], fun c => ?_⟩
    by_cases hc : c = cl
    · subst hc
      exact ⟨fun _ => hup.then_same ((hclusters c).2 hcl), fun h => absurd List.mem_cons_self h⟩
    · rw [List.mem_cons, or_iff_right hc]
      exact ⟨fun h => .of_same (hsame c hc) ((hclusters c).1 h), fun h => (hsame c hc).trans ((hclusters c).2 h)⟩

/-- The state after step 3 of bring-up: the channels and stacks are mapped. -/
@[irreducible] def State.upMemory (r : BringUpReport) (s : State) : State := State.bringUpMemory r { s with power := true }

/-- The state after step 4: the cores are mapped. -/
@[irreducible] def State.upCores (r : BringUpReport) (s : State) : State :=
  { (List.range 32).foldl (State.bringUpCluster r) (s.upMemory r) with badCoprocessors := r.badCoprocessors }

theorem upMemory_frame (r : BringUpReport) (s : State) :
    s.upMemory r = { s with power := true, channelMap := (s.upMemory r).channelMap, stackMap := (s.upMemory r).stackMap } := by
  unfold State.upMemory
  rfl

theorem channelMap_upMemory (r : BringUpReport) (s : State) (i : Nat) :
    (s.upMemory r).channelMap.get (BitVec.ofNat 9 i) i =
      if ∃ j ∈ r.failedChannels, j % 256 = i then BitVec.ofNat 9 (i ^^^ 1) ||| 0x100 else BitVec.ofNat 9 i := by
  unfold State.upMemory State.bringUpMemory
  split
  · next h =>
    exact get_foldl_set_mem _ (· = BitVec.ofNat 9 (i ^^^ 1) ||| 0x100) (· % 256) (fun k => BitVec.ofNat 9 (k % 256 ^^^ 1) ||| 0x100)
      (fun k hk => by rw [hk]) h []
  · next h =>
    exact get_foldl_set_of_not_mem _ (· % 256) (fun k => BitVec.ofNat 9 (k % 256 ^^^ 1) ||| 0x100) (fun k hk hki => h ⟨k, hk, hki⟩) []

theorem stackMap_upMemory (r : BringUpReport) (s : State) {i : Nat} (hi : i < 8) :
    (s.upMemory r).stackMap.get false i = r.stackUnits.getLsbD i := by
  unfold State.upMemory State.bringUpMemory
  have h := get_map_range false (bit r.stackUnits) hi 0
  rw [Nat.zero_add] at h
  rw [List.range_eq_range']
  exact h

theorem stackDead_eq_false (failed : List Nat) :
    stackDead failed = false ↔ ∀ k, k < 8 → ∃ i, 32 * k ≤ i ∧ i < 32 * k + 32 ∧ i ∉ failed := by
  unfold stackDead
  simp only [List.any_eq_false, List.mem_range, List.all_eq_true, List.mem_range'_1, List.contains_iff_mem, not_forall, and_assoc, exists_prop]

/-- What step 4 leaves: the maps, and the power. -/
theorem upCores_spec (r : BringUpReport) (s : State) :
    s.upCores r = { s with power := true, channelMap := (s.upMemory r).channelMap, stackMap := (s.upMemory r).stackMap,
                           coreMap := (s.upCores r).coreMap, clusters := (s.upCores r).clusters, badCoprocessors := r.badCoprocessors }
      ∧ ∀ c, c < 32 → BroughtUp r s (s.upCores r) c := by
  obtain ⟨t, ht, hframe, hclusters⟩ := bringUpClusters_spec r (List.nodup_range (n := 32)) (s.upMemory r)
  have hup : s.upCores r = { t with badCoprocessors := r.badCoprocessors } := by unfold State.upCores; rw [ht]
  have hmem := upMemory_frame r s
  generalize s.upMemory r = u at *
  have hsame (c : Nat) : SameCluster s u c := by rw [hmem]; exact ⟨rfl, fun _ _ => rfl⟩
  rw [hup]
  exact ⟨by rw [hframe, hmem], fun c hc =>
    (BroughtUp.of_same (hsame c) ((hclusters c).1 (List.mem_range.mpr hc))).then_same ⟨rfl, fun _ _ => rfl⟩⟩

/-- The state after bring-up has ended. -/
def State.upDone (s : State) : State :=
  { s.emptyRevolution.clearErrors with
    bringUpDone := true, linkUp := true, measured := { coreMap := s.coreMap, channelMap := s.channelMap, stackMap := s.stackMap } }

/-- Bring-up, by its six steps (00 R16). -/
theorem powerUp_eq (r : BringUpReport) (s : State) (hup : s.bringUpDone = false) (hrec : s.recovery = none) :
    exec (.powerUpBringUp r) s =
      if !r.firmwareOk then .next (({ s with power := true } : State).recover 1)
      else if !r.linksOk || r.failedLinks != [] then .next { ({ s with power := true } : State).recover 2 with mailbox := r.failedLinks }
      else if !r.stacksOk || stackDead r.failedChannels then .next ((s.upMemory r).recover 3)
      else if (List.range 32).all fun cl => ((s.upCores r).cluster cl).disabled then .next ((s.upCores r).recover 4)
      else if !r.strandsOk then .next ((s.upCores r).recover 5)
      else .next (s.upCores r).upDone := by
  unfold State.upCores State.upMemory
  exact if_neg (by simp [hup, hrec])

theorem powerUp_idle (s : State) (r : BringUpReport) (h : s.bringUpDone = true ∨ s.recovery.isSome = true) : Idle (.powerUpBringUp r) s :=
  if_pos h

/-- Bring-up ends in recovery mode at step n. -/
def BringUpFails (r : BringUpReport) (s : State) (n : Nat) : Prop :=
  ∃ t, exec (.powerUpBringUp r) s = .next t ∧ t.recovery = some n ∧ t.bringUpDone = false ∧ t.power = true

/-- Every stack has a channel that works. -/
def StacksUp (r : BringUpReport) : Prop :=
  r.stacksOk = true ∧ ∀ k, k < 8 → ∃ i, 32 * k ≤ i ∧ i < 32 * k + 32 ∧ i ∉ r.failedChannels

/-- Some cluster is in use that has enough good cores. -/
def ClusterUp (r : BringUpReport) (s : State) : Prop := ∃ c, c < 32 ∧ 22 ≤ goodOf r c ∧ (s.cluster c).disabled = false

section
variable {r : BringUpReport} {s : State} (hup : s.bringUpDone = false) (hrec : s.recovery = none)
include hup hrec

theorem powerUp_noFirmware (hfw : r.firmwareOk = false) : BringUpFails r s 1 :=
  ⟨_, (powerUp_eq r s hup hrec).trans (if_pos (by rw [hfw]; rfl)), rfl, hup, rfl⟩

theorem powerUp_noLinks (hfw : r.firmwareOk = true) (hlinks : ¬(r.linksOk = true ∧ r.failedLinks = [])) :
    BringUpFails r s 2 ∧ ∃ t, exec (.powerUpBringUp r) s = .next t ∧ t.mailbox = r.failedLinks := by
  have hcond : (!r.linksOk || r.failedLinks != []) = true := by
    cases h : r.linksOk
    · rfl
    · simpa [h] using hlinks
  have hexec := powerUp_eq r s hup hrec
  rw [if_neg (by rw [hfw]; decide), if_pos hcond] at hexec
  exact ⟨⟨_, hexec, rfl, hup, rfl⟩, _, hexec, rfl⟩

/-- Bring-up from its third step on. -/
theorem powerUp_afterLinks (hfw : r.firmwareOk = true) (hlinks : r.linksOk = true ∧ r.failedLinks = []) :
    exec (.powerUpBringUp r) s =
      if !r.stacksOk || stackDead r.failedChannels then .next ((s.upMemory r).recover 3)
      else if (List.range 32).all fun cl => ((s.upCores r).cluster cl).disabled then .next ((s.upCores r).recover 4)
      else if !r.strandsOk then .next ((s.upCores r).recover 5)
      else .next (s.upCores r).upDone := by
  rw [powerUp_eq r s hup hrec, if_neg (by rw [hfw]; decide), if_neg (by rw [hlinks.1, hlinks.2]; decide)]

theorem powerUp_noStacks (hfw : r.firmwareOk = true) (hlinks : r.linksOk = true ∧ r.failedLinks = []) (hstacks : ¬StacksUp r) :
    BringUpFails r s 3 := by
  have hcond : (!r.stacksOk || stackDead r.failedChannels) = true := by
    cases h : r.stacksOk
    · rfl
    · rw [StacksUp, ← stackDead_eq_false, h] at hstacks
      simpa using hstacks
  refine ⟨_, (powerUp_afterLinks hup hrec hfw hlinks).trans (if_pos hcond), rfl, ?_, ?_⟩
  · rw [upMemory_frame]; exact hup
  · rw [upMemory_frame]; rfl

/-- Bring-up from its fourth step on. -/
theorem powerUp_afterStacks (hfw : r.firmwareOk = true) (hlinks : r.linksOk = true ∧ r.failedLinks = []) (hstacks : StacksUp r) :
    exec (.powerUpBringUp r) s =
      if (List.range 32).all fun cl => ((s.upCores r).cluster cl).disabled then .next ((s.upCores r).recover 4)
      else if !r.strandsOk then .next ((s.upCores r).recover 5)
      else .next (s.upCores r).upDone :=
  (powerUp_afterLinks hup hrec hfw hlinks).trans (if_neg (by rw [hstacks.1, (stackDead_eq_false _).mpr hstacks.2]; decide))

omit hrec in
theorem upCores_recover (n : Nat) (hexec : exec (.powerUpBringUp r) s = .next ((s.upCores r).recover n)) : BringUpFails r s n := by
  refine ⟨_, hexec, rfl, ?_, ?_⟩
  · rw [(upCores_spec r s).1]; exact hup
  · rw [(upCores_spec r s).1]; rfl

theorem powerUp_noClusters (hfw : r.firmwareOk = true) (hlinks : r.linksOk = true ∧ r.failedLinks = []) (hstacks : StacksUp r)
    (hnone : ∀ c, c < 32 → goodOf r c < 22) : BringUpFails r s 4 := by
  have hall : (List.range 32).all (fun cl => ((s.upCores r).cluster cl).disabled) = true := by
    rw [List.all_eq_true]
    intro c hc
    have hc := List.mem_range.mp hc
    rw [((upCores_spec r s).2 c hc).disabled, decide_eq_true (hnone c hc), Bool.true_or]
  exact upCores_recover hup 4 ((powerUp_afterStacks hup hrec hfw hlinks hstacks).trans (if_pos hall))

/-- Bring-up from its fifth step on. -/
theorem powerUp_afterClusters (hfw : r.firmwareOk = true) (hlinks : r.linksOk = true ∧ r.failedLinks = []) (hstacks : StacksUp r)
    (hsome : ClusterUp r s) :
    exec (.powerUpBringUp r) s = if !r.strandsOk then .next ((s.upCores r).recover 5) else .next (s.upCores r).upDone := by
  obtain ⟨c, hc, hgood, hon⟩ := hsome
  refine (powerUp_afterStacks hup hrec hfw hlinks hstacks).trans (if_neg fun hall => ?_)
  have hoff := List.all_eq_true.mp hall c (List.mem_range.mpr hc)
  rw [((upCores_spec r s).2 c hc).disabled, decide_eq_false (by omega), hon] at hoff
  exact absurd hoff (by decide)

theorem powerUp_noStrands (hfw : r.firmwareOk = true) (hlinks : r.linksOk = true ∧ r.failedLinks = []) (hstacks : StacksUp r)
    (hsome : ClusterUp r s) (hstrands : r.strandsOk = false) : BringUpFails r s 5 :=
  upCores_recover hup 5 ((powerUp_afterClusters hup hrec hfw hlinks hstacks hsome).trans (if_pos (by rw [hstrands]; rfl)))

omit hup hrec in
/-- What the end of bring-up leaves of the state after its fourth step (00 R16; 15 R412). -/
theorem upDone_spec (u : State) : u.upDone.bringUpDone = true ∧ u.upDone.linkUp = true
    ∧ (∀ k, u.upDone.dieErrors.get 0 k = 0 ∧ u.upDone.core k = { u.core k with sramErrors := 0, sramSecond := 0 })
    ∧ u.upDone.ringStep = u.ringStep + 1024 ∧ u.upDone.ringRev = u.ringRev + 1
    ∧ u.upDone.measured = { coreMap := u.upDone.coreMap, channelMap := u.upDone.channelMap, stackMap := u.upDone.stackMap } :=
  ⟨rfl, rfl, fun k => ⟨rfl, get_map_value ({} : Core) (fun c : Core => { c with sramErrors := 0, sramSecond := 0 }) u.cores k rfl⟩, rfl, rfl, rfl⟩

theorem powerUp_done (hfw : r.firmwareOk = true) (hlinks : r.linksOk = true ∧ r.failedLinks = []) (hstacks : StacksUp r)
    (hsome : ClusterUp r s) (hstrands : r.strandsOk = true) :
    ∃ t : State, exec (.powerUpBringUp r) s = .next t ∧ t.bringUpDone = true ∧ t.recovery = none ∧ t.power = true ∧ t.linkUp = true
      ∧ t.mem = s.mem ∧ t.teams = s.teams
      ∧ (∀ k, t.dieErrors.get 0 k = 0 ∧ t.core k = { s.core k with sramErrors := 0, sramSecond := 0 })
      ∧ t.ringStep = s.ringStep + 1024 ∧ t.ringRev = s.ringRev + 1
      ∧ t.measured = { coreMap := t.coreMap, channelMap := t.channelMap, stackMap := t.stackMap }
      ∧ (∀ i, i < 256 → t.channelMap.get (BitVec.ofNat 9 i) i =
          if ∃ j ∈ r.failedChannels, j % 256 = i then BitVec.ofNat 9 (i ^^^ 1) ||| 0x100 else BitVec.ofNat 9 i)
      ∧ (∀ c, c < 32 →
          (goodOf r c < 22 → (t.cluster c).disabled = true)
          ∧ (22 ≤ goodOf r c → (t.cluster c).degraded = decide (goodOf r c < 24)
              ∧ ∀ i, i < 24 → (t.coreMap.get {} (24 * c + i)).present = (decide (24 ≤ goodOf r c ∨ i < 22)
                  || (s.coreMap.get {} (24 * c + i)).present)))
      ∧ (∀ i, i < 8 → t.stackMap.get false i = r.stackUnits.getLsbD i) := by
  have hexec := (powerUp_afterClusters hup hrec hfw hlinks hstacks hsome).trans (if_neg (by rw [hstrands]; decide))
  obtain ⟨hframe, hclusters⟩ := upCores_spec r s
  have hchannels := channelMap_upMemory r s
  have hunits (i : Nat) := stackMap_upMemory r s (i := i)
  generalize s.upCores r = u at *
  generalize s.upMemory r = m at *
  obtain ⟨hend, hlink, hcore, hstep, hrev, hmeasured⟩ := upDone_spec u
  refine ⟨u.upDone, hexec, hend, by rw [hframe]; exact hrec, by rw [hframe]; rfl, hlink, by rw [hframe]; rfl, by rw [hframe]; rfl,
    fun k => ⟨(hcore k).1, (hcore k).2.trans (by rw [hframe]; rfl)⟩, hstep.trans (by rw [hframe]), hrev.trans (by rw [hframe]), hmeasured,
    fun i _ => by rw [hframe]; exact hchannels i, fun c hc => ⟨fun hg => ?_, fun hg => ⟨(hclusters c hc).degraded hg, (hclusters c hc).present hg⟩⟩,
    fun i hi => by rw [hframe]; exact hunits i hi⟩
  exact (hclusters c hc).disabled.trans (by rw [decide_eq_true hg, Bool.true_or])
end

/-! ### Errors (06 R159; 09 R246; 15 R409, R412) -/

theorem uncorrectable_context (s : State) (loc : W64) {v k : Nat} (h : (s.ctx v k).state ≠ 0) :
    exec (.uncorrectableError (.context v k) loc) s = .next (s.stopContext v k causeUe loc) := if_neg h

theorem uncorrectable_idle (s : State) (loc : W64) {v k : Nat} (h : (s.ctx v k).state = 0) :
    Idle (.uncorrectableError (.context v k) loc) s ∧ Idle (.uncorrectableError (.save v k) loc) s := ⟨if_pos h, if_pos h⟩

/-- A context whose save area is lost. -/
def Context.lost (c : Context) : Context := { c with state := 3, phase := .none }

theorem uncorrectable_save (s : State) (loc : W64) {v k : Nat} (h : (s.ctx v k).state ≠ 0) :
    ∃ t, exec (.uncorrectableError (.save v k) loc) s = .next t ∧ (t.ctx v k).state = 3 ∧ (t.ctx v k).phase = .none := by
  have hctx : ((s.stopContext v k causeUe loc).onCtx v k Context.lost).ctx v k = Context.lost ((s.stopContext v k causeUe loc).ctx v k) := by
    rw [State.ctx_onCtx, if_pos ⟨rfl, rfl⟩]
  refine ⟨(s.stopContext v k causeUe loc).onCtx v k Context.lost, if_neg h, ?_, ?_⟩
  · rw [hctx]; rfl
  · rw [hctx]; rfl

theorem slot_index (s : State) (n : Nat) : s.slot (n / 1024) (n % 1024) = s.slots.get {} n := by
  unfold State.slot
  rw [Nat.div_add_mod']

theorem setSlot_get (s : State) (n : Nat) (x : RingSlot) : (s.setSlot (n / 1024) (n % 1024) x).slots.get {} n = x := by
  unfold State.setSlot
  rw [Nat.div_add_mod', Store.get_put, if_pos rfl]

theorem setSlot_frame (s : State) (a b : Nat) (x : RingSlot) : s.setSlot a b x = { s with slots := (s.setSlot a b x).slots } := rfl

theorem ctx_setSlot (s : State) (a b : Nat) (x : RingSlot) (v k : Nat) : (s.setSlot a b x).ctx v k = s.ctx v k := rfl

/-- A VF that holds one slot less. -/
def Vf.release (x : Vf) : Vf := { x with ringHeld := x.ringHeld - 1 }

/-- Giving a slot back leaves every context as it was. -/
theorem ctx_release (s : State) (u v k : Nat) : (s.onVf u Vf.release).ctx v k = s.ctx v k := by
  unfold State.ctx
  rw [State.vf_onVf]
  split
  · next h => rw [h]; rfl
  · rfl

theorem loseSlot_idle (s : State) (loc : W64) {n : Nat} (h : (s.slots.get {} n : RingSlot).st = 0) :
    Idle (.uncorrectableError (.ringSlotNoTag n) loc) s :=
  congrArg _ (if_pos (by rw [slot_index]; exact h))

/-- The slot that an error empties, whatever it held. -/
def State.dropSlot (s : State) (n : Nat) : State :=
  if (s.slot (n / 1024) (n % 1024)).st = 1 then s.setSlot (n / 1024) (n % 1024) {} else s.emptySlot (n / 1024) (n % 1024)

theorem dropSlot_spec (s : State) (n : Nat) :
    s.dropSlot n = { s with slots := (s.dropSlot n).slots, vfs := (s.dropSlot n).vfs } ∧ ((s.dropSlot n).slots.get {} n : RingSlot) = {}
      ∧ ∀ v k, (s.dropSlot n).ctx v k = s.ctx v k := by
  have hget := setSlot_get s n {}
  have hframe := setSlot_frame s (n / 1024) (n % 1024) {}
  have hctx := ctx_setSlot s (n / 1024) (n % 1024) {}
  unfold State.dropSlot State.emptySlot
  dsimp only
  generalize s.setSlot (n / 1024) (n % 1024) {} = u at *
  split
  · exact ⟨by rw [hframe], hget, hctx⟩
  · exact ⟨by rw [hframe]; rfl, hget, fun v k => (ctx_release u _ v k).trans (hctx v k)⟩

/-- An emptied slot: the table of slots, the counts of held slots and the actions that had claimed it. -/
theorem loseSlot_spec (s : State) (n : Nat) (h : (s.slots.get {} n : RingSlot).st ≠ 0) :
    ∃ t : State, s.loseSlot n = t ∧ t = { s with slots := t.slots, vfs := t.vfs, cores := t.cores } ∧ (t.slots.get {} n : RingSlot) = {}
      ∧ ∀ v k, t.ctx v k = s.ctx v k := by
  have ht : s.loseSlot n = { s.dropSlot n with cores := (s.loseSlot n).cores } := by
    unfold State.loseSlot
    dsimp only
    rw [if_neg (by rw [slot_index]; exact h)]
    rfl
  obtain ⟨hframe, hslot, hctx⟩ := dropSlot_spec s n
  generalize s.dropSlot n = u at *
  exact ⟨_, ht, by rw [hframe], hslot, hctx⟩

theorem correctedError_die (s : State) {i n : Nat} (hi : 0 < i) (hi3 : i ≤ 3) :
    exec (.correctedError i n 1 false) s =
      .next { s with dieErrors := s.dieErrors.set (4 * n + i) (BitVec.ofNat 32 (min ((s.dieErrors.get 0 (4 * n + i)).toNat + 1) (2 ^ 32 - 1))) } :=
  (if_neg (by omega)).trans (if_pos hi3)

/-- A core in which m errors of its SRAM have been corrected. -/
def Core.corrected (m : Nat) (within : Bool) (c : Core) : Core :=
  { c with sramErrors := min (c.sramErrors + m) (2 ^ 32 - 1), sramSecond := (if within then c.sramSecond else 0) + m }

/-- A core that awaits its repair. -/
def Core.quarantine (c : Core) : Core := { c with quarantined := true }

theorem correctedError_core (s : State) (n m : Nat) (within : Bool) :
    exec (.correctedError 0 n m within) s =
      if (Core.corrected m within (s.core n)).sramSecond ≥ 64 then .next ((s.onCore n (Core.corrected m within)).quarantine n)
      else .next (s.onCore n (Core.corrected m within)) := by
  have hcore : (s.onCore n (Core.corrected m within)).core n = Core.corrected m within (s.core n) := by
    rw [State.core_onCore, if_pos rfl]
  rw [← hcore]
  rfl

/-- A VF that is asked to leave begins its grace, unless it has none running or leaves already. -/
theorem requestPreempt_spec (s : State) (v : Nat) :
    s.requestPreempt v = { s with vfs := (s.requestPreempt v).vfs }
      ∧ ∀ k, s.running v = some k → (s.ctx v k).phase = .none → ((s.requestPreempt v).ctx v k).phase = .grace := by
  unfold State.requestPreempt
  cases hrun : s.running v with
  | none => exact ⟨rfl, nofun⟩
  | some j =>
    dsimp only
    split
    · refine ⟨rfl, fun k hk _ => ?_⟩
      obtain rfl := Option.some.inj hk
      rw [State.ctx_onCtx, if_pos ⟨rfl, rfl⟩]
    · next h => exact ⟨rfl, fun k hk hphase => absurd (Option.some.inj hk ▸ hphase) h⟩

theorem quarantine_of_nil {s : State} {n : Nat} (h : s.residents n = []) : s.quarantine n = s.onCore n Core.quarantine := by
  have h' : (s.onCore n Core.quarantine).residents n = [] := h
  show (match (s.onCore n Core.quarantine).residents n with | [] => _ | p :: _ => (s.onCore n Core.quarantine).requestPreempt p.2.vf) = _
  rw [h']
  rfl

theorem quarantine_of_cons {s : State} {n : Nat} {p : Nat × Team} {ps : List (Nat × Team)} (h : s.residents n = p :: ps) :
    s.quarantine n = (s.onCore n Core.quarantine).requestPreempt p.2.vf := by
  have h' : (s.onCore n Core.quarantine).residents n = p :: ps := h
  show (match (s.onCore n Core.quarantine).residents n with | [] => _ | p :: _ => (s.onCore n Core.quarantine).requestPreempt p.2.vf) = _
  rw [h']

/-- Quarantine marks the core, and asks one VF of those that have teams on it to leave (01 R37). -/
theorem quarantine_spec (s : State) (n : Nat) :
    ∃ t : State, s.quarantine n = t ∧ t = { s with cores := t.cores, vfs := t.vfs } ∧ CoreIs s t n (Core.quarantine (s.core n))
      ∧ (s.residents n = [] → t.vfs = s.vfs)
      ∧ ∀ u x, s.residents n = [(u, x)] → ∀ k, s.running x.vf = some k → (s.ctx x.vf k).phase = .none → (t.ctx x.vf k).phase = .grace := by
  have hcore := coreIs_onCore s n Core.quarantine
  cases hres : s.residents n with
  | nil => exact ⟨_, quarantine_of_nil hres, rfl, hcore, fun _ => rfl, fun _ _ h => absurd h (List.cons_ne_nil _ _).symm⟩
  | cons p ps =>
    obtain ⟨hframe, hgrace⟩ := requestPreempt_spec (s.onCore n Core.quarantine) p.2.vf
    have ht := quarantine_of_cons hres
    generalize (s.onCore n Core.quarantine).requestPreempt p.2.vf = t at *
    have hcores (j : Nat) : t.core j = (s.onCore n Core.quarantine).core j := by rw [hframe]; rfl
    refine ⟨t, ht, by rw [hframe]; rfl, ⟨fun j hj => (hcores j).trans (hcore.1 j hj), (hcores n).trans hcore.2⟩, nofun, fun u x hx k => ?_⟩
    rw [List.cons.injEq] at hx
    rw [hx.1] at hgrace
    exact hgrace k

theorem ringSlotNoTag_spec (s : State) (loc : W64) (n : Nat) (h : (s.slots.get {} n : RingSlot).st ≠ 0) :
    ∃ t : State, exec (.uncorrectableError (.ringSlotNoTag n) loc) s = .next t
      ∧ t = { s with slots := t.slots, vfs := t.vfs, cores := t.cores } ∧ (t.slots.get {} n : RingSlot) = {}
      ∧ ∀ v k, (t.ctx v k).state = (s.ctx v k).state := by
  obtain ⟨t, ht, hframe, hslot, hctx⟩ := loseSlot_spec s n h
  exact ⟨t, congrArg _ ht, hframe, hslot, fun v k => congrArg Context.state (hctx v k)⟩

/-- Fewer than 64 errors of a core's SRAM within one second are counted (15 R412). -/
theorem correctedError_counts (s : State) (n m : Nat) (within : Bool) (h : (Core.corrected m within (s.core n)).sramSecond < 64) :
    ∃ t : State, exec (.correctedError 0 n m within) s = .next t ∧ t = { s with cores := t.cores }
      ∧ CoreIs s t n (Core.corrected m within (s.core n)) :=
  ⟨_, (correctedError_core s n m within).trans (if_neg (not_le.mpr h)), rfl, coreIs_onCore s n (Core.corrected m within)⟩

/-- With 64 of them the core's repair begins (15 R412). -/
theorem correctedError_quarantines (s : State) (n m : Nat) (within : Bool) (h : 64 ≤ (Core.corrected m within (s.core n)).sramSecond) :
    ∃ t : State, exec (.correctedError 0 n m within) s = .next t ∧ t = { s with cores := t.cores, vfs := t.vfs }
      ∧ CoreIs s t n (Core.quarantine (Core.corrected m within (s.core n))) ∧ (s.residents n = [] → t.vfs = s.vfs)
      ∧ ∀ u x, s.residents n = [(u, x)] → ∀ k, s.running x.vf = some k → (s.ctx x.vf k).phase = .none → (t.ctx x.vf k).phase = .grace := by
  obtain ⟨t, ht, hframe, ⟨hother, hself⟩, hvfs, hgrace⟩ := quarantine_spec (s.onCore n (Core.corrected m within)) n
  obtain ⟨hother', hself'⟩ := coreIs_onCore s n (Core.corrected m within)
  exact ⟨t, (correctedError_core s n m within).trans ((if_pos h).trans (congrArg _ ht)), hframe,
    ⟨fun j hj => (hother j hj).trans (hother' j hj), hself.trans (congrArg Core.quarantine hself')⟩, hvfs, hgrace⟩

/-! ### Teams that have not started, after a repair (11 R324; 14 R392) -/

/-- Where the launch's team i goes: its place, or the same position of another cluster. -/
def State.teamTarget (s : State) (l : Launch) (i : Nat) : Option Nat :=
  let cores := (l.mates i).map fun m => l.place.getD m 0
  let c := l.place.getD i 0
  if cores.all (s.coreOf l.vf) then some c
  else ((List.range 32).find? fun cl => (moveTo cl cores).all (s.coreOf l.vf)).map fun cl => 24 * cl + c % 24

theorem launchPlaces_eq (s : State) (l : Launch) :
    s.launchPlaces l = if l.waiting.all fun i => (s.teamTarget l i).isSome then
      some (l.waiting.foldl (fun p i => p.set i ((s.teamTarget l i).getD 0)) l.place) else none := rfl

theorem teamTarget_eq_some (s : State) (l : Launch) (i core : Nat) : s.teamTarget l i = some core ↔ SpanGoes s l.vf l i core := by
  have hwhole : ((l.mates i).map fun m => l.place.getD m 0).all (s.coreOf l.vf) = true ↔
      ∀ m ∈ l.mates i, s.coreOf l.vf (l.place.getD m 0) = true := by
    rw [List.all_map, List.all_eq_true]; rfl
  have hon (cl : Nat) : (moveTo cl ((l.mates i).map fun m => l.place.getD m 0)).all (s.coreOf l.vf) = true ↔
      ∀ m ∈ l.mates i, s.coreOf l.vf (24 * cl + l.place.getD m 0 % 24) = true := by
    rw [moveTo, List.map_map, List.all_map, List.all_eq_true]; rfl
  unfold State.teamTarget SpanGoes
  dsimp only
  split
  · next h =>
    rw [hwhole] at h
    exact ⟨fun e => .inl ⟨h, (Option.some.inj e).symm⟩, fun e => by
      rcases e with ⟨_, e⟩ | ⟨hno, _⟩
      · rw [e]
      · exact absurd h hno⟩
  · next h =>
    rw [hwhole] at h
    rw [Option.map_eq_some_iff, or_iff_right fun e => h e.1, and_iff_right h]
    constructor
    · rintro ⟨cl, hfind, rfl⟩
      obtain ⟨hcl, hlt, hlow⟩ := List.find?_range_eq_some.mp hfind
      refine ⟨cl, List.mem_range.mp hlt, (hon cl).mp hcl, rfl, fun c hc hc' => ?_⟩
      have := hlow c hc
      rw [(hon c).mpr hc'] at this
      exact absurd this (by decide)
    · rintro ⟨cl, hlt, hcl, rfl, hlow⟩
      refine ⟨cl, List.find?_range_eq_some.mpr ⟨(hon cl).mpr hcl, List.mem_range.mpr hlt, fun c hc => ?_⟩, rfl⟩
      rw [Bool.not_eq_true', Bool.eq_false_iff, Ne, hon]
      exact hlow c hc

/-- A launch's teams have places exactly where each that has not started has a core to go to. -/
theorem launchPlaces_isSome (s : State) (l : Launch) :
    (s.launchPlaces l).isSome = true ↔ ∀ i ∈ l.waiting, ∃ core, SpanGoes s l.vf l i core := by
  have hall : (l.waiting.all fun i => (s.teamTarget l i).isSome) = true ↔ ∀ i ∈ l.waiting, ∃ core, SpanGoes s l.vf l i core := by
    simp only [List.all_eq_true, Option.isSome_iff_exists, teamTarget_eq_some]
  rw [launchPlaces_eq, ← hall]
  split <;> simp_all

theorem getD_foldl_set (f : Nat → Nat) (w : List Nat) (l : List Nat) {i : Nat} (hi : i < l.length) :
    (w.foldl (fun p i => p.set i (f i)) l).getD i 0 = if i ∈ w then f i else l.getD i 0 := by
  induction w generalizing l with
  | nil => simp
  | cons a w ih =>
    rw [List.foldl_cons, ih _ (by rwa [List.length_set])]
    by_cases hw : i ∈ w
    · simp [hw]
    · by_cases ha : i = a
      · subst ha; simp [hw, hi]
      · simp [hw, ha, List.getD_eq_getElem?_getD, List.getElem?_set_ne (Ne.symm ha)]

/-- The places a launch gets: those that have not started go where they go, the others stay. -/
theorem launchPlaces_getD {s : State} {l : Launch} {ps : List Nat} (h : s.launchPlaces l = some ps) {i : Nat} (hi : i < l.place.length) :
    (i ∈ l.waiting → SpanGoes s l.vf l i (ps.getD i 0)) ∧ (i ∉ l.waiting → ps.getD i 0 = l.place.getD i 0) := by
  have hsome := (launchPlaces_isSome s l).mp (by rw [h]; rfl)
  rw [launchPlaces_eq] at h
  split at h
  · obtain rfl := Option.some.inj h
    rw [getD_foldl_set (fun i => (s.teamTarget l i).getD 0) _ _ hi]
    refine ⟨fun hw => ?_, fun hw => if_neg hw⟩
    obtain ⟨core, hgo⟩ := hsome i hw
    rw [if_pos hw, (teamTarget_eq_some s l i core).mpr hgo]
    exact hgo
  · exact absurd h nofun

/-- A launch whose teams have other places. -/
def Launch.placed (ps : List Nat) (l : Launch) : Launch := { l with place := ps }

/-- Giving one launch of a list its places, where it has them. -/
def State.placeStep (s : State) (r : Option State) (p : Nat × Launch) : Option State :=
  match r, s.launchPlaces p.2 with
  | some u, some ps => some (u.onLaunch p.1 (Launch.placed ps))
  | _, _ => none

theorem replaceWaiting_eq (s : State) (v j : Nat) :
    s.replaceWaiting v j = (s.launches.filter fun p => p.2.vf == v && p.2.ctx == j).foldl s.placeStep (some s) := rfl

theorem placeStep_some {s : State} {p : Nat × Launch} {ps : List Nat} (h : s.launchPlaces p.2 = some ps) (u : State) :
    s.placeStep (some u) p = some (u.onLaunch p.1 (Launch.placed ps)) := by
  unfold State.placeStep
  rw [h]

theorem placeStep_none {s : State} {p : Nat × Launch} (h : s.launchPlaces p.2 = none) (r : Option State) : s.placeStep r p = none := by
  unfold State.placeStep
  rw [h]
  cases r <;> rfl

/-- Once a launch has no places, none is placed. -/
theorem foldl_placeStep_none (s : State) (l : List (Nat × Launch)) : l.foldl s.placeStep none = none := by
  induction l with
  | nil => rfl
  | cons p l ih =>
    rw [List.foldl_cons, show s.placeStep none p = none by unfold State.placeStep; cases s.launchPlaces p.2 <;> rfl, ih]

theorem foldl_placeStep_eq_none {s : State} {l : List (Nat × Launch)} {p : Nat × Launch} (hp : p ∈ l) (h : s.launchPlaces p.2 = none)
    (r : Option State) : l.foldl s.placeStep r = none := by
  induction l generalizing r with
  | nil => exact absurd hp List.not_mem_nil
  | cons q l ih =>
    rcases List.mem_cons.mp hp with rfl | hp
    · rw [List.foldl_cons, placeStep_none h, foldl_placeStep_none]
    · exact ih hp _

/-- Where every launch of a list has places, each gets its own and the others stay. -/
theorem foldl_placeStep_some {s : State} {l : List (Nat × Launch)} (hkey : ∀ p ∈ l, s.launch p.1 = p.2)
    (hall : ∀ p ∈ l, (s.launchPlaces p.2).isSome = true) (u : State) (hu : ∀ p ∈ l, ∃ ps, u.launch p.1 = Launch.placed ps p.2) :
    ∃ t : State, l.foldl s.placeStep (some u) = some t ∧ t = { u with launches := t.launches }
      ∧ (∀ k, (∀ p ∈ l, p.1 ≠ k) → t.launch k = u.launch k)
      ∧ ∀ p ∈ l, ∃ ps, s.launchPlaces p.2 = some ps ∧ t.launch p.1 = Launch.placed ps p.2 := by
  induction l generalizing u with
  | nil => exact ⟨u, rfl, rfl, fun _ _ => rfl, nofun⟩
  | cons p l ih =>
    obtain ⟨ps, hps⟩ := Option.isSome_iff_exists.mp (hall p List.mem_cons_self)
    have hself : (u.onLaunch p.1 (Launch.placed ps)).launch p.1 = Launch.placed ps p.2 := by
      obtain ⟨ps', hps'⟩ := hu p List.mem_cons_self
      rw [State.launch_onLaunch, if_pos rfl, hps']
      rfl
    have hother {k : Nat} (hk : k ≠ p.1) : (u.onLaunch p.1 (Launch.placed ps)).launch k = u.launch k := by
      rw [State.launch_onLaunch, if_neg hk]
    have hsame {q : Nat × Launch} (hq : q ∈ l) (h : q.1 = p.1) : q.2 = p.2 := by
      rw [← hkey q (List.mem_cons_of_mem _ hq), h, hkey p List.mem_cons_self]
    obtain ⟨t, ht, hframe, hstay, hplaced⟩ := ih (fun q hq => hkey q (List.mem_cons_of_mem _ hq)) (fun q hq => hall q (List.mem_cons_of_mem _ hq))
      (u.onLaunch p.1 (Launch.placed ps)) fun q hq => by
        by_cases h : q.1 = p.1
        · exact ⟨ps, by rw [h, hself, hsame hq h]⟩
        · rw [hother h]; exact hu q (List.mem_cons_of_mem _ hq)
    refine ⟨t, by rw [List.foldl_cons, placeStep_some hps, ht], by rw [hframe]; rfl, fun k hk => ?_, fun q hq => ?_⟩
    · rw [hstay k fun q hq => hk q (List.mem_cons_of_mem _ hq), hother (hk p List.mem_cons_self).symm]
    · rcases List.mem_cons.mp hq with rfl | hq
      · by_cases h : ∃ q' ∈ l, q'.1 = q.1
        · obtain ⟨q', hq', h⟩ := h
          obtain ⟨ps', hps', ht'⟩ := hplaced q' hq'
          rw [h, hsame hq' h] at ht'
          exact ⟨ps', by rwa [← hsame hq' h], ht'⟩
        · refine ⟨ps, hps, ?_⟩
          rw [hstay q.1 fun q' hq' e => h ⟨q', hq', e⟩, hself]
      · exact hplaced q hq

theorem mem_contextLaunches {s : State} {v j : Nat} {p : Nat × Launch} :
    p ∈ s.launches.filter (fun p => p.2.vf == v && p.2.ctx == j) ↔ p ∈ s.launches ∧ p.2.vf = v ∧ p.2.ctx = j := by
  rw [List.mem_filter, Bool.and_eq_true, beq_iff_eq, beq_iff_eq]

theorem placesLeft_iff (s : State) (v j : Nat) :
    PlacesLeft s v j ↔ ∀ p ∈ s.launches.filter (fun p => p.2.vf == v && p.2.ctx == j), (s.launchPlaces p.2).isSome = true := by
  simp only [launchPlaces_isSome, mem_contextLaunches]
  exact ⟨fun h p ⟨hp, hv, hj⟩ => hv ▸ h p hp hv hj, fun h p hp hv hj => hv ▸ h p ⟨hp, hv, hj⟩⟩

theorem replaceWaiting_none {s : State} {v j : Nat} (h : ¬PlacesLeft s v j) : s.replaceWaiting v j = none := by
  rw [placesLeft_iff] at h
  push Not at h
  obtain ⟨p, hp, hnone⟩ := h
  rw [replaceWaiting_eq]
  exact foldl_placeStep_eq_none hp (by simpa using hnone) _

theorem replaceWaiting_some {s : State} {v j : Nat} (hkey : ∀ p ∈ s.launches, s.launch p.1 = p.2) (h : PlacesLeft s v j) :
    ∃ t : State, s.replaceWaiting v j = some t ∧ t = { s with launches := t.launches } ∧ TeamsPlaced s t v j := by
  obtain ⟨t, ht, hframe, hstay, hplaced⟩ := foldl_placeStep_some (fun p hp => hkey p (mem_contextLaunches.mp hp).1)
    ((placesLeft_iff s v j).mp h) s fun p hp => ⟨p.2.place, hkey p (mem_contextLaunches.mp hp).1⟩
  refine ⟨t, (replaceWaiting_eq s v j).trans ht, hframe, fun p hp => ⟨fun hno => ?_, fun hv hj => ?_⟩⟩
  · rw [hstay p.1, hkey p hp]
    intro q hq hqp
    obtain ⟨hq, hq'⟩ := mem_contextLaunches.mp hq
    rw [← hkey q hq, hqp, hkey p hp] at hq'
    exact hno hq'
  · obtain ⟨ps, hps, htp⟩ := hplaced p (mem_contextLaunches.mpr ⟨hp, hv, hj⟩)
    rw [htp]
    exact ⟨rfl, fun i hi => hv ▸ launchPlaces_getD hps hi⟩

theorem settleRepair_of_idle {s : State} {v : Nat} (h : s.running v = none) : s.settleRepair (some v) = s := by
  simp only [State.settleRepair, h]

theorem settleRepair_of_placed {s t : State} {v j : Nat} (hrun : s.running v = some j) (h : s.replaceWaiting v j = some t) :
    s.settleRepair (some v) = t := by
  simp only [State.settleRepair, hrun, h]

theorem settleRepair_of_stopped {s : State} {v j : Nat} (hrun : s.running v = some j) (h : ¬PlacesLeft s v j) :
    ∃ loc, s.settleRepair (some v) = ({ s with freeCount := s.freeCount + 1 }).stopContext v j causeUe loc :=
  ⟨(s.free 100).2, by simp only [State.settleRepair, hrun, replaceWaiting_none h]; rfl⟩

/-! ### Run-time repair (14 R392, R425) -/

theorem runTimeRepair_idle {s : State} {k : Nat} (bad : BitVec 3) (h : (s.coreMap.get {} k : CoreMap).present = false) :
    Idle (.runTimeRepair k bad) s := if_pos (by rw [h]; rfl)

/-- What a repair of a core would do. -/
def State.repairOf (s : State) (k : Nat) (bad : BitVec 3) : RepairCase := repairCase (s.cluster (k / 24)) bad

theorem runTimeRepair_eq {s : State} {k : Nat} (bad : BitVec 3) (h : (s.coreMap.get {} k : CoreMap).present = true) :
    exec (.runTimeRepair k bad) s =
      if ((s.repairOf k bad).cores k).any fun c => !(s.residents c).isEmpty then .next (((s.repairOf k bad).cores k).foldl State.quarantine s)
      else .next ({ s.repair k bad (s.repairOf k bad) with epoch := s.epoch + 1 }.settleRepair (s.vfOfCluster (k / 24))) :=
  if_neg (by rw [h]; decide)

/-- Once no team is on the cores concerned the map changes. -/
theorem runTimeRepair_repairs {s : State} {k : Nat} {bad : BitVec 3} {c : RepairCase} (h : (s.coreMap.get {} k : CoreMap).present = true)
    (hc : s.repairOf k bad = c) (hempty : ∀ i ∈ c.cores k, s.residents i = []) :
    exec (.runTimeRepair k bad) s = .next ({ s.repair k bad c with epoch := s.epoch + 1 }.settleRepair (s.vfOfCluster (k / 24))) := by
  rw [runTimeRepair_eq bad h, hc, if_neg]
  intro hany
  obtain ⟨i, hi, hres⟩ := List.any_eq_true.mp hany
  rw [hempty i hi] at hres
  exact absurd hres (by decide)

theorem quarantine_frame (s : State) (n : Nat) : (s.quarantine n).coreMap = s.coreMap ∧ (s.quarantine n).epoch = s.epoch := by
  obtain ⟨t, ht, hframe, -⟩ := quarantine_spec s n
  rw [ht, hframe]
  exact ⟨rfl, rfl⟩

theorem quarantined_quarantine {s : State} {n j : Nat} (h : j = n ∨ (s.core j).quarantined = true) :
    ((s.quarantine n).core j).quarantined = true := by
  obtain ⟨t, ht, -, ⟨hother, hself⟩, -⟩ := quarantine_spec s n
  rw [ht]
  by_cases hj : j = n
  · rw [hj, hself]; rfl
  · rw [hother j hj]; exact h.resolve_left hj

theorem quarantines_spec (l : List Nat) (s : State) :
    (l.foldl State.quarantine s).coreMap = s.coreMap ∧ (l.foldl State.quarantine s).epoch = s.epoch
      ∧ ∀ j, j ∈ l ∨ (s.core j).quarantined = true → ((l.foldl State.quarantine s).core j).quarantined = true := by
  induction l generalizing s with
  | nil => exact ⟨rfl, rfl, fun j h => h.resolve_left List.not_mem_nil⟩
  | cons n l ih =>
    obtain ⟨hmap, hepoch, hquar⟩ := ih (s.quarantine n)
    obtain ⟨hmap', hepoch'⟩ := quarantine_frame s n
    refine ⟨hmap.trans hmap', hepoch.trans hepoch', fun j h => hquar j ?_⟩
    rw [List.mem_cons, or_assoc] at h
    rcases h with h | h | h
    · exact .inr (quarantined_quarantine (.inl h))
    · exact .inl h
    · exact .inr (quarantined_quarantine (.inr h))

/-- A repair waits while a team is on a core concerned: each of those is quarantined. -/
theorem runTimeRepair_waits {s : State} {k i : Nat} (bad : BitVec 3) (h : (s.coreMap.get {} k : CoreMap).present = true)
    (hi : i ∈ (s.repairOf k bad).cores k) (hres : s.residents i ≠ []) :
    ∃ t, exec (.runTimeRepair k bad) s = .next t ∧ t.coreMap = s.coreMap ∧ t.epoch = s.epoch
      ∧ ∀ j ∈ (s.repairOf k bad).cores k, (t.core j).quarantined = true := by
  obtain ⟨hmap, hepoch, hquar⟩ := quarantines_spec ((s.repairOf k bad).cores k) s
  refine ⟨_, (runTimeRepair_eq bad h).trans (if_pos ?_), hmap, hepoch, fun j hj => hquar j (.inl hj)⟩
  refine List.any_eq_true.mpr ⟨i, hi, ?_⟩
  cases hr : s.residents i with
  | nil => exact absurd hr hres
  | cons p ps => rfl

theorem self_mem_cores (c : RepairCase) (k : Nat) : k ∈ c.cores k := by
  cases c with
  | spare p => exact List.mem_singleton_self k
  | coprocessors => exact List.mem_singleton_self k
  | shrink => exact List.mem_cons_self
  | disable => exact mem_coresOf.mpr rfl

/-- What stays of a core that another physical core serves: its ring stops (15 R408). -/
def Core.replaced (x : Core) : Core := { ({} : Core) with stops := x.stops }

theorem replaceCore_spec (s : State) (k : Nat) (m : CoreMap) :
    s.replaceCore k m = { s with coreMap := (s.replaceCore k m).coreMap, cores := (s.replaceCore k m).cores }
      ∧ (∀ j, ((s.replaceCore k m).coreMap.get {} j : CoreMap) = if j = k then m else s.coreMap.get {} j)
      ∧ CoreIs s (s.replaceCore k m) k (Core.replaced (s.core k)) :=
  ⟨rfl, fun j => Store.get_set {} s.coreMap k j m, coreIs_onCore s k Core.replaced⟩

/-- The lowest spare is the one a repair takes. -/
theorem foldl_min_eq {p q : Nat} {qs : List Nat} (hp : p ∈ q :: qs) (hmin : ∀ x ∈ q :: qs, p ≤ x) : qs.foldl min q = p := by
  induction qs generalizing q with
  | nil => exact (List.mem_singleton.mp hp).symm
  | cons a qs ih =>
    have hq := hmin q List.mem_cons_self
    have ha := hmin a (List.mem_cons_of_mem _ List.mem_cons_self)
    refine ih ?_ fun x hx => ?_
    · rcases List.mem_cons.mp hp with rfl | hp
      · exact List.mem_cons.mpr (.inl (by omega))
      · rcases List.mem_cons.mp hp with rfl | hp
        · exact List.mem_cons.mpr (.inl (by omega))
        · exact List.mem_cons_of_mem _ hp
    · rcases List.mem_cons.mp hx with rfl | hx
      · omega
      · exact hmin x (List.mem_cons_of_mem _ (List.mem_cons_of_mem _ hx))

theorem repairOf_spare {s : State} {k p : Nat} (bad : BitVec 3) (hp : p ∈ (s.cluster (k / 24)).spares)
    (hmin : ∀ q ∈ (s.cluster (k / 24)).spares, p ≤ q) : s.repairOf k bad = .spare p := by
  unfold State.repairOf repairCase
  cases hs : (s.cluster (k / 24)).spares with
  | nil => rw [hs] at hp; exact absurd hp List.not_mem_nil
  | cons q qs =>
    rw [hs] at hp hmin
    exact congrArg _ (foldl_min_eq hp hmin)

theorem repairOf_of_no_spares {s : State} {k : Nat} (bad : BitVec 3) (hs : (s.cluster (k / 24)).spares = []) :
    s.repairOf k bad = if bad ≠ 0 then .coprocessors else if (s.cluster (k / 24)).degraded then .disable else .shrink := by
  unfold State.repairOf repairCase
  rw [hs]

/-- The extensions of a core in FEAT0, by its failed co-processors (14 R390). -/
theorem featBits_getLsbD : ∀ (b : BitVec 3) (i : Fin 3), (featBits b false false).getLsbD (i + 1) = !b.getLsbD i := by decide

/-- FEAT0 of a position that a spare now serves. -/
def spareFeat (old : BitVec 16) (b : BitVec 3) : BitVec 16 := (old &&& 0x71) ||| (featBits b false false &&& 0xE)

theorem spareFeat_extension (old : BitVec 16) (b : BitVec 3) {i : Nat} (hi : i < 3) : (spareFeat old b).getLsbD (i + 1) = !b.getLsbD i := by
  have hmask : ∀ i : Fin 3, (0x71 : BitVec 16).getLsbD (i + 1) = false ∧ (0xE : BitVec 16).getLsbD (i + 1) = true := by decide
  obtain ⟨h1, h2⟩ := hmask ⟨i, hi⟩
  rw [spareFeat, BitVec.getLsbD_or, BitVec.getLsbD_and, BitVec.getLsbD_and, h1, h2, Bool.and_false, Bool.false_or, Bool.and_true]
  exact featBits_getLsbD b ⟨i, hi⟩

theorem spareFeat_other (old : BitVec 16) (b : BitVec 3) {i : Nat} (hi : i = 0 ∨ (4 ≤ i ∧ i < 7)) :
    (spareFeat old b).getLsbD i = old.getLsbD i := by
  have hmask : ∀ i : Fin 7, (i : Nat) = 0 ∨ (4 ≤ (i : Nat) ∧ (i : Nat) < 7) →
      (0x71 : BitVec 16).getLsbD i = true ∧ (0xE : BitVec 16).getLsbD i = false := by decide
  obtain ⟨h1, h2⟩ := hmask ⟨i, by omega⟩ hi
  rw [spareFeat, BitVec.getLsbD_or, BitVec.getLsbD_and, BitVec.getLsbD_and, h1, h2, Bool.and_false, Bool.or_false, Bool.and_true]

/-- A repair changes the map to t's, and the teams of the VF that have not started then have places. -/
def Repaired (s : State) (k : Nat) (bad : BitVec 3) (t : State) : Prop :=
  exec (.runTimeRepair k bad) s = .next (t.settleRepair (s.vfOfCluster (k / 24)))

theorem repaired_of {s u : State} {k : Nat} {bad : BitVec 3} {c : RepairCase} (hpres : (s.coreMap.get {} k : CoreMap).present = true)
    (hc : s.repairOf k bad = c) (hempty : ∀ i ∈ c.cores k, s.residents i = []) (hu : s.repair k bad c = u) :
    Repaired s k bad { u with epoch := s.epoch + 1 } := by
  subst hu
  exact runTimeRepair_repairs hpres hc hempty

/-- The entry of a position that spare p serves now. -/
def CoreMap.spared (p : Nat) (b : BitVec 3) (m : CoreMap) : CoreMap := { phys := p, present := true, feat0 := spareFeat m.feat0 b }

/-- A cluster whose spare p is taken. -/
def Cluster.takeSpare (p : Nat) (c : Cluster) : Cluster := { c with spares := c.spares.filter (· ≠ p) }

theorem repair_spare {s : State} {k p : Nat} (bad : BitVec 3) (hpres : (s.coreMap.get {} k : CoreMap).present = true)
    (hres : s.residents k = []) (hp : p ∈ (s.cluster (k / 24)).spares) (hmin : ∀ q ∈ (s.cluster (k / 24)).spares, p ≤ q) :
    ∃ t : State, Repaired s k bad t
      ∧ t = { s with coreMap := t.coreMap, cores := t.cores, clusters := t.clusters, epoch := s.epoch + 1 }
      ∧ (t.coreMap.get {} k).phys = p ∧ (t.coreMap.get {} k).present = true
      ∧ (∀ i, i < 3 → (t.coreMap.get {} k).feat0.getLsbD (i + 1) = !(s.badCoprocessors.get 0 (26 * (k / 24) + p)).getLsbD i)
      ∧ (∀ i, i = 0 ∨ (4 ≤ i ∧ i < 7) → (t.coreMap.get {} k).feat0.getLsbD i = (s.coreMap.get {} k : CoreMap).feat0.getLsbD i)
      ∧ (∀ j, j ≠ k → (t.coreMap.get {} j : CoreMap) = s.coreMap.get {} j)
      ∧ CoreIs s t k (Core.replaced (s.core k)) ∧ ClusterIs s t (k / 24) (Cluster.takeSpare p (s.cluster (k / 24))) := by
  let b := s.badCoprocessors.get 0 (26 * (k / 24) + p)
  have hrep := repaired_of hpres (repairOf_spare bad hp hmin) (fun i hi => (List.mem_singleton.mp hi) ▸ hres)
    (u := (s.replaceCore k (CoreMap.spared p b (s.coreMap.get {} k))).onCluster (k / 24) (Cluster.takeSpare p)) rfl
  obtain ⟨hframe, hmap, hcore⟩ := replaceCore_spec s k (CoreMap.spared p b (s.coreMap.get {} k))
  have hmapk := (hmap k).trans (if_pos rfl)
  generalize s.replaceCore k (CoreMap.spared p b (s.coreMap.get {} k)) = u at *
  have hcluster := clusterIs_onCluster u (k / 24) (Cluster.takeSpare p)
  have hsame (j : Nat) : u.cluster j = s.cluster j := by rw [hframe]; rfl
  refine ⟨_, hrep, by rw [hframe]; rfl, congrArg CoreMap.phys hmapk, congrArg CoreMap.present hmapk, fun i hi => ?_, fun i hi => ?_,
    fun j hj => (hmap j).trans (if_neg hj), hcore, ⟨fun j hj => (hcluster.1 j hj).trans (hsame j), hcluster.2.trans (by rw [hsame])⟩⟩
  · exact (congrArg (fun m : CoreMap => m.feat0.getLsbD (i + 1)) hmapk).trans (spareFeat_extension _ b hi)
  · exact (congrArg (fun m : CoreMap => m.feat0.getLsbD i) hmapk).trans (spareFeat_other _ b hi)

/-- An entry of the map whose core has lost extensions. -/
def CoreMap.without (bad : BitVec 3) (m : CoreMap) : CoreMap :=
  { m with featLoss := true, feat0 := m.feat0 &&& ~~~((bad.zeroExtend 16 : BitVec 16) <<< 1) }

theorem repair_coprocessors {s : State} {k : Nat} {bad : BitVec 3} (hpres : (s.coreMap.get {} k : CoreMap).present = true)
    (hres : s.residents k = []) (hs : (s.cluster (k / 24)).spares = []) (hbad : bad ≠ 0) :
    ∃ t : State, Repaired s k bad t
      ∧ t = { s with coreMap := t.coreMap, cores := t.cores, epoch := s.epoch + 1, badCoprocessors := t.badCoprocessors }
      ∧ (∀ j, j ≠ k → (t.coreMap.get {} j : CoreMap) = s.coreMap.get {} j)
      ∧ (t.coreMap.get {} k : CoreMap) = CoreMap.without bad (s.coreMap.get {} k)
      ∧ (∀ j, t.badCoprocessors.get 0 j = if j = 26 * (k / 24) + (s.coreMap.get {} k : CoreMap).phys then s.badCoprocessors.get 0 j ||| bad
          else s.badCoprocessors.get 0 j)
      ∧ CoreIs s t k (Core.replaced (s.core k)) := by
  let phys := (s.coreMap.get {} k : CoreMap).phys
  have hrep := repaired_of hpres ((repairOf_of_no_spares bad hs).trans (if_pos hbad)) (fun i hi => (List.mem_singleton.mp hi) ▸ hres)
    (u := { s.replaceCore k (CoreMap.without bad (s.coreMap.get {} k)) with
      badCoprocessors := s.badCoprocessors.set (26 * (k / 24) + phys) (s.badCoprocessors.get 0 (26 * (k / 24) + phys) ||| bad) }) rfl
  obtain ⟨hframe, hmap, hcore⟩ := replaceCore_spec s k (CoreMap.without bad (s.coreMap.get {} k))
  generalize s.replaceCore k (CoreMap.without bad (s.coreMap.get {} k)) = u at *
  refine ⟨_, hrep, by rw [hframe], fun j hj => (hmap j).trans (if_neg hj), (hmap k).trans (if_pos rfl), fun j => ?_, hcore⟩
  refine (Store.get_set 0 s.badCoprocessors _ j _).trans ?_
  split
  · next h => rw [h]
  · rfl

theorem core_replaceCore (s : State) (k : Nat) (m : CoreMap) (j : Nat) :
    (s.replaceCore k m).core j = if j = k then Core.replaced (s.core j) else s.core j := by
  obtain ⟨-, -, hother, hself⟩ := replaceCore_spec s k m
  split
  · next h => rw [h, hself]
  · next h => exact hother j h

/-- Taking positions out of the map. -/
theorem removeCores_spec (l : List Nat) (s : State) :
    ∃ t : State, l.foldl (fun s k => s.replaceCore k {}) s = t ∧ t = { s with coreMap := t.coreMap, cores := t.cores }
      ∧ (∀ j, (t.coreMap.get {} j : CoreMap) = if j ∈ l then {} else s.coreMap.get {} j)
      ∧ ∀ j, t.core j = if j ∈ l then Core.replaced (s.core j) else s.core j := by
  induction l generalizing s with
  | nil => exact ⟨s, rfl, rfl, fun j => (if_neg List.not_mem_nil).symm, fun j => (if_neg List.not_mem_nil).symm⟩
  | cons k l ih =>
    obtain ⟨t, ht, hframe, hmap, hcore⟩ := ih (s.replaceCore k {})
    obtain ⟨hframe', hmap', -⟩ := replaceCore_spec s k {}
    have hcore' := core_replaceCore s k {}
    rw [List.foldl_cons, ht]
    generalize s.replaceCore k {} = u at *
    refine ⟨t, rfl, by rw [hframe, hframe'], fun j => ?_, fun j => ?_⟩
    · rw [hmap, hmap']
      by_cases hj : j = k <;> by_cases hl : j ∈ l <;> simp [hj, hl]
    · rw [hcore, hcore']
      by_cases hj : j = k <;> by_cases hl : j ∈ l <;> simp [hj, hl, Core.replaced]

/-- A cluster that has 22 positions left and one spare. -/
def Cluster.shrunk (spare : Nat) (c : Cluster) : Cluster := { c with degraded := true, spares := [spare] }

/-- The map, the cores and the cluster after positions 22 and 23 have gone. -/
structure Shrunk (s t : State) (k : Nat) : Prop where
  frame : t = { s with coreMap := t.coreMap, cores := t.cores, clusters := t.clusters, epoch := s.epoch + 1 }
  map : ∀ j, (t.coreMap.get {} j : CoreMap) =
    if j = 24 * (k / 24) + 22 ∨ j = 24 * (k / 24) + 23 then {}
    else if j = k then s.coreMap.get {} (24 * (k / 24) + 22) else s.coreMap.get {} j
  core : ∀ j, t.core j = if j = k ∨ j = 24 * (k / 24) + 22 ∨ j = 24 * (k / 24) + 23 then Core.replaced (s.core j) else s.core j
  cluster : ClusterIs s t (k / 24) (Cluster.shrunk (if k % 24 = 23 then (s.coreMap.get {} (24 * (k / 24) + 22) : CoreMap).phys
    else (s.coreMap.get {} (24 * (k / 24) + 23) : CoreMap).phys) (s.cluster (k / 24)))

/-- The first part of taking positions 22 and 23 away: position 22's core takes the number of the failed one, unless that goes too. -/
def State.shrinkFirst (s : State) (k : Nat) : State :=
  if k % 24 < 22 then s.replaceCore k (s.coreMap.get {} (24 * (k / 24) + 22)) else s

/-- The state in which a repair has taken positions 22 and 23 away. -/
def State.shrink (s : State) (k : Nat) : State :=
  [24 * (k / 24) + 22, 24 * (k / 24) + 23].foldl (fun s i => s.replaceCore i {}) (s.shrinkFirst k)

theorem repair_shrink_eq (s : State) (k : Nat) (bad : BitVec 3) :
    s.repair k bad .shrink = (s.shrink k).onCluster (k / 24) (Cluster.shrunk (if k % 24 = 23 then
      (s.coreMap.get {} (24 * (k / 24) + 22) : CoreMap).phys else (s.coreMap.get {} (24 * (k / 24) + 23) : CoreMap).phys)) := by
  have hmod : k % 24 < 22 ∨ k % 24 = 22 ∨ k % 24 = 23 := by omega
  unfold State.repair State.shrink State.shrinkFirst
  rcases hmod with h | h | h
  · rw [if_neg (by omega : ¬k % 24 = 23)]
    simp only [if_pos h]
    rfl
  · rw [h]; rfl
  · rw [h]; rfl

theorem shrinkFirst_spec (s : State) (k : Nat) :
    s.shrinkFirst k = { s with coreMap := (s.shrinkFirst k).coreMap, cores := (s.shrinkFirst k).cores }
      ∧ (∀ j, ((s.shrinkFirst k).coreMap.get {} j : CoreMap) =
        if k % 24 < 22 ∧ j = k then s.coreMap.get {} (24 * (k / 24) + 22) else s.coreMap.get {} j)
      ∧ ∀ j, (s.shrinkFirst k).core j = if k % 24 < 22 ∧ j = k then Core.replaced (s.core j) else s.core j := by
  by_cases h : k % 24 < 22
  · have heq : s.shrinkFirst k = s.replaceCore k (s.coreMap.get {} (24 * (k / 24) + 22)) := if_pos h
    obtain ⟨hframe, hmap, -⟩ := replaceCore_spec s k (s.coreMap.get {} (24 * (k / 24) + 22))
    simp only [heq, h, true_and]
    exact ⟨hframe, hmap, core_replaceCore s k _⟩
  · have heq : s.shrinkFirst k = s := if_neg h
    simp only [heq, h, false_and, if_false]
    exact ⟨trivial, fun _ => trivial, fun _ => trivial⟩

theorem shrink_spec (s : State) (k : Nat) :
    ∃ t : State, s.shrink k = t ∧ t = { s with coreMap := t.coreMap, cores := t.cores }
      ∧ (∀ j, (t.coreMap.get {} j : CoreMap) = if j = 24 * (k / 24) + 22 ∨ j = 24 * (k / 24) + 23 then {}
        else if j = k then s.coreMap.get {} (24 * (k / 24) + 22) else s.coreMap.get {} j)
      ∧ ∀ j, t.core j = if j = k ∨ j = 24 * (k / 24) + 22 ∨ j = 24 * (k / 24) + 23 then Core.replaced (s.core j) else s.core j := by
  obtain ⟨t, ht, hframe, hmap, hcore⟩ := removeCores_spec [24 * (k / 24) + 22, 24 * (k / 24) + 23] (s.shrinkFirst k)
  have hshrink : s.shrink k = t := ht
  obtain ⟨hframe', hmap', hcore'⟩ := shrinkFirst_spec s k
  generalize s.shrinkFirst k = u at *
  have hmem (j : Nat) : j ∈ [24 * (k / 24) + 22, 24 * (k / 24) + 23] ↔ j = 24 * (k / 24) + 22 ∨ j = 24 * (k / 24) + 23 := by simp
  have hfirst {j : Nat} (hj : ¬(j = 24 * (k / 24) + 22 ∨ j = 24 * (k / 24) + 23)) : (k % 24 < 22 ∧ j = k) ↔ j = k := by omega
  refine ⟨t, hshrink, by rw [hframe, hframe'], fun j => ?_, fun j => ?_⟩
  · simp only [hmap, hmap', hmem]
    by_cases hj : j = 24 * (k / 24) + 22 ∨ j = 24 * (k / 24) + 23
    · simp only [hj, if_true]
    · simp only [hj, if_false, hfirst hj]
  · simp only [hcore, hcore', hmem]
    by_cases hj : j = 24 * (k / 24) + 22 ∨ j = 24 * (k / 24) + 23
    · simp only [hj, if_true, or_true]
      split <;> rfl
    · simp only [hj, if_false, or_false, hfirst hj]

theorem repair_shrink {s : State} {k : Nat} {bad : BitVec 3} (hpres : (s.coreMap.get {} k : CoreMap).present = true)
    (hres : s.residents k = []) (hs : (s.cluster (k / 24)).spares = []) (hbad : bad = 0) (hdeg : (s.cluster (k / 24)).degraded = false)
    (ha : s.residents (24 * (k / 24) + 22) = []) (hb : s.residents (24 * (k / 24) + 23) = []) :
    ∃ t : State, Repaired s k bad t ∧ Shrunk s t k := by
  have hcase : s.repairOf k bad = .shrink := by
    rw [repairOf_of_no_spares bad hs, if_neg (not_not_intro hbad), if_neg (by rw [hdeg]; decide)]
  have hempty : ∀ i ∈ RepairCase.shrink.cores k, s.residents i = [] := by
    intro i hi
    have hi : i = k ∨ i = 24 * (k / 24) + 22 ∨ i = 24 * (k / 24) + 23 := by simpa [RepairCase.cores, clusterOfCore] using hi
    rcases hi with rfl | rfl | rfl
    · exact hres
    · exact ha
    · exact hb
  obtain ⟨u, hu, hframe, hmap, hcore⟩ := shrink_spec s k
  have hrep := repaired_of hpres hcase hempty (repair_shrink_eq s k bad)
  rw [hu] at hrep
  have hcluster := clusterIs_onCluster u (k / 24) (Cluster.shrunk (if k % 24 = 23 then (s.coreMap.get {} (24 * (k / 24) + 22) : CoreMap).phys
    else (s.coreMap.get {} (24 * (k / 24) + 23) : CoreMap).phys))
  have hsame (j : Nat) : u.cluster j = s.cluster j := by rw [hframe]; rfl
  exact ⟨_, hrep, by rw [hframe]; rfl, hmap, hcore, fun j hj => (hcluster.1 j hj).trans (hsame j), hcluster.2.trans (by rw [hsame])⟩

theorem shrink_waits {s : State} {k : Nat} {bad : BitVec 3} (hpres : (s.coreMap.get {} k : CoreMap).present = true)
    (hs : (s.cluster (k / 24)).spares = []) (hbad : bad = 0) (hdeg : (s.cluster (k / 24)).degraded = false)
    (hab : s.residents (24 * (k / 24) + 22) ≠ [] ∨ s.residents (24 * (k / 24) + 23) ≠ []) :
    ∃ t, exec (.runTimeRepair k bad) s = .next t ∧ t.coreMap = s.coreMap ∧ t.epoch = s.epoch
      ∧ ∀ j, j = k ∨ j = 24 * (k / 24) + 22 ∨ j = 24 * (k / 24) + 23 → (t.core j).quarantined = true := by
  have hcase : s.repairOf k bad = .shrink := by
    rw [repairOf_of_no_spares bad hs, if_neg (not_not_intro hbad), if_neg (by rw [hdeg]; decide)]
  have hmem (j : Nat) : j ∈ (s.repairOf k bad).cores k ↔ j = k ∨ j = 24 * (k / 24) + 22 ∨ j = 24 * (k / 24) + 23 := by
    rw [hcase]; simp [RepairCase.cores, clusterOfCore]
  obtain ⟨t, hexec, hmap, hepoch, hquar⟩ : ∃ t, exec (.runTimeRepair k bad) s = .next t ∧ t.coreMap = s.coreMap ∧ t.epoch = s.epoch
      ∧ ∀ j ∈ (s.repairOf k bad).cores k, (t.core j).quarantined = true := by
    rcases hab with ha | hb
    · exact runTimeRepair_waits bad hpres ((hmem _).mpr (.inr (.inl rfl))) ha
    · exact runTimeRepair_waits bad hpres ((hmem _).mpr (.inr (.inr rfl))) hb
  exact ⟨t, hexec, hmap, hepoch, fun j hj => hquar j ((hmem j).mpr hj)⟩

/-- A cluster that is taken out of the part. -/
def Cluster.gone (_ : Cluster) : Cluster := { ({} : Cluster) with disabled := true }

/-- A VF whose partition has lost a cluster. -/
def Vf.lose (cl : Nat) (x : Vf) : Vf := { x with part := x.part &&& ~~~(1#32 <<< cl) }

/-- The VF that holds a cluster, if one does, loses it. -/
def State.loseCluster (s : State) (cl : Nat) : State :=
  match s.vfOfCluster cl with
  | some v => s.onVf v (Vf.lose cl)
  | none => s

theorem loseCluster_spec (s : State) (cl : Nat) :
    s.loseCluster cl = { s with vfs := (s.loseCluster cl).vfs }
      ∧ ∀ v, s.vfOfCluster cl = some v → VfIs s (s.loseCluster cl) v (Vf.lose cl (s.vf v)) := by
  unfold State.loseCluster
  cases h : s.vfOfCluster cl with
  | none => exact ⟨rfl, nofun⟩
  | some u =>
    refine ⟨rfl, fun v hv => ?_⟩
    obtain rfl := Option.some.inj hv
    exact vfIs_onVf s u (Vf.lose cl)

theorem repair_disable {s : State} {k : Nat} {bad : BitVec 3} (hpres : (s.coreMap.get {} k : CoreMap).present = true)
    (hs : (s.cluster (k / 24)).spares = []) (hbad : bad = 0) (hdeg : (s.cluster (k / 24)).degraded = true)
    (hempty : ∀ i ∈ coresOf (k / 24), s.residents i = []) :
    ∃ t : State, Repaired s k bad t
      ∧ t = { s with coreMap := t.coreMap, cores := t.cores, clusters := t.clusters, vfs := t.vfs, epoch := s.epoch + 1 }
      ∧ (t.cluster (k / 24)).disabled = true ∧ (∀ v, s.vfOfCluster (k / 24) = some v → VfIs s t v (Vf.lose (k / 24) (s.vf v)))
      ∧ ∀ i ∈ coresOf (k / 24), (t.coreMap.get {} i : CoreMap).present = false := by
  have hcase : s.repairOf k bad = .disable := by
    rw [repairOf_of_no_spares bad hs, if_neg (not_not_intro hbad), if_pos hdeg]
  obtain ⟨u, hu, hframe, hmap, -⟩ := removeCores_spec (coresOf (k / 24)) s
  have heq : s.repair k bad .disable = (u.onCluster (k / 24) Cluster.gone).loseCluster (k / 24) := by rw [← hu]; rfl
  have hrep := repaired_of hpres hcase hempty heq
  have hdis : ((u.onCluster (k / 24) Cluster.gone).cluster (k / 24)).disabled = true := by
    rw [State.cluster_onCluster, if_pos rfl]; rfl
  have hvf : (u.onCluster (k / 24) Cluster.gone).vfs = s.vfs := by rw [hframe]; rfl
  have hw : u.onCluster (k / 24) Cluster.gone =
      { s with coreMap := u.coreMap, cores := u.cores, clusters := (u.onCluster (k / 24) Cluster.gone).clusters } := by rw [hframe]; rfl
  have hmapw : (u.onCluster (k / 24) Cluster.gone).coreMap = u.coreMap := rfl
  generalize u.onCluster (k / 24) Cluster.gone = w at *
  obtain ⟨hlose, hpart⟩ := loseCluster_spec w (k / 24)
  generalize w.loseCluster (k / 24) = t at *
  have hvfw (v : Nat) : w.vf v = s.vf v := by unfold State.vf; rw [hvf]
  refine ⟨_, hrep, by rw [hlose, hw], ?_, fun v hv => ?_, fun i hi => ?_⟩
  · rw [hlose]; exact hdis
  · have hv' : w.vfOfCluster (k / 24) = some v := by rw [← hv]; unfold State.vfOfCluster; rw [hvf]
    obtain ⟨hother, hself⟩ := hpart v hv'
    exact ⟨fun j hj => (hother j hj).trans (hvfw j), hself.trans (by rw [hvfw])⟩
  · rw [hlose]
    show (w.coreMap.get {} i : CoreMap).present = false
    rw [hmapw, hmap, if_pos hi]

/-! ### Resets of functions (11 R292; 14 R393) -/

/-- What the PF has set in a VF and the VF's reset keeps. -/
def Vf.kept (x : Vf) : W32 × Nat × BitVec 16 × W32 := (x.part, x.qCount, x.heads, x.wdog)

/-- What stopping and removing a VF's work keeps: both memories, the focus, and what the PF has set in the VFs. -/
def State.kept (s : State) : Store Byte × Store Byte × Focus × (Nat → W32 × Nat × BitVec 16 × W32) :=
  (s.mem, s.hostMem, s.cur, fun v => Vf.kept (s.vf v))

theorem kept_onVf {f : Vf → Vf} (hf : ∀ x, Vf.kept (f x) = Vf.kept x) (s : State) (v : Nat) : (s.onVf v f).kept = s.kept := by
  have hvf : (fun w => Vf.kept ((s.onVf v f).vf w)) = fun w => Vf.kept (s.vf w) := by
    funext w
    rw [State.vf_onVf]
    split
    · next h => rw [hf, h]
    · rfl
  exact congrArg (fun g => (s.mem, s.hostMem, s.cur, g)) hvf

theorem kept_onCtx (s : State) (v k : Nat) (f : Context → Context) : (s.onCtx v k f).kept = s.kept := by
  unfold State.onCtx
  exact kept_onVf (by intro; rfl) s v

theorem kept_flush (s : State) : s.flush.kept = s.kept := by
  rw [State.flush_frame]
  rfl

theorem kept_reload (s : State) : s.reload.kept = s.kept := by
  rw [State.reload_frame]
  rfl

theorem kept_onLaunch (s : State) (k : Nat) (f : Launch → Launch) : (s.onLaunch k f).kept = s.kept := rfl

theorem kept_launches (s : State) (l : Store Launch) : ({ s with launches := l } : State).kept = s.kept := rfl

theorem kept_teams (s : State) (l : Store Team) : ({ s with teams := l } : State).kept = s.kept := rfl

theorem kept_sendMsix (s : State) (v n : Nat) : (s.sendMsix v n).kept = s.kept := rfl

theorem kept_onCore (s : State) (k : Nat) (f : Core → Core) : (s.onCore k f).kept = s.kept := rfl

theorem kept_mapTeams (s : State) (f : Nat → Team → Team) : (s.mapTeams f).kept = s.kept :=
  (kept_reload _).trans (kept_flush s)

theorem kept_onHead (s : State) (k : Nat) (f : Head → Head) : (s.onHead k f).kept = s.kept :=
  (kept_reload _).trans (kept_flush s)

theorem kept_scopeError (s : State) (v k scope cause team : Nat) (tpc tval : W64) :
    (s.scopeError v k scope cause team tpc tval).kept = s.kept := kept_onCtx s v k _

theorem kept_scopeDown (s : State) (v k scope n : Nat) : (s.scopeDown v k scope n).kept = s.kept := by
  unfold State.scopeDown
  dsimp only
  split
  · exact (kept_sendMsix _ v 1).trans (kept_onCtx s v k _)
  · exact kept_onCtx s v k _

theorem kept_packetDone (s : State) (v q launch : Nat) : (s.packetDone v q launch).kept = s.kept := by
  unfold State.packetDone
  exact kept_onVf (by intro; rfl) s v

theorem kept_pubCount (s : State) (v : Nat) (p : Option (Nat × Bool)) (up : Bool) : (s.pubCount v p up).kept = s.kept := by
  match p with
  | none => rfl
  | some (k, b) =>
    unfold State.pubCount
    exact kept_onVf (by intro; rfl) s v

theorem kept_teamsGone (s : State) (launch n : Nat) : (s.teamsGone launch n).kept = s.kept := by
  unfold State.teamsGone
  dsimp only
  have hdown := kept_scopeDown s (s.launch launch).vf (s.launch launch).ctx (s.launch launch).scope n
  generalize s.scopeDown (s.launch launch).vf (s.launch launch).ctx (s.launch launch).scope n = u at *
  have hon := (kept_onLaunch u launch fun l => { l with ended := l.ended + n }).trans hdown
  generalize u.onLaunch launch (fun l => { l with ended := l.ended + n }) = w at *
  split
  · split
    · exact (kept_packetDone _ _ _ _).trans ((kept_launches w _).trans hon)
    · exact (kept_launches w _).trans hon
  · exact hon

theorem kept_abortLaunch (s : State) (launch cause team : Nat) (tpc tval : W64) : (s.abortLaunch launch cause team tpc tval).kept = s.kept := by
  unfold State.abortLaunch
  dsimp only
  split
  · rfl
  · split
    · exact (kept_mapTeams _ _).trans ((kept_scopeError ..).trans (kept_onLaunch s launch _))
    · exact (kept_teamsGone ..).trans ((kept_mapTeams _ _).trans ((kept_scopeError ..).trans (kept_onLaunch s launch _)))

theorem kept_resolveGrant (s : State) (core : Nat) : (s.resolveGrant core).kept = s.kept := by
  unfold State.resolveGrant
  dsimp only
  split
  · rfl
  · exact kept_onCore s core _

theorem kept_freeTeam (s : State) (uid : Nat) : (s.freeTeam uid).kept = s.kept := by
  unfold State.freeTeam
  exact (kept_resolveGrant _ _).trans ((kept_onCore _ _ _).trans (kept_teams s _))

theorem kept_stopContext (s : State) (v k cause : Nat) (tval : W64) : (s.stopContext v k cause tval).kept = s.kept := by
  unfold State.stopContext
  dsimp only
  refine (kept_onVf (by intro; rfl) _ v).trans ?_
  refine (foldl_keeps State.kept _ (fun s p => ?_) _ _).trans ?_
  · cases p.scope with
    | none => rfl
    | some scope => exact (kept_scopeDown ..).trans (kept_scopeError ..)
  refine (kept_onCtx ..).trans ((foldl_keeps State.kept _ (fun s p => kept_pubCount s v p false) _ _).trans ?_)
  refine (foldl_keeps State.kept _ (fun s p => ?_) _ _).trans ?_
  · split
    · rfl
    · exact kept_teamsGone ..
  exact (kept_mapTeams ..).trans (foldl_keeps State.kept _ (fun s j => kept_abortLaunch s j cause 0xFFFFFF 0 tval) _ _)

theorem kept_purgeWork (s : State) (v : Nat) : (s.purgeWork v).kept = s.kept :=
  (foldl_keeps State.kept State.freeTeam kept_freeTeam _ _).trans (kept_flush s)

theorem flush_of_idle {s : State} (h : s.cur = {}) : s.flush = s := by
  unfold State.flush
  rw [h]

theorem reload_of_idle {s : State} (h : s.cur = {}) : s.reload = s := by
  unfold State.reload
  rw [h]

theorem onHead_of_idle {s : State} (h : s.cur = {}) (k : Nat) (f : Head → Head) : s.onHead k f = { s with heads := (s.onHead k f).heads } := by
  have heq : s.onHead k f = { s with heads := s.heads.set k (f (s.heads.get {} k)) } := by
    unfold State.onHead
    rw [flush_of_idle h]
    exact reload_of_idle h
  rw [heq]

theorem onHeads_of_idle {s : State} (h : s.cur = {}) (f : Head → Head) (l : List Nat) :
    ∃ t : State, l.foldl (fun s k => s.onHead k f) s = t ∧ t = { s with heads := t.heads } := by
  induction l generalizing s with
  | nil => exact ⟨s, rfl, rfl⟩
  | cons k l ih =>
    have hk := onHead_of_idle h k f
    rw [List.foldl_cons]
    generalize s.onHead k f = u at *
    obtain ⟨t, ht, hframe⟩ := ih (s := u) (by rw [hk]; exact h)
    exact ⟨t, ht, by rw [hframe, hk]⟩

theorem teams_resolveGrant (s : State) (core : Nat) : (s.resolveGrant core).teams = s.teams := by
  unfold State.resolveGrant
  dsimp only
  split <;> rfl

theorem teams_freeTeam (s : State) (u : Nat) : (s.freeTeam u).teams = s.teams.erase u := by
  unfold State.freeTeam
  exact (teams_resolveGrant _ _).trans rfl

/-- Teams that have been freed are gone. -/
theorem teams_freeTeams (l : List Nat) (s : State) (u : Nat) :
    ((l.foldl State.freeTeam s).teams.get {} u : Team) = if u ∈ l then {} else s.teams.get {} u := by
  induction l generalizing s with
  | nil => exact (if_neg List.not_mem_nil).symm
  | cons a l ih =>
    rw [List.foldl_cons, ih, teams_freeTeam, Store.get_erase]
    by_cases ha : u = a <;> by_cases hl : u ∈ l <;> simp [ha, hl]

/-- No work of a VF is left in the package. -/
structure WorkGone (t : State) (v : Nat) : Prop where
  teams : ∀ u, (t.teams.get {} u : Team).live = true → (t.teams.get {} u : Team).vf ≠ v
  launches : ∀ p ∈ t.launches, p.2.vf ≠ v
  colls : ∀ g ∈ t.colls, g.vf ≠ v
  collWait : ∀ c ∈ t.collWait, c.vf ≠ v

theorem ne_of_mem_filter {α : Type} (f : α → Nat) {v : Nat} {l : List α} : ∀ a ∈ l.filter (fun a => f a != v), f a ≠ v :=
  fun _ ha => bne_iff_ne.mp (List.mem_filter.mp ha).2

theorem purgeWork_gone {s : State} (h : s.cur = {}) (v : Nat) : WorkGone (s.purgeWork v) v := by
  refine ⟨fun u => ?_, ne_of_mem_filter (fun p : Nat × Launch => p.2.vf), ne_of_mem_filter (fun g : Coll => g.vf),
    ne_of_mem_filter fun c : CollOp => c.vf⟩
  have hteams : (s.purgeWork v).teams =
      (((s.teams.filter fun (p : Nat × Team) => p.2.vf == v).map (·.1)).foldl State.freeTeam s).teams := by
    unfold State.purgeWork
    dsimp only
    rw [flush_of_idle h]
  rw [hteams, teams_freeTeams]
  split
  · exact nofun
  · next hu =>
    intro hlive hv
    rcases get_mem_or_default {} s.teams u with hmem | hdef
    · exact hu (List.mem_map.mpr ⟨_, List.mem_filter.mpr ⟨hmem, beq_iff_eq.mpr hv⟩, rfl⟩)
    · rw [hdef] at hlive
      exact absurd hlive (by decide)

/-- The state in which a VF's contexts have been stopped and its work removed. -/
def State.purged (s : State) (v : Nat) : State := ((s.contextsOf v).foldl (fun s c => s.stopContext v c causeHostAbort 0) s).purgeWork v

/-- The state in which a VF's slots are emptied and its heads off as well. -/
def State.cleared (s : State) (v : Nat) : State :=
  let s := { s with slots := s.slots.filter fun (p : Nat × RingSlot) => p.2.vf != v }
  ((List.range 16).filter fun k => bit (s.vf v).heads k).foldl (fun s k => s.onHead k fun _ => {}) s

theorem resetVf_eq (s : State) (v : Nat) : s.resetVf v = ((s.purged v).cleared v).onVf v Vf.afterReset := rfl

theorem kept_purged (s : State) (v : Nat) : (s.purged v).kept = s.kept :=
  (kept_purgeWork _ v).trans (foldl_keeps State.kept _ (fun s c => kept_stopContext s v c causeHostAbort 0) _ s)

theorem kept_cleared (s : State) (v : Nat) : (s.cleared v).kept = s.kept :=
  foldl_keeps State.kept _ (fun s k => kept_onHead s k fun _ => {}) _ _

theorem kept_resetVf (s : State) (v : Nat) : (s.resetVf v).kept = s.kept := by
  rw [resetVf_eq]
  exact (kept_onVf (by intro; rfl) _ v).trans ((kept_cleared _ v).trans (kept_purged s v))

theorem cur_of_kept {s t : State} (h : t.kept = s.kept) : t.cur = s.cur := congrArg (fun x => x.2.2.1) h

theorem cleared_gone {s : State} (h : s.cur = {}) {v : Nat} (hgone : WorkGone s v) :
    WorkGone (s.cleared v) v ∧ ∀ p ∈ (s.cleared v).slots, p.2.vf ≠ v := by
  obtain ⟨t, ht, hframe⟩ := onHeads_of_idle (s := { s with slots := s.slots.filter fun (p : Nat × RingSlot) => p.2.vf != v }) h (fun _ => {})
    ((List.range 16).filter fun k => bit (s.vf v).heads k)
  have ht : s.cleared v = t := ht
  rw [ht, hframe]
  exact ⟨⟨hgone.teams, hgone.launches, hgone.colls, hgone.collWait⟩, ne_of_mem_filter fun p : Nat × RingSlot => p.2.vf⟩

theorem purged_gone {s : State} (h : s.cur = {}) (v : Nat) : WorkGone (s.purged v) v :=
  purgeWork_gone ((cur_of_kept (foldl_keeps State.kept _ (fun s c => kept_stopContext s v c causeHostAbort 0) _ s)).trans h) v

/-- A VF's reset ends all its work and keeps what the PF has set (11 R292). -/
theorem resetVf_spec {s : State} (h : s.cur = {}) (v : Nat) :
    WorkGone (s.resetVf v) v ∧ (∀ p ∈ (s.resetVf v).slots, p.2.vf ≠ v)
      ∧ (∀ k, (s.resetVf v).ctx v k = {}) ∧ ((s.resetVf v).vf v).enabled = false := by
  obtain ⟨hgone, hslots⟩ := cleared_gone ((cur_of_kept (kept_purged s v)).trans h) (purged_gone h v)
  have heq := resetVf_eq s v
  generalize (s.purged v).cleared v = u at *
  rw [heq]
  have hvf : (u.onVf v Vf.afterReset).vf v = Vf.afterReset (u.vf v) := (State.vf_onVf u v v _).trans (if_pos rfl)
  refine ⟨⟨hgone.teams, hgone.launches, hgone.colls, hgone.collWait⟩, hslots, fun k => ?_, by rw [hvf]; rfl⟩
  unfold State.ctx
  rw [hvf]
  rfl

theorem vfReset_spec (s : State) (v : Nat) (h : s.cur = {}) :
    ∃ t : State, exec (.vfFunctionLevelReset v) s = .next t ∧ t.mem = s.mem ∧ t.hostMem = s.hostMem
      ∧ ((∀ u, (t.teams.get {} u : Team).live = true → (t.teams.get {} u : Team).vf ≠ v) ∧ (∀ p ∈ t.launches, p.2.vf ≠ v)
        ∧ (∀ p ∈ t.slots, p.2.vf ≠ v) ∧ (∀ g ∈ t.colls, g.vf ≠ v) ∧ (∀ c ∈ t.collWait, c.vf ≠ v))
      ∧ (∀ k, t.ctx v k = {}) ∧ (t.vf v).enabled = false
      ∧ (t.vf v).part = (s.vf v).part ∧ (t.vf v).qCount = (s.vf v).qCount ∧ (t.vf v).heads = (s.vf v).heads ∧ (t.vf v).wdog = (s.vf v).wdog := by
  obtain ⟨⟨hteams, hlaunches, hcolls, hwait⟩, hslots, hctx, hoff⟩ := resetVf_spec h v
  have hkept := kept_resetVf s v
  have hvf : Vf.kept ((s.resetVf v).vf v) = Vf.kept (s.vf v) := congrFun (congrArg (fun x => x.2.2.2) hkept) v
  exact ⟨_, rfl, congrArg (fun x => x.1) hkept, congrArg (fun x => x.2.1) hkept, ⟨hteams, hlaunches, hslots, hcolls, hwait⟩, hctx, hoff,
    congrArg (fun x => x.1) hvf, congrArg (fun x => x.2.1) hvf, congrArg (fun x => x.2.2.1) hvf, congrArg (fun x => x.2.2.2) hvf⟩

/-- A cluster whose power is off (15 R408). -/
def Cluster.unpowered (c : Cluster) : Cluster := { ({} : Cluster) with spares := c.spares, degraded := c.degraded, disabled := c.disabled }

theorem clusterOff_spec (s : State) (cl : Nat) :
    ∃ t : State, s.clusterOff cl = t ∧ t = { s with clusters := t.clusters, cores := t.cores }
      ∧ ClusterIs s t cl (Cluster.unpowered (s.cluster cl)) := by
  obtain ⟨t, ht, hframe, hcluster, -⟩ := unpowerCores_onCluster (nodup_coresOf cl) s cl Cluster.unpowered
  exact ⟨t, ht, hframe, hcluster⟩

/-- The power of each cluster of a list that is on goes off. -/
theorem clustersOff_spec (l : List Nat) (s : State) :
    ∃ t : State, l.foldl (fun s cl => if (s.cluster cl).on then s.clusterOff cl else s) s = t
      ∧ t = { s with clusters := t.clusters, cores := t.cores }
      ∧ ∀ c, c ∈ l ∨ (s.cluster c).on = false → (t.cluster c).on = false := by
  induction l generalizing s with
  | nil => exact ⟨s, rfl, rfl, fun c h => h.resolve_left List.not_mem_nil⟩
  | cons cl l ih =>
    rw [List.foldl_cons]
    by_cases hon : (s.cluster cl).on = true
    · obtain ⟨u, hu, hframe, hother, hself⟩ := clusterOff_spec s cl
      obtain ⟨t, ht, hframe', hoff⟩ := ih u
      rw [if_pos hon, hu]
      refine ⟨t, ht, by rw [hframe', hframe], fun c hc => hoff c ?_⟩
      by_cases h : c = cl
      · right; rw [h, hself]; rfl
      · rw [hother c h]
        exact hc.imp_left fun hm => (List.mem_cons.mp hm).resolve_left h
    · obtain ⟨t, ht, hframe', hoff⟩ := ih s
      rw [if_neg hon]
      refine ⟨t, ht, hframe', fun c hc => hoff c ?_⟩
      rcases hc with hc | hc
      · rcases List.mem_cons.mp hc with rfl | hc
        · exact .inr (Bool.eq_false_iff.mpr hon)
        · exact .inl hc
      · exact .inr hc

/-- A VF that holds nothing. -/
def Vf.released (x : Vf) : Vf := { x with part := 0, qFirst := 0, qCount := 0, heads := 0 }

theorem pfReset_spec (s : State) :
    ∃ t : State, exec .pfFunctionLevelReset s = .next t ∧ t.mem = s.mem ∧ t.hostMem = s.hostMem
      ∧ (∀ v, (t.vf v).part = 0 ∧ (t.vf v).qCount = 0 ∧ (t.vf v).heads = 0) ∧ ∀ c, c < 32 → (t.cluster c).on = false := by
  have hkept := foldl_keeps State.kept State.resetVf kept_resetVf (s.vfs.map fun (p : Nat × Vf) => p.1) s
  obtain ⟨t, ht, hframe, hoff⟩ := clustersOff_spec (List.range 32) ((s.vfs.map fun (p : Nat × Vf) => p.1).foldl State.resetVf s)
  have hexec : exec .pfFunctionLevelReset s = .next { t with vfs := t.vfs.map fun (p : Nat × Vf) => (p.1, Vf.released p.2) } := by
    rw [← ht]
    rfl
  generalize (s.vfs.map fun (p : Nat × Vf) => p.1).foldl State.resetVf s = u at *
  have hmem : t.mem = u.mem := by rw [hframe]
  have hhost : t.hostMem = u.hostMem := by rw [hframe]
  refine ⟨_, hexec, hmem.trans (congrArg (fun x => x.1) hkept), hhost.trans (congrArg (fun x => x.2.1) hkept), fun v => ?_,
    fun c hc => hoff c (.inl (List.mem_range.mpr hc))⟩
  have hvf : Store.get {} (t.vfs.map fun (p : Nat × Vf) => (p.1, Vf.released p.2)) v = Vf.released (t.vf v) :=
    get_map_value ({} : Vf) Vf.released t.vfs v rfl
  exact ⟨congrArg Vf.part hvf, congrArg Vf.qCount hvf, congrArg Vf.heads hvf⟩

/-! ### The obligation -/

/-- Every outcome of bring-up, by the report (00 R16). -/
theorem powerUp_spec (s : State) (r : BringUpReport) (hup : s.bringUpDone = false) (hrec : s.recovery = none) :
    let links := r.linksOk = true ∧ r.failedLinks = []
    (r.firmwareOk = false → BringUpFails r s 1)
    ∧ (r.firmwareOk = true → ¬links → BringUpFails r s 2 ∧ ∃ t, exec (.powerUpBringUp r) s = .next t ∧ t.mailbox = r.failedLinks)
    ∧ (r.firmwareOk = true → links → ¬StacksUp r → BringUpFails r s 3)
    ∧ (r.firmwareOk = true → links → StacksUp r →
      ((∀ c, c < 32 → goodOf r c < 22) → BringUpFails r s 4) ∧ (ClusterUp r s → r.strandsOk = false → BringUpFails r s 5)) :=
  ⟨powerUp_noFirmware hup hrec, powerUp_noLinks hup hrec, powerUp_noStacks hup hrec,
    fun hfw hlinks hstacks => ⟨powerUp_noClusters hup hrec hfw hlinks hstacks, powerUp_noStrands hup hrec hfw hlinks hstacks⟩⟩

/-- Settles O53: each event's outcome, from the lemma that states it. -/
theorem packageEvents : Obligations.PackageEvents := by
  unfold Obligations.PackageEvents
  refine ⟨fun s r => ⟨powerUp_idle s r, fun hup hrec => ?_⟩,
    fun s => ⟨powerRemoval_eq s, fun _ => ⟨junctionShutdown_hot s, junctionShutdown_idle s⟩⟩,
    capWindowEnd_spec,
    fun s k => ⟨clockRatioChange_core s k, clusterPowerOn_idle s k, fun hon hdis hvf => ?_⟩,
    fun s n => ⟨vfEnable_idle s n, vfEnable_enables s n, spdmRequest_answers s, spdmRequest_idle s⟩,
    vfReset_spec, fun s _ => pfReset_spec s, fun s loc _ => ?_,
    fun s => ⟨rfl, fun v => ⟨settleRepair_of_idle, fun j hrun hkey => ⟨fun hleft => ?_,
      settleRepair_of_stopped hrun⟩⟩⟩,
    fun s k bad => ?_⟩
  · obtain ⟨h1, h2, h3, h45⟩ := powerUp_spec s r hup hrec
    exact ⟨h1, h2, h3, fun hfw hlinks hstacks => ⟨(h45 hfw hlinks hstacks).1, (h45 hfw hlinks hstacks).2,
      fun hsome hstrands => powerUp_done hup hrec hfw hlinks hstacks hsome hstrands⟩⟩
  · exact clusterPowerOn_on s k hon hdis hvf
  · exact ⟨fun v k => uncorrectable_context s loc, fun v k => uncorrectable_idle s loc, fun v k => uncorrectable_save s loc,
      fun n _ => loseSlot_idle s loc, fun n _ => ringSlotNoTag_spec s loc n,
      fun n => ⟨fun i => correctedError_die s, fun m within => ⟨correctedError_counts s n m within, correctedError_quarantines s n m within⟩⟩⟩
  · obtain ⟨t, ht, hframe, hplaced⟩ := replaceWaiting_some hkey hleft
    exact ⟨t, settleRepair_of_placed hrun ht, hframe, hplaced⟩
  · refine ⟨runTimeRepair_idle bad, fun hpres hres => ⟨fun p hp hmin => repair_spare bad hpres hres hp hmin,
      fun hs hbad => repair_coprocessors hpres hres hs hbad, fun hs hbad hdeg => ⟨fun hab => shrink_waits hpres hs hbad hdeg hab, fun ha hb => ?_⟩,
      fun hs hbad hdeg hempty => repair_disable hpres hs hbad hdeg hempty⟩, fun hpres hres => ?_⟩
    · obtain ⟨t, hrep, hframe, hmap, hcore, hcluster⟩ := repair_shrink hpres hres hs hbad hdeg ha hb
      exact ⟨t, hrep, hframe, hmap, hcore, hcluster⟩
    · obtain ⟨t, hexec, hmap, hepoch, hquar⟩ := runTimeRepair_waits bad hpres (self_mem_cores _ k) hres
      exact ⟨t, hexec, hquar k (self_mem_cores _ k), hmap, hepoch⟩

end Sys2Proof.Machine

/-! PROOFS. Every step answers (O57) and leaves nothing in focus (O58). -/

namespace Sys2Proof.Machine
open Sys2Proof

/-! ### Every step answers (01 R18) -/

theorem answers_endOut {x : Out} (h : Answers x) : Answers (endOut x) := by
  obtain ⟨t, rfl⟩ := h
  exact answers_next _

/-- What follows an instruction answers where its every continuation does. -/
theorem answers_afterExec (i : Instr) (s : State) {k : State → Out} (hk : ∀ t, Answers (k t)) :
    Answers (match exec i s with | .next t => k t | .fault f => .fault f | .refused r => .refused r) := by
  obtain ⟨t, ht⟩ := exec_answers i s
  simpa only [ht] using hk t

theorem State.runLane_answers (s : State) (i : Instr) : Answers (s.runLane i) := by
  unfold State.runLane
  split
  · split <;> exact answers_next _
  · exact answers_afterExec i _ fun t => answers_ite (answers_next _) (answers_next _)

theorem State.issueLane_answers (s : State) : Answers s.issueLane := by
  unfold State.issueLane
  dsimp only
  split
  · exact answers_next _
  split
  · exact answers_next _
  split
  · exact answers_next _
  split
  · exact State.runLane_answers _ _
  · exact answers_next _

theorem State.turnLane_answers (s : State) : Answers s.turnLane := by
  unfold State.turnLane
  split
  · exact answers_next _
  · exact answers_ite (answers_next _) (answers_next _)
  · exact answers_next _
  · split
    · exact answers_next _
    · exact State.issueLane_answers s

theorem State.laneTurn_answers (s : State) (uid gid : Nat) (b : Bool) : Answers (s.laneTurn uid gid b) := by
  unfold State.laneTurn
  split
  · exact answers_next _
  split
  · exact answers_next _
  · exact answers_ite (answers_next _) (answers_ite (answers_next _) (answers_endOut (State.turnLane_answers _)))

theorem State.turnScalar_answers (s : State) : Answers s.turnScalar := by
  unfold State.turnScalar
  dsimp only
  split
  · exact answers_next _
  · exact answers_next _
  split
  · exact answers_next _
  split
  · exact answers_afterExec _ _ fun t => answers_ite (answers_next _) (answers_next _)
  · exact answers_next _

theorem State.scalarTurn_answers (s : State) (uid : Nat) : Answers (s.scalarTurn uid) := by
  unfold State.scalarTurn
  split
  · exact answers_next _
  · exact answers_ite (answers_endOut (State.turnScalar_answers _)) (answers_next _)

theorem State.turnSequencer_answers (s : State) : Answers s.turnSequencer := by
  unfold State.turnSequencer
  dsimp only
  refine answers_ite (answers_next _) ?_
  split
  · exact answers_ite (answers_next _) (answers_afterExec _ _ fun t => answers_ite (answers_next _) (answers_next _))
  · exact answers_next _

theorem State.sequencerTurn_answers (s : State) (hid : Nat) : Answers (s.sequencerTurn hid) := by
  unfold State.sequencerTurn
  split
  · exact answers_next _
  · exact answers_ite (answers_endOut (State.turnSequencer_answers _)) (answers_next _)

theorem State.take_answers (s : State) (t : Turn) : Answers (s.take t) := by
  unfold State.take
  refine answers_ite (answers_next _) ?_
  cases t with
  | lane uid gid b => exact State.laneTurn_answers s uid gid b
  | scalar uid => exact State.scalarTurn_answers s uid
  | sequencer hid => exact State.sequencerTurn_answers s hid
  | event e => exact answers_ite (answers_endOut (exec_answers e s)) (answers_next _)
  | outside o => exact answers_next _

theorem step_answers (s : State) : Answers (step s) := by
  unfold step
  split
  · exact answers_next _
  · exact State.take_answers _ _

/-- Settles O57: each kind of turn ends in a next state, because every instruction that it may execute does. -/
theorem everyStepAnswers : Obligations.EveryStepAnswers := by
  unfold Obligations.EveryStepAnswers
  exact ⟨exec_answers, step_answers⟩

/-! ### Nothing stays in focus (01 R21, R27) -/

/-- What stands in focus: the place of the stream, and its team, group, fragment and head. -/
def State.inFocus (s : State) : Focus × Team × Group × Fragment × Head := (s.cur, s.team, s.grp, s.frag, s.head)

theorem settled_iff_inFocus {s : State} : s.Settled ↔ s.inFocus = ({}, {}, {}, {}, {}) := by
  simp [State.Settled, State.inFocus]

theorem State.Settled.of_inFocus {s t : State} (h : t.inFocus = s.inFocus) (hs : s.Settled) : t.Settled :=
  settled_iff_inFocus.2 (h.trans (settled_iff_inFocus.1 hs))

theorem State.unfocus_settled (s : State) : s.unfocus.Settled := s.unfocus_focusFields

/-- A change of one team puts nothing in focus. -/
theorem State.onTeam_settled {s : State} (h : s.Settled) (u : Nat) (f : Team → Team) : (s.onTeam u f).Settled := by
  have hc : s.cur.stream = .none := by rw [h.1]
  simp only [State.onTeam, State.flush, State.reload, hc]
  exact h

theorem State.present_inFocus (s : State) : s.present.inFocus = s.inFocus :=
  foldl_keeps State.inFocus _ (fun s p => by split <;> rfl) _ s

theorem State.settleRoutine_inFocus (s : State) (v : Nat) : (s.settleRoutine v).inFocus = s.inFocus := by
  unfold State.settleRoutine
  split
  · rfl
  · split <;> rfl

theorem State.settleRoutines_inFocus (s : State) : s.settleRoutines.inFocus = s.inFocus :=
  foldl_keeps State.inFocus _ State.settleRoutine_inFocus _ s

/-- However a turn went, its end leaves nothing in focus. -/
theorem State.endTurn_settled (s : State) : s.endTurn.Settled := by
  refine State.Settled.of_inFocus ((State.settleRoutines_inFocus _).trans (State.present_inFocus _)) ?_
  split
  · exact State.onTeam_settled s.unfocus_settled _ _
  · exact s.unfocus_settled

theorem endOut_settled {x : Out} {t : State} (h : endOut x = .next t) : t.Settled := by
  cases x with
  | next s =>
    obtain rfl : s.endTurn = t := by injection h
    exact s.endTurn_settled
  | fault f => cases h
  | refused r => cases h

/-- A peer's command changes the collectives of its engine alone. -/
theorem State.collReach_peer (s : State) {c : CollOp} (hp : c.peer = true) : s.collReach c = { s with colls := (s.collReach c).colls } := by
  have hends : s.collEnds c = s := if_pos hp
  unfold State.collReach
  simp only [hends]
  split
  · rfl
  split
  · rfl
  · split
    · split <;> rfl
    · split <;> rfl

theorem State.peerJoin_inFocus (s : State) (v : Nat) (e1 e2 : W32) (part : W64) : (s.peerJoin v e1 e2 part).inFocus = s.inFocus := by
  unfold State.peerJoin
  dsimp only
  split
  · rfl
  · rw [State.collReach_peer _ rfl]
    rfl

theorem State.outside_inFocus (s : State) (o : Outside) : (s.outside o).inFocus = s.inFocus := by
  cases o with
  | linkGroup n =>
    by_cases h : 1 ≤ n ∧ n ≤ 64
    · simp only [State.outside, if_pos h, State.inFocus]
    · simp only [State.outside, if_neg h]
  | mapRank v k d => rfl
  | peerJoin v e1 e2 part => exact s.peerJoin_inFocus v e1 e2 part
  | hostPage page mapped => rfl
  | hostAtomics page complete => rfl

section
variable {s t : State} (hs : s.Settled)
include hs

/-- A turn that passes without effect leaves the settled state as it is. -/
theorem settled_of_passed (h : (.next s : Out) = .next t) : t.Settled := by
  injection h with h
  exact h ▸ hs

theorem State.laneTurn_settled {uid gid : Nat} {b : Bool} (h : s.laneTurn uid gid b = .next t) : t.Settled := by
  unfold State.laneTurn at h
  split at h
  · exact settled_of_passed hs h
  split at h
  · exact settled_of_passed hs h
  split at h
  · exact settled_of_passed hs h
  · dsimp only at h
    split at h
    · injection h with h
      exact h ▸ State.unfocus_settled _
    · exact endOut_settled h

theorem State.scalarTurn_settled {uid : Nat} (h : s.scalarTurn uid = .next t) : t.Settled := by
  unfold State.scalarTurn at h
  split at h
  · exact settled_of_passed hs h
  · split at h
    · exact endOut_settled h
    · exact settled_of_passed hs h

theorem State.sequencerTurn_settled {hid : Nat} (h : s.sequencerTurn hid = .next t) : t.Settled := by
  unfold State.sequencerTurn at h
  split at h
  · exact settled_of_passed hs h
  · split at h
    · exact endOut_settled h
    · exact settled_of_passed hs h

theorem State.take_settled {u : Turn} (h : s.take u = .next t) : t.Settled := by
  unfold State.take at h
  split at h
  · exact settled_of_passed hs h
  cases u with
  | lane uid gid b => exact State.laneTurn_settled hs h
  | scalar uid => exact State.scalarTurn_settled hs h
  | sequencer hid => exact State.sequencerTurn_settled hs h
  | event e =>
    dsimp only at h
    split at h
    · exact endOut_settled h
    · exact settled_of_passed hs h
  | outside o =>
    injection h with h
    exact h ▸ State.Settled.of_inFocus (s.outside_inFocus o) hs
end

/-- Settles O58: a turn that passes changes nothing, what comes from outside touches no copy in focus, and the end of every
other turn ends the focus. -/
theorem settledKept : Obligations.SettledKept := by
  unfold Obligations.SettledKept
  intro s t hs h
  unfold step at h
  split at h
  · exact settled_of_passed hs h
  · next u us _ => exact State.take_settled (s := { s with agenda := us }) hs h

end Sys2Proof.Machine

/-! PROOFS. Packets are taken (O44, 11 R296, R297, R300, R308): readiness, the header that arrives, and each case of PACKET_TAKE. -/

namespace Sys2Proof.Machine
open Sys2Proof

/-! ### Bits and dependences of a packet (11 R298, R300) -/

theorem bits_eq_extractLsb' {w : Nat} (x : BitVec w) (hi lo : Nat) : bits x hi lo = (x.extractLsb' lo (hi + 1 - lo)).toNat :=
  (BitVec.extractLsb'_toNat ..).symm

/-- A dependence is valid where its bit of DEPV is set. -/
theorem pkDepv_bit (ws : List W64) {b : Nat} (hb : b < 2) : pkDepv ws / 2 ^ b % 2 = 1 ↔ (ws.getD 0 0).getLsbD (13 + b) = true := by
  have h : pkDepv ws = (ws.getD 0 0).toNat / 2 ^ 13 % 2 ^ 2 := by
    rw [pkDepv, bits, Nat.shiftRight_eq_div_pow]
    rfl
  rw [h, BitVec.getLsbD, Nat.testBit_eq_decide_div_mod_eq, decide_eq_true_eq]
  obtain rfl | rfl : b = 0 ∨ b = 1 := by omega
  · omega
  · omega

theorem mem_pkDeps (ws : List W64) (d : Nat × Nat) :
    d ∈ pkDeps ws ↔ ∃ b < 2, (ws.getD 0 0).getLsbD (13 + b) = true
      ∧ d = (((ws.getD (5 + b) 0).extractLsb' 0 16).toNat, ((ws.getD (5 + b) 0).extractLsb' 16 48).toNat) := by
  simp only [pkDeps, List.mem_map, List.mem_filter, beq_iff_eq, bits_eq_extractLsb', pkDep, pkWord]
  constructor
  · rintro ⟨b, ⟨hb, hv⟩, rfl⟩
    have hb : b < 2 := by simp at hb; omega
    exact ⟨b, hb, (pkDepv_bit ws hb).1 hv, rfl⟩
  · rintro ⟨b, hb, hv, rfl⟩
    exact ⟨b, ⟨by simp; omega, (pkDepv_bit ws hb).2 hv⟩, rfl⟩

/-- Queue n of a VF. -/
abbrev State.queueOf (s : State) (v n : Nat) : Queue := (s.vf v).queues.get {} n

/-- A packet is ready when SER finds every earlier packet done and each dependence its fence count (11 R296, R300). -/
theorem State.packetReady_iff (s : State) (v n : Nat) (ws : List W64) :
    s.packetReady v n ws = true ↔
      ((ws.getD 0 0).getLsbD 15 = true → ∀ x ∈ (s.queueOf v n).taken, x.done = true)
      ∧ ∀ d ∈ pkDeps ws, (s.vf v).qCount ≤ d.1 ∨ d.2 ≤ ((s.vf v).queues.get {} d.1 : Queue).fence := by
  simp only [State.packetReady, pkSer, bit, pkWord, Bool.and_eq_true, Bool.or_eq_true, Bool.not_eq_true', List.all_eq_true, decide_eq_true_eq,
    ge_iff_le, imp_iff_not_or, Bool.not_eq_true]

/-! ### The header that an arriving packet names (02 R61) -/

theorem bits_mod (a : W64) (k : Nat) : bits a k 0 = a.toNat % 2 ^ (k + 1) := rfl

section
variable {s : State} {v k : Nat} {ws : List W64}

theorem State.packetHeader_none (h : pkKind ws ≠ 1 ∨ (pkHdr ws).toNat % 128 ≠ 0) : s.packetHeader v k ws = (s, none) := by
  refine if_neg fun hc => ?_
  simp only [Bool.and_eq_true, beq_iff_eq, bits_mod] at hc
  obtain h | h := h
  · exact h hc.1.1
  · exact h hc.1.2

section
variable (hkind : pkKind ws = 1) (halign : (pkHdr ws).toNat % 128 = 0) (hcanon : canonical (pkHdr ws) = true)
include hkind halign hcanon

theorem State.packetHeader_seen : s.packetHeader v k ws = s.headerSeen v k (pkHdr ws) :=
  if_pos (by simp only [hkind, hcanon, bits_mod, Bool.and_true, beq_self_eq_true, Bool.true_and, beq_iff_eq]; exact halign)

theorem State.packetHeader_cached {x : Nat} (h : s.hdrCache.lookup (v, k, pkHdr ws) = some x) : s.packetHeader v k ws = (s, some x) := by
  rw [State.packetHeader_seen hkind halign hcanon, State.headerSeen, h]

variable (hmiss : s.hdrCache.lookup (v, k, pkHdr ws) = none)
include hmiss

theorem State.packetHeader_faults {e : Stop} (h : s.loadVa v k { kind := 8 } (pkHdr ws) 128 = .error e) : s.packetHeader v k ws = (s, none) := by
  rw [State.packetHeader_seen hkind halign hcanon, State.headerSeen, hmiss]
  simp only [h]

theorem State.packetHeader_loaded {t : State} {x : Nat} (h : s.loadVa v k { kind := 8 } (pkHdr ws) 128 = .ok (t, x)) (hroom : t.hdrCache.length < 256) :
    s.packetHeader v k ws = ({ t with hdrCache := t.hdrCache ++ [((v, k, pkHdr ws), x)] }, some x) := by
  rw [State.packetHeader_seen hkind halign hcanon, State.headerSeen, hmiss]
  simp only [h, if_pos hroom]
end

/-- Reading a header changes the header cache, and by drains device memory; the entry that leaves a full cache is free. -/
theorem State.headerSeen_frame (s : State) (v k : Nat) (a : W64) :
    (s.headerSeen v k a).1 = { s with
      mem := (s.headerSeen v k a).1.mem, redQueues := (s.headerSeen v k a).1.redQueues,
      hdrCache := (s.headerSeen v k a).1.hdrCache, freeCount := (s.headerSeen v k a).1.freeCount } := by
  unfold State.headerSeen
  split
  · rfl
  split
  · rfl
  · next u x h =>
    have hu := (State.loadVa_next h).1
    by_cases hroom : u.hdrCache.length < 256
    · simp only [if_pos hroom]
      rw [hu]
    · simp only [if_neg hroom]
      rw [hu]
      rfl

theorem State.packetHeader_frame (s : State) (v k : Nat) (ws : List W64) :
    (s.packetHeader v k ws).1 = { s with
      mem := (s.packetHeader v k ws).1.mem, redQueues := (s.packetHeader v k ws).1.redQueues,
      hdrCache := (s.packetHeader v k ws).1.hdrCache, freeCount := (s.packetHeader v k ws).1.freeCount } := by
  unfold State.packetHeader
  split
  · exact s.headerSeen_frame v k _
  · rfl

theorem State.packetHeader_vf (s : State) (v k : Nat) (ws : List W64) (w : Nat) : (s.packetHeader v k ws).1.vf w = s.vf w := by
  unfold State.vf
  rw [State.packetHeader_frame]

theorem State.packetHeader_nextLaunch (s : State) (v k : Nat) (ws : List W64) : (s.packetHeader v k ws).1.nextLaunch = s.nextLaunch := by
  rw [State.packetHeader_frame]
end

/-! ### Changes of one function or one context -/

theorem State.onCtx_vf_ne (s : State) {v w : Nat} (k : Nat) (f : Context → Context) (h : w ≠ v) : (s.onCtx v k f).vf w = s.vf w :=
  (State.vf_onVf s ..).trans (if_neg h)

theorem State.onCtx_vf_self (s : State) (v k : Nat) (f : Context → Context) :
    (s.onCtx v k f).vf v = { s.vf v with ctxs := ((s.onCtx v k f).vf v).ctxs } := by
  rw [show (s.onCtx v k f).vf v = _ from (State.vf_onVf s ..).trans (if_pos rfl)]

theorem ctxIs_onCtx (s : State) (v k : Nat) (f : Context → Context) : CtxIs s (s.onCtx v k f) v k (f (s.ctx v k)) :=
  ⟨fun _ hw => s.onCtx_vf_ne k f hw, s.onCtx_vf_self v k f, fun _ hj => (State.ctx_onCtx ..).trans (if_neg fun h => hj h.2),
    (State.ctx_onCtx ..).trans (if_pos ⟨rfl, rfl⟩)⟩

/-- Changes of one context, one after the other. -/
theorem CtxIs.trans {s t u : State} {v k : Nat} {c d : Context} (h1 : CtxIs s t v k c) (h2 : CtxIs t u v k d) : CtxIs s u v k d := by
  obtain ⟨hw1, hv1, hj1, -⟩ := h1
  obtain ⟨hw2, hv2, hj2, hk2⟩ := h2
  exact ⟨fun w hw => (hw2 w hw).trans (hw1 w hw), by rw [hv2, hv1], fun j hj => (hj2 j hj).trans (hj1 j hj), hk2⟩

/-- A function with its queue n replaced. -/
def Vf.withQueue (f : Vf) (n : Nat) (q : Queue) : Vf := { f with queues := f.queues.set n q }

/-- A queue that stops at a packet (11 R297). -/
def Queue.stop (q : Queue) (pkt cause : Nat) (rfault : Bool) : Queue :=
  { q with stat := BitVec.ofNat 64 (cause * 2 ^ 32 + 2 ^ 31 + (if rfault then 2 ^ 30 else 0) + pkt), head := pkt }

/-- Stopping a queue changes its status and head (11 R297). -/
theorem State.stopQueue_vfIs (s : State) (v n pkt cause : Nat) (rfault : Bool) :
    VfIs s (s.stopQueue v n pkt cause rfault) v ((s.vf v).withQueue n ((s.queueOf v n).stop pkt cause rfault)) :=
  vfIs_onVf s v fun f => f.withQueue n ((s.queueOf v n).stop pkt cause rfault)

/-! ### PACKET_TAKE -/

section
variable {s : State} {v n k : Nat}

theorem packetTake_notRunning (h : s.running v = none) : Idle (.packetTake v n) s := by
  show execPacketTake v n s = .next s
  rw [execPacketTake, h]

variable (hrun : s.running v = some k)
include hrun

theorem packetTake_held (h : (s.ctx v k).phase = .save ∨ ((s.ctx v k).phase = .stop ∧ n < 65536)) : Idle (.packetTake v n) s := by
  show execPacketTake v n s = .next s
  rw [execPacketTake, hrun]
  exact if_pos h

/-- A device packet goes ahead of host packets of no higher PRIO; the stop phase takes it alone (11 R308, R320). -/
theorem packetTake_device {p : Packet} {ps : List Packet} (hph : (s.ctx v k).phase ≠ .save) (hn : 65536 ≤ n) (hq : (s.ctx v k).devq = p :: ps) :
    ((s.ctx v k).phase = .stop ∨ (∀ r ∈ s.readyQueues v k, r.2 ≤ pkPrio p.words) →
      CtxGives (.packetTake v n) s v k { s.ctx v k with devq := ps, checking := (s.ctx v k).checking ++ [p] })
    ∧ ((s.ctx v k).phase ≠ .stop → (∃ r ∈ s.readyQueues v k, pkPrio p.words < r.2) → Idle (.packetTake v n) s) := by
  have hgo : ¬((s.ctx v k).phase = .save ∨ ((s.ctx v k).phase = .stop ∧ n < 65536)) := by
    rintro (h | h)
    · exact hph h
    · omega
  have heq : exec (.packetTake v n) s =
      if (s.ctx v k).phase ≠ .stop ∧ (s.readyQueues v k).any (fun r => decide (r.2 > pkPrio p.words)) = true then .next s
      else .next (s.onCtx v k fun c => { c with devq := ps, checking := c.checking ++ [p] }) := by
    show execPacketTake v n s = _
    simp only [execPacketTake, hrun, if_neg hgo, ge_iff_le, if_pos hn, hq]
  constructor
  · intro h
    refine ⟨_, heq.trans (if_neg ?_), rfl, ctxIs_onCtx s v k _⟩
    rintro ⟨hs, hr⟩
    obtain ⟨r, hr, hlt⟩ := List.any_eq_true.1 hr
    exact absurd (h.resolve_left hs r hr) (by simpa using hlt)
  · rintro hs ⟨r, hr, hlt⟩
    exact heq.trans (if_pos ⟨hs, List.any_eq_true.2 ⟨r, hr, by simpa using hlt⟩⟩)

variable (hph : (s.ctx v k).phase = .none ∨ (s.ctx v k).phase = .grace) (hn : n < 65536)
include hph hn

theorem packetTake_otherContext (hk : (s.queueOf v n).ctx ≠ k) : Idle (.packetTake v n) s := by
  have hgo : ¬((s.ctx v k).phase = .save ∨ ((s.ctx v k).phase = .stop ∧ n < 65536)) := by
    obtain h | h := hph <;> simp [h]
  show execPacketTake v n s = .next s
  simp only [execPacketTake, hrun, if_neg hgo, ge_iff_le, if_neg (Nat.not_le.2 hn), ne_eq, if_pos hk]

/-- What is done with what stands at the head of a queue of the running context. -/
def State.serveHead (s : State) (v n k : Nat) : HeadPacket → State
  | .none => s
  | .fault => s.stopQueue v n (s.queueOf v n).head 0 true
  | .packet ws => if s.packetReady v n ws && s.serves v k n (pkPrio ws) then s.takeHost v n ws else s

theorem packetTake_serves (hk : (s.queueOf v n).ctx = k) :
    exec (.packetTake v n) s = .next (s.serveHead v n k (s.headPacket v n)) := by
  have hgo : ¬((s.ctx v k).phase = .save ∨ ((s.ctx v k).phase = .stop ∧ n < 65536)) := by
    obtain h | h := hph <;> simp [h]
  show execPacketTake v n s = _
  simp only [execPacketTake, hrun, if_neg hgo, ge_iff_le, if_neg (Nat.not_le.2 hn), ne_eq, hk, not_true_eq_false, if_false]
  cases h : s.headPacket v n with
  | none => rfl
  | fault => rfl
  | packet ws =>
    dsimp only [State.serveHead]
    split <;> rfl

/-- A queue that may not be read has nothing at its head (11 R295). -/
theorem packetTake_unreadable
    (h : (s.vf v).qCount ≤ n ∨ (s.queueOf v n).enable = false ∨ (s.queueOf v n).stat.getLsbD 31 = true
      ∨ (s.queueOf v n).head = (s.queueOf v n).tail) : Idle (.packetTake v n) s := by
  by_cases hk : (s.queueOf v n).ctx = k
  · have hhead : s.headPacket v n = .none := by
      refine if_pos ?_
      obtain h | h | h | h := h
      · exact .inl h
      · exact .inr (.inl (by rw [h]; rfl))
      · exact .inr (.inr (.inl h))
      · exact .inr (.inr (.inr (.inl h)))
    exact (packetTake_serves hrun hph hn hk).trans (by rw [hhead]; rfl)
  · exact packetTake_otherContext hrun hph hn hk

variable (hk : (s.queueOf v n).ctx = k)
include hk

/-- A ring that cannot be read stops its queue with RFAULT (11 R297). -/
theorem packetTake_ringFault (h : s.headPacket v n = .fault) :
    ∃ t : State, exec (.packetTake v n) s = .next t ∧ t = { s with vfs := t.vfs, msix := s.msix ++ [(v, 2)] }
      ∧ VfIs s t v ((s.vf v).withQueue n { s.queueOf v n with stat := BitVec.ofNat 64 (3 * 2 ^ 30 + (s.queueOf v n).head) }) :=
  ⟨_, (packetTake_serves hrun hph hn hk).trans (by rw [h, State.serveHead]), rfl, s.stopQueue_vfIs v n _ 0 true⟩

variable {ws : List W64} (hpk : s.headPacket v n = .packet ws)
include hpk

theorem packetTake_notReady (h : s.packetReady v n ws = false) : Idle (.packetTake v n) s :=
  (packetTake_serves hrun hph hn hk).trans (by rw [hpk, State.serveHead, h]; rfl)

theorem packetTake_takes (hready : s.packetReady v n ws = true) (hserve : s.serves v k n (pkPrio ws) = true) :
    exec (.packetTake v n) s = .next (s.takeHost v n ws) :=
  (packetTake_serves hrun hph hn hk).trans (by rw [hpk, State.serveHead, hready, hserve]; rfl)
end

/-! ### What taking a packet does -/

/-- Packets leave a queue from its oldest on, up to the first that has not completed (11 R300). -/
theorem retireTaken_eq (ts : List Taken) (f : Nat) :
    retireTaken ts f = (ts.dropWhile (·.done), f + ((ts.takeWhile (·.done)).filter (·.fence)).length) := by
  induction ts generalizing f with
  | nil => rfl
  | cons t ts ih =>
    cases hd : t.done with
    | false => simp [retireTaken, hd]
    | true => cases hf : t.fence <;> simp [retireTaken, hd, hf, ih, Nat.add_assoc, Nat.add_comm 1]

theorem Queue.retire_eq (q : Queue) :
    q.retire = { q with taken := q.taken.dropWhile (·.done), fence := (q.fence + ((q.taken.takeWhile (·.done)).filter (·.fence)).length) % 2 ^ 48 } := by
  rw [Queue.retire, retireTaken_eq]

/-- With no packet of it completed, no packet of a queue retires. -/
theorem Queue.retire_of_waiting {q : Queue} (h : ∀ x ∈ q.taken, x.done = false) : q.retire = { q with fence := q.fence % 2 ^ 48 } := by
  rw [Queue.retire_eq]
  cases hq : q.taken with
  | nil => rfl
  | cons x xs =>
    have hx : x.done = false := h x (hq ▸ List.mem_cons_self ..)
    simp [hx]

/-- The packet is a marker that completes as it is taken (11 R300). -/
def completesAtOnce (v : Vf) (ws : List W64) : Bool := pkKind ws == 2 && pkMarkerOk ws && (pkDeps ws).all fun d => decide (d.1 < v.qCount)

theorem completesAtOnce_false {v : Vf} {ws : List W64} (h : pkKind ws ≠ 2 ∨ ∃ d ∈ pkDeps ws, v.qCount ≤ d.1) : completesAtOnce v ws = false := by
  rw [Bool.eq_false_iff]
  intro hc
  simp only [completesAtOnce, Bool.and_eq_true, beq_iff_eq, List.all_eq_true, decide_eq_true_eq] at hc
  obtain h | ⟨d, hd, hle⟩ := h
  · exact h hc.1.1
  · exact absurd (hc.2 d hd) (Nat.not_lt.2 hle)

theorem completesAtOnce_true {v : Vf} {ws : List W64} (hkind : pkKind ws = 2) (hok : pkMarkerOk ws = true) (hdeps : ∀ d ∈ pkDeps ws, d.1 < v.qCount) :
    completesAtOnce v ws = true := by
  simp only [completesAtOnce, hkind, hok, beq_self_eq_true, Bool.true_and, List.all_eq_true, decide_eq_true_eq]
  exact hdeps

/-- The queue once a packet has been taken from its head. -/
def Queue.afterTake (q : Queue) (launch : Nat) (fence done : Bool) : Queue :=
  { q with head := (q.head + 1) % 2 ^ q.n, taken := q.taken ++ [{ launch := launch, fence := fence, done := done }] }

theorem Queue.afterTake_retire_waiting {q : Queue} (h : ∀ x ∈ q.taken, x.done = false) (launch : Nat) (fence : Bool) :
    (q.afterTake launch fence false).retire =
      { q with head := (q.head + 1) % 2 ^ q.n, fence := q.fence % 2 ^ 48, taken := q.taken ++ [{ launch := launch, fence := fence }] } := by
  refine Queue.retire_of_waiting fun x hx => ?_
  obtain hx | hx := List.mem_append.1 hx
  · exact h x hx
  · rw [List.mem_singleton.1 hx]

theorem Queue.afterTake_retire_done {q : Queue} (h : q.taken = []) (launch : Nat) (fence : Bool) :
    (q.afterTake launch fence true).retire =
      { q with head := (q.head + 1) % 2 ^ q.n, fence := (q.fence + if fence then 1 else 0) % 2 ^ 48 } := by
  rw [Queue.retire_eq]
  cases fence <;> simp [Queue.afterTake, h]

/-- A function once a packet has been taken from queue n, which is then q. -/
def Vf.afterTake (f : Vf) (n : Nat) (q : Queue) : Vf := { f.withQueue n q with lastQueue := n }

/-- A marker completes as it is taken: it raises no token and needs no check. -/
theorem State.takeHost_marker (s : State) (v n : Nat) {ws : List W64} (h : completesAtOnce (s.vf v) ws = true) :
    s.takeHost v n ws =
      { (s.onVf v fun f => f.afterTake n ((s.queueOf v n).afterTake s.nextLaunch (pkFence ws) true).retire) with
        nextLaunch := s.nextLaunch + 1 } := by
  have hkind : pkKind ws ≠ 1 := by
    intro h1
    simp [completesAtOnce, h1] at h
  have hm : (pkKind ws == 2 && pkMarkerOk ws && (pkDeps ws).all fun d => decide (d.1 < (s.vf v).qCount)) = true := h
  unfold State.takeHost
  simp only [hm, State.packetHeader_none (.inl hkind), Bool.not_true, Bool.false_and, if_true, if_false, Bool.false_eq_true]
  rfl

/-- The packet that goes to the check stage. -/
def State.arriving (s : State) (v n k : Nat) (ws : List W64) : Packet :=
  let q : Queue := (s.vf v).queues.get {} n
  let r := s.packetHeader v k ws
  { words := ws, addr := q.base + BitVec.ofNat 64 (64 * q.head), queue := some (n, q.head), scope := some (pkScope ws), launch := s.nextLaunch,
    seen := r.2, code := r.1.snapshot }

/-- A context of which a packet has raised its token and gone to the check stage. -/
def Context.enterCheck (c : Context) (scope : Nat) (p : Packet) : Context :=
  { c with scopes := c.scopes.set scope { c.scope scope with count := (c.scope scope).count + 1 }, checking := c.checking ++ [p] }

/-- A state in which a packet has left queue n, which is then q, has raised its token and has gone to the check stage. -/
def State.admitted (r : State) (v n k : Nat) (q : Queue) (scope : Nat) (p : Packet) : State :=
  (({ (r.onVf v fun f => f.afterTake n q) with nextLaunch := p.launch + 1 } : State).scopeUp v k scope 1).onCtx v k
    fun c => { c with checking := c.checking ++ [p] }

theorem State.admitted_spec (r : State) (v n k : Nat) (q : Queue) (scope : Nat) (p : Packet) :
    let t := r.admitted v n k q scope p
    t = { r with vfs := t.vfs, nextLaunch := p.launch + 1 }
    ∧ VfIs r t v { (r.vf v).afterTake n q with ctxs := (t.vf v).ctxs }
    ∧ (∀ j, j ≠ k → t.ctx v j = r.ctx v j) ∧ t.ctx v k = (r.ctx v k).enterCheck scope p := by
  intro t
  let x : State := { (r.onVf v fun f => f.afterTake n q) with nextLaunch := p.launch + 1 }
  have hxv : VfIs r x v ((r.vf v).afterTake n q) := vfIs_onVf r v fun f => f.afterTake n q
  have hxc (j : Nat) : x.ctx v j = r.ctx v j := by rw [State.ctx, hxv.2]; rfl
  have hctx : CtxIs x t v k ((r.ctx v k).enterCheck scope p) := by
    rw [← hxc k]
    have hup : CtxIs x (x.scopeUp v k scope 1) v k _ := ctxIs_onCtx x v k _
    have hadd := ctxIs_onCtx (x.scopeUp v k scope 1) v k fun c => { c with checking := c.checking ++ [p] }
    rw [hup.2.2.2] at hadd
    exact hup.trans hadd
  obtain ⟨hw, hv, hj, hself⟩ := hctx
  exact ⟨rfl, ⟨fun w hne => (hw w hne).trans (hxv.1 w hne), by rw [hv, hxv.2]⟩, fun j hne => (hj j hne).trans (hxc j), hself⟩

/-- Any other packet with a host scope raises its token and goes to the check stage (11 R296, R303). -/
theorem State.takeHost_launch (s : State) (v n k : Nat) {ws : List W64} (hk : (s.queueOf v n).ctx = k)
    (h : completesAtOnce (s.vf v) ws = false) (hscope : pkScope ws < 64) :
    s.takeHost v n ws = (s.packetHeader v k ws).1.admitted v n k ((s.queueOf v n).afterTake s.nextLaunch (pkFence ws) false).retire
      (pkScope ws) (s.arriving v n k ws) := by
  subst hk
  have hm : (pkKind ws == 2 && pkMarkerOk ws && (pkDeps ws).all fun d => decide (d.1 < (s.vf v).qCount)) = false := h
  unfold State.takeHost State.admitted State.arriving
  simp only [hm, hscope, decide_true, Bool.not_false, Bool.true_and, if_true, if_false, Bool.false_eq_true]
  rw [State.packetHeader_nextLaunch]
  rfl

end Sys2Proof.Machine

/-! PROOFS. Packets are checked (O44, 01 R28, R29; 02 R60; 11 R297-R299): what a legal packet is, acceptance, and launch faults. -/

namespace Sys2Proof.Machine
open Sys2Proof

/-! ### What a legal packet is -/

/-- The bounds of a legal header (02 R60). -/
theorem headerOk_bounds {raw : Nat} (hok : headerOk raw = true) :
    let h := Header.ofRaw raw
    1 ≤ h.groups ∧ h.groups ≤ 16 ∧ 1 ≤ h.vregs32 ∧ h.vregs32 ≤ 32 ∧ h.rdv ≤ 24
    ∧ h.spad % 128 = 0 ∧ 384 + 32 * h.groups * h.spill ≤ h.spad ∧ h.spad ≤ 786432 ∧ h.recCount ≤ 256 := by
  simp only [headerOk, Bool.and_eq_true, beq_iff_eq, decide_eq_true_eq] at hok
  obtain ⟨⟨⟨⟨⟨⟨⟨⟨⟨⟨⟨⟨⟨⟨⟨⟨⟨⟨-, -⟩, -⟩, -⟩, hrdv⟩, hvregs⟩, hgroups⟩, halign⟩, hspad⟩, -⟩, hrec⟩, -⟩, -⟩, -⟩, -⟩, -⟩, -⟩, -⟩, -⟩ := hok
  refine ⟨hgroups.1, hgroups.2, hvregs.1, hvregs.2, hrdv, halign, ?_, hspad.2, hrec⟩
  calc 384 + 32 * (Header.ofRaw raw).groups * (Header.ofRaw raw).spill
      = 384 + (Header.ofRaw raw).groups * (Header.ofRaw raw).spill * 32 := by ring
    _ ≤ (Header.ofRaw raw).spad := hspad.1

theorem State.coreOf_iff (s : State) (v x : Nat) :
    s.coreOf v x = true ↔ x < 768 ∧ (s.coreMap.get {} x).present = true ∧ (s.vf v).part.getLsbD (x / 24) = true := by
  simp [State.coreOf, clusterOfCore, bit, and_assoc]

/-- Every team of a packet has a core (11 R299). -/
theorem State.placement_length {s : State} {v k : Nat} {ws : List W64} {place : List Nat} (h : s.placement v k ws = some place) :
    place.length = pkTeams ws := by
  unfold State.placement at h
  dsimp only at h
  split at h
  · split at h
    · cases h
    · injection h with h
      rw [← h, List.length_map, List.length_range]
  · split at h
    · cases h
    split at h
    · cases h
    · split at h
      · injection h with h
        rw [← h, List.length_map, List.length_range]
      · cases h

/-- A header that was read as the packet arrived is the one checked (02 R61). -/
theorem State.readHeader_seen {s : State} {v k : Nat} {p : Packet} {raw x : Nat} (h : s.readHeader v k p = some raw) (hx : p.seen = some x) :
    raw = x := by
  unfold State.readHeader at h
  dsimp only at h
  split at h
  · next y _ hy _ =>
    injection h with h
    injection hy.symm.trans hx with hyx
    exact h.symm.trans hyx
  · split at h
    · cases h
    · injection h with h
      rw [← h, hx]
      rfl

/-- The spans of a placement. -/
def spansOf (sp : Nat) (place : List Nat) : List (List Nat) :=
  if sp = 0 then [] else (List.range (place.length / sp)).map fun k => (place.drop (k * sp)).take sp

/-- A header and a placement that R29 refuses. -/
def State.refuses (s : State) (v sp raw : Nat) (place : List Nat) : Bool :=
  let h := Header.ofRaw raw
  !headerOk raw || !decide (h.regs ≤ 2048) || !(place.all fun c => s.coreOf v c) || !(spansOf sp place).all (spanOk h)

/-- Every core of a placement has the features that a header requires. -/
def State.featured (s : State) (h : Header) (place : List Nat) : Bool :=
  place.all fun c => (h.featMask &&& ~~~((s.feat0 c).zeroExtend 128)) == 0

theorem State.check_eq {s : State} {v k : Nat} {p : Packet} {raw : Nat} {place : List Nat} (hfields : launchFieldsOk (s.vf v) p = true)
    (hraw : s.readHeader v k p = some raw) (hplace : s.placement v k p.words = some place) :
    s.check v k p = if s.refuses v (pkSpan p.words) raw place then (s, .illegal)
      else if s.featured (Header.ofRaw raw) place then (s, .legal (Header.ofRaw raw) place) else (s, .mismatch) := by
  simp only [State.check, hfields, hraw, hplace, Bool.not_true, Bool.false_eq_true, if_false]
  rfl

/-- What the check of R29 has found of a packet that is legal. -/
structure LegalPacket (s : State) (v k : Nat) (p : Packet) (h : Header) (place : List Nat) : Prop where
  fields : launchFieldsOk (s.vf v) p = true
  header : ∃ raw, s.readHeader v k p = some raw ∧ headerOk raw = true ∧ h = Header.ofRaw raw
  regs : h.regs ≤ 2048
  placed : s.placement v k p.words = some place
  cores : ∀ x ∈ place, s.coreOf v x = true
  features : s.featured h place = true

theorem State.check_legal {s t : State} {v k : Nat} {p : Packet} {h : Header} {place : List Nat} (hc : s.check v k p = (t, .legal h place)) :
    t = s ∧ LegalPacket s v k p h place := by
  by_cases hfields : launchFieldsOk (s.vf v) p = true
  · cases hraw : s.readHeader v k p with
    | none => simp [State.check, hfields, hraw] at hc
    | some raw =>
      cases hplace : s.placement v k p.words with
      | none => simp [State.check, hfields, hraw, hplace] at hc
      | some ps =>
        rw [State.check_eq hfields hraw hplace] at hc
        split at hc
        · cases hc
        next hok =>
        split at hc
        next hfeat =>
          cases hc
          simp only [State.refuses, Bool.or_eq_true, Bool.not_eq_true', not_or, Bool.not_eq_false, decide_eq_true_eq, List.all_eq_true] at hok
          obtain ⟨⟨⟨hok, hregs⟩, hcores⟩, -⟩ := hok
          exact ⟨rfl, hfields, ⟨raw, hraw, hok, rfl⟩, hregs, hplace, hcores, hfeat⟩
        · cases hc
  · simp [State.check, hfields] at hc

namespace LegalPacket
variable {s : State} {v k : Nat} {p : Packet} {h : Header} {place : List Nat} (hl : LegalPacket s v k p h place)
include hl

theorem seen {x : Nat} (hx : p.seen = some x) : h = Header.ofRaw x := by
  obtain ⟨raw, hraw, -, rfl⟩ := hl.header
  rw [State.readHeader_seen hraw hx]

theorem bounds : 1 ≤ h.groups ∧ h.groups ≤ 16 ∧ 1 ≤ h.vregs32 ∧ h.vregs32 ≤ 32 ∧ h.rdv ≤ 24
    ∧ h.spad % 128 = 0 ∧ 384 + 32 * h.groups * h.spill ≤ h.spad ∧ h.spad ≤ 786432 ∧ h.recCount ≤ 256 := by
  obtain ⟨raw, -, hok, rfl⟩ := hl.header
  exact headerOk_bounds hok

theorem teams : 1 ≤ pkTeams p.words := by
  have hf := hl.fields
  simp only [launchFieldsOk, Bool.and_eq_true, decide_eq_true_eq] at hf
  obtain ⟨⟨⟨⟨⟨-, hteams⟩, -⟩, -⟩, -⟩, -⟩ := hf
  exact hteams

/-- Each of its cores is a present core of the function's partition. -/
theorem core {x : Nat} (hx : x ∈ place) : x < 768 ∧ (s.coreMap.get {} x).present = true ∧ (s.vf v).part.getLsbD (x / 24) = true :=
  (s.coreOf_iff v x).1 (hl.cores x hx)

/-- Every required feature bit below 16 is one of each of its cores. -/
theorem feature {x b : Nat} (hx : x ∈ place) (hb : b < 16) (hm : h.featMask.getLsbD b = true) : (s.feat0 x).getLsbD b = true := by
  have hz := congrArg (fun m : BitVec 128 => m.getLsbD b) (beq_iff_eq.1 (List.all_eq_true.1 hl.features x hx))
  have h128 : b < 128 := by omega
  simpa [hm, h128] using hz
end LegalPacket

/-! ### LAUNCH_CHECK -/

section
variable {s : State} {v k : Nat}

theorem launchCheck_idle (h : (s.ctx v k).checking = []) : Idle (.launchCheck v k) s := by
  show execLaunchCheck v k s = .next s
  rw [execLaunchCheck, h]

/-- The state in which the oldest taken packet of a context is checked: it has left the check stage. -/
def State.unqueued (s : State) (v k : Nat) (ps : List Packet) : State := s.onCtx v k fun c => { c with checking := ps }

/-- What the check's finding does (01 R28, R29). -/
def State.found (s : State) (v k : Nat) (p : Packet) : Checked → State
  | .legal h place => s.accept v k p h place
  | .illegal => s.launchFault v k p causeLaunch
  | .mismatch => s.launchFault v k p causeFeature

theorem launchCheck_checks {p : Packet} {ps : List Packet} (hq : (s.ctx v k).checking = p :: ps) (hm : pkKind p.words ≠ 2 ∨ p.queue.isSome = true)
    {t : State} {c : Checked} (hc : (s.unqueued v k ps).check v k p = (t, c)) : exec (.launchCheck v k) s = .next (t.found v k p c) := by
  have hno : (p.queue.isNone && pkKind p.words == 2 && pkMarkerOk p.words && !pkSer p.words && pkDepv p.words == 0 && !pkFence p.words) = false := by
    obtain h | h := hm
    · simp [h]
    · cases hq : p.queue with
      | none => simp [hq] at h
      | some x => rfl
  show execLaunchCheck v k s = _
  simp only [execLaunchCheck, hq, hno, Bool.false_eq_true, if_false]
  rw [State.unqueued] at hc
  rw [hc]
  cases c <;> rfl
end

/-! ### Acceptance (11 R301, R303) -/

/-- The launch that acceptance makes of a packet. -/
def acceptedLaunch (v k order : Nat) (p : Packet) (h : Header) (place : List Nat) : Launch :=
  { vf := v, ctx := k, hdr := h, args := pkArgs p.words, teams := pkTeams p.words, span := pkSpan p.words, prio := pkPrio p.words,
    scope := p.scope.getD 0, queue := p.queue.map (·.1), place := place, waiting := List.range (pkTeams p.words), order := order, code := some p.code }

/-- The scope of an accepted packet counts its teams in place of its token. -/
def Context.countTeams (c : Context) (p : Packet) : Context :=
  c.onScope (p.scope.getD 0) fun x => { x with count := x.count + (pkTeams p.words - 1) }

theorem State.accept_spec (s : State) (v k : Nat) (p : Packet) (h : Header) (place : List Nat) :
    let t := s.accept v k p h place
    t = { s with vfs := t.vfs, launches := t.launches, nextLaunch := s.nextLaunch + 1 }
    ∧ CtxIs s t v k ((s.ctx v k).countTeams p)
    ∧ (∀ j, j ≠ p.launch → t.launch j = s.launch j) ∧ t.launch p.launch = acceptedLaunch v k s.nextLaunch p h place :=
  ⟨rfl, ctxIs_onCtx s v k fun c => c.countTeams p, fun _ hj => Store.get_set_ne _ _ _ hj, Store.get_set_self ..⟩

/-! ### Launch faults (11 R297, R303, R306) -/

theorem State.scopeDown_launches (s : State) (v k scope n : Nat) : (s.scopeDown v k scope n).launches = s.launches := by
  unfold State.scopeDown
  dsimp only
  split <;> rfl

/-- A launch fault of a host packet stops its queue at it. -/
theorem State.launchFault_host (s : State) (v k : Nat) {p : Packet} (cause : Nat) {n i : Nat} (hq : p.queue = some (n, i)) :
    let t := s.launchFault v k p cause
    t.msix.getLast? = some (v, 2) ∧ t.launches = s.launches
    ∧ (t.queueOf v n).stat = BitVec.ofNat 64 (cause * 2 ^ 32 + 2 ^ 31 + i) ∧ (t.queueOf v n).head = i := by
  intro t
  obtain ⟨u, f, ht, hu⟩ : ∃ (u : State) (f : Vf → Vf), t = (u.onVf v f).stopQueue v n i cause false ∧ u.launches = s.launches := by
    unfold t State.launchFault
    rw [hq]
    refine ⟨_, _, rfl, ?_⟩
    split
    · exact State.scopeDown_launches ..
    · rfl
  have hstop := (u.onVf v f).stopQueue_vfIs v n i cause false
  have hget : t.queueOf v n = ((u.onVf v f).queueOf v n).stop i cause false := by
    rw [State.queueOf, ht, hstop.2]
    exact Store.get_set_self ..
  rw [hget]
  exact ⟨by rw [ht]; show ((u.onVf v f).msix ++ [(v, 2)]).getLast? = _; exact List.getLast?_concat, by rw [ht]; exact hu, by simp [Queue.stop], rfl⟩

end Sys2Proof.Machine

/-! PROOFS. Teams start (O44, 01 R23, R30; 03 R66; 11 R301, R323): where a window lies, the launch values, and spans. -/

namespace Sys2Proof.Machine
open Sys2Proof

/-! ### Where a window lies (07 R173) -/

theorem foldl_max_mem {l : List Nat} (h : l ≠ []) : l.foldl max 0 ∈ l := by
  cases l with
  | nil => exact absurd rfl h
  | cons x xs =>
    have hm : (x :: xs).max? = some (xs.foldl max x) := List.max?_cons'
    rw [List.foldl_cons, Nat.zero_max]
    exact List.max?_mem hm

/-- Where a place exists, one that leaves the longest run does. -/
theorem placesFor_ne_nil {occ : List (Nat × Nat)} {n : Nat} (h : offsetsFor occ n ≠ []) : placesFor occ n ≠ [] := by
  have hm := foldl_max_mem (l := (offsetsFor occ n).map fun o => largestHole ((o, n) :: occ)) (by simpa using h)
  obtain ⟨o, ho, hbest⟩ := List.mem_map.1 hm
  have : o ∈ placesFor occ n := List.mem_filter.2 ⟨ho, beq_iff_eq.2 hbest⟩
  exact List.ne_nil_of_mem this

/-- A place for n bytes lies in the slice, beside every window. -/
theorem mem_placesFor {occ : List (Nat × Nat)} {n o : Nat} (h : o ∈ placesFor occ n) :
    o + n ≤ 786432 ∧ ∀ w ∈ occ, o + n ≤ w.1 ∨ w.1 + w.2 ≤ o := by
  have ho : o ∈ offsetsFor occ n := List.mem_of_mem_filter h
  simp only [offsetsFor, List.mem_dedup, List.mem_filter, Bool.and_eq_true, List.all_eq_true, decide_eq_true_eq] at ho
  exact ho.2

/-- The team is resident on the core. -/
def Team.on (t : Team) (core : Nat) : Bool := t.live && t.core == core

/-- The bytes of the windows of a core. -/
def spadOn (core : Nat) (ts : Store Team) : Nat := ((ts.filter fun p => p.2.on core).map fun p => p.2.hdr.spad).sum

section
variable {core : Nat} (o u : Nat) {t : Team} (ts : Store Team)

theorem gatherFrom_on (h : t.on core = true) :
    gatherFrom core o ((u, t) :: ts) =
      ((u, { t with winBase := o }) :: (gatherFrom core (o + t.hdr.spad) ts).1, (gatherFrom core (o + t.hdr.spad) ts).2) :=
  if_pos h

theorem gatherFrom_off (h : ¬t.on core = true) :
    gatherFrom core o ((u, t) :: ts) = ((u, t) :: (gatherFrom core o ts).1, (gatherFrom core o ts).2) :=
  if_neg h

theorem spadOn_on (h : t.on core = true) : spadOn core ((u, t) :: ts) = t.hdr.spad + spadOn core ts := by simp [spadOn, h]
theorem spadOn_off (h : ¬t.on core = true) : spadOn core ((u, t) :: ts) = spadOn core ts := by simp [spadOn, h]
end

theorem gatherFrom_end (core o : Nat) (ts : Store Team) : (gatherFrom core o ts).2 = o + spadOn core ts := by
  induction ts generalizing o with
  | nil => rfl
  | cons p ts ih =>
    obtain ⟨u, t⟩ := p
    by_cases h : t.on core = true
    · rw [gatherFrom_on o u ts h, spadOn_on u ts h, ih, Nat.add_assoc]
    · rw [gatherFrom_off o u ts h, spadOn_off u ts h, ih]

/-- Gathered windows end before the end of the last. -/
theorem gatherFrom_within {core o u : Nat} {ts : Store Team} {y : Team} (hy : (u, y) ∈ (gatherFrom core o ts).1) (hon : y.on core = true) :
    y.winBase + y.hdr.spad ≤ o + spadOn core ts := by
  induction ts generalizing o with
  | nil => exact absurd hy List.not_mem_nil
  | cons p ts ih =>
    obtain ⟨w, t⟩ := p
    by_cases h : t.on core = true
    · rw [gatherFrom_on o w ts h] at hy
      rw [spadOn_on w ts h, ← Nat.add_assoc]
      obtain hy | hy := List.mem_cons.1 hy
      · obtain rfl : y = { t with winBase := o } := (Prod.ext_iff.1 hy).2
        exact Nat.le_add_right ..
      · exact ih hy
    · rw [gatherFrom_off o w ts h] at hy
      rw [spadOn_off w ts h]
      obtain hy | hy := List.mem_cons.1 hy
      · exact absurd (congrArg (fun p : Nat × Team => p.2.on core) hy ▸ hon) h
      · exact ih hy

/-- A team whose window alone may have moved. -/
def Moved (x y : Team) : Prop := y = { x with winBase := y.winBase }

theorem Moved.refl (x : Team) : Moved x x := rfl

theorem Moved.trans {x y z : Team} (h1 : Moved x y) (h2 : Moved y z) : Moved x z := by
  unfold Moved at *
  rw [h2, h1]

/-- Tables whose first entries have one key read alike at it, and elsewhere as their rests do. -/
theorem moved_cons {w u : Nat} {x y : Team} {ts us : Store Team} (hxy : Moved x y) (h : Moved (ts.get {} u) (us.get {} u)) :
    Moved (Store.get {} ((w, x) :: ts) u) (Store.get {} ((w, y) :: us) u) := by
  unfold Store.get
  by_cases hw : w = u
  · rwa [if_pos hw, if_pos hw]
  · rw [if_neg hw, if_neg hw]
    split
    · rfl
    · exact h

theorem gatherFrom_moved (core o : Nat) (ts : Store Team) (u : Nat) : Moved (ts.get {} u) ((gatherFrom core o ts).1.get {} u) := by
  induction ts generalizing o with
  | nil => rfl
  | cons p ts ih =>
    obtain ⟨w, t⟩ := p
    by_cases h : t.on core = true
    · rw [gatherFrom_on o w ts h]
      exact moved_cons rfl (ih _)
    · rw [gatherFrom_off o w ts h]
      exact moved_cons rfl (ih _)

/-- A resident team that a table gives is listed in it. -/
theorem mem_of_get_on {ts : Store Team} {u core : Nat} (h : (ts.get {} u).on core = true) : (u, ts.get {} u) ∈ ts := by
  obtain hm | hd := get_mem_or_default {} ts u
  · exact hm
  · rw [hd] at h
    cases h

/-- With no place free, the windows of the core are gathered. -/
theorem State.placeWindow_gathers {s : State} {core n : Nat} (h : placesFor (s.windowsOf core) n = []) :
    s.placeWindow core n = ({ s with freeCount := s.freeCount + 1, teams := (gatherFrom core 0 s.teams).1 }, spadOn core s.teams) := by
  have h' : placesFor ((s.free 13).1.windowsOf core) n = [] := h
  have hend : (gatherFrom core 0 s.teams).2 = spadOn core s.teams := (gatherFrom_end core 0 s.teams).trans (Nat.zero_add _)
  rw [← hend]
  simp only [State.placeWindow, h']
  rfl

/-- Otherwise a free value chooses among the places. -/
theorem State.placeWindow_chooses {s : State} {core n : Nat} (h : placesFor (s.windowsOf core) n ≠ []) :
    ∃ o ∈ placesFor (s.windowsOf core) n, s.placeWindow core n = ({ s with freeCount := s.freeCount + 1 }, o) := by
  obtain ⟨o, os, hos⟩ := List.exists_cons_of_ne_nil h
  have hos' : placesFor ((s.free 13).1.windowsOf core) n = o :: os := hos
  refine ⟨(o :: os).getD ((s.free 13).2.toNat % (os.length + 1)) o, ?_, by simp only [State.placeWindow, hos']; rfl⟩
  rw [hos, List.getD_eq_getElem _ _ (by simpa using Nat.mod_lt _ (Nat.succ_pos _))]
  exact List.getElem_mem _

/-- What choosing a place leaves: a free value taken, and windows of the core moved. -/
theorem State.placeWindow_frame (s : State) (core n : Nat) :
    (s.placeWindow core n).1 = { s with freeCount := s.freeCount + 1, teams := (s.placeWindow core n).1.teams } := by
  by_cases h : placesFor (s.windowsOf core) n = []
  · rw [State.placeWindow_gathers h]
  · obtain ⟨o, -, heq⟩ := State.placeWindow_chooses h
    rw [heq]

theorem State.placeWindow_moved (s : State) (core n u : Nat) : Moved (s.teams.get {} u) ((s.placeWindow core n).1.teams.get {} u) := by
  by_cases h : placesFor (s.windowsOf core) n = []
  · rw [State.placeWindow_gathers h]
    exact gatherFrom_moved core 0 s.teams u
  · obtain ⟨o, -, heq⟩ := State.placeWindow_chooses h
    rw [heq]
    exact Moved.refl _

theorem State.placeWindow_stays {s : State} {core n : Nat} (h : offsetsFor (s.windowsOf core) n ≠ []) :
    (s.placeWindow core n).1.teams = s.teams := by
  obtain ⟨o, -, heq⟩ := State.placeWindow_chooses (placesFor_ne_nil h)
  rw [heq]

/-- The place of a window that a core can hold lies in the slice, beside every other window of the core. -/
theorem State.placeWindow_place {s : State} {core n : Nat} (hfit : spadOn core s.teams + n ≤ 786432) :
    let r := s.placeWindow core n
    r.2 + n ≤ 786432
    ∧ ∀ u, (r.1.teams.get {} u).on core = true →
        r.2 + n ≤ (r.1.teams.get {} u).winBase ∨ (r.1.teams.get {} u).winBase + (r.1.teams.get {} u).hdr.spad ≤ r.2 := by
  by_cases h : placesFor (s.windowsOf core) n = []
  · rw [State.placeWindow_gathers h]
    refine ⟨hfit, fun u hu => .inr ?_⟩
    have hle := gatherFrom_within (mem_of_get_on hu) hu
    rwa [Nat.zero_add] at hle
  · obtain ⟨o, ho, heq⟩ := State.placeWindow_chooses h
    rw [heq]
    obtain ⟨hin, hbeside⟩ := mem_placesFor ho
    refine ⟨hin, fun u hu => ?_⟩
    have hres : (u, s.teams.get {} u) ∈ s.residents core := List.mem_filter.2 ⟨mem_of_get_on hu, hu⟩
    exact hbeside _ (List.mem_map.2 ⟨_, hres, rfl⟩)

/-! ### The launch values of a team (03 R66, R68) -/

theorem lookup_map_range {α : Type} (f : Nat → α) {n g : Nat} (h : g < n) : ((List.range n).map fun g => (g, f g)).lookup g = some (f g) := by
  induction n with
  | zero => exact absurd h (Nat.not_lt_zero g)
  | succ n ih =>
    rw [List.range_succ, List.map_append, List.lookup_append]
    by_cases hg : g < n
    · rw [ih hg]
      rfl
    · obtain rfl : g = n := by omega
      have hnone : ((List.range g).map fun g => (g, f g)).lookup g = none := by
        rw [List.lookup_eq_none_iff]
        intro p hp
        obtain ⟨j, hj, rfl⟩ := List.mem_map.1 hp
        have := List.mem_range.1 hj
        simp; omega
      simp [hnone]

/-- The launch values of group g in a residency slot. -/
def launchGroup (h : Header) (g slot : Nat) : Group :=
  { gid := g, role := h.roleMap.toNat / 16 ^ g % 16, vcount := 32 * h.vregs32, slot := slot,
    slotA := { valid := true, pc := h.laneEntry, mask := BitVec.allOnes 96 } }

theorem newGroup_eq (h : Header) (g slot : Nat) : newGroup h g slot = launchGroup h g slot := by
  have hrole : bits h.roleMap (4 * g + 3) (4 * g) = h.roleMap.toNat / 16 ^ g % 16 := by
    rw [bits, Nat.shiftRight_eq_div_pow, pow_mul, show 4 * g + 3 + 1 - 4 * g = 4 by omega]
    rfl
  rw [newGroup, hrole]
  rfl

/-- Team i of launch k, as it stands on its core after its start: every field but the place of its window and the slots of its groups. -/
structure Launched (perf k : Nat) (l : Launch) (i core : Nat) (x : Team) : Prop where
  fields : x = { live := true, vf := l.vf, ctx := l.ctx, launch := k, core := core, index := i, teams := l.teams, span := l.span, prio := l.prio,
                 hdr := l.hdr, winBase := x.winBase, spc := l.hdr.scalarEntry, perfReq := perf,
                 s := [(1, l.args), (2, l.hdr.recTab), (3, BitVec.ofNat 64 i), (4, BitVec.ofNat 64 l.teams)], groups := x.groups }
  length : x.groups.length = l.hdr.groups
  groups : ∀ g, g < l.hdr.groups → ∃ slot, x.groups.lookup g = some (launchGroup l.hdr g slot)

theorem Launched.moved {perf k i core : Nat} {l : Launch} {x y : Team} (h : Launched perf k l i core x) (hm : Moved x y) : Launched perf k l i core y := by
  have hg : y.groups = x.groups := by rw [hm]
  refine ⟨?_, by rw [hg]; exact h.length, by rw [hg]; exact h.groups⟩
  rw [hg, hm, h.fields]

/-! ### One team starts -/

theorem State.resolveGrant_frame (s : State) (core : Nat) : s.resolveGrant core = { s with cores := (s.resolveGrant core).cores } := by
  unfold State.resolveGrant
  dsimp only
  split <;> rfl

/-- Team i of launch k with its window at base and its groups in the slots. -/
def Launch.team (l : Launch) (perf k i core base : Nat) (slots : List Nat) : Team :=
  { live := true, vf := l.vf, ctx := l.ctx, launch := k, core := core, index := i, teams := l.teams, span := l.span,
    prio := l.prio, hdr := l.hdr, winBase := base, spc := l.hdr.scalarEntry, perfReq := perf,
    s := [(1, l.args), (2, l.hdr.recTab), (3, BitVec.ofNat 64 i), (4, BitVec.ofNat 64 l.teams)],
    groups := (List.range l.hdr.groups).map fun g => (g, newGroup l.hdr g (slots.getD g 0)) }

theorem Launch.team_launched (l : Launch) (perf k i core base : Nat) (slots : List Nat) :
    Launched perf k l i core (l.team perf k i core base slots) :=
  ⟨rfl, by simp [Launch.team], fun g hg => ⟨slots.getD g 0, by rw [Launch.team, lookup_map_range _ hg, newGroup_eq]⟩⟩

/-- Launch k after team i of it has started. -/
def Launch.starts (l : Launch) (i : Nat) : Launch := { l with waiting := l.waiting.filter (· != i) }

/-- A state in which a place for a window has been chosen, with the team listed there under the next name. -/
def State.listed (r : State) (k i core : Nat) (x : Team) : State :=
  ({ (r.onLaunch k fun l => l.starts i) with teams := r.teams.set r.nextTeam x, nextTeam := r.nextTeam + 1 } : State).resolveGrant core

theorem State.startTeam_eq (s : State) (k i core : Nat) :
    let l := s.launch k
    let r := s.placeWindow core l.hdr.spad
    s.startTeam k i core = r.1.listed k i core (l.team (s.vf l.vf).perfDef k i core r.2 (r.1.freeSlots core)) := by
  intro l r
  have hvf (v : Nat) : r.1.vf v = s.vf v := by rw [State.vf, s.placeWindow_frame core l.hdr.spad]; rfl
  rw [← hvf]
  rfl

theorem State.listed_frame (r : State) (k i core : Nat) (x : Team) :
    r.listed k i core x = { r with
      teams := r.teams.set r.nextTeam x, nextTeam := r.nextTeam + 1, launches := (r.onLaunch k fun l => l.starts i).launches,
      cores := (r.listed k i core x).cores } :=
  State.resolveGrant_frame _ core

/-- What the start of team i of launch k on a core leaves. -/
structure Starts (s t : State) (k i core : Nat) : Prop where
  frame : t = { s with freeCount := s.freeCount + 1, teams := t.teams, nextTeam := s.nextTeam + 1, launches := t.launches, cores := t.cores }
  others : ∀ u, u ≠ s.nextTeam → Moved (s.teams.get {} u) (t.teams.get {} u)
  team : Launched (s.vf (s.launch k).vf).perfDef k (s.launch k) i core (t.teams.get {} s.nextTeam)
  launch : t.launch k = (s.launch k).starts i
  launches : ∀ j, j ≠ k → t.launch j = s.launch j

section
variable (s : State) (k i core : Nat)

theorem State.startTeam_teams : (s.startTeam k i core).teams =
    (s.placeWindow core (s.launch k).hdr.spad).1.teams.set s.nextTeam
      ((s.launch k).team (s.vf (s.launch k).vf).perfDef k i core (s.placeWindow core (s.launch k).hdr.spad).2
        ((s.placeWindow core (s.launch k).hdr.spad).1.freeSlots core)) := by
  have hnext : (s.placeWindow core (s.launch k).hdr.spad).1.nextTeam = s.nextTeam := by rw [State.placeWindow_frame]
  rw [State.startTeam_eq, State.listed_frame, hnext]

theorem State.startTeam_starts : Starts s (s.startTeam k i core) k i core := by
  have hframe := s.placeWindow_frame core (s.launch k).hdr.spad
  have hteams := s.startTeam_teams k i core
  have heq := s.startTeam_eq k i core
  dsimp only at heq
  have hmoved := s.placeWindow_moved core (s.launch k).hdr.spad
  generalize s.placeWindow core (s.launch k).hdr.spad = r at *
  have hlaunch (j : Nat) : (s.startTeam k i core).launch j = if j = k then (s.launch k).starts i else s.launch j := by
    rw [heq, State.listed_frame, hframe]
    exact State.launch_onLaunch s k j fun l => l.starts i
  refine ⟨?_, fun u hu => ?_, ?_, by rw [hlaunch, if_pos rfl], fun j hj => by rw [hlaunch, if_neg hj]⟩
  · rw [heq, State.listed_frame, hframe]
  · rw [hteams, Store.get_set_ne _ _ _ hu]
    exact hmoved u
  · rw [hteams, Store.get_set_self]
    exact Launch.team_launched ..

/-- Where the core can hold the window of the team that starts, it lies in the slice, beside every other; others move only where no
place is free. -/
theorem State.startTeam_window (hfit : spadOn core s.teams + (s.launch k).hdr.spad ≤ 786432) :
    let t := s.startTeam k i core
    let x := t.teams.get {} s.nextTeam
    x.winBase + (s.launch k).hdr.spad ≤ 786432
    ∧ (∀ u, u ≠ s.nextTeam → (t.teams.get {} u).on core = true →
        x.winBase + (s.launch k).hdr.spad ≤ (t.teams.get {} u).winBase ∨ (t.teams.get {} u).winBase + (t.teams.get {} u).hdr.spad ≤ x.winBase)
    ∧ (offsetsFor (s.windowsOf core) (s.launch k).hdr.spad ≠ [] → ∀ u, u ≠ s.nextTeam → t.teams.get {} u = s.teams.get {} u) := by
  intro t x
  obtain ⟨hin, hbeside⟩ := State.placeWindow_place hfit
  have hteams : t.teams = _ := s.startTeam_teams k i core
  have hx : x.winBase = (s.placeWindow core (s.launch k).hdr.spad).2 := by
    unfold x
    rw [hteams, Store.get_set_self]
    rfl
  refine ⟨hx ▸ hin, fun u hu hon => ?_, fun hfree u hu => ?_⟩
  · rw [hx]
    rw [hteams, Store.get_set_ne _ _ _ hu] at hon ⊢
    exact hbeside u hon
  · rw [hteams, Store.get_set_ne _ _ _ hu, State.placeWindow_stays hfree]
end

end Sys2Proof.Machine

/-! PROOFS. A team starts with its span, where all of it fits and may be saved (O44, 01 R30; 11 R301, R323). -/

namespace Sys2Proof.Machine
open Sys2Proof

/-! ### The teams of a list start -/

/-- What the starts of the teams ms of launch k, which is l but for the teams that wait, leave. -/
structure StartsAll (s t : State) (k : Nat) (l : Launch) (ms : List Nat) : Prop where
  frame : t = { s with freeCount := s.freeCount + ms.length, teams := t.teams, nextTeam := s.nextTeam + ms.length, launches := t.launches, cores := t.cores }
  others : ∀ u, u < s.nextTeam ∨ s.nextTeam + ms.length ≤ u → Moved (s.teams.get {} u) (t.teams.get {} u)
  teams : ∀ n, n < ms.length →
    Launched (s.vf l.vf).perfDef k l (ms.getD n 0) (l.place.getD (ms.getD n 0) 0) (t.teams.get {} (s.nextTeam + n))
  launch : t.launch k = { l with waiting := (s.launch k).waiting.filter fun j => !ms.contains j }
  launches : ∀ j, j ≠ k → t.launch j = s.launch j

/-- A launch that differs from another in the teams that wait alone has the same launch values. -/
theorem Launched.of_waiting {perf k i core : Nat} {l m : Launch} {x : Team} (h : Launched perf k m i core x) (hm : m = { l with waiting := m.waiting }) :
    Launched perf k l i core x := by
  rw [hm] at h
  exact ⟨h.fields, h.length, h.groups⟩

theorem State.startTeams_startsAll {s : State} {k : Nat} {l : Launch} (ms : List Nat) (hl : s.launch k = { l with waiting := (s.launch k).waiting }) :
    StartsAll s (s.startTeams k l ms) k l ms := by
  induction ms generalizing s with
  | nil => exact ⟨rfl, fun u _ => Moved.refl _, nofun, by simpa [State.startTeams] using hl, fun _ _ => rfl⟩
  | cons m ms ih =>
    have h1 := s.startTeam_starts k m (l.place.getD m 0)
    have hu : (s.startTeam k m (l.place.getD m 0)).launch k = { l with waiting := ((s.startTeam k m (l.place.getD m 0)).launch k).waiting } := by
      rw [h1.launch, hl]
      rfl
    have h2 := ih hu
    have hrun : s.startTeams k l (m :: ms) = (s.startTeam k m (l.place.getD m 0)).startTeams k l ms := rfl
    rw [hrun]
    generalize s.startTeam k m (l.place.getD m 0) = u at *
    generalize u.startTeams k l ms = t at *
    have hvf : (s.launch k).vf = l.vf := by rw [hl]
    have hnext : u.nextTeam = s.nextTeam + 1 := by rw [h1.frame]
    have hperf : (u.vf l.vf).perfDef = (s.vf l.vf).perfDef := by rw [h1.frame]; rfl
    obtain ⟨hframe, hothers, hteams, hlaunch, hlaunches⟩ := h2
    rw [hnext] at hothers hteams
    refine ⟨?_, fun w hw => ?_, fun n hn => ?_, ?_, fun j hj => (hlaunches j hj).trans (h1.launches j hj)⟩
    · rw [hframe, h1.frame, List.length_cons, Nat.add_assoc, Nat.add_comm 1, Nat.add_assoc, Nat.add_comm 1]
    · rw [List.length_cons] at hw
      exact (h1.others w (by omega)).trans (hothers w (by omega))
    · cases n with
      | zero =>
        have hx := h1.team.of_waiting hl
        rw [hvf] at hx
        exact hx.moved (hothers _ (by omega))
      | succ n =>
        have hx := hteams n (by simpa using hn)
        rw [hperf, Nat.add_assoc, Nat.add_comm 1] at hx
        exact hx
    · rw [hlaunch, h1.launch]
      have hw : (((s.launch k).starts m).waiting.filter fun j => !ms.contains j) = (s.launch k).waiting.filter fun j => !(m :: ms).contains j := by
        refine List.filter_filter.trans (List.filter_congr fun j _ => ?_)
        by_cases hj : j = m <;> simp [hj]
      rw [hw]

/-- Teams of a launch start with its own values. -/
theorem State.startTeams_own (s : State) (k : Nat) (ms : List Nat) : StartsAll s (s.startTeams k (s.launch k) ms) k (s.launch k) ms :=
  State.startTeams_startsAll ms rfl

namespace StartsAll
variable {s t : State} {k : Nat} {l : Launch} {ms : List Nat} (h : StartsAll s t k l ms)
include h

theorem waiting_iff (j : Nat) : j ∈ (t.launch k).waiting ↔ j ∈ (s.launch k).waiting ∧ j ∉ ms := by
  rw [h.launch]
  simp

theorem launch_rest : t.launch k = { l with waiting := (t.launch k).waiting } := by rw [h.launch]
end StartsAll

/-! ### Which teams may start (01 R30; 11 R301, R323) -/

/-- The cores of the teams that start with team i. -/
def Launch.mateCores (l : Launch) (i : Nat) : List Nat := (l.mates i).map fun m => l.place.getD m 0

/-- Core c takes its part of the teams that start with team i of launch k. -/
def State.takesTeam (s : State) (k i c : Nat) : Prop :=
  let l := s.launch k
  (s.cluster (c / 24)).on = true ∧ (s.core c).quarantined = false ∧ s.coreOf l.vf c = true ∧ s.rasterWaits (c / 24) = false
  ∧ (∃ j ∈ l.mates i, s.chosen c = some (k, j)) ∧ s.fits c l.hdr ((l.mateCores i).count c) = true

/-- With the teams that start, the context may still be saved in its time. -/
def State.savable (s : State) (k i : Nat) : Prop :=
  let l := s.launch k
  let f := s.vf l.vf
  let all := (s.residentsOf l.vf l.ctx).map (fun p => (p.2.core, p.2.hdr)) ++ (l.mateCores i).map fun c => (c, l.hdr)
  f.saveB = 0 ∨ savedSize all ≤ 1000 * f.saveB * (46 - f.saveG) ∨ (s.residentsOf l.vf l.ctx = [] ∧ (l.mates i).length = 1)

section
variable {s : State}

theorem teamStart_idle {core : Nat} (h : s.chosen core = none) : Idle (.teamStart core) s := by
  show execTeamStart core s = .next s
  rw [execTeamStart, h]

/-- The team chosen for core c is one of those that start with team i of launch k. -/
def State.choosesMate (s : State) (k i c : Nat) : Bool :=
  match s.chosen c with
  | some (k', j) => k' == k && ((s.launch k).mates i).contains j
  | none => false

theorem State.choosesMate_iff {k i c : Nat} : s.choosesMate k i c = true ↔ ∃ j ∈ (s.launch k).mates i, s.chosen c = some (k, j) := by
  unfold State.choosesMate
  cases s.chosen c with
  | none => simp
  | some x =>
    simp only [Bool.and_eq_true, beq_iff_eq, List.contains_iff_mem, Option.some.injEq, Prod.ext_iff]
    exact ⟨fun ⟨hk, hj⟩ => ⟨x.2, hj, hk, rfl⟩, fun ⟨_, hm, hk, hj⟩ => ⟨hk, hj ▸ hm⟩⟩

/-- The save budget admits the teams that start with team i of launch k. -/
def State.budgeted (s : State) (k i : Nat) : Bool :=
  let l := s.launch k
  let here := s.residentsOf l.vf l.ctx
  match (s.vf l.vf).budget with
  | none => true
  | some b => (here.isEmpty && (l.mates i).length == 1)
      || decide (savedSize (here.map (fun t => (t.2.core, t.2.hdr)) ++ (l.mateCores i).map fun c => (c, l.hdr)) ≤ b)

theorem State.budgeted_iff {k i : Nat} : s.budgeted k i = true ↔ s.savable k i := by
  unfold State.budgeted State.savable Vf.budget
  by_cases hb : (s.vf (s.launch k).vf).saveB = 0
  · simp [hb]
  · simp only [hb, if_false, false_or, Bool.or_eq_true, Bool.and_eq_true, List.isEmpty_iff, beq_iff_eq, decide_eq_true_eq, Nat.mul_comm 1000]
    exact or_comm

/-- Core c may be used, and holds its part of the teams that start with team i of launch k. -/
def State.usable (s : State) (k i c : Nat) : Bool :=
  (s.cluster (clusterOfCore c)).on && !(s.core c).quarantined && s.coreOf (s.launch k).vf c && s.choosesMate k i c
    && s.fits c (s.launch k).hdr (((s.launch k).mateCores i).count c)

theorem State.usable_iff {k i c : Nat} : (s.usable k i c = true ∧ s.rasterWaits (clusterOfCore c) = false) ↔ s.takesTeam k i c := by
  simp only [State.usable, State.takesTeam, Bool.and_eq_true, Bool.not_eq_true', State.choosesMate_iff, clusterOfCore]
  tauto

/-- Team i of launch k starts with its span: every core of the span takes its part, and the context stays savable. -/
def State.maySpan (s : State) (k i : Nat) : Prop := (∀ c ∈ (s.launch k).mateCores i, s.takesTeam k i c) ∧ s.savable k i

theorem State.maySpan_iff {k i : Nat} :
    (((s.launch k).mateCores i).all (s.usable k i) && s.budgeted k i
      && !(((s.launch k).mateCores i).any fun c => s.rasterWaits (clusterOfCore c))) = true ↔ s.maySpan k i := by
  simp only [State.maySpan, ← State.usable_iff, ← State.budgeted_iff, Bool.and_eq_true, List.all_eq_true, Bool.not_eq_true', List.any_eq_false,
    Bool.not_eq_true]
  exact ⟨fun ⟨⟨hu, hb⟩, hr⟩ => ⟨fun c hc => ⟨hu c hc, hr c hc⟩, hb⟩, fun ⟨hc, hb⟩ => ⟨⟨fun c hm => (hc c hm).1, hb⟩, fun c hm => (hc c hm).2⟩⟩

section
variable {core k i : Nat} (h : s.chosen core = some (k, i))
include h

theorem teamStart_chosen :
    exec (.teamStart core) s = if ((s.launch k).mateCores i).all (s.usable k i) && s.budgeted k i
      && !(((s.launch k).mateCores i).any fun c => s.rasterWaits (clusterOfCore c)) then .next (s.startTeams k (s.launch k) ((s.launch k).mates i))
      else .next s := by
  show execTeamStart core s = _
  unfold execTeamStart
  rw [h]
  rfl

theorem teamStart_starts (hm : s.maySpan k i) : exec (.teamStart core) s = .next (s.startTeams k (s.launch k) ((s.launch k).mates i)) :=
  (teamStart_chosen h).trans (if_pos (State.maySpan_iff.2 hm))

theorem teamStart_waits (hm : ¬s.maySpan k i) : Idle (.teamStart core) s :=
  (teamStart_chosen h).trans (if_neg fun hx => hm (State.maySpan_iff.1 hx))
end

/-- A core that a team fits can hold its window. -/
theorem State.fits_spad {core : Nat} {h : Header} (hf : s.fits core h 1 = true) : spadOn core s.teams + h.spad ≤ 786432 := by
  simp only [State.fits, Bool.and_eq_true, decide_eq_true_eq, Nat.one_mul, List.map_map] at hf
  exact hf.2
end

end Sys2Proof.Machine

/-! PROOFS. Teams and launches end (O44, 01 R34; 06 R155; 11 R296, R300, R303). -/

namespace Sys2Proof.Machine
open Sys2Proof

/-! ### Listed entries of a table -/

section
variable {α : Type} {d : α} {m : Store α} {i : Nat}

/-- Listing an entry as it stands changes nothing. -/
theorem set_get_listed (h : Store.get d m i ≠ d) : Store.set m i (Store.get d m i) = m := by
  induction m with
  | nil => exact absurd rfl h
  | cons p m ih =>
    obtain ⟨k, v⟩ := p
    unfold Store.get at h ⊢
    by_cases hk : k = i
    · simp [Store.set, hk]
    · by_cases hlt : i < k
      · simp [hk, hlt] at h
      · simp only [hk, hlt, if_false] at h ⊢
        rw [Store.set, if_neg hk, if_neg hlt, ih h]

/-- A test that an entry's new value passes as its old one did finds the same in the table. -/
theorem any_set_listed {x : α} {P : Nat × α → Bool} (h : Store.get d m i ≠ d) (hP : P (i, x) = P (i, Store.get d m i)) :
    (Store.set m i x).any P = m.any P := by
  induction m with
  | nil => exact absurd rfl h
  | cons p m ih =>
    obtain ⟨k, v⟩ := p
    unfold Store.get at h hP
    by_cases hk : k = i
    · subst hk
      simp only [if_true] at hP
      simp [Store.set, hP]
    · by_cases hlt : i < k
      · simp [hk, hlt] at h
      · simp only [hk, hlt, if_false] at h hP
        simp [Store.set, hk, hlt, ih h hP]
end

/-! ### Finish scopes (11 R303) -/

theorem Context.scope_onScope (c : Context) (k j : Nat) (f : Scope → Scope) :
    (c.onScope k f).scope j = if j = k then f (c.scope k) else c.scope j := by
  unfold Context.scope Context.onScope
  rw [Store.get_set]
  by_cases h : j = k
  · rw [if_pos h, if_pos h]
    rfl
  · rw [if_neg h, if_neg h]

/-- A context one of whose scopes counts n fewer. -/
def Context.lower (c : Context) (scope n : Nat) : Context := c.onScope scope fun x => { x with count := x.count - n }

section
variable (s : State) (v k scope n : Nat)

theorem State.scopeDown_frame :
    s.scopeDown v k scope n = { s with vfs := (s.scopeDown v k scope n).vfs, msix := (s.scopeDown v k scope n).msix } := by
  unfold State.scopeDown
  dsimp only
  split <;> rfl

theorem State.scopeDown_vfs : (s.scopeDown v k scope n).vfs = (s.onCtx v k fun c => c.lower scope n).vfs := by
  unfold State.scopeDown
  dsimp only
  split <;> rfl

theorem State.scopeDown_ctxIs : CtxIs s (s.scopeDown v k scope n) v k ((s.ctx v k).lower scope n) := by
  have h := ctxIs_onCtx s v k fun c => c.lower scope n
  have hvf (w : Nat) : (s.scopeDown v k scope n).vf w = (s.onCtx v k fun c => c.lower scope n).vf w := by rw [State.vf, State.scopeDown_vfs]; rfl
  simp only [CtxIs, State.ctx, hvf] at h ⊢
  exact h

/-- A host scope that is done raises vector 1. -/
theorem State.scopeDown_msix :
    let c := (s.ctx v k).lower scope n
    let h := c.hostScope 257 scope
    (s.scopeDown v k scope n).msix = if h < 64 ∧ Context.done 257 c h = true then s.msix ++ [(v, 1)] else s.msix := by
  have hc : (s.onCtx v k fun c => c.lower scope n).ctx v k = (s.ctx v k).lower scope n := (ctxIs_onCtx s v k _).2.2.2
  intro c h
  unfold h c
  rw [← hc]
  exact apply_ite State.msix _ _ _
end

/-- The host scope of a scope without a parent is itself. -/
theorem Context.hostScope_root {c : Context} {k : Nat} (n : Nat) (h : (c.scope k).hasParent = false) : c.hostScope (n + 1) k = k := by
  rw [Context.hostScope, h]
  rfl

section
variable {c : Context} {scope : Nat} (hp : (c.scope scope).hasParent = false)
include hp

theorem Context.lower_host : (c.lower scope 1).hostScope 257 scope = scope :=
  Context.hostScope_root 256 (by rw [Context.lower, Context.scope_onScope, if_pos rfl]; exact hp)

theorem State.scopeDown_quiet {s : State} {v k : Nat} (hc : s.ctx v k = c) (h : 1 < (c.scope scope).count) :
    (s.scopeDown v k scope 1).msix = s.msix := by
  refine (s.scopeDown_msix v k scope 1).trans (if_neg ?_)
  rw [hc, Context.lower_host hp]
  rintro ⟨-, hd⟩
  rw [Context.done, Bool.and_eq_true, beq_iff_eq, Context.lower, Context.scope_onScope, if_pos rfl] at hd
  have := hd.1
  dsimp only at this
  omega

theorem State.scopeDown_rings (hs : scope < 64) {s : State} {v k : Nat} (hc : s.ctx v k = c) (h : (c.scope scope).count ≤ 1)
    (hv : ∀ j, 64 ≤ j → (c.scope j).valid = false) : (s.scopeDown v k scope 1).msix = s.msix ++ [(v, 1)] := by
  refine (s.scopeDown_msix v k scope 1).trans (if_pos ?_)
  rw [hc, Context.lower_host hp]
  refine ⟨hs, ?_⟩
  rw [Context.done, Bool.and_eq_true, beq_iff_eq, List.all_eq_true]
  constructor
  · rw [Context.lower, Context.scope_onScope, if_pos rfl]
    exact Nat.sub_eq_zero_of_le h
  · intro j hj
    have hj64 : 64 ≤ j := (List.mem_range'_1.1 hj).1
    have hne : j ≠ scope := by omega
    rw [Context.lower, Context.scope_onScope, if_neg hne, hv j hj64]
    rfl
end

/-! ### A packet of a queue completes (11 R296, R300) -/

/-- A queue one of whose packets is done. -/
def Queue.markDone (q : Queue) (launch : Nat) : Queue :=
  { q with taken := q.taken.map fun (y : Taken) => if y.launch = launch then { y with done := true } else y }

/-- A queue one of whose packets has completed: those done at its head have left it. -/
def Queue.complete (q : Queue) (launch : Nat) : Queue :=
  let ts := (q.markDone launch).taken
  { q with taken := ts.dropWhile (·.done), fence := (q.fence + ((ts.takeWhile (·.done)).filter (·.fence)).length) % 2 ^ 48 }

theorem State.packetDone_vfIs (s : State) (v n launch : Nat) :
    VfIs s (s.packetDone v n launch) v ((s.vf v).withQueue n ((s.queueOf v n).complete launch)) := by
  have h := vfIs_onVf s v fun f => f.withQueue n ((f.queues.get {} n : Queue).markDone launch).retire
  rw [Queue.retire_eq] at h
  exact h

/-! ### Teams of a launch are gone (11 R296, R303) -/

/-- Launch k with n more teams ended. -/
def Launch.lose (l : Launch) (n : Nat) : Launch := { l with ended := l.ended + n }

/-- What the end of a team that is not its launch's last leaves. -/
theorem State.teamsGone_some {s : State} {k n : Nat} (h : (s.launch k).ended + n < (s.launch k).teams) :
    let l := s.launch k
    let t := s.teamsGone k n
    t = { s with vfs := t.vfs, launches := t.launches, msix := t.msix }
    ∧ t.launch k = l.lose n ∧ t.ctx l.vf l.ctx = (s.ctx l.vf l.ctx).lower l.scope n := by
  intro l t
  have ht : t = (s.scopeDown l.vf l.ctx l.scope n).onLaunch k fun l => l.lose n := if_neg (Nat.not_le.2 h)
  have hframe := s.scopeDown_frame l.vf l.ctx l.scope n
  have hctx := (s.scopeDown_ctxIs l.vf l.ctx l.scope n).2.2.2
  generalize s.scopeDown l.vf l.ctx l.scope n = u at *
  have hl : u.launch k = l := by rw [hframe]; rfl
  rw [ht]
  exact ⟨by rw [hframe]; rfl, by rw [State.launch_onLaunch, if_pos rfl, hl], hctx⟩

/-- What the end of a launch's last team leaves, but for the queue of its packet. -/
structure LaunchEnds (s t : State) (k n : Nat) : Prop where
  frame : t = { s with vfs := t.vfs, launches := t.launches, msix := t.msix }
  teams : (t.launch k).teams = 0
  launches : ∀ j, j ≠ k → t.launch j = s.launch j
  vfs : ∀ w, w ≠ (s.launch k).vf → t.vf w = s.vf w
  vf : t.vf (s.launch k).vf = { s.vf (s.launch k).vf with ctxs := (t.vf (s.launch k).vf).ctxs, queues := (t.vf (s.launch k).vf).queues }
  ctx : t.ctx (s.launch k).vf (s.launch k).ctx = (s.ctx (s.launch k).vf (s.launch k).ctx).lower (s.launch k).scope n
  msix : t.msix = (s.scopeDown (s.launch k).vf (s.launch k).ctx (s.launch k).scope n).msix

/-- The state without launch k. -/
def State.removeLaunch (s : State) (k n : Nat) : State := { s with launches := (s.onLaunch k fun l => l.lose n).launches.erase k }

theorem State.removeLaunch_launch (s : State) (k n j : Nat) :
    (j = k → ((s.removeLaunch k n).launch j).teams = 0) ∧ (j ≠ k → (s.removeLaunch k n).launch j = s.launch j) := by
  unfold State.launch State.removeLaunch
  rw [Store.get_erase]
  exact ⟨fun hj => by rw [if_pos hj], fun hj => by rw [if_neg hj]; exact Store.get_set_ne _ _ _ hj⟩

/-- The state in which the scope of launch k counts its last n teams no more and the launch is gone. -/
def State.unlaunched (s : State) (k n : Nat) : State :=
  (s.scopeDown (s.launch k).vf (s.launch k).ctx (s.launch k).scope n).removeLaunch k n

theorem State.unlaunched_queues (s : State) (k n : Nat) :
    ((s.unlaunched k n).vf (s.launch k).vf).queues = (s.vf (s.launch k).vf).queues := by
  obtain ⟨-, hv, -⟩ := s.scopeDown_ctxIs (s.launch k).vf (s.launch k).ctx (s.launch k).scope n
  have hq := congrArg Vf.queues hv
  exact hq

theorem State.unlaunched_ends (s : State) (k n : Nat) : LaunchEnds s (s.unlaunched k n) k n := by
  obtain ⟨hw, hv, -, hself⟩ := s.scopeDown_ctxIs (s.launch k).vf (s.launch k).ctx (s.launch k).scope n
  have hframe := s.scopeDown_frame (s.launch k).vf (s.launch k).ctx (s.launch k).scope n
  have hrest (j : Nat) : (s.scopeDown (s.launch k).vf (s.launch k).ctx (s.launch k).scope n).launch j = s.launch j := by rw [hframe]; rfl
  refine ⟨?_, (State.removeLaunch_launch ..).1 rfl, fun j hj => ((State.removeLaunch_launch ..).2 hj).trans (hrest j), hw, hv.trans ?_, hself, rfl⟩
  · rw [State.unlaunched, State.removeLaunch, hframe]
  · rw [s.unlaunched_queues]
    rfl

/-- The completion of the launch's packet changes its queue besides. -/
theorem LaunchEnds.packetDone {s t : State} {k n : Nat} (h : LaunchEnds s t k n) (q launch : Nat) :
    LaunchEnds s (t.packetDone (s.launch k).vf q launch) k n := by
  obtain ⟨hw, hv⟩ := t.packetDone_vfIs (s.launch k).vf q launch
  refine ⟨?_, h.teams, h.launches, fun w hne => (hw w hne).trans (h.vfs w hne), ?_, ?_, h.msix⟩
  · show (t.onVf _ _ : State) = _
    rw [h.frame]
    rfl
  · rw [hv, h.vf]
    rfl
  · rw [← h.ctx, State.ctx, hv]
    rfl

section
variable {s : State} {k n : Nat} (h : (s.launch k).teams ≤ (s.launch k).ended + n)
include h

theorem State.teamsGone_unqueued (hq : (s.launch k).queue = none) : s.teamsGone k n = s.unlaunched k n := by
  simp only [State.teamsGone, hq]
  exact if_pos h

theorem State.teamsGone_queued {q : Nat} (hq : (s.launch k).queue = some q) :
    s.teamsGone k n = (s.unlaunched k n).packetDone (s.launch k).vf q k := by
  simp only [State.teamsGone, hq]
  exact if_pos h

theorem State.teamsGone_ends : LaunchEnds s (s.teamsGone k n) k n := by
  cases hq : (s.launch k).queue with
  | none => exact State.teamsGone_unqueued h hq ▸ s.unlaunched_ends k n
  | some q => exact State.teamsGone_queued h hq ▸ (s.unlaunched_ends k n).packetDone q k

theorem State.teamsGone_noQueue (hq : (s.launch k).queue = none) :
    ((s.teamsGone k n).vf (s.launch k).vf).queues = (s.vf (s.launch k).vf).queues := by
  rw [State.teamsGone_unqueued h hq, s.unlaunched_queues]

theorem State.teamsGone_queue {q : Nat} (hq : (s.launch k).queue = some q) :
    ((s.teamsGone k n).vf (s.launch k).vf).queues
      = (s.vf (s.launch k).vf).queues.set q ((s.queueOf (s.launch k).vf q).complete k) := by
  rw [State.teamsGone_queued h hq, ((s.unlaunched k n).packetDone_vfIs (s.launch k).vf q k).2, Vf.withQueue, State.queueOf, s.unlaunched_queues]
end

end Sys2Proof.Machine

/-! PROOFS. TEAM_END (O44, 01 R34; 06 R155): which teams end, and what the end of one leaves. -/

namespace Sys2Proof.Machine
open Sys2Proof

theorem isEmpty_filter {α : Type} (p : α → Bool) (l : List α) : (l.filter p).isEmpty = !l.any p := by
  induction l with
  | nil => rfl
  | cons x l ih => cases h : p x <;> simp [h, ih]

/-! ### A freed team -/

theorem State.resolveGrant_acmOwner (s : State) (core k : Nat) : ((s.resolveGrant core).core k).acmOwner = (s.core k).acmOwner := by
  unfold State.resolveGrant
  dsimp only
  split
  · rfl
  · rw [State.core_onCore]
    by_cases hk : k = core
    · rw [if_pos hk, hk]
    · rw [if_neg hk]

theorem State.freeTeam_frame (s : State) (u : Nat) : s.freeTeam u = { s with teams := s.teams.erase u, cores := (s.freeTeam u).cores } := by
  unfold State.freeTeam
  exact State.resolveGrant_frame _ _

/-- The accumulators that a freed team owned have no owner. -/
theorem State.freeTeam_acmOwner (s : State) (u : Nat) :
    let k := (s.teamOf u).core
    ((s.freeTeam u).core k).acmOwner = if (s.core k).acmOwner = some u then none else (s.core k).acmOwner := by
  unfold State.freeTeam
  dsimp only
  rw [State.resolveGrant_acmOwner, State.core_onCore, if_pos rfl]
  rfl

theorem State.freeTeam_teamIs (s : State) (u : Nat) : TeamIs s (s.freeTeam u) u {} := by
  have h (w : Nat) : (s.freeTeam u).teams.get {} w = if w = u then {} else s.teams.get {} w := by rw [teams_freeTeam, Store.get_erase]
  exact ⟨fun w hw => by rw [h, if_neg hw], by rw [h, if_pos rfl]⟩

/-! ### The work of an aborted team (06 R155) -/

theorem Team.dropJobs_of_idle {x : Team} (h : x.batches = []) : x.dropJobs = x := by
  rw [Team.dropJobs, h]
  exact congrArg (fun b => { x with batches := b }) h.symm

section
variable {s : State} (hcur : s.cur = {}) {u : Nat}
include hcur

theorem State.teamOf_of_idle : s.teamOf u = s.teams.get {} u := by rw [State.teamOf, flush_of_idle hcur]

theorem State.onTeam_of_idle (f : Team → Team) : s.onTeam u f = { s with teams := s.teams.set u (f (s.teams.get {} u)) } := by
  unfold State.onTeam
  rw [flush_of_idle hcur]
  exact reload_of_idle hcur

/-- Dropping the tiles that wait leaves a resident team as busy as it was: its batches stay. -/
theorem State.teamBusy_dropJobs (hlive : (s.teams.get {} u : Team).live = true) :
    (s.onTeam u Team.dropJobs).teamBusy u = s.teamBusy u := by
  have hlisted : (s.teams.get {} u : Team) ≠ {} := fun h => by rw [h] at hlive; cases hlive
  have hteam : (s.onTeam u Team.dropJobs).teamOf u = (s.teamOf u).dropJobs := by
    rw [State.teamOf_onTeam s (by rw [hcur]), if_pos rfl]
  have hbatches : (s.teamOf u).dropJobs.batches.isEmpty = (s.teamOf u).batches.isEmpty := List.isEmpty_map
  have hraster : ((s.onTeam u Team.dropJobs).rasterTeams u).isEmpty = (s.rasterTeams u).isEmpty := by
    unfold State.rasterTeams
    rw [State.onTeam_of_idle hcur, isEmpty_filter, isEmpty_filter]
    exact congrArg (!·) (any_set_listed hlisted rfl)
  unfold State.teamBusy
  dsimp only
  rw [hteam, hraster, hbatches, State.onTeam_of_idle hcur]
  rfl

/-- A team that is not busy has no batch. -/
theorem State.batches_of_not_busy (h : s.teamBusy u = false) : (s.teams.get {} u : Team).batches = [] := by
  unfold State.teamBusy at h
  dsimp only at h
  simp only [Bool.or_eq_false_iff, Bool.not_eq_false', List.isEmpty_iff] at h
  obtain ⟨⟨⟨⟨⟨⟨hb, -⟩, -⟩, -⟩, -⟩, -⟩, -⟩ := h
  rwa [State.teamOf_of_idle hcur] at hb

/-- So it drops nothing. -/
theorem State.dropJobs_of_not_busy (hlive : (s.teams.get {} u : Team).live = true) (h : s.teamBusy u = false) : s.onTeam u Team.dropJobs = s := by
  have hlisted : (s.teams.get {} u : Team) ≠ {} := fun h => by rw [h] at hlive; cases hlive
  rw [State.onTeam_of_idle hcur, Team.dropJobs_of_idle (State.batches_of_not_busy hcur h), set_get_listed hlisted]

/-! ### TEAM_END -/

theorem teamEnd_waits (h : (s.teams.get {} u : Team).live = false ∨ ((s.teams.get {} u : Team).aborted = false ∧
    ((s.teams.get {} u : Team).srun = true ∨ ∃ g ∈ (s.teams.get {} u : Team).groups, g.2.ended = false))) : Idle (.teamEnd u) s := by
  show execTeamEnd u s = .next s
  unfold execTeamEnd
  rw [State.teamOf_of_idle hcur]
  refine if_pos ?_
  obtain h | ⟨ha, h⟩ := h
  · exact .inl (by rw [h]; rfl)
  · refine .inr ?_
    rw [ha, Team.over]
    obtain h | ⟨g, hg, h⟩ := h
    · rw [h]
      rfl
    · rw [Bool.false_or, Bool.not_eq_true', Bool.and_eq_false_iff]
      exact .inr (List.all_eq_false.2 ⟨g, hg, Bool.not_eq_true _ ▸ h⟩)

/-- The streams of a team have exited, or an abort has stopped it, whose commands run to completion (01 R34; 06 R155). -/
def Team.ends (x : Team) : Prop :=
  (x.aborted = false ∧ x.srun = false ∧ ∀ g ∈ x.groups, g.2.ended = true) ∨ (x.aborted = true ∧ x.scrubbed = false)

/-- The state in which the engines of a team that ends are asked for. -/
def State.ending (s : State) (u : Nat) : State := if (s.teamOf u).aborted then s.settleAborted u else s

theorem State.ending_of_exited (h : (s.teams.get {} u : Team).aborted = false) : s.ending u = s := by
  refine if_neg ?_
  rw [State.teamOf_of_idle hcur, h]
  exact Bool.false_ne_true

theorem State.ending_of_aborted (ha : (s.teams.get {} u : Team).aborted = true) (hs : (s.teams.get {} u : Team).scrubbed = false) :
    s.ending u = s.onTeam u Team.dropJobs := by
  have hs' : (!(s.teamOf u).scrubbed) = true := by rw [State.teamOf_of_idle hcur, hs]; rfl
  refine (if_pos ?_).trans (if_pos hs')
  rw [State.teamOf_of_idle hcur, ha]

section
variable (hlive : (s.teams.get {} u : Team).live = true) (hends : (s.teams.get {} u : Team).ends)
include hlive hends

theorem State.ending_busy : (s.ending u).teamBusy u = s.teamBusy u := by
  obtain ⟨ha, -⟩ | ⟨ha, hs⟩ := hends
  · rw [State.ending_of_exited hcur ha]
  · rw [State.ending_of_aborted hcur ha hs, State.teamBusy_dropJobs hcur hlive]

theorem State.ending_of_not_busy (h : s.teamBusy u = false) : s.ending u = s := by
  obtain ⟨ha, -⟩ | ⟨ha, hs⟩ := hends
  · exact State.ending_of_exited hcur ha
  · rw [State.ending_of_aborted hcur ha hs, State.dropJobs_of_not_busy hcur hlive h]

theorem ends_passes : ¬((!(s.teamOf u).live) = true ∨ (!((s.teamOf u).aborted || (s.teamOf u).over)) = true) := by
  rw [State.teamOf_of_idle hcur, hlive]
  obtain ⟨-, hr, hg⟩ | ⟨ha, -⟩ := hends
  · have hover : (s.teams.get {} u : Team).over = true := by
      rw [Team.over, hr, Bool.not_false, Bool.true_and, List.all_eq_true]
      exact hg
    rw [hover, Bool.or_true]
    exact fun h => h.elim Bool.noConfusion Bool.noConfusion
  · rw [ha, Bool.true_or]
    exact fun h => h.elim Bool.noConfusion Bool.noConfusion

theorem teamEnd_busy (h : s.teamBusy u = true) : exec (.teamEnd u) s = .next (s.ending u) := by
  show execTeamEnd u s = _
  exact (if_neg (ends_passes hcur hlive hends)).trans (if_pos ((State.ending_busy hcur hlive hends).trans h))

/-- A team ends once its engines are done. -/
theorem teamEnd_ends (hraster : (s.teams.get {} u : Team).raster = none) (h : s.teamBusy u = false) :
    exec (.teamEnd u) s = .next ((s.freeTeam u).teamsGone (s.teams.get {} u : Team).launch 1) := by
  have hnot : ¬(s.ending u).teamBusy u = true := by rw [State.ending_busy hcur hlive hends, h]; exact Bool.false_ne_true
  have hend : exec (.teamEnd u) s = .next (((s.ending u).freeTeam u).teamsGone (s.teamOf u).launch 1) := by
    show execTeamEnd u s = _
    refine (if_neg (ends_passes hcur hlive hends)).trans ((if_neg hnot).trans ?_)
    rw [State.ending, State.teamOf_of_idle hcur, hraster]
  rw [hend, State.ending_of_not_busy hcur hlive hends h, State.teamOf_of_idle hcur]
end
end

end Sys2Proof.Machine

/-! PROOFS. What a packet that is taken and a team that ends leave (O44, 11 R296, R303; 01 R34). -/

namespace Sys2Proof.Machine
open Sys2Proof

/-! ### A packet that goes to the check stage -/

theorem State.packetHeader_ctx (s : State) (v k : Nat) (ws : List W64) (w j : Nat) : (s.packetHeader v k ws).1.ctx w j = s.ctx w j := by
  rw [State.ctx, State.packetHeader_vf]
  rfl

/-- A packet that goes to the check stage leaves its queue, raises its token and takes its header along (11 R296, R303; 02 R61). -/
theorem State.takeHost_admits {s : State} {v n k : Nat} {ws : List W64} (hk : (s.queueOf v n).ctx = k)
    (hwait : ∀ x ∈ (s.queueOf v n).taken, x.done = false) (hcheck : completesAtOnce (s.vf v) ws = false) (hscope : pkScope ws < 64) :
    let q := s.queueOf v n
    let t := s.takeHost v n ws
    t = { (s.packetHeader v k ws).1 with vfs := t.vfs, nextLaunch := s.nextLaunch + 1 }
    ∧ VfIs s t v { (s.vf v).afterTake n
        { q with head := (q.head + 1) % 2 ^ q.n, fence := q.fence % 2 ^ 48, taken := q.taken ++ [{ launch := s.nextLaunch, fence := pkFence ws }] } with
        ctxs := (t.vf v).ctxs }
    ∧ (∀ j, j ≠ k → t.ctx v j = s.ctx v j) ∧ t.ctx v k = (s.ctx v k).enterCheck (pkScope ws) (s.arriving v n k ws) := by
  intro q t
  have ht : t = _ := s.takeHost_launch v n k hk hcheck hscope
  obtain ⟨hframe, ⟨hothers, hself⟩, hctxs, hctx⟩ := State.admitted_spec (s.packetHeader v k ws).1 v n k
    ((s.queueOf v n).afterTake s.nextLaunch (pkFence ws) false).retire (pkScope ws) (s.arriving v n k ws)
  rw [← ht] at hframe hothers hself hctxs hctx
  simp only [State.packetHeader_vf] at hothers hself
  simp only [State.packetHeader_ctx] at hctxs hctx
  rw [Queue.afterTake_retire_waiting hwait] at hself
  exact ⟨hframe, ⟨hothers, hself⟩, hctxs, hctx⟩

/-- A marker that completes as it is taken leaves its queue, whose fence count it may raise (11 R300). -/
theorem State.takeHost_completes {s : State} {v n : Nat} {ws : List W64} (hq : (s.queueOf v n).taken = [])
    (hmarker : completesAtOnce (s.vf v) ws = true) :
    let q := s.queueOf v n
    let t := s.takeHost v n ws
    t = { s with vfs := t.vfs, nextLaunch := s.nextLaunch + 1 }
    ∧ VfIs s t v ((s.vf v).afterTake n
        { q with head := (q.head + 1) % 2 ^ q.n, fence := (q.fence + if pkFence ws then 1 else 0) % 2 ^ 48 }) := by
  intro q t
  have ht : t = _ := s.takeHost_marker v n hmarker
  rw [Queue.afterTake_retire_done hq] at ht
  rw [ht]
  exact ⟨rfl, vfIs_onVf s v fun f => f.afterTake n _⟩

/-! ### The end of a team -/

section
variable (s : State) (u : Nat)

theorem State.freeTeam_launch (j : Nat) : (s.freeTeam u).launch j = s.launch j := by
  rw [s.freeTeam_frame u]
  rfl

theorem State.freeTeam_vf (w : Nat) : (s.freeTeam u).vf w = s.vf w := by
  rw [s.freeTeam_frame u]
  rfl

theorem State.freeTeam_ctx (w j : Nat) : (s.freeTeam u).ctx w j = s.ctx w j := by
  rw [State.ctx, s.freeTeam_vf u]
  rfl

theorem State.freeTeam_msix : (s.freeTeam u).msix = s.msix := by rw [s.freeTeam_frame u]

variable {s u}

/-- What a team that ends leaves of the state without it: the launch counts it and its scope counts one team fewer. -/
theorem State.freed_counts {t : State} (h : t = { s.freeTeam u with vfs := t.vfs, launches := t.launches, msix := t.msix }) :
    t = { s with teams := t.teams, cores := t.cores, vfs := t.vfs, launches := t.launches, msix := t.msix }
    ∧ TeamIs s t u {}
    ∧ (t.core (s.teamOf u).core).acmOwner
        = if (s.core (s.teamOf u).core).acmOwner = some u then none else (s.core (s.teamOf u).core).acmOwner := by
  refine ⟨by rw [h, s.freeTeam_frame u], ?_, ?_⟩
  · rw [h]
    exact s.freeTeam_teamIs u
  · rw [h]
    exact s.freeTeam_acmOwner u

/-- The end of a team that is not the last of launch k. -/
theorem State.freeTeam_teamsGone_some {k : Nat} (h : (s.launch k).ended + 1 < (s.launch k).teams) :
    let l := s.launch k
    let t := (s.freeTeam u).teamsGone k 1
    t = { s.freeTeam u with vfs := t.vfs, launches := t.launches, msix := t.msix }
    ∧ t.launch k = l.lose 1 ∧ t.ctx l.vf l.ctx = (s.ctx l.vf l.ctx).lower l.scope 1 := by
  have hgone := State.teamsGone_some (s := s.freeTeam u) (k := k) (n := 1) (by rw [s.freeTeam_launch]; exact h)
  simp only [s.freeTeam_launch, s.freeTeam_ctx] at hgone
  exact hgone

section
variable {k : Nat} (h : (s.launch k).teams ≤ (s.launch k).ended + 1)
include h

/-- The end of the last team of launch k, but for the queue of its packet. -/
theorem State.freeTeam_teamsGone_last :
    let l := s.launch k
    let t := (s.freeTeam u).teamsGone k 1
    t = { s.freeTeam u with vfs := t.vfs, launches := t.launches, msix := t.msix }
    ∧ (t.launch k).teams = 0 ∧ (∀ j, j ≠ k → t.launch j = s.launch j)
    ∧ (∀ w, w ≠ l.vf → t.vf w = s.vf w) ∧ t.vf l.vf = { s.vf l.vf with ctxs := (t.vf l.vf).ctxs, queues := (t.vf l.vf).queues }
    ∧ t.ctx l.vf l.ctx = (s.ctx l.vf l.ctx).lower l.scope 1
    ∧ t.msix = ((s.freeTeam u).scopeDown l.vf l.ctx l.scope 1).msix := by
  obtain ⟨hframe, hteams, hlaunches, hvfs, hvf, hctx, hmsix⟩ := State.teamsGone_ends (s := s.freeTeam u) (k := k) (n := 1)
    (by rw [s.freeTeam_launch]; exact h)
  simp only [s.freeTeam_launch, s.freeTeam_vf, s.freeTeam_ctx] at hlaunches hvfs hvf hctx hmsix
  exact ⟨hframe, hteams, hlaunches, hvfs, hvf, hctx, hmsix⟩

theorem State.freeTeam_teamsGone_noQueue (hq : (s.launch k).queue = none) :
    (((s.freeTeam u).teamsGone k 1).vf (s.launch k).vf).queues = (s.vf (s.launch k).vf).queues := by
  have hr := State.teamsGone_noQueue (s := s.freeTeam u) (k := k) (n := 1) (by rw [s.freeTeam_launch]; exact h) (by rw [s.freeTeam_launch]; exact hq)
  rwa [s.freeTeam_launch, s.freeTeam_vf] at hr

theorem State.freeTeam_teamsGone_queue {q : Nat} (hq : (s.launch k).queue = some q) :
    (((s.freeTeam u).teamsGone k 1).vf (s.launch k).vf).queues
      = (s.vf (s.launch k).vf).queues.set q ((s.queueOf (s.launch k).vf q).complete k) := by
  have hr := State.teamsGone_queue (s := s.freeTeam u) (k := k) (n := 1) (by rw [s.freeTeam_launch]; exact h) (by rw [s.freeTeam_launch]; exact hq)
  rwa [s.freeTeam_launch, State.queueOf, s.freeTeam_vf] at hr
end
end

end Sys2Proof.Machine

/-! PROOFS. The launch events (O44), each part of the statement from the lemmas about its event. -/

namespace Sys2Proof.Machine
open Sys2Proof

/-- The start of a team that has no span. -/
theorem teamStart_alone {s : State} {core k i : Nat} (h : s.chosen core = some (k, i)) (hspan : (s.launch k).span = 0)
    (hcore : (s.launch k).place.getD i 0 = core) (hon : (s.cluster (core / 24)).on = true) (hquar : (s.core core).quarantined = false)
    (hpart : s.coreOf (s.launch k).vf core = true) (hfits : s.fits core (s.launch k).hdr 1 = true) (hwaits : s.rasterWaits (core / 24) = false)
    (hsave : (s.vf (s.launch k).vf).saveB = 0 ∨ s.residentsOf (s.launch k).vf (s.launch k).ctx = []) :
    exec (.teamStart core) s = .next (s.startTeam k i core) := by
  have hmates : (s.launch k).mates i = [i] := if_pos hspan
  have hcores : (s.launch k).mateCores i = [core] := by rw [Launch.mateCores, hmates, List.map_singleton, hcore]
  have hmay : s.maySpan k i := by
    refine ⟨fun c hc => ?_, hsave.imp_right fun h => .inr ⟨h, by rw [hmates]; rfl⟩⟩
    obtain rfl : c = core := by simpa [hcores] using hc
    exact ⟨hon, hquar, hpart, hwaits, ⟨i, by rw [hmates]; exact List.mem_singleton_self i, h⟩, by rw [hcores, List.count_singleton_self]; exact hfits⟩
  rw [teamStart_starts h hmay, hmates, ← hcore]
  rfl

/-- The launch values of a team without a span. -/
theorem Launched.unspanned {perf k i core : Nat} {l : Launch} {x : Team} (h : Launched perf k l i core x) (hspan : l.span = 0) :
    x = { live := true, vf := l.vf, ctx := l.ctx, launch := k, core := core, index := i, teams := l.teams, span := 0, prio := l.prio,
          hdr := l.hdr, winBase := x.winBase, spc := l.hdr.scalarEntry, perfReq := perf,
          s := [(1, l.args), (2, l.hdr.recTab), (3, BitVec.ofNat 64 i), (4, BitVec.ofNat 64 l.teams)], groups := x.groups } := by
  have hf := h.fields
  rwa [hspan] at hf

/-- Settles O44: an event is one of the model's operations on queues, contexts, launches and teams; each part of the statement is the
lemma that says what its operation leaves. -/
theorem launchEvents : Obligations.LaunchEvents := by
  unfold Obligations.LaunchEvents
  refine ⟨?take, ?check, ?start, ?span, ?ends⟩
  case take =>
    refine fun s v n k => ⟨packetTake_notRunning, fun hrun h => packetTake_held hrun (.inl h),
      fun hrun h hn => packetTake_held hrun (.inr ⟨h, hn⟩), fun hrun hph => ⟨fun hn h => packetTake_unreadable hrun hph hn h,
        fun hn hk h => packetTake_ringFault hrun hph hn hk h,
        fun ws => ⟨s.packetReady_iff v n ws, mem_pkDeps ws, fun hn hk hpk h => packetTake_notReady hrun hph hn hk hpk h⟩,
        fun ws hn hk hpk hready hserve hwait => ?_⟩,
      fun hrun hph p ps hn hq => packetTake_device hrun hph hn hq, fun ws => ⟨State.packetHeader_none, fun hkind halign hcanon => ?_⟩⟩
    · have htake := packetTake_takes hrun hph hn hk hpk hready hserve
      exact ⟨fun hcheck hscope => ⟨_, htake, State.takeHost_admits hk hwait (completesAtOnce_false hcheck) hscope⟩,
        fun hkind hok hdeps hq => ⟨_, htake, State.takeHost_completes hq (completesAtOnce_true hkind hok hdeps)⟩⟩
    · exact ⟨fun x h => State.packetHeader_cached hkind halign hcanon h, fun hmiss =>
        ⟨fun e h => State.packetHeader_faults hkind halign hcanon hmiss h,
          fun t x h hroom => State.packetHeader_loaded hkind halign hcanon hmiss h hroom⟩⟩
  case check =>
    refine fun s v k => ⟨launchCheck_idle, fun p ps hq hm => ⟨fun t h place hc => ?_, fun t cause hc n i hpq => ?_⟩⟩
    · obtain ⟨rfl, hl⟩ := State.check_legal hc
      obtain ⟨hg1, hg16, hv1, hv32, hrdv, halign, hspill, hspad, hrec⟩ := hl.bounds
      have hvf : ((s.unqueued v k ps).vf v).part = (s.vf v).part := by rw [State.unqueued, State.onCtx_vf_self]
      refine ⟨fun x => hl.seen, hg1, hg16, hv1, hv32, hrdv, hl.regs, halign, hspill, hspad, hrec, hl.teams, State.placement_length hl.placed,
        fun x hx => ?_, _, launchCheck_checks hq hm hc, State.accept_spec _ v k p h place⟩
      obtain ⟨hx768, hpresent, hpart⟩ := hl.core hx
      exact ⟨hx768, hpresent, hvf ▸ hpart, fun b hb hf => hl.feature hx hb hf⟩
    · obtain ⟨hmsix, hlaunches, hstat, hhead⟩ := t.launchFault_host v k cause hpq
      refine ⟨t.launchFault v k p cause, ?_, hmsix, hlaunches, hstat, hhead⟩
      obtain ⟨hc, rfl⟩ | ⟨hc, rfl⟩ := hc
      · exact launchCheck_checks hq hm hc
      · exact launchCheck_checks hq hm hc
  case start =>
    refine fun s core => ⟨teamStart_idle, fun k i hch hspan hcore hon hquar hpart hfits hwaits hsave => ?_⟩
    have hstart := s.startTeam_starts k i core
    obtain ⟨hin, hbeside, hstays⟩ := s.startTeam_window k i core (State.fits_spad hfits)
    refine ⟨_, _, teamStart_alone hch hspan hcore hon hquar hpart hfits hwaits hsave, hstart.frame, rfl, hstart.others,
      fun h => ⟨hstays h, rfl⟩, hstart.team.unspanned hspan, hin, ?_, hstart.team.length, hstart.team.groups,
      congrArg Launch.waiting hstart.launch⟩
    rintro u y hu rfl hlive hcore
    exact hbeside u hu (by rw [Team.on, hlive, hcore, beq_self_eq_true]; rfl)
  case span =>
    refine fun s core k i hch => ⟨teamStart_waits hch, fun hmay => ?_⟩
    have hstarts := s.startTeams_own k ((s.launch k).mates i)
    refine ⟨_, teamStart_starts hch hmay, hstarts.frame, hstarts.others, fun n hn => ⟨_, rfl, ?_⟩, hstarts.waiting_iff, hstarts.launch_rest,
      hstarts.launches⟩
    exact ⟨(hstarts.teams n hn).fields, (hstarts.teams n hn).groups⟩
  case ends =>
    refine fun s u hcur => ⟨teamEnd_waits hcur, fun hlive ha hr hg hraster => ⟨fun hbusy => ?busy, fun hidle hmore _ => ?more⟩,
      fun hlive ha hs hbusy => ?aborted, fun hlive hraster hends hidle hlast => ?last⟩
    case busy =>
      have hend := teamEnd_busy hcur hlive (.inl ⟨ha, hr, hg⟩) hbusy
      rwa [State.ending_of_exited hcur ha] at hend
    case more =>
      obtain ⟨hframe, hlaunch, hctx⟩ := State.freeTeam_teamsGone_some (u := u) hmore
      obtain ⟨hs, hteam, hacm⟩ := State.freed_counts hframe
      rw [State.teamOf_of_idle hcur] at hacm
      refine ⟨_, teamEnd_ends hcur hlive (.inl ⟨ha, hr, hg⟩) hraster hidle, hs, hteam, hlaunch, ?_, hacm⟩
      rw [hctx, Context.lower, Context.scope_onScope, if_pos rfl]
    case aborted =>
      have hend := teamEnd_busy hcur hlive (.inr ⟨ha, hs⟩) hbusy
      rw [State.ending_of_aborted hcur ha hs, State.onTeam_of_idle hcur] at hend
      exact ⟨_, hend, rfl, fun w hw => Store.get_set_ne _ _ _ hw, Store.get_set_self ..⟩
    case last =>
      obtain ⟨hframe, hteams, hlaunches, hvfs, hvf, hctx, hmsix⟩ := State.freeTeam_teamsGone_last (u := u) hlast
      obtain ⟨hs, hteam, -⟩ := State.freed_counts hframe
      refine ⟨_, teamEnd_ends hcur hlive hends hraster hidle, hs, hteam, hteams, hlaunches, hvfs, hvf, hctx,
        fun _ hp hcount => ?_, fun hscope hp hcount hvalid => ?_, State.freeTeam_teamsGone_noQueue hlast,
        fun n => State.freeTeam_teamsGone_queue hlast⟩
      · rw [hmsix, State.scopeDown_quiet hp (s.freeTeam_ctx u ..) hcount, s.freeTeam_msix]
      · rw [hmsix, State.scopeDown_rings hp hscope (s.freeTeam_ctx u ..) hcount hvalid, s.freeTeam_msix]

end Sys2Proof.Machine

/-! PROOFS. The fields of an instruction word (02 R41, R43, R44, R47): reading a written word, and writing what has been read. -/

namespace Sys2Proof
open Machine

/-! ### Bits of the written words -/

/-- A field of a word is its bits. -/
theorem toNat_extractLsb'_eq_bits {n : Nat} (w : BitVec n) (lo len : Nat) (h : 0 < len) : (w.extractLsb' lo len).toNat = bits w (lo + len - 1) lo := by
  rw [bits_eq_extractLsb', show lo + len - 1 + 1 - lo = len by omega]

theorem S32.getLsbD_word (o : S32) (op : BitVec 7) (len : BitVec 2) (i : Nat) :
    (o.word op len).getLsbD i =
      if i < 2 then len.getLsbD i else if i < 9 then op.getLsbD (i - 2) else if i < 16 then o.d.getLsbD (i - 9)
      else if i < 23 then o.a.getLsbD (i - 16) else if i < 30 then o.b.getLsbD (i - 23) else o.f.getLsbD (i - 30) := by
  simp only [S32.word, BitVec.getLsbD_append]
  grind

theorem L32.getLsbD_word (o : L32) (op : BitVec 7) (i : Nat) :
    (o.word op).getLsbD i =
      if i < 2 then (1#2).getLsbD i else if i < 9 then op.getLsbD (i - 2) else if i < 15 then o.d.getLsbD (i - 9)
      else if i < 21 then o.a.getLsbD (i - 15) else if i < 27 then o.b.getLsbD (i - 21) else if i < 31 then o.f.getLsbD (i - 27)
      else (BitVec.ofBool o.g).getLsbD (i - 31) := by
  simp only [L32.word, BitVec.getLsbD_append]
  grind

theorem LOp.getLsbD_words64 (o : LOp) (op : BitVec 8) (x : BitVec 10) (len : BitVec 2) (i : Nat) :
    (o.words64 op x len).getLsbD i =
      if i < 2 then len.getLsbD i else if i < 10 then op.getLsbD (i - 2) else if i < 20 then o.d.getLsbD (i - 10)
      else if i < 30 then o.a.getLsbD (i - 20) else if i < 40 then o.b.getLsbD (i - 30) else if i < 50 then x.getLsbD (i - 40)
      else if i < 54 then o.la.getLsbD (i - 50) else if i < 58 then o.f.getLsbD (i - 54) else if i < 63 then o.ps.getLsbD (i - 58)
      else (BitVec.ofBool o.pn).getLsbD (i - 63) := by
  simp only [LOp.words64, BitVec.getLsbD_append]
  grind

theorem ofBool_getLsbD_zero (b : Bool) : (BitVec.ofBool b).getLsbD 0 = b := by cases b <;> rfl

/-! ### Reading what has been written -/

theorem S32.read_word (o : S32) (op : BitVec 7) (len : BitVec 2) : S32.read (o.word op len) = o := by
  cases o
  simp only [S32.read, fieldAt, S32.mk.injEq]
  refine ⟨?f, ?b, ?a, ?d⟩
  all_goals
    apply BitVec.eq_of_getLsbD_eq
    intro i hi
    simp only [BitVec.getLsbD_extractLsb', S32.getLsbD_word]
    grind

theorem L32.read_word (o : L32) (op : BitVec 7) : L32.read (o.word op) = o := by
  cases o
  simp only [L32.read, fieldAt, L32.mk.injEq]
  refine ⟨?g, ?f, ?b, ?a, ?d⟩
  case g =>
    rw [bit, L32.getLsbD_word]
    exact ofBool_getLsbD_zero _
  all_goals
    apply BitVec.eq_of_getLsbD_eq
    intro i hi
    simp only [BitVec.getLsbD_extractLsb', L32.getLsbD_word]
    grind

theorem LOp.read64_words64 (o : LOp) (op : BitVec 8) (x : BitVec 10) (len : BitVec 2) :
    LOp.read64 (o.words64 op x len) = { o with x := .reg x } := by
  cases o
  simp only [LOp.read64, fieldAt, LOp.mk.injEq, Ext.reg.injEq]
  refine ⟨?pn, ?ps, ?f, ?la, ?x, ?b, ?a, ?d⟩
  case pn =>
    rw [bit, LOp.getLsbD_words64]
    exact ofBool_getLsbD_zero _
  all_goals
    apply BitVec.eq_of_getLsbD_eq
    intro i hi
    simp only [BitVec.getLsbD_extractLsb', LOp.getLsbD_words64]
    grind

/-- The two parts of X (02 R44). -/
theorem LOp.ext_words64 (o : LOp) (op : BitVec 8) (sub : BitVec 8) (slot : BitVec 2) (len : BitVec 2) :
    fieldAt 8 (o.words64 op (sub ++ slot) len) 42 = sub ∧ fieldAt 2 (o.words64 op (sub ++ slot) len) 40 = slot := by
  constructor
  all_goals
    apply BitVec.eq_of_getLsbD_eq
    intro i hi
    simp only [fieldAt, BitVec.getLsbD_extractLsb', LOp.getLsbD_words64, BitVec.getLsbD_append]
    grind

/-! ### Writing what has been read -/

theorem S32.word_read (w : W32) : (S32.read w).word (w.extractLsb' 2 7) (w.extractLsb' 0 2) = w := by
  apply BitVec.eq_of_getLsbD_eq
  intro i hi
  simp only [S32.getLsbD_word, S32.read, fieldAt, BitVec.getLsbD_extractLsb']
  grind

theorem L32.word_read (w : W32) (h : w.extractLsb' 0 2 = 1#2) : (L32.read w).word (w.extractLsb' 2 7) = w := by
  apply BitVec.eq_of_getLsbD_eq
  intro i hi
  rw [L32.getLsbD_word, ← h]
  simp only [L32.read, fieldAt, BitVec.getLsbD_extractLsb', bit]
  grind

theorem LOp.words64_read64 (w : BitVec 64) :
    (LOp.read64 w).words64 (w.extractLsb' 2 8) (w.extractLsb' 40 10) (w.extractLsb' 0 2) = w := by
  apply BitVec.eq_of_getLsbD_eq
  intro i hi
  simp only [LOp.getLsbD_words64, LOp.read64, fieldAt, BitVec.getLsbD_extractLsb', bit]
  obtain rfl | hi := Nat.lt_succ_iff_lt_or_eq.1 hi |>.symm
  · exact ofBool_getLsbD_zero _
  · grind

end Sys2Proof

/-! PROOFS. The formats of instructions and the rows of the opcode maps (02 R41-R47, R53, R54; 13 R364): each row writes its opcode and
its fields, and what a row reads from words it writes back to them. -/

namespace Sys2Proof
open Machine

/-! ### Formats -/

/-- A format of instructions: its length in words, the highest bit of its opcode field, and how the fields of a word are read and
written beside an opcode. -/
structure Format (α : Type) where
  len : Nat
  top : Nat
  read : W32 → W32 → W32 → α
  write : α → Nat → List W32
  /-- The fields that the format has. -/
  holds : α → Prop

/-- Fields that are written are read back, and words that are read are written back. -/
structure Format.Lawful {α : Type} (φ : Format α) : Prop where
  length : ∀ a k, φ.holds a → (φ.write a k).length = φ.len
  opcode : ∀ a k, φ.holds a → k < 2 ^ (φ.top - 1) →
    bits ((φ.write a k).getD 0 0) 1 0 = φ.len ∧ bits ((φ.write a k).getD 0 0) φ.top 2 = k
  read_write : ∀ a k, φ.holds a → φ.read ((φ.write a k).getD 0 0) ((φ.write a k).getD 1 0) ((φ.write a k).getD 2 0) = a
  write_read : ∀ w0 w1 w2, bits w0 1 0 = φ.len → φ.write (φ.read w0 w1 w2) (bits w0 φ.top 2) = [w0, w1, w2].take φ.len

/-- L32 (02 R41). -/
def formatL32 : Format L32 where
  len := 1
  top := 8
  read w0 _ _ := L32.read w0
  write w k := [w.word (BitVec.ofNat 7 k)]
  holds _ := True

/-- L64, or with a literal L96 (02 R43, R44). -/
def formatLong (lit : Bool) : Format LOp where
  len := if lit then 3 else 2
  top := 9
  read w0 w1 w2 := if lit then LOp.read96 (w1 ++ w0) w2 else LOp.read64 (w1 ++ w0)
  write o k := o.words (BitVec.ofNat 8 k)
  holds o := o.isLit = lit

/-- S32 (02 R47). -/
def formatS32 : Format S32 where
  len := 1
  top := 8
  read w0 _ _ := S32.read w0
  write w k := [w.word (BitVec.ofNat 7 k) 1]
  holds _ := True

/-- S64 (02 R47). -/
def formatS64 : Format S64 where
  len := 2
  top := 8
  read w0 w1 _ := { w := S32.read w0, e1 := w1 }
  write o k := [o.w.word (BitVec.ofNat 7 k) 2, o.e1]
  holds _ := True

/-- S96 (02 R47). -/
def formatS96 : Format S96 where
  len := 3
  top := 8
  read w0 w1 w2 := { w := S32.read w0, e1 := w1, e2 := w2 }
  write o k := [o.w.word (BitVec.ofNat 7 k) 3, o.e1, o.e2]
  holds _ := True

theorem bits_S32_word (w : S32) {k : Nat} (hk : k < 128) (len : BitVec 2) :
    bits (w.word (BitVec.ofNat 7 k) len) 1 0 = len.toNat ∧ bits (w.word (BitVec.ofNat 7 k) len) 8 2 = k := by
  have hlen : (w.word (BitVec.ofNat 7 k) len).extractLsb' 0 2 = len := by
    apply BitVec.eq_of_getLsbD_eq
    intro i hi
    simp only [BitVec.getLsbD_extractLsb', S32.getLsbD_word]
    grind
  have hop : (w.word (BitVec.ofNat 7 k) len).extractLsb' 2 7 = BitVec.ofNat 7 k := by
    apply BitVec.eq_of_getLsbD_eq
    intro i hi
    simp only [BitVec.getLsbD_extractLsb', S32.getLsbD_word]
    grind
  rw [bits_eq_extractLsb', bits_eq_extractLsb']
  exact ⟨congrArg BitVec.toNat hlen, (congrArg BitVec.toNat hop).trans (Nat.mod_eq_of_lt hk)⟩

/-- F of a scalar word. -/
theorem bits_S32_word_f (w : S32) (op : BitVec 7) (len : BitVec 2) : bits (w.word op len) 31 30 = w.f.toNat := by
  have hf : (w.word op len).extractLsb' 30 2 = w.f := congrArg S32.f (S32.read_word w op len)
  rw [bits_eq_extractLsb']
  exact congrArg BitVec.toNat hf

theorem ofNat_bits {n : Nat} (w : BitVec n) (lo len : Nat) (h : 0 < len) : BitVec.ofNat len (bits w (lo + len - 1) lo) = w.extractLsb' lo len := by
  rw [← toNat_extractLsb'_eq_bits w lo len h, BitVec.ofNat_toNat, BitVec.setWidth_eq]

theorem extractLsb'_length {n : Nat} {w : BitVec n} {len : Nat} (h : bits w 1 0 = len) : w.extractLsb' 0 2 = BitVec.ofNat 2 len := by
  rw [← ofNat_bits w 0 2 (by decide), h]

theorem formatL32_lawful : formatL32.Lawful where
  length _ _ _ := rfl
  opcode w k _ hk := by
    have hlen : (w.word (BitVec.ofNat 7 k)).extractLsb' 0 2 = 1#2 := by
      apply BitVec.eq_of_getLsbD_eq
      intro i hi
      simp only [BitVec.getLsbD_extractLsb', L32.getLsbD_word]
      grind
    have hop : (w.word (BitVec.ofNat 7 k)).extractLsb' 2 7 = BitVec.ofNat 7 k := by
      apply BitVec.eq_of_getLsbD_eq
      intro i hi
      simp only [BitVec.getLsbD_extractLsb', L32.getLsbD_word]
      grind
    rw [bits_eq_extractLsb', bits_eq_extractLsb']
    exact ⟨congrArg BitVec.toNat hlen, (congrArg BitVec.toNat hop).trans (Nat.mod_eq_of_lt hk)⟩
  read_write w k _ := L32.read_word w _
  write_read w0 _ _ h := by
    show [(L32.read w0).word (BitVec.ofNat 7 (bits w0 8 2))] = [w0]
    rw [ofNat_bits w0 2 7 (by decide), L32.word_read w0 (extractLsb'_length h)]

theorem formatS32_lawful : formatS32.Lawful where
  length _ _ _ := rfl
  opcode w _ _ hk := bits_S32_word w hk 1
  read_write w _ _ := S32.read_word w _ _
  write_read w0 _ _ h := by
    show [(S32.read w0).word (BitVec.ofNat 7 (bits w0 8 2)) 1] = [w0]
    rw [ofNat_bits w0 2 7 (by decide), show (1 : BitVec 2) = w0.extractLsb' 0 2 from (extractLsb'_length h).symm, S32.word_read]

theorem formatS64_lawful : formatS64.Lawful where
  length _ _ _ := rfl
  opcode o _ _ hk := bits_S32_word o.w hk 2
  read_write o k _ := by
    show ({ w := S32.read (o.w.word (BitVec.ofNat 7 k) 2), e1 := o.e1 } : S64) = o
    rw [S32.read_word]
  write_read w0 w1 _ h := by
    show [(S32.read w0).word (BitVec.ofNat 7 (bits w0 8 2)) 2, w1] = [w0, w1]
    rw [ofNat_bits w0 2 7 (by decide), show (2 : BitVec 2) = w0.extractLsb' 0 2 from (extractLsb'_length h).symm, S32.word_read]

theorem formatS96_lawful : formatS96.Lawful where
  length _ _ _ := rfl
  opcode o _ _ hk := bits_S32_word o.w hk 3
  read_write o k _ := by
    show ({ w := S32.read (o.w.word (BitVec.ofNat 7 k) 3), e1 := o.e1, e2 := o.e2 } : S96) = o
    rw [S32.read_word]
  write_read w0 w1 w2 h := by
    show [(S32.read w0).word (BitVec.ofNat 7 (bits w0 8 2)) 3, w1, w2] = [w0, w1, w2]
    rw [ofNat_bits w0 2 7 (by decide), show (3 : BitVec 2) = w0.extractLsb' 0 2 from (extractLsb'_length h).symm, S32.word_read]

/-! ### The two words of L64 and L96 -/

/-- The second word beside the first (02 R43). -/
theorem words_append (w : BitVec 64) : (fieldAt 32 w 32 ++ fieldAt 32 w 0 : BitVec 64) = w := by
  apply BitVec.eq_of_getLsbD_eq
  intro i hi
  simp only [fieldAt, BitVec.getLsbD_append, BitVec.getLsbD_extractLsb']
  grind

theorem fieldAt_append (w1 w0 : W32) : fieldAt 32 (w1 ++ w0 : BitVec 64) 0 = w0 ∧ fieldAt 32 (w1 ++ w0 : BitVec 64) 32 = w1 := by
  constructor
  all_goals
    apply BitVec.eq_of_getLsbD_eq
    intro i hi
    simp only [fieldAt, BitVec.getLsbD_append, BitVec.getLsbD_extractLsb']
    grind

theorem bits_words64 (o : LOp) {k : Nat} (hk : k < 256) (x : BitVec 10) (len : BitVec 2) :
    bits (fieldAt 32 (o.words64 (BitVec.ofNat 8 k) x len) 0) 1 0 = len.toNat
    ∧ bits (fieldAt 32 (o.words64 (BitVec.ofNat 8 k) x len) 0) 9 2 = k := by
  have hlen : (fieldAt 32 (o.words64 (BitVec.ofNat 8 k) x len) 0).extractLsb' 0 2 = len := by
    apply BitVec.eq_of_getLsbD_eq
    intro i hi
    simp only [fieldAt, BitVec.getLsbD_extractLsb', LOp.getLsbD_words64]
    grind
  have hop : (fieldAt 32 (o.words64 (BitVec.ofNat 8 k) x len) 0).extractLsb' 2 8 = BitVec.ofNat 8 k := by
    apply BitVec.eq_of_getLsbD_eq
    intro i hi
    simp only [fieldAt, BitVec.getLsbD_extractLsb', LOp.getLsbD_words64]
    grind
  rw [bits_eq_extractLsb', bits_eq_extractLsb']
  exact ⟨congrArg BitVec.toNat hlen, (congrArg BitVec.toNat hop).trans (Nat.mod_eq_of_lt hk)⟩

/-- The low bits of the two words are those of the first. -/
theorem extractLsb'_append_low (w1 w0 : W32) {lo len : Nat} (h : lo + len ≤ 32) :
    (w1 ++ w0 : BitVec 64).extractLsb' lo len = w0.extractLsb' lo len :=
  BitVec.extractLsb'_append_eq_of_add_le h

/-- The two words, from the fields read and the opcode and length of the first word. -/
theorem words64_read64_append (w1 w0 : W32) {len : Nat} (h : bits w0 1 0 = len) :
    (LOp.read64 (w1 ++ w0)).words64 (BitVec.ofNat 8 (bits w0 9 2)) (fieldAt 10 (w1 ++ w0 : BitVec 64) 40) (BitVec.ofNat 2 len) = w1 ++ w0 := by
  rw [ofNat_bits w0 2 8 (by decide), ← extractLsb'_length h, ← extractLsb'_append_low w1 w0 (by decide), ← extractLsb'_append_low w1 w0 (by decide)]
  exact LOp.words64_read64 (w1 ++ w0)

theorem formatL64_lawful : (formatLong false).Lawful where
  length o _ h := by
    obtain ⟨pn, ps, f, la, x, b, a, d⟩ := o
    cases x with
    | reg c => rfl
    | lit s sl i => cases h
  opcode o k h hk := by
    obtain ⟨pn, ps, f, la, x, b, a, d⟩ := o
    cases x with
    | reg c => exact bits_words64 _ hk c 2
    | lit s sl i => cases h
  read_write o k h := by
    obtain ⟨pn, ps, f, la, x, b, a, d⟩ := o
    cases x with
    | reg c => exact (congrArg LOp.read64 (words_append _)).trans (LOp.read64_words64 _ _ _ _)
    | lit s sl i => cases h
  write_read w0 w1 w2 h := by
    show (let w := (LOp.read64 (w1 ++ w0)).words64 (BitVec.ofNat 8 (bits w0 9 2)) (fieldAt 10 (w1 ++ w0 : BitVec 64) 40) 2#2
      [fieldAt 32 w 0, fieldAt 32 w 32]) = [w0, w1]
    rw [words64_read64_append w1 w0 (len := 2) h]
    simp only [fieldAt_append]

/-- X of L96 is its two parts. -/
theorem ext_append (w : BitVec 64) : (fieldAt 8 w 42 ++ fieldAt 2 w 40 : BitVec 10) = fieldAt 10 w 40 := by
  apply BitVec.eq_of_getLsbD_eq
  intro i hi
  simp only [fieldAt, BitVec.getLsbD_append, BitVec.getLsbD_extractLsb']
  grind

theorem formatL96_lawful : (formatLong true).Lawful where
  length o _ h := by
    obtain ⟨pn, ps, f, la, x, b, a, d⟩ := o
    cases x with
    | reg c => cases h
    | lit s sl i => rfl
  opcode o k h hk := by
    obtain ⟨pn, ps, f, la, x, b, a, d⟩ := o
    cases x with
    | reg c => cases h
    | lit s sl i => exact bits_words64 _ hk (s ++ sl) 3
  read_write o k h := by
    obtain ⟨pn, ps, f, la, x, b, a, d⟩ := o
    cases x with
    | reg c => cases h
    | lit s sl i =>
      let o : LOp := ⟨pn, ps, f, la, .lit s sl i, b, a, d⟩
      have hx := LOp.ext_words64 o (BitVec.ofNat 8 k) s sl 3
      refine (congrArg (LOp.read96 · i) (words_append (o.words64 (BitVec.ofNat 8 k) (s ++ sl) 3))).trans ?_
      rw [LOp.read96, hx.1, hx.2, LOp.read64_words64]
  write_read w0 w1 w2 h := by
    show (let w := (LOp.read64 (w1 ++ w0)).words64 (BitVec.ofNat 8 (bits w0 9 2)) (fieldAt 8 (w1 ++ w0 : BitVec 64) 42 ++ fieldAt 2 (w1 ++ w0 : BitVec 64) 40) 3#2
      [fieldAt 32 w 0, fieldAt 32 w 32, w2]) = [w0, w1, w2]
    rw [ext_append, words64_read64_append w1 w0 (len := 3) h]
    simp only [fieldAt_append]

theorem formatLong_lawful (lit : Bool) : (formatLong lit).Lawful := by
  cases lit
  · exact formatL64_lawful
  · exact formatL96_lawful

end Sys2Proof

/-! PROOFS. The rows of the opcode maps (02 R53, R54; 13 R364). -/

namespace Sys2Proof
open Machine

/-! ### Features (02 R55) -/

/-- The FEAT0 bit that an instruction needs. -/
def Instr.feature (i : Instr) : Option Nat :=
  match i with
  | .mmv _ => some 0
  | .trace _ | .hitacc _ | .hitign _ => some 1
  | .emitv _ | .emitp _ | .emitend _ | .vbld _ | .vbary _ | .vinterp _ | .cover _ => some 2
  | .tsamp _ | .tgath _ | .tload _ | .tquery _ => some 3
  | .xcoll o => if o.w.f = 1 then some 5 else none
  | .patom _ => some 6
  | _ => none

/-- The FEAT0 bit that an opcode of a page needs, beside the F field of a scalar word. -/
def opcodeFeature (p : Page) (len op f : Nat) : Option Nat :=
  match p with
  | .lane =>
    if len = 1 then none
    else if op = 0xA7 then some 6
    else if 0xD8 ≤ op ∧ op ≤ 0xDE then some 2
    else if 0xDF ≤ op ∧ op ≤ 0xE1 then some 1
    else if 0xE2 ≤ op ∧ op ≤ 0xE5 then some 3
    else none
  | .scalar => if op = 0x56 then some 0 else if op = 0x6B ∧ f = 1 then some 5 else none
  | .sequencer => none

/-- The opcodes that trap EXT_EMU. -/
def opcodeEmu (p : Page) (len op : Nat) : Bool :=
  match p with
  | .lane => len != 1 && decide (0xE6 ≤ op ∧ op ≤ 0xEF)
  | .scalar => decide (0x58 ≤ op ∧ op ≤ 0x5F)
  | .sequencer => false

/-- The highest bit of a page's opcode field in a word of a length. -/
def opcodeTop (p : Page) (len : Nat) : Nat := if p = .lane ∧ len ≠ 1 then 9 else 8

theorem extBit_eq (p : Page) (w : W32) :
    extBit p w = opcodeFeature p (bits w 1 0) (bits w (opcodeTop p (bits w 1 0)) 2) (bits w 31 30) := by
  cases p
  · by_cases h : bits w 1 0 = 1
    · simp [extBit, opcodeFeature, h]
    · simp [extBit, opcodeFeature, opcodeTop, h]
  · rfl
  · rfl

theorem emuPoint_eq (p : Page) (w : W32) : emuPoint p w = opcodeEmu p (bits w 1 0) (bits w (opcodeTop p (bits w 1 0)) 2) := by
  cases p
  · by_cases h : bits w 1 0 = 1
    · simp [emuPoint, opcodeEmu, h]
    · simp [emuPoint, opcodeEmu, opcodeTop, h]
  · rfl
  · rfl

/-! ### Rows -/

/-- A row of an opcode map in a format: its instructions are written with its opcode, belong to a page, and need what the opcode needs. For a
row that is one constructor each holds by its definitions. -/
structure Row {α : Type} (φ : Format α) (p : Page) (k : Nat) (c : α → Instr) : Prop where
  bound : k < 2 ^ (φ.top - 1) := by decide
  top : φ.top = opcodeTop p φ.len := by rfl
  noEmu : opcodeEmu p φ.len k = false := by rfl
  encode : ∀ a, encode (c a) = φ.write a k := by intro; rfl
  page : ∀ a, (c a).page = p := by intro; rfl
  coded : ∀ a, (c a).isEvent = false := by intro; rfl
  feature : ∀ a, (c a).feature = opcodeFeature p φ.len k (bits ((φ.write a k).getD 0 0) 31 30) := by intro; rfl

/-- Two instructions of one opcode, told apart by a field. -/
theorem Row.ite {α : Type} {φ : Format α} {p : Page} {k : Nat} {c d : α → Instr} (P : α → Prop) [DecidablePred P] (hc : Row φ p k c) (hd : Row φ p k d) :
    Row φ p k fun a => if P a then c a else d a where
  bound := hc.bound
  top := hc.top
  noEmu := hc.noEmu
  encode a := by split <;> [exact hc.encode a; exact hd.encode a]
  page a := by split <;> [exact hc.page a; exact hd.page a]
  coded a := by split <;> [exact hc.coded a; exact hd.coded a]
  feature a := by split <;> [exact hc.feature a; exact hd.feature a]

/-- Every row of a table is a row of its format and page. -/
def Rows {α : Type} (φ : Format α) (p : Page) (T : List (Nat × (α → Instr))) : Prop := ∀ e ∈ T, Row φ p e.1 e.2

theorem Rows.nil {α : Type} (φ : Format α) (p : Page) : Rows φ p [] := fun _ h => nomatch h
theorem Rows.cons {α : Type} {φ : Format α} {p : Page} {k : Nat} {c : α → Instr} {T : List (Nat × (α → Instr))} (h : Row φ p k c) (hT : Rows φ p T) :
    Rows φ p ((k, c) :: T) := List.forall_mem_cons.2 ⟨h, hT⟩
theorem Rows.append {α : Type} {φ : Format α} {p : Page} {T U : List (Nat × (α → Instr))} (hT : Rows φ p T) (hU : Rows φ p U) :
    Rows φ p (T ++ U) := List.forall_mem_append.2 ⟨hT, hU⟩

/-- The two instructions of opcode 0x2F. -/
theorem vclaim_row (lit : Bool) : Row (formatLong lit) .lane 0x2F fun o => if o.d = 0 then .vclaim o else .vclaimTry o := by
  cases lit
  all_goals
    exact .ite (fun o : LOp => o.d = 0) {} {}

/-- The two instructions of opcode 0xC2. -/
theorem wcap_row (lit : Bool) : Row (formatLong lit) .lane 0xC2 fun o => if bit o.imm 11 then .wcapUntil o else .wcap o := by
  cases lit
  all_goals
    exact .ite (fun o : LOp => bit o.imm 11 = true) {} {}

/-- The two instructions of the sequencer's opcode 0x40. -/
theorem lgen_row : Row formatS32 .sequencer 0x40 fun w => if bit w.f 1 then .lgenWait w else .lgen w :=
  .ite (fun w : S32 => bit w.f 1 = true) {} {}

/-- xcoll needs EXT.LINK with F = 01 alone. -/
theorem xcoll_row : Row formatS96 .scalar 0x6B .xcoll where
  feature o := by
    show (if o.w.f = 1 then some 5 else none) = opcodeFeature .scalar 3 0x6B (bits (o.w.word (BitVec.ofNat 7 0x6B) 3) 31 30)
    rw [bits_S32_word_f]
    simp [opcodeFeature, ← BitVec.toNat_inj]

/-! The maps: every other row is one constructor. -/

theorem shortTable_rows : Rows formatL32 .lane shortTable := by
  refine .append ?_ ?_
  all_goals
    repeat' refine .cons {} ?_
    exact .nil _ _

theorem laneTable_rows (lit : Bool) : Rows (formatLong lit) .lane laneTable := by
  refine .append (.append (.append ?_ ?_) ?_) ?_
  all_goals
    repeat'
      first
        | refine .cons (vclaim_row lit) ?_
        | refine .cons (wcap_row lit) ?_
        | refine .cons (by cases lit <;> exact {}) ?_
    exact .nil _ _

theorem baseS32Table_rows : Rows formatS32 .scalar baseS32Table := by
  repeat' refine .cons {} ?_
  exact .nil _ _

theorem baseS64Table_rows : Rows formatS64 .scalar baseS64Table := by
  repeat' refine .cons {} ?_
  exact .nil _ _

theorem baseS96Table_rows : Rows formatS96 .scalar baseS96Table :=
  .cons {} (.nil _ _)

theorem scalarS32Table_rows : Rows formatS32 .scalar scalarS32Table := by
  refine .append baseS32Table_rows ?_
  repeat' refine .cons {} ?_
  exact .nil _ _

theorem scalarS64Table_rows : Rows formatS64 .scalar scalarS64Table := by
  refine .append baseS64Table_rows ?_
  repeat' refine .cons {} ?_
  exact .nil _ _

theorem scalarS96Table_rows : Rows formatS96 .scalar scalarS96Table := by
  refine .append baseS96Table_rows ?_
  repeat' refine .cons {} ?_
  exact .cons xcoll_row (.nil _ _)

/-- The band instructions that the line sequencer has beside the base (13 R364). -/
noncomputable def bandS32Table : List (Nat × (S32 → Instr)) :=
  [(0x40, fun w => if bit w.f 1 then .lgenWait w else .lgen w), (0x41, .llatch), (0x45, .lnet), (0x46, .lput), (0x47, .lpose), (0x48, .ltime),
   (0x49, .lend)]
/-- The same in S64. -/
noncomputable def bandS64Table : List (Nat × (S64 → Instr)) := [(0x42, .lfetch), (0x43, .lme), (0x44, .lwarp)]

theorem seqS32Table_eq : seqS32Table = baseS32Table ++ bandS32Table := rfl
theorem seqS64Table_eq : seqS64Table = baseS64Table ++ bandS64Table := rfl

theorem bandS32Table_rows : Rows formatS32 .sequencer bandS32Table := by
  refine .cons lgen_row ?_
  repeat' refine .cons {} ?_
  exact .nil _ _

theorem bandS64Table_rows : Rows formatS64 .sequencer bandS64Table := by
  repeat' refine .cons {} ?_
  exact .nil _ _

end Sys2Proof

/-! PROOFS. The decoder and the encoder agree (O54) and words of the manual (O55). -/

namespace Sys2Proof
open Machine

/-! ### Parsing through a table -/

section
variable {α : Type} {φ : Format α} {p : Page} {T U : List (Nat × (α → Instr))} {i : Instr}

/-- The instruction that a table gives for the words of a format. -/
def Format.parse (φ : Format α) (T : List (Nat × (α → Instr))) (w0 w1 w2 : W32) : Option Instr :=
  (T.lookup (bits w0 φ.top 2)).map fun c => c (φ.read w0 w1 w2)

theorem Format.parse_append (w0 w1 w2 : W32) : φ.parse (T ++ U) w0 w1 w2 = (φ.parse T w0 w1 w2).or (φ.parse U w0 w1 w2) := by
  rw [Format.parse, List.lookup_append, Option.map_or]
  rfl

theorem mem_of_lookup {k : Nat} {c : α → Instr} (h : T.lookup k = some c) : (k, c) ∈ T := by
  obtain ⟨l, m, rfl, -⟩ := List.lookup_eq_some_iff.1 h
  simp

/-- Words that a table's row reads are the words of the instruction read. -/
theorem Format.parse_encode (hφ : φ.Lawful) (hT : Rows φ p T) {w0 w1 w2 : W32} (h : φ.parse T w0 w1 w2 = some i) (hlen : bits w0 1 0 = φ.len) :
    i.page = p ∧ i.isEvent = false ∧ encode i = [w0, w1, w2].take (bits w0 1 0) := by
  obtain ⟨c, hc, rfl⟩ := Option.map_eq_some_iff.1 h
  have hrow := hT _ (mem_of_lookup hc)
  exact ⟨hrow.page _, hrow.coded _, by rw [hrow.encode, hφ.write_read _ _ _ hlen, hlen]⟩

/-- A row behind a table that has no row of its opcode gives its instruction. -/
theorem Format.parse_behind (hTU : ∀ e ∈ U, (T.lookup e.1).isNone = true) {w0 w1 w2 : W32} (h : φ.parse U w0 w1 w2 = some i) :
    φ.parse (T ++ U) w0 w1 w2 = some i := by
  obtain ⟨c, hc, -⟩ := Option.map_eq_some_iff.1 h
  have hnone : φ.parse T w0 w1 w2 = none := Option.map_eq_none_iff.2 (Option.isNone_iff_eq_none.1 (hTU _ (mem_of_lookup hc)))
  rw [Format.parse_append, hnone, Option.none_or, h]

/-- The instruction stands in a table: a row of it gives the instruction from fields that the format has. -/
def Listed (φ : Format α) (T : List (Nat × (α → Instr))) (i : Instr) : Prop :=
  ∃ a k, φ.holds a ∧ encode i = φ.write a k ∧ (T.lookup k).map (fun c => c a) = some i

/-- The words of an instruction, for the decoder. -/
def Instr.word (i : Instr) (k : Nat) : W32 := (encode i).getD k 0

/-- The words of an instruction of a table tell its length, its opcode's needs, and the instruction. -/
structure Coded (i : Instr) (p : Page) (parsed : Option Instr) : Prop where
  length : (encode i).length = bits (i.word 0) 1 0
  parsed : parsed = some i
  emu : emuPoint p (i.word 0) = false
  feature : extBit p (i.word 0) = i.feature

theorem Listed.coded (hφ : φ.Lawful) (hT : Rows φ p T) (h : Listed φ T i) :
    bits (i.word 0) 1 0 = φ.len ∧ Coded i p (φ.parse T (i.word 0) (i.word 1) (i.word 2)) := by
  obtain ⟨a, k, ha, hw, hi⟩ := h
  obtain ⟨c, hc, rfl⟩ := Option.map_eq_some_iff.1 hi
  have hrow := hT _ (mem_of_lookup hc)
  obtain ⟨hlen, hop⟩ := hφ.opcode a k ha hrow.bound
  have hword (n : Nat) : (c a).word n = (φ.write a k).getD n 0 := by rw [Instr.word, hw]
  have htop : opcodeTop p (bits ((φ.write a k).getD 0 0) 1 0) = φ.top := by rw [hlen, hrow.top]
  refine ⟨by rw [hword, hlen], ?_, ?_, ?_, ?_⟩
  · rw [hword, hlen, hw, hφ.length a k ha]
  · rw [Format.parse, hword, hword, hword, hop, hφ.read_write a k ha, hc]
    rfl
  · rw [hword, emuPoint_eq, htop, hlen, hop]
    exact hrow.noEmu
  · rw [hword, extBit_eq, htop, hlen, hop]
    exact (hrow.feature a).symm

end

/-! ### The tables of a page -/

section
variable {w0 w1 w2 : W32} {i : Instr}

theorem length_cases (w : W32) : bits w 1 0 = 0 ∨ bits w 1 0 = 1 ∨ bits w 1 0 = 2 ∨ bits w 1 0 = 3 := by
  have h : bits w 1 0 < 4 := Nat.mod_lt _ (by decide)
  omega

theorem parse_zero (p : Page) (h : bits w0 1 0 = 0) : parse p w0 w1 w2 = none := by
  cases p <;> simp only [parse, parseLane, parseScalar, parseSequencer, h]

theorem parse_lane1 (h : bits w0 1 0 = 1) : parse .lane w0 w1 w2 = formatL32.parse shortTable w0 w1 w2 := by
  simp only [parse, parseLane, h]; rfl
theorem parse_lane2 (h : bits w0 1 0 = 2) : parse .lane w0 w1 w2 = (formatLong false).parse laneTable w0 w1 w2 := by
  simp only [parse, parseLane, h]; rfl
theorem parse_lane3 (h : bits w0 1 0 = 3) : parse .lane w0 w1 w2 = (formatLong true).parse laneTable w0 w1 w2 := by
  simp only [parse, parseLane, h]; rfl
theorem parse_scalar1 (h : bits w0 1 0 = 1) : parse .scalar w0 w1 w2 = formatS32.parse scalarS32Table w0 w1 w2 := by
  simp only [parse, parseScalar, h]; rfl
theorem parse_scalar2 (h : bits w0 1 0 = 2) : parse .scalar w0 w1 w2 = formatS64.parse scalarS64Table w0 w1 w2 := by
  simp only [parse, parseScalar, h]; rfl
theorem parse_scalar3 (h : bits w0 1 0 = 3) : parse .scalar w0 w1 w2 = formatS96.parse scalarS96Table w0 w1 w2 := by
  simp only [parse, parseScalar, h]; rfl
theorem parseBase1 (h : bits w0 1 0 = 1) : parseBase w0 w1 w2 = formatS32.parse baseS32Table w0 w1 w2 := by
  simp only [parseBase, h]; rfl
theorem parseBase2 (h : bits w0 1 0 = 2) : parseBase w0 w1 w2 = formatS64.parse baseS64Table w0 w1 w2 := by
  simp only [parseBase, h]; rfl
theorem parseBase3 (h : bits w0 1 0 = 3) : parseBase w0 w1 w2 = formatS96.parse baseS96Table w0 w1 w2 := by
  simp only [parseBase, h]; rfl

/-! The line sequencer tries the base instructions, then the band instructions (13 R364). -/

theorem parse_sequencer1 (h : bits w0 1 0 = 1) : parse .sequencer w0 w1 w2 = formatS32.parse (baseS32Table ++ bandS32Table) w0 w1 w2 := by
  rw [← seqS32Table_eq]
  simp only [parse, parseSequencer, h]; rfl
theorem parse_sequencer2 (h : bits w0 1 0 = 2) : parse .sequencer w0 w1 w2 = formatS64.parse (baseS64Table ++ bandS64Table) w0 w1 w2 := by
  rw [← seqS64Table_eq]
  simp only [parse, parseSequencer, h]; rfl
theorem parse_sequencer3 (h : bits w0 1 0 = 3) : parse .sequencer w0 w1 w2 = parseBase w0 w1 w2 := by
  rw [parseBase3 h]
  simp only [parse, parseSequencer, h]; rfl

theorem parse_sequencer_of_base (h : parseBase w0 w1 w2 = some i) : parse .sequencer w0 w1 w2 = some i := by
  obtain hl | hl | hl | hl := length_cases w0
  · simp only [parseBase, hl] at h
    cases h
  · rw [parse_sequencer1 hl, Format.parse_append, ← parseBase1 hl, h, Option.some_or]
  · rw [parse_sequencer2 hl, Format.parse_append, ← parseBase2 hl, h, Option.some_or]
  · rw [parse_sequencer3 hl, h]

/-! ### What is parsed is written back -/

theorem parseBase_encode (h : parseBase w0 w1 w2 = some i) :
    i.page = .scalar ∧ i.isEvent = false ∧ encode i = [w0, w1, w2].take (bits w0 1 0) := by
  obtain hl | hl | hl | hl := length_cases w0
  · simp only [parseBase, hl] at h
    cases h
  · exact Format.parse_encode formatS32_lawful baseS32Table_rows (parseBase1 hl ▸ h) hl
  · exact Format.parse_encode formatS64_lawful baseS64Table_rows (parseBase2 hl ▸ h) hl
  · exact Format.parse_encode formatS96_lawful baseS96Table_rows (parseBase3 hl ▸ h) hl

theorem parse_lane_encode (h : parse .lane w0 w1 w2 = some i) :
    i.page = .lane ∧ i.isEvent = false ∧ encode i = [w0, w1, w2].take (bits w0 1 0) := by
  obtain hl | hl | hl | hl := length_cases w0
  · cases (parse_zero .lane hl).symm.trans h
  · exact Format.parse_encode formatL32_lawful shortTable_rows (parse_lane1 hl ▸ h) hl
  · exact Format.parse_encode (formatLong_lawful false) (laneTable_rows false) (parse_lane2 hl ▸ h) hl
  · exact Format.parse_encode (formatLong_lawful true) (laneTable_rows true) (parse_lane3 hl ▸ h) hl

theorem parse_scalar_encode (h : parse .scalar w0 w1 w2 = some i) :
    i.page = .scalar ∧ i.isEvent = false ∧ encode i = [w0, w1, w2].take (bits w0 1 0) := by
  obtain hl | hl | hl | hl := length_cases w0
  · cases (parse_zero .scalar hl).symm.trans h
  · exact Format.parse_encode formatS32_lawful scalarS32Table_rows (parse_scalar1 hl ▸ h) hl
  · exact Format.parse_encode formatS64_lawful scalarS64Table_rows (parse_scalar2 hl ▸ h) hl
  · exact Format.parse_encode formatS96_lawful scalarS96Table_rows (parse_scalar3 hl ▸ h) hl

/-- A parsed instruction is a base instruction, or one of the sequencer's own. -/
theorem parse_sequencer_cases (h : parse .sequencer w0 w1 w2 = some i) :
    parseBase w0 w1 w2 = some i ∨ i.page = .sequencer ∧ i.isEvent = false ∧ encode i = [w0, w1, w2].take (bits w0 1 0) := by
  obtain hl | hl | hl | hl := length_cases w0
  · cases (parse_zero .sequencer hl).symm.trans h
  · rw [parse_sequencer1 hl, Format.parse_append, ← parseBase1 hl, Option.or_eq_some_iff] at h
    exact h.imp id fun h => Format.parse_encode formatS32_lawful bandS32Table_rows h.2 hl
  · rw [parse_sequencer2 hl, Format.parse_append, ← parseBase2 hl, Option.or_eq_some_iff] at h
    exact h.imp id fun h => Format.parse_encode formatS64_lawful bandS64Table_rows h.2 hl
  · exact .inl (parse_sequencer3 hl ▸ h)

/-- What a page parses is written back: an instruction of the page, or a base instruction in the line sequencer. -/
theorem parse_encode {p : Page} (h : parse p w0 w1 w2 = some i) :
    i.isEvent = false ∧ (i.page = p ∨ p = .sequencer ∧ parseBase w0 w1 w2 = some i) ∧ encode i = [w0, w1, w2].take (bits w0 1 0) := by
  cases p with
  | lane =>
    obtain ⟨hp, hc, he⟩ := parse_lane_encode h
    exact ⟨hc, .inl hp, he⟩
  | scalar =>
    obtain ⟨hp, hc, he⟩ := parse_scalar_encode h
    exact ⟨hc, .inl hp, he⟩
  | sequencer =>
    obtain hb | ⟨hp, hc, he⟩ := parse_sequencer_cases h
    · obtain ⟨-, hc, he⟩ := parseBase_encode hb
      exact ⟨hc, .inr ⟨rfl, hb⟩, he⟩
    · exact ⟨hc, .inl hp, he⟩

end

/-! ### Fields that tell two instructions of one opcode apart -/

theorem LSpec.ok_d {p : LSpec} {o : LOp} (h : p.ok o = true) : p.d.ok o.d.toNat = true := by
  simp only [LSpec.ok, Bool.and_eq_true] at h
  obtain ⟨⟨⟨⟨⟨⟨⟨-, hd⟩, -⟩, -⟩, -⟩, -⟩, -⟩, -⟩ := h
  exact hd

/-- An instruction without an L64 form has its literal's defined values. -/
theorem LSpec.ok_litOk {p : LSpec} {o : LOp} (h : p.ok o = true) (hl : p.l64 = false) : p.litOk = true := by
  simp only [LSpec.ok, Bool.and_eq_true] at h
  obtain ⟨⟨⟨⟨⟨⟨⟨-, -⟩, -⟩, hx⟩, -⟩, -⟩, -⟩, -⟩ := h
  split at hx
  · simp [hl] at hx
  · simp only [Bool.and_eq_true] at hx
    obtain ⟨⟨⟨⟨-, hlit⟩, -⟩, -⟩, -⟩ := hx
    exact hlit

theorem wf_vclaim {o : LOp} (h : (Instr.vclaim o).wf = true) : o.d = 0 := by
  have hd := LSpec.ok_d (p := { spec2 true .unused with ps := false }) h
  exact BitVec.eq_of_toNat_eq (by simpa [spec2, Kind.ok] using hd)

theorem wf_vclaimTry {o : LOp} (h : (Instr.vclaimTry o).wf = true) : o.d ≠ 0 := by
  have hd := LSpec.ok_d (p := { spec2 true .unused with d := .triple, ps := false }) h
  rintro h0
  simp [h0, Kind.ok] at hd

theorem wf_wcap {o : LOp} (h : (Instr.wcap o).wf = true) : bit o.imm 11 = false := by
  have hl := LSpec.ok_litOk (p := ringSpec o (o.f == 0) .unused (ringCwOk o.imm false false false 0)) h rfl
  simp only [ringSpec, ringCwOk, Bool.and_eq_true, Bool.false_or, Bool.not_eq_true'] at hl
  obtain ⟨⟨⟨⟨-, hmode⟩, -⟩, -⟩, -⟩ := hl
  exact hmode

theorem wf_wcapUntil {o : LOp} (h : (Instr.wcapUntil o).wf = true) : bit o.imm 11 = true := by
  have hl := LSpec.ok_litOk (p := ringSpec o (o.f == 0) (.ring 1 1) (bit o.imm 11 && ringCwOk o.imm false true true 0)) h rfl
  simp only [ringSpec, Bool.and_eq_true] at hl
  exact hl.1

theorem wf_lgen {w : S32} (h : (Instr.lgen w).wf = true) : bit w.f 1 = false := by
  replace h : (w.regsBelow 32 && !bit w.f 1 && w.a == 0 && w.b == 0) = true := h
  simp only [Bool.and_eq_true, Bool.not_eq_true'] at h
  obtain ⟨⟨⟨-, hf⟩, -⟩, -⟩ := h
  exact hf

theorem wf_lgenWait {w : S32} (h : (Instr.lgenWait w).wf = true) : bit w.f 1 = true := by
  replace h : (w.regsBelow 32 && bit w.f 1 && w.b == 0) = true := h
  simp only [Bool.and_eq_true] at h
  obtain ⟨⟨-, hf⟩, -⟩ := h
  exact hf

/-! ### Every well-formed instruction stands in a table -/

theorem Instr.listed_short {i : Instr} {w : L32} (h : i.l32? = some w) : i.page = .lane ∧ Listed formatL32 shortTable i := by
  cases i
  all_goals
    cases h
  all_goals
    exact ⟨rfl, _, _, trivial, rfl, rfl⟩

theorem Instr.listed_long {i : Instr} {o : LOp} (h : i.lop? = some o) (hw : i.wf = true) :
    i.page = .lane ∧ Listed (formatLong o.isLit) laneTable i := by
  cases i
  all_goals
    cases h
  case vclaim =>
    refine ⟨rfl, _, _, rfl, rfl, ?_⟩
    show some (if o.d = 0 then _ else _) = _
    rw [if_pos (wf_vclaim hw)]
  case vclaimTry =>
    refine ⟨rfl, _, _, rfl, rfl, ?_⟩
    show some (if o.d = 0 then _ else _) = _
    rw [if_neg (wf_vclaimTry hw)]
  case wcap =>
    refine ⟨rfl, _, _, rfl, rfl, ?_⟩
    show some (if bit o.imm 11 then _ else _) = _
    rw [wf_wcap hw, if_neg Bool.false_ne_true]
  case wcapUntil =>
    refine ⟨rfl, _, _, rfl, rfl, ?_⟩
    show some (if bit o.imm 11 then _ else _) = _
    rw [wf_wcapUntil hw, if_pos rfl]
  all_goals
    exact ⟨rfl, _, _, rfl, rfl, rfl⟩

/-- A scalar instruction stands in a table of the scalar stream, one of the sequencer's own in a table of the sequencer. -/
theorem Instr.listed_scalar {i : Instr} {w : S32} (h : i.s32? = some w) (hw : i.wf = true) :
    i.page = .scalar ∧ (Listed formatS32 scalarS32Table i ∨ Listed formatS64 scalarS64Table i ∨ Listed formatS96 scalarS96Table i)
    ∨ i.page = .sequencer ∧ (Listed formatS32 bandS32Table i ∨ Listed formatS64 bandS64Table i) := by
  cases i
  all_goals
    cases h
  case lgen =>
    refine .inr ⟨rfl, .inl ⟨_, _, trivial, rfl, ?_⟩⟩
    show some (if bit w.f 1 then _ else _) = _
    rw [wf_lgen hw, if_neg Bool.false_ne_true]
  case lgenWait =>
    refine .inr ⟨rfl, .inl ⟨_, _, trivial, rfl, ?_⟩⟩
    show some (if bit w.f 1 then _ else _) = _
    rw [wf_lgenWait hw, if_pos rfl]
  case llatch | lnet | lput | lpose | ltime | lend => exact .inr ⟨rfl, .inl ⟨_, _, trivial, rfl, rfl⟩⟩
  case lfetch | lme | lwarp => exact .inr ⟨rfl, .inr ⟨_, _, trivial, rfl, rfl⟩⟩
  case sli | satom | mmul | mmulp | mmv | sboard | salight | swcap | swrew | xcopy | xcoll =>
    exact .inl ⟨rfl, .inr (.inr ⟨_, _, trivial, rfl, rfl⟩)⟩
  case saddS64 | ssubS64 | smulS64 | smulhiS64 | sdivS64 | sremS64 | sminS64 | smaxS64 | sandS64 | sorS64 | sxorS64 | sandnS64 | sshlS64 |
      sshrS64 | ssraS64 | sbfeS64 | sbfiS64 | smovS64 | scmpS64 | sselS64 | sleaS64 | sbr | sjmpS64 | scallS64 | sldsS64 | sstsS64 | sldgS64 |
      sstgS64 | maccLd | maccSt | maccRb | maccClr | srdvArrS64 | ssysrd | ssyswr | strapS64 =>
    exact .inl ⟨rfl, .inr (.inl ⟨_, _, trivial, rfl, rfl⟩)⟩
  all_goals
    exact .inl ⟨rfl, .inl ⟨_, _, trivial, rfl, rfl⟩⟩

/-! ### Encoding and decoding -/

/-- The words of a well-formed instruction tell its length, what its opcode needs, and on its page the instruction. -/
theorem Instr.coded {i : Instr} (hw : i.wf = true) (hc : i.isEvent = false) :
    bits (i.word 0) 1 0 ≠ 0 ∧ Coded i i.page (parse i.page (i.word 0) (i.word 1) (i.word 2)) := by
  have hkind : (∃ o, i.lop? = some o) ∨ (∃ w, i.l32? = some w) ∨ ∃ w, i.s32? = some w := by
    simp only [Instr.isEvent, Instr.isLane, Instr.isScalar, Bool.and_eq_false_iff, Bool.not_eq_false', Bool.or_eq_true, Option.isSome_iff_exists,
      or_assoc] at hc
    exact hc
  obtain ⟨o, ho⟩ | ⟨w, hs⟩ | ⟨w, hs⟩ := hkind
  · obtain ⟨hp, hl⟩ := Instr.listed_long ho hw
    obtain ⟨hlen, h⟩ := hl.coded (formatLong_lawful _) (laneTable_rows _)
    rw [hp]
    cases hlit : o.isLit
    · rw [hlit] at hlen h
      exact ⟨by rw [hlen]; decide, parse_lane2 hlen ▸ h⟩
    · rw [hlit] at hlen h
      exact ⟨by rw [hlen]; decide, parse_lane3 hlen ▸ h⟩
  · obtain ⟨hp, hl⟩ := Instr.listed_short hs
    obtain ⟨hlen, h⟩ := hl.coded formatL32_lawful shortTable_rows
    rw [hp]
    exact ⟨by rw [hlen]; decide, parse_lane1 hlen ▸ h⟩
  · obtain ⟨hp, hl | hl | hl⟩ | ⟨hp, hl | hl⟩ := Instr.listed_scalar hs hw
    all_goals rw [hp]
    · obtain ⟨hlen, h⟩ := hl.coded formatS32_lawful scalarS32Table_rows
      exact ⟨by rw [hlen]; decide, parse_scalar1 hlen ▸ h⟩
    · obtain ⟨hlen, h⟩ := hl.coded formatS64_lawful scalarS64Table_rows
      exact ⟨by rw [hlen]; decide, parse_scalar2 hlen ▸ h⟩
    · obtain ⟨hlen, h⟩ := hl.coded formatS96_lawful scalarS96Table_rows
      exact ⟨by rw [hlen]; decide, parse_scalar3 hlen ▸ h⟩
    · obtain ⟨hlen, h⟩ := hl.coded formatS32_lawful bandS32Table_rows
      exact ⟨by rw [hlen]; decide, { h with parsed := parse_sequencer1 hlen ▸ Format.parse_behind (by decide) h.parsed }⟩
    · obtain ⟨hlen, h⟩ := hl.coded formatS64_lawful bandS64Table_rows
      exact ⟨by rw [hlen]; decide, { h with parsed := parse_sequencer2 hlen ▸ Format.parse_behind (by decide) h.parsed }⟩

theorem scalarOk_of_sequencer {i : Instr} (hp : i.page = .sequencer) (hw : i.wf = true) : scalarOk i = true := by
  cases i
  all_goals
    cases hp
  all_goals
    exact hw

/-- The line sequencer's own instructions name registers below s32 alone (13 R364). -/
theorem regsBelow_of_sequencer {i : Instr} (hp : i.page = .sequencer) (hw : i.wf = true) : ∃ w, i.s32? = some w ∧ w.regsBelow 32 = true := by
  have hok := scalarOk_of_sequencer hp hw
  cases i
  all_goals
    cases hp
  case lend w =>
    simp only [scalarOk, Bool.and_eq_true, beq_iff_eq] at hok
    exact ⟨w, rfl, by simp [S32.regsBelow, hok]⟩
  all_goals
    simp only [scalarOk, Bool.and_eq_true, and_assoc] at hok
    exact ⟨_, rfl, hok.1⟩

theorem pageOk_of_ne {p : Page} (hp : p ≠ .sequencer) (i : Instr) : pageOk p i = i.wf := by
  cases p <;> simp_all [pageOk]

theorem pageOk_sequencer {i : Instr} {w : S32} (hs : i.s32? = some w) (hr : w.regsBelow 32 = true) : pageOk .sequencer i = i.wf := by
  simp [pageOk, hs, hr]

theorem wf_of_pageOk {p : Page} {i : Instr} (h : pageOk p i = true) : i.wf = true := by
  simp only [pageOk, Bool.and_eq_true] at h
  exact h.1

theorem ne_zero_of_bits {w : W32} {hi lo : Nat} (h : bits w hi lo ≠ 0) : w ≠ 0 := by
  rintro rfl
  simp [bits] at h

/-- An instruction that its page parses and allows, at no EXT_EMU code point: it is decoded where its feature bit is 1. -/
theorem decode_parsed {p : Page} {w0 w1 w2 : W32} {i : Instr} (hlen : bits w0 1 0 ≠ 0) (hemu : emuPoint p w0 = false)
    (hp : parse p w0 w1 w2 = some i) (hok : pageOk p i = true) (feat : W32) :
    decode p feat w0 w1 w2 = if (match extBit p w0 with | some k => bit feat k | none => true) then .instr i else .extEmu := by
  simp only [decode, ne_zero_of_bits hlen, hlen, hemu, hp, hok, if_false, if_true, Bool.false_or]
  cases extBit p w0 with
  | none => simp
  | some k => cases hk : bit feat k <;> simp [hk]

/-- Decoded words are parsed, and their fields allowed on the page. -/
theorem decode_eq_instr {p : Page} {feat w0 w1 w2 : W32} {i : Instr} (h : decode p feat w0 w1 w2 = .instr i) :
    parse p w0 w1 w2 = some i ∧ pageOk p i = true := by
  unfold decode at h
  split_ifs at h
  cases hp : parse p w0 w1 w2 with
  | none => simp only [hp, reduceCtorEq] at h
  | some j =>
    simp only [hp] at h
    split_ifs at h with hok
    cases h
    exact ⟨rfl, hok⟩

theorem decode_extEmu {p : Page} {feat w0 w1 w2 : W32} (hlen : bits w0 1 0 ≠ 0) (hemu : emuPoint p w0 = true) :
    decode p feat w0 w1 w2 = .extEmu := by
  rw [decode, if_neg (ne_zero_of_bits hlen), if_neg hlen, hemu, Bool.true_or, if_pos rfl]


/-- Settles O54: a well-formed instruction stands in a table of its page, whose row reads back the fields that the words were written
with; and what a row reads from words is written back to them. -/
theorem decodeAndEncodeAgree : Obligations.DecodeAndEncodeAgree := by
  unfold Obligations.DecodeAndEncodeAgree
  refine ⟨fun i hw hc => ?encoded, fun p feat w0 w1 w2 i h => ?decoded, fun p feat w0 w1 w2 => ⟨?zero, ?illegal, ?lane, ?scalar⟩⟩
  case encoded =>
    obtain ⟨hlen, h⟩ := Instr.coded hw hc
    refine ⟨h.length, fun feat => ?_, fun hb ⟨w, hs, hr⟩ feat => ?_⟩
    · have hok : pageOk i.page i = true := by
        by_cases hp : i.page = .sequencer
        · obtain ⟨w, hs, hr⟩ := regsBelow_of_sequencer hp hw
          rw [hp, pageOk_sequencer hs hr, hw]
        · rw [pageOk_of_ne hp, hw]
      have hd := decode_parsed hlen h.emu h.parsed hok feat
      rw [h.feature] at hd
      exact hd
    · exact decode_parsed (p := .sequencer) hlen rfl (parse_sequencer_of_base hb) (by rw [pageOk_sequencer hs hr, hw]) feat
  case decoded =>
    obtain ⟨hp, hok⟩ := decode_eq_instr h
    obtain ⟨hc, hpage, he⟩ := parse_encode hp
    exact ⟨wf_of_pageOk hok, hc, hpage, he⟩
  case zero => exact fun h => if_pos h
  case illegal => exact fun h hl => by rw [decode, if_neg h, if_pos hl]
  case lane =>
    rintro rfl hl hlo hhi
    exact decode_extEmu (by omega) (by simp [emuPoint, hlo, hhi]; omega)
  case scalar =>
    rintro rfl hl hlo hhi
    exact decode_extEmu (by omega) (by simp [emuPoint, hlo, hhi])

/-- Settles O55: each word is decoded by evaluating the model. -/
theorem wordsOfTheManual : Obligations.WordsOfTheManual := by
  unfold Obligations.WordsOfTheManual
  decide

end Sys2Proof

/-! PROOFS. The G = 1 forms (O6) and the range traps of register fields and points (O27). -/

namespace Sys2Proof.Machine
open Sys2Proof

/-! ### G = 1 forms (02 R42; 03 R75, R77) -/

theorem exec_group2 {i : Instr} {w : L32} {s : State} {wide bw signed : Bool} {f : Nat → Nat → Nat} (h : w.g = true) :
    short2 i w s wide bw signed f = gExec i s wide w.d.toNat (f (s.gVal wide w.a.toNat) (s.gVal bw w.b.toNat)) := if_pos h

theorem exec_group1 {i : Instr} {w : L32} {s : State} {dw aw : Bool} {f : Nat → Nat} (h : w.g = true) :
    short1 i w s dw aw f = gExec i s dw w.d.toNat (f (s.gVal aw w.a.toNat)) := if_pos h

/-- Settles O6: every G = 1 form is the shared operation on g registers, with the function of the lane form. -/
theorem groupRegisterForms : Obligations.GroupRegisterForms := by
  unfold Obligations.GroupRegisterForms EachGroupForm
  refine ⟨?add, ?sub, ?mul, ?min, ?max, ?and, ?or, ?xor, ?andn, ?not, ?shl, ?shr, ?sra, ?rotl, ?popc, ?clz, ?ctz, ?mov⟩
  case not | popc | clz | ctz => exact groupGives_of_gExec (fun _ => rfl) fun w s hg => exec_group1 hg
  case mov => exact groupGives_of_gExec (fun _ => rfl) fun w s hg => if_pos hg
  all_goals exact groupGives_of_gExec (fun _ => rfl) fun w s hg => exec_group2 hg

/-! ### Range traps (02 R57, R58) -/

theorem findSome?_eq_map_find? {α β : Type} {f : α → Option β} {p : α → Bool} {g : α → β} (h : ∀ a, f a = if p a then some (g a) else none)
    (l : List α) : l.findSome? f = (l.find? p).map g := by
  induction l with
  | nil => rfl
  | cons a l ih =>
    rw [List.findSome?_cons, List.find?_cons, h a, ih]
    cases p a <;> rfl

/-- The outcome behind the decode checks: the trap that they find, or y. -/
def trapOr (s : State) (i : Instr) (c : Option Trap) (y : Out) : Out :=
  match c with
  | some x => .next (s.raise x i.size)
  | none => y

theorem trapOr_laneCheck {i : Instr} {o : LOp} {s : State} {x : Trap} {y : Out} (h : s.laneCheck i o = some x) :
    trapOr s i (s.laneCheck i o) y = .next (s.raise x i.size) := by
  rw [h]
  rfl

/-- A lane instruction in its long form that fails its decode checks traps; a patom without its routine and a cover outside a raster
team do not come to them (07 R205; 12 R339). -/
theorem exec_traps_long {i : Instr} {o : LOp} {s : State} {x : Trap} (ho : i.lop? = some o) (h : s.laneCheck i o = some x)
    (hcover : i = .cover o → s.team.raster ≠ none) (hpatom : i = .patom o → (s.vf s.team.vf).routines.lookup o.imm.toNat ≠ none) :
    exec i s = .next (s.raise x i.size) := by
  cases i
  all_goals
    cases ho
  case patom =>
    obtain ⟨ws, hws⟩ := Option.ne_none_iff_exists'.1 (hpatom rfl)
    dsimp only [exec, execPatom]
    rw [hws]
    exact trapOr_laneCheck h
  case cover =>
    obtain ⟨r, hr⟩ := Option.ne_none_iff_exists'.1 (hcover rfl)
    dsimp only [exec, execCover]
    rw [hr]
    exact trapOr_laneCheck h
  all_goals
    exact trapOr_laneCheck h

theorem ungrouped_traps {i : Instr} {w : L32} {s : State} {x : Trap} {y z : Out} (hg : w.g = false) (h : s.laneCheck i w.toLOp = some x) :
    (if w.g = true then z else trapOr s i (s.laneCheck i w.toLOp) y) = .next (s.raise x i.size) := by
  rw [if_neg (by simp [hg]), trapOr_laneCheck h]

/-- The same for a short form with G = 0; those of floating point have no G form. -/
theorem exec_traps_short {i : Instr} {w : L32} {s : State} {x : Trap} (hw : i.l32? = some w) (hg : w.g = false)
    (h : s.laneCheck i w.toLOp = some x) : exec i s = .next (s.raise x i.size) := by
  cases i
  all_goals
    cases hw
  case faddL32 | fsubL32 | fmulL32 | fminL32 | fmaxL32 | fsgnL32 | fclassL32 | frndL32 | fexpoL32 | cvtL32 | cvtfiL32 | cvtifL32 | cvtxL32 =>
    exact trapOr_laneCheck h
  all_goals
    exact ungrouped_traps hg h

/-- A field whose block reaches the count of v registers (02 R58). -/
def reaches (count : Nat) (f : Kind × Nat) : Bool := match f.1 with | .v n _ | .ring n _ => decide (count < f.2 + n) | _ => false
/-- A field that names a point at or beyond the declared count (02 R57). -/
def undeclared (count : Nat) (f : Kind × Nat) : Bool := match f.1 with | .point => decide (count ≤ f.2) | _ => false

theorem beyond_eq (count : Nat) (f : Kind × Nat) : beyond count f.1 f.2 = if reaches count f then some (max count f.2) else none := by
  obtain ⟨k, x⟩ := f
  cases k <;> simp [beyond, reaches, max_comm]

theorem beyondPoint_eq (count : Nat) (f : Kind × Nat) : beyondPoint count f.1 f.2 = if undeclared count f then some f.2 else none := by
  obtain ⟨k, x⟩ := f
  cases k <;> simp [beyondPoint, undeclared]

/-- The decode checks find the first field that fails, registers before points. -/
theorem State.laneCheck_eq {s : State} {i : Instr} {o : LOp} {p : LSpec} (hp : laneSpec i.long = some p) :
    s.laneCheck i o =
      match (specFields p o).find? (reaches s.grp.vcount) with
      | some f => some { cause := 0x04, tval := BitVec.ofNat 64 (max s.grp.vcount f.2) }
      | none =>
        match (specFields p o).find? (undeclared s.team.hdr.rdv) with
        | some f => some { cause := 0x05, tval := BitVec.ofNat 64 f.2 }
        | none => none := by
  rw [State.laneCheck, hp]
  simp only [findSome?_eq_map_find? (beyond_eq s.grp.vcount), findSome?_eq_map_find? (beyondPoint_eq s.team.hdr.rdv)]
  cases (specFields p o).find? (reaches s.grp.vcount) with
  | some f => rfl
  | none => cases (specFields p o).find? (undeclared s.team.hdr.rdv) <;> rfl

/-- Settles O27: the checks find the first failing field, and they come first in every lane instruction but cover and patom. -/
theorem registerRangeTraps : Obligations.RegisterRangeTraps := by
  unfold Obligations.RegisterRangeTraps
  refine fun i o s hform p hp => ⟨State.laneCheck_eq hp, fun x hx hcover hpatom => ?_⟩
  obtain ho | ⟨w, hw, hg, rfl⟩ := hform
  · exact exec_traps_long ho hx hcover hpatom
  · exact exec_traps_short hw hg hx

end Sys2Proof.Machine

/-! PROOFS. Units reach the points of their team (15 R395, R397, R399; the first clause of O47). -/

namespace Sys2Proof.Machine
open Sys2Proof

/-! ### What a point expects after drops -/

/-- The expected count after drops: what is left of a point's count, or the drops that came before its init. -/
def Point.lowered (p : Point) (drops : Nat) : W32 :=
  if p.init then BitVec.ofNat 32 (p.expected.toNat - drops) else p.expected + BitVec.ofNat 32 drops

theorem ofNat_toNat_sub_one (e : W32) (k : Nat) :
    BitVec.ofNat 32 ((if e = 0 then 0 else e - 1 : W32).toNat - k) = BitVec.ofNat 32 (e.toNat - (k + 1)) := by
  by_cases h : e = 0
  · subst h; simp
  · have h1 : 1 ≤ e.toNat := Nat.one_le_iff_ne_zero.2 fun c => h (BitVec.eq_of_toNat_eq c)
    have h2 : (e - 1).toNat = e.toNat - 1 := by bv_omega
    rw [if_neg h, h2]
    congr 1
    omega

/-- Lowering a point's expected count drop by drop is lowering it by their number. -/
theorem foldl_drops (p : Point) (us : List ArrUnit) :
    us.foldl (fun e u => if !u.drop then e else if p.init then (if e = 0 then 0 else e - 1) else e + 1) p.expected
      = p.lowered (us.filter fun u => u.drop).length := by
  unfold Point.lowered
  cases p.init <;> generalize p.expected = e
  · induction us generalizing e with
    | nil => simp
    | cons u us ih =>
      rw [List.foldl_cons, ih]
      cases hd : u.drop
      · simp [hd]
      · simp [hd, BitVec.ofNat_add, BitVec.add_assoc, BitVec.add_comm]
  · induction us generalizing e with
    | nil => simp
    | cons u us ih =>
      rw [List.foldl_cons, ih]
      cases hd : u.drop
      · simp [hd]
      · simpa [hd] using ofNat_toNat_sub_one e _

/-- What a point has received once the units us reach it. -/
def Point.received (p : Point) (us : List ArrUnit) : W32 := p.arrived + BitVec.ofNat 32 (us.map (·.units)).sum

/-- The units us complete a phase of a point. -/
def Point.completes (p : Point) (us : List ArrUnit) : Prop :=
  us ≠ [] ∧ p.init = true ∧ (p.lowered (us.filter fun u => u.drop).length).toNat ≤ (p.received us).toNat

theorem Point.completes_iff (p : Point) (us : List ArrUnit) : p.completes us ↔ us ≠ [] ∧ p.init = true
    ∧ (BitVec.ofNat 32 (p.expected.toNat - (us.filter fun u => u.drop).length)).toNat
      ≤ (p.arrived + BitVec.ofNat 32 (us.map (·.units)).sum).toNat := by
  unfold Point.completes Point.lowered Point.received
  exact and_congr_right fun _ => and_congr_right fun hi => by rw [if_pos hi]

theorem Point.receive_eq (p : Point) (us : List ArrUnit) :
    (p.completes us → p.receive us =
      ({ p with expected := p.lowered (us.filter fun u => u.drop).length, arrived := 0, phase := p.phase + 1 }, true))
    ∧ (¬p.completes us → p.receive us =
      ({ p with expected := p.lowered (us.filter fun u => u.drop).length, arrived := p.received us }, false)) := by
  unfold Point.receive
  dsimp only
  rw [foldl_drops]
  refine ⟨fun ⟨hu, hi, he⟩ => if_pos ⟨hi, hu, he⟩, fun h => if_neg fun ⟨hi, hu, he⟩ => h ⟨hu, hi, he⟩⟩

theorem Point.not_completes_nil (p : Point) : ¬p.completes [] := fun h => h.1 rfl

theorem Point.receive_nil (p : Point) : p.receive [] = (p, false) := by
  rw [(p.receive_eq []).2 p.not_completes_nil]
  simp [Point.lowered, Point.received]

theorem Point.receive_snd (p : Point) (us : List ArrUnit) : (p.receive us).2 = true ↔ p.completes us := by
  by_cases h : p.completes us
  · simp [(p.receive_eq us).1 h, h]
  · simp [(p.receive_eq us).2 h, h]

/-! ### One cycle of a team's points -/

/-- Point n of a team acts in a cycle on the units that reach it. -/
def Team.pointActs (units : List ArrUnit) (t : Team) (n : Nat) : Team :=
  let us := units.filter fun x => x.point == n
  if us = [] then t
  else us.foldl (fun v x => v.deliver (t.points.get {} n : Point).phase x) (t.setPoint n ((t.points.get {} n : Point).receive us))

theorem Team.unitsArrive_eq (t : Team) :
    let r := (List.range 24).foldl (Team.pointActs t.units) { t with units := [] }
    t.unitsArrive = { r with raceGen := if r.raceGen = t.raceGen then t.raceGen else t.raceGen + 1 } := rfl

/-- What the senders of units do not see: the points, the units on their way, the race generation. -/
def Team.pointPart (t : Team) : Store Point × List ArrUnit × W32 := (t.points, t.units, t.raceGen)

theorem Team.pointPart_deliver (t : Team) (phase : W32) (u : ArrUnit) : (t.deliver phase u).pointPart = t.pointPart := by
  unfold Team.deliver
  cases u.frag <;> cases u.scalar <;> rfl

theorem Team.pointPart_pointActs (units : List ArrUnit) (t : Team) (n : Nat) :
    (t.pointActs units n).pointPart = if units.filter (fun x => x.point == n) = [] then t.pointPart
      else (t.setPoint n ((t.points.get {} n : Point).receive (units.filter fun x => x.point == n))).pointPart := by
  unfold Team.pointActs
  dsimp only
  split
  · rfl
  · exact foldl_keeps Team.pointPart _ (fun v x => v.pointPart_deliver _ x) _ _

theorem Team.points_pointActs (units : List ArrUnit) (t : Team) (n m : Nat) :
    (t.pointActs units n).points.get {} m =
      if m = n then ((t.points.get {} n : Point).receive (units.filter fun x => x.point == n)).1 else t.points.get {} m := by
  have h : (t.pointActs units n).points = _ := congrArg Prod.fst (t.pointPart_pointActs units n)
  rw [h]
  split
  · next hu =>
    rw [hu, Point.receive_nil]
    split
    · next hm => subst hm; rfl
    · rfl
  · exact Store.get_set _ _ _ _ _

theorem Team.units_pointActs (units : List ArrUnit) (t : Team) (n : Nat) : (t.pointActs units n).units = t.units := by
  have h : (t.pointActs units n).units = _ := congrArg (fun p => p.2.1) (t.pointPart_pointActs units n)
  rw [h]
  split <;> rfl

theorem Team.raceGen_pointActs (units : List ArrUnit) (t : Team) (n : Nat) :
    (t.pointActs units n).raceGen =
      if ((t.points.get {} n : Point).receive (units.filter fun x => x.point == n)).2 then t.raceGen + 1 else t.raceGen := by
  have h : (t.pointActs units n).raceGen = _ := congrArg (fun p => p.2.2) (t.pointPart_pointActs units n)
  rw [h]
  split
  · next hu => rw [hu, Point.receive_nil]; rfl
  · rfl

section
variable (units : List ArrUnit) (t : Team)

theorem Team.points_foldl_pointActs (k m : Nat) :
    ((List.range k).foldl (Team.pointActs units) t).points.get {} m =
      if m < k then ((t.points.get {} m : Point).receive (units.filter fun x => x.point == m)).1 else t.points.get {} m := by
  induction k with
  | zero => rfl
  | succ k ih =>
    rw [List.range_succ, List.foldl_append, List.foldl_cons, List.foldl_nil, Team.points_pointActs]
    by_cases h : m = k
    · subst h
      rw [if_pos rfl, ih, if_neg (Nat.lt_irrefl m), if_pos (Nat.lt_succ_self m)]
    · rw [if_neg h, ih]
      simp only [show m < k + 1 ↔ m < k by omega]

/-- Every phase that completes raises the race generation of the fold by one. -/
theorem Team.raceGen_foldl_pointActs (k : Nat) :
    ((List.range k).foldl (Team.pointActs units) t).raceGen = t.raceGen + BitVec.ofNat 32
      ((List.range k).countP fun n => ((t.points.get {} n : Point).receive (units.filter fun x => x.point == n)).2) := by
  induction k with
  | zero => simp
  | succ k ih =>
    rw [List.range_succ, List.foldl_append, List.foldl_cons, List.foldl_nil, Team.raceGen_pointActs, ih, Team.points_foldl_pointActs,
      if_neg (Nat.lt_irrefl k), List.countP_append, List.countP_singleton]
    split <;> simp [BitVec.ofNat_add, BitVec.add_assoc]

/-- The points of a team after a cycle. -/
theorem Team.points_unitsArrive (n : Nat) (hn : n < 24) :
    (t.unitsArrive).points.get {} n = ((t.points.get {} n : Point).receive (t.units.filter fun x => x.point == n)).1 :=
  (Team.points_foldl_pointActs t.units { t with units := [] } 24 n).trans (if_pos hn)

theorem Team.units_unitsArrive : t.unitsArrive.units = [] :=
  foldl_keeps Team.units _ (fun v n => v.units_pointActs t.units n) (List.range 24) { t with units := [] }

/-- The race generation rises by one, however many phases complete. -/
theorem Team.raceGen_unitsArrive :
    ((∃ n < 24, (t.points.get {} n : Point).completes (t.units.filter fun x => x.point == n)) → t.unitsArrive.raceGen = t.raceGen + 1)
    ∧ ((∀ n < 24, ¬(t.points.get {} n : Point).completes (t.units.filter fun x => x.point == n)) → t.unitsArrive.raceGen = t.raceGen) := by
  have hr := Team.raceGen_foldl_pointActs t.units { t with units := [] } 24
  have hle := List.countP_le_length (l := List.range 24)
    (p := fun n => ((t.points.get {} n : Point).receive (t.units.filter fun x => x.point == n)).2)
  have hpos := List.countP_pos_iff (l := List.range 24)
    (p := fun n => ((t.points.get {} n : Point).receive (t.units.filter fun x => x.point == n)).2)
  simp only [List.mem_range, Point.receive_snd] at hpos
  rw [List.length_range] at hle
  rw [Team.unitsArrive_eq]
  dsimp only at hr ⊢
  rw [hr]
  generalize List.countP _ _ = c at hle hpos
  refine ⟨fun h => if_neg ?_, fun h => if_pos ?_⟩
  · have := hpos.2 h
    bv_omega
  · have hc : c = 0 := by
      by_contra hc
      obtain ⟨n, hn, hp⟩ := hpos.1 (Nat.pos_of_ne_zero hc)
      exact h n hn hp
    simp [hc]
end

/-! ### A cycle with one unit -/

/-- A fold over a range in which one index alone acts. -/
theorem foldl_range_of_one {α : Type} (f : α → Nat → α) {n : Nat} (h : ∀ a m, m ≠ n → f a m = a) (a : α) (k : Nat) :
    (List.range k).foldl f a = if n < k then f a n else a := by
  induction k with
  | zero => rfl
  | succ k ih =>
    rw [List.range_succ, List.foldl_append, List.foldl_cons, List.foldl_nil, ih]
    by_cases hk : k = n
    · subst hk; simp
    · rw [h _ _ hk]
      simp only [show n < k + 1 ↔ n < k by omega]

/-- With one unit on its way, what a cycle delivers is what that unit's sender receives. -/
theorem Team.unitsArrive_of_one {t : Team} {y : ArrUnit} (hu : t.units = [y]) (hy : y.point < 24) :
    ∃ v : Team, t.unitsArrive = { v.deliver (t.points.get {} y.point : Point).phase y with raceGen := t.unitsArrive.raceGen } := by
  have hf : ∀ (a : Team) m, m ≠ y.point → a.pointActs [y] m = a := by
    intro a m hm
    have : (y.point == m) = false := by simpa using hm.symm
    simp [Team.pointActs, this]
  refine ⟨({ t with units := [] } : Team).setPoint y.point ((t.points.get {} y.point : Point).receive [y]), ?_⟩
  have h := foldl_range_of_one (Team.pointActs [y]) hf { t with units := [] } 24
  rw [if_pos hy] at h
  have hp : ({ t with units := [] } : Team).pointActs [y] y.point
      = (({ t with units := [] } : Team).setPoint y.point ((t.points.get {} y.point : Point).receive [y])).deliver
          (t.points.get {} y.point : Point).phase y := by
    simp [Team.pointActs]
  rw [Team.unitsArrive_eq, hu]
  dsimp only
  rw [h, hp]

theorem Team.deliver_frag {v : Team} {phase : W32} {y : ArrUnit} {g d : Nat} {b : Bool} (hf : y.frag = some (g, b)) (hd : y.dest = some d) :
    let grp : Group := (v.deliver phase y).groups.get {} g
    (grp.slotOf b).inRdv = false ∧ grp.g.get 0 d = phase := by
  unfold Team.deliver
  rw [hf, hd]
  cases y.scalar <;> cases b <;> simp [Group.setSlot, Group.slotOf]

theorem Team.deliver_scalar {v : Team} {phase : W32} {y : ArrUnit} {d : Nat} (hs : y.scalar = true) (hd : y.dest = some d) (h0 : d ≠ 0) :
    (v.deliver phase y).sinRdv = false ∧ (v.deliver phase y).s.get 0 d = phase.zeroExtend 64 := by
  unfold Team.deliver
  rw [hs, hd]
  cases y.frag <;> simp [h0]

/-! ### The event -/

/-- Listing a key changes what is read of that key alone. -/
theorem get_set_alone {α : Type} (d : α) (m : Store α) (i : Nat) (x : α) :
    (∀ j, j ≠ i → Store.get d (Store.set m i x) j = Store.get d m j) ∧ Store.get d (Store.set m i x) i = x :=
  ⟨fun _ hj => Store.get_set_ne d m x hj, Store.get_set_self d m i x⟩

theorem teamIs_set (s : State) (u : Nat) (x : Team) : TeamIs s { s with teams := s.teams.set u x } u x := get_set_alone _ _ _ _

section
variable {s : State} (hcur : s.cur = {}) {u : Nat}
include hcur

theorem idle_rdvUnitsArrive (h : (s.teams.get {} u : Team).live = false) : Idle (.rdvUnitsArrive u) s := by
  show execRdvUnitsArrive u s = .next s
  simp only [execRdvUnitsArrive, State.onLive, State.teamOf_of_idle hcur, h, Bool.false_eq_true, if_false]

theorem exec_rdvUnitsArrive (h : (s.teams.get {} u : Team).live = true) :
    exec (.rdvUnitsArrive u) s = .next { s with teams := s.teams.set u (s.teams.get {} u : Team).unitsArrive } := by
  show execRdvUnitsArrive u s = _
  simp only [execRdvUnitsArrive, State.onLive, State.teamOf_of_idle hcur, h, if_true, State.onTeam_of_idle hcur]

end

/-- A team's point after a cycle. -/
theorem Team.point_unitsArrive (x : Team) (n : Nat) (hn : n < 24) :
    let us := x.units.filter fun y => y.point == n
    let p : Point := x.points.get {} n
    let drops := (us.filter fun y => y.drop).length
    let e : W32 := if p.init then BitVec.ofNat 32 (p.expected.toNat - drops) else p.expected + BitVec.ofNat 32 drops
    let a : W32 := p.arrived + BitVec.ofNat 32 (us.map (·.units)).sum
    x.unitsArrive.points.get {} n =
      if us = [] then p
      else if p.init = true ∧ e.toNat ≤ a.toNat then { p with expected := e, arrived := 0, phase := p.phase + 1 }
      else { p with expected := e, arrived := a } := by
  intro us p drops e a
  rw [x.points_unitsArrive n hn]
  by_cases hu : us = []
  · rw [if_pos hu]
    exact congrArg Prod.fst ((congrArg p.receive hu).trans p.receive_nil)
  · rw [if_neg hu]
    by_cases hc : p.init = true ∧ e.toNat ≤ a.toNat
    · rw [if_pos hc]
      exact congrArg Prod.fst ((p.receive_eq us).1 ⟨hu, hc⟩)
    · rw [if_neg hc]
      exact congrArg Prod.fst ((p.receive_eq us).2 fun h => hc h.2)

end Sys2Proof.Machine

/-! PROOFS. Windows close, a record's timer expires, a deadlock traps (02 R49, R50; 05 R133, R136; the second clause of O47). -/

namespace Sys2Proof.Machine
open Sys2Proof

/-! ### Acting on one fragment of a group -/

/-- A fragment's slot, put into focus. -/
def State.atSlot (s : State) (u g : Nat) (b : Bool) : State :=
  s.laneFocus u g b (s.teams.get {} u) ((s.teams.get {} u : Team).groups.get {} g)

/-- The team T with group g replaced by G, into whose slot the fragment F has gone back. -/
def Team.slotBack (T : Team) (g : Nat) (G : Group) (b : Bool) (F : Fragment) : Team := { T with groups := T.groups.set g (G.setSlot b F) }

theorem Team.group_slotBack (T : Team) (g : Nat) (G : Group) (b : Bool) (F : Fragment) :
    (T.slotBack g G b F).groups.get {} g = G.setSlot b F := Store.get_set_self _ _ _ _

theorem Group.setSlot_slotOf (g : Group) (b : Bool) : g.setSlot b (g.slotOf b) = g := by cases b <;> rfl

/-- A change of a fragment, its group and its team writes the team back, and leaves nothing else changed. -/
theorem State.asFragment_gives {s : State} (hcur : s.cur = {}) {u g : Nat} {b : Bool} {f : State → State} {T : Team} {G : Group} {F : Fragment}
    (hf : f (s.atSlot u g b) = { s.atSlot u g b with team := T, grp := G, frag := F }) :
    let t := s.asFragment u g b f
    t.cur = {} ∧ t.teams = s.teams.set u (T.slotBack g G b F) ∧ t.unfocus = { s.unfocus with teams := t.teams } := by
  have hfocus : s.focus { stream := .lane, uid := u, gid := g, slotB := b } = s.atSlot u g b := rfl
  have h : s.asFragment u g b f = { s with
      team := T.slotBack g G b F, grp := G.setSlot b F, frag := F, teams := s.teams.set u (T.slotBack g G b F) } := by
    unfold State.asFragment
    rw [flush_of_idle hcur, hfocus, hf]
    dsimp only
    rw [hcur, State.focus, reload_of_idle rfl, ← hcur]
    rfl
  intro t
  have ht : t = _ := h
  refine ⟨ht ▸ hcur, ht ▸ rfl, ?_⟩
  unfold State.unfocus
  rw [flush_of_idle (ht ▸ hcur), flush_of_idle hcur, ht]

/-- A change that finds nothing to do writes back what it read. -/
theorem State.asFragment_same {s : State} (hcur : s.cur = {}) {u g : Nat} {b : Bool} {f : State → State}
    (hf : f (s.atSlot u g b) = s.atSlot u g b) :
    let t := s.asFragment u g b f
    t.cur = {} ∧ t.unfocus = { s.unfocus with teams := t.teams }
    ∧ (t.teams.get {} u : Team).groups.get {} g = (s.teams.get {} u : Team).groups.get {} g := by
  intro t
  obtain ⟨hc, ht, hu⟩ := State.asFragment_gives hcur (hf.trans rfl : f (s.atSlot u g b) =
    { s.atSlot u g b with team := (s.atSlot u g b).team, grp := (s.atSlot u g b).grp, frag := (s.atSlot u g b).frag })
  refine ⟨hc, hu, ?_⟩
  show (Store.get {} (s.asFragment u g b f).teams u : Team).groups.get {} g = _
  rw [ht, Store.get_set_self, Team.group_slotBack]
  exact Group.setSlot_slotOf _ b

theorem State.unfocus_of_settled {s : State} (h : s.Settled) : s.unfocus = s := by
  obtain ⟨hc, ht, hg, hf, hh⟩ := h
  unfold State.unfocus
  rw [flush_of_idle hc, ← hc, ← ht, ← hg, ← hf, ← hh]

/-- From a settled state, a change of the teams alone is one once the focus has ended. -/
theorem State.unfocus_teams {s t : State} (hs : s.Settled) (hc : t.cur = {}) (ht : t.unfocus = { s.unfocus with teams := t.teams }) :
    t.unfocus = { s with teams := t.unfocus.teams } ∧ t.unfocus.teams = t.teams := by
  have h : t.unfocus.teams = t.teams := by
    unfold State.unfocus
    rw [flush_of_idle hc]
  exact ⟨by rw [h, ht, State.unfocus_of_settled hs], h⟩

/-! ### Closing windows -/

/-- A window that may close: no instruction may enter it, and its results are there. -/
def Window.due (w : Window) : Prop := w.left = 0 ∧ w.waiting = 0 ∧ w.fault = none

theorem State.closeDue_none {s : State} (h : s.frag.windows = []) : s.closeDue = s := by
  unfold State.closeDue
  rw [h]
  obtain ⟨⟩ := s
  simp only at h
  simp only [splitDue, List.foldl_nil]
  rw [← h]

theorem State.closeDue_due {s : State} {w : Window} (h : s.frag.windows = [w]) (hw : w.due) :
    s.closeDue = ({ s with frag := { s.frag with windows := [] } } : State).writeWindow w := by
  obtain ⟨hl, hn, hf⟩ := hw
  unfold State.closeDue
  rw [h]
  simp [splitDue, hl, hn, hf]

theorem State.closeDue_open {s : State} {w : Window} (h : s.frag.windows = [w]) (hw : ¬w.due) : s.closeDue = s := by
  have hs : splitDue false [w] = ([], [w]) := by
    unfold splitDue
    by_cases hl : w.left = 0
    · have : w.waiting ≠ 0 ∨ w.fault.isSome = true := by
        by_contra hc
        rw [not_or, not_not, Bool.not_eq_true, Option.isSome_eq_false_iff, Option.isNone_iff_eq_none] at hc
        exact hw ⟨hl, hc⟩
      simp [hl, this, splitDue]
    · simp [hl, splitDue]
  unfold State.closeDue
  rw [h, hs]
  obtain ⟨⟩ := s
  simp only at h
  simp only [List.foldl_nil]
  rw [← h]

/-- What closing the due window of slot A leaves in focus. -/
def State.closedSlot (s : State) (u g : Nat) (w : Window) : State :=
  ({ s.atSlot u g false with frag := { (s.atSlot u g false).frag with windows := [] } } : State).writeWindow w

theorem State.closedSlot_frame (s : State) (u g : Nat) {w : Window} (hr : w.readout = none) :
    s.closedSlot u g w = { s.atSlot u g false with
      grp := { (s.atSlot u g false).grp with v := (s.closedSlot u g w).grp.v, fpctl := (s.atSlot u g false).grp.fpctl ||| w.flags },
      frag := { (s.atSlot u g false).frag with windows := [] } } := by
  have h := State.writeWindow_frame ({ s.atSlot u g false with frag := { (s.atSlot u g false).frag with windows := [] } } : State) w
  rw [hr] at h
  exact h

section
variable {s : State} {u g : Nat} {x : Team} {grp : Group} (hcur : s.cur = {}) (hx : s.teams.get {} u = x) (hgrp : x.groups.get {} g = grp)
include hcur hx

theorem idle_windowClose (h : x.live = false ∨ x.stopped = true) : Idle (.windowClose u g) s := by
  show execWindowClose u g s = .next s
  unfold execWindowClose
  rw [State.teamOf_of_idle hcur, hx]
  exact if_pos (by obtain h | h := h <;> simp [h])

theorem exec_windowClose (h : ¬(x.live = false ∨ x.stopped = true)) (hg : (x.groups.lookup g).isSome = true) :
    exec (.windowClose u g) s = .next ((s.asFragment u g false State.closeDue).asFragment u g true State.closeDue) := by
  obtain ⟨hl, hr⟩ := not_or.1 h
  show execWindowClose u g s = _
  unfold execWindowClose
  rw [State.teamOf_of_idle hcur, hx]
  refine if_neg ?_
  obtain ⟨y, hy⟩ := Option.isSome_iff_exists.1 hg
  simp [hl, hr, hy]

include hgrp

/-- The due window of slot A closes. -/
theorem windowClose_due {w : Window} (hA : grp.slotA.windows = [w]) (hB : grp.slotB.windows = []) (hw : w.due) (hr : w.readout = none) :
    let t := (s.asFragment u g false State.closeDue).asFragment u g true State.closeDue
    t.cur = {} ∧ t.unfocus = { s.unfocus with teams := t.teams }
    ∧ (t.teams.get {} u : Team).groups.get {} g =
        { grp with
          v := (s.closedSlot u g w).grp.v, slotA := { grp.slotA with windows := [] }, fpctl := grp.fpctl ||| w.flags } := by
  have hfoc : (s.atSlot u g false).grp = grp := by rw [← hgrp, ← hx]; rfl
  have hfrag : (s.atSlot u g false).frag = grp.slotA := by rw [← hgrp, ← hx]; rfl
  obtain ⟨hc1, ht1, hu1⟩ := State.asFragment_gives hcur
    ((State.closeDue_due (s := s.atSlot u g false) (by rw [hfrag, hA]) hw).trans (s.closedSlot_frame u g hr))
  have hg1 : ((s.asFragment u g false State.closeDue).teams.get {} u : Team).groups.get {} g = { grp with
      v := (s.closedSlot u g w).grp.v, slotA := { grp.slotA with windows := [] }, fpctl := grp.fpctl ||| w.flags } := by
    rw [ht1, Store.get_set_self, Team.group_slotBack, hfoc, hfrag]
    rfl
  obtain ⟨hc2, hu2, hg2⟩ := State.asFragment_same hc1 (u := u) (g := g) (b := true)
    (State.closeDue_none (congrArg (fun y : Group => y.slotB.windows) hg1 |>.trans hB))
  exact ⟨hc2, by rw [hu2, hu1], hg2.trans hg1⟩

omit hcur in
/-- A lane of a register once the window has closed. -/
theorem closedSlot_lane {w : Window} (hr : w.readout = none) (r l : Nat) (hl : l < 96) :
    ((s.closedSlot u g w).grp.v.get (vInit x.hdr.poison r) r).getD l 0 =
      afterWrites w.writes r l ((grp.v.get (vInit x.hdr.poison r) r).getD l 0) := by
  have h := State.lane_writeWindow ({ s.atSlot u g false with frag := { (s.atSlot u g false).frag with windows := [] } } : State) w r l hl
  have ht : (s.closedSlot u g w).team = x := by rw [s.closedSlot_frame u g hr, ← hx]; rfl
  rw [← ht]
  refine h.trans ?_
  rw [ht, ← hgrp, ← hx]
  rfl

/-- A window that is not due stays. -/
theorem windowClose_open {w : Window} (hA : grp.slotA.windows = [w]) (hB : grp.slotB.windows = []) (hw : ¬w.due) :
    let t := (s.asFragment u g false State.closeDue).asFragment u g true State.closeDue
    t.cur = {} ∧ t.unfocus = { s.unfocus with teams := t.teams } ∧ (t.teams.get {} u : Team).groups.get {} g = grp := by
  have hfrag : (s.atSlot u g false).frag = grp.slotA := by rw [← hgrp, ← hx]; rfl
  obtain ⟨hc1, hu1, hg1⟩ := State.asFragment_same hcur (State.closeDue_open (s := s.atSlot u g false) (by rw [hfrag, hA]) hw)
  rw [hx, hgrp] at hg1
  obtain ⟨hc2, hu2, hg2⟩ := State.asFragment_same hc1 (u := u) (g := g) (b := true)
    (State.closeDue_none (congrArg (fun y : Group => y.slotB.windows) hg1 |>.trans hB))
  exact ⟨hc2, by rw [hu2, hu1], hg2.trans hg1⟩
end

/-! ### The timer of a record (05 R133) -/

/-- With fragments in both slots, nothing fills them and the group goes on. -/
theorem settleGroup_of_valid {t : Team} {g : Nat} {grp : Group} (hg : t.groups.get {} g = grp) (he : grp.ended = false)
    (hA : grp.slotA.valid = true) (hB : grp.slotB.valid = true) : settleGroup t g = { t with groups := t.groups.set g grp } := by
  have hfill (b : Bool) : fillSlot t g grp b = grp := by cases b <;> simp [fillSlot, Group.slotOf, hA, hB]
  have hover : groupOver grp = false := by simp [groupOver, hA]
  unfold settleGroup
  dsimp only
  rw [hg, he, hfill, hfill, hover]
  rfl

theorem State.countCore_off (s : State) (k code n : Nat) {v : Nat} (h : (s.vf v).pmEn = false) : s.countCore k code n v = s := by
  simp [State.countCore, h]

section
variable {s : State} {u g : Nat} {x : Team} {grp : Group} (hcur : s.cur = {}) (hx : s.teams.get {} u = x)
include hcur hx

theorem idle_joinTimerExpiry_off (h : x.live = false ∨ x.stopped = true) (k : Nat) : Idle (.joinTimerExpiry u g k) s := by
  show execJoinTimerExpiry u g k s = .next s
  unfold execJoinTimerExpiry
  rw [State.teamOf_of_idle hcur, hx]
  exact if_pos (by obtain h | h := h <;> simp [h])

theorem idle_joinDeadlock_off (h : x.live = false ∨ x.stopped = true) : Idle (.joinDeadlock u g) s := by
  show execJoinDeadlock u g s = .next s
  unfold execJoinDeadlock
  rw [State.teamOf_of_idle hcur, hx]
  exact if_pos (by obtain h | h := h <;> simp [h])

variable (hgrp : x.groups.get {} g = grp)
include hgrp

theorem idle_joinTimerExpiry {k : Nat} (h : ∀ r ∈ grp.split, ¬(r.token = k ∧ r.armed = true ∧ r.arrived ≠ 0)) :
    Idle (.joinTimerExpiry u g k) s := by
  have hany : (grp.split.any fun r => r.token == k && r.armed && r.arrived != 0) = false := by
    rw [List.any_eq_false]
    intro r hr hc
    rw [Bool.and_eq_true, Bool.and_eq_true, beq_iff_eq, bne_iff_ne] at hc
    exact h r hr ⟨hc.1.1, hc.1.2, hc.2⟩
  show execJoinTimerExpiry u g k s = .next s
  unfold execJoinTimerExpiry
  rw [State.teamOf_of_idle hcur, hx]
  dsimp only
  rw [hgrp]
  exact if_pos (.inr (.inr (by rw [hany]; rfl)))

theorem exec_joinTimerExpiry (h : ¬(x.live = false ∨ x.stopped = true)) {k : Nat} {r : SplitRec} (hsp : grp.split = [r])
    (hk : r.token = k) (ha : r.armed = true) (hne : r.arrived ≠ 0) (he : grp.ended = false) (hA : grp.slotA.valid = true)
    (hB : grp.slotB.valid = true) (hpm : (s.vf x.vf).pmEn = false) :
    ∃ y : Team, exec (.joinTimerExpiry u g k) s = .next { s with teams := s.teams.set u y }
      ∧ y.groups.get {} g = { grp with tstat := grp.tstat ||| 0x100, split := [expireRec r] } := by
  obtain ⟨hl, hr⟩ := not_or.1 h
  have hset := settleGroup_of_valid (t := { x with groups := x.groups.set g { grp with split := [expireRec r], tstat := grp.tstat ||| 0x100 } })
    (g := g) (Store.get_set_self _ _ _ _) he hA hB
  refine ⟨_, ?_, congrArg (fun t : Team => t.groups.get {} g) hset |>.trans (Store.get_set_self _ _ _ _)⟩
  show execJoinTimerExpiry u g k s = _
  unfold execJoinTimerExpiry
  rw [State.teamOf_of_idle hcur, hx]
  dsimp only
  rw [hgrp, hsp, if_neg (by simpa [hl, hr, hk, ha] using hne), List.map_cons, if_pos hk, List.map_nil, State.onTeam_of_idle hcur, hx]
  exact congrArg _ (State.countCore_off _ _ _ _ hpm)

/-! ### A deadlock (05 R136) -/

theorem idle_joinDeadlock (h : grp.deadlocked = false) : Idle (.joinDeadlock u g) s := by
  show execJoinDeadlock u g s = .next s
  unfold execJoinDeadlock
  rw [State.teamOf_of_idle hcur, hx]
  dsimp only
  rw [hgrp]
  exact if_pos (by simp [h])

/-- The trap of a deadlock whose record r stands at its join. -/
theorem exec_joinDeadlock (h : ¬(x.live = false ∨ x.stopped = true)) {r : SplitRec} (hsp : grp.split = [r])
    (hd : grp.deadlocked = true) (ht : grp.tstat.getLsbD 6 = false) (hh : x.hdr.trapHandler ≠ 0) :
    ∃ t, exec (.joinDeadlock u g) s = .next t ∧ t.cur = {} ∧ t.unfocus = { s.unfocus with teams := t.teams }
      ∧ (let y := (t.teams.get {} u : Team).groups.get {} g
         y.split = [] ∧ y.slotA.valid = true ∧ y.slotA.mask = r.arrived ∧ y.slotA.pc = x.hdr.trapHandler
         ∧ y.tpc = r.joinPc ∧ y.tcause = 8 ∧ y.tval = BitVec.ofNat 64 r.token ∧ y.tstat.getLsbD 6 = true) := by
  obtain ⟨hl, hr⟩ := not_or.1 h
  have hne : (r.arrived != 0) = true := by
    have := hd
    simp only [Group.deadlocked, hsp, Bool.and_eq_true, List.any_cons, List.any_nil, Bool.or_false] at this
    exact this.2
  have hfoc : (s.atSlot u g false).grp = grp := by rw [← hgrp, ← hx]; rfl
  have hteam : (s.atSlot u g false).team = x := hx
  -- the fragment of the record's arrived lanes, at its join
  let v : State := { s.atSlot u g false with
    grp := { (s.atSlot u g false).grp with split := (s.atSlot u g false).grp.split.filter fun y => y.token != r.token },
    frag := { valid := true, pc := r.joinPc, mask := r.arrived } }
  have htrap := State.enterTrap_handler (s := v) (t := { cause := causeDeadlock, tval := BitVec.ofNat 64 r.token }) (pc := r.joinPc)
    (len := (r.cont - r.joinPc).toNat) (wdone := 0) (by show inh (s.atSlot u g false).grp.tstat = false; rw [hfoc]; exact ht)
    (by show causeDeadlock ≠ causeEmu; decide)
    (by show (s.atSlot u g false).team.hdr.trapHandler ≠ 0; rw [hteam]; exact hh)
  obtain ⟨hc, hteams, hu⟩ := State.asFragment_gives (s := s) hcur (u := u) (g := g) (b := false)
    (f := fun s => ({ s with
      grp := { s.grp with split := s.grp.split.filter fun y => y.token != r.token },
      frag := { valid := true, pc := r.joinPc, mask := r.arrived } } : State).enterTrap
        { cause := causeDeadlock, tval := BitVec.ofNat 64 r.token } r.joinPc (r.cont - r.joinPc).toNat 0) htrap
  refine ⟨_, ?_, hc, hu, ?_⟩
  · show execJoinDeadlock u g s = _
    unfold execJoinDeadlock
    rw [State.teamOf_of_idle hcur, hx]
    dsimp only
    rw [hgrp, if_neg (by simp [hl, hr, hd]), hsp]
    simp only [List.find?_cons, hne]
  · rw [hteams, Store.get_set_self, Team.group_slotBack]
    refine ⟨?_, rfl, rfl, ?_, rfl, rfl, rfl, ?_⟩
    · show (s.atSlot u g false).grp.split.filter (fun y => y.token != r.token) = []
      rw [hfoc, hsp]
      simp
    · exact congrArg (fun y : Team => y.hdr.trapHandler) hteam
    · show (tstatEntry _ _ _ _ _ _).getLsbD 6 = true
      simp [tstatEntry]
end

end Sys2Proof.Machine

/-! PROOFS. A home slice drains, a k-step is made, a pair times out, an accumulator command acts (07 R196, R203; 08 R219, R220, R224,
R232, R236, R238, R239; the third and fourth clauses of O47). -/

namespace Sys2Proof.Machine
open Sys2Proof

/-! ### Home slices (07 R203) -/

theorem idle_homeSliceAccess {s : State} {k : Nat} (h : s.redQueues.get [] k = []) : Idle (.homeSliceAccess k) s := by
  show execHomeSliceAccess k s = .next s
  unfold execHomeSliceAccess
  rw [h]

theorem exec_homeSliceAccess {s : State} {k : Nat} {e : RedEntry} {es : List RedEntry} (h : s.redQueues.get [] k = e :: es) :
    exec (.homeSliceAccess k) s = .next { s with mem := e.apply s.mem, redQueues := s.redQueues.put [] k es } := by
  show execHomeSliceAccess k s = _
  unfold execHomeSliceAccess
  rw [h]

/-- An entry of one partial result rounds into its element alone. -/
theorem readByte_apply_of_one {e : RedEntry} {o : Nat} {x : W64} (h : e.partials = [(o, x)]) (m : Store Byte) (a : Nat) :
    readByte (e.apply m) a =
      let at_ := 128 * e.line + o
      if at_ ≤ a ∧ a < at_ + e.width
      then BitVec.ofNat 8 (atomOp e.op e.ty e.width (readBytes m at_ e.width) x.toNat / 256 ^ (a - at_)) else readByte m a := by
  unfold RedEntry.apply
  rw [h, List.foldl_cons, List.foldl_nil]
  dsimp only
  rw [readByte_writeBytes, Nat.mul_comm e.line 128]

/-! ### The chunks of a stack operand (08 R238, R239) -/

theorem State.chunkAddr_host {s : State} {x : Team} {v : W64} {m h z : Nat}
    (hx : s.xlateSized x.vf x.ctx { kind := 4 } (v + BitVec.ofNat 64 (65536 * m)) = .ok (.host h, z)) :
    s.chunkAddr x v m = .error (.trap { cause := 0x11, tval := v + BitVec.ofNat 64 (65536 * m) }) := by
  unfold State.chunkAddr
  dsimp only
  rw [hx]
  rfl

theorem State.chunkAddr_dev {s : State} {x : Team} {v : W64} {m pa z : Nat}
    (hx : s.xlateSized x.vf x.ctx { kind := 4 } (v + BitVec.ofNat 64 (65536 * m)) = .ok (.dev pa, z)) :
    s.chunkAddr x v m =
      if z < 16 then .error (.trap { cause := 0x11, tval := v + BitVec.ofNat 64 (65536 * m) }) else .ok pa := by
  unfold State.chunkAddr
  dsimp only
  rw [hx]
  rfl

/-- A stack serves byte o of its chunk in the part that the stack hash of the chunk's address gives it. -/
theorem stackByte_eq {pa : Nat} (h : pa < 2 ^ 64) (stack o : Nat) :
    stackByte pa stack o = pa + 8192 * (stack ^^^ ((BitVec.ofNat 64 pa).extractLsb' 21 3 ^^^ (BitVec.ofNat 64 pa).extractLsb' 29 3
      ^^^ (BitVec.ofNat 64 pa).extractLsb' 37 3).toNat) + o % 8192 := by
  have field (k : Nat) : ((BitVec.ofNat 64 pa).extractLsb' (k + 5) 3).toNat = pa / 2 ^ k % 2 ^ 8 / 2 ^ 5 % 2 ^ 3 := by
    rw [BitVec.extractLsb'_toNat, BitVec.toNat_ofNat, Nat.mod_eq_of_lt h, Nat.shiftRight_eq_div_pow, Nat.pow_add, ← Nat.div_div_eq_div_mul]
    omega
  have h21 := field 16
  have h29 := field 24
  have h37 := field 32
  have hash (a b c : Nat) : (a ^^^ b ^^^ c) / 2 ^ 5 % 2 ^ 3 = a / 2 ^ 5 % 2 ^ 3 ^^^ b / 2 ^ 5 % 2 ^ 3 ^^^ c / 2 ^ 5 % 2 ^ 3 := by
    simp only [Nat.xor_div_two_pow, Nat.xor_mod_two_pow]
  rw [BitVec.toNat_xor, BitVec.toNat_xor, h21, h29, h37, ← hash]
  rfl

/-! ### What a k-step changes (08 R219, R220, R224) -/

/-- The event changes one team and nothing else. -/
theorem teamGives_of_exec {i : Instr} {s : State} {u : Nat} {y : Team} (h : exec i s = .next { s with teams := s.teams.set u y }) :
    TeamGives i s u y := ⟨_, h, rfl, teamIs_set s u y⟩

/-- A team whose operation n has lost its grant, if it had one. -/
def Team.ungranted (x : Team) (n : Nat) : Team := { x with
  matOps := x.matOps.map fun p => if p.1 = n then (p.1, { p.2 with granted := false, feedWait := p.2.feedWait || p.2.granted }) else p }

/-- A team whose operation n has failed with a trap. -/
def Team.opFails (x : Team) (n : Nat) (e : Trap) : Team := ({ x with matOps := x.matOps.erase n }).engineFails e

/-- A team after a k-step of its operation n. -/
def Team.stepped (x : Team) (n : Nat) (c : MatCmd) (m : W32) : Team :=
  let p : W32 := x.mprog.get 0 n + 1
  let y := { x with mprog := x.mprog.set n p, mstat := x.mstat ||| m }
  if p.toNat ≥ c.kb then ({ y with matOps := y.matOps.erase n }).signal c.crdv else y

theorem Team.signal_eq (x : Team) (p : Nat) : x.signal p = { x with units := x.units ++ if p < 24 then [{ point := p, units := 1 }] else [] } := by
  unfold Team.signal
  split
  · rfl
  · rw [List.append_nil]

theorem Team.stepped_eq (x : Team) (n : Nat) (c : MatCmd) (m : W32) :
    let p : W32 := BitVec.ofNat 32 (x.mprog.get 0 n : W32).toNat + 1
    x.stepped n c m = if p.toNat ≥ c.kb then { x with
        mprog := x.mprog.set n p, mstat := x.mstat ||| m, matOps := x.matOps.erase n,
        units := x.units ++ if c.crdv < 24 then [{ point := c.crdv, units := 1 }] else [] }
      else { x with mprog := x.mprog.set n p, mstat := x.mstat ||| m } := by
  unfold Team.stepped
  dsimp only
  rw [BitVec.ofNat_toNat, BitVec.setWidth_eq, Team.signal_eq]

section
variable {s : State} {u : Nat} {x : Team} (hcur : s.cur = {}) (hx : s.teams.get {} u = x)
include hcur hx

theorem State.ungrant_of_idle (n : Nat) : s.ungrant u n = { s with teams := s.teams.set u (x.ungranted n) } := by
  rw [State.ungrant, State.onTeam_of_idle hcur, hx]
  rfl

theorem State.arrayFails_of_idle (n : Nat) (e : Trap) : s.arrayFails u n e = { s with teams := s.teams.set u (x.opFails n e) } := by
  rw [State.arrayFails, State.onTeam_of_idle hcur, hx]
  rfl

/-- A k-step of a stack operation: no array runs. -/
theorem State.stepDone_stack (k n : Nat) (c : MatCmd) (r : Store Byte × W32) :
    s.stepDone k u n false c r = { s with
      cores := s.cores.set k { s.core k with acm := r.1 }, teams := s.teams.set u (x.stepped n c r.2) } := by
  unfold State.stepDone
  simp only [Bool.false_eq_true, if_false]
  rw [State.onTeam_of_idle (s := s.onCore k _) hcur, ← hx]
  rfl

/-- A k-step of an array is counted on its core and charged to its cluster. -/
theorem State.stepDone_array (k n : Nat) (c : MatCmd) (r : Store Byte × W32) :
    s.stepDone k u n true c r = { s with
      cores := s.cores.set k { s.core k with acm := r.1, ksteps := (s.core k).ksteps + 1 },
      clusters := s.clusters.set (k / 24)
        { s.cluster (k / 24) with crec := (s.cluster (k / 24)).crec + BitVec.ofNat 32 (4096 * c.cycles) },
      teams := s.teams.set u (x.stepped n c r.2) } := by
  unfold State.stepDone
  simp only [if_true]
  rw [State.onTeam_of_idle (s := (s.onCore k _).onCluster _ _) hcur, ← hx]
  rfl

end

end Sys2Proof.Machine

/-! PROOFS. The k-steps of an array operation, of a stack operation and of a pair (08 R215, R220, R224, R236, R238; the fourth clause of
O47). -/

namespace Sys2Proof.Machine
open Sys2Proof

theorem idle_matrixKStep_none {s : State} {k : Nat} (h : s.arrayNext k = none) : Idle (.matrixKStep k) s := by
  show execMatrixKStep k s = .next s
  unfold execMatrixKStep
  rw [h]

theorem idle_pairTimeout_none {s : State} {k : Nat} (h : s.arrayNext k = none) : Idle (.pairTimeout k) s := by
  show execPairTimeout k s = .next s
  unfold execPairTimeout
  rw [h]

theorem State.partner_eq_some {s : State} {k u n : Nat} {o p : MatOp} :
    s.partner k o = some (u, n, p) ↔ s.arrayNext (k ^^^ 1) = some (u, n, p) ∧ p.kind = 1 ∧ p.cmd.tag = o.cmd.tag := by
  unfold State.partner
  cases h : s.arrayNext (k ^^^ 1) with
  | none => simp
  | some y =>
    obtain ⟨u', n', p'⟩ := y
    by_cases hp : p'.kind = 1 ∧ p'.cmd.tag = o.cmd.tag
    · simp only [hp, and_self, if_true, Option.some.injEq, Prod.mk.injEq]
      grind
    · simp only [hp, if_false, Option.some.injEq, Prod.mk.injEq]
      grind

/-- The panel that an operation of a team computes next. -/
def Team.panel (x : Team) (n : Nat) : Nat := (x.mprog.get 0 n : W32).toNat

/-! ### What reads of a stack and a posted fault leave unchanged -/

/-- Reading B changes device memory and the write queues alone. -/
theorem State.stackRead_frame {y : Team} {v : W64} {stack f b m w : Nat} {s t : State} (h : s.stackRead y v stack f b m = .ok (t, w)) :
    t = { s with mem := t.mem, redQueues := t.redQueues } := by
  induction f generalizing b m s t w with
  | zero => cases h; rfl
  | succ f ih =>
    unfold State.stackRead at h
    dsimp only at h
    split at h
    · cases h; rfl
    · split at h
      · cases h
      · split at h
        · cases h
        · next hr =>
          cases h
          exact devFrame_trans (State.loadLoc_frame s _ _) (ih hr)

theorem State.stackCols_frame {y : Team} {o : MatOp} {j c i : Nat} {s t : State} {vs : List (List FVal)}
    (h : s.stackCols y o j c i = .ok (t, vs)) : t = { s with mem := t.mem, redQueues := t.redQueues } := by
  induction c generalizing i s t vs with
  | zero => cases h; rfl
  | succ c ih =>
    unfold State.stackCols at h
    dsimp only at h
    split at h
    · cases h
    · next hr =>
      split at h
      · cases h
      · next hc =>
        cases h
        exact devFrame_trans (State.stackRead_frame hr) (ih hc)

/-- The teams, and what is in focus. -/
def State.teamPart (s : State) : Focus × Store Team := (s.cur, s.teams)

theorem State.teamPart_countCore (s : State) (k code n v : Nat) : (s.countCore k code n v).teamPart = s.teamPart := by
  unfold State.countCore
  dsimp only
  split <;> rfl

/-- A posted fault changes no team, and nothing comes into focus. -/
theorem State.teamPart_postFault (s : State) (v c k : Nat) (pc : W64) (p : PageReq) : (s.postFault v c k pc p).1.teamPart = s.teamPart := by
  have hvf (t : State) (f : Vf → Vf) : (t.onVf v f).teamPart = t.teamPart := rfl
  unfold State.postFault
  dsimp only
  split
  · rfl
  · split
    · rfl
    · refine (State.teamPart_countCore _ k 0x0C 1 v).trans ((hvf _ _).trans ?_)
      split
      · next w hw =>
        rw [(State.storeVa_next hw).1]
        rfl
      · rfl

/-! ### The two cores of a pair -/

theorem xor_one_div_two (k : Nat) : (k ^^^ 1) / 2 = k / 2 := by
  have h := Nat.xor_div_two_pow (a := k) (b := 1) (n := 1)
  simpa using h

theorem xor_one_ne (k : Nat) : k ^^^ 1 ≠ k := fun h => by
  have h' : k ^^^ (k ^^^ 1) = 0 := by rw [h, Nat.xor_self]
  rw [← Nat.xor_assoc, Nat.xor_self, Nat.zero_xor] at h'
  cases h'

theorem xor_one_cluster (k : Nat) : (k ^^^ 1) / 24 = k / 24 := by
  have h := xor_one_div_two k
  omega

section
variable {s : State} {k u n : Nat} {o : MatOp} {x : Team} (hcur : s.cur = {}) (hx : s.teams.get {} u = x)
  (ha : s.arrayNext k = some (u, n, o))
include hcur hx ha

/-! ### An operation of one core -/

/-- The k-step of an operation of one core. -/
theorem exec_matrixKStep_single (h1 : o.kind ≠ 1) :
    exec (.matrixKStep k) s =
      if !feedOk x o (x.panel n) then .next (s.ungrant u n)
      else if (!o.granted && o.kind != 2) || !arrayFree x o then .next s
      else if o.kind = 0 then
        .next (s.runStep k u n o (winRows x o.a o.cmd o.cmd.m o.cmd.fa (x.panel n)) (winRows x o.b o.cmd o.cmd.n o.cmd.fb (x.panel n)))
      else
        match s.stackCols x o (x.panel n) o.cmd.n 0 with
        | .ok (s, bs) => .next (s.runStep k u n o (winRows x o.a o.cmd o.cmd.m o.cmd.fa (x.panel n)) bs)
        | .error (.trap e) => .next (s.arrayFails u n e)
        | .error (.ue loc) => .next (s.stopContext x.vf x.ctx causeUe loc)
        | .error (.page p) =>
          let r := s.postFault x.vf x.ctx k 0 p
          .next ((r.1.ungrant u n).onTeam u fun t =>
            { t with matOps := t.matOps.map fun y => if y.1 = n then (y.1, { y.2 with park := [r.2] }) else y }) := by
  show execMatrixKStep k s = _
  unfold execMatrixKStep
  rw [ha]
  dsimp only
  rw [State.teamOf_of_idle hcur, hx, if_neg h1]
  rfl

omit ha in
theorem runStep_eq (k' : Nat) (as bs : List (List FVal)) :
    s.runStep k' u n o as bs =
      s.stepDone k' u n (o.kind != 2) o.cmd (tileStep o.cmd (x.panel n == 0 && !o.cmd.acc) (s.core k').acm as bs) := by
  unfold State.runStep
  rw [State.teamOf_of_idle hcur, hx]
  rfl

theorem teamGives_matrixKStep_feed (h1 : o.kind ≠ 1) (hf : feedOk x o (x.panel n) = false) :
    TeamGives (.matrixKStep k) s u (x.ungranted n) := by
  apply teamGives_of_exec
  rw [exec_matrixKStep_single hcur hx ha h1, hf, State.ungrant_of_idle hcur hx]
  rfl

theorem idle_matrixKStep (h1 : o.kind ≠ 1) (hf : feedOk x o (x.panel n) = true)
    (hw : (o.kind = 0 ∧ o.granted = false) ∨ arrayFree x o = false) : Idle (.matrixKStep k) s := by
  show exec _ _ = _
  rw [exec_matrixKStep_single hcur hx ha h1, hf]
  have hw' : ((!o.granted && o.kind != 2) || !arrayFree x o) = true := by
    obtain ⟨hk, hg⟩ | hw := hw
    · simp [hk, hg]
    · simp [hw]
  simp only [Bool.not_true, Bool.false_eq_true, if_false, hw', if_true]

theorem exec_matrixKStep_array (h0 : o.kind = 0) (hf : feedOk x o (x.panel n) = true) (hg : o.granted = true) (hfree : arrayFree x o = true) :
    exec (.matrixKStep k) s = .next (s.stepDone k u n true o.cmd (tileStep o.cmd (x.panel n == 0 && !o.cmd.acc) (s.core k).acm
      (winRows x o.a o.cmd o.cmd.m o.cmd.fa (x.panel n)) (winRows x o.b o.cmd o.cmd.n o.cmd.fb (x.panel n)))) := by
  rw [exec_matrixKStep_single hcur hx ha (by rw [h0]; decide), hf, hg, hfree]
  simp only [Bool.not_true, Bool.false_eq_true, if_false, Bool.false_and, Bool.or_self, h0, if_true]
  rw [runStep_eq hcur hx, h0]
  rfl

/-! ### A stack operation -/

/-- A stack operation whose columns have been read makes its k-step; no array runs. -/
theorem exec_matrixKStep_stack (h2 : o.kind = 2) (hf : feedOk x o (x.panel n) = true) (hfree : arrayFree x o = true) {t : State}
    {cols : List (List FVal)} (hc : s.stackCols x o (x.panel n) o.cmd.n 0 = .ok (t, cols)) :
    exec (.matrixKStep k) s = .next (t.stepDone k u n false o.cmd (tileStep o.cmd (x.panel n == 0 && !o.cmd.acc) (s.core k).acm
      (winRows x o.a o.cmd o.cmd.m o.cmd.fa (x.panel n)) cols)) := by
  have ht := State.stackCols_frame hc
  have hx' : t.teams.get {} u = x := by rw [ht]; exact hx
  have hcur' : t.cur = {} := by rw [ht]; exact hcur
  have hcore : t.core k = s.core k := by rw [ht]; rfl
  rw [exec_matrixKStep_single hcur hx ha (by rw [h2]; decide), hf, hfree, hc]
  have h0 : ¬o.kind = 0 := by rw [h2]; decide
  have hk : (o.kind != 2) = false := by rw [h2]; rfl
  simp only [Bool.not_true, Bool.false_eq_true, if_false, hk, Bool.and_false, Bool.or_self, h0]
  rw [runStep_eq hcur' hx', hk, hcore]

/-- A chunk that cannot be read stops its stack operation. -/
theorem exec_matrixKStep_stackStops (h2 : o.kind = 2) (hf : feedOk x o (x.panel n) = true) (hfree : arrayFree x o = true) :
    (∀ e, s.stackCols x o (x.panel n) o.cmd.n 0 = .error (.trap e) →
      exec (.matrixKStep k) s = .next { s with teams := s.teams.set u (x.opFails n e) })
    ∧ (∀ p, s.stackCols x o (x.panel n) o.cmd.n 0 = .error (.page p) →
      let r := s.postFault x.vf x.ctx k 0 p
      ∃ t, exec (.matrixKStep k) s = .next t ∧ t = { r.1 with teams := t.teams }
        ∧ TeamIs s t u { x with matOps := x.matOps.map fun y => if y.1 = n
            then (y.1, { y.2 with granted := false, feedWait := y.2.feedWait || y.2.granted, park := [r.2] }) else y }) := by
  have h0 : ¬o.kind = 0 := by rw [h2]; decide
  have hk : (o.kind != 2) = false := by rw [h2]; rfl
  have hexec := exec_matrixKStep_single hcur hx ha (by rw [h2]; decide)
  rw [hf, hfree] at hexec
  simp only [Bool.not_true, Bool.false_eq_true, if_false, hk, Bool.and_false, Bool.or_self, h0] at hexec
  refine ⟨fun e he => ?_, fun p hp => ?_⟩
  · rw [hexec, he, ← State.arrayFails_of_idle hcur hx]
  · have hpart := s.teamPart_postFault x.vf x.ctx k 0 p
    rw [hp] at hexec
    dsimp only at hexec ⊢
    generalize s.postFault x.vf x.ctx k 0 p = r at hexec hpart
    have hcur' : r.1.cur = {} := (congrArg Prod.fst hpart).trans hcur
    have hteams : r.1.teams = s.teams := congrArg Prod.snd hpart
    have hx' : r.1.teams.get {} u = x := by rw [hteams]; exact hx
    rw [State.ungrant_of_idle hcur' hx', State.onTeam_of_idle (s := { r.1 with teams := r.1.teams.set u (x.ungranted n) }) hcur'] at hexec
    refine ⟨_, hexec, rfl, fun w hw => ?_, ?_⟩
    · rw [Store.get_set_ne _ _ _ hw, Store.get_set_ne _ _ _ hw, hteams]
    · rw [Store.get_set_self, Store.get_set_self]
      simp only [Team.ungranted, List.map_map]
      congr 1
      refine List.map_congr_left fun y _ => ?_
      by_cases hy : y.1 = n <;> simp [hy]

/-! ### A pair -/

omit hcur hx in
theorem idle_pairTimeout (h : o.kind ≠ 1 ∨ (s.partner k o).isSome = true) : Idle (.pairTimeout k) s := by
  show execPairTimeout k s = .next s
  unfold execPairTimeout
  rw [ha]
  refine if_neg fun ⟨h1, hp⟩ => ?_
  obtain h | h := h
  · exact h h1
  · rw [Option.isNone_iff_eq_none] at hp
    rw [hp] at h
    cases h

section
variable (h1 : o.kind = 1)
include h1

/-- A paired operation without its partner waits, and fails at its time-out. -/
theorem teamGives_noPartner (hp : s.partner k o = none) :
    TeamGives (.matrixKStep k) s u (x.ungranted n)
    ∧ TeamGives (.pairTimeout k) s u (x.opFails n { cause := 0x19, tval := BitVec.ofNat 64 o.cmd.tag }) := by
  refine ⟨teamGives_of_exec ?_, teamGives_of_exec ?_⟩
  · show execMatrixKStep k s = _
    unfold execMatrixKStep
    rw [ha]
    dsimp only
    rw [if_pos h1, hp, ← State.ungrant_of_idle hcur hx]
  · show execPairTimeout k s = _
    unfold execPairTimeout
    rw [ha, ← State.arrayFails_of_idle hcur hx]
    exact if_pos ⟨h1, by rw [hp]; rfl⟩

variable {u2 n2 : Nat} {o2 : MatOp} {x2 : Team} (hx2 : s.teams.get {} u2 = x2) (hp : s.partner k o = some (u2, n2, o2))
include hx2 hp

/-- The k-step of a pair. -/
theorem exec_matrixKStep_pair :
    exec (.matrixKStep k) s =
      if o2.e1 ≠ o.e1 then
        .next ((s.arrayFails u n { cause := 0x18, tval := o.word.zeroExtend 64 }).arrayFails u2 n2
          { cause := 0x18, tval := o2.word.zeroExtend 64 })
      else if !(feedOk x o (x.panel n) && feedOk x2 o2 (x2.panel n2)) then .next ((s.ungrant u n).ungrant u2 n2)
      else if !(o.granted && o2.granted && arrayFree x o && arrayFree x2 o2) then .next s
      else
        let rows := if k % 2 = 0 then winRows x o.a o.cmd 64 o.cmd.fa (x.panel n) else winRows x2 o2.a o2.cmd 64 o.cmd.fa (x.panel n)
        .next ((s.runStep k u n o rows (winRows x o.b o.cmd 64 o.cmd.fb (x.panel n))).runStep (k ^^^ 1) u2 n2 o2 rows
          (winRows x2 o2.b o2.cmd 64 o.cmd.fb (x.panel n))) := by
  show execMatrixKStep k s = _
  unfold execMatrixKStep
  rw [ha]
  dsimp only
  rw [State.teamOf_of_idle hcur, hx, if_pos h1, hp]
  dsimp only
  rw [State.teamOf_of_idle hcur, hx2]
  by_cases hk : k % 2 = 0
  · simp only [hk, if_true]
    rfl
  · simp only [hk, if_false]
    rfl

variable (hu : u2 ≠ u)
include hu

theorem exec_matrixKStep_pairFails (he : o2.e1 ≠ o.e1) :
    let bad (m : MatOp) : Trap := { cause := 0x18, tval := m.word.zeroExtend 64 }
    exec (.matrixKStep k) s = .next { s with teams := (s.teams.set u (x.opFails n (bad o))).set u2 (x2.opFails n2 (bad o2)) } := by
  intro bad
  rw [exec_matrixKStep_pair hcur hx ha h1 hx2 hp, if_pos he, State.arrayFails_of_idle hcur hx]
  exact congrArg _ (State.arrayFails_of_idle (s := { s with teams := s.teams.set u _ }) hcur ((Store.get_set_ne _ _ _ hu).trans hx2) _ _)

theorem exec_matrixKStep_pairWaits (he : o2.e1 = o.e1) (hf : feedOk x o (x.panel n) = false ∨ feedOk x2 o2 (x2.panel n2) = false) :
    exec (.matrixKStep k) s = .next { s with teams := (s.teams.set u (x.ungranted n)).set u2 (x2.ungranted n2) } := by
  have hfeed : (!(feedOk x o (x.panel n) && feedOk x2 o2 (x2.panel n2))) = true := by obtain h | h := hf <;> simp [h]
  rw [exec_matrixKStep_pair hcur hx ha h1 hx2 hp, if_neg (not_not.2 he), if_pos hfeed, State.ungrant_of_idle hcur hx]
  exact congrArg _ (State.ungrant_of_idle (s := { s with teams := s.teams.set u _ }) hcur ((Store.get_set_ne _ _ _ hu).trans hx2) _)

variable (he : o2.e1 = o.e1) (hf : feedOk x o (x.panel n) = true) (hf2 : feedOk x2 o2 (x2.panel n2) = true)
include he hf hf2

omit hu in
theorem idle_matrixKStep_pair (hw : o.granted = false ∨ o2.granted = false ∨ arrayFree x o = false ∨ arrayFree x2 o2 = false) :
    Idle (.matrixKStep k) s := by
  have hgo : (!(o.granted && o2.granted && arrayFree x o && arrayFree x2 o2)) = true := by obtain h | h | h | h := hw <;> simp [h]
  show exec _ _ = _
  rw [exec_matrixKStep_pair hcur hx ha h1 hx2 hp, if_neg (not_not.2 he), hf, hf2, if_neg (by decide), if_pos hgo]

/-- The two k-steps of a pair, one after the other. -/
theorem exec_matrixKStep_pairSteps (hg : o.granted = true) (hg2 : o2.granted = true) (hfree : arrayFree x o = true)
    (hfree2 : arrayFree x2 o2 = true) :
    let rows := if k % 2 = 0 then winRows x o.a o.cmd 64 o.cmd.fa (x.panel n) else winRows x2 o2.a o2.cmd 64 o.cmd.fa (x.panel n)
    let r := tileStep o.cmd (x.panel n == 0 && !o.cmd.acc) (s.core k).acm rows (winRows x o.b o.cmd 64 o.cmd.fb (x.panel n))
    let r2 := tileStep o2.cmd (x2.panel n2 == 0 && !o2.cmd.acc) (s.core (k ^^^ 1)).acm rows
      (winRows x2 o2.b o2.cmd 64 o.cmd.fb (x.panel n))
    exec (.matrixKStep k) s = .next ((s.stepDone k u n true o.cmd r).stepDone (k ^^^ 1) u2 n2 true o2.cmd r2) := by
  intro rows r r2
  have h2 : o2.kind = 1 := (State.partner_eq_some.1 hp).2.1
  have hk : (o.kind != 2) = true := by rw [h1]; rfl
  have hk2 : (o2.kind != 2) = true := by rw [h2]; rfl
  have hne : k ^^^ 1 ≠ k := xor_one_ne k
  have hstep := s.stepDone_array hcur hx k n o.cmd r
  rw [exec_matrixKStep_pair hcur hx ha h1 hx2 hp, if_neg (not_not.2 he), hf, hf2, if_neg (by decide), hg, hg2, hfree, hfree2,
    if_neg (by decide)]
  dsimp only
  rw [runStep_eq hcur hx, hk]
  have hcur' : (s.stepDone k u n true o.cmd r).cur = {} := by rw [hstep]; exact hcur
  have hx2' : (s.stepDone k u n true o.cmd r).teams.get {} u2 = x2 := by
    rw [hstep]
    exact (Store.get_set_ne _ _ _ hu).trans hx2
  have hcore : (s.stepDone k u n true o.cmd r).core (k ^^^ 1) = s.core (k ^^^ 1) := by
    rw [hstep]
    exact Store.get_set_ne _ _ _ hne
  rw [runStep_eq hcur' hx2', hk2, hcore]

end
end

end Sys2Proof.Machine

/-! PROOFS. What the state is after a k-step, and the accumulator commands (08 R220, R224, R232; the fourth clause of O47). -/

namespace Sys2Proof.Machine
open Sys2Proof

/-! ### The state after a k-step -/

section
variable {s : State} {u : Nat} {x : Team} (hcur : s.cur = {}) (hx : s.teams.get {} u = x)
include hcur hx

theorem State.stepDone_stack_gives (k n : Nat) (c : MatCmd) (r : Store Byte × W32) :
    let t := s.stepDone k u n false c r
    t = { s with teams := t.teams, cores := t.cores } ∧ CoreIs s t k { s.core k with acm := r.1 } ∧ TeamIs s t u (x.stepped n c r.2) := by
  intro t
  have ht : t = _ := State.stepDone_stack hcur hx k n c r
  rw [ht]
  exact ⟨rfl, get_set_alone _ _ _ _, get_set_alone _ _ _ _⟩

theorem State.stepDone_array_gives (k n : Nat) (c : MatCmd) (r : Store Byte × W32) :
    let t := s.stepDone k u n true c r
    t = { s with teams := t.teams, cores := t.cores, clusters := t.clusters }
    ∧ CoreIs s t k { s.core k with acm := r.1, ksteps := (s.core k).ksteps + 1 }
    ∧ ClusterIs s t (k / 24) { s.cluster (k / 24) with crec := (s.cluster (k / 24)).crec + BitVec.ofNat 32 (4096 * c.cycles) }
    ∧ TeamIs s t u (x.stepped n c r.2) := by
  intro t
  have ht : t = _ := State.stepDone_array hcur hx k n c r
  rw [ht]
  exact ⟨rfl, get_set_alone _ _ _ _, get_set_alone _ _ _ _, get_set_alone _ _ _ _⟩

/-- The k-steps of the two cores of a pair. -/
theorem State.stepDone_pair_gives {u2 : Nat} {x2 : Team} (hx2 : s.teams.get {} u2 = x2) (hu : u2 ≠ u) (k n n2 : Nat) (c c2 : MatCmd)
    (r r2 : Store Byte × W32) :
    let t := (s.stepDone k u n true c r).stepDone (k ^^^ 1) u2 n2 true c2 r2
    t = { s with teams := t.teams, cores := t.cores, clusters := t.clusters }
    ∧ (∀ w, w ≠ k → w ≠ k ^^^ 1 → t.core w = s.core w)
    ∧ t.core k = { s.core k with acm := r.1, ksteps := (s.core k).ksteps + 1 }
    ∧ t.core (k ^^^ 1) = { s.core (k ^^^ 1) with acm := r2.1, ksteps := (s.core (k ^^^ 1)).ksteps + 1 }
    ∧ ClusterIs s t (k / 24) { s.cluster (k / 24) with
        crec := (s.cluster (k / 24)).crec + BitVec.ofNat 32 (4096 * c.cycles) + BitVec.ofNat 32 (4096 * c2.cycles) }
    ∧ (∀ w, w ≠ u → w ≠ u2 → t.teams.get {} w = s.teams.get {} w)
    ∧ t.teams.get {} u = x.stepped n c r.2 ∧ t.teams.get {} u2 = x2.stepped n2 c2 r2.2 := by
  obtain ⟨hf1, hcore1, hcl1, hteam1⟩ := State.stepDone_array_gives hcur hx k n c r
  generalize s.stepDone k u n true c r = v at hf1 hcore1 hcl1 hteam1
  have hcur' : v.cur = {} := by rw [hf1]; exact hcur
  obtain ⟨hf2, hcore2, hcl2, hteam2⟩ := State.stepDone_array_gives hcur' ((hteam1.1 _ hu).trans hx2) (k ^^^ 1) n2 c2 r2
  rw [xor_one_cluster] at hcl2
  generalize v.stepDone (k ^^^ 1) u2 n2 true c2 r2 = t at hf2 hcore2 hcl2 hteam2
  have hne := xor_one_ne k
  refine ⟨hf2.trans (by rw [hf1]), fun _ h1 h2 => (hcore2.1 _ h2).trans (hcore1.1 _ h1), (hcore2.1 _ hne.symm).trans hcore1.2, ?_, ?_,
    fun _ h1 h2 => (hteam2.1 _ h2).trans (hteam1.1 _ h1), (hteam2.1 _ hu.symm).trans hteam1.2, hteam2.2⟩
  · rw [hcore2.2, hcore1.1 _ hne]
  · exact ⟨fun j hj => (hcl2.1 _ hj).trans (hcl1.1 _ hj), by rw [hcl2.2, hcl1.2]⟩

end

/-- Changes of two teams. -/
theorem twoTeams_set (s : State) {u u2 : Nat} (hu : u2 ≠ u) (y y2 : Team) :
    let t := { s with teams := (s.teams.set u y).set u2 y2 }
    (∀ w, w ≠ u → w ≠ u2 → t.teams.get {} w = s.teams.get {} w) ∧ t.teams.get {} u = y ∧ t.teams.get {} u2 = y2 :=
  ⟨fun _ h1 h2 => (Store.get_set_ne _ _ _ h2).trans (Store.get_set_ne _ _ _ h1),
    (Store.get_set_ne _ _ _ hu.symm).trans (Store.get_set_self _ _ _ _), Store.get_set_self _ _ _ _⟩

/-! ### Accumulator commands (08 R232) -/

/-- A team whose command o has left its queue. -/
def Team.maccTaken (x : Team) (o : MaccOp) : Team := { x with maccOps := x.maccOps.filter fun m => m.order != o.order }

theorem idle_maccComplete_unowned {s : State} {k : Nat} (h : (s.core k).acmOwner = none) : Idle (.maccComplete k) s := by
  show execMaccComplete k s = .next s
  unfold execMaccComplete
  rw [h]

section
variable {s : State} {k u : Nat} {x : Team} (hcur : s.cur = {}) (hx : s.teams.get {} u = x) (ho : (s.core k).acmOwner = some u)
include hcur hx ho

theorem idle_maccComplete_stopped (hs : x.stopped = true) (hb : x.aborted = false) : Idle (.maccComplete k) s := by
  show execMaccComplete k s = .next s
  unfold execMaccComplete
  rw [ho]
  dsimp only
  rw [State.teamOf_of_idle hcur, hx, hs, hb]
  rfl

variable (hr : x.stopped = false ∨ x.aborted = true)
include hr

theorem idle_maccComplete (hf : x.maccOps.find? (maccFree x) = none) : Idle (.maccComplete k) s := by
  have hrun : (x.stopped && !x.aborted) = false := by obtain h | h := hr <;> simp [h]
  show execMaccComplete k s = .next s
  unfold execMaccComplete
  rw [ho]
  dsimp only
  rw [State.teamOf_of_idle hcur, hx, hrun, hf]
  rfl

theorem exec_maccComplete {o : MaccOp} (hf : x.maccOps.find? (maccFree x) = some o) :
    let r := maccEffect o (x.maccTaken o) (s.core k).acm
    ∃ t, exec (.maccComplete k) s = .next t ∧ t = { s with teams := t.teams, cores := t.cores }
      ∧ TeamIs s t u r.1 ∧ CoreIs s t k { s.core k with acm := r.2 } := by
  intro r
  refine ⟨{ s with teams := s.teams.set u r.1, cores := s.cores.set k { s.core k with acm := r.2 } }, ?_, rfl, teamIs_set s u _,
    get_set_alone _ _ _ _⟩
  have hrun : (x.stopped && !x.aborted) = false := by obtain h | h := hr <;> simp [h]
  show execMaccComplete k s = _
  unfold execMaccComplete
  rw [ho]
  dsimp only
  rw [State.teamOf_of_idle hcur, hx, hrun, hf]
  dsimp only
  rw [State.onTeam_of_idle hcur]
  rfl

end

/-- macc.clr changes no team, and drops the bytes of its slots. -/
theorem maccEffect_clr {o : MaccOp} (h : o.kind = 3) (t : Team) (acm : Store Byte) :
    maccEffect o t acm = (t, acm.filter fun b => !bit o.slots (b.1 / 16384)) := by
  obtain ⟨kind⟩ := o
  subst h
  rfl

/-- A table without entries of a key reads as the default there. -/
theorem get_of_not_mem {α : Type} (d : α) {m : Store α} {i : Nat} (h : ∀ p ∈ m, p.1 ≠ i) : Store.get d m i = d :=
  (get_mem_or_default d m i).resolve_left fun hm => h _ hm rfl

theorem readByte_filter_slots (m : Store Byte) (slots : BitVec 16) {a : Nat} (h : slots.getLsbD (a / 16384) = true) :
    readByte (m.filter fun b => !bit slots (b.1 / 16384)) a = 0 := by
  refine get_of_not_mem 0 fun p hp hpa => ?_
  have hb := (List.mem_filter.1 hp).2
  rw [hpa] at hb
  rw [bit, h] at hb
  cases hb

/-- After macc.clr every byte of its slots reads as zero, and the entries of the other slots are those of before. -/
theorem maccEffect_clr_bytes {o : MaccOp} (h : o.kind = 3) (t : Team) (acm : Store Byte) :
    (∀ a, o.slots.getLsbD (a / 16384) = true → readByte (maccEffect o t acm).2 a = 0)
    ∧ ∀ b, b ∈ (maccEffect o t acm).2 ↔ b ∈ acm ∧ o.slots.getLsbD (b.1 / 16384) = false := by
  rw [maccEffect_clr h]
  exact ⟨fun a => readByte_filter_slots acm o.slots, fun b => by rw [List.mem_filter, Bool.not_eq_true']; rfl⟩

end Sys2Proof.Machine

/-! PROOFS. What a governor step reads of its cores, and what its grants change (08 R220; 15 R403, R404; the last clause of O47). -/

namespace Sys2Proof.Machine
open Sys2Proof

/-! ### What an ask depends on -/

/-- The state with other teams. -/
def State.withTeams (s : State) (T : Store Team) : State := { s with teams := T }

/-- The owner of a core's array stands in T as it stands in s. -/
def State.ownerKept (s : State) (T : Store Team) (i : Nat) : Prop := ∀ u, (s.core i).acmOwner = some u → T.get {} u = s.teams.get {} u

/-- The array operation of a team that its array can take up, with its slot. -/
def Team.nextArray (x : Team) : Option (Nat × MatOp) :=
  (nextArrayOp x).filter fun p => !((x.stopped && !x.aborted) || !tileFree x p.2 || !p.2.park.isEmpty)

theorem State.arrayNext_eq {s : State} (hcur : s.cur = {}) (i : Nat) :
    s.arrayNext i = (s.core i).acmOwner.bind fun u => (s.teams.get {} u : Team).nextArray.map fun p => (u, p.1, p.2) := by
  unfold State.arrayNext
  cases (s.core i).acmOwner with
  | none => rfl
  | some u =>
    dsimp only [Option.bind_some]
    rw [State.teamOf_of_idle hcur]
    unfold Team.nextArray
    cases nextArrayOp (s.teams.get {} u) with
    | none => rfl
    | some p =>
      dsimp only
      rw [Option.filter_some]
      cases ((s.teams.get {} u : Team).stopped && !(s.teams.get {} u : Team).aborted || !tileFree (s.teams.get {} u) p.2 || !p.2.park.isEmpty) <;> rfl

section
variable {s : State} (hcur : s.cur = {}) {i u n : Nat} {o : MatOp}
include hcur

theorem State.arrayNext_eq_some : s.arrayNext i = some (u, n, o) ↔
    (s.core i).acmOwner = some u ∧ (s.teams.get {} u : Team).nextArray = some (n, o) := by
  rw [State.arrayNext_eq hcur]
  cases (s.core i).acmOwner with
  | none => simp
  | some v =>
    simp only [Option.bind_some, Option.map_eq_some_iff, Prod.mk.injEq, Option.some.injEq, Prod.exists]
    grind

/-- Cores of one owner have the same next operation. -/
theorem State.arrayNext_of_owner {j : Nat} (h : (s.core i).acmOwner = (s.core j).acmOwner) : s.arrayNext i = s.arrayNext j := by
  rw [State.arrayNext_eq hcur, State.arrayNext_eq hcur, h]

theorem State.arrayReady_eq : s.arrayReady i = (s.arrayNext i).filter fun p => arrayFree (s.teams.get {} p.1) p.2.2 := by
  unfold State.arrayReady
  simp only [State.teamOf_of_idle hcur]

variable {T : Store Team}

theorem State.arrayNext_withTeams (h : s.ownerKept T i) : (s.withTeams T).arrayNext i = s.arrayNext i := by
  rw [State.arrayNext_eq hcur, State.arrayNext_eq (s := s.withTeams T) hcur]
  show (s.core i).acmOwner.bind _ = _
  cases ho : (s.core i).acmOwner with
  | none => rfl
  | some u =>
    rw [Option.bind_some, Option.bind_some, ← h u ho]
    rfl

theorem State.arrayReady_withTeams (h : s.ownerKept T i) : (s.withTeams T).arrayReady i = s.arrayReady i := by
  rw [State.arrayReady_eq hcur, State.arrayReady_eq (s := s.withTeams T) hcur, State.arrayNext_withTeams hcur h]
  cases hp : s.arrayNext i with
  | none => rfl
  | some p =>
    rw [Option.filter_some, Option.filter_some, ← h p.1 ((State.arrayNext_eq_some hcur).1 hp).1]
    rfl

theorem State.waitsFeed_eq : s.waitsFeed u n o = (o.feedWait && !feedOk (s.teams.get {} u) o ((s.teams.get {} u : Team).panel n)) := by
  unfold State.waitsFeed
  rw [State.teamOf_of_idle hcur]
  rfl

theorem State.waitsFeed_withTeams (h : T.get {} u = s.teams.get {} u) : (s.withTeams T).waitsFeed u n o = s.waitsFeed u n o := by
  rw [State.waitsFeed_eq hcur, State.waitsFeed_eq (s := s.withTeams T) hcur]
  show (o.feedWait && !feedOk (T.get {} u) o ((T.get {} u : Team).panel n)) = _
  rw [h]

end

/-! ### Asks (15 R403) -/

theorem State.asks_of_none {s : State} {i : Nat} (h : s.arrayNext i = none) : s.asks i = none := by
  unfold State.asks
  rw [h]

/-- An operation that asks for no grant: a stack operation, one that has a grant, one that waits on its feed point. -/
theorem State.asks_of_rest {s : State} {i u n : Nat} {o : MatOp} (h : s.arrayNext i = some (u, n, o))
    (hr : o.kind = 2 ∨ o.granted = true ∨ s.waitsFeed u n o = true) : s.asks i = none := by
  unfold State.asks
  rw [h]
  exact if_pos hr

/-- An operation of one core that needs a grant asks for its core. -/
theorem State.asks_of_single {s : State} {i u n : Nat} {o : MatOp} (h : s.arrayNext i = some (u, n, o))
    (hr : ¬(o.kind = 2 ∨ o.granted = true ∨ s.waitsFeed u n o = true)) (h0 : o.kind = 0) : s.asks i = some [i] := by
  unfold State.asks
  rw [h]
  exact (if_neg hr).trans (if_pos h0)

/-- A paired operation of an even core asks for both cores, where its partner waits with the same command. -/
theorem State.asks_of_pair {s : State} {i u n : Nat} {o : MatOp} (h : s.arrayNext i = some (u, n, o))
    (hr : ¬(o.kind = 2 ∨ o.granted = true ∨ s.waitsFeed u n o = true)) (h0 : o.kind ≠ 0) :
    s.asks i = if i % 2 = 1 then none else
      (s.partner i o).bind fun p => if p.2.2.e1 = o.e1 ∧ !s.waitsFeed p.1 p.2.1 p.2.2 then some [i, i + 1] else none := by
  unfold State.asks
  rw [h]
  refine (if_neg hr).trans ((if_neg h0).trans ?_)
  cases s.partner i o <;> rfl

/-- A core asks for itself alone: its operation is one of one core, which has no grant and does not wait on its feed point. -/
theorem State.asks_eq_self {s : State} {i : Nat} :
    s.asks i = some [i] ↔ ∃ u n o, s.arrayNext i = some (u, n, o)
      ∧ ¬(o.kind = 2 ∨ o.granted = true ∨ s.waitsFeed u n o = true) ∧ o.kind = 0 := by
  refine ⟨fun h => ?_, fun ⟨u, n, o, hn, hr, h0⟩ => State.asks_of_single hn hr h0⟩
  cases hn : s.arrayNext i with
  | none => rw [State.asks_of_none hn] at h; cases h
  | some p =>
    obtain ⟨u, n, o⟩ := p
    have hr : ¬(o.kind = 2 ∨ o.granted = true ∨ s.waitsFeed u n o = true) := fun hr => by
      rw [State.asks_of_rest hn hr] at h
      cases h
    refine ⟨u, n, o, rfl, hr, ?_⟩
    by_contra h0
    rw [State.asks_of_pair hn hr h0] at h
    split at h
    · cases h
    · obtain ⟨p, -, hp⟩ := Option.bind_eq_some_iff.1 h
      split at hp <;> cases hp

section
variable {s : State} (hcur : s.cur = {}) {T : Store Team} {i : Nat}
include hcur

theorem State.asks_self_withTeams (hk : s.ownerKept T i) (h : s.asks i = some [i]) : (s.withTeams T).asks i = some [i] := by
  obtain ⟨u, n, o, hn, hr, h0⟩ := State.asks_eq_self.1 h
  have hT := hk u ((State.arrayNext_eq_some hcur).1 hn).1
  exact State.asks_eq_self.2 ⟨u, n, o, (State.arrayNext_withTeams hcur hk).trans hn, by rwa [State.waitsFeed_withTeams hcur hT], h0⟩

/-- Whether an operation asks for a grant is settled by its own team, but for what its partner says. -/
theorem State.asks_withTeams (hk : s.ownerKept T i) (hk' : s.ownerKept T (i ^^^ 1)) : (s.withTeams T).asks i = s.asks i := by
  have hnT := State.arrayNext_withTeams hcur hk
  cases hn : s.arrayNext i with
  | none => rw [State.asks_of_none hn, State.asks_of_none (hnT.trans hn)]
  | some p =>
    obtain ⟨u, n, o⟩ := p
    rw [hn] at hnT
    have hw := State.waitsFeed_withTeams hcur (n := n) (o := o) (hk u ((State.arrayNext_eq_some hcur).1 hn).1)
    by_cases hr : o.kind = 2 ∨ o.granted = true ∨ s.waitsFeed u n o = true
    · rw [State.asks_of_rest hn hr, State.asks_of_rest hnT (by rwa [hw])]
    · by_cases h0 : o.kind = 0
      · rw [State.asks_of_single hn hr h0, State.asks_of_single hnT (by rwa [hw]) h0]
      · rw [State.asks_of_pair hn hr h0, State.asks_of_pair hnT (by rwa [hw]) h0]
        have hp : (s.withTeams T).partner i o = s.partner i o := by
          unfold State.partner
          rw [State.arrayNext_withTeams hcur hk']
        rw [hp]
        cases hs : s.partner i o with
        | none => rfl
        | some q =>
          have hq := hk' q.1 ((State.arrayNext_eq_some hcur).1 (State.partner_eq_some.1 hs).1).1
          simp only [Option.bind_some, State.waitsFeed_withTeams hcur hq]

end

/-! ### Grants (15 R403) -/

/-- A team whose operation n has its grant. -/
def Team.granted (x : Team) (n : Nat) : Team := { x with
  matOps := x.matOps.map fun p => if p.1 = n then (p.1, { p.2 with granted := true, feedWait := false }) else p }

/-- The teams T once core i has its grant. -/
def State.grantTeams (s : State) (T : Store Team) (i : Nat) : Store Team :=
  match s.arrayNext i with
  | some (u, n, _) => T.set u ((T.get {} u : Team).granted n)
  | none => T

/-- The number of requests of len that a step grants, after st starts. -/
def grantCount (free : Bool) (allow st len : Nat) : Nat := if free then len else min len (allow - st)

section
variable {s : State} (hcur : s.cur = {})
include hcur

theorem State.grantCore_withTeams {T : Store Team} {i : Nat} (hk : s.ownerKept T i) :
    (s.withTeams T).grantCore i = s.withTeams (s.grantTeams T i) := by
  unfold State.grantCore State.grantTeams
  rw [State.arrayNext_withTeams hcur hk]
  cases s.arrayNext i with
  | none => rfl
  | some p =>
    dsimp only
    rw [State.onTeam_of_idle (s := s.withTeams T) hcur]
    rfl

/-- The owners of two of the cores are the same only where there is none. -/
def State.ownersDiffer (s : State) (l : List Nat) : Prop :=
  ∀ i ∈ l, ∀ j ∈ l, i ≠ j → (s.core i).acmOwner = (s.core j).acmOwner → (s.core i).acmOwner = none

/-- A grant changes the owner of its core alone. -/
theorem State.get_grantTeams_other (T : Store Team) {i v : Nat} (h : (s.core i).acmOwner ≠ some v) :
    (s.grantTeams T i).get {} v = T.get {} v := by
  unfold State.grantTeams
  cases hn : s.arrayNext i with
  | none => rfl
  | some p =>
    refine Store.get_set_ne _ _ _ ?_
    rintro rfl
    exact h ((State.arrayNext_eq_some hcur).1 hn).1

theorem State.ownerKept_grantTeams {T : Store Team} {l : List Nat} (hd : s.ownersDiffer l) {i j : Nat} (hi : i ∈ l) (hj : j ∈ l) (hij : j ≠ i)
    (hk : s.ownerKept T j) : s.ownerKept (s.grantTeams T i) j := by
  intro v hv
  refine (State.get_grantTeams_other hcur T fun hv' => ?_).trans (hk v hv)
  rw [hd j hj i hi hij (hv.trans hv'.symm)] at hv
  cases hv

/-- The requests of single cores, in order: as many as the step allows are granted, the others wait. -/
theorem State.foldl_grantRequest (free : Bool) (allow : Nat) {l : List Nat} (hl : l.Nodup) (ha : ∀ i ∈ l, s.asks i = some [i])
    (hd : s.ownersDiffer l) (T : Store Team) (st : Nat) (left : List Nat) (hk : ∀ i ∈ l, s.ownerKept T i) :
    let m := grantCount free allow st l.length
    l.foldl (State.grantRequest [] free allow) (s.withTeams T, st, left)
      = (s.withTeams ((l.take m).foldl s.grantTeams T), st + m, left ++ l.drop m) := by
  induction l generalizing T st left with
  | nil => simp [grantCount]
  | cons i l ih =>
    obtain ⟨hi, hl⟩ := List.nodup_cons.1 hl
    have hd' : s.ownersDiffer l := fun a ha b hb => hd a (List.mem_cons_of_mem _ ha) b (List.mem_cons_of_mem _ hb)
    have hki := hk i List.mem_cons_self
    have hask := State.asks_self_withTeams hcur hki (ha i List.mem_cons_self)
    have step : State.grantRequest [] free allow (s.withTeams T, st, left) i =
        if free = true ∨ st < allow then (s.withTeams (s.grantTeams T i), st + 1, left) else (s.withTeams T, st, left ++ [i]) := by
      unfold State.grantRequest
      dsimp only
      rw [hask]
      simp [State.grantCore_withTeams hcur hki]
    rw [List.foldl_cons, step]
    by_cases hgo : free = true ∨ st < allow
    · have hm : grantCount free allow st (i :: l).length = grantCount free allow (st + 1) l.length + 1 := by
        unfold grantCount
        cases free <;> simp at hgo ⊢
        omega
      rw [if_pos hgo, ih hl (fun a h => ha a (List.mem_cons_of_mem _ h)) hd' _ _ _ fun a h => State.ownerKept_grantTeams hcur hd
        List.mem_cons_self (List.mem_cons_of_mem _ h) (fun e => hi (e ▸ h)) (hk a (List.mem_cons_of_mem _ h))]
      dsimp only
      rw [hm, List.take_succ_cons, List.drop_succ_cons, List.foldl_cons, Nat.add_assoc, Nat.add_comm 1]
    · have hm (n : Nat) : grantCount free allow st n = 0 := by
        unfold grantCount
        cases free <;> simp at hgo ⊢
        omega
      rw [if_neg hgo, ih hl (fun a h => ha a (List.mem_cons_of_mem _ h)) hd' _ _ _ fun a h => hk a (List.mem_cons_of_mem _ h)]
      simp [hm]

theorem State.get_foldl_grantTeams_other {l : List Nat} (T : Store Team) {v : Nat} (h : ∀ i ∈ l, (s.core i).acmOwner ≠ some v) :
    (l.foldl s.grantTeams T).get {} v = T.get {} v := by
  induction l generalizing T with
  | nil => rfl
  | cons i l ih =>
    rw [List.foldl_cons, ih _ fun j hj => h j (List.mem_cons_of_mem _ hj), State.get_grantTeams_other hcur T (h i List.mem_cons_self)]

/-- The team of a core that is granted. -/
theorem State.get_foldl_grantTeams {l : List Nat} (hl : l.Nodup) (hd : s.ownersDiffer l) (T : Store Team) {i u n : Nat} {o : MatOp}
    (hn : s.arrayNext i = some (u, n, o)) (hi : i ∈ l) : (l.foldl s.grantTeams T).get {} u = (T.get {} u : Team).granted n := by
  have ho := ((State.arrayNext_eq_some hcur).1 hn).1
  induction l generalizing T with
  | nil => cases hi
  | cons j l ih =>
    obtain ⟨hj, hl⟩ := List.nodup_cons.1 hl
    have other {a b : Nat} (ha : a ∈ j :: l) (hb : b ∈ j :: l) (hab : a ≠ b) (hb' : (s.core b).acmOwner = some u) :
        (s.core a).acmOwner ≠ some u := by
      intro ha'
      rw [hd a ha b hb hab (ha'.trans hb'.symm)] at ha'
      cases ha'
    rw [List.foldl_cons]
    obtain rfl | hil := List.mem_cons.1 hi
    · rw [State.get_foldl_grantTeams_other hcur _ fun a ha => other (List.mem_cons_of_mem _ ha) List.mem_cons_self (fun e => hj (e ▸ ha)) ho]
      unfold State.grantTeams
      rw [hn]
      exact Store.get_set_self _ _ _ _
    · rw [ih hl (fun a ha b hb => hd a (List.mem_cons_of_mem _ ha) b (List.mem_cons_of_mem _ hb)) _ hil,
        State.get_grantTeams_other hcur T (other List.mem_cons_self hi (fun e => hj (e ▸ hil)) ho)]

end

end Sys2Proof.Machine

/-! PROOFS. A governor step: who asks, who is granted, and what its cluster becomes (15 R403-R405; the last clause of O47). -/

namespace Sys2Proof.Machine
open Sys2Proof

/-! ### The step of a governor -/

/-- The cluster with the parameters that its step goes by: those of the registers in an idle period (15 R405). -/
def State.governed (s : State) (k : Nat) : Cluster :=
  if (s.cluster k).idleMax ≤ (s.cluster k).idle then
    { s.cluster k with rampTab := s.pfGov, down := s.pfGov2Down, idleMax := s.pfGov2Idle }
  else s.cluster k

/-- The entry of the ramp table that the step goes by. -/
def State.rampStep (s : State) (k : Nat) : Nat := if (s.cluster k).idleMax ≤ (s.cluster k).idle then 0 else (s.cluster k).ramp

/-- The starts that the step allows. -/
def State.rampAllow (s : State) (k : Nat) : Nat := rampAt (s.governed k).rampTab (s.rampStep k)

/-- The cores of the cluster that ask, and their requests in order of presentation. -/
def State.askingCores (s : State) (k : Nat) : List Nat := (coresOf k).filter fun i => (s.asks i).isSome
def State.requestOrder (s : State) (c : Cluster) (k : Nat) : List Nat :=
  c.requests.filter (s.askingCores k).contains ++ (s.askingCores k).filter fun i => !c.requests.contains i

/-- The arrays of the cluster that stop, in a state t after the grants, and those that run ballast. -/
def State.stopping (s t : State) (k : Nat) : List Nat :=
  let running := (coresOf k).filter t.runsArray
  (coresOf k).filter fun i => ((s.cluster k).running ++ (s.cluster k).ballast).contains i && !running.contains i
def State.ballasted (s t : State) (k : Nat) : List Nat :=
  (s.stopping t k).take (((s.cluster k).running ++ (s.cluster k).ballast).length - (s.governed k).down - ((coresOf k).filter t.runsArray).length)

/-- The cluster after its step: t is the state after the grants, with the starts and the requests left. -/
def State.clusterAfter (s t : State) (k starts : Nat) (left : List Nat) : Cluster :=
  let c := s.governed k
  let running := (coresOf k).filter t.runsArray
  let ballast := s.ballasted t k
  { c with
    requests := left, running := running, ballast := ballast,
    ramp := if (s.cluster k).idleMax ≤ (s.cluster k).idle then (if starts = 0 then 0 else 1) else min ((s.cluster k).ramp + 1) 16,
    idle := if running = [] ∧ ballast = [] then c.idle + 1 else 0,
    ballastSteps := c.ballastSteps + ballast.length,
    ungranted := if left = [] then c.ungranted else c.ungranted + 1,
    crec := c.crec + BitVec.ofNat 32 (4096 * 4 * ballast.length) }

/-- The state after the grants of a step, its starts, and the requests that wait. -/
def State.afterGrants (s : State) (k : Nat) : State × Nat × List Nat :=
  let d := (coresOf k).foldl State.dropGrant s
  (d.requestOrder (s.governed k) k).foldl
    (State.grantRequest ((s.cluster k).running ++ (s.cluster k).ballast) (decide (s.rampStep k > 15)) (s.rampAllow k)) (d, 0, [])

theorem exec_governorStep (s : State) (k : Nat) :
    let r := s.afterGrants k
    ∃ v b, exec (.governorStep k) s =
      .next (((r.1.onCluster k fun _ => s.clusterAfter r.1 k r.2.1 r.2.2).countCluster k 0x22 r.2.1 v).countCluster k 0x23 b v) := by
  refine ⟨(s.vfOfCluster k).getD 0, (s.ballasted (s.afterGrants k).1 k).length, ?_⟩
  show execGovernorStep k s = _
  unfold execGovernorStep State.clusterAfter State.ballasted State.stopping State.afterGrants State.rampAllow State.rampStep State.governed
    State.requestOrder State.askingCores
  by_cases h : (s.cluster k).idleMax ≤ (s.cluster k).idle
  · simp only [h, decide_true, if_true]
  · simp only [h, decide_false, Bool.false_eq_true, if_false]

theorem State.countCluster_off (s : State) (k code n : Nat) {v : Nat} (h : (s.vf v).pmEn = false) : s.countCluster k code n v = s := by
  simp [State.countCluster, h]

theorem State.countCluster_teams (s : State) (k code n v : Nat) : (s.countCluster k code n v).teams = s.teams := by
  unfold State.countCluster
  dsimp only
  split <;> rfl

theorem rampAt_eq (tab : W64) (i : Nat) : rampAt tab i = tab.toNat / 2 ^ (4 * i) % 16 := by
  unfold rampAt bits
  rw [show 4 * i + 3 + 1 - 4 * i = 4 by omega, Nat.shiftRight_eq_div_pow]
  rfl

/-! ### A step without counted events -/

section
variable {s : State} {k : Nat}

theorem foldl_eq_of_fixed {α β : Type} {f : α → β → α} {a : α} {l : List β} (h : ∀ b ∈ l, f a b = a) : l.foldl f a = a := by
  induction l with
  | nil => rfl
  | cons b l ih => rw [List.foldl_cons, h b List.mem_cons_self, ih fun c hc => h c (List.mem_cons_of_mem _ hc)]

/-- No core of the cluster holds a grant without running. -/
def State.grantsRun (s : State) (k : Nat) : Prop :=
  ∀ i ∈ coresOf k, ∀ u n o, s.arrayReady i = some (u, n, o) → o.granted = true → s.runsArray i = true

theorem State.dropGrant_of_none {i : Nat} (h : s.arrayReady i = none) : s.dropGrant i = s := by
  unfold State.dropGrant
  rw [h]

theorem State.foldl_dropGrant (h : s.grantsRun k) : (coresOf k).foldl State.dropGrant s = s := by
  refine foldl_eq_of_fixed fun i hi => ?_
  unfold State.dropGrant
  cases hr : s.arrayReady i with
  | none => rfl
  | some p =>
    obtain ⟨u, n, o⟩ := p
    refine if_neg fun hc => ?_
    rw [Bool.and_eq_true, Bool.not_eq_true'] at hc
    rw [h i hi u n o hr hc.1] at hc
    cases hc.2

/-- The step's parameters alone differ from those of the cluster. -/
theorem State.governed_keeps :
    (s.governed k).requests = (s.cluster k).requests ∧ (s.governed k).running = (s.cluster k).running
    ∧ (s.governed k).ballast = (s.cluster k).ballast ∧ (s.governed k).ungranted = (s.cluster k).ungranted
    ∧ (s.governed k).idle = (s.cluster k).idle ∧ (s.governed k).ballastSteps = (s.cluster k).ballastSteps
    ∧ (s.governed k).crec = (s.cluster k).crec := by
  unfold State.governed
  split <;> exact ⟨rfl, rfl, rfl, rfl, rfl, rfl, rfl⟩

theorem State.requests_governed : (s.governed k).requests = (s.cluster k).requests := State.governed_keeps.1

theorem State.askingCores_nil (h : ∀ i ∈ coresOf k, s.asks i = none) : s.askingCores k = [] := by
  refine List.filter_eq_nil_iff.2 fun i hi => ?_
  rw [h i hi]
  decide

theorem State.requestOrder_nil (h : ∀ i ∈ coresOf k, s.asks i = none) (c : Cluster) : s.requestOrder c k = [] := by
  unfold State.requestOrder
  rw [State.askingCores_nil h]
  simp

/-- A step in which no array asks grants nothing. -/
theorem State.afterGrants_of_none (hg : s.grantsRun k) (h : ∀ i ∈ coresOf k, s.asks i = none) : s.afterGrants k = (s, 0, []) := by
  unfold State.afterGrants
  dsimp only
  rw [State.foldl_dropGrant hg, State.requestOrder_nil h]
  rfl

/-- The state after a step whose grants give the teams T. -/
theorem exec_governorStep_grants (hpm : ∀ v, (s.vf v).pmEn = false) {T : Store Team} {starts : Nat} {left : List Nat}
    (h : s.afterGrants k = (s.withTeams T, starts, left)) :
    exec (.governorStep k) s = .next ((s.withTeams T).onCluster k fun _ => s.clusterAfter (s.withTeams T) k starts left) := by
  obtain ⟨v, b, he⟩ := exec_governorStep s k
  rw [h] at he
  have off (c : Cluster) (code n : Nat) :
      ((s.withTeams T).onCluster k fun _ => c).countCluster k code n v = (s.withTeams T).onCluster k fun _ => c :=
    State.countCluster_off _ _ _ _ (hpm v)
  rw [he]
  dsimp only
  rw [off, off]

/-- A step with no stopping array runs no ballast. -/
theorem State.ballasted_nil (hr : (s.cluster k).running = []) (hb : (s.cluster k).ballast = []) (t : State) : s.ballasted t k = [] := by
  unfold State.ballasted
  rw [hr, hb]
  simp

/-- The cluster after a step in which nothing starts and no request waits. -/
theorem State.clusterAfter_none (t : State) :
    s.clusterAfter t k 0 [] = { s.governed k with
      requests := [], running := (coresOf k).filter t.runsArray, ballast := s.ballasted t k,
      ramp := if (s.cluster k).idleMax ≤ (s.cluster k).idle then 0 else Nat.min ((s.cluster k).ramp + 1) 16,
      idle := if (coresOf k).filter t.runsArray = [] ∧ s.ballasted t k = [] then (s.cluster k).idle + 1 else 0,
      ballastSteps := (s.cluster k).ballastSteps + (s.ballasted t k).length,
      crec := (s.cluster k).crec + BitVec.ofNat 32 (16384 * (s.ballasted t k).length) } := by
  obtain ⟨-, -, -, -, hidle, hsteps, hcrec⟩ := State.governed_keeps (s := s) (k := k)
  rw [← hsteps, ← hcrec]
  unfold State.clusterAfter
  dsimp only
  rw [hidle]
  rfl

/-- The cluster after a step in which nothing starts, runs or stops. -/
theorem State.clusterAfter_rest {t : State} (hq : (s.cluster k).requests = []) (hr : (s.cluster k).running = [])
    (hb : (s.cluster k).ballast = []) (ht : ∀ i ∈ coresOf k, t.runsArray i = false) :
    s.clusterAfter t k 0 [] = { s.governed k with
      ramp := if (s.cluster k).idleMax ≤ (s.cluster k).idle then 0 else Nat.min ((s.cluster k).ramp + 1) 16,
      idle := (s.cluster k).idle + 1 } := by
  have hrun : (coresOf k).filter t.runsArray = [] := List.filter_eq_nil_iff.2 fun i hi => by rw [ht i hi]; decide
  obtain ⟨hq', hr', hb', -, -, hsteps, hcrec⟩ := State.governed_keeps (s := s) (k := k)
  rw [State.clusterAfter_none, hrun, State.ballasted_nil hr hb, ← hsteps, ← hcrec]
  rw [hq] at hq'
  rw [hr] at hr'
  rw [hb] at hb'
  generalize s.governed k = g at hq' hr' hb' ⊢
  obtain ⟨⟩ := g
  subst hq' hr' hb'
  simp

/-- DOWN bounds the fall of the running count. -/
theorem State.ballasted_bound (t : State) :
    let prev := (s.cluster k).running ++ (s.cluster k).ballast
    let running := (coresOf k).filter t.runsArray
    prev.length ≤ running.length + (s.stopping t k).length → prev.length ≤ running.length + (s.ballasted t k).length + (s.governed k).down := by
  intro prev running h
  unfold State.ballasted
  rw [List.length_take]
  change prev.length ≤ running.length + min (prev.length - (s.governed k).down - running.length) _ + _
  omega

end

/-! ### Requests of single cores -/

section
variable {s : State} {k : Nat} (hself : ∀ i ∈ coresOf k, s.asks i = none ∨ s.asks i = some [i])

theorem State.nodup_requestOrder {c : Cluster} (h : c.requests.Nodup) : (s.requestOrder c k).Nodup := by
  unfold State.requestOrder State.askingCores
  refine (h.filter _).append (((nodup_coresOf k).filter _).filter _) fun i hi hi' => ?_
  have h1 := (List.mem_filter.1 hi).1
  have h2 := (List.mem_filter.1 hi').2
  simp [h1] at h2

theorem State.mem_requestOrder {c : Cluster} {i : Nat} (h : i ∈ s.requestOrder c k) : i ∈ coresOf k ∧ (s.asks i).isSome = true := by
  have hi : i ∈ s.askingCores k := by
    obtain h | h := List.mem_append.1 h
    · exact List.contains_iff_mem.1 (List.mem_filter.1 h).2
    · exact (List.mem_filter.1 h).1
  exact List.mem_filter.1 hi

include hself in
theorem State.asks_of_mem_requestOrder {c : Cluster} {i : Nat} (h : i ∈ s.requestOrder c k) : s.asks i = some [i] := by
  obtain ⟨hi, ha⟩ := State.mem_requestOrder h
  refine (hself i hi).resolve_left fun hn => ?_
  rw [hn] at ha
  cases ha

variable (hcur : s.cur = {}) (hg : s.grantsRun k) (hrun : (s.cluster k).running = []) (hbal : (s.cluster k).ballast = [])
include hself hcur hg hrun hbal

/-- Where each core asks for itself and nothing ran before, requests are granted in order, as many as the step allows. -/
theorem State.afterGrants_of_self (hn : (s.cluster k).requests.Nodup) (hd : s.ownersDiffer (s.requestOrder (s.governed k) k)) :
    let order := s.requestOrder (s.governed k) k
    let m := grantCount (decide (s.rampStep k > 15)) (s.rampAllow k) 0 order.length
    s.afterGrants k = (s.withTeams ((order.take m).foldl s.grantTeams s.teams), m, order.drop m) := by
  intro order m
  unfold State.afterGrants
  dsimp only
  rw [State.foldl_dropGrant hg, hrun, hbal]
  have h := State.foldl_grantRequest hcur (decide (s.rampStep k > 15)) (s.rampAllow k) (l := order)
    (State.nodup_requestOrder (by rw [State.requests_governed]; exact hn)) (fun i hi => State.asks_of_mem_requestOrder hself hi) hd
    s.teams 0 [] fun i _ u _ => rfl
  refine h.trans ?_
  rw [Nat.zero_add, List.nil_append]

end

/-- A cluster in which one core asks. -/
theorem State.requestOrder_single {s : State} {k i : Nat} (hi : i ∈ coresOf k) (ha : (s.asks i).isSome = true)
    (ho : ∀ j ∈ coresOf k, j ≠ i → s.asks j = none) {c : Cluster} (hc : c.requests = []) : s.requestOrder c k = [i] := by
  have hask : s.askingCores k = [i] := by
    unfold State.askingCores
    have hp : ∀ j ∈ coresOf k, (s.asks j).isSome = (j == i) := fun j hj => by
      by_cases hij : j = i
      · rw [hij, ha, beq_self_eq_true]
      · rw [ho j hj hij, beq_eq_false_iff_ne.2 hij]
        rfl
    rw [List.filter_congr hp, List.filter_beq, List.count_eq_one_of_mem (nodup_coresOf k) hi]
    rfl
  unfold State.requestOrder
  rw [hask, hc]
  rfl

/-! ### A grant that its operation does not use (08 R220; 15 R404) -/

theorem foldl_of_one_acts {α β : Type} {f : α → β → α} {a b : α} {c : β} {l : List β} (hl : l.Nodup) (hc : c ∈ l)
    (ha : ∀ x ∈ l, x ≠ c → f a x = a) (hac : f a c = b) (hb : ∀ x ∈ l, x ≠ c → f b x = b) : l.foldl f a = b := by
  induction l with
  | nil => cases hc
  | cons x l ih =>
    obtain ⟨hx, hl⟩ := List.nodup_cons.1 hl
    rw [List.foldl_cons]
    by_cases hxc : x = c
    · subst hxc
      rw [hac]
      exact foldl_eq_of_fixed fun y hy => hb y (List.mem_cons_of_mem _ hy) fun e => hx (e ▸ hy)
    · rw [ha x List.mem_cons_self hxc]
      exact ih hl ((List.mem_cons.1 hc).resolve_left fun e => hxc e.symm) (fun y hy => ha y (List.mem_cons_of_mem _ hy))
        fun y hy => hb y (List.mem_cons_of_mem _ hy)

/-- An operation that has lost its grant, if it had one. -/
def MatOp.ungranted (o : MatOp) : MatOp := { o with granted := false, feedWait := o.feedWait || o.granted }

/-- The choice of the next operation goes by the orders alone. -/
theorem nextArrayOp_map {x y : Team} {g : Nat × MatOp → Nat × MatOp} (hg : ∀ p, (g p).2.order = p.2.order) (hy : y.matOps = x.matOps.map g) :
    nextArrayOp y = (nextArrayOp x).map g := by
  unfold nextArrayOp
  rw [hy]
  suffices h : ∀ (l : List (Nat × MatOp)) (a : Option (Nat × MatOp)),
      (l.map g).foldl (fun a p => match a with | some q => if q.2.order ≤ p.2.order then a else some p | none => some p) (a.map g)
        = (l.foldl (fun a p => match a with | some q => if q.2.order ≤ p.2.order then a else some p | none => some p) a).map g from
    h x.matOps none
  intro l
  induction l with
  | nil => intro a; rfl
  | cons p l ih =>
    intro a
    rw [List.map_cons, List.foldl_cons, List.foldl_cons, ← ih]
    congr 1
    cases a with
    | none => rfl
    | some q =>
      simp only [Option.map_some, hg]
      split <;> rfl

theorem Team.nextArray_ungranted {x : Team} {n : Nat} {o : MatOp} (h : x.nextArray = some (n, o)) :
    (x.ungranted n).nextArray = some (n, o.ungranted) := by
  obtain ⟨hn, hf⟩ := Option.filter_eq_some_iff.1 h
  unfold Team.nextArray
  rw [nextArrayOp_map (x := x) (g := fun p => if p.1 = n then (p.1, p.2.ungranted) else p) (fun p => by split <;> rfl) rfl, hn]
  simp only [Option.map_some, if_true]
  rw [Option.filter_some]
  exact if_pos hf

theorem State.arrayNext_of_ready {s : State} {i u n : Nat} {o : MatOp} (h : s.arrayReady i = some (u, n, o)) : s.arrayNext i = some (u, n, o) :=
  (Option.filter_eq_some_iff.1 h).1

section
variable {s : State} (hcur : s.cur = {}) {k c u n : Nat} {o : MatOp} (hc : c ∈ coresOf k) (hr : s.arrayReady c = some (u, n, o))
  (hg : o.granted = true) (h0 : o.kind = 0) (hf : feedOk (s.teams.get {} u) o ((s.teams.get {} u : Team).panel n) = false)
  (hothers : ∀ i ∈ coresOf k, i ≠ c → s.arrayReady i = none)
include hcur hr

/-- A core with no ready operation has another owner. -/
theorem State.owner_ne_of_notReady {i : Nat} (h : s.arrayReady i = none) : (s.core i).acmOwner ≠ some u := by
  intro hi
  have hn := State.arrayNext_of_owner hcur (hi.trans ((State.arrayNext_eq_some hcur).1 (State.arrayNext_of_ready hr)).1.symm)
  rw [State.arrayReady_eq hcur] at h hr
  rw [hn, hr] at h
  cases h

/-- The teams in which the operation has lost its grant. -/
def State.droppedTeams (s : State) (u n : Nat) : Store Team := s.teams.set u ((s.teams.get {} u : Team).ungranted n)

theorem State.ownerKept_dropped {i : Nat} (h : s.arrayReady i = none) : s.ownerKept (s.droppedTeams u n) i := fun v hv =>
  Store.get_set_ne _ _ _ (by rintro rfl; exact State.owner_ne_of_notReady hcur hr h hv)

/-- The next operation of the core, without its grant. -/
theorem State.arrayNext_dropped : (s.withTeams (s.droppedTeams u n)).arrayNext c = some (u, n, o.ungranted) := by
  obtain ⟨ho, hn⟩ := (State.arrayNext_eq_some hcur).1 (State.arrayNext_of_ready hr)
  refine (State.arrayNext_eq_some (s := s.withTeams (s.droppedTeams u n)) hcur).2 ⟨ho, ?_⟩
  show (Store.get {} (s.droppedTeams u n) u : Team).nextArray = _
  unfold State.droppedTeams
  rw [Store.get_set_self]
  exact Team.nextArray_ungranted hn

include hg hf

theorem State.dropGrant_unfed : s.dropGrant c = s.withTeams (s.droppedTeams u n) := by
  have hfed : s.runsArray c = false := by
    unfold State.runsArray State.arrayFed
    rw [hr]
    dsimp only
    rw [State.teamOf_of_idle hcur, ← Team.panel, hf]
    rfl
  unfold State.dropGrant
  rw [hr]
  dsimp only
  rw [hg, hfed, State.ungrant_of_idle hcur rfl]
  rfl

include hc hothers

theorem State.foldl_dropGrant_one : (coresOf k).foldl State.dropGrant s = s.withTeams (s.droppedTeams u n) :=
  foldl_of_one_acts (nodup_coresOf k) hc (fun i hi hic => State.dropGrant_of_none (hothers i hi hic))
    (State.dropGrant_unfed hcur hr hg hf) fun i hi hic =>
      State.dropGrant_of_none ((State.arrayReady_withTeams hcur (State.ownerKept_dropped hcur hr (hothers i hi hic))).trans (hothers i hi hic))

include h0

/-- Once the operation has lost its grant, no core of the cluster asks that did not ask before. -/
theorem State.asks_dropped (ha : ∀ i ∈ coresOf k, s.asks i = none) : ∀ i ∈ coresOf k, (s.withTeams (s.droppedTeams u n)).asks i = none := by
  have hnext := State.arrayNext_dropped hcur hr
  intro i hi
  by_cases hic : i = c
  · subst hic
    refine State.asks_of_rest hnext (.inr (.inr ?_))
    rw [State.waitsFeed_eq (s := s.withTeams (s.droppedTeams u n)) hcur]
    have hx : (s.withTeams (s.droppedTeams u n)).teams.get {} u = (s.teams.get {} u : Team).ungranted n := Store.get_set_self _ _ _ _
    show ((o.feedWait || o.granted) && _) = true
    rw [hx, hg, Bool.or_true, Bool.true_and]
    exact congrArg not hf
  · have hk := State.ownerKept_dropped (n := n) hcur hr (hothers i hi hic)
    by_cases hx : i ^^^ 1 = c
    · cases hn : s.arrayNext i with
      | none => exact State.asks_of_none ((State.arrayNext_withTeams hcur hk).trans hn)
      | some p =>
        obtain ⟨v, m, p⟩ := p
        have hnT := (State.arrayNext_withTeams hcur hk).trans hn
        have hw := State.waitsFeed_withTeams hcur (n := m) (o := p) (hk v ((State.arrayNext_eq_some hcur).1 hn).1)
        by_cases hrest : p.kind = 2 ∨ p.granted = true ∨ s.waitsFeed v m p = true
        · exact State.asks_of_rest hnT (by rwa [hw])
        · have hp0 : p.kind ≠ 0 := fun hp => by
            have := ha i hi
            rw [State.asks_of_single hn hrest hp] at this
            cases this
          have hpart : (s.withTeams (s.droppedTeams u n)).partner i p = none := by
            unfold State.partner
            rw [hx, hnext]
            have hk1 : o.ungranted.kind ≠ 1 := by show o.kind ≠ 1; rw [h0]; decide
            exact if_neg fun h => hk1 h.1
          rw [State.asks_of_pair hnT (by rwa [hw]) hp0, hpart]
          simp
    · have hi' : i ^^^ 1 ∈ coresOf k := mem_coresOf.2 ((xor_one_cluster i).trans (mem_coresOf.1 hi))
      exact (State.asks_withTeams hcur hk (State.ownerKept_dropped hcur hr (hothers _ hi' hx))).trans (ha i hi)

/-- An operation that holds its grant while it waits on its feed point gives it up. -/
theorem exec_governorStep_drops (ha : ∀ i ∈ coresOf k, s.asks i = none) :
    ∃ t, exec (.governorStep k) s = .next t ∧ TeamIs s t u ((s.teams.get {} u : Team).ungranted n) := by
  obtain ⟨v, b, he⟩ := exec_governorStep s k
  refine ⟨_, he, ?_⟩
  have hgrants : (s.afterGrants k).1 = s.withTeams (s.droppedTeams u n) := by
    unfold State.afterGrants
    dsimp only
    rw [State.foldl_dropGrant_one hcur hc hr hg hf hothers,
      State.requestOrder_nil (State.asks_dropped hcur hc hr hg h0 hf hothers ha)]
    rfl
  unfold TeamIs
  rw [State.countCluster_teams, State.countCluster_teams, State.onCluster_teams, hgrants]
  exact teamIs_set s u _

end

/-! ### Starts in order of presentation (15 R403) -/

/-- The starts of a step in which no array ran before. -/
def State.startCount (s : State) (k len : Nat) : Nat := if 15 < s.rampStep k then len else min len (s.rampAllow k)

theorem State.grantCount_eq (s : State) (k len : Nat) :
    grantCount (decide (s.rampStep k > 15)) (s.rampAllow k) 0 len = s.startCount k len := by
  unfold grantCount State.startCount
  rw [Nat.sub_zero]
  by_cases h : 15 < s.rampStep k <;> simp [h]

/-- The state after a step in which each core asks for itself and nothing ran before. -/
theorem exec_governorStep_starts {s : State} {k : Nat} (hpm : ∀ v, (s.vf v).pmEn = false)
    (hself : ∀ i ∈ coresOf k, s.asks i = none ∨ s.asks i = some [i]) (hcur : s.cur = {}) (hg : s.grantsRun k)
    (hrun : (s.cluster k).running = []) (hbal : (s.cluster k).ballast = []) (hn : (s.cluster k).requests.Nodup)
    (hd : s.ownersDiffer (s.requestOrder (s.cluster k) k)) :
    let order := s.requestOrder (s.cluster k) k
    let m := s.startCount k order.length
    ∃ t : State, exec (.governorStep k) s = .next t ∧ t.teams = (order.take m).foldl s.grantTeams s.teams
      ∧ (t.cluster k).requests = order.drop m
      ∧ (t.cluster k).ungranted = (s.cluster k).ungranted + (if order.drop m = [] then 0 else 1)
      ∧ (t.cluster k).ramp =
          if (s.cluster k).idleMax ≤ (s.cluster k).idle then (if m = 0 then 0 else 1) else Nat.min ((s.cluster k).ramp + 1) 16 := by
  intro order m
  have horder : s.requestOrder (s.governed k) k = order := by
    unfold State.requestOrder
    rw [State.requests_governed]
    rfl
  have hgrants := State.afterGrants_of_self hself hcur hg hrun hbal hn (by rw [horder]; exact hd)
  dsimp only at hgrants
  rw [horder, State.grantCount_eq] at hgrants
  have hcl := (clusterIs_onCluster (s.withTeams ((order.take m).foldl s.grantTeams s.teams)) k fun _ =>
    s.clusterAfter (s.withTeams ((order.take m).foldl s.grantTeams s.teams)) k m (order.drop m)).2
  refine ⟨_, exec_governorStep_grants hpm hgrants, rfl, ?_, ?_, ?_⟩ <;> rw [hcl]
  · rfl
  · show (if order.drop m = [] then (s.governed k).ungranted else (s.governed k).ungranted + 1) = _
    obtain ⟨-, -, -, hun, -, -, -⟩ := State.governed_keeps (s := s) (k := k)
    rw [hun]
    split <;> rfl
  · rfl

/-- The step in which one core asks, and the ramp allows its start. -/
theorem exec_governorStep_alone {s : State} {k core u n : Nat} {o : MatOp} (hpm : ∀ v, (s.vf v).pmEn = false) (hcur : s.cur = {})
    (hg : s.grantsRun k) (hrun : (s.cluster k).running = []) (hbal : (s.cluster k).ballast = []) (hq : (s.cluster k).requests = [])
    (hc : core ∈ coresOf k) (ha : s.asks core = some [core]) (ho : ∀ i ∈ coresOf k, i ≠ core → s.asks i = none)
    (hn : s.arrayNext core = some (u, n, o)) (hallow : 0 < s.rampAllow k ∨ 15 < s.rampStep k) :
    ∃ t, exec (.governorStep k) s = .next t ∧ TeamIs s t u ((s.teams.get {} u : Team).granted n) := by
  have horder : s.requestOrder (s.cluster k) k = [core] := State.requestOrder_single hc (by rw [ha]; rfl) ho hq
  have hself : ∀ i ∈ coresOf k, s.asks i = none ∨ s.asks i = some [i] := fun i hi => by
    by_cases h : i = core
    · exact .inr (h ▸ ha)
    · exact .inl (ho i hi h)
  have hcount : s.startCount k 1 = 1 := by
    unfold State.startCount
    split
    · rfl
    · next h => exact Nat.min_eq_left (hallow.resolve_right h)
  obtain ⟨t, hexec, hteams, -⟩ := exec_governorStep_starts hpm hself hcur hg hrun hbal (by rw [hq]; exact List.nodup_nil) (by
    rw [horder]
    intro i hi j hj hij
    exact absurd ((List.mem_singleton.1 hi).trans (List.mem_singleton.1 hj).symm) hij)
  refine ⟨t, hexec, ?_⟩
  have hset : t.teams = s.teams.set u ((s.teams.get {} u : Team).granted n) := by
    rw [hteams, horder, List.length_singleton, hcount]
    show s.grantTeams s.teams core = _
    unfold State.grantTeams
    rw [hn]
  unfold TeamIs
  rw [hset]
  exact teamIs_set s u _

end Sys2Proof.Machine

/-! PROOFS. The events of a core's and a team's own units (O47). -/

namespace Sys2Proof.Machine
open Sys2Proof

/-- Settles O47: one conjunct per kind of event, each from the equations of its event and the facts about what it changes. -/
theorem coreUnitEvents : Obligations.CoreUnitEvents := by
  unfold Obligations.CoreUnitEvents
  refine ⟨?units, ?windows, ?home, ?engine, ?governor⟩
  case units =>
    intro s u hcur x
    refine ⟨idle_rdvUnitsArrive hcur, fun hl => ⟨_, exec_rdvUnitsArrive hcur hl, rfl, (teamIs_set s u _).1, ?_⟩⟩
    rw [(teamIs_set s u x.unitsArrive).2]
    refine ⟨x.units_unitsArrive, x.point_unitsArrive, ?_, fun y g b d hu hy hf hd => ?_, fun y d hu hy _ hs hd h0 => ?_⟩
    · have hc := fun n => (x.points.get {} n : Point).completes_iff (x.units.filter fun y => y.point == n)
      simpa only [hc] using x.raceGen_unitsArrive
    · obtain ⟨v, h⟩ := Team.unitsArrive_of_one hu hy
      rw [h]
      exact Team.deliver_frag hf hd
    · obtain ⟨v, h⟩ := Team.unitsArrive_of_one hu hy
      rw [h]
      exact Team.deliver_scalar hs hd h0
  case windows =>
    intro s u g hs x grp off
    have hcur := hs.1
    refine ⟨fun h => ⟨idle_windowClose hcur rfl h, idle_joinTimerExpiry_off hcur rfl h, idle_joinDeadlock_off hcur rfl h⟩, fun h hg => ?_⟩
    have hexec := exec_windowClose hcur rfl h hg
    refine ⟨fun w hA hB hl hw hf hr => ?_, fun w hA hB hw => ?_, fun k => idle_joinTimerExpiry hcur rfl rfl,
      fun k r hsp hk ha hne he hA hB hpm => ?_, idle_joinDeadlock hcur rfl rfl, fun r hsp hd ht hh => ?_⟩
    · obtain ⟨hc, hu, hy⟩ := windowClose_due hcur rfl rfl hA hB ⟨hl, hw, hf⟩ hr
      obtain ⟨hu, hteams⟩ := State.unfocus_teams hs hc hu
      refine ⟨_, hexec, hu, ?_⟩
      rw [hteams, hy]
      exact ⟨rfl, closedSlot_lane rfl rfl hr⟩
    · have hdue : ¬w.due := fun ⟨hl, hn, hf⟩ => by
        obtain h | h | h := hw
        · exact h hl
        · exact h hn
        · rw [hf] at h
          cases h
      obtain ⟨hc, hu, hy⟩ := windowClose_open hcur rfl rfl hA hB hdue
      obtain ⟨hu, hteams⟩ := State.unfocus_teams hs hc hu
      refine ⟨_, hexec, hu, ?_⟩
      rw [hteams]
      exact hy
    · obtain ⟨y, hy, hg'⟩ := exec_joinTimerExpiry hcur rfl rfl h hsp hk ha hne he hA hB hpm
      refine ⟨_, hy, rfl, ?_⟩
      rw [Store.get_set_self]
      exact hg'
    · obtain ⟨t, he, hc, hu, hy⟩ := exec_joinDeadlock hcur rfl rfl h hsp hd ht hh
      obtain ⟨hu, hteams⟩ := State.unfocus_teams hs hc hu
      refine ⟨t, he, hu, ?_⟩
      rw [hteams]
      exact hy
  case home =>
    intro s k
    refine ⟨idle_homeSliceAccess, fun e es o x hq hp => ⟨_, exec_homeSliceAccess hq, rfl, ?_, fun j hj => ?_, readByte_apply_of_one hp s.mem⟩⟩
    · exact (Store.get_put [] _ _ _ _).trans (if_pos rfl)
    · exact (Store.get_put [] _ _ _ _).trans (if_neg hj)
  case engine =>
    intro s k hcur
    refine ⟨fun h => ⟨idle_matrixKStep_none h, idle_pairTimeout_none h⟩, ?ops, ?chunks, idle_maccComplete_unowned, ?macc⟩
    case ops =>
      intro u n o ha x c steps j acm stepped waits fails
      have hstep (x : Team) (n : Nat) (c : MatCmd) (m : W32) : x.stepped n c m = stepped x n c m := x.stepped_eq n c m
      refine ⟨fun h1 hf => teamGives_matrixKStep_feed hcur rfl ha h1 hf, fun h1 hf hw => idle_matrixKStep hcur rfl ha h1 hf hw,
        fun h0 hf hg hfree => ?_, fun h2 hf hfree => ⟨fun s1 cols hc => ?_, fun e he => teamGives_of_exec ?_, ?_⟩,
        fun u2 n2 o2 => State.partner_eq_some, fun h1 hp => teamGives_noPartner hcur rfl ha h1 hp, fun u2 n2 o2 h1 hp hu => ?_,
        idle_pairTimeout ha⟩
      · intro step
        obtain ⟨hframe, hcore, hcluster, hteam⟩ := State.stepDone_array_gives hcur (rfl : s.teams.get {} u = x) k n c step
        rw [hstep] at hteam
        exact ⟨_, exec_matrixKStep_array hcur rfl ha h0 hf hg hfree, hframe, hcore, hcluster, hteam⟩
      · intro step
        have hs1 := State.stackCols_frame hc
        have hx1 : s1.teams.get {} u = x := by rw [hs1]
        obtain ⟨hframe, hcore, hteam⟩ := State.stepDone_stack_gives (s := s1) (by rw [hs1]; exact hcur) hx1 k n c step
        rw [hstep] at hteam
        exact ⟨_, exec_matrixKStep_stack hcur rfl ha h2 hf hfree hc, hframe, hcore, hteam⟩
      · exact (exec_matrixKStep_stackStops hcur rfl ha h2 hf hfree).1 e he
      · exact (exec_matrixKStep_stackStops hcur rfl ha h2 hf hfree).2
      · intro x2 c2 j2 both
        refine ⟨fun he => ?_, fun he hf => ?_, fun he hf hf2 =>
          ⟨idle_matrixKStep_pair hcur rfl ha h1 rfl hp he hf hf2, fun hg hg2 hfree hfree2 => ?_⟩⟩
        · exact ⟨_, exec_matrixKStep_pairFails hcur rfl ha h1 rfl hp hu he, rfl, twoTeams_set s hu _ _⟩
        · exact ⟨_, exec_matrixKStep_pairWaits hcur rfl ha h1 rfl hp hu he hf, rfl, twoTeams_set s hu _ _⟩
        · intro rows step step2
          obtain ⟨hframe, hcores, hcore, hcore2, hcluster, hteams, hteam, hteam2⟩ :=
            State.stepDone_pair_gives hcur (rfl : s.teams.get {} u = x) (rfl : s.teams.get {} u2 = x2) hu k n n2 c c2 step step2
          rw [hstep] at hteam hteam2
          exact ⟨_, exec_matrixKStep_pairSteps hcur rfl ha h1 rfl hp hu he hf hf2 hg hg2 hfree hfree2, hframe, hcores, hcore, hcore2, hcluster,
            hteams, hteam, hteam2⟩
    case chunks =>
      intro x v m va perm
      refine ⟨fun h z hx => State.chunkAddr_host hx, fun pa z hx => ⟨fun hz => ?_, fun hz =>
        ⟨?_, fun stack b hpa => stackByte_eq hpa stack b⟩⟩⟩
      · exact (State.chunkAddr_dev hx).trans (if_pos hz)
      · exact (State.chunkAddr_dev hx).trans (if_neg (Nat.not_lt.2 hz))
    case macc =>
      intro u ho x
      refine ⟨idle_maccComplete_stopped hcur rfl ho, fun hr => ⟨idle_maccComplete hcur rfl ho hr, fun o hf => ?_⟩⟩
      intro y
      obtain ⟨t, hexec, hframe, hteam, hcore⟩ := exec_maccComplete hcur rfl ho hr hf
      refine ⟨⟨t, hexec, hframe, hteam, hcore⟩, fun h3 => ⟨t, hexec, ?_, ?_⟩⟩
      · exact hteam.2.trans (congrArg Prod.fst (maccEffect_clr h3 y (s.core k).acm))
      · rw [congrArg Core.acm hcore.2]
        exact maccEffect_clr_bytes h3 y (s.core k).acm
  case governor =>
    intro s k hcur c idle c' i allow
    refine ⟨?drops, fun hpm hg => ⟨?none, ?starts, ?alone⟩⟩
    case drops =>
      intro u n o _ hask ⟨core, hc, hr, hgr, h0, hf, _, hothers⟩
      exact exec_governorStep_drops hcur hc hr hgr h0 hf hothers hask
    case none =>
      intro hask prev running stopping ballast
      have h := clusterIs_onCluster s k fun _ => s.clusterAfter s k 0 []
      exact ⟨_, exec_governorStep_grants hpm (State.afterGrants_of_none hg hask), rfl, ⟨h.1, h.2.trans (State.clusterAfter_none s)⟩,
        State.ballasted_bound s⟩
    case starts =>
      intro hrun hbal hn hself hd asking order count
      have hmem {i : Nat} (hi : i ∈ order) : i ∈ coresOf k := (State.mem_requestOrder (s := s) (c := c) hi).1
      have hdiffer : s.ownersDiffer order := fun i hi j hj => hd i (hmem hi) j (hmem hj)
      have hnodup : order.Nodup := State.nodup_requestOrder (s := s) (c := c) hn
      have hcount : s.startCount k (s.requestOrder (s.cluster k) k).length = count := by
        unfold State.startCount State.rampAllow
        rw [rampAt_eq]
        rfl
      obtain ⟨t, hexec, hteams, hreq, hun, hramp⟩ := exec_governorStep_starts hpm hself hcur hg hrun hbal hn hdiffer
      rw [hcount] at hteams hreq hun hramp
      refine ⟨t, hexec, hreq, hun, hramp, fun core u n o hnext => ⟨fun hc => ?_, fun hc => ?_⟩⟩ <;> rw [hteams]
      · exact State.get_foldl_grantTeams hcur (hnodup.take) (fun i hi j hj => hdiffer i (List.mem_of_mem_take hi) j (List.mem_of_mem_take hj))
          s.teams hnext hc
      · refine State.get_foldl_grantTeams_other hcur s.teams fun i hi ho => ?_
        have hne : i ≠ core := fun h => List.disjoint_take_drop hnodup (Nat.le_refl count) hi (h ▸ hc)
        rw [hdiffer i (List.mem_of_mem_take hi) core (List.mem_of_mem_drop hc) hne
          (ho.trans ((State.arrayNext_eq_some hcur).1 hnext).1.symm)] at ho
        cases ho
    case alone =>
      intro hrun hbal hq
      refine ⟨fun h => ?_, fun core u n o hc ha ho hnext hallow => ?_⟩
      · have h' := clusterIs_onCluster s k fun _ => s.clusterAfter s k 0 []
        exact ⟨_, exec_governorStep_grants hpm (State.afterGrants_of_none hg fun i hi => (h i hi).1), rfl,
          ⟨h'.1, h'.2.trans (State.clusterAfter_rest hq hrun hbal fun i hi => (h i hi).2)⟩⟩
      · exact exec_governorStep_alone hpm hcur hg hrun hbal hq hc ha ho hnext (by rw [State.rampAllow, rampAt_eq]; exact hallow)

end Sys2Proof.Machine

/-! PROOFS. Integer codes as bit vectors, and the shapes of integer instructions (03 R74-R76). -/

namespace Sys2Proof.Machine
open Sys2Proof

/-! ### Codes and values (00 R10; 03 R78) -/

theorem wrap_eq_ofInt (w : Nat) (v : Int) : wrap w v = (BitVec.ofInt w v).toNat := by
  rw [BitVec.toNat_ofInt, wrap]

theorem sext_eq_toInt (w x : Nat) : sext w x = (BitVec.ofNat w x).toInt := by
  have h : x % 2 ^ w < 2 ^ (w - 1) ↔ 2 * (x % 2 ^ w) < 2 ^ w := by
    cases w with
    | zero => simp
    | succ w => rw [Nat.add_sub_cancel, Nat.pow_succ]; omega
  simp only [sext, BitVec.toInt, BitVec.toNat_ofNat, h]

theorem extOf_eq (u : Bool) (w x : Nat) : extOf u w x = if u then ((x % 2 ^ w : Nat) : Int) else (BitVec.ofNat w x).toInt := by
  simp only [extOf, sext_eq_toInt, zext]

theorem clampTo_unsigned (w : Nat) (v : Int) : clampTo true w v = min (max v 0) (2 ^ w - 1) := by
  have h : (0 : Int) < 2 ^ w := by positivity
  simp only [clampTo, tyMin, tyMax, if_true]
  push_cast
  omega

theorem clampTo_signed (w : Nat) (v : Int) : clampTo false w v = min (max v (-2 ^ (w - 1))) (2 ^ (w - 1) - 1) := by
  have h : (0 : Int) < 2 ^ (w - 1) := by positivity
  simp only [clampTo, tyMin, tyMax, Bool.false_eq_true, if_false]
  push_cast
  omega

/-- fit of R78 in one line. -/
theorem fit_eq (sat u : Bool) (w : Nat) (v : Int) :
    fit sat u w v = (BitVec.ofInt w (if sat then
      (if u then min (max v 0) (2 ^ w - 1) else min (max v (-2 ^ (w - 1))) (2 ^ (w - 1) - 1)) else v)).toNat := by
  rw [fit, wrap_eq_ofInt]
  cases u
  · simp only [clampTo_signed, Bool.false_eq_true, if_false]
  · simp only [clampTo_unsigned, if_true]

/-! ### Shapes of integer instructions -/

section
variable {long : LOp → Instr} {short : L32 → Instr} {wide bw signed : BitVec 4 → Bool} {i : Instr} {o : LOp}

theorem laneGives_congr {x : Bool} {f g : State → Nat → Nat} (h : LaneGives i o x f) (e : ∀ s l, f s l = g s l) : LaneGives i o x g := by
  rwa [← funext fun s => funext (e s)]

/-- An instruction of two sources and its short form. -/
theorem bothGive_of_lane2 {fn : BitVec 4 → Nat → Nat → Nat} {f : LOp → State → Nat → Nat}
    (h1 : ∀ o s, exec (long o) s = lane2 (long o) o s (wide o.f) (bw o.f) (signed o.f) (fn o.f))
    (h2 : ∀ w s, exec (short w) s = short2 (short w) w s (wide w.f) (bw w.f) (signed w.f) (fn w.f))
    (e : ∀ o s l, fn o.f (s.srcA o (wide o.f) l) (s.srcB o (bw o.f) (signed o.f) l) = f o s l) : BothGive long short wide f :=
  bothGive_of_pure (fun o s => (h1 o s).trans (congrArg (lanePure (long o) o s (wide o.f)) (funext (e o s)))) fun w s hg => by
    rw [h2, short2, hg, if_neg Bool.false_ne_true]
    exact congrArg (lanePure (short w) w.toLOp s (wide w.f)) (funext (e w.toLOp s))

/-- A short form of one source with G = 0 is the lane instruction. -/
theorem laneGives_of_short1 {w : L32} {dw aw : Bool} {fn : Nat → Nat} {f : State → Nat → Nat} (hg : w.g = false)
    (h : ∀ s, exec i s = short1 i w s dw aw fn) (e : ∀ s l, fn (s.srcA w.toLOp aw l) = f s l) : LaneGives i w.toLOp dw f :=
  laneGives_of_pure fun s => by
    rw [h, short1, hg, if_neg Bool.false_ne_true]
    exact congrArg (lanePure i w.toLOp s dw) (funext (e s))

theorem laneGives_of_lane1 {dw aw : Bool} {fn : Nat → Nat} {f : State → Nat → Nat}
    (h : ∀ s, exec i s = lane1 i o s dw aw fn) (e : ∀ s l, fn (s.srcA o aw l) = f s l) : LaneGives i o dw f :=
  laneGives_of_pure fun s => (h s).trans (congrArg (lanePure i o s dw) (funext (e s)))

theorem laneGives_of_lane2 {w b sg : Bool} {fn : Nat → Nat → Nat} {f : State → Nat → Nat}
    (h : ∀ s, exec i s = lane2 i o s w b sg fn) (e : ∀ s l, fn (s.srcA o w l) (s.srcB o b sg l) = f s l) : LaneGives i o w f :=
  laneGives_of_pure fun s => (h s).trans (congrArg (lanePure i o s w) (funext (e s)))

theorem laneGives_of_lane3 {w c sg : Bool} {fn : Nat → Nat → Nat → Nat} {f : State → Nat → Nat}
    (h : ∀ s, exec i s = lane3 i o s w c sg fn) (e : ∀ s l, fn (s.srcA o w l) (s.srcB o w sg l) (s.srcC o c sg l) = f s l) :
    LaneGives i o w f :=
  laneGives_of_pure fun s => (h s).trans (congrArg (lanePure i o s w) (funext (e s)))

/-- An instruction of one source and its short form. -/
theorem bothGive_of_lane1 {aw : BitVec 4 → Bool} {fn : BitVec 4 → Nat → Nat} {f : LOp → State → Nat → Nat}
    (h1 : ∀ o s, exec (long o) s = lane1 (long o) o s (wide o.f) (aw o.f) (fn o.f))
    (h2 : ∀ w s, exec (short w) s = short1 (short w) w s (wide w.f) (aw w.f) (fn w.f))
    (e : ∀ o s l, fn o.f (s.srcA o (aw o.f) l) = f o s l) : BothGive long short wide f :=
  ⟨fun o => laneGives_of_lane1 (h1 o) (e o), fun w hg => laneGives_of_short1 hg (h2 w) (e w.toLOp)⟩

end

/-! ### Shapes of the instructions of IT, of the width that F[2] names (03 R76) -/

section
variable {long : LOp → Instr} {short : L32 → Instr} {dw : BitVec 4 → Bool} {f : LOp → State → Nat → Nat}

/-- Arithmetic: a literal B is extended by its type. -/
theorem bothGive_of_arith (fn : BitVec 4 → Nat → Nat → Nat)
    (h1 : ∀ o s, exec (long o) s = lane2 (long o) o s (itWide o.f) (itWide o.f) (!itU o.f) (fn o.f))
    (h2 : ∀ w s, exec (short w) s = short2 (short w) w s (itWide w.f) (itWide w.f) (!itU w.f) (fn w.f))
    (e : ∀ o s l, fn o.f (s.srcA o (itWide o.f) l) (s.srcB o (itWide o.f) (!itU o.f) l) = f o s l) : BothGive long short itWide f :=
  bothGive_of_lane2 (bw := itWide) (signed := fun f => !itU f) h1 h2 e

/-- Bitwise operations: A and B have the width of the result. -/
theorem bothGive_of_logic (fn : BitVec 4 → Nat → Nat → Nat)
    (h1 : ∀ o s, exec (long o) s = lane2 (long o) o s (itWide o.f) (itWide o.f) false (fn o.f))
    (h2 : ∀ w s, exec (short w) s = short2 (short w) w s (itWide w.f) (itWide w.f) false (fn w.f))
    (e : ∀ o s l, fn o.f (s.srcA o (itWide o.f) l) (s.srcB o (itWide o.f) false l) = f o s l) : BothGive long short itWide f :=
  bothGive_of_lane2 (bw := itWide) (signed := fun _ => false) h1 h2 e

/-- Shifts and fields: B is a 32-bit amount. -/
theorem bothGive_of_shift (fn : BitVec 4 → Nat → Nat → Nat)
    (h1 : ∀ o s, exec (long o) s = lane2 (long o) o s (itWide o.f) false false (fn o.f))
    (h2 : ∀ w s, exec (short w) s = short2 (short w) w s (itWide w.f) false false (fn w.f))
    (e : ∀ o s l, fn o.f (s.srcA o (itWide o.f) l) (s.srcB o false false l) = f o s l) : BothGive long short itWide f :=
  bothGive_of_lane2 (bw := fun _ => false) (signed := fun _ => false) h1 h2 e

/-- Operations on A alone. -/
theorem bothGive_of_unary (fn : BitVec 4 → Nat → Nat)
    (h1 : ∀ o s, exec (long o) s = lane1 (long o) o s (dw o.f) (itWide o.f) (fn o.f))
    (h2 : ∀ w s, exec (short w) s = short1 (short w) w s (dw w.f) (itWide w.f) (fn w.f))
    (e : ∀ o s l, fn o.f (s.srcA o (itWide o.f) l) = f o s l) : BothGive long short dw f :=
  bothGive_of_lane1 (aw := itWide) h1 h2 e

end

/-- Settles O1: each instruction is R78's arithmetic on the values that ext reads, and fit is the clamped or wrapped code. -/
theorem integerArithmeticResults : Obligations.IntegerArithmeticResults := by
  unfold Obligations.IntegerArithmeticResults
  intro ext clamp fit low w64 a b c
  have hfit (o : LOp) (v : Int) : Machine.fit (itSat o.f) (itU o.f) (itW o.f) v = fit o.f v := fit_eq ..
  have hext (f : BitVec 4) (x : Nat) : extOf (itU f) (itW f) x = ext f x := extOf_eq ..
  have hlow (f : BitVec 4) (v : Int) : wrap (itW f) v = low f v := wrap_eq_ofInt ..
  have hsext {f : BitVec 4} (hu : bit f 0 = false) (x : Nat) : sext (itW f) x = ext f x := by
    rw [← hext, itU, hu]
    rfl
  have habs {o : LOp} (hu : bit o.f 0 = false) (s : State) (l : Nat) :
      iAbs (itSat o.f) (itW o.f) (s.srcA o (itWide o.f) l) = fit o.f |a o s l| := by
    rw [← hfit, itU, hu, iAbs, hsext hu, Int.natCast_natAbs]
    rfl
  have hneg {o : LOp} (hu : bit o.f 0 = false) (s : State) (l : Nat) :
      iNeg (itSat o.f) (itW o.f) (s.srcA o (itWide o.f) l) = fit o.f (-a o s l) := by
    rw [← hfit, itU, hu, iNeg, hsext hu]
    rfl
  refine ⟨?add, ?sub, ?mul, ?mad, ?mulhi, ?min, ?max, fun o hu => ?abs, fun o hu => ?neg, fun w hg hu => ?absShort, fun w hg hu => ?negShort⟩
  case add => exact bothGive_of_arith fnAdd (fun _ _ => rfl) (fun _ _ => rfl) fun o s l => by simp only [fnAdd, iAdd, hfit, hext]; rfl
  case sub => exact bothGive_of_arith fnSub (fun _ _ => rfl) (fun _ _ => rfl) fun o s l => by simp only [fnSub, iSub, hfit, hext]; rfl
  case mul => exact bothGive_of_arith fnMul (fun _ _ => rfl) (fun _ _ => rfl) fun o s l => by simp only [fnMul, iMul, hfit, hext]; rfl
  case mad => exact fun o => laneGives_of_lane3 (fun _ => rfl) fun s l => by simp only [iMad, hfit, hext]; rfl
  case mulhi => 
    refine bothGive_of_arith fnMulhi (fun _ _ => rfl) (fun _ _ => rfl) fun o s l => ?_
    simp only [fnMulhi, iMulhi, hlow, hext]
    push_cast
    rfl
  case min => exact bothGive_of_arith fnMin (fun _ _ => rfl) (fun _ _ => rfl) fun o s l => by simp only [fnMin, iMin, hlow, hext]; rfl
  case max => exact bothGive_of_arith fnMax (fun _ _ => rfl) (fun _ _ => rfl) fun o s l => by simp only [fnMax, iMax, hlow, hext]; rfl
  case abs => exact laneGives_of_lane1 (fun _ => rfl) fun s l => habs hu s l
  case neg => exact laneGives_of_lane1 (fun _ => rfl) fun s l => hneg hu s l
  case absShort => exact laneGives_of_short1 hg (fun _ => rfl) fun s l => habs (o := w.toLOp) hu s l
  case negShort => exact laneGives_of_short1 hg (fun _ => rfl) fun s l => hneg (o := w.toLOp) hu s l

end Sys2Proof.Machine

/-! PROOFS. Division (03 R79; O2). -/

namespace Sys2Proof.Machine
open Sys2Proof

theorem itW_pos (f : BitVec 4) : 0 < itW f := by unfold itW; split <;> decide

theorem wrap_of_lt {w n : Nat} (h : n < 2 ^ w) : wrap w n = n := by
  rw [wrap, ← Int.natCast_emod, Nat.mod_eq_of_lt h, Int.toNat_natCast]

theorem wrap_neg {w n : Nat} (h0 : 0 < n) (h : n ≤ 2 ^ w) : wrap w (-n) = 2 ^ w - n := by
  rw [wrap, ← Int.add_emod_right]
  have e : -(n : Int) + (2 ^ w : Nat) = ((2 ^ w - n : Nat) : Int) := by omega
  rw [e, ← Int.natCast_emod, Nat.mod_eq_of_lt (by omega), Int.toNat_natCast]

/-- A value that ext reads lies in its type. -/
theorem extOf_mem {w : Nat} (h : 0 < w) (u : Bool) (x : Nat) : tyMin u w ≤ extOf u w x ∧ extOf u w x ≤ tyMax u w := by
  have hw := Nat.two_pow_pred_mul_two h
  have hx : x % 2 ^ w < 2 ^ w := Nat.mod_lt _ (by positivity)
  cases u
  · simp only [extOf, sext, tyMin, tyMax, Bool.false_eq_true, if_false]
    split <;> omega
  · simp only [extOf, zext, tyMin, tyMax, if_true]
    omega

/-- A value of the type needs no clamping. -/
theorem fit_of_mem {u : Bool} {w : Nat} {v : Int} (h : tyMin u w ≤ v ∧ v ≤ tyMax u w) (sat : Bool) : fit sat u w v = wrap w v := by
  rw [fit, clampTo, min_eq_right h.2, max_eq_right h.1, ite_self]

/-- A quotient lies in its type, but for the least value divided by -1. -/
theorem tdiv_mem {u : Bool} {w : Nat} {x y : Int} (hx : tyMin u w ≤ x ∧ x ≤ tyMax u w) (hy : tyMin u w ≤ y)
    (hne : ¬(u = false ∧ x = -2 ^ (w - 1) ∧ y = -1)) : tyMin u w ≤ x.tdiv y ∧ x.tdiv y ≤ tyMax u w := by
  cases u
  case true =>
    simp only [tyMin, tyMax, if_true] at *
    exact ⟨Int.tdiv_nonneg hx.1 hy, (Int.tdiv_le_self y hx.1).trans hx.2⟩
  case false =>
    simp only [tyMin, tyMax, Bool.false_eq_true, if_false, true_and] at *
    push_cast at *
    have hpos : (0 : Int) < 2 ^ (w - 1) := by positivity
    generalize (2 : Int) ^ (w - 1) = p at *
    by_cases h1 : y = -1
    · rw [h1, Int.tdiv_neg, Int.tdiv_one]
      omega
    · by_cases h2 : y = 0 ∨ y = 1
      · obtain rfl | rfl := h2
        · rw [Int.tdiv_zero]; omega
        · rwa [Int.tdiv_one]
      · have h : (x.tdiv y).natAbs ≤ x.natAbs / 2 := by
          rw [Int.natAbs_tdiv]
          exact Nat.div_le_div_left (by omega) (by decide)
        omega

theorem iDiv_eq {w : Nat} (h : 0 < w) (sat u : Bool) (a b : Nat) :
    iDiv sat u w a b =
      if extOf u w b = 0 then
        if !sat then 2 ^ w - 1 else if u then 2 ^ w - 1 else if 0 ≤ extOf u w a then 2 ^ (w - 1) - 1 else 2 ^ (w - 1)
      else if u = false ∧ extOf u w a = -2 ^ (w - 1) ∧ extOf u w b = -1 then (if sat then 2 ^ (w - 1) - 1 else 2 ^ (w - 1))
      else (BitVec.ofInt w ((extOf u w a).tdiv (extOf u w b))).toNat := by
  have hw := Nat.two_pow_pred_mul_two h
  have hp : 0 < 2 ^ (w - 1) := by positivity
  have ha := extOf_mem h u a
  have hb := extOf_mem h u b
  have hmin : wrap w (-(2 ^ (w - 1) : Nat)) = 2 ^ (w - 1) := by rw [wrap_neg hp (by omega)]; omega
  have hmax : wrap w ((2 ^ (w - 1) : Nat) - 1) = 2 ^ (w - 1) - 1 := by
    rw [← Nat.cast_pred hp]
    exact wrap_of_lt (by omega)
  have hone : wrap w (-1) = 2 ^ w - 1 := wrap_neg (n := 1) one_pos (by omega)
  have hall : wrap w ((2 ^ w : Nat) - 1) = 2 ^ w - 1 := by
    rw [← Nat.cast_pred (by positivity)]
    exact wrap_of_lt (by omega)
  unfold iDiv
  dsimp only
  by_cases hz : extOf u w b = 0
  · rw [if_pos hz, if_pos hz]
    cases sat
    · exact hone
    · cases u
      · by_cases h0 : extOf false w a < 0
        · rw [if_pos rfl, if_pos h0, if_neg (by decide), if_neg (by decide), if_neg (by omega)]
          exact hmin
        · rw [if_pos rfl, if_neg h0, if_neg (by decide), if_neg (by decide), if_pos (by omega)]
          exact hmax
      · rw [if_pos rfl, if_neg (by simpa [tyMin] using ha.1)]
        exact hall
  · rw [if_neg hz, if_neg hz]
    split_ifs with ho hs
    · obtain ⟨rfl, hx, hy⟩ := ho
      rw [hs, hx, hy, Int.tdiv_neg, Int.tdiv_one, neg_neg, fit, if_pos rfl, clampTo, tyMin, tyMax, if_neg (by decide), if_neg (by decide)]
      rw [← hmax]
      congr 1
      push_cast
      have : (0 : Int) < 2 ^ (w - 1) := by positivity
      omega
    · obtain ⟨rfl, hx, hy⟩ := ho
      rw [hx, hy, Int.tdiv_neg, Int.tdiv_one, neg_neg, fit, if_neg hs]
      exact_mod_cast wrap_of_lt (by omega)
    · rw [fit_of_mem (tdiv_mem ha hb.1 ho), wrap_eq_ofInt]

theorem iRem_eq (u : Bool) (w a b : Nat) :
    iRem u w a b =
      if extOf u w b = 0 then (BitVec.ofInt w (extOf u w a)).toNat
      else if u = false ∧ extOf u w a = -2 ^ (w - 1) ∧ extOf u w b = -1 then 0
      else (BitVec.ofInt w ((extOf u w a).tmod (extOf u w b))).toNat := by
  unfold iRem
  simp only [wrap_eq_ofInt]
  split_ifs with hz ho
  · rfl
  · rw [ho.2.2, Int.tmod_neg, Int.tmod_one]
    simp
  · rfl

/-- Settles O2: the quotient and the remainder by R79's cases. -/
theorem divisionResults : Obligations.DivisionResults := by
  unfold Obligations.DivisionResults
  intro w ext low a b o
  have hext (x : Nat) : extOf (itU o.f) (itW o.f) x = ext o.f x := extOf_eq ..
  refine ⟨laneGives_of_lane2 (fun _ => rfl) fun s l => ?_, laneGives_of_lane2 (fun _ => rfl) fun s l => ?_⟩
  · rw [iDiv_eq (itW_pos o.f), hext, hext]
    rfl
  · rw [iRem_eq, hext, hext]
    rfl

end Sys2Proof.Machine

/-! PROOFS. Bits, shifts and fields of integer codes (03 R80; O3). -/

namespace Sys2Proof.Machine
open Sys2Proof

/-! ### Logic and shifts -/

theorem iNot_toNat {w : Nat} (x : BitVec w) : iNot w x.toNat = (~~~x).toNat := by
  rw [iNot, Nat.mod_eq_of_lt x.isLt, BitVec.toNat_not]

theorem iAndn_toNat {w : Nat} (x y : BitVec w) : iAndn w x.toNat y.toNat = (x &&& ~~~y).toNat := by
  rw [iAndn, iNot_toNat, BitVec.toNat_and]

theorem iShl_toNat {w : Nat} (x : BitVec w) (n : Nat) : iShl w x.toNat n = if w ≤ n then 0 else (x <<< n).toNat := by
  simp only [iShl, BitVec.toNat_shiftLeft, ge_iff_le]

theorem iShr_toNat {w : Nat} (x : BitVec w) (n : Nat) : iShr w x.toNat n = if w ≤ n then 0 else (x >>> n).toNat := by
  simp only [iShr, BitVec.toNat_ushiftRight, Nat.mod_eq_of_lt x.isLt, ge_iff_le]

theorem sext_toNat {w : Nat} (x : BitVec w) : sext w x.toNat = x.toInt := by
  rw [sext_eq_toInt, BitVec.ofNat_toNat, BitVec.setWidth_eq]

theorem extOf_toNat {w : Nat} (u : Bool) (x : BitVec w) : extOf u w x.toNat = if u then (x.toNat : Int) else x.toInt := by
  rw [extOf, sext_toNat, zext, Nat.mod_eq_of_lt x.isLt]

theorem wrap_sext_shift {w : Nat} (x : BitVec w) (n : Nat) : wrap w (sext w x.toNat / (2 ^ n : Nat)) = (x.sshiftRight n).toNat := by
  rw [wrap_eq_ofInt, sext_toNat, BitVec.sshiftRight_eq, Int.shiftRight_eq_div_pow]

theorem iSra_toNat {w : Nat} (x : BitVec w) (n : Nat) :
    iSra w x.toNat n = if w ≤ n then (if x.msb then 2 ^ w - 1 else 0) else (x.sshiftRight n).toNat := by
  simp only [iSra, wrap_sext_shift, Nat.mod_eq_of_lt x.isLt, BitVec.msb_eq_getLsbD_last, BitVec.getLsbD, ge_iff_le]

/-- An arithmetic shift by the width or more leaves the sign alone. -/
theorem toNat_sshiftRight_of_le {w n : Nat} (h : w ≤ n) (x : BitVec w) : (x.sshiftRight n).toNat = if x.msb then 2 ^ w - 1 else 0 := by
  have hz {y : Nat} (hy : y < 2 ^ w) : y >>> n = 0 := by
    rw [Nat.shiftRight_eq_div_pow]
    exact Nat.div_eq_of_lt (hy.trans_le (Nat.pow_le_pow_right (by decide) h))
  have hx := x.isLt
  rw [BitVec.toNat_sshiftRight, hz hx, hz (by omega), Nat.sub_zero]

theorem iSra_eq_sshiftRight {w : Nat} (x : BitVec w) (n : Nat) : iSra w x.toNat n = (x.sshiftRight n).toNat := by
  rw [iSra_toNat]
  split
  · next h => exact (toNat_sshiftRight_of_le h x).symm
  · rfl

theorem iRotl_toNat {w : Nat} (x : BitVec w) (n : Nat) : iRotl w x.toNat n = (x.rotateLeft n).toNat := by
  simp only [iRotl, BitVec.toNat_rotateLeft, Nat.mod_eq_of_lt x.isLt]

/-! ### Counting and reversing bits -/

theorem popcount_eq (n x : Nat) : popcount n x = ((List.range n).filter x.testBit).length := by
  induction n generalizing x with
  | zero => rfl
  | succ n ih =>
    have hs : x.testBit ∘ Nat.succ = (x / 2).testBit := funext fun i => Nat.testBit_succ x i
    rw [popcount, ih, List.range_succ_eq_map, List.filter_cons, List.filter_map, hs, Nat.testBit_zero]
    obtain h | h := Nat.mod_two_eq_zero_or_one x <;> simp [h]

theorem iPopc_toNat {w : Nat} (x : BitVec w) : iPopc w x.toNat = ((List.range w).filter x.getLsbD).length := popcount_eq w x.toNat

theorem iCtz_eq (n x : Nat) : iCtz n x = ((List.range n).takeWhile fun i => !x.testBit i).length := by
  induction n generalizing x with
  | zero => rfl
  | succ n ih =>
    have hs : (fun i => !x.testBit i) ∘ Nat.succ = fun i => !(x / 2).testBit i := funext fun i => congrArg _ (Nat.testBit_succ x i)
    rw [iCtz, ih, List.range_succ_eq_map, List.takeWhile_cons, List.takeWhile_map, hs, Nat.testBit_zero]
    obtain h | h := Nat.mod_two_eq_zero_or_one x <;> simp [h]

theorem iCtz_toNat {w : Nat} (x : BitVec w) : iCtz w x.toNat = ((List.range w).takeWhile fun i => !x.getLsbD i).length := iCtz_eq w x.toNat

/-- Where a test first fails in a range. -/
theorem length_takeWhile_range {p : Nat → Bool} {k n : Nat} (hp : ∀ i < k, p i = true) (hk : k < n) (hf : p k = false) :
    ((List.range n).takeWhile p).length = k := by
  obtain ⟨m, rfl⟩ := Nat.exists_eq_add_of_lt hk
  rw [Nat.add_assoc, List.range_add, List.takeWhile_append_of_pos fun i hi => hp i (List.mem_range.1 hi), List.range_succ_eq_map]
  simp [hf]

theorem iClz_toNat {w : Nat} (x : BitVec w) : iClz w x.toNat = ((List.range w).takeWhile fun i => !x.getMsbD i).length := by
  simp only [iClz, Nat.mod_eq_of_lt x.isLt]
  by_cases h : x.toNat = 0
  · obtain rfl : x = 0 := BitVec.eq_of_toNat_eq h
    have ht : (List.range w).takeWhile (fun i => !(0 : BitVec w).getMsbD i) = List.range w :=
      List.takeWhile_eq_self_iff.2 fun i _ => by simp
    rw [if_pos h, ht, List.length_range]
  · have hl : x.toNat.log2 < w := (Nat.log2_lt h).2 x.isLt
    rw [if_neg h]
    refine (length_takeWhile_range (fun i hi => ?_) (by omega) ?_).symm
    · have hz : x.toNat.testBit (w - 1 - i) = false :=
        Nat.testBit_lt_two_pow (Nat.lt_log2_self.trans_le (Nat.pow_le_pow_right (by decide) (by omega)))
      simp [BitVec.getMsbD_eq_getLsbD, BitVec.getLsbD, hz]
    · have hi : w - 1 - (w - 1 - x.toNat.log2) = x.toNat.log2 := by omega
      simp only [BitVec.getMsbD_eq_getLsbD, BitVec.getLsbD, hi, Nat.testBit_log2 h, Bool.and_true, Bool.not_eq_false', decide_eq_true_eq]
      omega

theorem iBrev_lt (n x : Nat) : iBrev n x < 2 ^ n := by
  induction n generalizing x with
  | zero => exact Nat.one_pos
  | succ n ih =>
    have h := ih (x / 2)
    obtain h2 | h2 := Nat.mod_two_eq_zero_or_one x <;> rw [iBrev, h2, Nat.pow_succ] <;> omega

theorem testBit_iBrev (n x i : Nat) : (iBrev n x).testBit i = (decide (i < n) && x.testBit (n - 1 - i)) := by
  induction n generalizing x with
  | zero => simp [iBrev]
  | succ n ih =>
    rw [iBrev, Nat.mul_comm, Nat.testBit_two_pow_mul_add _ (iBrev_lt n _), ih]
    obtain h | rfl | h := Nat.lt_trichotomy i n
    · have hs : n + 1 - 1 - i = (n - 1 - i).succ := by omega
      rw [if_pos h, hs, Nat.testBit_succ]
      simp [h, Nat.lt_succ_of_lt h]
    · simp [Nat.testBit_zero]
    · have hz : x % 2 < 2 ^ (i - n) := (Nat.mod_lt _ Nat.two_pos).trans_le (Nat.le_self_pow (by omega) 2)
      rw [if_neg (by omega), Nat.testBit_lt_two_pow hz]
      simp; omega

theorem iBrev_toNat {w : Nat} (x : BitVec w) : iBrev w x.toNat = x.reverse.toNat := by
  refine Nat.eq_of_testBit_eq fun i => ?_
  rw [testBit_iBrev]
  exact (BitVec.getMsbD_eq_getLsbD x i).symm.trans BitVec.getLsbD_reverse.symm

/-! ### Fields -/

/-- A field of len bits at pos, as the extended source gives it, in w bits. -/
theorem iBfe_toNat {w : Nat} (u : Bool) (x : BitVec w) (n : Nat) :
    iBfe u w x.toNat n =
      let pos := n % 256
      let len := n / 256 % 256
      let field : BitVec len := BitVec.ofInt len ((if u then (x.toNat : Int) else x.toInt) / 2 ^ pos)
      if len = 0 then 0 else (if u then field.setWidth w else field.signExtend w).toNat := by
  simp only [iBfe, extOf_toNat, wrap_eq_ofInt]
  push_cast
  refine if_congr Iff.rfl rfl ?_
  cases u
  · simp only [Bool.false_eq_true, if_false]
    rfl
  · simp only [if_true, BitVec.ofInt_natCast, BitVec.toNat_ofNat, BitVec.toNat_setWidth]

/-- Bits pos to hi - 1 of the mask that bfi clears. -/
theorem testBit_two_pow_sub_two_pow {pos hi : Nat} (h : pos ≤ hi) (i : Nat) :
    (2 ^ hi - 2 ^ pos).testBit i = (decide (pos ≤ i) && decide (i < hi)) := by
  have e : 2 ^ hi - 2 ^ pos = (2 ^ (hi - pos) - 1) * 2 ^ pos := by
    rw [Nat.sub_mul, ← Nat.pow_add, Nat.sub_add_cancel h, Nat.one_mul]
  rw [e, Nat.testBit_mul_two_pow, Nat.testBit_two_pow_sub_one]
  by_cases hp : pos ≤ i <;> simp [hp]; omega

theorem testBit_iNot {w : Nat} {m : Nat} (h : m < 2 ^ w) (i : Nat) : (iNot w m).testBit i = (decide (i < w) && !m.testBit i) := by
  rw [iNot, Nat.mod_eq_of_lt h, Nat.sub_sub, Nat.add_comm 1, Nat.testBit_two_pow_sub_succ h]

/-- Bits pos to pos + len - 1, as far as the register has them, come from b, the others from a. -/
theorem testBit_iBfi {w a : Nat} (ha : a < 2 ^ w) (b n i : Nat) :
    (iBfi w a b n).testBit i =
      if n % 256 ≤ i ∧ i < min (n % 256 + n / 256 % 256) w then b.testBit (i - n % 256) else a.testBit i := by
  simp only [iBfi]
  generalize n % 256 = pos
  generalize hhi : min (pos + n / 256 % 256) w = hi
  by_cases h : hi ≤ pos
  · rw [if_pos h, if_neg (by omega), Nat.mod_eq_of_lt ha]
  · have hm : 2 ^ hi - 2 ^ pos < 2 ^ w :=
      (Nat.sub_lt (by positivity) (by positivity)).trans_le (Nat.pow_le_pow_right (by decide) (by omega))
    have hw : a.testBit i = true → i < w := fun ht => by
      by_contra hc
      rw [Nat.testBit_lt_two_pow (ha.trans_le (Nat.pow_le_pow_right (by decide) (by omega)))] at ht
      cases ht
    rw [if_neg h, Nat.testBit_or, Nat.testBit_and, testBit_iNot hm, testBit_two_pow_sub_two_pow (by omega), Nat.testBit_shiftLeft,
      Nat.testBit_mod_two_pow]
    by_cases h1 : pos ≤ i <;> by_cases h2 : i < hi
    · have h3 : i - pos < hi - pos := by omega
      simp [h1, h2, h3]
    · have h3 : ¬i - pos < hi - pos := by omega
      simpa [h1, h2, h3] using hw
    · simpa [h1, h2] using hw
    · simpa [h1, h2] using hw

/-! ### Sources of lanes -/

theorem State.laneVal_lt (s : State) (wide : Bool) (r l : Nat) : s.laneVal wide r l < 2 ^ (if wide then 64 else 32) := by
  have h0 := (s.lane r l).isLt
  have h1 := (s.lane (r + 1) l).isLt
  cases wide <;> simp only [State.laneVal, Bool.false_eq_true, if_false, if_true] <;> omega

theorem litVal_lt (imm : W32) (wide signed : Bool) : litVal imm wide signed < 2 ^ (if wide then 64 else 32) := by
  have h := imm.isLt
  cases wide
  · simpa [litVal] using h
  · cases signed
    · simp [litVal]; omega
    · simpa [litVal, wrap_eq_ofInt] using (BitVec.ofInt 64 (sext 32 imm.toNat)).isLt

theorem State.srcB_lt (s : State) (o : LOp) (wide signed : Bool) (l : Nat) : s.srcB o wide signed l < 2 ^ (if wide then 64 else 32) := by
  unfold State.srcB
  split
  · exact litVal_lt ..
  · exact s.laneVal_lt ..

theorem State.srcC_lt (s : State) (o : LOp) (wide signed : Bool) (l : Nat) : s.srcC o wide signed l < 2 ^ (if wide then 64 else 32) := by
  unfold State.srcC
  split
  · exact s.laneVal_lt ..
  · exact litVal_lt ..

/-- Settles O3: each operation on codes, as the operation on bit vectors of the instruction's width. -/
theorem bitAndShiftResults : Obligations.BitAndShiftResults := by
  unfold Obligations.BitAndShiftResults
  intro w w64 a b n
  have ha (o : LOp) (s : State) (l : Nat) : s.srcA o (itWide o.f) l = (a o s l).toNat :=
    (Nat.mod_eq_of_lt (s.laneVal_lt (itWide o.f) o.a.toNat l)).symm
  have hb (o : LOp) (s : State) (l : Nat) : s.srcB o (itWide o.f) false l = (b o s l).toNat :=
    (Nat.mod_eq_of_lt (s.srcB_lt o (itWide o.f) false l)).symm
  refine ⟨?and, ?or, ?xor, ?andn, ?not, ?shl, ?shr, ?sra, ?rotl, ?popc, ?clz, ?ctz, ?brev, ?bfe, fun o =>
    ⟨fun s l => iBfi (itW o.f) (s.srcA o (itWide o.f) l) (s.srcB o (itWide o.f) false l) (s.srcC o false false l), ?bfi, fun s l i => ?bits⟩⟩
  case and =>
    exact bothGive_of_logic (fun _ => iAnd) (fun _ _ => rfl) (fun _ _ => rfl) fun o s l => by rw [ha, hb]; rfl
  case or =>
    exact bothGive_of_logic (fun _ => iOr) (fun _ _ => rfl) (fun _ _ => rfl) fun o s l => by rw [ha, hb]; rfl
  case xor =>
    exact bothGive_of_logic (fun _ => iXor) (fun _ _ => rfl) (fun _ _ => rfl) fun o s l => by rw [ha, hb]; rfl
  case andn =>
    exact bothGive_of_logic (fun f => iAndn (itW f)) (fun _ _ => rfl) (fun _ _ => rfl) fun o s l => by rw [ha, hb]; exact iAndn_toNat ..
  case not =>
    exact bothGive_of_unary (fun f => iNot (itW f)) (fun _ _ => rfl) (fun _ _ => rfl) fun o s l => by rw [ha]; exact iNot_toNat ..
  case shl =>
    exact bothGive_of_shift (fun f => iShl (itW f)) (fun _ _ => rfl) (fun _ _ => rfl) fun o s l => by rw [ha]; exact iShl_toNat ..
  case shr =>
    exact bothGive_of_shift (fun f => iShr (itW f)) (fun _ _ => rfl) (fun _ _ => rfl) fun o s l => by rw [ha]; exact iShr_toNat ..
  case sra =>
    exact bothGive_of_shift (fun f => iSra (itW f)) (fun _ _ => rfl) (fun _ _ => rfl) fun o s l => by rw [ha]; exact iSra_toNat ..
  case rotl =>
    exact bothGive_of_shift (fun f => iRotl (itW f)) (fun _ _ => rfl) (fun _ _ => rfl) fun o s l => by rw [ha]; exact iRotl_toNat ..
  case popc =>
    exact bothGive_of_unary (fun f => iPopc (itW f)) (fun _ _ => rfl) (fun _ _ => rfl) fun o s l => by rw [ha]; exact iPopc_toNat ..
  case clz =>
    exact bothGive_of_unary (fun f => iClz (itW f)) (fun _ _ => rfl) (fun _ _ => rfl) fun o s l => by rw [ha]; exact iClz_toNat ..
  case ctz =>
    exact bothGive_of_unary (fun f => iCtz (itW f)) (fun _ _ => rfl) (fun _ _ => rfl) fun o s l => by rw [ha]; exact iCtz_toNat ..
  case brev =>
    exact bothGive_of_unary (fun f => iBrev (itW f)) (fun _ _ => rfl) (fun _ _ => rfl) fun o s l => by rw [ha]; exact iBrev_toNat ..
  case bfe =>
    exact bothGive_of_shift (fun f => iBfe (itU f) (itW f)) (fun _ _ => rfl) (fun _ _ => rfl) fun o s l => by rw [ha]; exact iBfe_toNat ..
  case bfi =>
    exact laneGives_of_lane3 (fun _ => rfl) fun _ _ => rfl
  case bits =>
    refine (testBit_iBfi (w := itW o.f) (s.laneVal_lt (itWide o.f) o.a.toNat l) _ _ i).trans ?_
    rw [← State.srcA, ha]
    rfl

end Sys2Proof.Machine

/-! PROOFS. Moves, conversions, permutations and addresses (03 R81-R85; O4). -/

namespace Sys2Proof.Machine
open Sys2Proof

theorem ofInt_extOf {w n : Nat} (u : Bool) (x : Nat) :
    BitVec.ofInt n (extOf u w x) = if u then (BitVec.ofNat w x).setWidth n else (BitVec.ofNat w x).signExtend n := by
  rw [extOf_eq]
  cases u
  · rfl
  · simp only [if_true, BitVec.ofInt_natCast]
    exact BitVec.eq_of_toNat_eq (by simp)

/-- lea adds the scaled, extended B to the pair A (03 R84). -/
theorem iLea_eq (f : BitVec 4) (a b : Nat) :
    iLea f a b =
      (BitVec.ofNat 64 a + (if bit f 3 then (BitVec.ofNat 32 b).zeroExtend 64 else (BitVec.ofNat 32 b).signExtend 64) <<< bits f 2 0).toNat := by
  rw [iLea, wrap_eq_ofInt, BitVec.ofInt_add, BitVec.ofInt_mul, ofInt_extOf, BitVec.ofInt_natCast, BitVec.ofInt_natCast,
    BitVec.shiftLeft_eq_mul_twoPow]
  congr 3
  exact BitVec.eq_of_toNat_eq (by simp [BitVec.toNat_twoPow])

/-! ### Conversions between widths (03 R83) -/

theorem wrap_sext (w n x : Nat) : wrap n (sext w x) = ((BitVec.ofNat w x).signExtend n).toNat := by
  rw [wrap_eq_ofInt, sext_eq_toInt]
  rfl

theorem wrap_clamp_sext (w n x : Nat) :
    wrap 32 (clampTo false n (sext w x)) =
      (BitVec.ofInt 32 (min (max (BitVec.ofNat w x).toInt (-2 ^ (n - 1))) (2 ^ (n - 1) - 1))).toNat := by
  rw [wrap_eq_ofInt, clampTo_signed, sext_eq_toInt]

theorem wrap_clamp_zext {n : Nat} (hn : n ≤ 32) (w x : Nat) : wrap 32 (clampTo true n (zext w x)) = min (x % 2 ^ w) (2 ^ n - 1) := by
  have hp : 0 < 2 ^ n := by positivity
  have h : 2 ^ n ≤ 2 ^ 32 := Nat.pow_le_pow_right (by decide) hn
  rw [clampTo_unsigned, max_eq_left (by exact Int.natCast_nonneg _), zext]
  have e : min ((x % 2 ^ w : Nat) : Int) (2 ^ n - 1) = ((min (x % 2 ^ w) (2 ^ n - 1) : Nat) : Int) := by
    rw [Nat.cast_min, Nat.cast_pred hp]
    push_cast
    rfl
  rw [e]
  exact wrap_of_lt (by omega)

theorem wrap_max_sext (x : Nat) : wrap 32 (max 0 (sext 32 x)) = if (BitVec.ofNat 32 x).msb then 0 else x % 2 ^ 32 := by
  rw [sext_eq_toInt, BitVec.toInt_eq_msb_cond, BitVec.toNat_ofNat]
  have h : x % 2 ^ 32 < 2 ^ 32 := Nat.mod_lt _ (by decide)
  cases (BitVec.ofNat 32 x).msb
  · rw [if_neg (by decide), if_neg (by decide), max_eq_right (by omega)]
    exact wrap_of_lt h
  · rw [if_pos rfl, if_pos rfl, max_eq_left (by omega)]
    rfl

theorem wrap_min_zext (x : Nat) : wrap 32 (min (2 ^ 31 - 1) (zext 32 x)) = min (x % 2 ^ 32) (2 ^ 31 - 1) := by
  rw [← wrap_clamp_zext (n := 31) (by decide), clampTo_unsigned, min_comm, max_eq_left (by exact Int.natCast_nonneg _)]

/-! ### Bytes chosen by selectors (03 R85) -/

/-- Bytes 0 to 3 of the low 64 bits come from A, bytes 4 to 7 from B. -/
theorem permByte_eq (a b n : Nat) :
    permByte a b n =
      let x := (a % 2 ^ 32 + b % 2 ^ 32 * 2 ^ 32) / 2 ^ (8 * (n % 8)) % 256
      if n < 8 then x else if 128 ≤ x then 255 else 0 := by
  have hx : (if n % 8 < 4 then a / 2 ^ (8 * (n % 8)) % 256 else b / 2 ^ (8 * (n % 8 - 4)) % 256)
      = (a % 2 ^ 32 + b % 2 ^ 32 * 2 ^ 32) / 2 ^ (8 * (n % 8)) % 256 := by
    have hk : n % 8 < 8 := Nat.mod_lt _ (by decide)
    generalize n % 8 = k at hk ⊢
    interval_cases k <;> norm_num <;> omega
  simp only [permByte, hx]
  by_cases h : n < 8
  · rw [if_neg (by omega), if_pos h]
  · rw [if_pos (by omega), if_neg h]

theorem permByte_lt (a b n : Nat) : permByte a b n < 256 := by
  rw [permByte_eq]
  dsimp only
  split_ifs <;> omega

/-- The bytes of a sum of four bytes. -/
theorem byte_of_bytes {x0 x1 x2 x3 : Nat} (h0 : x0 < 256) (h1 : x1 < 256) (h2 : x2 < 256) (h3 : x3 < 256) {i : Nat} (hi : i < 4) :
    (x0 + x1 * 2 ^ 8 + x2 * 2 ^ 16 + x3 * 2 ^ 24) / 2 ^ (8 * i) % 256
      = match i with | 0 => x0 | 1 => x1 | 2 => x2 | _ => x3 := by
  interval_cases i <;> norm_num <;> omega

theorem iPerm_lt (a b c : Nat) : iPerm a b c < 2 ^ 32 := by
  have h0 := permByte_lt a b (c % 16)
  have h1 := permByte_lt a b (c / 16 % 16)
  have h2 := permByte_lt a b (c / 256 % 16)
  have h3 := permByte_lt a b (c / 4096 % 16)
  unfold iPerm
  omega

theorem byte_iPerm (a b c : Nat) {i : Nat} (hi : i < 4) : iPerm a b c / 2 ^ (8 * i) % 256 = permByte a b (c / 2 ^ (4 * i) % 16) := by
  rw [iPerm, byte_of_bytes (permByte_lt ..) (permByte_lt ..) (permByte_lt ..) (permByte_lt ..) hi]
  interval_cases i <;> norm_num

/-! ### Sources of mov (03 R82) -/

theorem bits_1_0 (f : BitVec 4) : bits f 1 0 = (if bit f 0 then 1 else 0) + if bit f 1 then 2 else 0 := by
  revert f
  decide

theorem State.movSource_eq (s : State) (o : LOp) (l : Nat) :
    s.movSource o l =
      if o.isLit then s.srcB o (bit o.f 2) false l
      else if bit o.f 0 && !bit o.f 1 then s.gVal (bit o.f 2) o.b.toNat
      else if bit o.f 1 && !bit o.f 0 then
        (if bit o.f 2 then (s.rs o.b.toNat).toNat else (s.rs o.b.toNat).toNat % 2 ^ 32)
      else s.srcB o (bit o.f 2) false l := by
  unfold State.movSource
  cases o.isLit
  · rw [bits_1_0]
    cases bit o.f 0 <;> cases bit o.f 1 <;> rfl
  · rfl

/-- Settles O4: each instruction is a write of its value in the enabled lanes, and the values of cvti and perm are those of R83
and R85. -/
theorem moveAndAddressResults : Obligations.MoveAndAddressResults := by
  unfold Obligations.MoveAndAddressResults
  refine ⟨fun o => ?sel, ?mov, fun o => ?lea, fun o => ?cvti, fun w hg => ?cvtiShort, fun o => ?perm, fun a => ?widths,
    fun a b c => ⟨iPerm_lt a b c, fun i hi => ?bytes⟩⟩
  case sel => exact laneGives_of_pure fun _ => rfl
  case mov =>
    refine bothGive_of_pure (fun o s => ?_) fun w s hg => ?_
    · exact congrArg (lanePure _ o s _) (funext (s.movSource_eq o))
    · exact (if_neg (by simp [hg])).trans (congrArg (lanePure _ w.toLOp s _) (funext (s.movSource_eq w.toLOp)))
  case lea => exact laneGives_congr (laneGives_of_pure fun _ => rfl) fun s l => iLea_eq ..
  case cvti => exact laneGives_of_lane1 (fun _ => rfl) fun _ _ => rfl
  case cvtiShort => exact laneGives_of_short1 hg (fun _ => rfl) fun _ _ => rfl
  case perm => exact laneGives_of_lane3 (fun _ => rfl) fun _ _ => rfl
  case widths =>
    exact ⟨wrap_sext 8 32 a, rfl, wrap_sext 16 32 a, rfl, wrap_sext 32 64 a, rfl, rfl, wrap_clamp_sext 64 32 a,
      wrap_clamp_zext (by decide) 64 a, wrap_clamp_sext 32 16 a, wrap_clamp_zext (by decide) 32 a, wrap_clamp_sext 32 8 a,
      wrap_clamp_zext (by decide) 32 a, wrap_max_sext a, wrap_min_zext a⟩
  case bytes => rw [byte_iPerm a b c hi, permByte_eq]

end Sys2Proof.Machine

/-! PROOFS. Packed instructions (03 R86-R88; O5). -/

namespace Sys2Proof.Machine
open Sys2Proof

/-! ### Sub-elements -/

theorem wrap_lt (w : Nat) (v : Int) : wrap w v < 2 ^ w := by
  rw [wrap_eq_ofInt]
  exact (BitVec.ofInt w v).isLt

theorem subEl_lt (e x j : Nat) : subEl e x j < 2 ^ e := Nat.mod_lt _ (by positivity)

theorem iShl_lt (w x n : Nat) : iShl w x n < 2 ^ w := by
  unfold iShl
  split
  · positivity
  · exact Nat.mod_lt _ (by positivity)

theorem iShr_lt (w x n : Nat) : iShr w x n < 2 ^ w := by
  unfold iShr
  split
  · positivity
  · rw [Nat.shiftRight_eq_div_pow]
    exact (Nat.div_le_self ..).trans_lt (Nat.mod_lt _ (by positivity))

/-- A register made of sub-elements has them at their places. -/
theorem subEl_foldl (e : Nat) (g : Nat → Nat) (n : Nat) :
    (List.range n).foldl (fun a j => a + g j % 2 ^ e * 2 ^ (e * j)) 0 < 2 ^ (e * n)
    ∧ ∀ j < n, subEl e ((List.range n).foldl (fun a j => a + g j % 2 ^ e * 2 ^ (e * j)) 0) j = g j % 2 ^ e := by
  induction n with
  | zero => exact ⟨by simp, fun j h => absurd h (Nat.not_lt_zero j)⟩
  | succ n ih =>
    obtain ⟨hlt, hel⟩ := ih
    rw [List.range_succ, List.foldl_append, List.foldl_cons, List.foldl_nil]
    generalize (List.range n).foldl (fun a j => a + g j % 2 ^ e * 2 ^ (e * j)) 0 = x at hlt hel
    have hd : g n % 2 ^ e < 2 ^ e := Nat.mod_lt _ (by positivity)
    refine ⟨?_, fun j hj => ?_⟩
    · calc x + g n % 2 ^ e * 2 ^ (e * n) < (g n % 2 ^ e + 1) * 2 ^ (e * n) := by rw [Nat.add_mul]; omega
        _ ≤ 2 ^ e * 2 ^ (e * n) := Nat.mul_le_mul_right _ hd
        _ = 2 ^ (e * (n + 1)) := by rw [← Nat.pow_add, Nat.mul_succ, Nat.add_comm]
    · obtain h | rfl := Nat.lt_succ_iff_lt_or_eq.1 hj
      · obtain ⟨k, hk⟩ := Nat.exists_eq_add_of_lt h
        have hs (d : Nat) : d * 2 ^ (e * n) = d * 2 ^ (e * k) * 2 ^ e * 2 ^ (e * j) := by
          rw [hk]
          ring
        rw [subEl, hs, Nat.add_mul_div_right _ _ (by positivity), Nat.add_mul_mod_self_right]
        exact hel j h
      · rw [subEl, Nat.add_mul_div_right _ _ (by positivity), Nat.div_eq_of_lt hlt, Nat.zero_add, Nat.mod_mod]

theorem subEl_packEls {e j : Nat} (hj : j < 32 / e) {g : Nat → Nat} (hg : g j < 2 ^ e) : subEl e (packEls e g) j = g j :=
  ((subEl_foldl e g (32 / e)).2 j hj).trans (Nat.mod_eq_of_lt hg)

/-- The value of a sub-element. -/
theorem extOf_subEl (u : Bool) (e x j : Nat) :
    extOf u e (subEl e x j) = if u then (subEl e x j : Int) else (BitVec.ofNat e (subEl e x j)).toInt := by
  rw [extOf_eq, Nat.mod_eq_of_lt (subEl_lt e x j)]

theorem extOf_mod (u : Bool) (w x : Nat) : extOf u w (x % 2 ^ w) = extOf u w x := by
  simp only [extOf, sext, zext, Nat.mod_mod]

theorem sumEls_eq (e : Nat) (g : Nat → Int) : sumEls e g = ((List.range (32 / e)).map g).sum := by
  rw [sumEls, List.sum_eq_foldl, List.foldl_map]

theorem wrap_zext_add (w x : Nat) (v : Int) : wrap w (zext w x + v) = wrap w (x + v) := by
  rw [wrap, wrap, zext, Int.natCast_emod, Int.emod_add_emod]

/-- The halves of a register written half by half. -/
theorem subEl_halves {x y : Nat} (hx : x < 2 ^ 16) (hy : y < 2 ^ 16) : subEl 16 (x + y * 2 ^ 16) 0 = x ∧ subEl 16 (x + y * 2 ^ 16) 1 = y := by
  simp only [subEl]
  omega

/-- The shape of a packed instruction. -/
theorem bothGive_of_packed {long : LOp → Instr} {short : L32 → Instr} (fn : BitVec 4 → Nat → Nat → Nat)
    (h1 : ∀ o s, exec (long o) s = lane2 (long o) o s false false false (fn o.f))
    (h2 : ∀ w s, exec (short w) s = short2 (short w) w s false false false (fn w.f)) :
    BothGive long short (fun _ => false) fun o s l => fn o.f (s.srcA o false l) (s.srcB o false false l) :=
  bothGive_of_lane2 (bw := fun _ => false) (signed := fun _ => false) h1 h2 fun _ _ _ => rfl

/-! ### Results of the operations -/

section
variable {f : BitVec 4} {j : Nat} (hj : j < 32 / ptWidth f) (a b : Nat)
include hj

theorem subEl_iPacked (op : Nat) :
    subEl (ptWidth f) (iPacked op f a b) j =
      match op with
      | 0x20 => iAdd (bit f 3) (bit f 0) (ptWidth f) (subEl (ptWidth f) a j) (subEl (ptWidth f) b j)
      | 0x21 => iSub (bit f 3) (bit f 0) (ptWidth f) (subEl (ptWidth f) a j) (subEl (ptWidth f) b j)
      | 0x22 => iMul (bit f 3) (bit f 0) (ptWidth f) (subEl (ptWidth f) a j) (subEl (ptWidth f) b j)
      | 0x23 => iMin (bit f 0) (ptWidth f) (subEl (ptWidth f) a j) (subEl (ptWidth f) b j)
      | 0x24 => iMax (bit f 0) (ptWidth f) (subEl (ptWidth f) a j) (subEl (ptWidth f) b j)
      | _ => iAbs (bit f 3) (ptWidth f) (subEl (ptWidth f) a j) := by
  refine subEl_packEls hj ?_
  split <;> exact wrap_lt ..

theorem subEl_iPcmp :
    subEl (ptWidth f) (iPcmp f a b) j =
      let x := extOf (bit f 0) (ptWidth f) (subEl (ptWidth f) a j)
      let y := extOf (bit f 0) (ptWidth f) (subEl (ptWidth f) b j)
      if (match bits f 3 2 with | 0 => x == y | 1 => decide (x < y) | 2 => decide (y ≤ x) | _ => x != y) then 2 ^ ptWidth f - 1 else 0 := by
  refine (subEl_packEls hj ?_).trans rfl
  have h (t : Bool) : (if t then 2 ^ ptWidth f - 1 else 0) < 2 ^ ptWidth f := by
    have hp : 0 < 2 ^ ptWidth f := by positivity
    cases t
    · exact hp
    · exact Nat.sub_one_lt hp.ne'
  exact h _

theorem subEl_iPshift_left :
    subEl (ptWidth f) (iPshift 0x26 f a b) j =
      if ptWidth f ≤ subEl (ptWidth f) b j % 256 then 0
      else subEl (ptWidth f) a j * 2 ^ (subEl (ptWidth f) b j % 256) % 2 ^ ptWidth f := by
  have h : iPshift 0x26 f a b = packEls (ptWidth f) fun j => iShl (ptWidth f) (subEl (ptWidth f) a j) (subEl (ptWidth f) b j % 256) := rfl
  rw [h, subEl_packEls hj, iShl, Nat.shiftLeft_eq]
  exact iShl_lt ..

theorem subEl_iPshift_right :
    subEl (ptWidth f) (iPshift 0x27 f a b) j =
      if ptWidth f ≤ subEl (ptWidth f) b j % 256 then 0 else subEl (ptWidth f) a j / 2 ^ (subEl (ptWidth f) b j % 256) := by
  have h : iPshift 0x27 f a b = packEls (ptWidth f) fun j => iShr (ptWidth f) (subEl (ptWidth f) a j) (subEl (ptWidth f) b j % 256) := rfl
  rw [h, subEl_packEls hj, iShr, Nat.mod_eq_of_lt (subEl_lt ..), Nat.shiftRight_eq_div_pow]
  exact iShr_lt ..

theorem subEl_iPshift_arith :
    subEl (ptWidth f) (iPshift 0x28 f a b) j =
      ((BitVec.ofNat (ptWidth f) (subEl (ptWidth f) a j)).sshiftRight (subEl (ptWidth f) b j % 256)).toNat := by
  have h : iPshift 0x28 f a b = packEls (ptWidth f) fun j => iSra (ptWidth f) (subEl (ptWidth f) a j) (subEl (ptWidth f) b j % 256) := rfl
  have hs (n : Nat) : iSra (ptWidth f) (subEl (ptWidth f) a j) n = ((BitVec.ofNat (ptWidth f) (subEl (ptWidth f) a j)).sshiftRight n).toNat := by
    rw [← iSra_eq_sshiftRight, BitVec.toNat_ofNat, Nat.mod_eq_of_lt (subEl_lt ..)]
  rw [h, subEl_packEls hj, hs]
  exact (hs _).trans_lt (BitVec.isLt _)

end

/-- Settles O5: the registers are those of the model's packed operations, and each of their sub-elements is its operation on the
sub-elements of the sources. -/
theorem packedResults : Obligations.PackedResults := by
  unfold Obligations.PackedResults
  intro a b c n
  refine ⟨bothGive_of_packed (iPacked 0x20) (fun _ _ => rfl) fun _ _ => rfl, bothGive_of_packed (iPacked 0x21) (fun _ _ => rfl) fun _ _ => rfl,
    bothGive_of_packed (iPacked 0x22) (fun _ _ => rfl) fun _ _ => rfl, bothGive_of_packed (iPacked 0x23) (fun _ _ => rfl) fun _ _ => rfl,
    bothGive_of_packed (iPacked 0x24) (fun _ _ => rfl) fun _ _ => rfl, ?abs,
    bothGive_of_packed (iPshift 0x26) (fun _ _ => rfl) fun _ _ => rfl, bothGive_of_packed (iPshift 0x27) (fun _ _ => rfl) fun _ _ => rfl,
    bothGive_of_packed (iPshift 0x28) (fun _ _ => rfl) fun _ _ => rfl, bothGive_of_packed iPcmp (fun _ _ => rfl) fun _ _ => rfl,
    bothGive_of_packed iPpack (fun _ _ => rfl) fun _ _ => rfl, ?unpack, ?dots, ?sads, fun f a b c => ?values⟩
  case abs =>
    exact bothGive_of_lane1 (aw := fun _ => false) (fn := fun f x => iPacked 0x25 f x 0) (fun _ _ => rfl) (fun _ _ => rfl) fun _ _ _ => rfl
  case unpack => exact bothGive_of_lane1 (aw := fun _ => false) (fn := iPunpk) (fun _ _ => rfl) (fun _ _ => rfl) fun _ _ _ => rfl
  case dots => exact fun o => laneGives_of_lane3 (fun _ => rfl) fun _ _ => rfl
  case sads => exact fun o => laneGives_of_lane3 (fun _ => rfl) fun _ _ => rfl
  case values =>
    intro u e el val code fit
    have hfit (n : Nat) (v : Int) : Machine.fit (bit f 3) (bit f 0) n v = fit n v := fit_eq ..
    have hcode (n : Nat) (v : Int) : wrap n v = code n v := wrap_eq_ofInt ..
    have hval (u : Bool) (n x j : Nat) : extOf u n (subEl n x j) = val u n x j := extOf_subEl ..
    have hword (u : Bool) (x : Nat) : extOf u 32 x = val u 32 x 0 := by
      rw [← hval, subEl, Nat.mul_zero, Nat.pow_zero, Nat.div_one, extOf_mod]
    refine ⟨fun j (hj : j < 32 / ptWidth f) => ?elements, ?dot, fun hf => ?sad, fun h => ?halves, fun h => ?bytes, ?unpack⟩
    case elements =>
      refine ⟨?add, ?sub, ?mul, ?min, ?max, fun hu => ?abs, subEl_iPshift_left hj a b, subEl_iPshift_right hj a b, subEl_iPshift_arith hj a b, ?cmp⟩
      case add => rw [← hfit, ← hval, ← hval]; exact subEl_iPacked hj a b 0x20
      case sub => rw [← hfit, ← hval, ← hval]; exact subEl_iPacked hj a b 0x21
      case mul => rw [← hfit, ← hval, ← hval]; exact subEl_iPacked hj a b 0x22
      case min => rw [← hcode, ← hval, ← hval]; exact subEl_iPacked hj a b 0x23
      case max => rw [← hcode, ← hval, ← hval]; exact subEl_iPacked hj a b 0x24
      case abs =>
        rw [← hfit, ← hval, hu, show bit f 0 = false from hu, Int.abs_eq_natAbs]
        exact subEl_iPacked hj a 0 0x25
      case cmp => rw [← hval, ← hval]; exact subEl_iPcmp hj a b
    case dot =>
      simp only [iPdot, sumEls_eq, hword, hval, hfit]
      rfl
    case sad =>
      intro n
      have hn : (if f == 1 then 16 else 8) = n := if_congr beq_iff_eq rfl rfl
      have hz (x j : Nat) : zext n (subEl n x j) = el n x j := congrArg Nat.cast (Nat.mod_eq_of_lt (subEl_lt n x j))
      simp only [iSad, hn, wrap_zext_add]
      simp only [sumEls_eq, hz, Int.natCast_natAbs, hcode]
    case halves =>
      have hp : iPpack f a b = fit 16 (val false 32 a 0) + fit 16 (val false 32 b 0) * 2 ^ 16 := by
        simp only [← hfit, ← hword, iPpack, h, Bool.false_eq_true, if_false]
        rfl
      rw [hp]
      exact subEl_halves (BitVec.isLt _) (BitVec.isLt _)
    case bytes =>
      have hp : iPpack f a b = fit 8 (val false 16 a 0) + fit 8 (val false 16 a 1) * 2 ^ 8 + fit 8 (val false 16 b 0) * 2 ^ 16
          + fit 8 (val false 16 b 1) * 2 ^ 24 := by
        simp only [← hfit, ← hval, iPpack, h, if_true]
        rfl
      intro j hj
      have hb (i : Nat) (hi : i < 4) := byte_of_bytes (x0 := fit 8 (val false 16 a 0)) (x1 := fit 8 (val false 16 a 1))
        (x2 := fit 8 (val false 16 b 0)) (x3 := fit 8 (val false 16 b 1)) (BitVec.isLt _) (BitVec.isLt _) (BitVec.isLt _) (BitVec.isLt _) hi
      rw [hp]
      interval_cases j
      · exact ⟨hb 0 (by decide), hb 2 (by decide)⟩
      · exact ⟨hb 1 (by decide), hb 3 (by decide)⟩
    case unpack =>
      intro half
      refine ⟨fun h => ?word, fun h => ?bytes⟩
      case word =>
        rw [← hval, ← hcode, iPunpk, if_pos h]
      case bytes =>
        have hp : iPunpk f a = code 16 (val u 8 a (2 * half)) + code 16 (val u 8 a (2 * half + 1)) * 2 ^ 16 := by
          simp only [← hcode, ← hval, iPunpk, h, Bool.false_eq_true, if_false]
          rfl
        intro j hj
        obtain ⟨h0, h1⟩ := subEl_halves (x := code 16 (val u 8 a (2 * half))) (y := code 16 (val u 8 a (2 * half + 1)))
          (BitVec.isLt _) (BitVec.isLt _)
        rw [hp]
        interval_cases j
        · exact h0
        · exact h1

end Sys2Proof.Machine

/-! PROOFS. Comparisons (03 R81; 04 R108; O8): conditions on integer codes, and the order of floating codes. -/

namespace Sys2Proof.Machine
open Sys2Proof

/-! ### Conditions on integer codes (03 R81) -/

theorem iCmp_toNat {w : Nat} (cc : Nat) (x y : BitVec w) :
    iCmp cc w x.toNat y.toNat =
      match cc with
      | 0 => x == y
      | 1 => x != y
      | 2 => x.slt y
      | 3 => !x.slt y
      | 4 => x.ult y
      | _ => !x.ult y := by
  have hb : (x.toNat == y.toNat) = (x == y) := by
    rw [Bool.eq_iff_iff, beq_iff_eq, beq_iff_eq]
    exact BitVec.toNat_inj
  match cc with
  | 0 => exact hb
  | 1 => exact congrArg not hb
  | 2 => simp only [iCmp, sext_toNat, BitVec.slt]
  | 3 => simp only [iCmp, sext_toNat, BitVec.slt, ← decide_not, Int.not_lt]
  | 4 => rfl
  | _ + 5 => simp only [iCmp, BitVec.ult, ← decide_not, Nat.not_lt]

theorem State.ofNat_laneVal (s : State) (wide : Bool) (r l : Nat) :
    (BitVec.ofNat (if wide then 64 else 32) (s.laneVal wide r l)).toNat = s.laneVal wide r l :=
  Nat.mod_eq_of_lt (s.laneVal_lt wide r l)

theorem State.ofNat_srcB (s : State) (o : LOp) (wide signed : Bool) (l : Nat) :
    (BitVec.ofNat (if wide then 64 else 32) (s.srcB o wide signed l)).toNat = s.srcB o wide signed l :=
  Nat.mod_eq_of_lt (s.srcB_lt o wide signed l)

/-! ### The order of floating codes (04 R90, R91) -/

/-- The magnitude of a code, without its sign. -/
def Fmt.mag (f : Fmt) (x : Nat) : Nat := x % 2 ^ (f.ebits + f.mbits)
/-- The magnitude of infinity. -/
def Fmt.top (f : Fmt) : Nat := f.emaxField * 2 ^ f.mbits
/-- A finite magnitude, in units of the least subnormal. -/
def Fmt.units (f : Fmt) (m : Nat) : Nat :=
  if m / 2 ^ f.mbits = 0 then m % 2 ^ f.mbits else (m % 2 ^ f.mbits + 2 ^ f.mbits) * 2 ^ (m / 2 ^ f.mbits - 1)
/-- The least subnormal. -/
def Fmt.least (f : Fmt) : ℚ := 2 ^ (1 - f.bias - f.mbits : ℤ)
/-- A code as a signed magnitude; both zeros are 0. -/
def Fmt.signed (f : Fmt) (x : Nat) : ℤ := if f.negative x then -f.mag x else f.mag x
/-- A signed magnitude in units of the least subnormal. -/
def Fmt.signedUnits (f : Fmt) (k : ℤ) : ℤ := if k < 0 then -f.units k.natAbs else f.units k.natAbs
/-- The level of a signed magnitude. -/
def Fmt.levelAt (f : Fmt) (k : ℤ) : WithBot (WithTop ℚ) :=
  if (f.top : ℤ) ≤ k then ((⊤ : WithTop ℚ) : WithBot (WithTop ℚ))
  else if k ≤ -f.top then ⊥ else (((f.signedUnits k : ℚ) * f.least : ℚ) : WithTop ℚ)

theorem Fmt.units_strictMono (f : Fmt) : StrictMono f.units := by
  refine strictMono_nat_of_lt_succ fun m => ?_
  unfold Fmt.units
  have hp : 0 < 2 ^ f.mbits := by positivity
  generalize 2 ^ f.mbits = p at hp
  have hm : m % p < p := Nat.mod_lt _ hp
  by_cases hl : (m + 1) % p = 0
  · have hd : (m + 1) / p = m / p + 1 := Nat.succ_div_of_mod_eq_zero hl
    rw [if_neg (show ¬(m + 1) / p = 0 by rw [hd]; exact Nat.succ_ne_zero _), hl, hd, Nat.add_sub_cancel, Nat.zero_add]
    split
    · next h0 => simpa [h0] using hm
    · next h0 =>
      obtain ⟨k, hk⟩ := Nat.exists_eq_succ_of_ne_zero h0
      rw [hk, Nat.succ_eq_add_one, Nat.add_sub_cancel, Nat.pow_succ, Nat.mul_comm (2 ^ k), ← Nat.mul_assoc]
      exact Nat.mul_lt_mul_of_pos_right (by omega) (by positivity)
  · have hd : (m + 1) / p = m / p := Nat.succ_div_of_mod_ne_zero hl
    have hr : (m + 1) % p = m % p + 1 := by
      have h1 := Nat.div_add_mod m (p)
      have h2 := Nat.div_add_mod (m + 1) (p)
      rw [hd] at h2
      omega
    rw [hd, hr]
    split
    · exact Nat.lt_succ_self _
    · exact Nat.mul_lt_mul_of_pos_right (by omega) (by positivity)

theorem Fmt.units_zero (f : Fmt) : f.units 0 = 0 := by simp [Fmt.units]

theorem Fmt.signedUnits_strictMono (f : Fmt) : StrictMono f.signedUnits := fun k j h => by
  have lt {a b : Nat} (h : a < b) : f.units a < f.units b := f.units_strictMono h
  have h0 := f.units_zero
  unfold Fmt.signedUnits
  split <;> split
  · have := lt (show j.natAbs < k.natAbs by omega)
    omega
  · have := lt (show 0 < k.natAbs by omega)
    omega
  · omega
  · have := lt (show k.natAbs < j.natAbs by omega)
    omega

theorem Fmt.least_pos (f : Fmt) : 0 < f.least := by
  unfold Fmt.least
  positivity

theorem Fmt.levelAt_strictMonoOn (f : Fmt) : StrictMonoOn f.levelAt (Set.Icc (-f.top) f.top) := by
  rintro k ⟨hk, -⟩ j ⟨-, hj⟩ h
  unfold Fmt.levelAt
  rw [if_neg (show ¬(f.top : ℤ) ≤ k by omega), if_neg (show ¬j ≤ -(f.top : ℤ) by omega)]
  by_cases hb : k ≤ -f.top <;> by_cases hc : (f.top : ℤ) ≤ j
  · rw [if_pos hb, if_pos hc]
    exact WithBot.bot_lt_coe _
  · rw [if_pos hb, if_neg hc]
    exact WithBot.bot_lt_coe _
  · rw [if_neg hb, if_pos hc]
    exact WithBot.coe_lt_coe.2 (WithTop.coe_lt_top _)
  · rw [if_neg hb, if_neg hc]
    refine WithBot.coe_lt_coe.2 (WithTop.coe_lt_coe.2 (mul_lt_mul_of_pos_right ?_ f.least_pos))
    exact_mod_cast f.signedUnits_strictMono h

section
variable {f : Fmt} (hf : f.ieee = true)
include hf

/-- Reading a code of an IEEE-style format by its magnitude. -/
theorem Fmt.read_eq (x : Nat) :
    f.read x =
      if f.mag x / 2 ^ f.mbits = f.emaxField then
        if f.mag x % 2 ^ f.mbits = 0 then .inf (f.negative x) else .nan (f.negative x) (f.mag x % 2 ^ f.mbits)
      else if f.mag x / 2 ^ f.mbits = 0 then .fin (f.negative x) (f.mag x % 2 ^ f.mbits) (1 - f.bias - f.mbits)
      else .fin (f.negative x) (f.mag x % 2 ^ f.mbits + 2 ^ f.mbits) ((f.mag x / 2 ^ f.mbits : Nat) - f.bias - f.mbits) := by
  have he : (x >>> f.mbits) % 2 ^ f.ebits = f.mag x / 2 ^ f.mbits := by
    rw [Fmt.mag, Nat.shiftRight_eq_div_pow, Nat.add_comm, Nat.pow_add, Nat.mod_mul_right_div_self]
  have hm : x % 2 ^ f.mbits = f.mag x % 2 ^ f.mbits :=
    (Nat.mod_mod_of_dvd x (Nat.pow_dvd_pow 2 (Nat.le_add_left ..))).symm
  have h4 : (f == fmtE4m3) = false := by
    rw [beq_eq_false_iff_ne]
    rintro rfl
    cases hf
  unfold Fmt.read
  rw [he, hm]
  simp only [hf, h4, Bool.true_and, Bool.false_and, beq_iff_eq, Bool.false_eq_true, if_false]
  rfl

theorem Fmt.read_fin {x : Nat} (h : f.mag x < f.top) :
    ∃ m e, f.read x = .fin (f.negative x) m e ∧ (m : ℚ) * 2 ^ e = f.units (f.mag x) * f.least := by
  have hd : f.mag x / 2 ^ f.mbits < f.emaxField := (Nat.div_lt_iff_lt_mul (by positivity)).2 h
  rw [Fmt.read_eq hf, if_neg hd.ne, Fmt.units]
  split
  · exact ⟨_, _, rfl, rfl⟩
  · next h0 =>
    refine ⟨_, _, rfl, ?_⟩
    have he : ((f.mag x / 2 ^ f.mbits : Nat) - f.bias - f.mbits : ℤ)
        = (f.mag x / 2 ^ f.mbits - 1 : Nat) + (1 - f.bias - f.mbits) := by
      generalize f.mag x / 2 ^ f.mbits = q at h0
      omega
    rw [he, zpow_add₀ two_ne_zero, zpow_natCast, Fmt.least]
    push_cast
    ring

theorem Fmt.read_top {x : Nat} (h : f.mag x = f.top) : f.read x = .inf (f.negative x) := by
  have hd : f.mag x / 2 ^ f.mbits = f.emaxField := by rw [h, Fmt.top, Nat.mul_div_cancel _ (by positivity)]
  have hm : f.mag x % 2 ^ f.mbits = 0 := by rw [h, Fmt.top, Nat.mul_mod_left]
  rw [Fmt.read_eq hf, if_pos hd, if_pos hm]

theorem Fmt.mag_le_top {x : Nat} (h : (f.read x).isNan = false) : f.mag x ≤ f.top := by
  by_contra hc
  have hlt : f.mag x < 2 ^ f.ebits * 2 ^ f.mbits := by
    rw [← Nat.pow_add]
    exact Nat.mod_lt _ (by positivity)
  have hd : f.mag x / 2 ^ f.mbits = f.emaxField := by
    have h1 : f.mag x / 2 ^ f.mbits < 2 ^ f.ebits := (Nat.div_lt_iff_lt_mul (by positivity)).2 hlt
    have h2 : f.emaxField ≤ f.mag x / 2 ^ f.mbits := (Nat.le_div_iff_mul_le (by positivity)).2 (by rw [← Fmt.top]; omega)
    unfold Fmt.emaxField at h2 ⊢
    omega
  have hm : f.mag x % 2 ^ f.mbits ≠ 0 := fun h0 => by
    have := Nat.div_add_mod (f.mag x) (2 ^ f.mbits)
    rw [hd, h0, Nat.mul_comm, ← Fmt.top] at this
    omega
  rw [Fmt.read_eq hf, if_pos hd, if_neg hm] at h
  cases h

end

section
variable {f : Fmt} (hf : f.ieee = true) (ht : 0 < f.top)
include hf ht

theorem Fmt.level_eq {x : Nat} (h : f.mag x ≤ f.top) : f.level x = f.levelAt (f.signed x) := by
  obtain h | h := Nat.lt_or_eq_of_le h
  · obtain ⟨m, e, hr, hv⟩ := Fmt.read_fin hf h
    have hu : (f.signedUnits (f.signed x) : ℚ) = (if f.negative x then -1 else 1) * f.units (f.mag x) := by
      unfold Fmt.signedUnits Fmt.signed
      obtain h0 | h0 := Nat.eq_zero_or_pos (f.mag x)
      · simp [h0, f.units_zero]
      · cases f.negative x <;> simp [h0]
    have hs : ¬(f.top : ℤ) ≤ f.signed x ∧ ¬f.signed x ≤ -f.top := by
      unfold Fmt.signed
      split <;> omega
    rw [Fmt.levelAt, if_neg hs.1, if_neg hs.2, hu, mul_assoc, ← hv, ← mul_assoc]
    simp only [Fmt.level, Fmt.infinite, Fmt.value, hr, Bool.false_eq_true, if_false]
  · simp only [Fmt.level, Fmt.infinite, Fmt.read_top hf h, Fmt.levelAt, Fmt.signed, h]
    cases f.negative x
    · simp
    · simp only [if_true, le_refl]
      rw [if_neg (by omega)]

theorem Fmt.isZero_iff {x : Nat} (h : f.mag x ≤ f.top) : (f.read x).isZero = true ↔ f.mag x = 0 := by
  obtain h | h := Nat.lt_or_eq_of_le h
  · obtain ⟨m, e, hr, hv⟩ := Fmt.read_fin hf h
    have h0 : m = 0 ↔ f.mag x = 0 := by
      have hp : (2 : ℚ) ^ e ≠ 0 := by positivity
      have hz : (m : ℚ) = 0 ↔ (f.units (f.mag x) : ℚ) = 0 := by
        rw [← mul_eq_zero_iff_right hp, hv, mul_eq_zero_iff_right f.least_pos.ne']
      rw [← f.units_strictMono.injective.eq_iff (a := f.mag x), f.units_zero]
      exact_mod_cast hz
    rw [hr, ← h0]
    cases m <;> simp [FVal.isZero]
  · rw [Fmt.read_top hf h, h]
    simp [FVal.isZero, ht.ne']

theorem Fmt.cmpEq_iff {x y : Nat} (hx : x < 2 ^ f.width) (hy : y < 2 ^ f.width) (hx' : f.mag x ≤ f.top) (hy' : f.mag y ≤ f.top) :
    f.cmpEq x y = true ↔ f.signed x = f.signed y := by
  have he : x = y ↔ f.negative x = f.negative y ∧ f.mag x = f.mag y := by
    refine ⟨fun h => h ▸ ⟨rfl, rfl⟩, fun ⟨hs, hm⟩ => ?_⟩
    have hcode {z : Nat} (hz : z < 2 ^ f.width) : z = (f.negative z).toNat * 2 ^ (f.ebits + f.mbits) + f.mag z := by
      have hd : z / 2 ^ (f.ebits + f.mbits) < 2 :=
        (Nat.div_lt_iff_lt_mul (by positivity)).2 (by rwa [← Nat.pow_succ', Nat.succ_eq_one_add, ← Nat.add_assoc])
      rw [Fmt.negative, Nat.testBit_eq_decide_div_mod_eq, Nat.mod_eq_of_lt hd, Fmt.mag]
      have hz' := Nat.div_add_mod' z (2 ^ (f.ebits + f.mbits))
      generalize z / 2 ^ (f.ebits + f.mbits) = q at hd hz'
      interval_cases q <;> simpa using hz'.symm
    rw [hcode hx, hcode hy, hs, hm]
  rw [Fmt.cmpEq, Bool.or_eq_true, Bool.and_eq_true, Fmt.isZero_iff hf ht hx', Fmt.isZero_iff hf ht hy', beq_iff_eq, he]
  unfold Fmt.signed
  cases f.negative x <;> cases f.negative y <;> simp <;> omega

theorem Fmt.cmpLt_iff {x y : Nat} (hx : x < 2 ^ f.width) (hy : y < 2 ^ f.width) (hx' : f.mag x ≤ f.top) (hy' : f.mag y ≤ f.top) :
    f.cmpLt x y = true ↔ f.signed x < f.signed y := by
  rw [Fmt.cmpLt, Bool.and_eq_true, decide_eq_true_eq, Bool.not_eq_true', ← Bool.not_eq_true, Fmt.cmpEq_iff hf ht hx hy hx' hy']
  have ho (z : Nat) : f.ordKey z = if f.negative z then -(f.mag z : ℤ) - 1 else f.mag z := rfl
  rw [ho, ho]
  unfold Fmt.signed
  cases f.negative x <;> cases f.negative y <;> simp <;> omega

end

theorem Fmt.operand_lt {f : Fmt} {x n : Nat} (h : x < n) (ftz : Bool) : f.operand ftz x < n := by
  unfold Fmt.operand
  split
  · exact (Nat.sub_le ..).trans_lt h
  · exact h

/-- The comparisons of two codes that are no NaN are those of their levels. -/
theorem fCmp_levels {f : Fmt} (hf : f.ieee = true) (ht : 0 < f.top) {ftz : Bool} {x y : Nat} (hx : x < 2 ^ f.width) (hy : y < 2 ^ f.width)
    (hn : ((f.read (f.operand ftz x)).isNan || (f.read (f.operand ftz y)).isNan) = false) :
    ((fCmp f ftz 0 x y).1 = true ↔ f.level (f.operand ftz x) = f.level (f.operand ftz y))
    ∧ ((fCmp f ftz 1 x y).1 = true ↔ f.level (f.operand ftz x) < f.level (f.operand ftz y))
    ∧ ((fCmp f ftz 2 x y).1 = true ↔ f.level (f.operand ftz x) ≤ f.level (f.operand ftz y)) := by
  obtain ⟨hnx, hny⟩ := Bool.or_eq_false_iff.1 hn
  have ha := Fmt.operand_lt (f := f) hx ftz
  have hb := Fmt.operand_lt (f := f) hy ftz
  have hma := Fmt.mag_le_top hf hnx
  have hmb := Fmt.mag_le_top hf hny
  simp only [fCmp, hn, Bool.not_false, Bool.true_and]
  generalize f.operand ftz x = a at ha hma
  generalize f.operand ftz y = b at hb hmb
  have mem {z : Nat} (h : f.mag z ≤ f.top) : f.signed z ∈ Set.Icc (-f.top : ℤ) f.top := by
    unfold Fmt.signed
    constructor <;> split <;> omega
  have hmono := f.levelAt_strictMonoOn
  have heq : f.cmpEq a b = true ↔ f.signed a = f.signed b := Fmt.cmpEq_iff hf ht ha hb hma hmb
  have hlt : f.cmpLt a b = true ↔ f.signed a < f.signed b := Fmt.cmpLt_iff hf ht ha hb hma hmb
  rw [Fmt.level_eq hf ht hma, Fmt.level_eq hf ht hmb]
  refine ⟨?_, ?_, ?_⟩
  · rw [heq, hmono.injOn.eq_iff (mem hma) (mem hmb)]
  · rw [hlt, hmono.lt_iff_lt (mem hma) (mem hmb)]
  · rw [Bool.or_eq_true, hlt, heq, ← Int.le_iff_lt_or_eq, hmono.le_iff_le (mem hma) (mem hmb)]

/-! ### Triples -/

/-- A comparison that writes a triple and flags, after its poison check. -/
theorem tripleGives_of_checked {i : Instr} {o : LOp} {fs : List PoisonField} {r : State → Nat → Bool × W32}
    (h : ∀ s, exec i s = laneExecP i o s fs fun u =>
      ((u.wtriple o.d.toNat (u.enabled o) (maskOf fun l => (r s l).1)).orFlags (unionFlags (u.enabled o) fun l => (r s l).2)).retire i.size) :
    TripleGives i o (fun s l => (r s l).1) (fun s => unionFlags (s.enabled o) fun l => (r s l).2)
      fun s => s.poisonCheck (s.enabled o) fs = none := by
  intro s hc hd hp
  rw [h, laneExecP, laneExec_ok hc]
  simp only [hp]
  refine ⟨_, rfl, ?_, ?_, fun a => ⟨rfl, rfl⟩, fun l hl => ?_, fun k hk => ?_⟩
  · simp [State.wtriple, State.wg, State.orFlags, State.retire]
  · rfl
  · show ((s.wtriple o.d.toNat (s.enabled o) (maskOf fun l => (r s l).1)).triple o.d.toNat).getLsbD l = _
    rw [State.triple_wtriple _ _ _ _ hd _ hl, getLsbD_maskOf _ _ hl]
  · show (s.wtriple o.d.toNat (s.enabled o) (maskOf fun l => (r s l).1)).rg k = _
    exact State.rg_wtriple s _ _ _ hd k hk

theorem tripleGives_cmp (o : LOp) :
    TripleGives (.cmp o) o
      (fun s l => iCmp (bits o.f 2 0) (if bit o.f 3 then 64 else 32) (s.srcA o (bit o.f 3) l)
        (s.srcB o (bit o.f 3) (bits o.f 2 0 == 2 || bits o.f 2 0 == 3) l)) (fun _ => 0) fun _ => True :=
  tripleGives_of_lanePred getLsbD_maskOf fun _ => rfl

theorem iCmp_lane (o : LOp) (s : State) (l : Nat) :
    iCmp (bits o.f 2 0) (if bit o.f 3 then 64 else 32) (s.srcA o (bit o.f 3) l)
        (s.srcB o (bit o.f 3) (bits o.f 2 0 == 2 || bits o.f 2 0 == 3) l) =
      let w := if bit o.f 3 then 64 else 32
      let a := BitVec.ofNat w (s.srcA o (bit o.f 3) l)
      let b (signed : Bool) := BitVec.ofNat w (s.srcB o (bit o.f 3) signed l)
      match bits o.f 2 0 with
      | 0 => a == b false
      | 1 => a != b false
      | 2 => a.slt (b true)
      | 3 => !a.slt (b true)
      | 4 => a.ult (b false)
      | _ => !a.ult (b false) := by
  have h := iCmp_toNat (bits o.f 2 0) (BitVec.ofNat (if bit o.f 3 then 64 else 32) (s.laneVal (bit o.f 3) o.a.toNat l))
    (BitVec.ofNat (if bit o.f 3 then 64 else 32) (s.srcB o (bit o.f 3) (bits o.f 2 0 == 2 || bits o.f 2 0 == 3) l))
  rw [State.ofNat_laneVal, State.ofNat_srcB] at h
  refine h.trans ?_
  match bits o.f 2 0 with
  | 0 | 1 | 2 | 3 | 4 => rfl
  | _ + 5 => rfl

/-- Settles O8: the conditions of cmp are those on bit vectors, and a float's order is that of its signed magnitude. -/
theorem compareResults : Obligations.CompareResults := by
  unfold Obligations.CompareResults
  refine ⟨fun o => ?cmp, fun o => tripleGives_of_checked fun _ => rfl, fun f hfmt ftz x y hx hy => ?values⟩
  case cmp =>
    have h := tripleGives_cmp o
    rwa [funext fun s => funext (iCmp_lane o s)] at h
  case values =>
    have hieee : f.ieee = true ∧ 0 < f.top := by
      simp only [List.mem_cons, List.not_mem_nil, or_false] at hfmt
      obtain rfl | rfl | rfl | rfl := hfmt <;> decide
    refine ⟨rfl, rfl, rfl, rfl, fun hn c hc => ?_, fun hn => fCmp_levels hieee.1 hieee.2 hx hy hn⟩
    have hnan : ((f.read (f.operand ftz x)).isNan || (f.read (f.operand ftz y)).isNan) = true := hn
    interval_cases c <;> simp only [fCmp, hnan, Bool.not_true, Bool.false_and]

end Sys2Proof.Machine

/-! PROOFS. The scalar integer instructions (03 R89; O34). -/

namespace Sys2Proof.Machine
open Sys2Proof

/-! ### Values of 64-bit registers -/

theorem scalarGives_congr {i : Instr} {size d : Nat} {f g : State → W64} (h : ScalarGives i size d f) (e : ∀ s, f s = g s) :
    ScalarGives i size d g := by
  rwa [← funext e]

/-- Both forms of an instruction of the scalar set, by its operation on registers: the literal is a sign-extended B (02 R47). -/
theorem scalarBoth_of_alu {short : S32 → Instr} {long : S64 → Instr} {g : Nat → W64 → W64 → W64 → W64} (op : Nat)
    (h1 : ∀ w s, exec (short w) s = scalar32 op w s) (h2 : ∀ o s, exec (long o) s = scalar64 op o s)
    (e : ∀ f d a b, BitVec.ofNat 64 (sAlu op f d.toNat a.toNat b.toNat) = g f d a b) : ScalarBoth short long g := by
  refine ⟨fun w => scalarGives_congr (scalarGives_of_pure (h1 w)) fun s => e .., fun o => ?_⟩
  refine scalarGives_congr (scalarGives_of_pure (h2 o)) fun s => ?_
  rw [wrap_sext, BitVec.ofNat_toNat, BitVec.setWidth_eq]
  exact e ..

theorem ofNat_wrap (v : Int) : BitVec.ofNat 64 (wrap 64 v) = BitVec.ofInt 64 v := by
  rw [wrap_eq_ofInt, BitVec.ofNat_toNat, BitVec.setWidth_eq]

theorem ofNat_fit (sat u : Bool) (v : Int) :
    BitVec.ofNat 64 (fit sat u 64 v) = BitVec.ofInt 64 (if sat then
      (if u then min (max v 0) (2 ^ 64 - 1) else min (max v (-2 ^ 63)) (2 ^ 63 - 1)) else v) := by
  rw [fit_eq, BitVec.ofNat_toNat, BitVec.setWidth_eq]

theorem ofInt_extOf_toNat (u : Bool) (x : W64) : BitVec.ofInt 64 (extOf u 64 x.toNat) = x := by
  rw [ofInt_extOf, BitVec.ofNat_toNat, BitVec.setWidth_eq, BitVec.setWidth_eq, BitVec.signExtend_eq, ite_self]

theorem extOf_toNat_eq_zero {u : Bool} {x : W64} : extOf u 64 x.toNat = 0 ↔ x = 0 := by
  refine ⟨fun h => ?_, fun h => by subst h; cases u <;> rfl⟩
  rw [← ofInt_extOf_toNat u x, h]
  rfl

theorem toInt_eq_least {x : W64} : x.toInt = -2 ^ 63 ↔ x = BitVec.twoPow 64 63 :=
  ⟨fun h => BitVec.eq_of_toInt_eq h, fun h => by subst h; rfl⟩

theorem toInt_eq_neg_one {x : W64} : x.toInt = -1 ↔ x = BitVec.allOnes 64 :=
  ⟨fun h => BitVec.eq_of_toInt_eq h, fun h => by subst h; rfl⟩

/-- Division's one overflow (03 R79). -/
theorem extOf_overflow (u : Bool) (a b : W64) :
    (u = false ∧ extOf u 64 a.toNat = -2 ^ (64 - 1) ∧ extOf u 64 b.toNat = -1) ↔
      u = false ∧ a = BitVec.twoPow 64 63 ∧ b = BitVec.allOnes 64 := by
  refine and_congr_right fun hu => ?_
  subst hu
  rw [extOf_toNat, extOf_toNat, if_neg Bool.false_ne_true, if_neg Bool.false_ne_true, toInt_eq_neg_one]
  exact and_congr_left fun _ => toInt_eq_least

theorem ofNat_iDiv (u : Bool) (a b : W64) :
    BitVec.ofNat 64 (iDiv false u 64 a.toNat b.toNat) =
      if b = 0 then BitVec.allOnes 64
      else if u = false ∧ a = BitVec.twoPow 64 63 ∧ b = BitVec.allOnes 64 then BitVec.twoPow 64 63
      else BitVec.ofInt 64 ((extOf u 64 a.toNat).tdiv (extOf u 64 b.toNat)) := by
  rw [iDiv_eq (by decide)]
  simp only [extOf_toNat_eq_zero, extOf_overflow, Bool.not_false, Bool.false_eq_true, if_true, if_false]
  split_ifs
  · rfl
  · rfl
  · rw [BitVec.ofNat_toNat, BitVec.setWidth_eq]

theorem ofNat_iRem (u : Bool) (a b : W64) :
    BitVec.ofNat 64 (iRem u 64 a.toNat b.toNat) =
      if b = 0 then a
      else if u = false ∧ a = BitVec.twoPow 64 63 ∧ b = BitVec.allOnes 64 then 0
      else BitVec.ofInt 64 ((extOf u 64 a.toNat).tmod (extOf u 64 b.toNat)) := by
  rw [iRem_eq]
  simp only [extOf_toNat_eq_zero, extOf_overflow, ofInt_extOf_toNat]
  split_ifs
  · rw [BitVec.ofNat_toNat, BitVec.setWidth_eq]
  · rfl
  · rw [BitVec.ofNat_toNat, BitVec.setWidth_eq]

/-- A shift by more than the sign's place is one by that place. -/
theorem sshiftRight_min (x : W64) (n : Nat) : x.sshiftRight n = x.sshiftRight (min n 63) := by
  apply BitVec.eq_of_getLsbD_eq
  intro i hi
  rw [BitVec.getLsbD_sshiftRight, BitVec.getLsbD_sshiftRight]
  by_cases h : n ≤ 63
  · rw [min_eq_left h]
  · have h1 : ¬n + i < 64 := by omega
    rw [min_eq_right (by omega), if_neg h1]
    by_cases h2 : 63 + i < 64
    · have h3 : 63 + i = 63 := by omega
      rw [if_pos h2, h3, BitVec.msb_eq_getLsbD_last]
    · rw [if_neg h2]

/-- bfi with the mask of R89. -/
theorem ofNat_iBfi (d a b : W64) :
    BitVec.ofNat 64 (iBfi 64 d.toNat a.toNat b.toNat) =
      let pos := b.toNat % 256
      let end_ := min (pos + b.toNat / 256 % 256) 64
      let m : W64 := BitVec.ofNat 64 (2 ^ end_ - 2 ^ pos)
      (d &&& ~~~m) ||| ((a <<< pos) &&& m) := by
  dsimp only
  generalize hend : min (b.toNat % 256 + b.toNat / 256 % 256) 64 = end_
  apply BitVec.eq_of_getLsbD_eq
  intro i hi
  have hm : (BitVec.ofNat 64 (2 ^ end_ - 2 ^ (b.toNat % 256))).getLsbD i = (decide (b.toNat % 256 ≤ i) && decide (i < end_)) := by
    rw [BitVec.getLsbD_ofNat]
    by_cases h : b.toNat % 256 ≤ end_
    · rw [testBit_two_pow_sub_two_pow h, decide_eq_true hi, Bool.true_and]
    · have h0 : 2 ^ end_ - 2 ^ (b.toNat % 256) = 0 := Nat.sub_eq_zero_of_le (Nat.pow_le_pow_right (by decide) (by omega))
      rw [h0, Nat.zero_testBit, Bool.and_false]
      symm
      simp only [Bool.and_eq_false_iff, decide_eq_false_iff_not]
      omega
  rw [BitVec.getLsbD_ofNat, decide_eq_true hi, Bool.true_and, testBit_iBfi d.isLt, hend, BitVec.getLsbD_or, BitVec.getLsbD_and,
    BitVec.getLsbD_and, BitVec.getLsbD_not, hm, BitVec.getLsbD_shiftLeft, decide_eq_true hi]
  by_cases h1 : b.toNat % 256 ≤ i <;> by_cases h2 : i < end_ <;> simp [h1, h2, Nat.not_lt.2, BitVec.getLsbD]

/-- Settles O34: each operation on codes, as the operation on registers. -/
theorem scalarArithmetic : Obligations.ScalarArithmetic := by
  unfold Obligations.ScalarArithmetic
  intro int fit i u least
  have hint (v : Bool) (x : W64) : extOf v 64 x.toNat = int v x := extOf_toNat v x
  have hfit (f : Nat) (v : Int) : BitVec.ofNat 64 (Machine.fit (f != 0) (f == 2) 64 v) = fit f v := by
    rw [ofNat_fit]
    by_cases h0 : f = 0 <;> by_cases h2 : f = 2 <;> simp [fit, h0, h2]
  have hmin (v : Bool) (a b : W64) : BitVec.ofInt 64 (min (int v a) (int v b)) = if int v a ≤ int v b then a else b := by
    rw [min_def, apply_ite (BitVec.ofInt 64), ← hint, ofInt_extOf_toNat, ← hint, ofInt_extOf_toNat]
  have hmax (v : Bool) (a b : W64) : BitVec.ofInt 64 (max (int v a) (int v b)) = if int v a ≤ int v b then b else a := by
    rw [max_def, apply_ite (BitVec.ofInt 64), ← hint, ofInt_extOf_toNat, ← hint, ofInt_extOf_toNat]
  have hu (f : Nat) : (f == 1) = false ↔ f ≠ 1 := beq_eq_false_iff_ne
  have hcode (x : W64) : BitVec.ofNat 64 x.toNat = x := by rw [BitVec.ofNat_toNat, BitVec.setWidth_eq]
  refine ⟨?add, ?sub, ?mul, ?mulhi, ?div, ?rem, ?min, ?max, ?and, ?or, ?xor, ?andn, ?shl, ?shr, ?sra, ?bfe, ?bfi, fun w => ?popc, fun w => ?clz,
    fun w => ?ctz, ?mov, fun o => ?li, ?cmp, ?sel, ?lea⟩
  case add => exact scalarBoth_of_alu 0x00 (fun _ _ => rfl) (fun _ _ => rfl) fun f d a b => by simp only [sAlu, iAdd, hfit, hint]; rfl
  case sub => exact scalarBoth_of_alu 0x01 (fun _ _ => rfl) (fun _ _ => rfl) fun f d a b => by simp only [sAlu, iSub, hfit, hint]; rfl
  case mul => exact scalarBoth_of_alu 0x02 (fun _ _ => rfl) (fun _ _ => rfl) fun f d a b => by simp only [sAlu, iMul, hfit, hint]; rfl
  case mulhi =>
    exact scalarBoth_of_alu 0x03 (fun _ _ => rfl) (fun _ _ => rfl) fun f d a b => by simp only [sAlu, iMulhi, ofNat_wrap, hint]; rfl
  case div =>
    exact scalarBoth_of_alu 0x04 (fun _ _ => rfl) (fun _ _ => rfl) fun f d a b => by simp only [sAlu, ofNat_iDiv, hint, hu]; rfl
  case rem =>
    exact scalarBoth_of_alu 0x05 (fun _ _ => rfl) (fun _ _ => rfl) fun f d a b => by simp only [sAlu, ofNat_iRem, hint, hu]; rfl
  case min =>
    exact scalarBoth_of_alu 0x06 (fun _ _ => rfl) (fun _ _ => rfl) fun f d a b => by simp only [sAlu, iMin, ofNat_wrap, hint, hmin]; rfl
  case max =>
    exact scalarBoth_of_alu 0x07 (fun _ _ => rfl) (fun _ _ => rfl) fun f d a b => by simp only [sAlu, iMax, ofNat_wrap, hint, hmax]; rfl
  case and => exact scalarBoth_of_alu 0x08 (fun _ _ => rfl) (fun _ _ => rfl) fun f d a b => hcode (a &&& b)
  case or => exact scalarBoth_of_alu 0x09 (fun _ _ => rfl) (fun _ _ => rfl) fun f d a b => hcode (a ||| b)
  case xor => exact scalarBoth_of_alu 0x0A (fun _ _ => rfl) (fun _ _ => rfl) fun f d a b => hcode (a ^^^ b)
  case andn =>
    exact scalarBoth_of_alu 0x0B (fun _ _ => rfl) (fun _ _ => rfl) fun f d a b => by simp only [sAlu, iAndn_toNat, hcode]
  case shl =>
    refine scalarBoth_of_alu 0x0C (fun _ _ => rfl) (fun _ _ => rfl) fun f d a b => ?_
    simp only [sAlu, iShl_toNat, apply_ite (BitVec.ofNat 64), hcode]
    rfl
  case shr =>
    refine scalarBoth_of_alu 0x0D (fun _ _ => rfl) (fun _ _ => rfl) fun f d a b => ?_
    simp only [sAlu, iShr_toNat, apply_ite (BitVec.ofNat 64), hcode]
    rfl
  case sra =>
    exact scalarBoth_of_alu 0x0E (fun _ _ => rfl) (fun _ _ => rfl) fun f d a b => by
      simp only [sAlu, iSra_eq_sshiftRight, hcode]; exact sshiftRight_min ..
  case bfe =>
    refine scalarBoth_of_alu 0x0F (fun _ _ => rfl) (fun _ _ => rfl) fun f d a b => ?_
    simp only [sAlu, iBfe_toNat, apply_ite (BitVec.ofNat 64), hcode]
    exact if_congr Iff.rfl rfl (if_congr beq_iff_eq rfl rfl)
  case bfi => exact scalarBoth_of_alu 0x10 (fun _ _ => rfl) (fun _ _ => rfl) fun f d a b => ofNat_iBfi d a b
  case popc => exact scalarGives_congr (scalarGives_of_pure fun _ => rfl) fun s => congrArg _ (iPopc_toNat _)
  case clz => exact scalarGives_congr (scalarGives_of_pure fun _ => rfl) fun s => congrArg _ (iClz_toNat _)
  case ctz => exact scalarGives_congr (scalarGives_of_pure fun _ => rfl) fun s => congrArg _ (iCtz_toNat _)
  case mov => exact scalarBoth_of_alu 0x14 (fun _ _ => rfl) (fun _ _ => rfl) fun f d a b => hcode b
  case li =>
    refine scalarGives_congr (scalarGives_of_pure fun _ => rfl) fun s => BitVec.eq_of_toNat_eq ?_
    have h1 := o.e1.isLt
    have h2 := o.e2.isLt
    rw [BitVec.toNat_append, BitVec.toNat_ofNat, Nat.shiftLeft_eq, Nat.mul_comm, ← Nat.two_pow_add_eq_or_of_lt h1]
    omega
  case cmp =>
    refine scalarBoth_of_alu 0x16 (fun _ _ => rfl) (fun _ _ => rfl) fun f d a b => ?_
    simp only [sAlu, hint, BitVec.toNat_inj, apply_ite (BitVec.ofNat 64)]
    rfl
  case sel =>
    refine scalarBoth_of_alu 0x17 (fun _ _ => rfl) (fun _ _ => rfl) fun f d a b => ?_
    simp only [sAlu, apply_ite (BitVec.ofNat 64), hcode]
    exact if_congr (not_congr (BitVec.toNat_inj (y := 0))) rfl rfl
  case lea =>
    refine scalarBoth_of_alu 0x18 (fun _ _ => rfl) (fun _ _ => rfl) fun f d a b => ?_
    have hn : (a.toNat + b.toNat * 2 ^ f : Int) = (a.toNat + b.toNat * 2 ^ f : Nat) := by push_cast; rfl
    simp only [sAlu, ofNat_wrap, hn, BitVec.ofInt_natCast]
    exact BitVec.eq_of_toNat_eq (by simp [Nat.shiftLeft_eq])

end Sys2Proof.Machine

/-! PROOFS. The register pool (03 R72; O14 fails). -/

namespace Sys2Proof.Machine
open Sys2Proof

/-- A claim that the pool cannot serve waits, and the windows of its fragment have closed before (03 R72). -/
theorem exec_vclaim_waits {o : LOp} {s : State} (hw : s.groupWindowsClosed = true) (hc : s.laneCheck (.vclaim o) o = none)
    (hmax : s.grp.vcount + 32 * (o.f.toNat + 1) ≤ 1024) (hpool : s.team.vpool < o.f.toNat + 1) :
    exec (.vclaim o) s = .next s.closeAll.wait := by
  have hg : s.closeAll.grp.vcount = s.grp.vcount := by rw [State.closeAll_frame]
  have ht : s.closeAll.team.vpool = s.team.vpool := by rw [State.closeAll_frame]
  have he : exec (.vclaim o) s = claim (.vclaim o) o 0 s := rfl
  rw [he, claim, laneExec_ok hc, State.afterWindows, if_pos hw]
  dsimp only
  rw [hg, ht, if_neg (Nat.not_lt.2 hmax), if_pos hpool, if_pos rfl]

/-- A fragment whose one window is open, without a fault or an answer to come, in a group of 32 registers with an empty pool. -/
def windowOpen : State := { frag := { valid := true, windows := [{ id := 0, left := 1 }] } }
/-- vclaim #1. -/
def claimOne : LOp := { pn := false, ps := 0, f := 0, la := 0, x := .reg 0, b := 0, a := 0, d := 0 }

/-- Refutes O14: the clause about a claim that waits lets the state be as it was, but the fragment's own windows have closed: here
a window stands before the claim and none after it. -/
theorem not_registerPool : ¬ Obligations.RegisterPool := by
  intro h
  obtain ⟨-, hclaim⟩ := h claimOne windowOpen (by decide)
  obtain ⟨-, hshort, -⟩ := hclaim (.vclaim claimOne) (.inl ⟨rfl, rfl⟩) (by decide)
  have hstated : exec (.vclaim claimOne) windowOpen = .next windowOpen.wait := (hshort (by decide) (by decide)).1 rfl
  have hmodel : exec (.vclaim claimOne) windowOpen = .next windowOpen.closeAll.wait :=
    exec_vclaim_waits (by decide) (by decide) (by decide) (by decide)
  have hstates : windowOpen.closeAll.wait = windowOpen.wait := Host.Outcome.next.inj (hmodel.symm.trans hstated)
  have hwindows : windowOpen.closeAll.wait.frag.windows.length = windowOpen.wait.frag.windows.length :=
    congrArg (fun t : State => t.frag.windows.length) hstates
  exact absurd hwindows (by decide)

end Sys2Proof.Machine

/-! PROOFS. Special registers and counters are read (03 R68, R69; 06 R164, R166; 15 R410; first part of O26). -/

namespace Sys2Proof.Machine
open Sys2Proof

/-! ### Numbers of special registers -/

theorem srWidth_wide (n : Nat) : (srWidth n == some 64) = decide (n ∈ [0x010, 0x013, 0x018, 0x100, 0x10A, 0x10E]) := by
  unfold srWidth
  split <;> simp_all

theorem zeroExtend_ofNat (x : Nat) : (BitVec.ofNat 32 x).zeroExtend 64 = BitVec.ofNat 64 (x % 2 ^ 32) :=
  BitVec.eq_of_toNat_eq (by simp)

/-! ### sysrd (03 R69; 06 R164) -/

section
variable {o : LOp} {n : Nat} (hn : srNumber o.f o.a = n)
include hn

theorem exec_sysrd_lanes {s : State} (h18 : n ≠ 0x018) (hf : bit o.f 3 = false) (hc : s.laneCheck (.sysrd o) o = none) :
    exec (.sysrd o) s = .next ((s.setD o (srWidth n == some 64) fun l => (s.groupReg n l).toNat).retire (Instr.sysrd o).size) := by
  have he : exec (.sysrd o) s = execSysrd o s := rfl
  rw [he, execSysrd, laneExec_ok hc]
  simp only [hn, h18, hf, if_false, Bool.false_eq_true]

theorem laneGives_sysrd (h18 : n ≠ 0x018) (hf : bit o.f 3 = false) :
    LaneGives (.sysrd o) o (srWidth n == some 64) fun s l => (s.groupReg n l).toNat := fun s hc =>
  ⟨_, exec_sysrd_lanes hn h18 hf hc, laneDone_pure s _ (s.enabled o) o.d.toNat _ _⟩

theorem exec_sysrd_group {s : State} (h18 : n ≠ 0x018) (hf : bit o.f 3 = true) (hd : 3 ≤ o.d.toNat) (hc : s.laneCheck (.sysrd o) o = none) :
    ∃ t, exec (.sysrd o) s = .next t ∧ t = { s with grp := { s.grp with g := t.grp.g }, frag := t.frag }
      ∧ Went s t (s.frag.pc + BitVec.ofNat 64 (Instr.sysrd o).size) ∧ SameMemory s t
      ∧ ∀ r, t.rg r = if r = o.d.toNat then (s.groupReg n 0).truncate 32
          else if (srWidth n == some 64) = true ∧ r = o.d.toNat + 1 then (s.groupReg n 0 >>> 32).truncate 32 else s.rg r := by
  have he : exec (.sysrd o) s = .next ((s.writeGVal (srWidth n == some 64) o.d.toNat (s.groupReg n 0).toNat).retire (Instr.sysrd o).size) := by
    have he : exec (.sysrd o) s = execSysrd o s := rfl
    rw [he, execSysrd, laneExec_ok hc]
    simp only [hn, h18, hf, if_false, if_true]
  have hlo : BitVec.ofNat 32 (s.groupReg n 0).toNat = (s.groupReg n 0).truncate 32 := BitVec.ofNat_toNat ..
  have hhi : BitVec.ofNat 32 ((s.groupReg n 0).toNat / 2 ^ 32) = (s.groupReg n 0 >>> 32).truncate 32 := by
    rw [← Nat.shiftRight_eq_div_pow, ← BitVec.toNat_ushiftRight]
    exact BitVec.ofNat_toNat ..
  rw [he, State.writeGVal_high _ _ _ _ hd, hlo, hhi]
  cases srWidth n == some 64
  · refine ⟨_, rfl, rfl, rfl, fun a => ⟨rfl, rfl⟩, fun r => ?_⟩
    show (s.wg o.d.toNat _).rg r = _
    simp only [State.rg_wg _ _ _ _ hd, Bool.false_eq_true, false_and, if_false]
  · refine ⟨_, rfl, rfl, rfl, fun a => ⟨rfl, rfl⟩, fun r => ?_⟩
    show ((s.wg o.d.toNat _).wg (o.d.toNat + 1) _).rg r = _
    rw [State.rg_wg _ _ _ _ (by omega), State.rg_wg _ _ _ _ hd]
    by_cases h : r = o.d.toNat
    · rw [if_pos h, if_pos h, if_neg (by omega)]
    · simp only [h, if_false, true_and]

end

/-! ### CYC (03 R68) -/

/-- The machine after CYC of the core in focus has been read as c. -/
def State.cycRead (s : State) (c : Nat) : State :=
  { s with freeCount := s.freeCount + 1, cores := s.cores.set s.team.core { s.core s.team.core with cyc := BitVec.ofNat 64 c } }

theorem State.core_cycRead (s : State) (c : Nat) :
    (s.cycRead c).core s.team.core = { s.core s.team.core with cyc := BitVec.ofNat 64 c } := Store.get_set_self ..

/-- CYC never falls: it is read as some value from the last one up. -/
theorem State.readCyc_eq (s : State) :
    ∃ c, (s.core s.team.core).cyc.toNat ≤ c ∧ c < 2 ^ 64 ∧ s.readCyc = (s.cycRead c, BitVec.ofNat 64 c) := by
  have h := (s.core s.team.core).cyc.isLt
  have hx := Nat.mod_lt (Config.free 8 s.freeCount).toNat (Nat.sub_pos_of_lt h)
  exact ⟨(s.core s.team.core).cyc.toNat + (Config.free 8 s.freeCount).toNat % (2 ^ 64 - (s.core s.team.core).cyc.toNat),
    Nat.le_add_right .., by omega, rfl⟩

theorem exec_sysrd_cyc {o : LOp} {s : State} (hn : srNumber o.f o.a = 0x018) (hf : bit o.f 3 = false)
    (hc : s.laneCheck (.sysrd o) o = none) :
    ∃ t c, exec (.sysrd o) s = .next t ∧ (s.core s.team.core).cyc.toNat ≤ c ∧ c < 2 ^ 64
      ∧ t.core s.team.core = { s.core s.team.core with cyc := BitVec.ofNat 64 c }
      ∧ LaneDone { s with freeCount := s.freeCount + 1, cores := t.cores } t (Instr.sysrd o).size (s.enabled o) o.d.toNat true (fun _ => c) 0 := by
  obtain ⟨c, hle, hlt, hr⟩ := s.readCyc_eq
  have he : exec (.sysrd o) s = .next (((s.cycRead c).wlanes true o.d.toNat (s.enabled o) fun _ => c).retire (Instr.sysrd o).size) := by
    have he : exec (.sysrd o) s = execSysrd o s := rfl
    have hv : (BitVec.ofNat 64 c).toNat = c := Nat.mod_eq_of_lt hlt
    rw [he, execSysrd, laneExec_ok hc]
    simp only [hn, hr, hf, if_true, if_false, Bool.false_eq_true, hv]
    rfl
  exact ⟨_, c, he, hle, hlt, s.core_cycRead c, laneDone_pure (s.cycRead c) ..⟩

/-! ### ssysrd (03 R69; 06 R166) -/

theorem exec_ssysrd {o : S64} {s : State} {n : Nat} (hs : s.cur.stream = .scalar) (hn : bits o.e1 11 0 = n) (h18 : n ≠ 0x018) :
    ∃ t, exec (.ssysrd o) s = .next t
      ∧ t = { s with team := { s.team with s := t.team.s, spc := s.team.spc + 8, sphase := 0 } }
      ∧ ∀ r, t.rs r = if r = o.w.d.toNat ∧ r ≠ 0 then s.scalarReg n else s.rs r := by
  have he : exec (.ssysrd o) s = .next ((s.ws o.w.d.toNat (s.scalarReg n)).retireScalar 8) := by
    have he : exec (.ssysrd o) s = execSsysrd o s := rfl
    rw [he, execSsysrd]
    simp only [hn, h18, if_false]
  have hr := fun r => State.rs_ws s o.w.d.toNat r (s.scalarReg n)
  rw [State.ws_scalar hs] at he hr
  exact ⟨_, he, rfl, hr⟩

theorem exec_ssysrd_cyc {o : S64} {s : State} (hs : s.cur.stream = .scalar) (hn : bits o.e1 11 0 = 0x018) :
    ∃ t c, exec (.ssysrd o) s = .next t ∧ (s.core s.team.core).cyc.toNat ≤ c ∧ c < 2 ^ 64
      ∧ t.core s.team.core = { s.core s.team.core with cyc := BitVec.ofNat 64 c }
      ∧ t = { s with
          freeCount := s.freeCount + 1, cores := t.cores, team := { s.team with s := t.team.s, spc := s.team.spc + 8, sphase := 0 } }
      ∧ ∀ r, t.rs r = if r = o.w.d.toNat ∧ r ≠ 0 then BitVec.ofNat 64 c else s.rs r := by
  obtain ⟨c, hle, hlt, hcyc⟩ := s.readCyc_eq
  have he : exec (.ssysrd o) s = .next (((s.cycRead c).ws o.w.d.toNat (BitVec.ofNat 64 c)).retireScalar 8) := by
    have he : exec (.ssysrd o) s = execSsysrd o s := rfl
    rw [he, execSsysrd]
    simp only [hn, hcyc, if_true]
  have hr := fun r => State.rs_ws (s.cycRead c) o.w.d.toNat r (BitVec.ofNat 64 c)
  rw [State.ws_scalar (s := s.cycRead c) hs] at he hr
  exact ⟨_, c, he, hle, hlt, s.core_cycRead c, rfl, hr⟩

/-! ### ctrrd (15 R410) -/

theorem State.openWindow_places (s : State) (la size waiting : Nat) (ws : List (Nat × Mask × LaneVec)) (flags : W32) :
    (s.openWindow la size waiting ws flags).cores = s.cores ∧ (s.openWindow la size waiting ws flags).clusters = s.clusters := by
  unfold State.openWindow
  dsimp only
  split
  · rw [State.writeWindow_frame]
    exact ⟨rfl, rfl⟩
  · exact ⟨rfl, rfl⟩

/-- The machine after core counter k of the core in focus has taken the value x. -/
def State.pcSettled (s : State) (k x : Nat) : State :=
  { s with freeCount := s.freeCount + 1,
           cores := s.cores.set s.team.core { s.core s.team.core with pmc := (s.core s.team.core).pmc.set k x } }
/-- The same for a counter of its cluster. -/
def State.ccSettled (s : State) (k x : Nat) : State :=
  { s with freeCount := s.freeCount + 1,
           clusters := s.clusters.set (clusterOfCore s.team.core)
             { s.cluster (clusterOfCore s.team.core) with ccs := (s.cluster (clusterOfCore s.team.core)).ccs.set k x } }

section
variable {s : State} {k : Nat}

theorem State.settlePc_seen (h : ¬((s.vf s.team.vf).pmEn = true ∧ (s.vf s.team.vf).pmEv.get 0 k ∈ unseenCore)) :
    s.settlePc s.team.vf s.team.core k = s := by
  rw [State.settlePc, if_neg (by simpa using h)]

theorem State.settleCc_seen (h : ¬((s.vf s.team.vf).pmEn = true ∧ (s.vf s.team.vf).pmCev.get 0 k ∈ unseenCluster)) :
    s.settleCc s.team.vf (clusterOfCore s.team.core) k = s := by
  rw [State.settleCc, if_neg (by simpa using h)]

theorem State.settlePc_unseen (h : (s.vf s.team.vf).pmEn = true ∧ (s.vf s.team.vf).pmEv.get 0 k ∈ unseenCore) :
    ∃ x < 2 ^ 48, s.settlePc s.team.vf s.team.core k = s.pcSettled k x :=
  ⟨_, Nat.mod_lt _ (by decide), by rw [State.settlePc, if_pos (by simpa using h)]; rfl⟩

theorem State.settleCc_unseen (h : (s.vf s.team.vf).pmEn = true ∧ (s.vf s.team.vf).pmCev.get 0 k ∈ unseenCluster) :
    ∃ x < 2 ^ 48, s.settleCc s.team.vf (clusterOfCore s.team.core) k = s.ccSettled k x :=
  ⟨_, Nat.mod_lt _ (by decide), by rw [State.settleCc, if_pos (by simpa using h)]; rfl⟩

theorem State.core_pcSettled (s : State) (k x : Nat) :
    (s.pcSettled k x).core s.team.core = { s.core s.team.core with pmc := (s.core s.team.core).pmc.set k x } := Store.get_set_self ..

theorem State.cluster_ccSettled (s : State) (k x : Nat) :
    (s.ccSettled k x).cluster (clusterOfCore s.team.core) =
      { s.cluster (clusterOfCore s.team.core) with ccs := (s.cluster (clusterOfCore s.team.core)).ccs.set k x } := Store.get_set_self ..

theorem State.counter_pcSettled {x : Nat} (h : x < 2 ^ 48) : ((s.pcSettled k x).counter 0 k).toNat = x := by
  have hv : (s.pcSettled k x).counter 0 k = BitVec.ofNat 64 (((s.pcSettled k x).core s.team.core).pmc.get 0 k) := rfl
  rw [hv, State.core_pcSettled, Store.get_set_self]
  exact Nat.mod_eq_of_lt (by omega)

theorem State.counter_ccSettled {x : Nat} (h : x < 2 ^ 48) : ((s.ccSettled k x).counter 1 k).toNat = x := by
  have hv : (s.ccSettled k x).counter 1 k = BitVec.ofNat 64 (((s.ccSettled k x).cluster (clusterOfCore s.team.core)).ccs.get 0 k) := rfl
  rw [hv, State.cluster_ccSettled, Store.get_set_self]
  exact Nat.mod_eq_of_lt (by omega)

end

/-- The machine once the counter that ctrrd names holds what its event has added. -/
def State.counterSettled (s : State) (kind index : Nat) : State :=
  match kind with
  | 0 => s.settlePc s.team.vf s.team.core index
  | 1 => s.settleCc s.team.vf (clusterOfCore s.team.core) index
  | _ => s

section
variable {o : LOp} {s : State} (hc : s.laneCheck (.ctrrd o) o = none) (hb : s.bufferFull = false)
include hc hb

/-- ctrrd issues with the value that its counter has once what no turn stands for is settled. -/
theorem exec_ctrrd_counter {kind index : Nat} {u : State} (hk : bits o.imm 7 4 = kind) (hi : bits o.imm 3 0 = index)
    (h : ¬(kind = 2 ∧ index = 0)) (hu : s.counterSettled kind index = u) :
    exec (.ctrrd o) s =
      .next (u.openWindow o.la.toNat 12 0 (resultOf o.d.toNat (u.enabled o) true fun _ => (u.counter kind index).toNat) 0) := by
  subst hk hi hu
  have he : exec (.ctrrd o) s = execCtrrd o s := rfl
  rw [he, execCtrrd, longExec, laneExec_ok hc, hb]
  dsimp only
  rw [if_neg h, if_neg Bool.false_ne_true]
  rfl

/-- A counter whose value stands in the state. -/
theorem ctrrd_gives {kind index x : Nat} (hk : bits o.imm 7 4 = kind) (hi : bits o.imm 3 0 = index)
    (h : ¬(kind = 2 ∧ index = 0)) (hs : s.counterSettled kind index = s) (hx : (s.counter kind index).toNat = x % 2 ^ 64) :
    ∃ t, exec (.ctrrd o) s = .next t ∧ LongIssued s t o.la.toNat 12 0 (resultOf o.d.toNat (s.enabled o) true fun _ => x % 2 ^ 64) 0 := by
  have he := exec_ctrrd_counter hc hb hk hi h hs
  rw [hx] at he
  exact ⟨_, he, longIssued_openWindow ..⟩

/-- A core counter of an event that no turn stands for. -/
theorem ctrrd_unseen_core {index : Nat} (hk : bits o.imm 7 4 = 0) (hi : bits o.imm 3 0 = index)
    (hu : (s.vf s.team.vf).pmEn = true ∧ (s.vf s.team.vf).pmEv.get 0 index ∈ unseenCore) :
    ∃ t x, exec (.ctrrd o) s = .next t ∧ x < 2 ^ 48
      ∧ t.core s.team.core = { s.core s.team.core with pmc := (s.core s.team.core).pmc.set index x }
      ∧ LongIssued { s with freeCount := s.freeCount + 1, cores := t.cores } t o.la.toNat 12 0
          (resultOf o.d.toNat (s.enabled o) true fun _ => x) 0 := by
  obtain ⟨x, hlt, hset⟩ := State.settlePc_unseen hu
  have he := exec_ctrrd_counter hc hb hk hi (fun h => absurd h.1 (by decide)) hset
  rw [State.counter_pcSettled hlt] at he
  have hp := ((s.pcSettled index x).openWindow_places o.la.toNat 12 0 (resultOf o.d.toNat ((s.pcSettled index x).enabled o) true fun _ => x) 0).1
  refine ⟨_, x, he, hlt, ?_, ?_⟩
  · rw [State.core, hp]
    exact s.core_pcSettled index x
  · rw [hp]
    exact longIssued_openWindow (s.pcSettled index x) ..

/-- A cluster counter of an event that no turn stands for. -/
theorem ctrrd_unseen_cluster {index : Nat} (hk : bits o.imm 7 4 = 1) (hi : bits o.imm 3 0 = index)
    (hu : (s.vf s.team.vf).pmEn = true ∧ (s.vf s.team.vf).pmCev.get 0 index ∈ unseenCluster) :
    ∃ t x, exec (.ctrrd o) s = .next t ∧ x < 2 ^ 48
      ∧ t.cluster (clusterOfCore s.team.core) =
          { s.cluster (clusterOfCore s.team.core) with ccs := (s.cluster (clusterOfCore s.team.core)).ccs.set index x }
      ∧ LongIssued { s with freeCount := s.freeCount + 1, clusters := t.clusters } t o.la.toNat 12 0
          (resultOf o.d.toNat (s.enabled o) true fun _ => x) 0 := by
  obtain ⟨x, hlt, hset⟩ := State.settleCc_unseen hu
  have he := exec_ctrrd_counter hc hb hk hi (fun h => absurd h.1 (by decide)) hset
  rw [State.counter_ccSettled hlt] at he
  have hp := ((s.ccSettled index x).openWindow_places o.la.toNat 12 0 (resultOf o.d.toNat ((s.ccSettled index x).enabled o) true fun _ => x) 0).2
  refine ⟨_, x, he, hlt, ?_, ?_⟩
  · rw [State.cluster, hp]
    exact s.cluster_ccSettled index x
  · rw [hp]
    exact longIssued_openWindow (s.ccSettled index x) ..

/-- CYC, read through ctrrd. -/
theorem ctrrd_cyc (hk : bits o.imm 7 4 = 2) (hi : bits o.imm 3 0 = 0) :
    ∃ t x, exec (.ctrrd o) s = .next t ∧ (s.core s.team.core).cyc.toNat ≤ x ∧ x < 2 ^ 64
      ∧ t.core s.team.core = { s.core s.team.core with cyc := BitVec.ofNat 64 x }
      ∧ LongIssued { s with freeCount := s.freeCount + 1, cores := t.cores } t o.la.toNat 12 0
          (resultOf o.d.toNat (s.enabled o) true fun _ => x) 0 := by
  obtain ⟨x, hle, hlt, hcyc⟩ := s.readCyc_eq
  have hv : (BitVec.ofNat 64 x).toNat = x := Nat.mod_eq_of_lt hlt
  have he : exec (.ctrrd o) s =
      .next ((s.cycRead x).openWindow o.la.toNat 12 0 (resultOf o.d.toNat (s.enabled o) true fun _ => x) 0) := by
    have he : exec (.ctrrd o) s = execCtrrd o s := rfl
    rw [he, execCtrrd, longExec, laneExec_ok hc, hb]
    dsimp only
    rw [if_neg Bool.false_ne_true, hk, hi, if_pos (And.intro rfl rfl)]
    show Host.Outcome.next (s.readCyc.1.openWindow o.la.toNat 12 0
      (resultOf o.d.toNat (s.readCyc.1.enabled o) true fun _ => s.readCyc.2.toNat) 0) = _
    rw [hcyc, hv]
    rfl
  have hp := ((s.cycRead x).openWindow_places o.la.toNat 12 0 (resultOf o.d.toNat (s.enabled o) true fun _ => x) 0).1
  refine ⟨_, x, he, hle, hlt, ?_, ?_⟩
  · rw [State.core, hp]
    exact s.core_cycRead x
  · rw [hp]
    exact longIssued_openWindow (s.cycRead x) ..

end

end Sys2Proof.Machine

/-! PROOFS. Special registers are written and performance levels requested (03 R69; 06 R164, R166; 15 R406, R407; second part of O26). -/

namespace Sys2Proof.Machine
open Sys2Proof

/-! ### syswr and ssyswr -/

theorem State.wentOnly_retire (s : State) (size : Nat) : WentOnly s (s.retire size) (s.frag.pc + BitVec.ofNat 64 size) :=
  ⟨rfl, rfl, fun _ => ⟨rfl, rfl⟩⟩

theorem State.frag_writeGroupReg (s : State) (n : Nat) (x : W64) : (s.writeGroupReg n x).frag = s.frag := by
  unfold State.writeGroupReg
  split <;> rfl

/-- The writable registers of 64 bits. -/
theorem srWidth_writable {n : Nat} (h : n ∈ [0x008, 0x010, 0x012, 0x013, 0x014, 0x102]) :
    (srWidth n == some 64) = decide (n ∈ [0x010, 0x013]) := by
  revert n
  simp only [List.forall_mem_cons]
  exact ⟨rfl, rfl, rfl, rfl, rfl, rfl, fun _ h => absurd h List.not_mem_nil⟩

section
variable {o : LOp} {s : State} (hc : s.laneCheck (.syswr o) o = none)
include hc

theorem exec_syswr_none (hm : s.enabled o = 0) : exec (.syswr o) s = .next (s.retire (Instr.syswr o).size) := by
  have he : exec (.syswr o) s = execSyswr o s := rfl
  have hl : (lanesOf (s.enabled o)).head? = none := by rw [hm]; decide
  rw [he, execSyswr, laneExec_ok hc]
  dsimp only
  rw [hl]

theorem exec_syswr_lane {n l : Nat} {ls : List Nat} (hn : bits o.f 1 0 * 1024 + o.d.toNat = n) (hm : lanesOf (s.enabled o) = l :: ls) :
    exec (.syswr o) s = .next ((s.writeGroupReg n (BitVec.ofNat 64
      (if o.isLit then o.imm.toNat else if bit o.f 3 then s.gVal (srWidth n == some 64) o.a.toNat
        else s.laneVal (srWidth n == some 64) o.a.toNat l))).retire (Instr.syswr o).size) := by
  subst hn
  have he : exec (.syswr o) s = execSyswr o s := rfl
  rw [he, execSyswr, laneExec_ok hc]
  dsimp only
  rw [hm]
  rfl

end

/-! ### Performance levels (15 R406, R407) -/

/-- The requests of the live teams of core k. -/
def State.requestsOn (s : State) (k : Nat) : List Nat :=
  (s.flush.teams.filter fun (p : Nat × Team) => p.2.live && p.2.core == k).map fun (p : Nat × Team) => p.2.perfReq

theorem le_foldl_max {l : List Nat} {x : Nat} (h : x ∈ l) : x ≤ l.foldl max 0 := by
  have hm : (0 :: l).max? = some (l.foldl max 0) := List.max?_cons'
  exact (List.max?_le_iff hm).1 le_rfl x (List.mem_cons_of_mem _ h)

theorem Store.mem_set {α : Type} (m : Store α) (i : Nat) (x : α) : (i, x) ∈ m.set i x := by
  induction m with
  | nil => exact List.mem_singleton_self _
  | cons p m ih =>
    unfold Store.set
    split
    · exact List.mem_cons_self
    · split
      · exact List.mem_cons_self
      · exact List.mem_cons_of_mem _ ih

/-- A choice and a view of the entries that do not tell two values of a key apart see the same list. -/
theorem Store.map_filter_set {α β : Type} (c : Nat × α → Bool) (f : Nat × α → β) {i : Nat} {x y : α}
    (hc : c (i, x) = c (i, y)) (hf : f (i, x) = f (i, y)) (m : Store α) :
    ((m.set i x).filter c).map f = ((m.set i y).filter c).map f := by
  have hcons : ∀ l : List (Nat × α), (((i, x) :: l).filter c).map f = (((i, y) :: l).filter c).map f := fun l => by
    rw [List.filter_cons, List.filter_cons, hc]
    split
    · rw [List.map_cons, List.map_cons, hf]
    · rfl
  induction m with
  | nil => exact hcons []
  | cons p m ih =>
    unfold Store.set
    split
    · exact hcons _
    · split
      · exact hcons _
      · rw [List.filter_cons, List.filter_cons]
        split
        · rw [List.map_cons, List.map_cons, ih]
        · exact ih

section
variable {s : State} (hs : s.cur.stream = .lane ∨ s.cur.stream = .scalar)
include hs

/-- The team in focus stands among the teams but for its groups. -/
theorem State.flush_teams_focus : ∃ gs, s.flush.teams = s.teams.set s.cur.uid { s.team with groups := gs } := by
  unfold State.flush
  rcases hs with h | h
  · rw [h]
    exact ⟨_, rfl⟩
  · rw [h]
    exact ⟨_, rfl⟩

theorem State.requestsOn_eq (k : Nat) :
    s.requestsOn k = ((s.teams.set s.cur.uid s.team).filter fun p => p.2.live && p.2.core == k).map fun p => p.2.perfReq := by
  obtain ⟨gs, hgs⟩ := State.flush_teams_focus hs
  rw [State.requestsOn, hgs]
  exact Store.map_filter_set _ _ (by rfl) (by rfl) _

theorem State.requestsOn_congr {t : State} (hcur : t.cur = s.cur) (hteams : t.teams = s.teams) (hlive : t.team.live = s.team.live)
    (hcore : t.team.core = s.team.core) (hreq : t.team.perfReq = s.team.perfReq) (k : Nat) : t.requestsOn k = s.requestsOn k := by
  rw [State.requestsOn_eq hs, State.requestsOn_eq (hcur ▸ hs), hcur, hteams]
  exact Store.map_filter_set _ _ (by simp only [hlive, hcore]) hreq _

theorem State.perfReq_mem_requestsOn (hl : s.team.live = true) : s.team.perfReq ∈ s.requestsOn s.team.core := by
  rw [State.requestsOn_eq hs]
  exact List.mem_map.2 ⟨_, List.mem_filter.2 ⟨Store.mem_set s.teams s.cur.uid s.team, by simp [hl]⟩, rfl⟩

end

/-- GRANT and EFF of a core with requests. -/
theorem State.resolveGrant_eq {s : State} {k : Nat} (h : s.requestsOn k ≠ []) :
    s.resolveGrant k = s.onCore k fun c =>
      { c with grant := (s.requestsOn k).foldl max 0, eff := min c.eff ((s.requestsOn k).foldl max 0) } :=
  if_neg h

/-- The machine with the request r of the team in focus, before the core follows it. -/
def State.asking (s : State) (r : Nat) : State := { s with team := { s.team with perfReq := r } }

/-- What a machine t keeps of the request r that s has made: the team asks r, and its core holds the highest request of its live teams. -/
def Requested (s t : State) (r : Nat) : Prop :=
  t.team.perfReq = r ∧ (∀ k, k ≠ s.team.core → t.core k = s.core k)
  ∧ (∀ p ∈ t.flush.teams, p.2.live = true → p.2.core = s.team.core → p.2.perfReq ≤ (t.core s.team.core).grant)
  ∧ (∃ p ∈ t.flush.teams, p.2.live = true ∧ p.2.core = s.team.core ∧ p.2.perfReq = (t.core s.team.core).grant)
  ∧ t.core s.team.core = { s.core s.team.core with
      grant := (t.core s.team.core).grant, eff := min (s.core s.team.core).eff (t.core s.team.core).grant }

theorem mem_requestsOn {s : State} {k x : Nat} :
    x ∈ s.requestsOn k ↔ ∃ p ∈ s.flush.teams, p.2.live = true ∧ p.2.core = k ∧ p.2.perfReq = x := by
  simp only [State.requestsOn, List.mem_map, List.mem_filter, Bool.and_eq_true, beq_iff_eq, and_assoc]

/-- The request is made once the core follows it, and stays made where only the program counter goes on. -/
theorem requested_of_resolveGrant {s t : State} {r : Nat} (hs : s.cur.stream = .lane ∨ s.cur.stream = .scalar)
    (hl : s.team.live = true) (hcur : t.cur = s.cur) (hteams : t.teams = s.teams) (hlive : t.team.live = s.team.live)
    (hcore : t.team.core = s.team.core) (hreq : t.team.perfReq = r)
    (hcores : t.cores = ((s.asking r).resolveGrant s.team.core).cores) : Requested s t r := by
  have hlist : t.requestsOn s.team.core = (s.asking r).requestsOn s.team.core :=
    State.requestsOn_congr (s := s.asking r) hs hcur hteams hlive hcore hreq _
  have hne : (s.asking r).requestsOn s.team.core ≠ [] :=
    List.ne_nil_of_mem (State.perfReq_mem_requestsOn (s := s.asking r) hs hl)
  have hat : ∀ k, t.core k = ((s.asking r).resolveGrant s.team.core).core k := fun k => by rw [State.core, hcores]; rfl
  rw [State.resolveGrant_eq hne, ← hlist] at hat
  have hself : t.core s.team.core = { s.core s.team.core with
      grant := (t.requestsOn s.team.core).foldl max 0
      eff := min (s.core s.team.core).eff ((t.requestsOn s.team.core).foldl max 0) } := by
    rw [hat, State.core_onCore, if_pos rfl]
    rfl
  have hgrant : (t.core s.team.core).grant = (t.requestsOn s.team.core).foldl max 0 := by rw [hself]
  refine ⟨hreq, fun k hk => ?_, fun p hp hpl hpc => ?_, ?_, ?_⟩
  · rw [hat, State.core_onCore, if_neg hk]
    rfl
  · rw [hgrant]
    exact le_foldl_max (mem_requestsOn.2 ⟨p, hp, hpl, hpc, rfl⟩)
  · rw [hgrant]
    exact mem_requestsOn.1 (foldl_max_mem (hlist ▸ hne))
  · rw [hgrant]
    exact hself

section
variable {o : LOp} {s : State} (hc : s.laneCheck (.setperf o) o = none)
include hc

theorem exec_setperf_none (hm : s.enabled o = 0) : exec (.setperf o) s = .next (s.retire (Instr.setperf o).size) := by
  have he : exec (.setperf o) s = execSetperf o s := rfl
  have hl : (lanesOf (s.enabled o)).head? = none := by rw [hm]; decide
  rw [he, execSetperf, laneExec_ok hc]
  dsimp only
  rw [hl]

theorem exec_setperf_lane {l : Nat} {ls : List Nat} (hm : lanesOf (s.enabled o) = l :: ls) :
    exec (.setperf o) s = .next ((s.setPerf
      (if o.isLit then bits o.imm 3 0 else (s.lane o.a.toNat l).toNat % 16)).retire (Instr.setperf o).size) := by
  have he : exec (.setperf o) s = execSetperf o s := rfl
  rw [he, execSetperf, laneExec_ok hc]
  dsimp only
  rw [hm]
  rfl

end

/-- A request clamped to the VF's range. -/
def State.clamped (s : State) (v : Nat) : Nat := min (max v (s.vf s.team.vf).perfMin) (s.vf s.team.vf).perfMax

theorem State.setPerf_frame (s : State) (v : Nat) :
    s.setPerf v = { s with
      team := { s.team with perfReq := s.clamped v }, cores := ((s.asking (s.clamped v)).resolveGrant s.team.core).cores } :=
  (s.asking (s.clamped v)).resolveGrant_frame s.team.core

theorem requested_setPerf_retire {s : State} (hs : s.cur.stream = .lane) (hl : s.team.live = true) (v size : Nat) :
    Requested s ((s.setPerf v).retire size) (s.clamped v)
    ∧ WentOnly { s with
        team := { s.team with perfReq := ((s.setPerf v).retire size).team.perfReq }, cores := ((s.setPerf v).retire size).cores }
        ((s.setPerf v).retire size) (s.frag.pc + BitVec.ofNat 64 size) := by
  rw [State.setPerf_frame]
  exact ⟨requested_of_resolveGrant (.inl hs) hl rfl rfl rfl rfl rfl rfl, State.wentOnly_retire ..⟩

theorem requested_setPerf_retireScalar {s : State} (hs : s.cur.stream = .scalar) (hl : s.team.live = true) (v : Nat) :
    Requested s ((s.setPerf v).retireScalar 4) (s.clamped v)
    ∧ (s.setPerf v).retireScalar 4 = { s with
        cores := ((s.setPerf v).retireScalar 4).cores
        team := { s.team with perfReq := ((s.setPerf v).retireScalar 4).team.perfReq, spc := s.team.spc + 4, sphase := 0 } } := by
  rw [State.setPerf_frame]
  exact ⟨requested_of_resolveGrant (.inr hs) hl rfl rfl rfl rfl rfl rfl, rfl⟩

end Sys2Proof.Machine

/-! PROOFS. Special registers, counters and performance levels, assembled (O26). -/

namespace Sys2Proof.Machine
open Sys2Proof

/-! ### The registers by number (03 R68) -/

/-- The registers that a group and the scalar stream read alike. -/
def teamRegs : List (Nat × (State → W64)) :=
  let w (x : W32) : W64 := x.zeroExtend 64
  [(0x001, fun s => BitVec.ofNat 64 s.team.index), (0x100, fun s => s.team.mbnd), (0x102, fun s => w s.team.mstat),
   (0x104, fun s => w (s.team.mprog.get 0 0)), (0x105, fun s => w (s.team.mprog.get 0 1)),
   (0x106, fun s => w (s.team.mprog.get 0 2)), (0x107, fun s => w (s.team.mprog.get 0 3)),
   (0x108, fun s => BitVec.ofNat 64 (((s.vf s.team.vf).perfMax * 2 ^ 20 + (s.vf s.team.vf).perfMin * 2 ^ 16
      + (s.core s.team.core).eff * 2 ^ 12 + (s.core s.team.core).grant * 2 ^ 8 + s.team.perfReq) % 2 ^ 32)),
   (0x10A, fun s => BitVec.ofNat 64 (s.ringRev.toNat * 2 ^ 32 + (s.vf s.team.vf).quota * 2 ^ 16 + (s.vf s.team.vf).ringHeld)),
   (0x10C, fun s => BitVec.ofNat 64 s.team.vpool),
   (0x10E, fun s => BitVec.ofNat 64 (s.team.core / 192 * 2 ^ 38 + s.team.core / 24 % 8 * 2 ^ 35 + s.team.core % 24 * 2 ^ 30 + s.team.winBase)),
   (0x200, fun s => BitVec.ofNat 64 s.team.core), (0x201, fun s => BitVec.ofNat 64 (s.team.core / 24)),
   (0x202, fun s => BitVec.ofNat 64 (s.team.core / 192)), (0x204, fun s => w (s.feat0 s.team.core)),
   (0x205, fun _ => 0), (0x206, fun _ => 0), (0x207, fun _ => 0), (0x208, fun s => w (s.health s.team.core))]

/-- The registers of a group. -/
def groupRegs : List (Nat × (State → Nat → W64)) :=
  let w (x : W32) : W64 := x.zeroExtend 64
  teamRegs.map (fun p => (p.1, fun s _ => p.2 s)) ++
  [(0x000, fun s _ => BitVec.ofNat 64 s.grp.gid),
   (0x002, fun s _ => BitVec.ofNat 64 ((s.team.index * s.team.hdr.groups + s.grp.gid) * 96 % 2 ^ 32)),
   (0x003, fun s _ => BitVec.ofNat 64 s.grp.role), (0x004, fun s _ => w (maskWord s.grp.helper 0)),
   (0x005, fun s _ => w (maskWord s.grp.helper 1)), (0x006, fun s _ => w (maskWord s.grp.helper 2)),
   (0x007, fun _ l => BitVec.ofNat 64 l), (0x008, fun s _ => w s.grp.fpctl), (0x010, fun s _ => s.grp.tpc),
   (0x012, fun s _ => w s.grp.tcause), (0x013, fun s _ => s.grp.tval), (0x014, fun s _ => w s.grp.tstat),
   (0x01A, fun s _ => w (dqstat s.team s.grp)), (0x01B, fun s _ => BitVec.ofNat 64 s.grp.vcount)]

/-- The registers of the scalar stream. -/
def scalarRegs : List (Nat × (State → W64)) :=
  let w (x : W32) : W64 := x.zeroExtend 64
  teamRegs ++ [(0x008, fun s => w s.team.sFpctl), (0x010, fun s => s.team.sTpc), (0x012, fun s => w s.team.sTcause),
   (0x013, fun s => s.team.sTval), (0x014, fun s => w s.team.sTstat)]

theorem teamReg_perflvl (s : State) : s.teamReg 0x108 =
    BitVec.ofNat 64 (((s.vf s.team.vf).perfMax * 2 ^ 20 + (s.vf s.team.vf).perfMin * 2 ^ 16
      + (s.core s.team.core).eff * 2 ^ 12 + (s.core s.team.core).grant * 2 ^ 8 + s.team.perfReq) % 2 ^ 32) :=
  zeroExtend_ofNat _

theorem groupReg_teamRegs : ∀ p ∈ teamRegs, ∀ s : State, ∀ l, s.groupReg p.1 l = p.2 s := by
  simp only [teamRegs, List.forall_mem_cons]
  exact ⟨fun _ _ => rfl, fun _ _ => rfl, fun _ _ => rfl, fun _ _ => rfl, fun _ _ => rfl, fun _ _ => rfl, fun _ _ => rfl,
    fun s _ => teamReg_perflvl s, fun _ _ => rfl, fun _ _ => rfl, fun _ _ => rfl, fun _ _ => rfl, fun _ _ => rfl, fun _ _ => rfl,
    fun _ _ => rfl, fun _ _ => rfl, fun _ _ => rfl, fun _ _ => rfl, fun _ _ => rfl, fun _ h => absurd h List.not_mem_nil⟩

theorem scalarReg_teamRegs : ∀ p ∈ teamRegs, ∀ s : State, s.scalarReg p.1 = p.2 s := by
  simp only [teamRegs, List.forall_mem_cons]
  exact ⟨fun _ => rfl, fun _ => rfl, fun _ => rfl, fun _ => rfl, fun _ => rfl, fun _ => rfl, fun _ => rfl,
    teamReg_perflvl, fun _ => rfl, fun _ => rfl, fun _ => rfl, fun _ => rfl, fun _ => rfl, fun _ => rfl,
    fun _ => rfl, fun _ => rfl, fun _ => rfl, fun _ => rfl, fun _ => rfl, fun _ h => absurd h List.not_mem_nil⟩

theorem groupReg_of_mem : ∀ p ∈ groupRegs, ∀ s : State, ∀ l, s.groupReg p.1 l = p.2 s l := by
  simp only [groupRegs, List.forall_mem_append, List.forall_mem_map, List.forall_mem_cons]
  exact ⟨groupReg_teamRegs, fun _ _ => rfl, fun _ _ => rfl, fun _ _ => rfl, fun _ _ => rfl, fun _ _ => rfl, fun _ _ => rfl,
    fun _ _ => rfl, fun _ _ => rfl, fun _ _ => rfl, fun _ _ => rfl, fun _ _ => rfl, fun _ _ => rfl, fun _ _ => rfl,
    fun _ _ => rfl, fun _ h => absurd h List.not_mem_nil⟩

theorem scalarReg_of_mem : ∀ p ∈ scalarRegs, ∀ s : State, s.scalarReg p.1 = p.2 s := by
  simp only [scalarRegs, List.forall_mem_append, List.forall_mem_cons]
  exact ⟨scalarReg_teamRegs, fun _ => rfl, fun _ => rfl, fun _ => rfl, fun _ => rfl, fun _ => rfl, fun _ h => absurd h List.not_mem_nil⟩

theorem map_fst_groupRegs : groupRegs.map Prod.fst = [0x001, 0x100, 0x102, 0x104, 0x105, 0x106, 0x107, 0x108, 0x10A, 0x10C, 0x10E,
    0x200, 0x201, 0x202, 0x204, 0x205, 0x206, 0x207, 0x208, 0x000, 0x002, 0x003, 0x004, 0x005, 0x006, 0x007, 0x008, 0x010, 0x012,
    0x013, 0x014, 0x01A, 0x01B] := rfl

theorem map_fst_scalarRegs : scalarRegs.map Prod.fst = [0x001, 0x100, 0x102, 0x104, 0x105, 0x106, 0x107, 0x108, 0x10A, 0x10C, 0x10E,
    0x200, 0x201, 0x202, 0x204, 0x205, 0x206, 0x207, 0x208, 0x008, 0x010, 0x012, 0x013, 0x014] := rfl

/-- CYC has clauses of its own. -/
theorem groupRegs_ne_cyc {p : Nat × (State → Nat → W64)} (h : p ∈ groupRegs) : p.1 ≠ 0x018 := fun he =>
  absurd (he ▸ List.mem_map_of_mem h : 0x018 ∈ groupRegs.map Prod.fst) (by rw [map_fst_groupRegs]; decide)

theorem scalarRegs_ne_cyc {p : Nat × (State → W64)} (h : p ∈ scalarRegs) : p.1 ≠ 0x018 := fun he =>
  absurd (he ▸ List.mem_map_of_mem h : 0x018 ∈ scalarRegs.map Prod.fst) (by rw [map_fst_scalarRegs]; decide)

theorem srWidth_of_ne_cyc {n : Nat} (h : n ≠ 0x018) : (srWidth n == some 64) = decide (n ∈ [0x010, 0x013, 0x100, 0x10A, 0x10E]) := by
  rw [srWidth_wide]
  simp [h]

/-- Settles O26: register by register for the reads, counter by counter for ctrrd; setperf and ssetperf by the list of the requests of
a core, which their write of the team in focus alone changes. -/
theorem specialRegisterAccesses : Obligations.SpecialRegisterAccesses := by
  unfold Obligations.SpecialRegisterAccesses
  refine ⟨?_, ?_⟩
  · intro w both group scalar name wide
    have hwide : ∀ p ∈ groupRegs, (srWidth p.1 == some 64) = wide p.1 := fun p hp => srWidth_of_ne_cyc (groupRegs_ne_cyc hp)
    refine ⟨fun o p hp hn hf => ?_, fun o s p hp hn hf hd hc => ?_, fun o s hn hf hc => exec_sysrd_cyc hn hf hc,
      fun o s hs p hp hn => ?_, fun o s hs hn => exec_ssysrd_cyc hs hn, ?_⟩
    · have h := laneGives_sysrd hn (groupRegs_ne_cyc hp) hf
      simp only [groupReg_of_mem p hp, hwide p hp] at h
      exact h
    · have h := exec_sysrd_group hn (groupRegs_ne_cyc hp) hf hd hc
      simp only [groupReg_of_mem p hp, hwide p hp] at h
      exact h
    · have h := exec_ssysrd hs hn (scalarRegs_ne_cyc hp)
      simp only [scalarReg_of_mem p hp] at h
      exact h
    · intro o s hc hb kind index c cl gives on event cevent unseen cunseen
      have hpc : ¬unseen → s.counterSettled 0 index = s := fun h => State.settlePc_seen h
      have hcc : ¬cunseen → s.counterSettled 1 index = s := fun h =>
        State.settleCc_seen fun hu => h ⟨hu.1, List.mem_singleton.1 hu.2⟩
      have hx : ∀ x, (BitVec.ofNat 64 x).toNat = x % 2 ^ 64 := fun x => BitVec.toNat_ofNat x 64
      have hg := fun k i x => ctrrd_gives (x := x) (kind := k) (index := i) hc hb
      refine ⟨fun hk hu => hg 0 index _ hk rfl (fun h => absurd h.1 (by decide)) (hpc hu) (hx _),
        fun hk hu => hg 1 index _ hk rfl (fun h => absurd h.1 (by decide)) (hcc hu) (hx _),
        fun hk hu => ctrrd_unseen_core hc hb hk rfl hu,
        fun hk hu => ctrrd_unseen_cluster hc hb hk rfl ⟨hu.1, List.mem_singleton.2 hu.2⟩,
        fun hk hi => hg 2 1 _ hk hi (by decide) rfl (hx _), fun hk hi => hg 2 2 _ hk hi (by decide) rfl (hx _),
        fun hk hi => hg 2 3 _ hk hi (by decide) rfl (hx _), fun hk hi => hg 3 0 _ hk hi (by decide) rfl (hx _),
        fun hk hi => hg 3 1 _ hk hi (by decide) rfl (hx _), fun hk hi => hg 3 2 _ hk hi (by decide) rfl ?_,
        fun hk hi => hg 3 3 _ hk hi (by decide) rfl (hx _), fun hk hi => hg 4 0 _ hk hi (by decide) rfl (hx _),
        fun hk hi => hg 4 index _ hk rfl (fun h => absurd h.1 (by decide)) rfl ?_,
        fun hk hi => ctrrd_cyc hc hb hk hi⟩
      · exact (Nat.mod_eq_of_lt (BitVec.isLt _)).symm
      · have hv : s.counter 4 index = (s.dieErrors.get 0 (4 * (s.team.core / 192) + index)).zeroExtend 64 := if_neg (by omega)
        rw [hv]
        exact BitVec.toNat_setWidth ..
  · intro tstat low group scalar writable clamp requested
    have hgroup : ∀ n ∈ writable, ∀ (s : State) x, s.writeGroupReg n x = group n s x := by
      simp only [writable, List.forall_mem_cons]
      exact ⟨fun _ _ => rfl, fun _ _ => rfl, fun _ _ => rfl, fun _ _ => rfl, fun _ _ => rfl, fun _ _ => rfl, fun _ h => absurd h List.not_mem_nil⟩
    have hscalar : ∀ n ∈ writable, ∀ (s : State) x,
        (s.writeScalarReg n x).retireScalar 8 =
          { scalar n s x with team := { (scalar n s x).team with spc := s.team.spc + 8, sphase := 0 } } := by
      simp only [writable, List.forall_mem_cons]
      exact ⟨fun _ _ => rfl, fun _ _ => rfl, fun _ _ => rfl, fun _ _ => rfl, fun _ _ => rfl, fun _ _ => rfl, fun _ h => absurd h List.not_mem_nil⟩
    refine ⟨?_, fun o s hs hn => congrArg Host.Outcome.next (hscalar _ hn s _), ?_, fun w s hs hl => ?_⟩
    · intro o s hc n size hn
      refine ⟨fun hm => ⟨_, exec_syswr_none hc hm, State.wentOnly_retire ..⟩, ?_⟩
      intro l ls hm wide x
      have hx := exec_syswr_lane hc rfl hm
      rw [srWidth_writable hn] at hx
      refine ⟨_, hx, ?_⟩
      rw [← hgroup n hn, ← State.frag_writeGroupReg s n (BitVec.ofNat 64 x)]
      exact State.wentOnly_retire ..
    · intro o s hc hs hl size
      refine ⟨fun hm => ⟨_, exec_setperf_none hc hm, State.wentOnly_retire ..⟩, fun l ls hm => ⟨_, exec_setperf_lane hc hm, ?_⟩⟩
      exact requested_setPerf_retire hs hl _ _
    · exact ⟨_, rfl, requested_setPerf_retireScalar hs hl _⟩
end Sys2Proof.Machine

/-! PROOFS. Rounding depends on the value of its fraction alone (04 R98, R101). -/

namespace Sys2Proof.Machine
open Sys2Proof

/-- What of a magnitude lies beyond its truncation, against one half and zero, rounds it away from zero. -/
def ratRoundsUp (rm : Rounding) (neg : Bool) (x : ℚ) : Bool :=
  match rm with
  | 0 => decide (1 < 2 * (x - ⌊x⌋₊)) || (decide (2 * (x - ⌊x⌋₊) = 1) && ⌊x⌋₊ % 2 == 1)
  | 1 => false
  | 2 => neg && decide (x - ⌊x⌋₊ ≠ 0)
  | _ => !neg && decide (x - ⌊x⌋₊ ≠ 0)

theorem scaleFrac_div (n : Nat) {d : Nat} (hd : 0 < d) (q : Int) :
    0 < (scaleFrac n d q).2 ∧ ((scaleFrac n d q).1 : ℚ) / (scaleFrac n d q).2 = n / d / 2 ^ q := by
  unfold scaleFrac
  split
  · next h =>
    obtain ⟨k, rfl⟩ := Int.eq_ofNat_of_zero_le h
    refine ⟨by positivity, ?_⟩
    simp [div_div]
  · next h =>
    obtain ⟨k, hk⟩ := Int.eq_ofNat_of_zero_le (show 0 ≤ -q by omega)
    refine ⟨hd, ?_⟩
    rw [show q = -(k : Int) by omega]
    simp
    ring

/-- A magnitude n / d is rounded to multiples of 2 ^ q by what the fraction n / d / 2 ^ q is. -/
theorem roundMag_eq (rm : Rounding) (neg : Bool) (n : Nat) {d : Nat} (hd : 0 < d) (q : Int) {x : ℚ} (hx : (n : ℚ) / d / 2 ^ q = x) :
    roundMag rm neg n d q = (⌊x⌋₊ + (if ratRoundsUp rm neg x then 1 else 0), decide (x - ⌊x⌋₊ ≠ 0)) := by
  obtain ⟨hb, hab⟩ := scaleFrac_div n hd q
  rw [hx] at hab
  unfold roundMag
  generalize scaleFrac n d q = ab at hb hab
  obtain ⟨a, b⟩ := ab
  simp only at hb hab ⊢
  have hb' : (0 : ℚ) < b := by exact_mod_cast hb
  have hf : ⌊x⌋₊ = a / b := by rw [← hab, Nat.floor_div_eq_div]
  have hr : x - ⌊x⌋₊ = (a % b : Nat) / (b : ℚ) := by
    rw [hf, ← hab, eq_div_iff hb'.ne', sub_mul, div_mul_cancel₀ _ hb'.ne', sub_eq_iff_eq_add]
    exact_mod_cast (Nat.mod_add_div' a b).symm
  rw [hf] at hr
  have h0 : x - (a / b : Nat) ≠ 0 ↔ a % b ≠ 0 := by
    rw [hr, Ne, div_eq_zero_iff]
    simp [hb.ne']
  have h1 : 1 < 2 * (x - (a / b : Nat)) ↔ 2 * (a % b) > b := by
    rw [hr, ← mul_div_assoc, lt_div_iff₀ hb', one_mul]
    exact_mod_cast Iff.rfl
  have h2 : 2 * (x - (a / b : Nat)) = 1 ↔ 2 * (a % b) = b := by
    rw [hr, ← mul_div_assoc, div_eq_one_iff_eq hb'.ne']
    exact_mod_cast Iff.rfl
  have hu : ratRoundsUp rm neg x = roundsUp rm neg (a / b) (a % b) b := by
    unfold ratRoundsUp roundsUp
    rw [hf]
    split <;> simp only [h0, h1, h2, bne, Bool.beq_eq_decide_eq, decide_not]
  rw [hu, hf]
  simp only [h0, bne, Bool.beq_eq_decide_eq, decide_not]

/-- The model's logarithm is Mathlib's. -/
theorem floorLog2_eq {n d : Nat} (hn : 0 < n) (hd : 0 < d) : floorLog2 n d = Int.log 2 ((n : ℚ) / d) := by
  have hn' : (0 : ℚ) < n := by exact_mod_cast hn
  have hd' : (0 : ℚ) < d := by exact_mod_cast hd
  have hnl : (2 : ℚ) ^ (Nat.log2 n : ℤ) ≤ n ∧ (n : ℚ) < 2 ^ (Nat.log2 n + 1 : ℤ) :=
    ⟨by exact_mod_cast Nat.log2_self_le hn.ne', by exact_mod_cast Nat.lt_log2_self⟩
  have hdl : (2 : ℚ) ^ (Nat.log2 d : ℤ) ≤ d ∧ (d : ℚ) < 2 ^ (Nat.log2 d + 1 : ℤ) :=
    ⟨by exact_mod_cast Nat.log2_self_le hd.ne', by exact_mod_cast Nat.lt_log2_self⟩
  have hp : (0 : ℚ) < n / d := by positivity
  have two {j k : ℤ} : (2 : ℚ) ^ j * 2 ^ k = 2 ^ (j + k) := (zpow_add₀ two_ne_zero j k).symm
  have hge (k : ℤ) : k ≤ Int.log 2 ((n : ℚ) / d) ↔ 2 ^ k * (d : ℚ) ≤ n := by
    rw [← Int.zpow_le_iff_le_log one_lt_two hp, ← le_div_iff₀ hd']
    norm_cast
  set k : ℤ := (Nat.log2 n : ℤ) - Nat.log2 d with hk
  have hlt : Int.log 2 ((n : ℚ) / d) < k + 1 := by
    rw [← not_le, hge, not_le]
    calc (n : ℚ) < 2 ^ (Nat.log2 n + 1 : ℤ) := hnl.2
      _ = 2 ^ (k + 1) * 2 ^ (Nat.log2 d : ℤ) := by rw [two]; congr 1; omega
      _ ≤ _ := by gcongr; exact hdl.1
  have hle : k - 1 ≤ Int.log 2 ((n : ℚ) / d) := by
    rw [hge]
    calc (2 : ℚ) ^ (k - 1) * d ≤ 2 ^ (k - 1) * 2 ^ (Nat.log2 d + 1 : ℤ) := by gcongr; exact hdl.2.le
      _ = 2 ^ (Nat.log2 n : ℤ) := by rw [two]; congr 1; omega
      _ ≤ n := hnl.1
  have hc : (if k ≥ 0 then d * 2 ^ k.toNat ≤ n else d ≤ n * 2 ^ (-k).toNat) ↔ k ≤ Int.log 2 ((n : ℚ) / d) := by
    rw [hge]
    split
    · next h =>
      obtain ⟨j, hj⟩ := Int.eq_ofNat_of_zero_le h
      rw [hj, zpow_natCast, mul_comm]
      exact_mod_cast Iff.rfl
    · next h =>
      obtain ⟨j, hj⟩ := Int.eq_ofNat_of_zero_le (show 0 ≤ -k by omega)
      rw [hj, show k = -(j : ℤ) by omega, zpow_neg, zpow_natCast, inv_mul_le_iff₀ (by positivity), mul_comm]
      exact_mod_cast Iff.rfl
  unfold floorLog2
  simp only [← hk, hc]
  split <;> omega

/-- Fractions with one logarithm round alike where no grid that rounding uses tells them apart. -/
theorem Fmt.round_alike (f : Fmt) (rm : Rounding) (ftz neg : Bool) {n d n' d' : Nat} (hlog : floorLog2 n d = floorLog2 n' d')
    (hm : ∀ q, floorLog2 n' d' - f.mbits ≤ q → roundMag rm neg n d q = roundMag rm neg n' d' q) :
    f.round rm ftz neg n d = f.round rm ftz neg n' d' := by
  unfold Fmt.round
  simp only [hlog]
  generalize floorLog2 n' d' = e at hm
  rw [hm _ le_rfl, hm ((if e < (1 - f.bias : ℤ) then (1 - f.bias : ℤ) else e) - f.mbits) (by split <;> omega)]

/-- Rounding depends on the value of the fraction alone. -/
theorem Fmt.round_congr (f : Fmt) (rm : Rounding) (ftz neg : Bool) {n d n' d' : Nat} (hn : 0 < n) (hd : 0 < d) (hn' : 0 < n') (hd' : 0 < d')
    (h : (n : ℚ) / d = n' / d') : f.round rm ftz neg n d = f.round rm ftz neg n' d' :=
  f.round_alike rm ftz neg (by rw [floorLog2_eq hn hd, floorLog2_eq hn' hd', h]) fun q _ => by
    rw [roundMag_eq rm neg n hd q rfl, roundMag_eq rm neg n' hd' q rfl, h]

theorem Fmt.rounded_zero (f : Fmt) (rm : Rounding) (ftz z : Bool) : f.rounded rm ftz z 0 = (f.sign z, 0) := if_pos rfl

/-- The sign given is that of a zero alone. -/
theorem Fmt.rounded_sign (f : Fmt) (rm : Rounding) (ftz z z' : Bool) {q : ℚ} (h : q ≠ 0) : f.rounded rm ftz z q = f.rounded rm ftz z' q := by
  rw [Fmt.rounded, if_neg h, Fmt.rounded, if_neg h]

/-- A fraction with a sign, rounded, is the value it stands for, rounded. -/
theorem Fmt.round_eq_rounded (f : Fmt) (rm : Rounding) (ftz neg z : Bool) {n d : Nat} (hn : 0 < n) (hd : 0 < d) {q : ℚ}
    (h : q = (if neg then -1 else 1) * (n / d)) : f.round rm ftz neg n d = f.rounded rm ftz z q := by
  have hp : (0 : ℚ) < n / d := by positivity
  have hq : q ≠ 0 := by
    rw [h]
    cases neg <;> simp [hn.ne', hd.ne']
  have hneg : decide (q < 0) = neg := by
    rw [h]
    cases neg
    · simpa using hp.le
    · simpa using hp
  have habs : (q.num.natAbs : ℚ) / q.den = n / d := by
    rw [Nat.cast_natAbs, Int.cast_abs, ← Nat.abs_cast q.den, ← abs_div, Rat.num_div_den, h]
    cases neg <;> simp [abs_of_pos hp]
  rw [Fmt.rounded, if_neg hq, hneg]
  exact (f.round_congr rm ftz neg (Int.natAbs_pos.2 (Rat.num_ne_zero.2 hq)) q.den_pos hn hd habs).symm

theorem Fmt.roundDyadic_eq_rounded (f : Fmt) (rm : Rounding) (ftz neg : Bool) (m : Nat) (e : ℤ) :
    f.roundDyadic rm ftz neg m e = f.rounded rm ftz neg ((if neg then -1 else 1) * m * 2 ^ e) := by
  unfold Fmt.roundDyadic
  obtain rfl | hm := Nat.eq_zero_or_pos m
  · simp [Fmt.rounded_zero]
  rw [if_neg hm.ne']
  split
  · next h =>
    obtain ⟨k, rfl⟩ := Int.eq_ofNat_of_zero_le h
    refine f.round_eq_rounded rm ftz neg _ (by positivity) one_pos ?_
    simp
  · next h =>
    obtain ⟨k, hk⟩ := Int.eq_ofNat_of_zero_le (show 0 ≤ -e by omega)
    refine f.round_eq_rounded rm ftz neg _ hm (by positivity) ?_
    rw [show e = -(k : ℤ) by omega]
    simp [div_eq_mul_inv]

theorem Fmt.roundQuot_eq_rounded (f : Fmt) (rm : Rounding) (ftz neg z : Bool) {m n : Nat} (hm : 0 < m) (hn : 0 < n) (e k : ℤ) {q : ℚ}
    (h : q = (if neg then -1 else 1) * (m * 2 ^ e / (n * 2 ^ k))) : f.roundQuot rm ftz neg m e n k = f.rounded rm ftz z q := by
  have he : (2 : ℚ) ^ e = 2 ^ (e - k) * 2 ^ k := by rw [← zpow_add₀ two_ne_zero, sub_add_cancel]
  have hv : (m * 2 ^ e / (n * 2 ^ k) : ℚ) = m * 2 ^ (e - k) / n := by
    rw [he, ← mul_assoc]
    exact mul_div_mul_right _ _ (by positivity)
  rw [hv] at h
  unfold Fmt.roundQuot
  generalize e - k = j at h
  simp only
  split
  · next hj =>
    obtain ⟨i, rfl⟩ := Int.eq_ofNat_of_zero_le hj
    refine f.round_eq_rounded rm ftz neg z (by positivity) hn ?_
    simpa using h
  · next hj =>
    obtain ⟨i, hi⟩ := Int.eq_ofNat_of_zero_le (show 0 ≤ -j by omega)
    refine f.round_eq_rounded rm ftz neg z hm (by positivity) ?_
    obtain rfl : j = -(i : ℤ) := by omega
    rw [h, neg_neg, Int.toNat_natCast, zpow_neg, zpow_natCast, ← div_eq_mul_inv, div_div, mul_comm (2 ^ i : ℚ)]
    push_cast
    rfl

end Sys2Proof.Machine

/-! PROOFS. NaN operands and invalid operations (04 R100; O13), and floating codes as values (04 R90, R91). -/

namespace Sys2Proof.Machine
open Sys2Proof

/-! ### NaN operands and invalid operations (04 R100) -/

/-- The first NaN of a list of operands, made quiet, and NV where one is signalling. -/
def Fmt.quieted (f : Fmt) (xs : List Nat) : Nat × W32 :=
  ((xs.find? fun x => (f.read x).isNan).getD 0 ||| 2 ^ (f.mbits - 1), if xs.any f.isSnan then 0x10 else 0)

theorem Fmt.nanOf_none {f : Fmt} {xs : List Nat} (h : ∀ x ∈ xs, (f.read x).isNan = false) : f.nanOf xs = none := by
  have hf : (xs.find? fun x => (f.read x).isNan) = none := List.find?_eq_none.2 fun x hx => by simp [h x hx]
  simp only [Fmt.nanOf, hf]

theorem Fmt.nanOf_quieted {f : Fmt} {xs : List Nat} (h : ∃ x ∈ xs, (f.read x).isNan = true) : f.nanOf xs = some (f.quieted xs) := by
  obtain ⟨x, hx⟩ := Option.isSome_iff_exists.1 (List.find?_isSome.2 h)
  simp only [Fmt.nanOf, Fmt.quieted, hx]
  rfl

@[simp] theorem Fmt.operand_noFlush (f : Fmt) (x : Nat) : f.operand false x = x := rfl

section
variable {f : Fmt} {rm : Rounding} {ftz : Bool} {x y z : Nat}

theorem fAdd_nan (h : ∃ n ∈ [f.operand ftz x, f.operand ftz y], (f.read n).isNan = true) (sub : Bool) :
    fAdd f rm ftz sub x y = f.quieted [f.operand ftz x, f.operand ftz y] := by
  simp only [fAdd, Fmt.nanOf_quieted h]

theorem fMul_nan (h : ∃ n ∈ [f.operand ftz x, f.operand ftz y], (f.read n).isNan = true) :
    fMul f rm ftz x y = f.quieted [f.operand ftz x, f.operand ftz y] := by
  simp only [fMul, Fmt.nanOf_quieted h]

theorem fDiv_nan (h : ∃ n ∈ [f.operand ftz x, f.operand ftz y], (f.read n).isNan = true) :
    fDiv f rm ftz x y = f.quieted [f.operand ftz x, f.operand ftz y] := by
  simp only [fDiv, Fmt.nanOf_quieted h]

theorem fMa_nan (h : ∃ n ∈ [f.operand ftz x, f.operand ftz y, f.operand ftz z], (f.read n).isNan = true) :
    fMa f rm ftz x y z = f.quieted [f.operand ftz x, f.operand ftz y, f.operand ftz z] := by
  simp only [fMa, Fmt.nanOf_quieted h]

theorem fSqrt_nan (h : ∃ n ∈ [f.operand ftz x], (f.read n).isNan = true) : fSqrt f rm ftz x = f.quieted [f.operand ftz x] := by
  simp only [fSqrt, Fmt.nanOf_quieted h]

theorem fRcp_nan (h : ∃ n ∈ [f.operand ftz x], (f.read n).isNan = true) : fRcp f rm ftz x = f.quieted [f.operand ftz x] := by
  simp only [fRcp, Fmt.nanOf_quieted h]

/-! Without a NaN the operations are those of the values. -/

section
variable {v w u : FVal} (hx : f.read (f.operand ftz x) = v) (hy : f.read (f.operand ftz y) = w) (hv : v.isNan = false) (hw : w.isNan = false)
include hx hy hv hw

theorem fAdd_vals (sub : Bool) : fAdd f rm ftz sub x y = f.addVals rm ftz [v, if sub then w.negate else w] := by
  subst hx hy
  have h : f.nanOf [f.operand ftz x, f.operand ftz y] = none := Fmt.nanOf_none (by simp [hv, hw])
  simp only [fAdd, h]

theorem fMul_vals : fMul f rm ftz x y = ((mulVals v w).map (f.ofVal rm ftz)).getD f.invalid := by
  subst hx hy
  have h : f.nanOf [f.operand ftz x, f.operand ftz y] = none := Fmt.nanOf_none (by simp [hv, hw])
  simp only [fMul, h]
  cases mulVals (f.read (f.operand ftz x)) (f.read (f.operand ftz y)) <;> rfl

theorem fMa_vals (hz : f.read (f.operand ftz z) = u) (hu : u.isNan = false) :
    fMa f rm ftz x y z = ((mulVals v w).map fun p => f.addVals rm ftz [p, u]).getD f.invalid := by
  subst hx hy hz
  have h : f.nanOf [f.operand ftz x, f.operand ftz y, f.operand ftz z] = none := Fmt.nanOf_none (by simp [hv, hw, hu])
  simp only [fMa, h]
  cases mulVals (f.read (f.operand ftz x)) (f.read (f.operand ftz y)) <;> rfl

end

end

/-! ### Codes as values -/

theorem Fmt.read_neg? (f : Fmt) (x : Nat) : (f.read x).neg? = f.negative x := by
  unfold Fmt.read
  simp only
  repeat' split
  all_goals rfl

theorem FVal.isZero_iff {v : FVal} : v.isZero = true ↔ ∃ s e, v = .fin s 0 e := by
  cases v with
  | fin s m e => cases m <;> simp [FVal.isZero]
  | nan | inf => simp [FVal.isZero]

theorem signed_eq_zero {s : Bool} {m : Nat} {e : ℤ} : ((if s then -1 else 1) * m * 2 ^ e : ℚ) = 0 ↔ m = 0 := by
  have h : (2 : ℚ) ^ e ≠ 0 := by positivity
  cases s <;> simp [h]

/-- A finite value reads as a sign, a magnitude and a power. -/
theorem Fmt.read_of_finite {f : Fmt} {x : Nat} (h : f.finite x = true) :
    ∃ m e, f.read x = .fin (f.negative x) m e ∧ f.value x = (if f.negative x then -1 else 1) * m * 2 ^ e := by
  have hs := f.read_neg? x
  unfold Fmt.finite at h
  cases hr : f.read x with
  | fin s m e =>
    rw [hr] at hs
    obtain rfl : s = f.negative x := hs
    exact ⟨m, e, rfl, by rw [Fmt.value, hr]⟩
  | nan | inf => simp [hr] at h

theorem Fmt.read_of_infinite {f : Fmt} {x : Nat} (h : f.infinite x = true) : f.read x = .inf (f.negative x) := by
  have hs := f.read_neg? x
  unfold Fmt.infinite at h
  cases hr : f.read x with
  | inf s =>
    rw [hr] at hs
    rw [show s = f.negative x from hs]
  | nan | fin => simp [hr] at h

/-- A product of zero and infinity has no value. -/
theorem mulVals_none {v w : FVal} (h : (∃ s, v = .inf s) ∧ w.isZero = true ∨ v.isZero = true ∧ ∃ s, w = .inf s) : mulVals v w = none := by
  obtain ⟨⟨s, rfl⟩, hw⟩ | ⟨hv, s, rfl⟩ := h
  · obtain ⟨t, e, rfl⟩ := FVal.isZero_iff.1 hw
    rfl
  · obtain ⟨t, e, rfl⟩ := FVal.isZero_iff.1 hv
    rfl

/-! ### Sums with infinite terms -/

section
variable {f : Fmt} {rm : Rounding} {ftz : Bool} {vs : List FVal}

/-- Opposite infinities have no sum. -/
theorem Fmt.addVals_opposite {s : Bool} (h : .inf s ∈ vs) (h' : .inf (!s) ∈ vs) : f.addVals rm ftz vs = f.invalid := by
  cases s <;> simp_all [Fmt.addVals]

theorem Fmt.addVals_infinite {s : Bool} (h : .inf s ∈ vs) (h' : .inf (!s) ∉ vs) : f.addVals rm ftz vs = (f.infBits s, 0) := by
  cases s <;> simp_all [Fmt.addVals]

/-- Without an infinity the terms are added exactly. -/
theorem Fmt.addVals_finite (ts : List (Bool × Nat × ℤ)) :
    f.addVals rm ftz (ts.map fun t => .fin t.1 t.2.1 t.2.2) = f.roundSum rm ftz ts := by
  have h (s : Bool) : ((ts.map fun t => FVal.fin t.1 t.2.1 t.2.2).any fun v => v == .inf s) = false := by
    simp [List.any_eq_false]
  simp only [Fmt.addVals, h, List.filterMap_map]
  simp

end

/-- Settles O13: a NaN operand is found first; without one the values decide. -/
theorem nanAndInvalidResults : Obligations.NanAndInvalidResults := by
  unfold Obligations.NanAndInvalidResults
  intro f _ rm a b c nan zero inf neg canonical quieted
  have hinf {x : Nat} (h : inf x = true) : f.read x = .inf (neg x) := by
    rw [show neg x = f.negative x from f.read_neg? x]
    exact Fmt.read_of_infinite h
  have nan_inf {x : Nat} (h : inf x = true) : (f.read x).isNan = false := by rw [hinf h]; rfl
  have nan_zero {x : Nat} (h : zero x = true) : (f.read x).isNan = false := by
    obtain ⟨s, e, h⟩ := FVal.isZero_iff.1 h
    rw [h]
    rfl
  have some2 (h : (nan a || nan b) = true) : ∃ n ∈ [a, b], (f.read n).isNan = true := by simpa [nan] using h
  refine ⟨fun h => ⟨fAdd_nan (ftz := false) (some2 h) _, fAdd_nan (ftz := false) (some2 h) _, fMul_nan (ftz := false) (some2 h),
      fDiv_nan (ftz := false) (some2 h)⟩,
    fun h => fMa_nan (ftz := false) (by simpa [nan, or_assoc] using h), fun h => ?_, fun ha hb hn => ?_, fun ha hb hn => ?_, fun h => ?_,
    fun h => ?_, fun hn hz hs => ?_⟩
  · have : ∃ n ∈ [a], (f.read n).isNan = true := by simpa [nan] using h
    exact ⟨fSqrt_nan (ftz := false) this, fRcp_nan (ftz := false) this⟩
  · rw [fAdd_vals (ftz := false) (hinf ha) (hinf hb) rfl rfl]
    exact Fmt.addVals_opposite (s := neg a) (by simp) (by simp [Bool.eq_not.2 hn])
  · rw [fAdd_vals (ftz := false) (hinf ha) (hinf hb) rfl rfl]
    exact Fmt.addVals_opposite (s := neg a) (by simp) (by simp [FVal.negate, hn])
  · have hm : mulVals (f.read a) (f.read b) = none := mulVals_none <| h.imp (.imp_left fun h => ⟨_, hinf h⟩) (.imp_right fun h => ⟨_, hinf h⟩)
    have ha : (f.read a).isNan = false := h.elim (fun h => nan_inf h.1) fun h => nan_zero h.1
    have hb : (f.read b).isNan = false := h.elim (fun h => nan_zero h.2) fun h => nan_inf h.2
    refine ⟨?_, fun hc => ?_⟩
    · rw [fMul_vals (ftz := false) rfl rfl ha hb]
      simp only [Fmt.operand_noFlush, hm]
      rfl
    · rw [fMa_vals (ftz := false) rfl rfl ha hb rfl hc]
      simp only [Fmt.operand_noFlush, hm]
      rfl
  · have ha : (f.read a).isNan = false := h.elim (fun h => nan_inf h.1) fun h => nan_zero h.1
    have hb : (f.read b).isNan = false := h.elim (fun h => nan_inf h.2) fun h => nan_zero h.2
    have hno : f.nanOf [a, b] = none := Fmt.nanOf_none (by simp [ha, hb])
    simp only [fDiv, Fmt.operand_noFlush, hno]
    obtain ⟨ha, hb⟩ | ⟨ha, hb⟩ := h
    · rw [hinf ha, hinf hb]
      rfl
    · obtain ⟨s, e, ha⟩ := FVal.isZero_iff.1 ha
      obtain ⟨t, k, hb⟩ := FVal.isZero_iff.1 hb
      rw [ha, hb]
      rfl
  · have hno : f.nanOf [a] = none := Fmt.nanOf_none (by simpa using hn)
    simp only [fSqrt, Fmt.operand_noFlush, hno]
    cases hr : f.read a with
    | nan => simp [nan, hr, FVal.isNan] at hn
    | inf s =>
      obtain rfl : s = true := by simpa [neg, hr, FVal.neg?] using hs
      rfl
    | fin s m e =>
      obtain rfl : s = true := by simpa [neg, hr, FVal.neg?] using hs
      have hm : m ≠ 0 := fun h => by simp [zero, hr, h, FVal.isZero] at hz
      simp only [if_neg hm]
      rfl

end Sys2Proof.Machine

/-! PROOFS. Quotients, roots and the long-latency floating instructions (04 R101, R111, R117; 02 R49; O10). -/

namespace Sys2Proof.Machine
open Sys2Proof

/-! ### The integer square root -/

theorem isqrtFrom_bounds {n : Nat} (k r : Nat) (hl : r * r ≤ n) (hu : n < (r + 2 ^ k) * (r + 2 ^ k)) :
    isqrtFrom k n r * isqrtFrom k n r ≤ n ∧ n < (isqrtFrom k n r + 1) * (isqrtFrom k n r + 1) := by
  induction k generalizing r with
  | zero => exact ⟨hl, hu⟩
  | succ k ih =>
    unfold isqrtFrom
    simp only
    split
    · next h => exact ih _ h (by rwa [Nat.pow_succ, Nat.mul_two, ← Nat.add_assoc] at hu)
    · next h => exact ih _ hl (by omega)

theorem isqrt_bounds (n : Nat) : isqrt n * isqrt n ≤ n ∧ n < (isqrt n + 1) * (isqrt n + 1) := by
  refine isqrtFrom_bounds _ 0 (Nat.zero_le _) ?_
  calc n < 2 ^ (Nat.log2 n + 1) := Nat.lt_log2_self
    _ ≤ 2 ^ ((Nat.log2 n / 2 + 1) + (Nat.log2 n / 2 + 1)) := Nat.pow_le_pow_right two_pos (by omega)
    _ = _ := by rw [Nat.pow_add, Nat.zero_add]

/-! ### Fractions that round alike -/

/-- Two fractions round alike to whole numbers where no half of a whole number lies between them or is one of them. -/
theorem roundMag_between (rm : Rounding) (neg : Bool) {n d n' d' : Nat} (hd : 0 < d) (hd' : 0 < d') (q : ℤ) {h : Nat}
    (hx : (h : ℚ) / 2 < n / d / 2 ^ q ∧ (n / d / 2 ^ q : ℚ) < (h + 1) / 2)
    (hx' : (h : ℚ) / 2 < n' / d' / 2 ^ q ∧ (n' / d' / 2 ^ q : ℚ) < (h + 1) / 2) :
    roundMag rm neg n d q = roundMag rm neg n' d' q := by
  have key (x : ℚ) (hx : (h : ℚ) / 2 < x ∧ x < (h + 1) / 2) :
      ⌊x⌋₊ = h / 2 ∧ x - (h / 2 : Nat) ≠ 0 ∧ (1 < 2 * (x - (h / 2 : Nat)) ↔ h % 2 = 1) ∧ 2 * (x - (h / 2 : Nat)) ≠ 1 := by
    have hh : (h : ℚ) = 2 * (h / 2 : Nat) + (h % 2 : Nat) := by exact_mod_cast (Nat.div_add_mod h 2).symm
    have hf : ⌊x⌋₊ = h / 2 := by
      rw [Nat.floor_eq_iff (by have : (0 : ℚ) ≤ h / 2 := by positivity
                               linarith)]
      have hm : (h % 2 : Nat) ≤ (1 : ℚ) := by exact_mod_cast Nat.le_of_lt_succ (Nat.mod_lt h two_pos)
      have hm0 : (0 : ℚ) ≤ (h % 2 : Nat) := by positivity
      constructor <;> linarith
    obtain hm | hm := Nat.mod_two_eq_zero_or_one h
    · rw [hm] at hh ⊢
      push_cast at hh
      refine ⟨hf, fun h0 => by linarith, ?_, fun h1 => by linarith⟩
      simp only [zero_ne_one, iff_false, not_lt]
      linarith
    · rw [hm] at hh ⊢
      push_cast at hh
      refine ⟨hf, fun h0 => by linarith, ?_, fun h1 => by linarith⟩
      simp only [iff_true]
      linarith
  obtain ⟨hf, h0, h1, h2⟩ := key _ hx
  obtain ⟨hf', h0', h1', h2'⟩ := key _ hx'
  rw [roundMag_eq rm neg n hd q rfl, roundMag_eq rm neg n' hd' q rfl]
  have hu : ratRoundsUp rm neg (n / d / 2 ^ q) = ratRoundsUp rm neg (n' / d' / 2 ^ q) := by
    unfold ratRoundsUp
    rw [hf, hf']
    simp only [ne_eq, h0, h1, h2, h0', h1', h2']
  rw [hu, hf, hf']
  simp only [ne_eq, h0, h0']

section
variable {n d r : Nat} {t : ℤ} (hl : (r : ℚ) * 2 ^ t < n / d) (hu : (n / d : ℚ) < (r + 1) * 2 ^ t)
include hl hu

/-- Between neighbouring multiples of 2 ^ t there is no half of a coarser multiple. -/
theorem between_halves {q : ℤ} (hq : t + 1 ≤ q) :
    ((r / 2 ^ (q - t - 1).toNat : Nat) : ℚ) / 2 < n / d / 2 ^ q ∧ (n / d / 2 ^ q : ℚ) < ((r / 2 ^ (q - t - 1).toNat : Nat) + 1) / 2 := by
  obtain ⟨j, hj⟩ := Int.eq_ofNat_of_zero_le (show 0 ≤ q - t - 1 by omega)
  obtain rfl : q = j + 1 + t := by omega
  have hp : (2 : ℚ) ^ (j + 1 + t : ℤ) = 2 ^ j * 2 * 2 ^ t := by
    rw [zpow_add₀ two_ne_zero, zpow_add₀ two_ne_zero, zpow_natCast, zpow_one]
  rw [hj, hp, Int.toNat_natCast]
  have hle : ((r / 2 ^ j : Nat) : ℚ) * 2 ^ j ≤ r := by exact_mod_cast Nat.div_mul_le_self r (2 ^ j)
  have hge : (r : ℚ) + 1 ≤ ((r / 2 ^ j : Nat) + 1) * 2 ^ j := by exact_mod_cast Nat.lt_mul_of_div_lt (Nat.lt_succ_self (r / 2 ^ j)) (by positivity)
  have ht : (0 : ℚ) < 2 ^ t := by positivity
  constructor
  · rw [lt_div_iff₀ (by positivity)]
    calc ((r / 2 ^ j : Nat) : ℚ) / 2 * (2 ^ j * 2 * 2 ^ t) = (r / 2 ^ j : Nat) * 2 ^ j * 2 ^ t := by ring
      _ ≤ r * 2 ^ t := by gcongr
      _ < _ := hl
  · rw [div_lt_iff₀ (by positivity)]
    calc (n / d : ℚ) < (r + 1) * 2 ^ t := hu
      _ ≤ ((r / 2 ^ j : Nat) + 1) * 2 ^ j * 2 ^ t := by gcongr
      _ = _ := by ring

theorem log_between (hr : 0 < r) : Int.log 2 (n / d : ℚ) = Int.log 2 (r * 2 ^ t : ℚ) := by
  have hr0 : (0 : ℚ) < r * 2 ^ t := by positivity
  have hx0 : (0 : ℚ) < n / d := hr0.trans hl
  refine le_antisymm ?_ (Int.log_mono_right hr0 hl.le)
  have ht : t ≤ Int.log 2 (n / d : ℚ) := by
    rw [← Int.zpow_le_iff_le_log one_lt_two hx0]
    refine le_trans ?_ hl.le
    have : (1 : ℚ) ≤ r := by exact_mod_cast hr
    push_cast
    exact le_mul_of_one_le_left (by positivity) this
  rw [← Int.zpow_le_iff_le_log one_lt_two hr0]
  obtain ⟨j, hj⟩ := Int.eq_ofNat_of_zero_le (show 0 ≤ Int.log 2 (n / d : ℚ) - t by omega)
  have hlog := Int.zpow_log_le_self (b := 2) one_lt_two hx0
  rw [show Int.log 2 (n / d : ℚ) = j + t by omega, zpow_add₀ (by norm_num), zpow_natCast] at hlog ⊢
  have hlt := lt_of_mul_lt_mul_right (hlog.trans_lt hu) (by positivity)
  have hle : 2 ^ j ≤ r := Nat.le_of_lt_succ (by exact_mod_cast hlt)
  push_cast
  gcongr
  exact_mod_cast hle

end

/-- Two fractions between neighbouring multiples of a power of two so small that a rounding to the format cannot tell them apart. -/
theorem Fmt.round_between (f : Fmt) (rm : Rounding) (ftz neg : Bool) {n d n' d' r : Nat} {t : ℤ} (hr : 2 ^ (f.mbits + 1) ≤ r)
    (hl : (r : ℚ) * 2 ^ t < n / d) (hu : (n / d : ℚ) < (r + 1) * 2 ^ t)
    (hl' : (r : ℚ) * 2 ^ t < n' / d') (hu' : (n' / d' : ℚ) < (r + 1) * 2 ^ t) :
    f.round rm ftz neg n d = f.round rm ftz neg n' d' := by
  have hr0 : 0 < r := lt_of_lt_of_le (by positivity) hr
  have pos {n d : Nat} (h : (r : ℚ) * 2 ^ t < n / d) : 0 < n ∧ 0 < d := by
    have h0 : (0 : ℚ) < n / d := lt_of_le_of_lt (by positivity) h
    refine ⟨Nat.pos_of_ne_zero ?_, Nat.pos_of_ne_zero ?_⟩ <;> rintro rfl <;> simp at h0
  have hlog : t + 1 + f.mbits ≤ Int.log 2 (r * 2 ^ t : ℚ) := by
    rw [← Int.zpow_le_iff_le_log one_lt_two (by positivity), show t + 1 + (f.mbits : ℤ) = (f.mbits + 1 : Nat) + t by push_cast; ring,
      zpow_add₀ (by norm_num), zpow_natCast]
    push_cast
    gcongr
    exact_mod_cast hr
  have hlog' : floorLog2 n' d' = Int.log 2 (r * 2 ^ t : ℚ) := by rw [floorLog2_eq (pos hl').1 (pos hl').2, log_between hl' hu' hr0]
  refine f.round_alike rm ftz neg ?_ fun q hq => ?_
  · rw [hlog', floorLog2_eq (pos hl).1 (pos hl).2, log_between hl hu hr0]
  · rw [hlog'] at hq
    have hq : t + 1 ≤ q := by omega
    exact roundMag_between rm neg (pos hl).2 (pos hl').2 q (between_halves hl hu hq) (between_halves hl' hu' hq)

/-- The same for the values themselves. -/
theorem Fmt.rounded_between (f : Fmt) (rm : Rounding) (ftz z : Bool) {x y : ℚ} {r : Nat} {t : ℤ} (hr : 2 ^ (f.mbits + 1) ≤ r)
    (hx : (r : ℚ) * 2 ^ t < x ∧ x < (r + 1) * 2 ^ t) (hy : (r : ℚ) * 2 ^ t < y ∧ y < (r + 1) * 2 ^ t) :
    f.rounded rm ftz z x = f.rounded rm ftz z y := by
  have pos {x : ℚ} (h : (r : ℚ) * 2 ^ t < x) : 0 < x := lt_of_le_of_lt (by positivity) h
  have frac {x : ℚ} (h : 0 < x) : (x.num.natAbs : ℚ) / x.den = x := by
    rw [Nat.cast_natAbs, abs_of_pos (Rat.num_pos.2 h), Rat.num_div_den]
  have hx0 := pos hx.1
  have hy0 := pos hy.1
  rw [Fmt.rounded, if_neg hx0.ne', Fmt.rounded, if_neg hy0.ne', decide_eq_false hx0.not_gt, decide_eq_false hy0.not_gt]
  rw [← frac hx0] at hx
  rw [← frac hy0] at hy
  exact f.round_between rm ftz false hr hx.1 hx.2 hy.1 hy.2

/-! ### Roots (04 R111) -/

/-- The root of a positive value in whole steps of 2 ^ t: of a value that is no square the steps below it, and the value is rounded as what
lies half a step above them. -/
theorem fSqrt_steps {f : Fmt} {rm : Rounding} {ftz : Bool} {x m : Nat} {e : ℤ} (hx : f.read (f.operand ftz x) = .fin false m e) (hm : 0 < m) :
    ∃ (n r : Nat) (t : ℤ), (m : ℚ) * 2 ^ e = n * (2 ^ t * 2 ^ t) ∧ 2 ^ 64 ≤ r ∧ r * r ≤ n ∧ n < (r + 1) * (r + 1)
      ∧ fSqrt f rm ftz x = f.rounded rm ftz false (if r * r = n then r * 2 ^ t else (2 * r + 1) / 2 * 2 ^ t) := by
  have hno : f.nanOf [f.operand ftz x] = none := Fmt.nanOf_none (by simp [hx, FVal.isNan])
  set n := (if e % 2 = 0 then m else 2 * m) * 2 ^ 128 with hn
  set e2 := if e % 2 = 0 then e else e - 1 with he2
  have hfit : (m : ℚ) * 2 ^ e = n * (2 ^ (e2 / 2 - 64) * 2 ^ (e2 / 2 - 64)) := by
    have he : (2 : ℚ) ^ 128 * 2 ^ (e2 / 2 - 64 + (e2 / 2 - 64)) = 2 ^ e2 := by
      rw [← zpow_natCast, ← zpow_add₀ two_ne_zero]
      congr 1
      rw [he2]
      split <;> omega
    rw [← zpow_add₀ two_ne_zero, hn, Nat.cast_mul, mul_assoc, Nat.cast_pow, Nat.cast_ofNat, he, he2]
    split
    · rfl
    · rw [Nat.cast_mul, Nat.cast_ofNat, zpow_sub_one₀ two_ne_zero]
      ring
  obtain ⟨hlo, hhi⟩ := isqrt_bounds n
  refine ⟨n, isqrt n, e2 / 2 - 64, hfit, ?_, hlo, hhi, ?_⟩
  · by_contra hc
    have h1 : (isqrt n + 1) * (isqrt n + 1) ≤ 2 ^ 64 * 2 ^ 64 := Nat.mul_le_mul (by omega) (by omega)
    have h2 : 1 * 2 ^ 128 ≤ n := Nat.mul_le_mul_right _ (by split <;> omega)
    omega
  · simp only [fSqrt, hno, hx, if_neg hm.ne', Bool.false_eq_true, if_false, ← hn, ← he2]
    rw [Fmt.roundDyadic_eq_rounded, show e2 / 2 - 65 = (e2 / 2 - 64) - 1 by omega, zpow_sub_one₀ two_ne_zero]
    simp only [Bool.false_eq_true, if_false, one_mul]
    congr 1
    split <;> push_cast <;> ring

/-- A rational root of n · 2 ^ 2t is a whole number of steps of 2 ^ t. -/
theorem root_in_steps {n r : Nat} {t : ℤ} {q : ℚ} (hq : 0 < q) (h : q * q = n * (2 ^ t * 2 ^ t)) (hlo : r * r ≤ n)
    (hhi : n < (r + 1) * (r + 1)) : r * r = n ∧ q = r * 2 ^ t := by
  have ht : (0 : ℚ) < 2 ^ t := by positivity
  have hsq : (n : ℚ) = (q / 2 ^ t) * (q / 2 ^ t) := by
    rw [div_mul_div_comm, h, mul_div_cancel_right₀ _ (by positivity)]
  obtain ⟨k, hk⟩ := Rat.isSquare_natCast_iff.1 ⟨_, hsq⟩
  have hkr : k = r := by nlinarith
  subst hkr
  refine ⟨hk.symm, ?_⟩
  have hqk : q / 2 ^ t = k := by
    have h0 : (q / 2 ^ t) * (q / 2 ^ t) = k * k := by rw [← hsq, hk, Nat.cast_mul]
    exact (mul_self_inj (by positivity) (by positivity)).1 h0
  rw [← hqk, div_mul_cancel₀ _ ht.ne']

theorem fSqrt_of_pos {f : Fmt} {rm : Rounding} {ftz : Bool} {x m : Nat} {e : ℤ} (hf : f.mbits ≤ 63)
    (hx : f.read (f.operand ftz x) = .fin false m e) (hm : 0 < m) :
    (∀ q : ℚ, 0 < q → q * q = m * 2 ^ e → fSqrt f rm ftz x = f.rounded rm ftz false q)
    ∧ ((∀ q : ℚ, q * q ≠ m * 2 ^ e) → ∃ d : ℚ, 0 < d ∧ ∀ q : ℚ, 0 < q → |q * q - m * 2 ^ e| < d →
        fSqrt f rm ftz x = f.rounded rm ftz false q) := by
  obtain ⟨n, r, t, hv, hr, hlo, hhi, hs⟩ := fSqrt_steps (rm := rm) hx hm
  have ht : (0 : ℚ) < 2 ^ t := by positivity
  rw [hv]
  refine ⟨fun q hq hqq => ?_, fun hno => ?_⟩
  · obtain ⟨hrn, rfl⟩ := root_in_steps hq hqq hlo hhi
    rw [hs, if_pos hrn]
  · have hlt : r * r < n := hlo.lt_of_ne fun h => hno (r * 2 ^ t) (by rw [← h]; push_cast; ring)
    have hl : (r : ℚ) * 2 ^ t * (r * 2 ^ t) < n * (2 ^ t * 2 ^ t) := by
      rw [mul_mul_mul_comm]
      have : (r * r : ℚ) < n := by exact_mod_cast hlt
      gcongr
    have hu : (n : ℚ) * (2 ^ t * 2 ^ t) < (r + 1) * 2 ^ t * ((r + 1) * 2 ^ t) := by
      rw [mul_mul_mul_comm]
      have : (n : ℚ) < (r + 1) * (r + 1) := by exact_mod_cast hhi
      gcongr
    refine ⟨min (n * (2 ^ t * 2 ^ t) - r * 2 ^ t * (r * 2 ^ t)) ((r + 1) * 2 ^ t * ((r + 1) * 2 ^ t) - n * (2 ^ t * 2 ^ t)),
      lt_min (sub_pos.2 hl) (sub_pos.2 hu), fun q hq hd => ?_⟩
    rw [hs, if_neg hlt.ne]
    obtain ⟨hd1, hd2⟩ := lt_min_iff.1 hd
    obtain ⟨ha, -⟩ := abs_lt.1 hd1
    obtain ⟨-, hb⟩ := abs_lt.1 hd2
    refine f.rounded_between (t := t) rm ftz false (le_trans (Nat.pow_le_pow_right two_pos (by omega)) hr) ⟨?_, ?_⟩ ⟨?_, ?_⟩
    · gcongr
      linarith
    · gcongr
      linarith
    · exact lt_of_mul_self_lt_mul_self₀ hq.le (by linarith)
    · exact lt_of_mul_self_lt_mul_self₀ (by positivity) (by linarith)

/-! ### Quotients (04 R111) -/

section
variable {f : Fmt} {rm : Rounding} {ftz : Bool} {x y : Nat}

theorem fDiv_finite {s t : Bool} {m n : Nat} {e k : ℤ} (hx : f.read (f.operand ftz x) = .fin s m e) (hy : f.read (f.operand ftz y) = .fin t n k) :
    fDiv f rm ftz x y =
      if n = 0 then (if m = 0 then f.invalid else (f.infBits (s != t), 0x20))
      else f.rounded rm ftz (s != t) ((if s then -1 else 1) * m * 2 ^ e / ((if t then -1 else 1) * n * 2 ^ k)) := by
  have hno : f.nanOf [f.operand ftz x, f.operand ftz y] = none := Fmt.nanOf_none (by simp [hx, hy, FVal.isNan])
  simp only [fDiv, hno, hx, hy]
  split
  · rfl
  · next hn =>
    split
    · next hm => simp [hm, Fmt.rounded_zero]
    · next hm =>
      refine f.roundQuot_eq_rounded rm ftz _ _ (Nat.pos_of_ne_zero hm) (Nat.pos_of_ne_zero hn) e k ?_
      cases s <;> cases t <;> simp [neg_div, div_neg]

theorem fDiv_infinite_finite {s t : Bool} {n : Nat} {k : ℤ} (hx : f.read (f.operand ftz x) = .inf s) (hy : f.read (f.operand ftz y) = .fin t n k) :
    fDiv f rm ftz x y = (f.infBits (s != t), 0) := by
  have hno : f.nanOf [f.operand ftz x, f.operand ftz y] = none := Fmt.nanOf_none (by simp [hx, hy, FVal.isNan])
  simp only [fDiv, hno, hx, hy, FVal.neg?]

theorem fDiv_finite_infinite {s t : Bool} {m : Nat} {e : ℤ} (hx : f.read (f.operand ftz x) = .fin s m e) (hy : f.read (f.operand ftz y) = .inf t) :
    fDiv f rm ftz x y = (f.sign (s != t), 0) := by
  have hno : f.nanOf [f.operand ftz x, f.operand ftz y] = none := Fmt.nanOf_none (by simp [hx, hy, FVal.isNan])
  simp only [fDiv, hno, hx, hy, FVal.neg?]

theorem fRcp_of_number (hx : (f.read (f.operand ftz x)).isNan = false) : fRcp f rm ftz x = fDiv f rm ftz (f.bias * 2 ^ f.mbits) x := by
  have hno : f.nanOf [f.operand ftz x] = none := Fmt.nanOf_none (by simp [hx])
  simp only [fRcp, hno]

theorem fSqrt_zero {s : Bool} {e : ℤ} (hx : f.read (f.operand ftz x) = .fin s 0 e) : fSqrt f rm ftz x = (f.operand ftz x, 0) := by
  have hno : f.nanOf [f.operand ftz x] = none := Fmt.nanOf_none (by simp [hx, FVal.isNan])
  simp only [fSqrt, hno, hx, if_true]

theorem fSqrt_infinite {s : Bool} (hx : f.read (f.operand ftz x) = .inf s) :
    fSqrt f rm ftz x = if s then f.invalid else (f.operand ftz x, 0) := by
  have hno : f.nanOf [f.operand ftz x] = none := Fmt.nanOf_none (by simp [hx, FVal.isNan])
  simp only [fSqrt, hno, hx]

end

/-- The code of one. -/
theorem read_one {f : Fmt} (hf : f ∈ floatTypes) (ftz : Bool) :
    f.read (f.operand ftz (f.bias * 2 ^ f.mbits)) = .fin false (2 ^ f.mbits) (-f.mbits) := by
  simp only [floatTypes, List.mem_cons, List.not_mem_nil, or_false] at hf
  obtain rfl | rfl | rfl | rfl := hf <;> cases ftz <;> decide

theorem floatTypes_mbits {f : Fmt} (hf : f ∈ floatTypes) : f.mbits ≤ 63 := by
  simp only [floatTypes, List.mem_cons, List.not_mem_nil, or_false] at hf
  obtain rfl | rfl | rfl | rfl := hf <;> decide

theorem quotientsAndRoots : QuotientsAndRoots := by
  intro f hf rm ftz x y _ _ a b p va vb
  have fin {u : Nat} (h : f.finite (f.operand ftz u) = true) := Fmt.read_of_finite h
  have inf {u : Nat} (h : f.infinite (f.operand ftz u) = true) := Fmt.read_of_infinite h
  have h1 := read_one hf ftz
  have one : ((if false = true then -1 else 1) * (2 ^ f.mbits : Nat) * 2 ^ (-f.mbits : ℤ) : ℚ) = 1 := by
    simp
  have zero {u m : Nat} {e : ℤ} (hv : f.value (f.operand ftz u) = (if f.negative (f.operand ftz u) then -1 else 1) * m * 2 ^ e) :
      f.value (f.operand ftz u) = 0 ↔ m = 0 := by
    rw [hv, signed_eq_zero]
  refine ⟨fun ha hb hb0 => ?_, fun ha ha0 hb hb0 => ?_, fun ha hb => ?_, fun ha hb => ?_, fun ha ha0 => ?_, fun ha ha0 => ?_, fun ha => ?_,
    fun ha hs => ?_, fun ha hs => ?_, fun ha ha0 => ?_⟩
  · obtain ⟨m, e, hx, hvx⟩ := fin ha
    obtain ⟨n, k, hy, hvy⟩ := fin hb
    rw [fDiv_finite hx hy, if_neg (mt (zero hvy).2 hb0), ← hvx, ← hvy]
  · obtain ⟨m, e, hx, hvx⟩ := fin ha
    obtain ⟨n, k, hy, hvy⟩ := fin hb
    rw [fDiv_finite hx hy, if_pos ((zero hvy).1 hb0), if_neg (mt (zero hvx).2 ha0)]
  · obtain ⟨n, k, hy, -⟩ := fin hb
    exact fDiv_infinite_finite (inf ha) hy
  · obtain ⟨m, e, hx, -⟩ := fin ha
    exact fDiv_finite_infinite hx (inf hb)
  · obtain ⟨m, e, hx, hvx⟩ := fin ha
    rw [fRcp_of_number (by rw [hx]; rfl), fDiv_finite h1 hx, if_neg (mt (zero hvx).2 ha0), ← hvx, one, Bool.false_bne]
  · obtain ⟨m, e, hx, hvx⟩ := fin ha
    obtain rfl := (zero hvx).1 ha0
    refine ⟨?_, fSqrt_zero hx⟩
    rw [fRcp_of_number (by rw [hx]; rfl), fDiv_finite h1 hx, if_pos rfl, if_neg (by positivity), Bool.false_bne]
  · rw [fRcp_of_number (by rw [inf ha]; rfl), fDiv_finite_infinite h1 (inf ha), Bool.false_bne]
  · rw [fSqrt_infinite (inf ha), if_neg (by simp [show f.negative (f.operand ftz x) = false from hs])]
  · rw [fSqrt_infinite (inf ha), if_pos hs]
    rfl
  · obtain ⟨m, e, hx, hvx⟩ := fin ha
    have hs : f.negative (f.operand ftz x) = false := by
      by_contra hs
      have : va ≤ 0 := by
        rw [show va = _ from hvx, if_pos (by simpa using hs), neg_one_mul, neg_mul]
        exact neg_nonpos.2 (by positivity)
      exact absurd ha0 this.not_gt
    rw [hs] at hx hvx
    have hv : va = m * 2 ^ e := by rw [show va = _ from hvx]; simp
    rw [hv] at ha0 ⊢
    have hm : 0 < m := Nat.pos_of_ne_zero fun h => by simp [h] at ha0
    exact fSqrt_of_pos (floatTypes_mbits hf) hx hm

/-- Settles O10: the arms issue what the operations of 04 R111, R112 and R117 give, and the values are those of quotientsAndRoots. -/
theorem longFloatResults : Obligations.LongFloatResults := by
  unfold Obligations.LongFloatResults
  intro o ft p1 wd a rm ftz
  exact ⟨longGives_of_floatLong fun _ => rfl, longGives_of_floatLong fun _ => rfl, longGives_of_floatLong fun _ => rfl,
    longGives_of_floatLong fun _ => rfl, longGives_of_floatLong fun _ => rfl, longGives_of_floatLong fun _ => rfl,
    longGives_of_floatLong fun _ => rfl, longGives_of_floatLong fun _ => rfl, longGives_of_floatLong fun _ => rfl,
    longGives_of_floatLong fun _ => rfl, quotientsAndRoots⟩

end Sys2Proof.Machine

/-! PROOFS. Rounding to nearest gives a nearest code (04 R98; O12). -/

namespace Sys2Proof.Machine
open Sys2Proof

/-! ### Rounding to the nearest whole number -/

theorem ratRoundsUp_nearest (neg : Bool) (x : ℚ) :
    ratRoundsUp 0 neg x = true ↔ 1 < 2 * (x - ⌊x⌋₊) ∨ 2 * (x - ⌊x⌋₊) = 1 ∧ ⌊x⌋₊ % 2 = 1 := by
  simp [ratRoundsUp]

/-- To nearest, a magnitude is rounded by at most one half, and by one half to an even number only. -/
theorem roundMag_half (neg : Bool) (n : Nat) {d : Nat} (hd : 0 < d) (q : ℤ) {x : ℚ} (hx : (n : ℚ) / d / 2 ^ q = x) :
    |((roundMag 0 neg n d q).1 : ℚ) - x| ≤ 1 / 2 ∧ (|((roundMag 0 neg n d q).1 : ℚ) - x| = 1 / 2 → (roundMag 0 neg n d q).1 % 2 = 0) := by
  have h0 : 0 ≤ x := hx ▸ by positivity
  have hl := Nat.floor_le h0
  have hu := Nat.lt_floor_add_one x
  rw [roundMag_eq 0 neg n hd q hx]
  simp only [ratRoundsUp_nearest]
  generalize ⌊x⌋₊ = k at hl hu
  split
  · next h =>
    push_cast
    rw [abs_of_nonneg (by linarith)]
    obtain h | ⟨h, hk⟩ := h
    · exact ⟨by linarith, fun h => by linarith⟩
    · exact ⟨by linarith, fun _ => by omega⟩
  · next h =>
    obtain ⟨h1, h2⟩ := not_or.1 h
    rw [Nat.add_zero, abs_of_nonpos (by linarith)]
    refine ⟨by linarith, fun hh => ?_⟩
    have := not_and.1 h2 (by linarith)
    omega

/-- So no whole number is nearer. -/
theorem roundMag_nearest (neg : Bool) (n : Nat) {d : Nat} (hd : 0 < d) (q : ℤ) {x : ℚ} (hx : (n : ℚ) / d / 2 ^ q = x) (j : Nat) :
    |((roundMag 0 neg n d q).1 : ℚ) - x| ≤ |j - x| := by
  have h := (roundMag_half neg n hd q hx).1
  generalize (roundMag 0 neg n d q).1 = k at h
  obtain rfl | hne := eq_or_ne j k
  · rfl
  have h1 : (1 : ℚ) ≤ |(j : ℚ) - k| := by
    have : (1 : ℤ) ≤ |(j : ℤ) - k| := Int.one_le_abs (sub_ne_zero.2 (by exact_mod_cast hne))
    exact_mod_cast this
  have h2 := abs_sub_le (j : ℚ) x k
  rw [abs_sub_comm x] at h2
  linarith

/-- A magnitude is rounded to its floor or to the next number, and exactly where it is whole. -/
theorem roundMag_floor (rm : Rounding) (neg : Bool) (n : Nat) {d : Nat} (hd : 0 < d) (q : ℤ) {x : ℚ} (hx : (n : ℚ) / d / 2 ^ q = x) :
    ⌊x⌋₊ ≤ (roundMag rm neg n d q).1 ∧ (roundMag rm neg n d q).1 ≤ ⌊x⌋₊ + 1
      ∧ ((roundMag rm neg n d q).2 = true ↔ ((roundMag rm neg n d q).1 : ℚ) ≠ x) := by
  have h0 : 0 ≤ x := hx ▸ by positivity
  have hu := Nat.lt_floor_add_one x
  have hz : ratRoundsUp rm neg x = true → x - ⌊x⌋₊ ≠ 0 := by
    intro h hc
    unfold ratRoundsUp at h
    split at h <;> simp [hc, not_lt.2 zero_le_one] at h
  rw [roundMag_eq rm neg n hd q hx]
  refine ⟨Nat.le_add_right .., Nat.add_le_add_left (by split <;> simp) _, ?_⟩
  simp only [decide_eq_true_eq]
  split
  · next h => exact ⟨fun _ => by push_cast; linarith, fun _ => hz h⟩
  · rw [Nat.add_zero, sub_ne_zero, ne_comm]

/-! ### Magnitudes of codes -/

theorem Fmt.units_mul (f : Fmt) {E k : Nat} (hk : k ≤ 2 * 2 ^ f.mbits) (hE : E = 0 ∨ 2 ^ f.mbits ≤ k) :
    f.units (E * 2 ^ f.mbits + k) = k * 2 ^ E := by
  unfold Fmt.units
  have hp : 0 < 2 ^ f.mbits := by positivity
  generalize 2 ^ f.mbits = p at hk hE hp
  rw [Nat.mul_comm E, Nat.mul_add_div hp, Nat.mul_add_mod]
  obtain h | h := Nat.lt_or_ge k p
  · obtain rfl : E = 0 := hE.resolve_right h.not_ge
    rw [Nat.div_eq_of_lt h, Nat.mod_eq_of_lt h]
    simp
  · obtain h2 | rfl := Nat.lt_or_eq_of_le hk
    · have hd : k / p = 1 := Nat.div_eq_of_lt_le (by omega) (by omega)
      have hm : k % p + p = k := by have := Nat.mod_add_div k p; rw [hd] at this; omega
      rw [hd, hm]
      simp
    · rw [Nat.mul_div_cancel _ hp, Nat.mul_mod_left, if_neg (by omega), Nat.zero_add, show E + 2 - 1 = E + 1 from rfl, Nat.pow_succ]
      ring

/-- A magnitude stands E steps of a binade and a multiple of that binade's step above zero. -/
theorem Fmt.units_form (f : Fmt) (x : Nat) : ∃ E k, f.units x = k * 2 ^ E ∧ k ≤ 2 * 2 ^ f.mbits := by
  have hm := Nat.mod_lt x (show 0 < 2 ^ f.mbits by positivity)
  unfold Fmt.units
  split
  · exact ⟨0, x % 2 ^ f.mbits, by simp, by omega⟩
  · exact ⟨_, _, rfl, by omega⟩

theorem Fmt.infBits_false (f : Fmt) : f.infBits false = f.top := by simp [Fmt.infBits, Fmt.sign, Fmt.top]

/-- The value of a code below infinity. -/
theorem Fmt.read_below {f : Fmt} (hf : f.ieee = true) {x : Nat} (h : x < f.top) :
    ∃ m e, f.read x = .fin false m e ∧ (m : ℚ) * 2 ^ e = f.units x * f.least := by
  have hlt : f.top ≤ 2 ^ (f.ebits + f.mbits) := by
    rw [Nat.pow_add]
    exact Nat.mul_le_mul_right _ (Nat.sub_le ..)
  have hx : f.mag x = x := Nat.mod_eq_of_lt (h.trans_le hlt)
  have hs : f.negative x = false := Nat.testBit_lt_two_pow (h.trans_le hlt)
  have := Fmt.read_fin hf (x := x) (by rwa [hx])
  rwa [hx, hs] at this

theorem floatTypes_ieee {f : Fmt} (hf : f ∈ floatTypes) : f.ieee = true := by
  simp only [floatTypes, List.mem_cons, List.not_mem_nil, or_false] at hf
  obtain rfl | rfl | rfl | rfl := hf <;> rfl

/-! ### The grid of a rounding -/

section
variable (f : Fmt) {n d : Nat} (hn : 0 < n) (hd : 0 < d)
include hn hd

/-- The fraction in steps of its binade: below twice 2 ^ mbits, and from 2 ^ mbits on where it is normal. -/
theorem Fmt.steps_bounds {e : ℤ} (he : floorLog2 n d = e) {b : ℤ} (hb : (if e < (1 - f.bias : ℤ) then (1 - f.bias : ℤ) else e) = b) :
    (n / d / 2 ^ (b - f.mbits) : ℚ) < 2 * 2 ^ f.mbits ∧ (1 - f.bias < b → (2 : ℚ) ^ f.mbits ≤ n / d / 2 ^ (b - f.mbits)) := by
  have hn' : (0 : ℚ) < n := by exact_mod_cast hn
  have hd' : (0 : ℚ) < d := by exact_mod_cast hd
  have hx : (0 : ℚ) < n / d := by positivity
  rw [floorLog2_eq hn hd] at he
  have hlo := Int.zpow_log_le_self (b := 2) one_lt_two hx
  have hhi := Int.lt_zpow_succ_log_self (b := 2) one_lt_two (n / d : ℚ)
  rw [he] at hlo hhi
  push_cast at hlo hhi
  have hstep : (2 : ℚ) ^ f.mbits * 2 ^ (b - f.mbits) = 2 ^ b := by
    rw [← zpow_natCast, ← zpow_add₀ two_ne_zero]
    congr 1
    ring
  have hp : (0 : ℚ) < 2 ^ (b - f.mbits) := by positivity
  constructor
  · rw [div_lt_iff₀ hp, mul_assoc, hstep, mul_comm, ← zpow_add_one₀ two_ne_zero]
    refine hhi.trans_le (zpow_le_zpow_right₀ one_le_two ?_)
    split at hb <;> omega
  · intro h
    rw [le_div_iff₀ hp, hstep]
    obtain rfl : e = b := by split at hb <;> omega
    exact hlo

end

theorem bit_nx (inexact tiny : Bool) : bit (flagIf inexact flagNX ||| flagIf tiny flagUF) 8 = inexact := by
  cases inexact <;> cases tiny <;> decide

/-- What rounding to nearest gives where it does not overflow: the nearest whole number of steps of the fraction's binade. -/
theorem Fmt.round_nearest_steps (f : Fmt) {n d : Nat} (hn : 0 < n) (hd : 0 < d) (h : (f.round 0 false false n d).1 < f.top) :
    ∃ (E : Nat) (q : ℤ), (2 : ℚ) ^ q = f.least * 2 ^ E
      ∧ (n / d / 2 ^ q : ℚ) < 2 * 2 ^ f.mbits ∧ (E ≠ 0 → (2 : ℚ) ^ f.mbits ≤ n / d / 2 ^ q)
      ∧ f.units (f.round 0 false false n d).1 = (roundMag 0 false n d q).1 * 2 ^ E
      ∧ (bit (f.round 0 false false n d).2 8 = true ↔ (roundMag 0 false n d q).2 = true) := by
  set e := floorLog2 n d with he
  set b : ℤ := if e < (1 - f.bias : ℤ) then (1 - f.bias : ℤ) else e with hb
  have hbge : 1 - (f.bias : ℤ) ≤ b := by rw [hb]; split <;> omega
  obtain ⟨hlt, hge⟩ := f.steps_bounds hn hd he.symm hb.symm
  obtain ⟨hfl, hfu, -⟩ := roundMag_floor 0 false n hd (b - f.mbits) rfl
  have hku : (roundMag 0 false n d (b - f.mbits)).1 ≤ 2 * 2 ^ f.mbits := by
    have : ⌊(n / d / 2 ^ (b - f.mbits) : ℚ)⌋₊ < 2 * 2 ^ f.mbits := (Nat.floor_lt (by positivity)).2 (by exact_mod_cast hlt)
    omega
  have hkl (hE : (b + f.bias - 1).toNat ≠ 0) : 2 ^ f.mbits ≤ (roundMag 0 false n d (b - f.mbits)).1 :=
    le_trans (Nat.le_floor (by exact_mod_cast hge (by omega))) hfl
  refine ⟨(b + f.bias - 1).toNat, b - f.mbits, ?_, hlt, fun hE => hge (by omega), ?_⟩
  · rw [Fmt.least, ← zpow_natCast, ← zpow_add₀ two_ne_zero]
    congr 1
    omega
  · have hu := f.units_mul (E := (b + f.bias - 1).toNat) hku ((eq_or_ne _ 0).imp_right hkl)
    rw [← hu]
    have hov : ¬(b + f.bias - 1).toNat * 2 ^ f.mbits + (roundMag 0 false n d (b - f.mbits)).1 ≥ f.emaxField * 2 ^ f.mbits := by
      intro hov
      simp only [Fmt.round, ← he, ← hb, hov, if_true, true_or] at h
      rw [Fmt.infBits_false] at h
      exact lt_irrefl _ h
    simp only [Fmt.round, ← he, ← hb, hov, if_false, Bool.false_and, Bool.false_eq_true]
    exact ⟨by simp [Fmt.sign], by rw [bit_nx]⟩

/-- Settles O12: the result is the nearest multiple of its binade's step; a code of a lower binade is no nearer than the least code of this one. -/
theorem roundingToNearestIsNearest : Obligations.RoundingToNearestIsNearest := by
  unfold Obligations.RoundingToNearestIsNearest
  intro value f hf n d hn hd r hr
  have hieee : f.ieee = true := floatTypes_ieee hf
  rw [Fmt.infBits_false] at hr ⊢
  have hval {x : Nat} (h : x < f.top) : value f x = f.units x * f.least := by
    obtain ⟨m, e, hx, hv⟩ := Fmt.read_below hieee h
    simp only [value, hx]
    exact hv
  obtain ⟨E, q, hq, hlt, hge, hu, hnx⟩ := f.round_nearest_steps hn hd hr
  have hq0 : (0 : ℚ) < 2 ^ q := by positivity
  set X : ℚ := n / d / 2 ^ q with hX
  set k := (roundMag 0 false n d q).1 with hk
  have hV : (n / d : ℚ) = X * 2 ^ q := by rw [hX, div_mul_cancel₀ _ hq0.ne']
  have hres : value f r.1 = k * 2 ^ q := by
    rw [hval hr, show f.units r.1 = _ from hu, hq]
    push_cast
    ring
  have hdist (y : ℚ) : |y * 2 ^ q - n / d| = |y - X| * 2 ^ q := by
    rw [hV, ← sub_mul, abs_mul, abs_of_pos hq0]
  refine ⟨fun x hx => ?_, ?_⟩
  · have near (j : Nat) : |value f r.1 - n / d| ≤ |(j : ℚ) * 2 ^ q - n / d| := by
      rw [hres, hdist, hdist]
      exact mul_le_mul_of_nonneg_right (roundMag_nearest false n hd q rfl j) hq0.le
    rw [hval hx]
    obtain ⟨F, j, hux, hj⟩ := f.units_form x
    obtain hEF | hFE := le_or_gt E F
    · -- a multiple of the step
      convert near (j * 2 ^ (F - E)) using 3
      rw [hux, hq, ← Nat.sub_add_cancel hEF, Nat.add_sub_cancel, Nat.pow_add]
      push_cast
      ring
    · -- below the binade
      refine (near (2 ^ f.mbits)).trans ?_
      have hbin : ((2 ^ f.mbits : Nat) : ℚ) * 2 ^ q ≤ n / d := by
        rw [hV]
        push_cast
        exact mul_le_mul_of_nonneg_right (hge (by omega)) hq0.le
      have hbelow : (f.units x : ℚ) * f.least ≤ (2 ^ f.mbits : Nat) * 2 ^ q := by
        have hle : f.units x ≤ 2 ^ f.mbits * 2 ^ E := by
          calc f.units x ≤ 2 * 2 ^ f.mbits * 2 ^ F := hux ▸ Nat.mul_le_mul_right _ hj
            _ = 2 ^ f.mbits * 2 ^ (F + 1) := by ring
            _ ≤ _ := Nat.mul_le_mul_left _ (Nat.pow_le_pow_right two_pos hFE)
        rw [hq, mul_comm f.least, ← mul_assoc]
        exact mul_le_mul_of_nonneg_right (by exact_mod_cast hle) f.least_pos.le
      rw [abs_of_nonpos (by linarith), abs_of_nonpos (by linarith)]
      linarith
  · rw [hnx, (roundMag_floor 0 false n hd q rfl).2.2, hres, hV, Ne, Ne, mul_left_inj' hq0.ne', mul_div_cancel_right₀ _ hq0.ne']

end Sys2Proof.Machine

/-! PROOFS. Sums and products of finite values are rounded once (04 R101, R105, R110; O9). -/

namespace Sys2Proof.Machine
open Sys2Proof

/-! ### Exact sums -/

/-- The value of a term: a sign, a magnitude and a power. -/
def termValue (t : Bool × Nat × ℤ) : ℚ := (if t.1 then -1 else 1) * t.2.1 * 2 ^ t.2.2

theorem termOver_value (t : Bool × Nat × ℤ) {e0 : ℤ} (h : e0 ≤ t.2.2) : (termOver t.1 t.2.1 t.2.2 e0 : ℚ) * 2 ^ e0 = termValue t := by
  obtain ⟨s, m, e⟩ := t
  obtain ⟨k, hk⟩ := Int.eq_ofNat_of_zero_le (show 0 ≤ e - e0 by simp only at h; omega)
  obtain rfl : e = k + e0 := by omega
  simp only [termOver, termValue, Int.add_sub_cancel, Int.toNat_natCast, zpow_add₀ (two_ne_zero (α := ℚ)), zpow_natCast]
  cases s <;> simp [mul_assoc]

/-- The common power of a sum: no larger than 0 and than any of its terms'. -/
theorem sumTerms_exp_le (ts : List (Bool × Nat × ℤ)) : (sumTerms ts).2 ≤ 0 ∧ ∀ t ∈ ts, (sumTerms ts).2 ≤ t.2.2 := by
  have h (a : ℤ) : ts.foldl (fun a t => if t.2.2 < a then t.2.2 else a) a ≤ a
      ∧ ∀ t ∈ ts, ts.foldl (fun a t => if t.2.2 < a then t.2.2 else a) a ≤ t.2.2 := by
    induction ts generalizing a with
    | nil => simp
    | cons t ts ih =>
      obtain ⟨h1, h2⟩ := ih (if t.2.2 < a then t.2.2 else a)
      simp only [List.foldl_cons, List.forall_mem_cons]
      refine ⟨h1.trans (by split <;> omega), h1.trans (by split <;> omega), h2⟩
  exact h 0

theorem sumTerms_value (ts : List (Bool × Nat × ℤ)) : ((sumTerms ts).1 : ℚ) * 2 ^ (sumTerms ts).2 = (ts.map termValue).sum := by
  obtain ⟨-, hle⟩ := sumTerms_exp_le ts
  have hs : (sumTerms ts).1 = ts.foldl (fun a t => a + termOver t.1 t.2.1 t.2.2 (sumTerms ts).2) 0 := rfl
  rw [hs]
  generalize (sumTerms ts).2 = e0 at hle
  clear hs
  have h (a : ℤ) : ((ts.foldl (fun a t => a + termOver t.1 t.2.1 t.2.2 e0) a : ℤ) : ℚ) * 2 ^ e0 = a * 2 ^ e0 + (ts.map termValue).sum := by
    induction ts generalizing a with
    | nil => simp
    | cons t ts ih =>
      rw [List.foldl_cons, ih (fun u hu => hle u (List.mem_cons_of_mem _ hu)), List.map_cons, List.sum_cons, Int.cast_add, add_mul,
        termOver_value t (hle t List.mem_cons_self), add_assoc]
  simpa using h 0

theorem termValue_eq_zero (t : Bool × Nat × ℤ) : termValue t = 0 ↔ t.2.1 = 0 := signed_eq_zero

/-- The sign of a zero sum (04 R101). -/
theorem zeroSum_sign {ts : List (Bool × Nat × ℤ)} (hne : ts ≠ []) (rm : Rounding) :
    (if (ts.all (fun t => t.2.1 == 0) && (ts.all (fun t => t.1) || ts.all fun t => !t.1)) = true then (ts.headD (false, 0, 0)).1 else rm == 2)
      = (if ((ts.map fun t => (termValue t, t.1)).all (fun t => t.1 == 0)
            && ((ts.map fun t => (termValue t, t.1)).all (·.2) || (ts.map fun t => (termValue t, t.1)).all (!·.2))) = true
          then (ts.map fun t => (termValue t, t.1)).all (·.2) else rm == 2) := by
  have hz (t : Bool × Nat × ℤ) : (termValue t == 0) = (t.2.1 == 0) := by
    rw [Bool.eq_iff_iff, beq_iff_eq, beq_iff_eq]
    exact termValue_eq_zero t
  simp only [List.all_map, Function.comp_def, hz]
  refine ite_congr rfl (fun h => ?_) fun _ => rfl
  obtain ⟨t, ts, rfl⟩ := List.exists_cons_of_ne_nil hne
  obtain ⟨-, h⟩ := Bool.and_eq_true_iff.1 h
  obtain h | h := Bool.or_eq_true_iff.1 h
  · rw [h]
    exact (List.all_eq_true.1 h) t List.mem_cons_self
  · have ht := (List.all_eq_true.1 h) t List.mem_cons_self
    simp only [Bool.not_eq_true'] at ht
    simp [ht]

/-- A sum of finite terms is the exact sum, rounded once. -/
theorem Fmt.roundSum_eq_sumOf (f : Fmt) (rm : Rounding) (ftz : Bool) {ts : List (Bool × Nat × ℤ)} (hne : ts ≠ []) :
    f.roundSum rm ftz ts = f.sumOf rm ftz (ts.map fun t => (termValue t, t.1)) := by
  have hv := sumTerms_value ts
  have hsum : ((ts.map fun t => (termValue t, t.1)).map (·.1)).sum = (ts.map termValue).sum := by
    rw [List.map_map]
    rfl
  simp only [Fmt.roundSum, Fmt.sumOf, hsum, ← hv, ← zeroSum_sign hne rm]
  generalize sumTerms ts = ve
  split
  · next h => rw [h, Int.cast_zero, zero_mul, Fmt.rounded_zero]
  · next h =>
    have hq : ((if decide (ve.1 < 0) = true then -1 else 1) * (ve.1.natAbs : ℚ)) = ve.1 := by
      rw [Nat.cast_natAbs]
      split
      · next h0 => rw [abs_of_neg (of_decide_eq_true h0), neg_one_mul, Int.cast_neg, neg_neg]
      · next h0 => rw [abs_of_nonneg (not_lt.1 (mt decide_eq_true h0)), one_mul]
    rw [Fmt.roundDyadic_eq_rounded, hq]
    exact f.rounded_sign rm ftz _ _ (mul_ne_zero (Int.cast_ne_zero.2 h) (by positivity))

/-- A sum of values, none of them infinite. -/
theorem Fmt.addVals_eq_sumOf (f : Fmt) (rm : Rounding) (ftz : Bool) {ts : List (Bool × Nat × ℤ)} (hne : ts ≠ []) :
    f.addVals rm ftz (ts.map fun t => .fin t.1 t.2.1 t.2.2) = f.sumOf rm ftz (ts.map fun t => (termValue t, t.1)) := by
  rw [Fmt.addVals_finite, Fmt.roundSum_eq_sumOf f rm ftz hne]

end Sys2Proof.Machine

/-! PROOFS. Sums and products of floating codes (04 R99, R101, R105; O9). -/

namespace Sys2Proof.Machine
open Sys2Proof

/-! ### Operands -/

/-- Reading an operand under FTZ: a subnormal f32 code is the zero of its sign (04 R99). -/
theorem Fmt.operand_eq (f : Fmt) (ftz : Bool) (x : Nat) (hx : x < 2 ^ f.width) :
    f.operand ftz x = if ftz = true ∧ f = fmtF32 ∧ 0 < x % 2 ^ 31 ∧ x % 2 ^ 31 < 2 ^ 23 then x / 2 ^ 31 * 2 ^ 31 else x := by
  unfold Fmt.operand
  cases ftz with
  | false => simp
  | true =>
    by_cases hf : f = fmtF32
    · subst hf
      have hsub : fmtF32.isSub x = true ↔ 0 < x % 2 ^ 31 ∧ x % 2 ^ 31 < 2 ^ 23 := by
        simp only [Fmt.isSub, fmtF32, Bool.and_eq_true, beq_iff_eq, bne_iff_ne, Nat.shiftRight_eq_div_pow]
        omega
      simp only [Bool.true_and, beq_self_eq_true, hsub, true_and]
      refine ite_congr rfl (fun h => ?_) fun _ => rfl
      simp only [fmtF32]
      omega
    · simp [hf]

section
variable {f : Fmt} {x : Nat}

theorem Fmt.isNan_of_finite (h : f.finite x = true) : (f.read x).isNan = false := by
  obtain ⟨m, e, hr, -⟩ := Fmt.read_of_finite h
  rw [hr]
  rfl

theorem Fmt.isNan_of_infinite (h : f.infinite x = true) : (f.read x).isNan = false := by
  rw [Fmt.read_of_infinite h]
  rfl

/-- A code that is neither finite nor infinite is a NaN with the sign and fraction of the code. -/
theorem Fmt.read_of_nan (hf : f.finite x = false) (hi : f.infinite x = false) : f.read x = .nan (f.negative x) (x % 2 ^ f.mbits) := by
  unfold Fmt.finite at hf
  unfold Fmt.infinite at hi
  have h : (f.read x).isNan = true → f.read x = .nan (f.negative x) (x % 2 ^ f.mbits) := by
    unfold Fmt.read
    simp only
    split
    · split
      · exact fun h => absurd h Bool.false_ne_true
      · exact fun _ => rfl
    · split
      · exact fun _ => rfl
      · split
        · exact fun h => absurd h Bool.false_ne_true
        · exact fun h => absurd h Bool.false_ne_true
  cases hr : f.read x with
  | nan s m => rw [← hr]; exact h (by rw [hr]; rfl)
  | inf | fin => simp [hr] at hf hi

end

theorem FVal.negate_eq_inf {v : FVal} {s : Bool} : v.negate = .inf s ↔ v = .inf (!s) := by
  cases v <;> simp [FVal.negate, Bool.eq_not, eq_comm]

theorem sign_mul (s t : Bool) : ((if s then -1 else 1) * (if t then -1 else 1) : ℚ) = if (s != t) = true then -1 else 1 := by
  cases s <;> cases t <;> simp

theorem termValue_mul (s t : Bool) (m n : Nat) (e k : ℤ) : termValue (s != t, m * n, e + k) = termValue (s, m, e) * termValue (t, n, k) := by
  simp only [termValue, ← sign_mul, zpow_add₀ (two_ne_zero (α := ℚ))]
  push_cast
  ring

theorem termValue_neg (s : Bool) (m : Nat) (e : ℤ) : termValue (!s, m, e) = -termValue (s, m, e) := by
  cases s <;> simp [termValue]

/-- An infinite factor and no zero: the product is infinite. -/
theorem mulVals_infinite {f : Fmt} {a b : Nat} (ha : f.finite a = true ∨ f.infinite a = true) (hb : f.finite b = true ∨ f.infinite b = true)
    (hi : f.infinite a = true ∨ f.infinite b = true) (ha0 : ¬(f.finite a = true ∧ f.value a = 0)) (hb0 : ¬(f.finite b = true ∧ f.value b = 0)) :
    mulVals (f.read a) (f.read b) = some (.inf (f.negative a != f.negative b)) := by
  have fin {x : Nat} (h : f.finite x = true) (h0 : ¬(f.finite x = true ∧ f.value x = 0)) :
      ∃ m e, f.read x = .fin (f.negative x) m e ∧ m ≠ 0 := by
    obtain ⟨m, e, hr, hv⟩ := Fmt.read_of_finite h
    exact ⟨m, e, hr, fun hm => h0 ⟨h, hv.trans (signed_eq_zero.2 hm)⟩⟩
  have not_both {x : Nat} (h : f.finite x = true) : ¬f.infinite x = true := fun hi => by
    obtain ⟨m, e, hr, -⟩ := Fmt.read_of_finite h
    rw [Fmt.read_of_infinite hi] at hr
    cases hr
  obtain ha | ha := ha <;> obtain hb | hb := hb
  · exact absurd hi (not_or.2 ⟨not_both ha, not_both hb⟩)
  · obtain ⟨m, e, hr, hm⟩ := fin ha ha0
    rw [hr, Fmt.read_of_infinite hb]
    exact if_neg hm
  · obtain ⟨m, e, hr, hm⟩ := fin hb hb0
    rw [hr, Fmt.read_of_infinite ha]
    exact if_neg hm
  · rw [Fmt.read_of_infinite ha, Fmt.read_of_infinite hb]
    rfl

theorem finiteSums : FiniteSums := by
  intro f hf rm ftz x y z hx hy hz a b c p isZero isNumber
  have nan {u : Nat} (h : isNumber u) : (f.read u).isNan = false := h.elim Fmt.isNan_of_finite Fmt.isNan_of_infinite
  have neg_inf {s : Bool} {u : Nat} (hu : f.finite u = true ∨ f.negative u = s) (hn : isNumber u) : FVal.inf (!s) ≠ f.read u := by
    intro h
    obtain hu | hu := hu
    · obtain ⟨m, e, hr, -⟩ := Fmt.read_of_finite hu
      rw [hr] at h
      cases h
    · have := f.read_neg? u
      rw [← h, hu] at this
      exact Bool.not_ne_self s this
  refine ⟨f.operand_eq ftz x hx, fun ha hb => ?_, fun ha hb => ?_, fun ha hb => ?_, fun ha hb hi ha0 hb0 => ?_⟩
  · obtain ⟨m, e, ra, va⟩ := Fmt.read_of_finite ha
    obtain ⟨n, k, rb, vb⟩ := Fmt.read_of_finite hb
    have hprod : mulVals (.fin (f.negative a) m e) (.fin (f.negative b) n k) = some (.fin p (m * n) (e + k)) := rfl
    refine ⟨?_, ?_, fun hc => ?_, fun hc => ?_⟩
    · rw [fAdd_vals ra rb rfl rfl, va, vb]
      exact f.addVals_eq_sumOf rm ftz (ts := [(f.negative a, m, e), (f.negative b, n, k)]) (by simp)
    · rw [fAdd_vals ra rb rfl rfl, va, vb]
      refine (f.addVals_eq_sumOf rm ftz (ts := [(f.negative a, m, e), (!f.negative b, n, k)]) (by simp)).trans ?_
      simp only [List.map_cons, List.map_nil, termValue_neg]
      rfl
    · obtain ⟨l, j, rc, vc⟩ := Fmt.read_of_finite hc
      rw [fMa_vals ra rb rfl rfl rc rfl, va, vb, vc, hprod]
      refine (f.addVals_eq_sumOf rm ftz (ts := [(p, m * n, e + k), (f.negative c, l, j)]) (by simp)).trans ?_
      simp only [List.map_cons, List.map_nil, termValue_mul, p]
      rfl
    · have rc : f.read c = .inf (f.negative c) := Fmt.read_of_infinite hc
      rw [fMa_vals ra rb rfl rfl rc rfl, hprod]
      exact Fmt.addVals_infinite (by simp) (by simp)
  · have ra := Fmt.read_of_infinite ha
    refine ⟨fun h => ?_, fun h => ?_⟩
    · rw [fAdd_vals ra rfl rfl (nan hb)]
      exact Fmt.addVals_infinite (by simp) (by simpa using neg_inf h hb)
    · rw [fAdd_vals ra rfl rfl (nan hb)]
      have hn := neg_inf (s := !f.negative a) (h.imp_right Bool.eq_not.2) hb
      refine Fmt.addVals_infinite (by simp) fun hmem => ?_
      obtain hm | hm := List.mem_pair.1 hmem
      · simp at hm
      · exact hn (FVal.negate_eq_inf.1 hm.symm).symm
  · obtain ⟨m, e, ra, -⟩ := Fmt.read_of_finite ha
    have rb := Fmt.read_of_infinite hb
    refine ⟨?_, ?_⟩ <;> rw [fAdd_vals ra rb rfl rfl]
    · exact Fmt.addVals_infinite (by simp) (by simp)
    · exact Fmt.addVals_infinite (by simp [FVal.negate]) (by simp [FVal.negate])
  · have hm := mulVals_infinite ha hb hi ha0 hb0
    refine ⟨fun hc => ?_, fun hc hs => ?_⟩
    · have hcn : isNumber c := hc.imp_right And.left
      rw [fMa_vals rfl rfl (nan ha) (nan hb) rfl (nan hcn), show mulVals (f.read (f.operand ftz x)) (f.read (f.operand ftz y)) = _ from hm]
      exact Fmt.addVals_infinite (by simp [p]) (by simpa [p] using neg_inf (hc.imp_right And.right) hcn)
    · rw [fMa_vals rfl rfl (nan ha) (nan hb) (Fmt.read_of_infinite hc) rfl,
        show mulVals (f.read (f.operand ftz x)) (f.read (f.operand ftz y)) = _ from hm]
      exact Fmt.addVals_opposite (s := p) (by simp [p]) (by simp [Bool.eq_not.2 (Ne.symm hs), c])

end Sys2Proof.Machine

/-! PROOFS. Products, powers and exponents of floating codes (04 R98, R101, R105, R110; O9). -/

namespace Sys2Proof.Machine
open Sys2Proof

/-! ### Magnitudes that overflow or vanish -/

/-- Two overflowing magnitudes round alike. -/
theorem Fmt.round_overflow (f : Fmt) (rm : Rounding) (ftz neg : Bool) {n d : Nat} (h : (f.emaxField : ℤ) + 1 - f.bias ≤ floorLog2 n d) :
    f.round rm ftz neg n d =
      (if rm = 0 ∨ (rm = 2 ∧ neg = true) ∨ (rm = 3 ∧ (!neg) = true) then f.infBits neg else f.maxBits neg, flagOF ||| flagNX) := by
  unfold Fmt.round
  generalize floorLog2 n d = e at h
  have hE : f.emaxField ≤ ((if e < (1 - f.bias : ℤ) then (1 - f.bias : ℤ) else e) + f.bias - 1).toNat := by split <;> omega
  have hmag (k : Nat) : ((if e < (1 - f.bias : ℤ) then (1 - f.bias : ℤ) else e) + f.bias - 1).toNat * 2 ^ f.mbits + k
      ≥ f.emaxField * 2 ^ f.mbits := le_add_right (Nat.mul_le_mul_right _ hE)
  simp only [hmag, if_true]

/-- Two magnitudes below a quarter of the least subnormal round alike. -/
theorem Fmt.round_vanishing (f : Fmt) (rm : Rounding) (ftz neg : Bool) {n d n' d' : Nat} (hn : 0 < n) (hd : 0 < d) (hn' : 0 < n') (hd' : 0 < d')
    (h : floorLog2 n d < 1 - (f.bias : ℤ) - f.mbits - 1) (h' : floorLog2 n' d' < 1 - (f.bias : ℤ) - f.mbits - 1) :
    f.round rm ftz neg n d = f.round rm ftz neg n' d' := by
  have small {n d : Nat} (hn : 0 < n) (hd : 0 < d) (h : floorLog2 n d < 1 - (f.bias : ℤ) - f.mbits - 1) :
      ((0 : Nat) : ℚ) / 2 < n / d / 2 ^ (1 - (f.bias : ℤ) - f.mbits) ∧ (n / d / 2 ^ (1 - (f.bias : ℤ) - f.mbits) : ℚ) < ((0 : Nat) + 1) / 2 := by
    have hn' : (0 : ℚ) < n := by exact_mod_cast hn
    have hd' : (0 : ℚ) < d := by exact_mod_cast hd
    refine ⟨by rw [Nat.cast_zero, zero_div]; positivity, ?_⟩
    have hx := Int.lt_zpow_succ_log_self (b := 2) one_lt_two (n / d : ℚ)
    rw [← floorLog2_eq hn hd] at hx
    rw [div_lt_iff₀ (by positivity), Nat.cast_zero, zero_add, one_div, mul_comm, ← zpow_sub_one₀ two_ne_zero]
    exact hx.trans_le (zpow_le_zpow_right₀ one_le_two (by omega))
  have hm := roundMag_between rm neg hd hd' _ (small hn hd h) (small hn' hd' h')
  have he {e : ℤ} (h : e < 1 - (f.bias : ℤ) - f.mbits - 1) : e < 1 - f.bias ∧ (e == (1 - f.bias : ℤ) - 1) = false :=
    ⟨by omega, by rw [beq_eq_false_iff_ne]; omega⟩
  unfold Fmt.round
  simp only [he h, he h', if_true, hm, Bool.false_and]

section
variable (f : Fmt) (rm : Rounding) (ftz s : Bool) {m : Nat} (hm : 0 < m) {j k : ℤ}
include hm

theorem Fmt.rounded_dyadic_eq_round (z : Bool) (e : ℤ) : ∃ n d : Nat, 0 < n ∧ 0 < d ∧ floorLog2 n d = Int.log 2 (m * 2 ^ e : ℚ)
    ∧ f.rounded rm ftz z ((if s then -1 else 1) * m * 2 ^ e) = f.round rm ftz s n d := by
  have hm' : (0 : ℚ) < m := by exact_mod_cast hm
  have hx : (0 : ℚ) < m * 2 ^ e := by positivity
  have hn : 0 < (m * 2 ^ e : ℚ).num.natAbs := Int.natAbs_pos.2 (Rat.num_ne_zero.2 hx.ne')
  have hv : ((m * 2 ^ e : ℚ).num.natAbs : ℚ) / (m * 2 ^ e : ℚ).den = m * 2 ^ e := by
    rw [Nat.cast_natAbs, abs_of_pos (Rat.num_pos.2 hx), Rat.num_div_den]
  refine ⟨_, _, hn, Rat.den_pos _, by rw [floorLog2_eq hn (Rat.den_pos _), hv], ?_⟩
  rw [f.round_eq_rounded rm ftz s z hn (Rat.den_pos _) rfl, hv, mul_assoc]

theorem log_dyadic (e : ℤ) : Int.log 2 (m * 2 ^ e : ℚ) = Nat.log2 m + e := by
  have hm' : (0 : ℚ) < m := by exact_mod_cast hm
  have hx : (0 : ℚ) < m * 2 ^ e := by positivity
  have hlo : (2 : ℚ) ^ (Nat.log2 m : ℤ) ≤ m := by exact_mod_cast Nat.log2_self_le hm.ne'
  have hhi : (m : ℚ) < 2 ^ (Nat.log2 m + 1 : ℤ) := by exact_mod_cast Nat.lt_log2_self
  refine le_antisymm (Int.lt_add_one_iff.1 ?_) ?_
  · rw [← not_le, ← Int.zpow_le_iff_le_log one_lt_two hx, not_le]
    push_cast
    rw [add_right_comm, zpow_add₀ two_ne_zero]
    gcongr
  · rw [← Int.zpow_le_iff_le_log one_lt_two hx]
    push_cast
    rw [zpow_add₀ two_ne_zero]
    gcongr

end

/-! ### fscale (04 R110) -/

/-- The magnitude and the power of a finite code of an IEEE-style format. -/
theorem Fmt.read_bounds {f : Fmt} (hf : f.ieee = true) {x m : Nat} {s : Bool} {e : ℤ} (h : f.read x = .fin s m e) :
    m < 2 ^ (f.mbits + 1) ∧ 1 - (f.bias : ℤ) - f.mbits ≤ e ∧ e ≤ f.emaxField - (f.bias : ℤ) - f.mbits := by
  have hq : f.mag x / 2 ^ f.mbits < 2 ^ f.ebits := (Nat.div_lt_iff_lt_mul (by positivity)).2 <| by
    rw [← Nat.pow_add]
    exact Nat.mod_lt _ (by positivity)
  have hm := Nat.mod_lt (f.mag x) (show 0 < 2 ^ f.mbits by positivity)
  have he : f.mag x / 2 ^ f.mbits ≤ f.emaxField := Nat.le_sub_one_of_lt hq
  rw [Nat.pow_succ]
  rw [Fmt.read_eq hf] at h
  generalize f.mag x / 2 ^ f.mbits = q at h he
  generalize f.mag x % 2 ^ f.mbits = r at h hm
  split at h
  · split at h <;> cases h
  · split at h <;> cases h <;> omega

/-- A power of two beyond any format's range may be cut to ±8192. -/
theorem Fmt.rounded_scale_cut {f : Fmt} (hf : f ∈ floatTypes) (rm : Rounding) (ftz : Bool) {x m : Nat} {s : Bool} {e : ℤ}
    (h : f.read x = .fin s m e) (k : ℤ) :
    f.rounded rm ftz s ((if s then -1 else 1) * m * 2 ^ (e + max (-8192) (min 8192 k))) = f.rounded rm ftz s ((if s then -1 else 1) * m * 2 ^ (e + k)) := by
  obtain rfl | hm := Nat.eq_zero_or_pos m
  · simp
  obtain ⟨hlt, hge, hle⟩ := Fmt.read_bounds (floatTypes_ieee hf) h
  have hlog : Nat.log2 m < f.mbits + 1 := (Nat.log2_lt hm.ne').2 hlt
  have hsize : f.emaxField + 2 * f.mbits + 2 ≤ 8192 := by
    simp only [floatTypes, List.mem_cons, List.not_mem_nil, or_false] at hf
    obtain rfl | rfl | rfl | rfl := hf <;> decide
  obtain ⟨n, d, hn, hd, hl, hr⟩ := f.rounded_dyadic_eq_round rm ftz s hm s (e + max (-8192) (min 8192 k))
  obtain ⟨n', d', hn', hd', hl', hr'⟩ := f.rounded_dyadic_eq_round rm ftz s hm s (e + k)
  rw [log_dyadic hm] at hl hl'
  obtain hk | hk | hk : k < -8192 ∨ -8192 ≤ k ∧ k ≤ 8192 ∨ 8192 < k := by omega
  · rw [hr, hr']
    exact f.round_vanishing rm ftz s hn hd hn' hd' (by omega) (by omega)
  · rw [show max (-8192) (min 8192 k) = k by omega]
  · rw [hr, hr', f.round_overflow rm ftz s (by omega), f.round_overflow rm ftz s (by omega)]

section
variable {f : Fmt} {rm : Rounding} {ftz : Bool} {x : Nat}

theorem fScale_finite (hf : f ∈ floatTypes) {s : Bool} {m : Nat} {e : ℤ} (hx : f.read (f.operand ftz x) = .fin s m e) (k : ℤ) :
    fScale f rm ftz x k = f.rounded rm ftz s ((if s then -1 else 1) * m * 2 ^ (e + k)) := by
  have hno : f.nanOf [f.operand ftz x] = none := Fmt.nanOf_none (by simp [hx, FVal.isNan])
  simp only [fScale, hno, hx]
  rw [Fmt.roundDyadic_eq_rounded, Fmt.rounded_scale_cut hf rm ftz hx]

theorem fScale_infinite {s : Bool} (hx : f.read (f.operand ftz x) = .inf s) (k : ℤ) : fScale f rm ftz x k = (f.operand ftz x, 0) := by
  have hno : f.nanOf [f.operand ftz x] = none := Fmt.nanOf_none (by simp [hx, FVal.isNan])
  simp only [fScale, hno, hx]

theorem fScale_nan {s : Bool} {m : Nat} (hx : f.read (f.operand ftz x) = .nan s m) (k : ℤ) :
    fScale f rm ftz x k = (f.quiet (f.operand ftz x), if f.isSnan (f.operand ftz x) then 0x10 else 0) := by
  have hq : f.nanOf [f.operand ftz x] = some (f.quieted [f.operand ftz x]) := Fmt.nanOf_quieted (by simp [hx, FVal.isNan])
  simp only [fScale, hq]
  simp [Fmt.quieted, hx, FVal.isNan, Fmt.quiet]

end

theorem finiteProducts : FiniteProducts := by
  intro f hf rm ftz x y _ _ a b p isZero isNumber
  have nan {u : Nat} (h : isNumber u) : (f.read u).isNan = false := h.elim Fmt.isNan_of_finite Fmt.isNan_of_infinite
  have nan_of {u : Nat} (h : ¬isNumber u) : f.read u = .nan (f.negative u) (u % 2 ^ f.mbits) := by
    obtain ⟨h1, h2⟩ := not_or.1 h
    exact Fmt.read_of_nan (Bool.eq_false_iff.2 h1) (Bool.eq_false_iff.2 h2)
  refine ⟨fun ha hb => ?_, fun ha hb hi ha0 hb0 => ?_, fun k => ⟨fun ha => ?_, fun ha => ?_, fun ha => ?_⟩, fun ha => ?_, fun hi h => ?_,
    fun ha e hlo hhi => ?_⟩
  · obtain ⟨m, e, ra, va⟩ := Fmt.read_of_finite ha
    obtain ⟨n, k, rb, vb⟩ := Fmt.read_of_finite hb
    have hv : f.value a * f.value b = termValue (p, m * n, e + k) := by rw [termValue_mul, va, vb]; rfl
    rw [fMul_vals ra rb rfl rfl, hv]
    exact f.roundDyadic_eq_rounded rm ftz p (m * n) (e + k)
  · rw [fMul_vals rfl rfl (nan ha) (nan hb), show mulVals (f.read (f.operand ftz x)) (f.read (f.operand ftz y)) = _ from
      mulVals_infinite ha hb hi ha0 hb0]
    rfl
  · obtain ⟨m, e, ra, va⟩ := Fmt.read_of_finite ha
    rw [fScale_finite hf ra, va, zpow_add₀ two_ne_zero, ← mul_assoc]
  · exact fScale_infinite (Fmt.read_of_infinite ha) k
  · exact fScale_nan (nan_of ha) k
  · have ra : f.read (f.operand ftz x) = .inf (f.negative a) := Fmt.read_of_infinite ha
    simp only [fExpo, ra]
    rfl
  · obtain h | ⟨hfin, h0⟩ := h
    · have ra : f.read (f.operand ftz x) = _ := Fmt.read_of_nan h hi
      simp only [fExpo, ra]
      rfl
    · obtain ⟨m, e, ra, va⟩ := Fmt.read_of_finite hfin
      have ra : f.read (f.operand ftz x) = .fin (f.negative a) m e := ra
      simp only [fExpo, ra, if_pos (signed_eq_zero.1 (va.symm.trans h0))]
      rfl
  · obtain ⟨m, k, ra, va⟩ := Fmt.read_of_finite ha
    have ra : f.read (f.operand ftz x) = .fin (f.negative a) m k := ra
    have habs : |f.value a| = m * 2 ^ k := by
      rw [va, abs_mul, abs_mul, abs_of_nonneg (show (0 : ℚ) ≤ m by positivity), abs_of_pos (show (0 : ℚ) < 2 ^ k by positivity)]
      cases f.negative a <;> simp
    rw [habs] at hlo hhi
    have hx : (0 : ℚ) < m * 2 ^ k := lt_of_lt_of_le (by positivity) hlo
    have hm : 0 < m := Nat.pos_of_ne_zero fun h => by simp [h] at hx
    have he : e = Nat.log2 m + k := by
      rw [← log_dyadic hm]
      refine le_antisymm ((Int.zpow_le_iff_le_log one_lt_two hx).1 (by exact_mod_cast hlo)) (Int.lt_add_one_iff.1 ?_)
      exact (Int.lt_zpow_iff_log_lt one_lt_two hx).1 (by exact_mod_cast hhi)
    simp only [fExpo, ra, if_neg hm.ne', he]

end Sys2Proof.Machine

/-! PROOFS. Conversions, the dot product of halves, signs and classes of floating codes (04 R100, R101, R105, R107, R109, R113, R115; O9). -/

namespace Sys2Proof.Machine
open Sys2Proof

/-! ### Conversions (04 R113, R115) -/

theorem intToF_rounded (f : Fmt) (rm : Rounding) (ftz : Bool) (v : ℤ) : intToF f rm ftz v = f.rounded rm ftz false v := by
  have hv : (((if decide (v < 0) = true then -1 else 1) * (v.natAbs : ℚ)) * 2 ^ (0 : ℤ)) = v := by
    rw [Nat.cast_natAbs, zpow_zero, mul_one]
    split
    · next h => rw [abs_of_neg (of_decide_eq_true h), neg_one_mul, Int.cast_neg, neg_neg]
    · next h => rw [abs_of_nonneg (not_lt.1 (mt decide_eq_true h)), one_mul]
  rw [intToF, Fmt.roundDyadic_eq_rounded, hv]
  obtain rfl | h := eq_or_ne v 0
  · rfl
  · exact f.rounded_sign rm ftz _ _ (Int.cast_ne_zero.2 h)

section
variable {src dst : Fmt} {rm : Rounding} {ftz : Bool} {x : Nat}

theorem fConvert_finite (h : src.finite x = true) : fConvert src dst rm ftz x = dst.rounded rm ftz (src.negative x) (src.value x) := by
  obtain ⟨m, e, hr, hv⟩ := Fmt.read_of_finite h
  simp only [fConvert, hr, Fmt.ofVal]
  rw [Fmt.roundDyadic_eq_rounded, hv]

theorem fConvert_infinite (h : src.infinite x = true) : fConvert src dst rm ftz x = (dst.infBits (src.negative x), 0) := by
  simp only [fConvert, Fmt.read_of_infinite h, Fmt.ofVal]

theorem fConvert_nan (hf : src.finite x = false) (hi : src.infinite x = false) :
    fConvert src dst rm ftz x =
      ((dst.infBits (src.negative x) + if src.mbits ≤ dst.mbits then x % 2 ^ src.mbits * 2 ^ (dst.mbits - src.mbits)
        else x % 2 ^ src.mbits / 2 ^ (src.mbits - dst.mbits)) ||| 2 ^ (dst.mbits - 1), if src.isSnan x then 0x10 else 0) := by
  simp only [fConvert, Fmt.read_of_nan hf hi]
  rfl

end

theorem convertedValues : ConvertedValues :=
  fun dst _ rm ftz => ⟨intToF_rounded dst rm ftz, fun _ _ _ _ => ⟨fConvert_finite, fConvert_infinite, fConvert_nan⟩⟩

/-! ### The dot product of halves (04 R105) -/

theorem Fmt.inf_eq_read {f : Fmt} {x : Nat} {s : Bool} : .inf s = f.read x ↔ f.infinite x = true ∧ f.negative x = s := by
  refine ⟨fun h => ⟨by rw [Fmt.infinite, ← h], by rw [← f.read_neg? x, ← h]; rfl⟩, fun ⟨h, hs⟩ => ?_⟩
  rw [Fmt.read_of_infinite h, hs]

theorem Fmt.finite_of_number {f : Fmt} {x : Nat} (h : (f.read x).isNan = false) (hi : f.infinite x = false) : f.finite x = true := by
  cases hf : f.finite x with
  | true => rfl
  | false => simp [Fmt.read_of_nan hf hi, FVal.isNan] at h

theorem Fmt.isZero_of_value {f : Fmt} {x : Nat} (hf : f.finite x = true) (h0 : f.value x = 0) : (f.read x).isZero = true := by
  obtain ⟨m, e, hr, hv⟩ := Fmt.read_of_finite hf
  rw [hr, signed_eq_zero.1 (hv.symm.trans h0)]
  rfl

/-- The product of two numbers, not of zero and infinity: infinite where a factor is, otherwise exact. -/
theorem mulVals_numbers {f : Fmt} {a b : Nat} (ha : (f.read a).isNan = false) (hb : (f.read b).isNan = false)
    (hbad : ¬((f.infinite a = true ∧ f.finite b = true ∧ f.value b = 0) ∨ ((f.finite a = true ∧ f.value a = 0) ∧ f.infinite b = true))) :
    ∃ v, mulVals (f.read a) (f.read b) = some v
      ∧ (∀ s, .inf s = v ↔ (f.infinite a || f.infinite b) = true ∧ (f.negative a != f.negative b) = s)
      ∧ ((f.infinite a || f.infinite b) = false →
          ∃ m e, v = .fin (f.negative a != f.negative b) m e ∧ termValue (f.negative a != f.negative b, m, e) = f.value a * f.value b) := by
  have number {x : Nat} (h : (f.read x).isNan = false) : f.finite x = true ∨ f.infinite x = true := by
    cases hi : f.infinite x with
    | true => exact .inr rfl
    | false => exact .inl (Fmt.finite_of_number h hi)
  have apart {x : Nat} (h : f.infinite x = true) : ¬f.finite x = true := by simp [Fmt.finite, Fmt.read_of_infinite h]
  cases hi : (f.infinite a || f.infinite b) with
  | true =>
    have hi := Bool.or_eq_true_iff.1 hi
    have hm := mulVals_infinite (number ha) (number hb) hi
      (fun h => hi.elim (fun i => apart i h.1) fun i => hbad (.inr ⟨h, i⟩)) (fun h => hi.elim (fun i => hbad (.inl ⟨i, h⟩)) fun i => apart i h.1)
    exact ⟨_, hm, fun s => by simp [eq_comm], fun h => absurd h (by simp)⟩
  | false =>
    obtain ⟨hia, hib⟩ := Bool.or_eq_false_iff.1 hi
    obtain ⟨m, e, ra, va⟩ := Fmt.read_of_finite (Fmt.finite_of_number ha hia)
    obtain ⟨n, k, rb, vb⟩ := Fmt.read_of_finite (Fmt.finite_of_number hb hib)
    refine ⟨_, by rw [ra, rb]; rfl, fun s => by simp, fun _ => ⟨_, _, rfl, ?_⟩⟩
    rw [termValue_mul, va, vb]
    rfl

theorem dotValues : DotValues := by
  intro h hh rm ftz x y z hx hy hz f c halves nan nv a0 a1 b0 b1 p0 p1 isZero bad big infs
  refine ⟨fun n hn => ?_, fun hall => ?_⟩
  · have hfind : ([x % 65536, x / 65536, y % 65536, y / 65536].find? fun v => (h.read v).isNan) = some n := hn
    simp only [fDot2, hfind]
    rfl
  have number {n : Nat} (hn : n ∈ halves) : (h.read n).isNan = false := by simpa [nan] using List.all_eq_true.1 hall n hn
  have hfind : ([x % 65536, x / 65536, y % 65536, y / 65536].find? fun v => (h.read v).isNan) = none :=
    List.find?_eq_none.2 fun n hn => by simp [number hn]
  refine ⟨fun hc => ?_, fun hc => ⟨fun hbad => ?_, fun hb0 hb1 => ?_⟩⟩
  · have hc : (fmtF32.read (fmtF32.operand ftz z)).isNan = true := hc
    simp only [fDot2, hfind, hc, if_true]
    rfl
  · have hc : (fmtF32.read (fmtF32.operand ftz z)).isNan = false := hc
    have none_of {a b : Nat} (hb : bad a b) : mulVals (h.read a) (h.read b) = none :=
      mulVals_none <| hb.imp (fun ⟨hi, h0⟩ => ⟨⟨_, Fmt.read_of_infinite hi⟩, Fmt.isZero_of_value h0.1 h0.2⟩)
        fun ⟨h0, hi⟩ => ⟨Fmt.isZero_of_value h0.1 h0.2, _, Fmt.read_of_infinite hi⟩
    simp only [fDot2, hfind, hc, Bool.false_eq_true, if_false]
    obtain hb | hb := hbad
    · have hm : mulVals (h.read (x % 65536)) (h.read (y % 65536)) = none := none_of hb
      simp only [hm]
      rfl
    · have hm : mulVals (h.read (x / 65536)) (h.read (y / 65536)) = none := none_of hb
      simp only [hm]
      cases mulVals (h.read (x % 65536)) (h.read (y % 65536)) <;> rfl
  · have hcn : (fmtF32.read (fmtF32.operand ftz z)).isNan = false := hc
    obtain ⟨v, hv, vinf, vfin⟩ := mulVals_numbers (f := h) (a := a0) (b := b0) (number (by simp [halves, a0])) (number (by simp [halves, b0])) hb0
    obtain ⟨w, hw, winf, wfin⟩ := mulVals_numbers (f := h) (a := a1) (b := b1) (number (by simp [halves, a1])) (number (by simp [halves, b1])) hb1
    have hdot : fDot2 h rm ftz x y z = f.addVals rm ftz [f.read c, v, w] := by
      have hv : mulVals (h.read (x % 65536)) (h.read (y % 65536)) = some v := hv
      have hw : mulVals (h.read (x / 65536)) (h.read (y / 65536)) = some w := hw
      simp only [fDot2, hfind, hcn, Bool.false_eq_true, if_false, hv, hw]
      rfl
    have hmem (s : Bool) : .inf s ∈ [f.read c, v, w] ↔ s ∈ infs := by
      simp only [List.mem_cons, List.not_mem_nil, or_false, Fmt.inf_eq_read, vinf, winf, infs, List.mem_append]
      have single (b : Prop) [Decidable b] (t : Bool) : s ∈ (if b then [t] else []) ↔ b ∧ t = s := by
        split
        · next h => rw [List.mem_singleton, eq_comm, and_iff_right h]
        · next h => simp [h]
      rw [single, single, single, or_assoc]
    rw [hdot]
    refine ⟨fun ht hf => Fmt.addVals_opposite ((hmem true).2 ht) ((hmem false).2 hf),
      fun s hs hs' => Fmt.addVals_infinite ((hmem s).2 hs) (mt (hmem _).1 hs'), fun hi => ?_⟩
    have hno : f.infinite c = false ∧ big a0 b0 = false ∧ big a1 b1 = false := by
      refine ⟨?_, ?_, ?_⟩ <;> rw [Bool.eq_false_iff] <;> intro hb <;> simp [infs, hb] at hi
    obtain ⟨hci, h0, h1⟩ := hno
    obtain ⟨l, j, rc, vc⟩ := Fmt.read_of_finite (Fmt.finite_of_number hc hci)
    obtain ⟨m, e, rfl, hvv⟩ := vfin h0
    obtain ⟨n, k, rfl, hwv⟩ := wfin h1
    rw [rc, vc]
    refine (f.addVals_eq_sumOf rm ftz (ts := [(f.negative c, l, j), (p0, m, e), (p1, n, k)]) (by simp)).trans ?_
    simp only [List.map_cons, List.map_nil, show termValue (p0, m, e) = _ from hvv, show termValue (p1, n, k) = _ from hwv]
    rfl

/-! ### Signs and classes (04 R107, R109) -/

theorem Fmt.isSub_eq (f : Fmt) (x : Nat) : f.isSub x = (f.mag x / 2 ^ f.mbits == 0 && f.mag x % 2 ^ f.mbits != 0) := by
  rw [Fmt.isSub, Fmt.mag, Nat.shiftRight_eq_div_pow, Nat.add_comm f.ebits, Nat.pow_add, Nat.mod_mul_right_div_self,
    Nat.mod_mod_of_dvd _ (Nat.dvd_mul_right ..)]

theorem Fmt.isSnan_eq {f : Fmt} (hf : f.ieee = true) (hm : 0 < f.ebits + f.mbits) {x : Nat} (h : (f.read x).isNan = true) :
    f.isSnan x = !(f.mag x).testBit (f.mbits - 1) := by
  rw [Fmt.isSnan, hf, h, Fmt.mag, Nat.testBit_mod_two_pow, decide_eq_true (show f.mbits - 1 < f.ebits + f.mbits by omega)]
  simp

theorem signsAndClasses : SignsAndClasses := by
  intro f hf x y hx hy h m inf neg signed
  have hs (s : Bool) : f.sign s + x % 2 ^ (f.ebits + f.mbits) = signed s := by cases s <;> simp [Fmt.sign, signed, h, m]
  have hieee := floatTypes_ieee hf
  have hpos : 0 < f.ebits + f.mbits := by
    simp only [floatTypes, List.mem_cons, List.not_mem_nil, or_false] at hf
    obtain rfl | rfl | rfl | rfl := hf <;> decide
  have hm : f.mag x = m := rfl
  have hinf : inf = f.top := rfl
  have hp : 0 < 2 ^ f.mbits := by positivity
  refine ⟨hs false, hs _, hs _, hs _, ?_⟩
  obtain hlt | heq | hgt := lt_trichotomy m inf
  · rw [if_neg hlt.not_gt, if_neg hlt.ne]
    have hd : m / 2 ^ f.mbits ≠ f.emaxField := ((Nat.div_lt_iff_lt_mul hp).2 hlt).ne
    have hread := Fmt.read_eq hieee x
    rw [hm, if_neg hd] at hread
    by_cases hsub : m / 2 ^ f.mbits = 0
    · have hml : m < 2 ^ f.mbits := (Nat.div_eq_zero_iff_lt hp).1 hsub
      rw [if_pos hsub, Nat.mod_eq_of_lt hml] at hread
      simp only [fClass, hread, Fmt.isSub_eq, hm, hsub, Nat.mod_eq_of_lt hml, if_neg hml.not_ge]
      by_cases h0 : m = 0
      · cases hn : f.negative x <;> simp [h0, neg, hn]
      · cases hn : f.negative x <;> simp [h0, neg, hn]
    · have hml : 2 ^ f.mbits ≤ m := Nat.le_of_not_lt (mt Nat.div_eq_of_lt hsub)
      have hne : m % 2 ^ f.mbits + 2 ^ f.mbits ≠ 0 := by omega
      rw [if_neg hsub] at hread
      simp only [fClass, hread, Fmt.isSub_eq, hm, if_neg hne, if_pos hml, beq_eq_false_iff_ne.2 hsub, Bool.false_and]
      cases hn : f.negative x <;> simp [neg, hn]
  · rw [if_neg heq.not_gt, if_pos heq]
    simp only [fClass, Fmt.read_top hieee (x := x) heq]
    cases hn : f.negative x <;> simp [neg, hn]
  · have hnan : (f.read x).isNan = true := by
      by_contra hc
      exact absurd (Fmt.mag_le_top hieee (Bool.eq_false_iff.2 hc)) hgt.not_ge
    rw [if_pos hgt]
    cases hr : f.read x with
    | nan s k =>
      simp only [fClass, hr, Fmt.isSnan_eq hieee hpos hnan, hm]
      cases m.testBit (f.mbits - 1) <;> rfl
    | inf | fin => simp [hr, FVal.isNan] at hnan

end Sys2Proof.Machine

/-! PROOFS. Minima, roundings to whole numbers and to integers, and the short-latency floating instructions (04 R105-R110, R113-R116; O9). -/

namespace Sys2Proof.Machine
open Sys2Proof

/-! ### fmin and fmax (04 R106) -/

/-- A code by its sign bit and what is left. -/
theorem Fmt.ordKey_eq (f : Fmt) {x : Nat} (hx : x < 2 ^ f.width) :
    f.ordKey x = if 2 ^ (f.ebits + f.mbits) ≤ x then -((x : ℤ) - 2 ^ (f.ebits + f.mbits)) - 1 else x := by
  have hw : 2 ^ f.width = 2 * 2 ^ (f.ebits + f.mbits) := by rw [Fmt.width, Nat.add_assoc, Nat.pow_add, Nat.pow_one]
  rw [hw] at hx
  have hb : x.testBit (f.ebits + f.mbits) = decide (2 ^ (f.ebits + f.mbits) ≤ x) := by
    rw [Nat.testBit_eq_decide_div_mod_eq]
    congr 1
    rw [eq_iff_iff]
    constructor
    · intro h
      by_contra hc
      rw [Nat.div_eq_of_lt (not_le.1 hc)] at h
      exact absurd h (by decide)
    · intro h
      rw [Nat.div_eq_of_lt_le (k := 1) (by omega) (by omega)]
  unfold Fmt.ordKey
  simp only [hb, decide_eq_true_eq]
  split
  · next h =>
    rw [Nat.mod_eq_sub_mod h, Nat.mod_eq_of_lt (by omega), Nat.cast_sub h]
    push_cast
    rfl
  · next h => rw [Nat.mod_eq_of_lt (not_le.1 h)]

/-- The order of codes that are no NaN: by sign, then by magnitude. -/
def Fmt.below (f : Fmt) (x y : Nat) : Prop :=
  if 2 ^ (f.ebits + f.mbits) ≤ x then (if 2 ^ (f.ebits + f.mbits) ≤ y then y < x else True)
  else if 2 ^ (f.ebits + f.mbits) ≤ y then False else x < y

theorem Fmt.below_iff (f : Fmt) {x y : Nat} (hx : x < 2 ^ f.width) (hy : y < 2 ^ f.width) : f.below x y ↔ f.ordKey x < f.ordKey y := by
  rw [f.ordKey_eq hx, f.ordKey_eq hy, Fmt.below]
  have hp : ((2 ^ (f.ebits + f.mbits) : Nat) : ℤ) = 2 ^ (f.ebits + f.mbits) := by push_cast; rfl
  rw [← hp]
  generalize 2 ^ (f.ebits + f.mbits) = h
  by_cases h1 : h ≤ x <;> by_cases h2 : h ≤ y <;> simp only [h1, h2, if_true, if_false, true_iff, false_iff] <;> omega

section
variable {f : Fmt} {a b : Nat}

theorem Fmt.isSnan_of_number (h : (f.read a).isNan = false) : f.isSnan a = false := by simp [Fmt.isSnan, h]

theorem fMinMax_numbers (ha : (f.read a).isNan = false) (hb : (f.read b).isNan = false) (mx num : Bool) :
    fMinMax f false mx num a b = (if (decide (f.ordKey a < f.ordKey b) != mx) = true then a else b, 0) := by
  have hno : f.nanOf [a, b] = none := Fmt.nanOf_none (by simp [ha, hb])
  have hs : flagIf (f.isSnan a || f.isSnan b) flagNV = 0 := by rw [Fmt.isSnan_of_number ha, Fmt.isSnan_of_number hb]; rfl
  cases num <;> simp only [fMinMax, Fmt.operand_noFlush, hno, ha, hb, hs] <;> rfl

theorem Fmt.quieted_first (h : (f.read a).isNan = true) (xs : List Nat) :
    f.quieted (a :: xs) = (a ||| 2 ^ (f.mbits - 1), if (a :: xs).any f.isSnan then 0x10 else 0) := by
  simp only [Fmt.quieted, List.find?_cons_of_pos (p := fun x => (f.read x).isNan) h, Option.getD_some]

theorem Fmt.quieted_second (ha : (f.read a).isNan = false) (hb : (f.read b).isNan = true) :
    f.quieted [a, b] = (b ||| 2 ^ (f.mbits - 1), if [a, b].any f.isSnan then 0x10 else 0) := by
  simp [Fmt.quieted, ha, hb]

theorem fMinMax_nan (h : (f.read a).isNan = true ∨ (f.read b).isNan = true) (mx : Bool) :
    fMinMax f false mx false a b = f.quieted [a, b]
    ∧ fMinMax f false mx true a b =
      (if (f.read a).isNan then (if (f.read b).isNan then f.quiet a else b) else a, if f.isSnan a || f.isSnan b then 0x10 else 0) := by
  have hq : f.nanOf [a, b] = some (f.quieted [a, b]) := Fmt.nanOf_quieted (by simpa using h)
  refine ⟨by simp [fMinMax, hq], ?_⟩
  cases ha : (f.read a).isNan <;> cases hb : (f.read b).isNan
  · simp [ha, hb] at h
  all_goals
    simp only [fMinMax, Fmt.operand_noFlush, ha, hb]
    rfl

/-! ### frnd (04 R110) -/

theorem roundMag_whole (rm : Rounding) (neg : Bool) (m d : Nat) :
    (roundMag rm neg m d 0).1 = m / d + if roundsUp rm neg (m / d) (m % d) d then 1 else 0 := by
  simp [roundMag, scaleFrac]

theorem fRnd_finite {rm : Rounding} {neg : Bool} {m : Nat} {e : ℤ} (ha : f.read a = .fin neg m e) :
    (0 ≤ e → fRnd f rm false a = (a, 0))
    ∧ (e < 0 → fRnd f rm false a =
        ((f.roundDyadic rm false neg (m / 2 ^ (-e).toNat + if roundsUp rm neg (m / 2 ^ (-e).toNat) (m % 2 ^ (-e).toNat) (2 ^ (-e).toNat) then 1
          else 0) 0).1, 0)) := by
  have hno : f.nanOf [a] = none := Fmt.nanOf_none (by simp [ha, FVal.isNan])
  refine ⟨fun h => ?_, fun h => ?_⟩
  · simp [fRnd, hno, ha, h]
  · simp only [fRnd, Fmt.operand_noFlush, hno, ha, ge_iff_le, if_neg h.not_ge, roundMag_whole]

theorem roundsUp_iff (rm : Rounding) (neg : Bool) (k r d : Nat) : rm < 4 →
    (roundsUp rm neg k r d = true ↔
      match rm with
      | 0 => d < 2 * r ∨ (2 * r = d ∧ k % 2 = 1)
      | 1 => False
      | 2 => neg = true ∧ r ≠ 0
      | _ => neg = false ∧ r ≠ 0) := by
  intro h
  interval_cases rm <;> simp [roundsUp]

/-! ### cvtfi (04 R114) -/

theorem fToInt_finite {w : Nat} {u neg : Bool} {m : Nat} {e : ℤ} (ha : f.read a = .fin neg m e) {v : ℤ}
    (hv : v = if neg then -((m * 2 ^ e.toNat / 2 ^ (-e).toNat : Nat) : ℤ) else (m * 2 ^ e.toNat / 2 ^ (-e).toNat : Nat)) :
    fToInt f w u a =
      if v < (if u then 0 else -2 ^ (w - 1)) then ((BitVec.ofInt w (if u then 0 else -2 ^ (w - 1))).toNat, 0x10)
      else if (if u then 2 ^ w - 1 else 2 ^ (w - 1) - 1) < v then ((BitVec.ofInt w (if u then 2 ^ w - 1 else 2 ^ (w - 1) - 1)).toNat, 0x10)
      else ((BitVec.ofInt w v).toNat, 0) := by
  have ht : (if e ≥ 0 then m * 2 ^ e.toNat else m / 2 ^ (-e).toNat) = m * 2 ^ e.toNat / 2 ^ (-e).toNat := by
    split
    · next h => rw [show (-e).toNat = 0 by omega, Nat.pow_zero, Nat.div_one]
    · next h => rw [show e.toNat = 0 by omega, Nat.pow_zero, Nat.mul_one]
  simp only [fToInt, ha, ht, ← hv, BitVec.toNat_ofInt]
  push_cast
  rfl

end

/-! ### The instructions -/

/-- A floating instruction of both forms gives its results and flags. -/
theorem bothFloat_of_floatPure {long : LOp → Instr} {short : L32 → Instr} {fs : LOp → List PoisonField} {wide : BitVec 4 → Bool}
    {f : LOp → State → Nat → Nat × W32} (h1 : ∀ o s, exec (long o) s = floatPure (long o) o s (fs o) (wide o.f) (f o s))
    (h2 : ∀ w s, exec (short w) s = floatPure (short w) w.toLOp s (fs w.toLOp) (wide w.f) (f w.toLOp s)) : BothFloat long short fs wide f :=
  ⟨fun o => floatGives_of_floatPure (h1 o), fun w => floatGives_of_floatPure (h2 w)⟩

theorem exec_fscale (o : LOp) (s : State) :
    exec (.fscale o) s = floatPure (.fscale o) o s (poisonOf o (ftRegs (ftOf o.f)) 1 0) (ftWide (ftOf o.f)) fun l =>
      fScale (ftFmt (ftOf o.f)) (roundingOf (bits o.f 3 2) s.grp.fpctl) (bit s.grp.fpctl 2) (s.fA o (ftOf o.f) l)
        (BitVec.ofNat 32 (s.srcB o false false l)).toInt := by
  have h (l : Nat) : (BitVec.ofNat 32 (s.srcB o false false l)).toInt = sext 32 (s.srcB o false false l) := by
    rw [← sext_toNat]
    exact congrArg (sext 32) (s.ofNat_srcB o false false l)
  simp only [h]
  rfl

theorem cvtifLanes_eq (i : Instr) (o : LOp) (s : State) :
    cvtifLanes i o s = floatPure i o s (poisonOf o (if bit o.f 3 then 2 else 1) 0 0) (ftWide (ftOf o.f)) fun l =>
      let w := if bit o.f 3 then 64 else 32
      let x := BitVec.ofNat w (s.srcA o (bit o.f 3) l)
      intToF (ftFmt (ftOf o.f)) (bits s.grp.fpctl 1 0) (bit s.grp.fpctl 2) (if bit o.f 2 then (x.toNat : Int) else x.toInt) := by
  have h (l : Nat) : extOf (bit o.f 2) (if bit o.f 3 then 64 else 32) (s.srcA o (bit o.f 3) l) =
      if bit o.f 2 then ((BitVec.ofNat (if bit o.f 3 then 64 else 32) (s.srcA o (bit o.f 3) l)).toNat : Int)
      else (BitVec.ofNat (if bit o.f 3 then 64 else 32) (s.srcA o (bit o.f 3) l)).toInt := by
    rw [extOf_eq, BitVec.toNat_ofNat]
  simp only [cvtifLanes, h]
  rfl

/-- Settles O9: the arms give what their operations give, and these are the exact values rounded once. -/
theorem floatResults : Obligations.FloatResults := by
  unfold Obligations.FloatResults
  intro ft wd p1 p2 p3 fm a b c rm dyn ftz
  refine ⟨?_, ?_, ?_, ?_, ?_, ?_, ?_, ?_, ?_, ?_, ?_, ?_, ?_, ?_, ?_, ?_, ?_, ?_, ?_, fun f _ x y hx hy => ?codes, finiteSums, finiteProducts,
    convertedValues, dotValues, signsAndClasses⟩
  case codes =>
    have nv2 : (if f.isSnan x || f.isSnan y then 0x10 else 0 : W32) = if [x, y].any f.isSnan then 0x10 else 0 := by simp
    refine ⟨fun num ha hb => ⟨fun h => ?_, fun h => ?_⟩, fun mx => ⟨fun ha => ?_, fun ha hb => ?_⟩, fun rm hrm => ⟨fun ha => ?_, fun neg m e ha => ?_⟩,
      fun rm neg ha => ?_, fun w hw u => ⟨fun ha => ?_, fun neg ha => ?_, fun neg m e ha => fToInt_finite ha rfl⟩⟩
    · have h : f.ordKey x < f.ordKey y := (f.below_iff hx hy).1 h
      rw [fMinMax_numbers ha hb, fMinMax_numbers ha hb]
      simp [h]
    · have h : ¬f.ordKey x < f.ordKey y := mt (f.below_iff hx hy).2 h
      rw [fMinMax_numbers ha hb, fMinMax_numbers ha hb]
      simp [h]
    · obtain ⟨h1, h2⟩ := fMinMax_nan (f := f) (a := x) (b := y) (.inl ha) mx
      rw [h1, h2, if_pos ha, nv2]
      exact ⟨Fmt.quieted_first ha [y], rfl⟩
    · obtain ⟨h1, h2⟩ := fMinMax_nan (f := f) (a := x) (b := y) (.inr hb) mx
      rw [h1, h2, if_neg (by simpa using ha), nv2]
      exact ⟨Fmt.quieted_second ha hb, rfl⟩
    · have hq : f.nanOf [x] = some (f.quieted [x]) := Fmt.nanOf_quieted ⟨x, List.mem_singleton_self x, ha⟩
      simp only [fRnd, Fmt.operand_noFlush, hq]
      exact Fmt.quieted_first ha []
    · obtain ⟨hge, hlt⟩ := fRnd_finite (rm := rm) ha
      refine ⟨hge, fun he hup => ?_, fun he hup => ?_⟩ <;> rw [hlt he]
      · rw [if_pos ((roundsUp_iff rm _ _ _ _ hrm).2 hup)]
      · rw [if_neg (mt (roundsUp_iff rm _ _ _ _ hrm).1 hup), Nat.add_zero]
    · have hno : f.nanOf [x] = none := Fmt.nanOf_none (by simp [ha, FVal.isNan])
      simp [fRnd, hno, ha]
    · cases hr : f.read x with
      | nan s m => simp only [fToInt, hr]; rfl
      | inf | fin => simp [hr, FVal.isNan] at ha
    · simp only [fToInt, ha, BitVec.toNat_ofInt]
      push_cast
      rfl
  · exact bothFloat_of_floatPure (fun _ _ => rfl) fun _ _ => rfl
  · exact bothFloat_of_floatPure (fun _ _ => rfl) fun _ _ => rfl
  · exact bothFloat_of_floatPure (fun _ _ => rfl) fun _ _ => rfl
  · exact fun _ => floatGives_of_floatPure fun _ => rfl
  · exact bothFloat_of_floatPure (fun _ _ => rfl) fun _ _ => rfl
  · exact bothFloat_of_floatPure (fun _ _ => rfl) fun _ _ => rfl
  · exact bothFloat_of_floatPure (fun _ _ => rfl) fun _ _ => rfl
  · exact fun o => floatGives_of_floatPure (exec_fscale o)
  · exact bothFloat_of_floatPure (fun _ _ => rfl) fun _ _ => rfl
  · exact fun _ => floatGives_of_floatPure fun _ => rfl
  · exact bothFloat_of_floatPure (fun _ _ => rfl) fun _ _ => rfl
  · exact bothFloat_of_floatPure (fun _ _ => rfl) fun _ _ => rfl
  · exact bothFloat_of_floatPure (fun o => cvtifLanes_eq _ o) fun w => cvtifLanes_eq _ w.toLOp
  · exact fun _ => laneGives_of_pure fun _ => rfl
  · exact fun _ => laneGives_of_pure fun _ => rfl
  · exact fun _ => laneGives_of_pure fun _ => rfl
  · exact fun _ => laneGives_of_pure fun _ => rfl
  · exact fun _ => laneGives_of_pure fun _ => rfl
  · exact fun _ => laneGives_of_pure fun _ => rfl

end Sys2Proof.Machine

/-! PROOFS. The Welford instructions (04 R122-R124; O11). -/

namespace Sys2Proof.Machine
open Sys2Proof

/-! ### Writing a triple (04 R122) -/

/-- What stands in register j of a triple. -/
def Welford.reg (w : Welford) (wide : Bool) (j : Nat) : W32 :=
  match wide, j with
  | _, 0 => BitVec.ofNat 32 w.count
  | true, 1 => 0
  | true, 2 => BitVec.ofNat 32 w.mean
  | true, 3 => BitVec.ofNat 32 (w.mean / 2 ^ 32)
  | true, 4 => BitVec.ofNat 32 w.m2
  | true, _ => BitVec.ofNat 32 (w.m2 / 2 ^ 32)
  | false, 1 => BitVec.ofNat 32 w.mean
  | false, _ => BitVec.ofNat 32 w.m2

theorem State.lane_setWelford (s : State) (ft d : Nat) (m : Mask) (f : Nat → Welford) {r l : Nat} (hl : l < 96) :
    (s.setWelford ft d m f).lane r l =
      if m.getLsbD l ∧ d ≤ r ∧ r < d + (if ft = 1 then 6 else 3) then (f l).reg (decide (ft = 1)) (r - d) else s.lane r l := by
  have wide (s : State) (q : Nat) (g : Nat → Nat) := State.lane_wlanes s true q m g r l hl
  unfold State.setWelford
  cases hm : m.getLsbD l with
  | false => split <;> simp [wide, State.lane_wv _ _ _ _ _ _ hl, hm]
  | true =>
    obtain hlt | ⟨j, rfl⟩ : r < d ∨ ∃ j, r = d + j := (lt_or_ge r d).imp_right Nat.exists_eq_add_of_le
    · split <;> simp (disch := omega) only [wide, State.lane_wv _ _ _ _ _ _ hl, if_neg]
    · rw [Nat.add_sub_cancel_left]
      split
      · next h1 =>
        simp only [h1, wide, State.lane_wv _ _ _ _ _ _ hl, hm, decide_true, true_and, Nat.add_assoc, Nat.le_add_right,
          Nat.add_lt_add_iff_left]
        obtain hj | hj := lt_or_ge j 6
        · interval_cases j <;> simp [Welford.reg]
        · simp (disch := omega) only [if_neg]
      · next h1 =>
        simp only [h1, State.lane_wv _ _ _ _ _ _ hl, hm, decide_false, true_and, Nat.le_add_right, Nat.add_lt_add_iff_left]
        obtain hj | hj := lt_or_ge j 3
        · interval_cases j <;> simp [Welford.reg]
        · simp (disch := omega) only [if_neg]

theorem State.setWelford_frame (s : State) (ft d : Nat) (m : Mask) (f : Nat → Welford) :
    s.setWelford ft d m f = { s with grp := { s.grp with v := (s.setWelford ft d m f).grp.v } } := by
  unfold State.setWelford
  split
  · generalize (fun l => (f l).mean) = g
    generalize (fun l => (f l).m2) = h
    rw [State.wlanes_frame, State.wlanes_frame]
    rfl
  · rfl

/-- A Welford instruction has completed: the enabled lanes whose triple changes hold w, and the flags fl are added. -/
def WelfordDone (s t : State) (o : LOp) (keep : Nat → Bool) (w : Nat → Welford) (fl : W32) : Prop :=
  t = { s with grp := { s.grp with v := t.grp.v, fpctl := s.grp.fpctl ||| fl }, frag := t.frag }
  ∧ Went s t (s.frag.pc + BitVec.ofNat 64 o.size) ∧ SameMemory s t
  ∧ ∀ r l, l < 96 → t.lane r l =
      if (s.enabled o).getLsbD l ∧ keep l = false ∧ o.d.toNat ≤ r ∧ r < o.d.toNat + (if ftOf o.f = 1 then 6 else 3) then
        (w l).reg (decide (ftOf o.f = 1)) (r - o.d.toNat)
      else s.lane r l

/-- A Welford instruction that passes its checks. -/
theorem welfordLanes_gives {i : Instr} {o : LOp} {s : State} {fs : List PoisonField} {f : Nat → Option Welford × W32} {keep : Nat → Bool}
    {w : Nat → Welford} (hc : s.laneCheck i o = none) (hp : s.poisonCheck (s.enabled o) fs = none) (hsize : i.size = o.size)
    (hf : ∀ l, (f l).1 = if keep l then none else some (w l)) :
    ∃ t, welfordLanes i o s fs f = .next t ∧ WelfordDone s t o keep w (unionFlags (s.enabled o) fun l => (f l).2) := by
  rw [welfordLanes, laneExecP, laneExec_ok hc]
  simp only [hp]
  have hfr := State.setWelford_frame s (ftOf o.f) o.d.toNat (s.enabled o &&& maskOf fun l => (f l).1.isSome)
    fun l => (f l).1.getD { count := 0, mean := 0, m2 := 0 }
  have hlane (r l : Nat) (hl : l < 96) := State.lane_setWelford s (ftOf o.f) o.d.toNat (s.enabled o &&& maskOf fun l => (f l).1.isSome)
    (fun l => (f l).1.getD { count := 0, mean := 0, m2 := 0 }) (r := r) hl
  refine ⟨_, rfl, ?_⟩
  generalize s.setWelford (ftOf o.f) o.d.toNat (s.enabled o &&& maskOf fun l => (f l).1.isSome)
    (fun l => (f l).1.getD { count := 0, mean := 0, m2 := 0 }) = u at hfr hlane
  refine ⟨?_, ?_, fun a => ?_, fun r l hl => (hlane r l hl).trans ?_⟩
  · rw [hfr]
    rfl
  · rw [hfr, hsize]
    rfl
  · rw [hfr]
    exact ⟨rfl, rfl⟩
  · rw [BitVec.getLsbD_and, getLsbD_maskOf _ _ hl, hf]
    cases hk : keep l <;> simp

/-! ### The steps of wfup and wfmerge (04 R123, R124) -/

/-- Flushing an operand keeps its sign, and a finite code finite. -/
theorem Fmt.operand_sign {f : Fmt} (ftz : Bool) {x : Nat} (hf : f.finite x = true) :
    f.finite (f.operand ftz x) = true ∧ f.negative (f.operand ftz x) = f.negative x := by
  unfold Fmt.operand
  split
  · next h =>
    obtain ⟨h1, hsub⟩ := Bool.and_eq_true_iff.1 h
    obtain rfl : f = fmtF32 := by simpa using (Bool.and_eq_true_iff.1 h1).2
    obtain ⟨he, -⟩ := Bool.and_eq_true_iff.1 hsub
    have he : x / 2 ^ 23 % 2 ^ 8 = 0 := by simpa [fmtF32, Nat.shiftRight_eq_div_pow] using he
    have hread (y : Nat) (hy : y / 2 ^ 23 % 2 ^ 8 = 0) : fmtF32.finite y = true := by
      have hy : (y >>> 23) % 2 ^ 8 = 0 := by rwa [Nat.shiftRight_eq_div_pow]
      simp only [Fmt.finite, Fmt.read, fmtF32, hy]
      rfl
    refine ⟨hread _ (by simp only [fmtF32]; omega), ?_⟩
    simp only [Fmt.negative, fmtF32, Nat.testBit_eq_decide_div_mod_eq]
    congr 2
    omega
  · exact ⟨hf, rfl⟩

/-- A code as a sign, a magnitude and a power. -/
def Fmt.term (f : Fmt) (x : Nat) : Bool × Nat × ℤ := match f.read x with | .fin s m e => (s, m, e) | _ => (false, 0, 0)

theorem Fmt.term_of_finite {f : Fmt} {x : Nat} (h : f.finite x = true) :
    f.read x = .fin (f.term x).1 (f.term x).2.1 (f.term x).2.2 ∧ (f.term x).1 = f.negative x ∧ termValue (f.term x) = f.value x := by
  obtain ⟨m, e, hr, hv⟩ := Fmt.read_of_finite h
  have ht : f.term x = (f.negative x, m, e) := by rw [Fmt.term, hr]
  rw [ht]
  exact ⟨hr, rfl, hv.symm⟩

/-- An exact sum over a common denominator, rounded once. -/
def Fmt.roundOver (f : Fmt) (rm : Rounding) (ftz : Bool) (ts : List (Bool × Nat × ℤ)) (den : Nat) : Nat × W32 :=
  if (sumTerms ts).1 = 0 then f.roundSum rm ftz ts
  else if (sumTerms ts).2 ≥ 0 then f.round rm ftz (decide ((sumTerms ts).1 < 0)) ((sumTerms ts).1.natAbs * 2 ^ (sumTerms ts).2.toNat) den
  else f.round rm ftz (decide ((sumTerms ts).1 < 0)) (sumTerms ts).1.natAbs (den * 2 ^ (-(sumTerms ts).2).toNat)

theorem Fmt.roundOver_eq_sumOf (f : Fmt) (rm : Rounding) (ftz : Bool) {ts : List (Bool × Nat × ℤ)} (hne : ts ≠ []) {den : Nat} (hden : 0 < den) :
    f.roundOver rm ftz ts den = f.sumOf rm ftz (ts.map fun t => (termValue t / den, t.1)) := by
  have hd : (den : ℚ) ≠ 0 := by exact_mod_cast hden.ne'
  have hv := sumTerms_value ts
  have hsum : ((ts.map fun t => (termValue t / den, t.1)).map (·.1)).sum = (ts.map termValue).sum / den := by
    simp only [List.map_map, Function.comp_def, div_eq_mul_inv, List.sum_map_mul_right]
  have hzero (t : Bool × Nat × ℤ) : (termValue t / den == 0) = (termValue t == 0) := by
    rw [Bool.eq_iff_iff, beq_iff_eq, beq_iff_eq, div_eq_zero_iff, or_iff_left hd]
  unfold Fmt.roundOver
  simp only [Fmt.sumOf, hsum, ← hv]
  split
  · next h =>
    simp only [f.roundSum_eq_sumOf rm ftz hne, Fmt.sumOf, List.map_map, List.all_map, Function.comp_def, hzero]
    rw [show (ts.map fun t => termValue t).sum = 0 by rw [← hv, h, Int.cast_zero, zero_mul], h, Int.cast_zero, zero_mul, zero_div]
  · next h =>
    have hn : 0 < (sumTerms ts).1.natAbs := Int.natAbs_pos.2 h
    have hsgn : (((sumTerms ts).1 : ℤ) : ℚ) = (if decide ((sumTerms ts).1 < 0) = true then -1 else 1) * (sumTerms ts).1.natAbs := by
      rw [Nat.cast_natAbs]
      split
      · next h0 => rw [abs_of_neg (of_decide_eq_true h0), Int.cast_neg, neg_mul_neg, one_mul]
      · next h0 => rw [abs_of_nonneg (not_lt.1 (mt decide_eq_true h0)), one_mul]
    generalize (sumTerms ts).1 = v at h hn hsgn
    generalize (sumTerms ts).2 = e
    rw [hsgn]
    split
    · next he =>
      obtain ⟨k, rfl⟩ := Int.eq_ofNat_of_zero_le he
      refine f.round_eq_rounded rm ftz _ _ (by positivity) hden ?_
      rw [Int.toNat_natCast, zpow_natCast]
      push_cast
      ring
    · next he =>
      obtain ⟨k, hk⟩ := Int.eq_ofNat_of_zero_le (show 0 ≤ -e by omega)
      obtain rfl : e = -(k : ℤ) := by omega
      refine f.round_eq_rounded rm ftz _ _ hn (by positivity) ?_
      rw [neg_neg, Int.toNat_natCast, zpow_neg, zpow_natCast]
      push_cast
      rw [mul_assoc, ← div_eq_mul_inv, mul_div_assoc, div_div, mul_comm (2 ^ k : ℚ)]

/-- A term times a whole number. -/
def scaleTerm (n : Nat) (t : Bool × Nat × ℤ) : Bool × Nat × ℤ := (t.1, t.2.1 * n, t.2.2)

theorem termValue_scale (n : Nat) (t : Bool × Nat × ℤ) : termValue (scaleTerm n t) = termValue t * n := by
  simp only [termValue, scaleTerm]
  push_cast
  rw [← mul_assoc, mul_right_comm]
  rfl

/-- A value times a whole number. -/
def FVal.times (n : Nat) : FVal → FVal
  | .fin s m e => .fin s (m * n) e
  | v => v

/-- The sum of values over a common denominator, with the rules of infinities. -/
def Fmt.addOver (f : Fmt) (rm : Rounding) (ftz : Bool) (vs : List FVal) (den : Nat) : Nat × W32 :=
  let pinf := vs.any (fun v => v == .inf false)
  let ninf := vs.any (fun v => v == .inf true)
  if pinf && ninf then f.invalid
  else if pinf then (f.infBits false, 0)
  else if ninf then (f.infBits true, 0)
  else f.roundOver rm ftz (vs.filterMap fun v => match v with | .fin s m e => some (s, m, e) | _ => none) den

theorem Fmt.addOver_finite (f : Fmt) (rm : Rounding) (ftz : Bool) (ts : List (Bool × Nat × ℤ)) (den : Nat) :
    f.addOver rm ftz (ts.map fun t => .fin t.1 t.2.1 t.2.2) den = f.roundOver rm ftz ts den := by
  have h (s : Bool) : ((ts.map fun t => FVal.fin t.1 t.2.1 t.2.2).any fun v => v == .inf s) = false := by simp
  simp only [Fmt.addOver, h, List.filterMap_map]
  simp

theorem fAddScaled_numbers {f : Fmt} {rm : Rounding} {ftz : Bool} {xs : List Nat} {y : Nat} (num den : Nat)
    (h : f.nanOf (xs.map (f.operand ftz) ++ [f.operand ftz y]) = none) :
    fAddScaled f rm ftz xs y num den =
      f.addOver rm ftz ((xs.map (f.operand ftz)).map (fun x => (f.read x).times den) ++ [(f.read (f.operand ftz y)).times num]) den := by
  simp only [fAddScaled, h]
  rfl

/-- x + y · num / den over finite codes is rounded once (04 R124). -/
theorem fAddScaled_finite {f : Fmt} {rm : Rounding} {ftz : Bool} {xs : List Nat} {y : Nat} (hxs : ∀ x ∈ xs, f.finite x = true)
    (hy : f.finite y = true) (num : Nat) {den : Nat} (hden : 0 < den) :
    fAddScaled f rm ftz xs y num den =
      f.sumOf rm ftz (xs.map (fun x => (f.value (f.operand ftz x), f.negative x)) ++ [(f.value (f.operand ftz y) * num / den, f.negative y)]) := by
  have hd : (den : ℚ) ≠ 0 := by exact_mod_cast hden.ne'
  have hno : f.nanOf (xs.map (f.operand ftz) ++ [f.operand ftz y]) = none := Fmt.nanOf_none <| by
    simp only [List.mem_append, List.mem_map, List.mem_singleton]
    rintro n (⟨x, hx, rfl⟩ | rfl)
    · exact Fmt.isNan_of_finite (Fmt.operand_sign ftz (hxs x hx)).1
    · exact Fmt.isNan_of_finite (Fmt.operand_sign ftz hy).1
  set ts := xs.map (fun x => scaleTerm den (f.term (f.operand ftz x))) ++ [scaleTerm num (f.term (f.operand ftz y))] with hts
  have hvs : (xs.map (f.operand ftz)).map (fun x => (f.read x).times den) ++ [(f.read (f.operand ftz y)).times num]
      = ts.map fun t => .fin t.1 t.2.1 t.2.2 := by
    rw [hts, List.map_append, List.map_map, List.map_map]
    congr 1
    · refine List.map_congr_left fun x hx => ?_
      simp only [Function.comp_apply, (Fmt.term_of_finite (Fmt.operand_sign ftz (hxs x hx)).1).1]
      rfl
    · simp only [(Fmt.term_of_finite (Fmt.operand_sign ftz hy).1).1]
      rfl
  rw [fAddScaled_numbers num den hno, hvs, f.addOver_finite, f.roundOver_eq_sumOf rm ftz (by simp [hts]) hden, hts, List.map_append, List.map_map]
  congr 2
  · refine List.map_congr_left fun x hx => ?_
    obtain ⟨hfin, hs⟩ := Fmt.operand_sign ftz (hxs x hx)
    obtain ⟨-, hs', hv⟩ := Fmt.term_of_finite hfin
    simp only [Function.comp_apply, termValue_scale, hv, mul_div_cancel_right₀ _ hd]
    exact congrArg _ (hs'.trans hs)
  · obtain ⟨hfin, hs⟩ := Fmt.operand_sign ftz hy
    obtain ⟨-, hs', hv⟩ := Fmt.term_of_finite hfin
    simp only [List.map_cons, List.map_nil, termValue_scale, hv]
    rw [show (scaleTerm num (f.term (f.operand ftz y))).1 = _ from hs'.trans hs]

theorem wfUp_finite {f : Fmt} {rm : Rounding} {ftz : Bool} {w : Welford} {x : Nat} (hw : w.count < 2 ^ 32 - 1)
    (hd : f.finite (fAdd f rm ftz true x w.mean).1 = true) :
    let d1 := fAdd f rm ftz true x w.mean
    let q := f.rounded rm ftz (f.negative d1.1) (f.value d1.1 / (w.count + 1 : Nat))
    let m := fAdd f rm ftz false w.mean q.1
    let d2 := fAdd f rm ftz true x m.1
    let m2 := fMa f rm ftz d1.1 d2.1 w.m2
    wfUp f rm ftz w x = ({ count := w.count + 1, mean := m.1, m2 := m2.1 }, d1.2 ||| q.2 ||| m.2 ||| d2.2 ||| m2.2) := by
  intro d1 q m d2 m2
  obtain ⟨k, e, hr, hv⟩ := Fmt.read_of_finite hd
  have hno : f.nanOf [(fAdd f rm ftz true x w.mean).1] = none := Fmt.nanOf_none (by simpa using Fmt.isNan_of_finite hd)
  have hq : (if k = 0 then (f.sign (f.negative d1.1), 0) else f.roundQuot rm ftz (f.negative d1.1) k e (w.count + 1) 0) = q := by
    simp only [q, d1, hv]
    split
    · next h => simp [h, Fmt.rounded_zero]
    · next h =>
      refine f.roundQuot_eq_rounded rm ftz _ _ (Nat.pos_of_ne_zero h) (Nat.succ_pos _) e 0 ?_
      rw [zpow_zero, mul_one, mul_assoc, mul_div_assoc]
  simp only [wfUp, if_neg hw.ne, hno, hr]
  rw [show (if k = 0 then (f.sign (f.negative (fAdd f rm ftz true x w.mean).1), 0)
    else f.roundQuot rm ftz (f.negative (fAdd f rm ftz true x w.mean).1) k e (w.count + 1) 0) = q from hq]

theorem welfordSteps : WelfordSteps := by
  intro f hf rm ftz
  refine ⟨fun w x hw => wfUp_finite hw, fun w x hw => ?_, fun p q => ⟨fun hq => ?_, fun hq hp => ?_, fun hq hp hn => ?_, fun hq hp hn hfin => ?_⟩⟩
  · rw [wfUp, if_pos hw]
    rfl
  · rw [wfMerge, if_pos hq]
  · rw [wfMerge, if_neg hq, if_pos hp]
  · rw [wfMerge, if_neg hq, if_neg hp, if_pos hn]
    rfl
  · simp only [List.forall_mem_cons] at hfin
    obtain ⟨hpm, hp2, hq2, hdelta, hsq, -⟩ := hfin
    have hden : 0 < p.count + q.count := by omega
    have hm := fAddScaled_finite (rm := rm) (ftz := ftz) (xs := [p.mean]) (by simpa using hpm) hdelta q.count hden
    have hm2 := fAddScaled_finite (rm := rm) (ftz := ftz) (xs := [p.m2, q.m2]) (by simpa using ⟨hp2, hq2⟩) hsq (p.count * q.count) hden
    simp only [wfMerge, if_neg hq, if_neg hp, if_neg hn.not_ge, hm, hm2]
    rfl

theorem size_words (o : LOp) (op : BitVec 8) : 4 * (o.words op).length = o.size := by
  unfold LOp.words LOp.size LOp.isLit
  cases o.x <;> rfl

/-- Settles O11: both arms write the triples of the lanes that change, and the steps are those of welfordSteps. -/
theorem welfordResults : Obligations.WelfordResults := by
  unfold Obligations.WelfordResults
  intro done o s ft n rm ftz d a
  refine ⟨fun hc hp => ?_, fun hc hp => ?_, welfordSteps⟩
  · exact welfordLanes_gives (keep := fun l => (d l).count == 2 ^ 32 - 1) (w := fun l => (wfUp (ftFmt ft) rm ftz (d l) (s.fA o ft l)).1) hc hp
      (size_words o _) fun l => ite_congr (by simp [d, ft]) (fun _ => rfl) fun _ => rfl
  · exact welfordLanes_gives (keep := fun l => (a l).count == 0 || ((d l).count != 0 && decide ((d l).count + (a l).count ≥ 2 ^ 32)))
      (w := fun l => (wfMerge (ftFmt ft) rm ftz (d l) (a l)).1) hc hp (size_words o _) fun l => ite_congr (by simp [a, d, ft]) (fun _ => rfl) fun _ => rfl

end Sys2Proof.Machine

/-! PROOFS. What ring actions do to a payload (04 R118-R120; 09 R244, R252-R255; O48). -/

namespace Sys2Proof.Machine
open Sys2Proof

/-! ### Fields (09 R244) -/

/-- The n bits of p from lo on are replaced by those of x. -/
def putBits (p : BitVec 512) (lo n x : Nat) : BitVec 512 :=
  (p &&& ~~~BitVec.ofNat 512 ((2 ^ n - 1) * 2 ^ lo)) ||| (BitVec.ofNat 512 (x * 2 ^ lo) &&& BitVec.ofNat 512 ((2 ^ n - 1) * 2 ^ lo))

theorem getLsbD_putBits (p : BitVec 512) (lo n x b : Nat) (hb : b < 512) :
    (putBits p lo n x).getLsbD b = if lo ≤ b ∧ b < lo + n then x.testBit (b - lo) else p.getLsbD b := by
  simp only [putBits, BitVec.getLsbD_or, BitVec.getLsbD_and, BitVec.getLsbD_not, BitVec.getLsbD_ofNat, hb, decide_true, Bool.true_and,
    Nat.testBit_mul_two_pow, Nat.testBit_two_pow_sub_one]
  by_cases h1 : lo ≤ b
  · by_cases h2 : b < lo + n
    · simp [h1, h2, show b - lo < n by omega]
    · simp [h1, h2, show ¬b - lo < n by omega]
  · simp [h1]

theorem setPayField_eq (p : BitVec 512) (w64 : Bool) (f : Nat) (x : W64) :
    setPayField p w64 f x = putBits p ((if w64 then 64 else 32) * f) (if w64 then 64 else 32) x.toNat := rfl

theorem getLsbD_setPayField (p : BitVec 512) (w64 : Bool) (f : Nat) (x : W64) (b : Nat) (hb : b < 512) :
    (setPayField p w64 f x).getLsbD b =
      if (if w64 then 64 else 32) * f ≤ b ∧ b < (if w64 then 64 else 32) * f + (if w64 then 64 else 32) then
        x.getLsbD (b - (if w64 then 64 else 32) * f) else p.getLsbD b := by
  rw [setPayField_eq, getLsbD_putBits _ _ _ _ _ hb]
  rfl

theorem toNat_payField (p : BitVec 512) (w64 : Bool) (f : Nat) :
    (payField p w64 f).toNat = p.toNat / 2 ^ ((if w64 then 64 else 32) * f) % 2 ^ (if w64 then 64 else 32) := by
  cases w64 with
  | true => simp [payField, BitVec.extractLsb'_toNat, Nat.shiftRight_eq_div_pow]
  | false =>
    simp only [payField, Bool.false_eq_true, if_false, BitVec.truncate_eq_setWidth, BitVec.toNat_setWidth, BitVec.extractLsb'_toNat,
      Nat.shiftRight_eq_div_pow]
    omega

theorem payField_lt (p : BitVec 512) (w64 : Bool) (f : Nat) : (payField p w64 f).toNat < 2 ^ (if w64 then 64 else 32) := by
  rw [toNat_payField]
  exact Nat.mod_lt _ (by positivity)

/-- What a part of a payload reads after a write of another part, and of the part itself. -/
theorem extract_putBits_ne (p : BitVec 512) {lo n x a k : Nat} (hk : a + k ≤ 512) (h : a + k ≤ lo ∨ lo + n ≤ a) :
    (putBits p lo n x).extractLsb' a k = p.extractLsb' a k := by
  ext i hi
  simp only [BitVec.getElem_extractLsb']
  rw [getLsbD_putBits _ _ _ _ _ (by omega), if_neg (by omega)]

theorem extract_putBits_self (p : BitVec 512) {lo n x : Nat} (hk : lo + n ≤ 512) : (putBits p lo n x).extractLsb' lo n = BitVec.ofNat n x := by
  ext i hi
  simp only [BitVec.getElem_extractLsb']
  rw [getLsbD_putBits _ _ _ _ _ (by omega), if_pos (by omega), Nat.add_sub_cancel_left, ← BitVec.getLsbD_eq_getElem,
    BitVec.getLsbD_ofNat, decide_eq_true hi, Bool.true_and]

/-! ### Rewrites (09 R253) -/

/-- A field read as a signed number. -/
def signedField (w n : Nat) : ℤ := if n < 2 ^ (w - 1) then n else (n : ℤ) - 2 ^ w

theorem sext_field {w x : Nat} (hx : x < 2 ^ w) : sext w x = signedField w x := by
  simp only [sext, signedField, Nat.mod_eq_of_lt hx]
  push_cast
  rfl

theorem wrap_signedField {w x : Nat} (hx : x < 2 ^ w) : wrap w (signedField w x) = x := by
  have hc : ((2 ^ w : Nat) : ℤ) = 2 ^ w := by push_cast; rfl
  unfold wrap signedField
  split
  · rw [← Int.natCast_mod, Int.toNat_natCast, Nat.mod_eq_of_lt hx]
  · rw [← hc, Int.sub_emod_right, ← Int.natCast_mod, Int.toNat_natCast, Nat.mod_eq_of_lt hx]

section
variable {w x b : Nat} (hw : w = 32 ∨ w = 64) (hx : x < 2 ^ w) (hb : b < 2 ^ w)
include hx hb

theorem iMin_signed_field : iMin false w x b = if signedField w b < signedField w x then b else x := by
  have h : iMin false w x b = wrap w (min (signedField w x) (signedField w b)) := by rw [← sext_field hx, ← sext_field hb]; rfl
  rw [h]
  split
  · next h => rw [min_eq_right h.le, wrap_signedField hb]
  · next h => rw [min_eq_left (not_lt.1 h), wrap_signedField hx]

theorem iMax_signed_field : iMax false w x b = if signedField w x < signedField w b then b else x := by
  have h : iMax false w x b = wrap w (max (signedField w x) (signedField w b)) := by rw [← sext_field hx, ← sext_field hb]; rfl
  rw [h]
  split
  · next h => rw [max_eq_right h.le, wrap_signedField hb]
  · next h => rw [max_eq_left (not_lt.1 h), wrap_signedField hx]

include hw

theorem iAdd_field : iAdd false false w x b = (x + b) % 2 ^ w := by
  obtain rfl | rfl := hw <;> simp only [iAdd, fit, wrap, extOf, sext, Bool.false_eq_true, if_false] <;> omega

theorem iMin_unsigned_field : iMin true w x b = min x b := by
  obtain rfl | rfl := hw <;> simp only [iMin, wrap, extOf, zext, if_true] <;> omega

theorem iMax_unsigned_field : iMax true w x b = max x b := by
  obtain rfl | rfl := hw <;> simp only [iMax, wrap, extOf, zext, if_true] <;> omega

end

theorem rewriteStep_field {op : Nat} (hop : op < 11) (w64 : Bool) (p : BitVec 512) (l : RingLane) :
    rewriteStep op w64 p l =
      (setPayField p w64 l.field (BitVec.ofNat 64 (rewriteValue op (if w64 then 64 else 32) (payField p w64 l.field).toNat
          (l.b.toNat % 2 ^ (if w64 then 64 else 32)) (l.new.toNat % 2 ^ (if w64 then 64 else 32)))),
        payField p w64 l.field, if op = 9 ∧ (payField p w64 l.field).toNat ≠ l.b.toNat % 2 ^ (if w64 then 64 else 32) then 7 else 0) := by
  rw [rewriteStep, if_neg (by omega)]
  rfl

/-! ### Deques (09 R255) -/

theorem rewriteStep_deque {op : Nat} (hop : 11 ≤ op) (w64 : Bool) (p : BitVec 512) (l : RingLane) : rewriteStep op w64 p l = dequeStep op p l.b :=
  if_pos hop

/-! ### The until comparisons (09 R252) -/

theorem untilHolds_iff (x b : W32) :
    (untilHolds 0 x b = true ↔ x = b) ∧ (untilHolds 1 x b = true ↔ x ≠ b) ∧ (untilHolds 2 x b = true ↔ x.toInt < b.toInt)
    ∧ (untilHolds 3 x b = true ↔ b.toInt ≤ x.toInt) ∧ (untilHolds 4 x b = true ↔ x < b) ∧ (untilHolds 5 x b = true ↔ b ≤ x)
    ∧ (untilHolds 6 x b = true ↔ x &&& b ≠ 0) :=
  ⟨beq_iff_eq, bne_iff_ne, decide_eq_true_iff, decide_eq_true_iff, decide_eq_true_iff, decide_eq_true_iff, bne_iff_ne⟩

/-! ### The amax history (04 R118-R120) -/

/-- The exponent code of a finite magnitude. -/
theorem amaxCode_finite {x : Nat} (h : x < 0x7F800000) : amaxCode x = if x = 0 then 0 else max 1 (x / 2 ^ 23) := by
  have hm : fmtF32.mag x = x := Nat.mod_eq_of_lt (show x < 2 ^ 31 by omega)
  have hread := Fmt.read_eq (f := fmtF32) rfl x
  rw [hm] at hread
  have hd : x / 2 ^ 23 < 255 := by omega
  rw [if_neg (show ¬x / 2 ^ fmtF32.mbits = fmtF32.emaxField from hd.ne)] at hread
  unfold amaxCode
  rw [Nat.mod_eq_of_lt (show x < 2 ^ 31 by omega), hread]
  by_cases h0 : x / 2 ^ 23 = 0
  · rw [if_pos (show x / 2 ^ fmtF32.mbits = 0 from h0), h0]
    have hl : x % 2 ^ fmtF32.mbits = x := Nat.mod_eq_of_lt (show x < 2 ^ 23 by omega)
    simp only [hl]
    split
    · rfl
    · next hx =>
      have : Nat.log2 x < 23 := (Nat.log2_lt hx).2 (by omega)
      simp only [fmtF32]
      omega
  · rw [if_neg (show ¬x / 2 ^ fmtF32.mbits = 0 from h0)]
    have hlog : Nat.log2 (x % 2 ^ 23 + 2 ^ 23) = 23 := (Nat.log2_eq_iff (by omega)).2 ⟨by omega, by omega⟩
    simp only [show x % 2 ^ fmtF32.mbits + 2 ^ fmtF32.mbits = x % 2 ^ 23 + 2 ^ 23 from rfl, hlog]
    rw [if_neg (by omega), if_neg (by omega)]
    simp only [fmtF32]
    omega

theorem histMerge_bits (p : BitVec 512) (m : W32) (b : Nat) (hb : b < 512) :
    (histMerge p m).getLsbD b =
      if 128 ≤ b ∧ b < 160 then (if (histPend p).toNat < m.toNat then m.getLsbD (b - 128) else (histPend p).getLsbD (b - 128))
      else p.getLsbD b := by
  rw [histMerge, getLsbD_setPayField _ _ _ _ _ hb]
  refine ite_congr rfl (fun h => ?_) fun _ => rfl
  have hb' : 128 ≤ b ∧ b < 160 := h
  show (BitVec.ofNat 64 (max (histPend p).toNat m.toNat)).getLsbD (b - 128) = _
  rw [BitVec.getLsbD_ofNat, decide_eq_true (by omega), Bool.true_and]
  split
  · next hlt => rw [max_eq_right hlt.le]; rfl
  · next hle => rw [max_eq_left (not_lt.1 hle)]; rfl

theorem histCommit_parts (p : BitVec 512) :
    let head := ((p.extractLsb' 160 4).toNat + 1) % 16
    (∀ k, k < 16 → (histCommit p).extractLsb' (8 * k) 8 = if k = head then BitVec.ofNat 8 (amaxCode (histPend p).toNat) else p.extractLsb' (8 * k) 8)
    ∧ (histCommit p).extractLsb' 128 32 = 0#32 ∧ (histCommit p).extractLsb' 160 4 = BitVec.ofNat 4 head
    ∧ (histCommit p).extractLsb' 164 28 = p.extractLsb' 164 28
    ∧ (histCommit p).extractLsb' 192 32 = p.extractLsb' 192 32 + 1#32 ∧ (histCommit p).extractLsb' 224 288 = p.extractLsb' 224 288 := by
  intro head
  have hhead : head < 16 := Nat.mod_lt _ (by decide)
  have heq : histCommit p = putBits (putBits (putBits (putBits p 160 4 head) (8 * head) 8 (amaxCode (histPend p).toNat)) 128 32 0)
      192 32 ((p.extractLsb' 192 32 + 1#32).zeroExtend 64).toNat := rfl
  rw [heq]
  refine ⟨fun k hk => ?_, ?_, ?_, ?_, ?_, ?_⟩
  · rw [extract_putBits_ne _ (by omega) (by omega), extract_putBits_ne _ (by omega) (by omega)]
    split
    · next h => rw [h, extract_putBits_self _ (by omega)]
    · next h => rw [extract_putBits_ne _ (by omega) (by omega), extract_putBits_ne _ (by omega) (by omega)]
  · rw [extract_putBits_ne _ (by omega) (by omega), extract_putBits_self _ (by omega)]
  · rw [extract_putBits_ne _ (by omega) (by omega), extract_putBits_ne _ (by omega) (by omega), extract_putBits_ne _ (by omega) (by omega),
      extract_putBits_self _ (by omega)]
  · rw [extract_putBits_ne _ (by omega) (by omega), extract_putBits_ne _ (by omega) (by omega), extract_putBits_ne _ (by omega) (by omega),
      extract_putBits_ne _ (by omega) (by omega)]
  · rw [extract_putBits_self _ (by omega), BitVec.ofNat_toNat]
    simp
  · rw [extract_putBits_ne _ (by omega) (by omega), extract_putBits_ne _ (by omega) (by omega), extract_putBits_ne _ (by omega) (by omega),
      extract_putBits_ne _ (by omega) (by omega)]

theorem foldl_max_eq {g : Nat → Nat} {l : List Nat} {e : Nat} (hle : ∀ i ∈ l, g i ≤ e) (hmem : ∃ i ∈ l, g i = e) :
    l.foldl (fun a i => max a (g i)) 0 = e := by
  have h (a : Nat) : l.foldl (fun a i => max a (g i)) a ≤ max a e ∧ a ≤ l.foldl (fun a i => max a (g i)) a
      ∧ ∀ i ∈ l, g i ≤ l.foldl (fun a i => max a (g i)) a := by
    clear hmem
    induction l generalizing a with
    | nil => simp
    | cons j l ih =>
      obtain ⟨h1, h2, h3⟩ := ih (fun i hi => hle i (List.mem_cons_of_mem _ hi)) (max a (g j))
      have hj := hle j List.mem_cons_self
      simp only [List.foldl_cons, List.forall_mem_cons]
      exact ⟨h1.trans (by omega), (le_max_left ..).trans h2, (le_max_right ..).trans h2, h3⟩
  obtain ⟨i, hi, rfl⟩ := hmem
  obtain ⟨h1, -, h3⟩ := h 0
  exact le_antisymm (by simpa using h1) (h3 i hi)

theorem histScale_eq {k e : Nat} {p : BitVec 512} (hle : ∀ i < 16, (p.extractLsb' (8 * i) 8).toNat ≤ e)
    (hmem : ∃ i < 16, (p.extractLsb' (8 * i) 8).toNat = e) :
    histScale k p = if e = 0 then 127 else min (e - (match k with | 0 => 8 | 1 => 15 | 2 => 2 | _ => 0)) 254 := by
  have h : (List.range 16).foldl (fun a i => max a (histCode p i)) 0 = e :=
    foldl_max_eq (fun i hi => hle i (List.mem_range.1 hi)) (hmem.imp fun i h => ⟨List.mem_range.2 h.1, h.2⟩)
  simp only [histScale, h]
  rfl

/-! ### The results of cvtq and amxcom (04 R119, R120) -/

theorem getLsbD_foldl_or {α : Type} (l : List α) (g : α → W32) (x : W32) (i : Nat) (h : x.getLsbD i = true) :
    (l.foldl (fun x r => x ||| g r) x).getLsbD i = true := by
  induction l generalizing x with
  | nil => exact h
  | cons r l ih => exact ih _ (by rw [BitVec.getLsbD_or, h, Bool.true_or])

theorem historyResults_cvtq {a : RingAct} (h : a.kind = 5) (p : Option (BitVec 512)) :
    let f := BitVec.ofNat 4 a.op
    let sc := match p with | some p => histScale (f.extractLsb' 0 2).toNat p | none => 127
    (historyResults a p).1 = (a.lanes.map fun l => { l with result := some (BitVec.ofNat 64 (sc * 2 ^ 8
      + (cvtqElement (f.extractLsb' 0 2).toNat sc (f.getLsbD 3) (f.getLsbD 2) (if f.getLsbD 2 then l.b.toNat % 2 ^ 16 else l.b.toNat)).1), 0) })
    ∧ (p = none → (historyResults a p).2.getLsbD 9 = true) := by
  intro f sc
  simp only [historyResults, if_pos h]
  refine ⟨?_, fun hp => ?_⟩
  · rw [List.map_map]
    rfl
  · subst hp
    exact getLsbD_foldl_or _ _ _ 9 rfl

theorem historyResults_amxcom {a : RingAct} (h : a.kind = 6) (p : Option (BitVec 512)) :
    historyResults a p = (a.lanes.map fun l => { l with result := some (BitVec.ofNat 64
      (match p with | some p => amaxCode (histPend p).toNat | none => 0), 0) }, if p.isNone then 0x200#32 else 0) := by
  simp only [historyResults, if_neg (show ¬a.kind = 5 by omega)]
  rfl

/-- An mxi8 element is the value over the scale, rounded to nearest even and clamped (04 R119). -/
theorem cvtqElement_mxi8 {sc x m : Nat} {sat n : Bool} {e : ℤ} (hr : fmtF32.read x = .fin n m e) {y : ℚ}
    (hy : y = (if n then -1 else 1) * (m : ℚ) * 2 ^ (e + 133 - (sc : ℤ))) :
    ∃ r : ℤ, -128 ≤ r ∧ r ≤ 127 ∧ ((cvtqElement 3 sc sat false x).1 : ℤ) = r % 256 ∧ (127 < y → r = 127) ∧ (y < -128 → r = -128)
      ∧ (-128 ≤ y → y ≤ 127 → |y - r| ≤ 1 / 2 ∧ (|y - r| = 1 / 2 → r % 2 = 0)) := by
  set q : ℤ := -(e + 127 - sc + 6) with hq
  obtain ⟨hb, hab⟩ := scaleFrac_div m one_pos q
  set z : ℚ := m * 2 ^ (e + 133 - (sc : ℤ)) with hz
  have hz0 : 0 ≤ z := by positivity
  have hval : ((scaleFrac m 1 q).1 : ℚ) / (scaleFrac m 1 q).2 / 2 ^ (0 : ℤ) = z := by
    rw [hab, hq, zpow_zero, div_one, Nat.cast_one, div_one, zpow_neg, div_inv_eq_mul, hz]
    congr 2
    ring
  obtain ⟨hhalf, heven⟩ := roundMag_half n (scaleFrac m 1 q).1 hb 0 hval
  have hel : (cvtqElement 3 sc sat false x).1 =
      if (roundMag 0 n (scaleFrac m 1 q).1 (scaleFrac m 1 q).2 0).1 > (if n then 128 else 127) then (if n then 0x80 else 0x7F)
      else (if n then 256 - (roundMag 0 n (scaleFrac m 1 q).1 (scaleFrac m 1 q).2 0).1
        else (roundMag 0 n (scaleFrac m 1 q).1 (scaleFrac m 1 q).2 0).1) % 256 := by
    simp only [cvtqElement, Bool.false_eq_true, if_false, hr, ← hq]
    rw [if_neg (by decide)]
    exact apply_ite Prod.fst _ _ _
  rw [hel]
  generalize (roundMag 0 n (scaleFrac m 1 q).1 (scaleFrac m 1 q).2 0).1 = k at hhalf heven
  obtain ⟨hlo, hhi⟩ := abs_le.1 hhalf
  have bound {j : ℕ} (h : (j : ℚ) - 1 < k) : j ≤ k := by
    have : (j : ℚ) < k + 1 := by linarith
    exact Nat.lt_succ_iff.1 (by exact_mod_cast this)
  cases n with
  | true =>
    have hy : y = -z := by rw [hy, hz]; simp
    subst hy
    simp only [if_true]
    obtain hk | hk := lt_or_ge 128 k
    · have : (129 : ℚ) ≤ k := by exact_mod_cast hk
      rw [if_pos hk]
      exact ⟨-128, by norm_num, by norm_num, by norm_num, fun h => by linarith, fun _ => rfl, fun h => by linarith⟩
    · rw [if_neg hk.not_gt]
      refine ⟨-k, by omega, by omega, by omega, fun h => by linarith, fun h => ?_, fun _ _ => ?_⟩
      · have := bound (j := 128) (by push_cast; linarith)
        omega
      · have habs : |-z - ((-(k : ℤ) : ℤ) : ℚ)| = |(k : ℚ) - z| := by push_cast; congr 1; ring
        rw [habs]
        exact ⟨hhalf, fun h => by have := heven h; omega⟩
  | false =>
    have hy : y = z := by rw [hy, hz]; simp
    subst hy
    simp only [Bool.false_eq_true, if_false]
    obtain hk | hk := lt_or_ge 127 k
    · have : (128 : ℚ) ≤ k := by exact_mod_cast hk
      rw [if_pos hk]
      exact ⟨127, by norm_num, by norm_num, by norm_num, fun _ => rfl, fun h => by linarith, fun _ h => by linarith⟩
    · rw [if_neg hk.not_gt]
      refine ⟨k, by omega, by omega, by omega, fun h => ?_, fun h => by linarith, fun _ _ => ?_⟩
      · have := bound (j := 127) (by push_cast; linarith)
        omega
      · rw [Int.cast_natCast, abs_sub_comm]
        exact ⟨hhalf, fun h => by have := heven h; omega⟩

end Sys2Proof.Machine

/-! PROOFS. A ring step, the watches' ends and the seam (09 R247, R252, R256-R258; O48). -/

namespace Sys2Proof.Machine
open Sys2Proof

/-! ### The visits of a step -/

theorem State.ringLeft_nil {s : State} (h : s.ringLeft = []) : ({ s with ringLeft := [] } : State) = s := by
  cases s
  cases h
  rfl

theorem State.ringVisits_nil (s : State) : s.ringVisits [] = { s with ringLeft := [] } := rfl

section
variable (s : State) (st core id : Nat) (vs : List (Nat × Nat × Nat))

theorem State.ringVisits_gone (h : ∀ a ∈ ((s.core core).stops.get [] st : List RingAct), a.id ≠ id) :
    s.ringVisits ((st, core, id) :: vs) = ({ s with ringLeft := vs } : State).ringVisits vs := by
  have hnone : ((s.core core).stops.get [] st : List RingAct).find? (fun a => a.id == id) = none :=
    List.find?_eq_none.2 fun a ha e => h a ha (beq_iff_eq.1 e)
  rw [State.ringVisits]
  show (match ((s.core core).stops.get [] st : List RingAct).find? fun a => a.id == id with | none => _ | some a => _) = _
  rw [hnone]

theorem State.ringVisits_found {a : RingAct} (h : ((s.core core).stops.get [] st : List RingAct).find? (fun a => a.id == id) = some a) :
    s.ringVisits ((st, core, id) :: vs) =
      if (({ s with ringLeft := vs } : State).ringAct core st a).ringDue then ({ s with ringLeft := vs } : State).ringAct core st a
      else (({ s with ringLeft := vs } : State).ringAct core st a).ringVisits vs := by
  rw [State.ringVisits]
  show (match ((s.core core).stops.get [] st : List RingAct).find? fun a => a.id == id with | none => _ | some a => _) = _
  rw [h]

end

section
variable {s : State}

/-- With no visit of the step left, a step that goes on is over. -/
theorem State.ringGoOn_nil (h : s.ringLeft = []) : s.ringGoOn = s := by
  rw [State.ringGoOn, h, State.ringVisits_nil, State.ringLeft_nil h, ite_self]

theorem idle_ringWatchExpiry (h : s.ringLeft = []) (hno : ∀ a ∈ s.ringActs, s.ringExpired a.1 a.2.2 = false) : Idle .ringWatchExpiry s := by
  have hnone : s.ringActs.filter (fun a => s.ringExpired a.1 a.2.2) = [] := List.filter_eq_nil_iff.2 fun a ha => by simp [hno a ha]
  show execRingWatchExpiry s = _
  rw [execRingWatchExpiry, hnone]
  exact congrArg _ (State.ringGoOn_nil h)

theorem idle_wcapUntilTimeout (h : s.ringLeft = []) (hno : ∀ a ∈ s.ringActs, s.ringTimedOut a.1 a.2.2 = false) : Idle .wcapUntilTimeout s := by
  have hnone : s.ringActs.filter (fun a => s.ringTimedOut a.1 a.2.2) = [] := List.filter_eq_nil_iff.2 fun a ha => by simp [hno a ha]
  show execWcapUntilTimeout s = _
  rw [execWcapUntilTimeout, hnone]
  exact congrArg _ (State.ringGoOn_nil h)

/-! ### Passages -/

/-- Every slot of the ring one position on. -/
def State.advanced (s : State) : State := { s with ringStep := s.ringStep + 1 }

theorem idle_ringSlotPassage (h : s.ringStep / 1024 % 2 ^ 32 ≠ s.ringRev.toNat ∨ s.ringDue = true) : Idle .ringSlotPassage s := if_pos h

section
variable (hseam : ¬s.ringStep / 1024 % 2 ^ 32 ≠ s.ringRev.toNat) (hdue : s.ringDue = false)
include hseam hdue

/-- What is left of a step comes first. -/
theorem exec_ringSlotPassage_left (h : s.ringLeft ≠ []) : exec .ringSlotPassage s = .next (s.ringVisits s.ringLeft) := by
  have hgo : s.ringGoOn = s.ringVisits s.ringLeft := if_neg (by rw [hdue]; exact Bool.false_ne_true)
  show execRingSlotPassage s = _
  rw [execRingSlotPassage, if_neg (by rw [hdue]; simpa using hseam), if_pos h, hgo]

/-- A step: every slot advances by one position, and the visits follow in their order. -/
theorem exec_ringSlotPassage_step (h : s.ringLeft = []) :
    exec .ringSlotPassage s =
      .next (s.ringAdmit.advanced.ringSettle.ringVisits s.ringAdmit.advanced.ringSettle.ringOrder) := by
  show execRingSlotPassage s = _
  rw [execRingSlotPassage, if_neg (by rw [hdue]; simpa using hseam), if_neg (not_not.2 h)]
  rfl

end

/-- Nothing to settle: no losing claim and no abandoned home write. -/
theorem State.ringSettle_none (h : ∀ p ∈ s.slots, p.2.lost = false ∧ p.2.revert = none) : s.ringSettle = s := by
  have hslots : s.ringSettle.slots = s.slots := by
    refine (List.filterMap_congr fun p hp => ?_).trans List.filterMap_some
    obtain ⟨hlost, hrevert⟩ := h p hp
    simp only [hlost, hrevert, Bool.false_and, Bool.false_eq_true, if_false]
  exact congrArg (fun l => ({ s with slots := l } : State)) hslots

/-- The only slot as it passes: a losing claim at the position that made it becomes empty, an abandoned home write at its own landed. -/
theorem State.ringSettle_one {n : Nat} {x : RingSlot} (h : s.slots = [(n, x)]) :
    let here (pos : Nat) : Prop := slotAt pos s.ringStep = n % 1024
    (x.lost = true → here x.bpos → s.ringSettle = { s with slots := [] })
    ∧ (x.lost = true → ¬here x.bpos → x.revert = none → s.ringSettle = { s with slots := [(n, x)] })
    ∧ (∀ q, x.lost = false → x.revert = some q →
        (here q → s.ringSettle = { s with slots := [(n, { x with st := 2, revert := none })] })
        ∧ (¬here q → s.ringSettle = { s with slots := [(n, x)] })) := by
  intro here
  unfold State.ringSettle
  rw [h]
  refine ⟨fun hl hh => ?_, fun hl hh hr => ?_, fun q hl hr => ⟨fun hh => ?_, fun hh => ?_⟩⟩
  · simp only [List.filterMap_cons, List.filterMap_nil, hl, show (slotAt x.bpos s.ringStep == n % 1024) = true from beq_iff_eq.2 hh,
      Bool.and_true, if_true]
  · simp only [List.filterMap_cons, List.filterMap_nil, hl, show (slotAt x.bpos s.ringStep == n % 1024) = false from beq_eq_false_iff_ne.2 hh,
      Bool.and_false, Bool.false_eq_true, if_false, hr]
  · simp only [List.filterMap_cons, List.filterMap_nil, hl, hr, show (slotAt q s.ringStep == n % 1024) = true from beq_iff_eq.2 hh,
      Bool.false_and, Bool.false_eq_true, if_false, if_true]
  · simp only [List.filterMap_cons, List.filterMap_nil, hl, hr, show (slotAt q s.ringStep == n % 1024) = false from beq_eq_false_iff_ne.2 hh,
      Bool.false_and, Bool.false_eq_true, if_false]

section
variable (hseam : ¬s.ringStep / 1024 % 2 ^ 32 ≠ s.ringRev.toNat) (hleft : s.ringLeft = []) (hempty : ∀ c ∈ s.cores, c.2.stops = [])
include hempty

theorem State.ringActs_empty : s.ringActs = [] :=
  List.flatMap_eq_nil_iff.2 fun c hc => by rw [hempty c hc]; rfl

theorem State.ringAdmit_empty : s.ringAdmit = s := by
  have hcores : s.ringAdmit.cores = s.cores := by
    refine (List.map_congr_left fun p hp => ?_).trans (List.map_id _)
    obtain ⟨k, c⟩ := p
    have hc : c.stops = [] := hempty _ hp
    show (k, if c.quarantined then c else { c with stops := c.stops.map _ }) = (k, c)
    cases c
    cases hc
    exact congrArg _ (ite_self _)
  exact congrArg (fun l => ({ s with cores := l } : State)) hcores

theorem State.ringOrder_empty : s.ringOrder = [] :=
  List.flatMap_eq_nil_iff.2 fun st _ => List.flatMap_eq_nil_iff.2 fun c hc => by rw [hempty c hc]; rfl

include hseam hleft

/-- With no action in any queue a step moves the slots alone. -/
theorem exec_ringSlotPassage_empty : exec .ringSlotPassage s = .next s.advanced.ringSettle := by
  have hdue : s.ringDue = false := by rw [State.ringDue, State.ringActs_empty hempty]; rfl
  have horder : s.advanced.ringSettle.ringOrder = [] := State.ringOrder_empty (s := State.ringSettle _) hempty
  rw [exec_ringSlotPassage_step hseam hdue hleft, State.ringAdmit_empty hempty, horder, State.ringVisits_nil]
  exact congrArg _ (State.ringLeft_nil (s := State.ringSettle _) hleft)

end

end

/-! ### The in-order rule and issuing again (09 R248, R258) -/

theorem State.ringInOrder_eq_false (s : State) (core : Nat) (a : RingAct) :
    s.ringInOrder core a = false ↔ ∃ q ∈ (s.core core).stops, ∃ b ∈ q.2,
      b.id < a.id ∧ b.uid = a.uid ∧ b.win.map (·.1) = a.win.map (·.1) ∧ b.win ≠ a.win
      ∧ ¬(a.cw.getLsbD 13 = true ∧ a.cw.getLsbD 15 = false) := by
  rw [State.ringInOrder, List.all_eq_false]
  refine exists_congr fun q => and_congr_right fun _ => ?_
  rw [Bool.not_eq_true, List.all_eq_false]
  refine exists_congr fun b => and_congr_right fun _ => ?_
  have hany : cwAny a.cw = a.cw.getLsbD 13 := rfl
  have hrel : cwRel a.cw = a.cw.getLsbD 15 := rfl
  rw [hany, hrel]
  simp only [Bool.or_eq_true, Bool.and_eq_true, Bool.not_eq_true', decide_eq_true_eq, bne_iff_ne, beq_iff_eq, not_or, ge_iff_le, not_le, not_not]
  tauto

theorem State.reissue_cons (s : State) (core : Nat) (a : RingAct) (as : List RingAct) :
    (a.kind ≠ 0 → s.reissue core (a :: as) = s.ringEnter core (a :: as))
    ∧ (a.kind = 0 → (s.vf a.vf).ringHeld + (as.length + 1) ≤ (s.vf a.vf).quota →
        s.reissue core (a :: as) = (s.onVf a.vf fun v => { v with ringHeld := v.ringHeld + (as.length + 1) }).ringEnter core (a :: as))
    ∧ (a.kind = 0 → (s.vf a.vf).quota < (s.vf a.vf).ringHeld + (as.length + 1) →
        s.reissue core (a :: as) =
          s.ringTrap ((a :: as).getD ((s.vf a.vf).quota - (s.vf a.vf).ringHeld) a) (as.length + 1)
            { cause := 0x15, tval := ((a :: as).getD ((s.vf a.vf).quota - (s.vf a.vf).ringHeld) a).key.zeroExtend 64 }) :=
  ⟨fun h => if_pos h, fun h hfit => (if_neg (not_not.2 h)).trans (if_neg hfit.not_gt), fun h hover => (if_neg (not_not.2 h)).trans (if_pos hover)⟩

end Sys2Proof.Machine

/-! PROOFS. What the operations of a ring visit leave of the stops' queues, and the ring with one queued action (09 R253-R259; O48). -/

namespace Sys2Proof.Machine
open Sys2Proof

/-! ### The queues are left -/

/-- The queues of the stops, and what is left of the present step's visits. -/
def State.stopPart (s : State) : (Nat → Store (List RingAct)) × List (Nat × Nat × Nat) := (fun k => (s.core k).stops, s.ringLeft)

theorem stopPart_onVf (s : State) (v : Nat) (f : Vf → Vf) : (s.onVf v f).stopPart = s.stopPart := rfl

theorem stopPart_onCore {f : Core → Core} (hf : ∀ c, (f c).stops = c.stops) (s : State) (k : Nat) : (s.onCore k f).stopPart = s.stopPart := by
  have hcore : (fun j => ((s.onCore k f).core j).stops) = fun j => (s.core j).stops := by
    funext j
    rw [State.core_onCore]
    split
    · next h => rw [hf, h]
    · rfl
  exact congrArg (fun g => (g, s.ringLeft)) hcore

theorem stopPart_countCore (s : State) (k code n v : Nat) : (s.countCore k code n v).stopPart = s.stopPart := by
  unfold State.countCore
  dsimp only
  split
  · rfl
  · exact stopPart_onCore (by intro; rfl) s k

theorem stopPart_flush (s : State) : s.flush.stopPart = s.stopPart := by
  rw [State.flush_frame]
  rfl

theorem stopPart_reload (s : State) : s.reload.stopPart = s.stopPart := by
  rw [State.reload_frame]
  rfl

theorem stopPart_onTeam (s : State) (u : Nat) (f : Team → Team) : (s.onTeam u f).stopPart = s.stopPart := by
  rw [State.onTeam_frame]
  rfl

theorem stopPart_onWindow (s : State) (uid gid id : Nat) (f : Window → Window) : (s.onWindow uid gid id f).stopPart = s.stopPart :=
  stopPart_onTeam s uid _

theorem stopPart_mapTeams (s : State) (f : Nat → Team → Team) : (s.mapTeams f).stopPart = s.stopPart :=
  (stopPart_reload _).trans (stopPart_flush s)

theorem stopPart_focus (s : State) (f : Focus) : (s.flush.focus f).stopPart = s.stopPart := (stopPart_reload _).trans (stopPart_flush s)

theorem stopPart_asScalar (s : State) (uid : Nat) {f : State → State} (hf : ∀ t, (f t).stopPart = t.stopPart) :
    (s.asScalar uid f).stopPart = s.stopPart :=
  (stopPart_focus _ _).trans ((hf _).trans (stopPart_focus s _))

theorem stopPart_ws (s : State) (n : Nat) (x : W64) : (s.ws n x).stopPart = s.stopPart := by
  rw [State.ws_frame]
  rfl

theorem stopPart_scopeDown (s : State) (v k scope n : Nat) : (s.scopeDown v k scope n).stopPart = s.stopPart := by
  unfold State.scopeDown
  dsimp only
  split <;> rfl

theorem stopPart_teamsGone (s : State) (launch n : Nat) : (s.teamsGone launch n).stopPart = s.stopPart := by
  have hdown := stopPart_scopeDown s (s.launch launch).vf (s.launch launch).ctx (s.launch launch).scope n
  unfold State.teamsGone
  dsimp only
  generalize s.scopeDown (s.launch launch).vf (s.launch launch).ctx (s.launch launch).scope n = u at hdown
  have hended : (u.onLaunch launch fun l => { l with ended := l.ended + n }).stopPart = s.stopPart := hdown
  generalize u.onLaunch launch (fun l => { l with ended := l.ended + n }) = w at hended
  split
  · split
    · exact hended
    · exact hended
  · exact hended

theorem stopPart_abortLaunch (s : State) (launch cause team : Nat) (tpc tval : W64) :
    (s.abortLaunch launch cause team tpc tval).stopPart = s.stopPart := by
  unfold State.abortLaunch
  dsimp only
  split
  · rfl
  · split
    · exact stopPart_mapTeams _ _
    · exact (stopPart_teamsGone ..).trans (stopPart_mapTeams _ _)

theorem stopPart_raiseScalar (s : State) (t : Trap) (len : Nat) : (s.raiseScalar t len).stopPart = s.stopPart := by
  unfold State.raiseScalar State.enterScalarTrap
  split
  · exact stopPart_abortLaunch ..
  · extract_lets emu handler team u
    have hu : u.stopPart = s.stopPart := rfl
    split
    · exact (stopPart_abortLaunch ..).trans hu
    · exact hu

theorem stopPart_storeVa {s w : State} {vf ctx : Nat} {acc : Acc} {va : W64} {n x : Nat} (h : s.storeVa vf ctx acc va n x = .ok w) :
    w.stopPart = s.stopPart := by
  rw [(State.storeVa_next h).1]
  rfl

theorem stopPart_postFault (s : State) (v k core : Nat) (pc : W64) (p : PageReq) : (s.postFault v k core pc p).1.stopPart = s.stopPart := by
  unfold State.postFault
  dsimp only
  split
  · rfl
  · split
    · rfl
    · refine (stopPart_countCore _ core 0x0C 1 v).trans ((stopPart_onVf _ v _).trans ?_)
      split
      · next h => exact stopPart_storeVa h
      · rfl

theorem stopPart_ringResult (s : State) (a : RingAct) (flags : W32) : (s.ringResult a flags).stopPart = s.stopPart := by
  have hcount := stopPart_countCore s (s.teamOf a.uid).core 0x06 1 a.vf
  have hws (t : State) (v : W64) (st : Nat) :
      (((t.ws a.dest v).ws a.stReg (BitVec.ofNat 64 st)).retireScalar 12).stopPart = t.stopPart := by
    have hret (w : State) : (w.retireScalar 12).stopPart = w.stopPart := rfl
    rw [hret, stopPart_ws, stopPart_ws]
  unfold State.ringResult
  extract_lets u
  have hu : u.stopPart = s.stopPart := hcount
  clear_value u
  split
  · rw [stopPart_onWindow, hu]
  · split
    · rw [stopPart_asScalar _ _ fun t => hws t _ _, hu]
    · exact hu

theorem stopPart_ringTrap (s : State) (a : RingAct) (n : Nat) (t : Trap) : (s.ringTrap a n t).stopPart = s.stopPart := by
  unfold State.ringTrap
  split
  · exact stopPart_onWindow ..
  · exact stopPart_asScalar _ _ fun u => stopPart_raiseScalar u t 12

/-! ### One queued action -/

/-- The queue of the stop of a strand, and the only one of the ring, holds one action, and the ring has nothing else to settle. -/
structure LoneAct (s : State) (core strand : Nat) (c : Core) (a : RingAct) : Prop where
  strand_lt : strand < 8
  cores_eq : s.cores = [(core, c)]
  stops_eq : c.stops = [(strand, [a])]
  left_eq : s.ringLeft = []
  slots_settled : ∀ p ∈ s.slots, p.2.lost = false ∧ p.2.revert = none
  rev_eq : s.ringStep / 1024 % 2 ^ 32 = s.ringRev.toNat

/-- Replacing the action of a queue that holds it alone, or taking it out. -/
theorem State.ringPut_alone {u : State} {core strand : Nat} {a : RingAct} (h : (u.core core).stops = [(strand, [a])]) (b : Option RingAct) :
    u.ringPut core strand a.id b = u.onCore core fun k => { k with stops := (b.map fun b => (strand, [b])).toList } := by
  have hput : Store.put [] [(strand, [a])] strand ((Store.get [] [(strand, [a])] strand).filterMap fun x => if x.id = a.id then b else some x)
      = (b.map fun b => (strand, [b])).toList := by
    cases b with
    | none => simp [Store.put, Store.get, Store.erase]
    | some b => simp [Store.put, Store.get, Store.set]
  rw [← hput, ← h]
  rfl

theorem State.onCore_only {u : State} {core : Nat} {c : Core} (h : u.cores = [(core, c)]) (f : Core → Core) :
    u.onCore core f = { u with cores := [(core, f c)] } := by
  have hcores : u.cores.set core (f (u.core core)) = [(core, f c)] := by
    rw [State.core, h]
    simp [Store.set, Store.get]
  exact congrArg (fun l => ({ u with cores := l } : State)) hcores

namespace LoneAct
variable {s : State} {core strand : Nat} {c : Core} {a : RingAct} (h : LoneAct s core strand c a)
include h

theorem core_eq : s.core core = c := by
  rw [State.core, h.cores_eq]
  exact if_pos rfl

theorem acts_eq : s.ringActs = [(core, strand, a)] := by
  rw [State.ringActs, h.cores_eq, List.flatMap_singleton, h.stops_eq, List.flatMap_singleton]
  rfl

/-- The step's visits are the one of that action. -/
theorem order_eq : s.ringOrder = [(strand, core, a.id)] := by
  have hget (st : Nat) : (Store.get [] c.stops st : List RingAct) = if strand = st then [a] else [] := by
    rw [h.stops_eq, Store.get]
    split
    · rfl
    · exact ite_self _
  have hlt := h.strand_lt
  simp only [State.ringOrder, h.cores_eq, List.flatMap_singleton, hget]
  interval_cases strand <;> rfl

theorem inOrder : s.ringInOrder core a = true := by
  rw [State.ringInOrder, h.core_eq, h.stops_eq]
  simp

/-- The step has ended no watch and no budget of the action. -/
theorem due_eq (hexp : s.ringExpired core a = false) (htime : s.ringTimedOut core a = false) : s.ringDue = false := by
  rw [State.ringDue, h.acts_eq, List.any_cons, List.any_nil, hexp, htime]
  rfl

/-- A queue whose actions have all entered it, or whose stop is bypassed, admits none. -/
theorem admit_eq (hent : a.entered = true ∨ c.quarantined = true) : s.ringAdmit = s := by
  have hcores : s.ringAdmit.cores = s.cores := by
    unfold State.ringAdmit
    dsimp only
    rw [h.cores_eq, List.map_singleton, h.stops_eq]
    obtain hent | hq := hent
    · have hstops := h.stops_eq
      cases c
      cases hstops
      simp [hent]
    · simp [hq]
  exact congrArg (fun l => ({ s with cores := l } : State)) hcores

/-- A passage is the visit of the action by the slot of the step. -/
theorem exec_passage (hent : a.entered = true ∨ c.quarantined = true) (hexp : s.ringExpired core a = false) (htime : s.ringTimedOut core a = false)
    {t : State} (ht : s.advanced.ringAct core strand a = t) (hleft : t.ringLeft = []) :
    exec .ringSlotPassage s = .next t := by
  have hsettle : s.advanced.ringSettle = s.advanced :=
    State.ringSettle_none h.slots_settled
  have horder : s.advanced.ringOrder = [(strand, core, a.id)] := h.order_eq
  have hfind : ((s.advanced.core core).stops.get [] strand : List RingAct).find? (fun b => b.id == a.id)
      = some a := by
    have hcore : s.advanced.core core = c := h.core_eq
    rw [hcore, h.stops_eq]
    simp [Store.get]
  have hnil : ({ s.advanced with ringLeft := [] } : State) = s.advanced :=
    State.ringLeft_nil h.left_eq
  rw [exec_ringSlotPassage_step (not_not.2 h.rev_eq) (h.due_eq hexp htime) h.left_eq, h.admit_eq hent, hsettle, horder,
    State.ringVisits_found _ _ _ _ _ hfind, hnil, ht, State.ringVisits_nil, State.ringLeft_nil hleft, ite_self]

/-- The stop of a core under quarantine is bypassed. -/
theorem exec_bypass (hq : c.quarantined = true) (hm : a.mustFinish = false) :
    exec .ringSlotPassage s = .next s.advanced := by
  have hactive (u : State) (hu : u.core core = c) : u.ringActive core a = false := by rw [State.ringActive, hu, hq, hm]; simp
  refine h.exec_passage (.inr hq) ?_ ?_ ?_ h.left_eq
  · rw [State.ringExpired, hactive s h.core_eq]
    rfl
  · rw [State.ringTimedOut, hactive s h.core_eq]
    rfl
  · rw [State.ringAct, hactive s.advanced h.core_eq]
    rfl

section
variable (hq : c.quarantined = false) (hent : a.entered = true)
include hq hent

theorem active : s.ringActive core a = true := by
  rw [State.ringActive, h.core_eq, hq, hent]
  rfl

/-- A visit, and what is left in the queue. -/
theorem exec_visit (hexp : s.ringExpired core a = false) (htime : s.ringTimedOut core a = false) {u : State} {b : Option RingAct}
    (hv : s.advanced.ringVisit (stopPos core) strand (slotAt (stopPos core) s.advanced.ringStep) a = (u, b))
    (hu : u.stopPart = s.stopPart) :
    exec .ringSlotPassage s = .next (u.onCore core fun k => { k with stops := (b.map fun b => (strand, [b])).toList }) := by
  have hstops : (u.core core).stops = [(strand, [a])] := by
    rw [← h.stops_eq, ← h.core_eq]
    exact congrFun (congrArg Prod.fst hu) core
  refine h.exec_passage (.inl hent) hexp htime ?_ ((congrArg Prod.snd hu).trans h.left_eq)
  have hactive : s.advanced.ringActive core a = true := h.active hq hent
  have horder : s.advanced.ringInOrder core a = true := h.inOrder
  rw [State.ringAct, hactive, horder]
  show (match s.advanced.ringVisit _ _ _ _ with | (s, b) => s.ringPut core strand a.id b) = _
  rw [hv]
  exact State.ringPut_alone hstops b

end

end LoneAct

end Sys2Proof.Machine

/-! PROOFS. A visit by the phase of the action (09 R253-R257; O48). -/

namespace Sys2Proof.Machine
open Sys2Proof

/-- A slot is of an action's key. -/
def RingSlot.isOf (x : RingSlot) (a : RingAct) : Bool := x.st != 0 && x.key == a.key && x.vf == a.vf

theorem RingSlot.isOf_iff {x : RingSlot} {a : RingAct} : x.isOf a = true ↔ x.st ≠ 0 ∧ x.key = a.key ∧ x.vf = a.vf := by
  simp only [RingSlot.isOf, Bool.and_eq_true, bne_iff_ne, beq_iff_eq, and_assoc]

/-- The slot is of the action's key and in the state given. -/
theorem RingSlot.isOf_and {x : RingSlot} {a : RingAct} {n : Nat} :
    (x.isOf a && x.st == n) = true ↔ (x.st ≠ 0 ∧ x.key = a.key ∧ x.vf = a.vf) ∧ x.st = n := by
  rw [Bool.and_eq_true, RingSlot.isOf_iff, beq_iff_eq]

/-- An action whose lanes return their fields of a payload, with a status. -/
def RingAct.captures (a : RingAct) (p : BitVec 512) (st : Nat) : RingAct := { a with lanes := captureLanes (cwW64 a.cw) p st a.lanes }

/-- A board that meets a landed slot of its key returns its reservation and ends PRESENT. -/
def State.presents (s : State) (a : RingAct) (x : RingSlot) : State × Option RingAct :=
  ((s.unreserve a.vf).ringResult (a.captures x.payload stPresent) 0, none)

/-- The slot that a board claims. -/
def RingAct.claimSlot (a : RingAct) (pos : Nat) : RingSlot :=
  { key := a.key, st := 1, vf := a.vf, bpos := pos, home := a.home, payload := boardPayload (cwW64 a.cw) a.lanes, claim := a.id }

/-- A board's watch (09 R256, step 1). -/
def State.boardWatch (s : State) (pos strand i : Nat) (a : RingAct) : State × Option RingAct :=
  if (s.slot strand i).isOf a && (s.slot strand i).st == 2 then s.presents a (s.slot strand i)
  else if (s.slot strand i).isOf a && (s.slot strand i).st == 3 then (s, some { a with phase := .alightWait i })
  else if (s.slot strand i).st == 0 then (s.setSlot strand i (a.claimSlot pos), some { a with phase := .claimed i })
  else (s, some { a with phase := .watch })

/-- A wcap.until's lane at a passage. -/
def RingLane.until (a : RingAct) (p : BitVec 512) (l : RingLane) : RingLane :=
  match l.result with
  | some _ => l
  | none =>
    if l.passes ≥ cwBudget a.cw ∧ cwBudget a.cw ≠ 0 then l
    else if untilHolds (cwCond a.cw) ((payField p (cwW64 a.cw) l.field).truncate 32) (l.b.truncate 32) then
      { l with result := some (payField p (cwW64 a.cw) l.field, stOk) }
    else { l with passes := l.passes + 1, last := payField p (cwW64 a.cw) l.field }

/-- What an action other than a board does at a landed slot of its key, by its kind. -/
def State.landedVisit (s : State) (strand i : Nat) (a : RingAct) (x : RingSlot) : State × Option RingAct :=
  match a.kind with
  | 1 =>
    if cwMode a.cw && x.home.isSome then
      (((s.setSlot strand i { x with st := 3 }).homeStore (a.captures x.payload stOk) i x).1,
        some ((s.setSlot strand i { x with st := 3 }).homeStore (a.captures x.payload stOk) i x).2)
    else ((s.emptySlot strand i).ringResult (a.captures x.payload stOk) 0, none)
  | 2 => (s.ringResult (a.captures x.payload stOk) 0, none)
  | 3 =>
    if (a.lanes.map (RingLane.until a x.payload)).all fun l => l.result.isSome then
      (s.ringResult { a with lanes := a.lanes.map (RingLane.until a x.payload) } 0, none)
    else (s, some { a with lanes := a.lanes.map (RingLane.until a x.payload), since := s.ringStep })
  | 4 =>
    ((s.setSlot strand i { x with payload := (rewriteLanes a.op (cwW64 a.cw) x.payload a.lanes).1 }).ringResult
      { a with lanes := (rewriteLanes a.op (cwW64 a.cw) x.payload a.lanes).2 } 0, none)
  | 5 =>
    ((s.setSlot strand i { x with payload := histMerge x.payload a.amax }).ringResult
      { a with lanes := (historyResults a (some x.payload)).1 } (historyResults a (some x.payload)).2, none)
  | _ =>
    ((s.setSlot strand i { x with payload := histCommit x.payload }).ringResult
      { a with lanes := (historyResults a (some x.payload)).1 } (historyResults a (some x.payload)).2, none)

section
variable {s : State} {pos strand i : Nat} {a : RingAct}

theorem ringVisit_home {k : Nat} {stored : Bool} (h : a.phase = .home k stored) : s.ringVisit pos strand i a =
    if k ≠ i then (s, some a)
    else if stored then ((s.emptySlot strand i).ringResult a 0, none)
    else if !a.park.isEmpty then (s, some a)
    else ((s.homeStore a i (s.slot strand i)).1, some (s.homeStore a i (s.slot strand i)).2) := by
  cases a
  cases h
  rfl

theorem ringVisit_homeFail {k : Nat} {t : Trap} (h : a.phase = .homeFail k t) : s.ringVisit pos strand i a =
    if k ≠ i then (s, some a) else ((s.setSlot strand i { s.slot strand i with st := 2 }).ringTrap a 1 t, none) := by
  cases a
  cases h
  rfl

theorem ringVisit_claimed {k : Nat} (h : a.phase = .claimed k) : s.ringVisit pos strand i a =
    if k = i then ((s.setSlot strand i { s.slot strand i with st := 2 }).ringResult (a.captures (s.slot strand i).payload stOk) 0, none)
    else if (s.slot strand i).isOf a && (s.slot strand i).st == 2 then
      (s.setSlot strand k { s.slot strand k with lost := true }).presents a (s.slot strand i)
    else if (s.slot strand i).isOf a && (s.slot strand i).st == 1
        && (decide ((s.slot strand i).bpos < pos) || ((s.slot strand i).bpos == pos && decide ((s.slot strand i).claim < a.id))) then
      (s.setSlot strand k { s.slot strand k with lost := true }, some { a with phase := .lost, since := s.ringStep })
    else (s, some a) := by
  cases a
  cases h
  rfl

theorem ringVisit_lost (h : a.phase = .lost) : s.ringVisit pos strand i a =
    if (s.slot strand i).isOf a && (s.slot strand i).st == 2 then s.presents a (s.slot strand i) else (s, some a) := by
  cases a
  cases h
  rfl

theorem ringVisit_alightWait {k : Nat} (h : a.phase = .alightWait k) : s.ringVisit pos strand i a =
    if k ≠ i then (s, some a)
    else if (s.slot strand i).isOf a && (s.slot strand i).st == 3 then (s, some a)
    else if (s.slot strand i).isOf a && (s.slot strand i).st == 2 then s.presents a (s.slot strand i)
    else ((s.boardWatch pos strand i a).1, (s.boardWatch pos strand i a).2.map fun b => { b with since := s.ringStep }) := by
  have hrest : ((s.boardWatch pos strand i a).1, (s.boardWatch pos strand i a).2.map fun b => { b with since := s.ringStep }) =
      match s.boardWatch pos strand i a with | (t, some b) => (t, some { b with since := s.ringStep }) | r => r := by
    obtain ⟨t, b | b⟩ := s.boardWatch pos strand i a <;> rfl
  rw [hrest]
  cases a
  cases h
  rfl

theorem ringVisit_watch (h : a.phase = .watch) : s.ringVisit pos strand i a =
    if a.kind = 0 then s.boardWatch pos strand i a
    else if (s.slot strand i).isOf a && (s.slot strand i).st == 3 then (s, some { a with since := s.ringStep })
    else if !((s.slot strand i).isOf a && (s.slot strand i).st == 2) then (s, some a)
    else s.landedVisit strand i a (s.slot strand i) := by
  cases a
  cases h
  rfl

/-! ### Visits by what stands in the slot -/

section
variable (hmine : (s.slot strand i).st ≠ 0 ∧ (s.slot strand i).key = a.key ∧ (s.slot strand i).vf = a.vf)
include hmine

theorem boardWatch_landed (h2 : (s.slot strand i).st = 2) : s.boardWatch pos strand i a = s.presents a (s.slot strand i) :=
  if_pos (RingSlot.isOf_and.2 ⟨hmine, h2⟩)

theorem boardWatch_alighting (h3 : (s.slot strand i).st = 3) : s.boardWatch pos strand i a = (s, some { a with phase := .alightWait i }) :=
  (if_neg fun e => by have := (RingSlot.isOf_and.1 e).2; omega).trans (if_pos (RingSlot.isOf_and.2 ⟨hmine, h3⟩))

theorem ringVisit_watch_alighting (h : a.phase = .watch) (hk : a.kind ≠ 0) (h3 : (s.slot strand i).st = 3) :
    s.ringVisit pos strand i a = (s, some { a with since := s.ringStep }) := by
  rw [ringVisit_watch h, if_neg hk, if_pos (RingSlot.isOf_and.2 ⟨hmine, h3⟩)]

theorem ringVisit_watch_landed (h : a.phase = .watch) (hk : a.kind ≠ 0) (h2 : (s.slot strand i).st = 2) :
    s.ringVisit pos strand i a = s.landedVisit strand i a (s.slot strand i) := by
  have hland := RingSlot.isOf_and.2 ⟨hmine, h2⟩
  rw [ringVisit_watch h, if_neg hk, if_neg fun e => by have := (RingSlot.isOf_and.1 e).2; omega, if_neg (by rw [hland]; exact Bool.false_ne_true)]

end

theorem boardWatch_empty (h0 : (s.slot strand i).st = 0) :
    s.boardWatch pos strand i a = (s.setSlot strand i (a.claimSlot pos), some { a with phase := .claimed i }) := by
  have hno (n : Nat) : ¬((s.slot strand i).isOf a && (s.slot strand i).st == n) = true := fun e => (RingSlot.isOf_and.1 e).1.1 h0
  rw [State.boardWatch, if_neg (hno 2), if_neg (hno 3), if_pos (beq_iff_eq.2 h0)]

section
variable (hother : ¬(((s.slot strand i).st ≠ 0 ∧ (s.slot strand i).key = a.key ∧ (s.slot strand i).vf = a.vf)
  ∧ ((s.slot strand i).st = 2 ∨ (s.slot strand i).st = 3)))
include hother

theorem boardWatch_other (h0 : (s.slot strand i).st ≠ 0) : s.boardWatch pos strand i a = (s, some { a with phase := .watch }) := by
  rw [State.boardWatch, if_neg fun e => hother ((RingSlot.isOf_and.1 e).imp_right .inl), if_neg fun e => hother ((RingSlot.isOf_and.1 e).imp_right .inr),
    if_neg fun e => h0 (beq_iff_eq.1 e)]

theorem ringVisit_watch_other (h : a.phase = .watch) (hk : a.kind ≠ 0) : s.ringVisit pos strand i a = (s, some a) := by
  rw [ringVisit_watch h, if_neg hk, if_neg fun e => hother ((RingSlot.isOf_and.1 e).imp_right .inr), if_pos]
  rw [Bool.not_eq_true', Bool.eq_false_iff]
  exact fun e => hother ((RingSlot.isOf_and.1 e).imp_right .inl)

end

end

/-! ### The home write of an alight (09 R257) -/

section
variable {s : State} {a : RingAct} {i : Nat} {x : RingSlot}

theorem homeStore_ok {home : W64} (hhome : x.home = some home) {w : State}
    (h : s.storeVa a.vf a.ctx { kind := 7, write := true } (homeAddr home) 64 x.payload.toNat = .ok w) :
    s.homeStore a i x = (w, { a with phase := .home i true, park := [] }) := by
  simp only [State.homeStore, hhome, Option.getD_some, h]

theorem homeStore_trap {home : W64} (hhome : x.home = some home) {t : Trap}
    (h : s.storeVa a.vf a.ctx { kind := 7, write := true } (homeAddr home) 64 x.payload.toNat = .error (.trap t)) :
    s.homeStore a i x = (s, { a with phase := .homeFail i { t with tval := homeAddr home }, park := [] }) := by
  simp only [State.homeStore, hhome, Option.getD_some, h]

theorem homeStore_page {home : W64} (hhome : x.home = some home) {p : PageReq}
    (h : s.storeVa a.vf a.ctx { kind := 7, write := true } (homeAddr home) 64 x.payload.toNat = .error (.page p)) :
    s.homeStore a i x = ((s.postFault a.vf a.ctx (s.teamOf a.uid).core a.pc p).1,
      { a with phase := .home i false, park := [(s.postFault a.vf a.ctx (s.teamOf a.uid).core a.pc p).2] }) := by
  simp only [State.homeStore, hhome, Option.getD_some, h]

theorem State.teamOf_setSlot (strand : Nat) (u : Nat) : (s.setSlot strand i x).teamOf u = s.teamOf u := by
  unfold State.teamOf State.flush State.setSlot
  cases s.cur.stream <;> rfl

end

end Sys2Proof.Machine

/-! PROOFS. The ring with one queued action: watches' ends, time-outs and passages (09 R243, R252-R257; O48). -/

namespace Sys2Proof.Machine
open Sys2Proof

/-- A lane of a wcap.until that has performed is left as it is. -/
theorem RingLane.until_performed {a : RingAct} {p : BitVec 512} {l : RingLane} {r : W64 × Nat} (h : l.result = some r) : RingLane.until a p l = l := by
  simp only [RingLane.until, h]

/-- A lane of a wcap.until whose budget is not used up performs, or has met one passage more. -/
theorem RingLane.until_waiting {a : RingAct} {p : BitVec 512} {l : RingLane} (h : l.result = none)
    (hb : ¬(l.passes ≥ cwBudget a.cw ∧ cwBudget a.cw ≠ 0)) :
    RingLane.until a p l =
      if untilHolds (cwCond a.cw) ((payField p (cwW64 a.cw) l.field).truncate 32) (l.b.truncate 32) then
        { l with result := some (payField p (cwW64 a.cw) l.field, stOk) }
      else { l with passes := l.passes + 1, last := payField p (cwW64 a.cw) l.field } := by
  simp only [RingLane.until, h, if_neg hb]

section
variable {s : State} {core : Nat} {a : RingAct}

theorem ringExpired_not (hphase : a.phase ≠ .watch ∧ a.phase ≠ .lost ∨ s.ringStep < a.since + 1024) : s.ringExpired core a = false := by
  unfold State.ringExpired
  obtain ⟨hw, hl⟩ | hlt := hphase
  · rw [beq_eq_false_iff_ne.2 hw, beq_eq_false_iff_ne.2 hl]
    simp
  · rw [decide_eq_false hlt.not_ge]
    simp

theorem ringTimedOut_not (hk : a.kind ≠ 3) : s.ringTimedOut core a = false := by
  unfold State.ringTimedOut
  rw [beq_eq_false_iff_ne.2 hk]
  simp

end

theorem State.ringResult_ringLeft (s : State) (b : RingAct) (fl : W32) : (s.ringResult b fl).ringLeft = s.ringLeft :=
  congrArg Prod.snd (stopPart_ringResult s b fl)

namespace LoneAct
variable {s : State} {core strand : Nat} {c : Core} {a : RingAct} (h : LoneAct s core strand c a)
include h

theorem put_eq (b : Option RingAct) :
    s.ringPut core strand a.id b = { s with cores := [(core, { c with stops := (b.map fun b => (strand, [b])).toList })] } := by
  rw [State.ringPut_alone (by rw [h.core_eq, h.stops_eq]), State.onCore_only h.cores_eq]

/-! ### The end of a watch and of a budget -/

theorem exec_expiry (hexp : s.ringExpired core a = true) (hleft : (s.ringExpire core strand a).ringLeft = []) :
    exec .ringWatchExpiry s = .next (s.ringExpire core strand a) := by
  have hall : s.ringActs.filter (fun a => s.ringExpired a.1 a.2.2) = [(core, strand, a)] := by
    rw [h.acts_eq]
    exact List.filter_cons_of_pos (p := fun a : Nat × Nat × RingAct => s.ringExpired a.1 a.2.2) hexp
  show execRingWatchExpiry s = _
  rw [execRingWatchExpiry, hall]
  exact congrArg _ (State.ringGoOn_nil hleft)

theorem exec_timeout (htime : s.ringTimedOut core a = true) (hleft : (s.ringTimeOut core strand a).ringLeft = []) :
    exec .wcapUntilTimeout s = .next (s.ringTimeOut core strand a) := by
  have hall : s.ringActs.filter (fun a => s.ringTimedOut a.1 a.2.2) = [(core, strand, a)] := by
    rw [h.acts_eq]
    exact List.filter_cons_of_pos (p := fun a : Nat × Nat × RingAct => s.ringTimedOut a.1 a.2.2) htime
  show execWcapUntilTimeout s = _
  rw [execWcapUntilTimeout, hall]
  exact congrArg _ (State.ringGoOn_nil hleft)

section
variable (hq : c.quarantined = false) (hent : a.entered = true)
include hq hent

theorem expired (hphase : a.phase = .watch ∨ a.phase = .lost) (hlast : a.since + 1024 ≤ s.ringStep) : s.ringExpired core a = true := by
  unfold State.ringExpired State.ringWaits
  rw [h.active hq hent, h.left_eq, h.inOrder, decide_eq_true hlast]
  obtain hw | hl := hphase
  · rw [hw]
    rfl
  · rw [hl]
    rfl

/-- A watch that ends with no slot met: FULL for a board, which returns its reservation, and ABSENT for the rest. -/
theorem exec_expiry_watch (hphase : a.phase = .watch) (hk : a.kind < 5) (hlast : a.since + 1024 ≤ s.ringStep)
    (hnone : ∀ l ∈ a.lanes, l.result = none) :
    let gone : State := { s with cores := [(core, { c with stops := [] })] }
    let all (st : Nat) : List RingLane := a.lanes.map fun l => { l with result := some (0, st) }
    (a.kind ≠ 0 → exec .ringWatchExpiry s = .next (gone.ringResult { a with lanes := all stAbsent } 0))
    ∧ (a.kind = 0 → exec .ringWatchExpiry s = .next ((gone.unreserve a.vf).ringResult { a with lanes := all stFull } 0)) := by
  intro gone all
  have hexp := h.expired hq hent (.inl hphase) hlast
  have hall (st : Nat) : (a.lanes.map fun l => match l.result with | some _ => l | none => { l with result := some (0, st) }) = all st :=
    List.map_congr_left fun l hl => by rw [hnone l hl]
  have hlanes (st : Nat) : ({ a with lanes := a.lanes.map fun l => match l.result with | some _ => l | none => { l with result := some (0, st) } }
      : RingAct) = { a with lanes := all st } := congrArg (fun ls => ({ a with lanes := ls } : RingAct)) (hall st)
  refine ⟨fun hk0 => ?_, fun hk0 => ?_⟩
  · have hstep : s.ringExpire core strand a = gone.ringResult { a with lanes := all stAbsent } 0 := by
      unfold State.ringExpire
      rw [if_neg hk0, if_neg (by omega), h.put_eq]
      exact congrArg (fun b => gone.ringResult b 0) (hlanes stAbsent)
    exact (h.exec_expiry hexp (by rw [hstep, State.ringResult_ringLeft]; exact h.left_eq)).trans (congrArg _ hstep)
  · have hstep : s.ringExpire core strand a = (gone.unreserve a.vf).ringResult { a with lanes := all stFull } 0 := by
      unfold State.ringExpire
      rw [if_pos hk0, if_neg (by rw [hphase]; decide), h.put_eq]
      exact congrArg (fun b => (gone.unreserve a.vf).ringResult b 0) (hlanes stFull)
    exact (h.exec_expiry hexp (by rw [hstep, State.ringResult_ringLeft]; exact h.left_eq)).trans (congrArg _ hstep)

/-- A board that lost and met no landed slot begins again. -/
theorem exec_expiry_lost (hphase : a.phase = .lost) (hk : a.kind = 0) (hlast : a.since + 1024 ≤ s.ringStep) :
    exec .ringWatchExpiry s =
      .next { s with cores := [(core, { c with stops := [(strand, [{ a with phase := .watch, since := s.ringStep }])] })] } := by
  have hstep : s.ringExpire core strand a =
      { s with cores := [(core, { c with stops := [(strand, [{ a with phase := .watch, since := s.ringStep }])] })] } := by
    unfold State.ringExpire
    rw [if_pos hk, if_pos (by rw [hphase]; decide)]
    exact h.put_eq (some { a with phase := .watch, since := s.ringStep })
  exact (h.exec_expiry (h.expired hq hent (.inr hphase) hlast) (by rw [hstep]; exact h.left_eq)).trans (congrArg _ hstep)

/-- Every lane of a wcap.until has used its budget: all of them perform with TIMEOUT. -/
theorem exec_timeout_all (hk : a.kind = 3) (hbudget : cwBudget a.cw ≠ 0) (hall : ∀ l ∈ a.lanes, l.result = none ∧ cwBudget a.cw ≤ l.passes)
    (hne : a.lanes ≠ []) :
    exec .wcapUntilTimeout s = .next (({ s with cores := [(core, { c with stops := [] })] } : State).ringResult
      { a with lanes := a.lanes.map fun l => { l with result := some (l.last, stTimeout) } } 0) := by
  have htime : s.ringTimedOut core a = true := by
    obtain ⟨l, hl⟩ := List.exists_mem_of_ne_nil _ hne
    obtain ⟨hnone, hpass⟩ := hall l hl
    have hany : (a.lanes.any fun l => l.result.isNone && decide (l.passes ≥ cwBudget a.cw)) = true :=
      List.any_eq_true.2 ⟨l, hl, by rw [hnone, decide_eq_true hpass]; rfl⟩
    unfold State.ringTimedOut
    rw [h.active hq hent, hany, beq_iff_eq.2 hk, bne_iff_ne.2 hbudget]
    rfl
  have hlanes : (a.lanes.map fun l => if l.result.isNone ∧ l.passes ≥ cwBudget a.cw then { l with result := some (l.last, stTimeout) } else l)
      = a.lanes.map fun l => { l with result := some (l.last, stTimeout) } :=
    List.map_congr_left fun l hl => if_pos ⟨Option.isNone_iff_eq_none.2 (hall l hl).1, (hall l hl).2⟩
  have hstep : s.ringTimeOut core strand a = ({ s with cores := [(core, { c with stops := [] })] } : State).ringResult
      { a with lanes := a.lanes.map fun l => { l with result := some (l.last, stTimeout) } } 0 := by
    unfold State.ringTimeOut
    rw [hlanes, if_pos (by simp), h.put_eq]
    rfl
  exact (h.exec_timeout htime (by rw [hstep, State.ringResult_ringLeft]; exact h.left_eq)).trans (congrArg _ hstep)

/-! ### What a passage leaves -/

section
variable (hexp : s.ringExpired core a = false) (htime : s.ringTimedOut core a = false)
include hexp htime

/-- The action stands in its queue still, and no other core or queue changes. -/
theorem exec_stays {u : State} {b : RingAct}
    (hv : s.advanced.ringVisit (stopPos core) strand (slotAt (stopPos core) s.advanced.ringStep) a = (u, some b))
    (hcores : u.cores = s.cores) (hleft : u.ringLeft = s.ringLeft) :
    exec .ringSlotPassage s = .next { u with cores := [(core, { c with stops := [(strand, [b])] })] } := by
  have hu : u.stopPart = s.stopPart := by
    unfold State.stopPart State.core
    rw [hcores, hleft]
  rw [h.exec_visit hq hent hexp htime hv hu, State.onCore_only (hcores.trans h.cores_eq)]
  rfl

/-- The action stands in its queue still. -/
theorem exec_waits {u : State} {b : RingAct}
    (hv : s.advanced.ringVisit (stopPos core) strand (slotAt (stopPos core) s.advanced.ringStep) a = (u, some b)) (hu : u.stopPart = s.stopPart) :
    exec .ringSlotPassage s = .next (u.onCore core fun k => { k with stops := [(strand, [b])] }) :=
  h.exec_visit hq hent hexp htime hv hu

/-- The action has performed, and leaves its queue. -/
theorem exec_done {u : State} {b : RingAct} {fl : W32}
    (hv : s.advanced.ringVisit (stopPos core) strand (slotAt (stopPos core) s.advanced.ringStep) a = (u.ringResult b fl, none))
    (hu : u.stopPart = s.stopPart) :
    exec .ringSlotPassage s = .next ((u.ringResult b fl).onCore core fun k => { k with stops := [] }) :=
  h.exec_visit hq hent hexp htime hv ((stopPart_ringResult u b fl).trans hu)

/-- The action has failed, and leaves its queue. -/
theorem exec_traps {u : State} {b : RingAct} {n : Nat} {t : Trap}
    (hv : s.advanced.ringVisit (stopPos core) strand (slotAt (stopPos core) s.advanced.ringStep) a = (u.ringTrap b n t, none))
    (hu : u.stopPart = s.stopPart) :
    exec .ringSlotPassage s = .next ((u.ringTrap b n t).onCore core fun k => { k with stops := [] }) :=
  h.exec_visit hq hent hexp htime hv ((stopPart_ringTrap u b n t).trans hu)

end

end

end LoneAct

end Sys2Proof.Machine

/-! PROOFS. The passages of a ring with one queued action, and the statement (O48). -/

namespace Sys2Proof.Machine
open Sys2Proof

/-! ### A landed slot of the key, by the kind of the action (09 R253, R254, R257) -/

section
variable {s : State} {strand i : Nat} {a : RingAct} {x : RingSlot}

theorem landedVisit_alight (hk : a.kind = 1) (hhome : ¬(a.cw.getLsbD 11 = true ∧ x.home.isSome = true)) :
    s.landedVisit strand i a x = ((s.emptySlot strand i).ringResult (a.captures x.payload stOk) 0, none) := by
  unfold State.landedVisit
  rw [hk]
  exact if_neg fun e => hhome (Bool.and_eq_true _ _ ▸ e)

theorem landedVisit_home (hk : a.kind = 1) (hmode : a.cw.getLsbD 11 = true) (hhome : x.home.isSome = true) :
    s.landedVisit strand i a x =
      (((s.setSlot strand i { x with st := 3 }).homeStore (a.captures x.payload stOk) i x).1,
        some ((s.setSlot strand i { x with st := 3 }).homeStore (a.captures x.payload stOk) i x).2) := by
  have hmode' : cwMode a.cw = true := hmode
  unfold State.landedVisit
  rw [hk]
  exact if_pos (by rw [hmode', hhome]; rfl)

theorem landedVisit_wcap (hk : a.kind = 2) : s.landedVisit strand i a x = (s.ringResult (a.captures x.payload stOk) 0, none) := by
  cases a
  cases hk
  rfl

theorem landedVisit_until (hk : a.kind = 3) : s.landedVisit strand i a x =
    if (a.lanes.map (RingLane.until a x.payload)).all fun l => l.result.isSome then
      (s.ringResult { a with lanes := a.lanes.map (RingLane.until a x.payload) } 0, none)
    else (s, some { a with lanes := a.lanes.map (RingLane.until a x.payload), since := s.ringStep }) := by
  cases a
  cases hk
  rfl

theorem landedVisit_rewrite (hk : a.kind = 4) : s.landedVisit strand i a x =
    ((s.setSlot strand i { x with payload := (rewriteLanes a.op (cwW64 a.cw) x.payload a.lanes).1 }).ringResult
      { a with lanes := (rewriteLanes a.op (cwW64 a.cw) x.payload a.lanes).2 } 0, none) := by
  cases a
  cases hk
  rfl

theorem landedVisit_history (hk : a.kind = 5 ∨ a.kind = 6) : s.landedVisit strand i a x =
    ((s.setSlot strand i { x with payload := if a.kind = 5 then histMerge x.payload a.amax else histCommit x.payload }).ringResult
      { a with lanes := (historyResults a (some x.payload)).1 } (historyResults a (some x.payload)).2, none) := by
  obtain hk | hk := hk
  · cases a
    cases hk
    rfl
  · cases a
    cases hk
    rfl

end

/-! ### The passages, clause by clause -/

/-- The action stands alone in the queue of the only stop with one. -/
def State.standing (s : State) (core strand : Nat) (c : Core) (b : RingAct) : State := { s with cores := [(core, { c with stops := [(strand, [b])] })] }

/-- The action has performed, and its queue is empty. -/
def State.finished (s : State) (core : Nat) (b : RingAct) (fl : W32) : State := (s.ringResult b fl).onCore core fun k => { k with stops := [] }

namespace LoneAct
variable {s : State} {core strand : Nat} {c : Core} {a : RingAct} (h : LoneAct s core strand c a)
include h

/-- A passage that changes nothing leaves the action as it stands. -/
theorem stands_eq : s.advanced.standing core strand c a = s.advanced := by
  rw [State.standing, ← h.stops_eq]
  exact congrArg (fun l => ({ s.advanced with cores := l } : State)) h.cores_eq.symm

/-- No lane of a wcap.until has used its budget: those whose condition holds perform, the others have met one passage more. -/
theorem until_lanes (hq : c.quarantined = false) (hent : a.entered = true) (htime : s.ringTimedOut core a = false) (hk : a.kind = 3)
    (p : BitVec 512) :
    a.lanes.map (RingLane.until a p) = a.lanes.map fun l => match l.result with
      | some _ => l
      | none =>
        if untilHolds (a.cw.extractLsb' 8 3).toNat ((payField p (a.cw.getLsbD 12) l.field).extractLsb' 0 32) (l.b.extractLsb' 0 32) then
          { l with result := some (payField p (a.cw.getLsbD 12) l.field, 0) }
        else { l with passes := l.passes + 1, last := payField p (a.cw.getLsbD 12) l.field } := by
  have hlow (x : W64) : x.extractLsb' 0 32 = x.truncate 32 := (BitVec.setWidth_eq_extractLsb' (by decide)).symm
  refine List.map_congr_left fun l hl => ?_
  cases hres : l.result with
  | some r => exact RingLane.until_performed hres
  | none =>
    have hleft : ¬(l.passes ≥ cwBudget a.cw ∧ cwBudget a.cw ≠ 0) := fun ⟨hpass, hbudget⟩ => by
      have hany : (a.lanes.any fun l => l.result.isNone && decide (l.passes ≥ cwBudget a.cw)) = true :=
        List.any_eq_true.2 ⟨l, hl, by rw [hres, decide_eq_true hpass]; rfl⟩
      rw [State.ringTimedOut, h.active hq hent, hany, beq_iff_eq.2 hk, bne_iff_ne.2 hbudget] at htime
      cases htime
    rw [RingLane.until_waiting hres hleft, hlow, hlow, hres]
    rfl

section
variable (hq : c.quarantined = false) (hent : a.entered = true) {i : Nat} (hi : slotAt (stopPos core) s.advanced.ringStep = i)
include hq hent hi

/-! A watch (09 R252-R254, R256). -/

section
variable (hphase : a.phase = .watch) (hlt : s.ringStep < a.since + 1024) (htime : s.ringTimedOut core a = false)
include hphase hlt htime

theorem watch_claims (hk : a.kind = 0) (h0 : (s.slot strand i).st = 0) : exec .ringSlotPassage s =
    .next ((s.advanced.setSlot strand i (a.claimSlot (stopPos core))).standing core strand c { a with phase := .claimed i }) := by
  subst hi
  exact h.exec_stays hq hent (ringExpired_not (.inr hlt)) htime
    ((ringVisit_watch hphase).trans ((if_pos hk).trans (boardWatch_empty (s := s.advanced) h0))) rfl rfl

/-- A board whose slot is another's, and an action that meets no landed and no alighting slot of its key, go on watching. -/
theorem watch_passes
    (hother : ¬(((s.slot strand i).st ≠ 0 ∧ (s.slot strand i).key = a.key ∧ (s.slot strand i).vf = a.vf) ∧ 2 ≤ (s.slot strand i).st
      ∧ (s.slot strand i).st ≤ 3)) (h0 : a.kind = 0 → (s.slot strand i).st ≠ 0) :
    exec .ringSlotPassage s = .next (s.advanced.standing core strand c a) := by
  subst hi
  have hself : ({ a with phase := .watch } : RingAct) = a := by
    cases a
    cases hphase
    rfl
  have hno : ¬(((s.advanced.slot strand (slotAt (stopPos core) s.advanced.ringStep)).st ≠ 0
      ∧ (s.advanced.slot strand (slotAt (stopPos core) s.advanced.ringStep)).key = a.key
      ∧ (s.advanced.slot strand (slotAt (stopPos core) s.advanced.ringStep)).vf = a.vf)
      ∧ ((s.advanced.slot strand (slotAt (stopPos core) s.advanced.ringStep)).st = 2
        ∨ (s.advanced.slot strand (slotAt (stopPos core) s.advanced.ringStep)).st = 3)) :=
    fun e => hother ⟨e.1, e.2.elim (fun e => ⟨e.ge, e.trans_le (by decide)⟩) (fun e => ⟨le_trans (by decide) e.ge, e.le⟩)⟩
  refine h.exec_stays hq hent (ringExpired_not (.inr hlt)) htime (u := s.advanced) (b := a) ?_ rfl rfl
  by_cases hk : a.kind = 0
  · rw [ringVisit_watch hphase, if_pos hk, boardWatch_other hno (h0 hk), hself]
  · exact ringVisit_watch_other hno hphase hk

section
variable (hmine : (s.slot strand i).st ≠ 0 ∧ (s.slot strand i).key = a.key ∧ (s.slot strand i).vf = a.vf)
include hmine

theorem watch_alighting (h3 : (s.slot strand i).st = 3) :
    (a.kind = 0 → exec .ringSlotPassage s = .next (s.advanced.standing core strand c { a with phase := .alightWait i }))
    ∧ (1 ≤ a.kind → exec .ringSlotPassage s = .next (s.advanced.standing core strand c { a with since := s.ringStep + 1 })) := by
  subst hi
  refine ⟨fun hk => ?_, fun hk => ?_⟩
  · exact h.exec_stays hq hent (ringExpired_not (.inr hlt)) htime
      ((ringVisit_watch hphase).trans ((if_pos hk).trans (boardWatch_alighting (s := s.advanced) hmine h3))) rfl rfl
  · exact h.exec_stays hq hent (ringExpired_not (.inr hlt)) htime
      (ringVisit_watch_alighting (s := s.advanced) hmine hphase (by omega) h3) rfl rfl

section
variable (h2 : (s.slot strand i).st = 2)
include h2

theorem watch_present (hk : a.kind = 0) :
    exec .ringSlotPassage s = .next ((s.advanced.unreserve a.vf).finished core (a.captures (s.slot strand i).payload stPresent) 0) := by
  subst hi
  exact h.exec_done hq hent (ringExpired_not (.inr hlt)) htime
    ((ringVisit_watch hphase).trans ((if_pos hk).trans (boardWatch_landed (s := s.advanced) hmine h2))) rfl

theorem watch_performs (hk : a.kind ≠ 0) {u : State} {b : RingAct} {fl : W32}
    (hland : s.advanced.landedVisit strand i a (s.slot strand i) = (u.ringResult b fl, none)) (hu : u.stopPart = s.stopPart) :
    exec .ringSlotPassage s = .next (u.finished core b fl) := by
  subst hi
  exact h.exec_done hq hent (ringExpired_not (.inr hlt)) htime
    ((ringVisit_watch_landed (s := s.advanced) hmine hphase hk h2).trans hland) hu

theorem watch_alights (hk : a.kind = 1) (hhome : ¬(a.cw.getLsbD 11 = true ∧ (s.slot strand i).home.isSome = true)) :
    exec .ringSlotPassage s =
      .next (((s.advanced.setSlot strand i {}).unreserve a.vf).finished core (a.captures (s.slot strand i).payload stOk) 0) := by
  have hempty : s.advanced.emptySlot strand i = (s.advanced.setSlot strand i {}).unreserve a.vf := by rw [← hmine.2.2]; rfl
  exact h.watch_performs hq hent hi hphase hlt htime hmine h2 (by omega) ((landedVisit_alight hk hhome).trans (by rw [hempty])) rfl

theorem watch_until (hk : a.kind = 3) {ls : List RingLane} (hls : a.lanes.map (RingLane.until a (s.slot strand i).payload) = ls) :
    ((∀ l ∈ ls, l.result.isSome = true) → exec .ringSlotPassage s = .next (s.advanced.finished core { a with lanes := ls } 0))
    ∧ ((∃ l ∈ ls, l.result = none) →
        exec .ringSlotPassage s = .next (s.advanced.standing core strand c { a with lanes := ls, since := s.ringStep + 1 })) := by
  subst hi hls
  have hvisit := (ringVisit_watch_landed (pos := stopPos core) (s := s.advanced) hmine hphase (by omega) h2).trans (landedVisit_until hk)
  refine ⟨fun hall => ?_, fun ⟨l, hl, hnone⟩ => ?_⟩
  · exact h.exec_done hq hent (ringExpired_not (.inr hlt)) htime (hvisit.trans (if_pos (List.all_eq_true.2 hall))) rfl
  · refine h.exec_stays hq hent (ringExpired_not (.inr hlt)) htime (hvisit.trans (if_neg fun e => ?_)) rfl rfl
    have := List.all_eq_true.1 e l hl
    rw [hnone] at this
    cases this

theorem watch_home (hk : a.kind = 1) (hmode : a.cw.getLsbD 11 = true) (hhome : (s.slot strand i).home.isSome = true) {u : State} {b : RingAct}
    (hstore : (s.advanced.setSlot strand i { s.slot strand i with st := 3 }).homeStore (a.captures (s.slot strand i).payload stOk) i (s.slot strand i)
      = (u, b)) (hu : u.stopPart = s.stopPart) :
    exec .ringSlotPassage s = .next (u.onCore core fun k => { k with stops := [(strand, [b])] }) := by
  subst hi
  refine h.exec_waits hq hent (ringExpired_not (.inr hlt)) htime
    ((ringVisit_watch_landed (s := s.advanced) hmine hphase (by omega) h2).trans ((landedVisit_home hk hmode hhome).trans ?_)) hu
  exact (congrArg (fun r : State × RingAct => (r.1, some r.2)) hstore)

/-- An alight with a home: the payload is captured, the slot is alighting, and the home write is made, fails or parks. -/
theorem watch_homeStore (hk : a.kind = 1) (hmode : a.cw.getLsbD 11 = true) {home : W64} (hhome : (s.slot strand i).home = some home) :
    let x := s.slot strand i
    let b : RingAct := a.captures x.payload stOk
    let z := s.advanced.setSlot strand i { x with st := 3 }
    let puts (w : State) (b : RingAct) : State := w.onCore core fun k => { k with stops := [(strand, [b])] }
    let stored := z.storeVa a.vf a.ctx { kind := 7, write := true } (homeAddr home) 64 x.payload.toNat
    (∀ w, stored = .ok w → exec .ringSlotPassage s = .next (puts w { b with phase := .home i true, park := [] }))
    ∧ (∀ e, stored = .error (.trap e) →
        exec .ringSlotPassage s = .next (puts z { b with phase := .homeFail i { e with tval := homeAddr home }, park := [] }))
    ∧ (∀ q, stored = .error (.page q) →
        exec .ringSlotPassage s = .next (puts (z.postFault a.vf a.ctx (s.advanced.teamOf a.uid).core a.pc q).1
          { b with phase := .home i false, park := [(z.postFault a.vf a.ctx (s.advanced.teamOf a.uid).core a.pc q).2] })) := by
  intro x b z puts stored
  have hsome : x.home.isSome = true := Option.isSome_iff_exists.2 ⟨home, hhome⟩
  have hz : z.stopPart = s.stopPart := rfl
  refine ⟨fun w hw => ?_, fun e he => ?_, fun q hpage => ?_⟩
  · have hstore := homeStore_ok (s := z) (a := b) (i := i) hhome hw
    exact h.watch_home hq hent hi hphase hlt htime hmine h2 hk hmode hsome hstore ((stopPart_storeVa (s := z) hw).trans hz)
  · have hstore := homeStore_trap (s := z) (a := b) (i := i) hhome he
    exact h.watch_home hq hent hi hphase hlt htime hmine h2 hk hmode hsome hstore hz
  · have hstore := homeStore_page (s := z) (a := b) (i := i) hhome hpage
    rw [State.teamOf_setSlot] at hstore
    exact h.watch_home hq hent hi hphase hlt htime hmine h2 hk hmode hsome hstore ((stopPart_postFault z ..).trans hz)

end

end

end

/-! What a board does that has claimed, lost or waits, and the end of a home write (09 R256, R257). -/

section
variable (hk : a.kind < 3)
include hk

theorem phase_stays (hphase : a.phase ≠ .watch ∧ a.phase ≠ .lost ∨ s.ringStep < a.since + 1024) {u : State} {b : RingAct}
    (hv : s.advanced.ringVisit (stopPos core) strand i a = (u, some b)) (hcores : u.cores = s.cores) (hleft : u.ringLeft = s.ringLeft) :
    exec .ringSlotPassage s = .next (u.standing core strand c b) := by
  subst hi
  exact h.exec_stays hq hent (ringExpired_not hphase) (ringTimedOut_not (by omega)) hv hcores hleft

theorem phase_done (hphase : a.phase ≠ .watch ∧ a.phase ≠ .lost ∨ s.ringStep < a.since + 1024) {u : State} {b : RingAct} {fl : W32}
    (hv : s.advanced.ringVisit (stopPos core) strand i a = (u.ringResult b fl, none)) (hu : u.stopPart = s.stopPart) :
    exec .ringSlotPassage s = .next (u.finished core b fl) := by
  subst hi
  exact h.exec_done hq hent (ringExpired_not hphase) (ringTimedOut_not (by omega)) hv hu

theorem claimed_returns (hphase : a.phase = .claimed i) : exec .ringSlotPassage s =
    .next ((s.advanced.setSlot strand i { s.slot strand i with st := 2 }).finished core (a.captures (s.slot strand i).payload stOk) 0) :=
  h.phase_done hq hent hi hk (.inl (by rw [hphase]; exact ⟨nofun, nofun⟩)) ((ringVisit_claimed hphase).trans (if_pos rfl)) rfl

/-- Another slot passes while the board's own travels. -/
theorem claimed_passes {k : Nat} (hphase : a.phase = .claimed k) (hki : k ≠ i) :
    let x := s.slot strand i
    let mine := x.st ≠ 0 ∧ x.key = a.key ∧ x.vf = a.vf
    let lose : State := s.advanced.setSlot strand k { s.slot strand k with lost := true }
    let beaten := x.bpos < stopPos core ∨ (x.bpos = stopPos core ∧ x.claim < a.id)
    (mine → x.st = 2 → exec .ringSlotPassage s = .next ((lose.unreserve a.vf).finished core (a.captures x.payload stPresent) 0))
    ∧ (mine → x.st = 1 → beaten →
        exec .ringSlotPassage s = .next (lose.standing core strand c { a with phase := .lost, since := s.ringStep + 1 }))
    ∧ (¬(mine ∧ (x.st = 2 ∨ (x.st = 1 ∧ beaten))) → exec .ringSlotPassage s = .next (s.advanced.standing core strand c a)) := by
  intro x mine lose beaten
  have hp : a.phase ≠ .watch ∧ a.phase ≠ .lost ∨ s.ringStep < a.since + 1024 := .inl (by rw [hphase]; exact ⟨nofun, nofun⟩)
  have hvisit := (ringVisit_claimed (s := s.advanced) (pos := stopPos core) (strand := strand) (i := i) hphase).trans (if_neg hki)
  have hbeaten : (decide (x.bpos < stopPos core) || (x.bpos == stopPos core && decide (x.claim < a.id))) = true ↔ beaten := by
    rw [Bool.or_eq_true, Bool.and_eq_true, decide_eq_true_iff, decide_eq_true_iff, beq_iff_eq]
  refine ⟨fun hm h2 => ?_, fun hm h1 hb => ?_, fun hno => ?_⟩
  · exact h.phase_done hq hent hi hk hp (hvisit.trans (if_pos (RingSlot.isOf_and.2 ⟨hm, h2⟩))) rfl
  · refine h.phase_stays hq hent hi hk hp (hvisit.trans ((if_neg fun e => ?_).trans (if_pos ?_))) rfl rfl
    · have := (RingSlot.isOf_and.1 e).2.symm.trans h1
      omega
    · exact (Bool.and_eq_true _ _).symm ▸ ⟨RingSlot.isOf_and.2 ⟨hm, h1⟩, hbeaten.2 hb⟩
  · refine h.phase_stays hq hent hi hk hp (hvisit.trans ((if_neg fun e => ?_).trans (if_neg fun e => ?_))) rfl rfl
    · exact hno ((RingSlot.isOf_and.1 e).imp_right .inl)
    · obtain ⟨e1, e2⟩ := (Bool.and_eq_true _ _).mp e
      exact hno ((RingSlot.isOf_and.1 e1).imp_right fun h1 => .inr ⟨h1, hbeaten.1 e2⟩)

/-- A board that has lost waits for the landed slot. -/
theorem lost_passes (hphase : a.phase = .lost) (hlt : s.ringStep < a.since + 1024) :
    let x := s.slot strand i
    let mine := x.st ≠ 0 ∧ x.key = a.key ∧ x.vf = a.vf
    (mine → x.st = 2 → exec .ringSlotPassage s = .next ((s.advanced.unreserve a.vf).finished core (a.captures x.payload stPresent) 0))
    ∧ (¬(mine ∧ x.st = 2) → exec .ringSlotPassage s = .next (s.advanced.standing core strand c a)) := by
  have hvisit := ringVisit_lost (s := s.advanced) (pos := stopPos core) (strand := strand) (i := i) hphase
  exact ⟨fun hm h2 => h.phase_done hq hent hi hk (.inr hlt) (hvisit.trans (if_pos (RingSlot.isOf_and.2 ⟨hm, h2⟩))) rfl,
    fun hno => h.phase_stays hq hent hi hk (.inr hlt) (hvisit.trans (if_neg fun e => hno (RingSlot.isOf_and.1 e))) rfl rfl⟩

/-- A board waits for an alighting slot to pass its stop again. -/
theorem alightWait_passes {k : Nat} (hphase : a.phase = .alightWait k) :
    let x := s.slot strand i
    let mine := x.st ≠ 0 ∧ x.key = a.key ∧ x.vf = a.vf
    (k ≠ i ∨ (mine ∧ x.st = 3) → exec .ringSlotPassage s = .next (s.advanced.standing core strand c a))
    ∧ (k = i → mine → x.st = 2 →
        exec .ringSlotPassage s = .next ((s.advanced.unreserve a.vf).finished core (a.captures x.payload stPresent) 0))
    ∧ (k = i → x.st = 0 →
        exec .ringSlotPassage s = .next ((s.advanced.setSlot strand i (a.claimSlot (stopPos core))).standing core strand c
          { a with phase := .claimed i, since := s.ringStep + 1 }))
    ∧ (k = i → x.st ≠ 0 → ¬(mine ∧ (x.st = 2 ∨ x.st = 3)) →
        exec .ringSlotPassage s = .next (s.advanced.standing core strand c { a with phase := .watch, since := s.ringStep + 1 })) := by
  intro x mine
  have hp : a.phase ≠ .watch ∧ a.phase ≠ .lost ∨ s.ringStep < a.since + 1024 := .inl (by rw [hphase]; exact ⟨nofun, nofun⟩)
  have hvisit := ringVisit_alightWait (s := s.advanced) (pos := stopPos core) (strand := strand) (i := i) hphase
  have hnot {n : Nat} (hn : ¬(mine ∧ x.st = n)) : ¬(x.isOf a && x.st == n) = true := fun e => hn (RingSlot.isOf_and.1 e)
  refine ⟨fun hor => ?_, fun hki hm h2 => ?_, fun hki h0 => ?_, fun hki h0 hno => ?_⟩
  · refine h.phase_stays hq hent hi hk hp (hvisit.trans ?_) rfl rfl
    by_cases hki : k = i
    · exact (if_neg (not_not.2 hki)).trans (if_pos (RingSlot.isOf_and.2 (hor.resolve_left (not_not.2 hki))))
    · exact if_pos hki
  · exact h.phase_done hq hent hi hk hp (hvisit.trans ((if_neg (not_not.2 hki)).trans ((if_neg (hnot fun e => by have := e.2; omega)).trans
      (if_pos (RingSlot.isOf_and.2 ⟨hm, h2⟩))))) rfl
  · refine h.phase_stays hq hent hi hk hp (hvisit.trans ((if_neg (not_not.2 hki)).trans ((if_neg (hnot fun e => e.1.1 h0)).trans
      ((if_neg (hnot fun e => e.1.1 h0)).trans ?_)))) rfl rfl
    rw [boardWatch_empty (s := s.advanced) h0]
    rfl
  · refine h.phase_stays hq hent hi hk hp (hvisit.trans ((if_neg (not_not.2 hki)).trans ((if_neg (hnot fun e => hno ⟨e.1, .inr e.2⟩)).trans
      ((if_neg (hnot fun e => hno ⟨e.1, .inl e.2⟩)).trans ?_)))) rfl rfl
    rw [boardWatch_other (s := s.advanced) hno h0]
    rfl

/-- A home write that has performed empties its slot; before the slot passes, it waits. -/
theorem home_performs {k : Nat} (hphase : a.phase = .home k true) :
    (k ≠ i → exec .ringSlotPassage s = .next (s.advanced.standing core strand c a))
    ∧ (k = i → exec .ringSlotPassage s = .next ((s.advanced.emptySlot strand i).finished core a 0)) := by
  have hp : a.phase ≠ .watch ∧ a.phase ≠ .lost ∨ s.ringStep < a.since + 1024 := .inl (by rw [hphase]; exact ⟨nofun, nofun⟩)
  have hvisit := ringVisit_home (s := s.advanced) (pos := stopPos core) (strand := strand) (i := i) hphase
  exact ⟨fun hki => h.phase_stays hq hent hi hk hp (hvisit.trans (if_pos hki)) rfl rfl,
    fun hki => h.phase_done hq hent hi hk hp (hvisit.trans ((if_neg (not_not.2 hki)).trans (if_pos rfl))) rfl⟩

theorem home_parked {k : Nat} (hphase : a.phase = .home k false) (hwait : k ≠ i ∨ a.park ≠ []) :
    exec .ringSlotPassage s = .next (s.advanced.standing core strand c a) := by
  have hp : a.phase ≠ .watch ∧ a.phase ≠ .lost ∨ s.ringStep < a.since + 1024 := .inl (by rw [hphase]; exact ⟨nofun, nofun⟩)
  refine h.phase_stays hq hent hi hk hp ((ringVisit_home (s := s.advanced) hphase).trans ?_) rfl rfl
  by_cases hki : k = i
  · have hpark : (!a.park.isEmpty) = true := by
      rw [Bool.not_eq_true', Bool.eq_false_iff]
      exact fun e => hwait.resolve_left (not_not.2 hki) (List.isEmpty_iff.1 e)
    exact (if_neg (not_not.2 hki)).trans ((if_neg Bool.false_ne_true).trans (if_pos hpark))
  · exact if_pos hki

/-- A home write that failed lands its slot again and traps its issuer. -/
theorem homeFail_passes {k : Nat} {t : Trap} (hphase : a.phase = .homeFail k t) :
    (k ≠ i → exec .ringSlotPassage s = .next (s.advanced.standing core strand c a))
    ∧ (k = i → exec .ringSlotPassage s = .next (((s.advanced.setSlot strand i { s.slot strand i with st := 2 }).ringTrap a 1 t).onCore core
        fun k => { k with stops := [] })) := by
  have hp : a.phase ≠ .watch ∧ a.phase ≠ .lost ∨ s.ringStep < a.since + 1024 := .inl (by rw [hphase]; exact ⟨nofun, nofun⟩)
  have hvisit := ringVisit_homeFail (s := s.advanced) (pos := stopPos core) (strand := strand) (i := i) hphase
  refine ⟨fun hki => h.phase_stays hq hent hi hk hp (hvisit.trans (if_pos hki)) rfl rfl, fun hki => ?_⟩
  subst hi
  exact h.exec_traps hq hent (ringExpired_not hp) (ringTimedOut_not (by omega)) (hvisit.trans (if_neg (not_not.2 hki))) rfl

end

end

end LoneAct

end Sys2Proof.Machine

/-! PROOFS. Ring events (O48). -/

namespace Sys2Proof.Machine
open Sys2Proof

/-- A rewrite, by its code (09 R253). -/
theorem rewriteStep_cases (w64 : Bool) (p : BitVec 512) (l : RingLane) {op : Nat} (hop : op < 11) :
    let w := if w64 then 64 else 32
    let x := (payField p w64 l.field).toNat
    let b := l.b.toNat % 2 ^ w
    let r := rewriteStep op w64 p l
    let gives (y : Nat) : Prop := r.1 = setPayField p w64 l.field (BitVec.ofNat 64 y)
    r.2.1.toNat = x ∧ r.2.2 = (if op = 9 ∧ x ≠ b then 7 else 0)
    ∧ (op = 0 → gives ((x + b) % 2 ^ w))
    ∧ (op = 1 → gives (if signedField w b < signedField w x then b else x)) ∧ (op = 2 → gives (min x b))
    ∧ (op = 3 → gives (if signedField w x < signedField w b then b else x)) ∧ (op = 4 → gives (max x b))
    ∧ (op = 5 → gives (x &&& b)) ∧ (op = 6 → gives (x ||| b)) ∧ (op = 7 → gives (x ^^^ b)) ∧ (op = 8 → gives b)
    ∧ (op = 9 → gives (if x = b then l.new.toNat % 2 ^ w else x)) ∧ (op = 10 → gives (max x (b % 2 ^ 31))) := by
  intro w x b r gives
  have hr := rewriteStep_field hop w64 p l
  have hw : w = 32 ∨ w = 64 := by cases w64 <;> simp [w]
  have hx : x < 2 ^ w := payField_lt p w64 l.field
  have hb : b < 2 ^ w := Nat.mod_lt _ (by positivity)
  have hgives {y : Nat} (h : rewriteValue op w x b (l.new.toNat % 2 ^ w) = y) : gives y := (congrArg Prod.fst hr).trans (by rw [← h])
  refine ⟨congrArg (fun r => r.2.1.toNat) hr, congrArg (fun r => r.2.2) hr, ?_, ?_, ?_, ?_, ?_, ?_, ?_, ?_, ?_, ?_, ?_⟩
  · rintro rfl
    exact hgives (iAdd_field hw hx hb)
  · rintro rfl
    exact hgives (iMin_signed_field hx hb)
  · rintro rfl
    exact hgives (iMin_unsigned_field hw hx hb)
  · rintro rfl
    exact hgives (iMax_signed_field hx hb)
  · rintro rfl
    exact hgives (iMax_unsigned_field hw hx hb)
  · rintro rfl
    exact hgives rfl
  · rintro rfl
    exact hgives rfl
  · rintro rfl
    exact hgives rfl
  · rintro rfl
    exact hgives rfl
  · rintro rfl
    exact hgives rfl
  · rintro rfl
    exact hgives rfl

/-- A deque operation, by its code (09 R255). -/
theorem dequeStep_cases (w64 : Bool) (p : BitVec 512) (l : RingLane) {op : Nat} (hlo : 11 ≤ op) (hhi : op ≤ 13) :
    let top : W32 := p.extractLsb' 0 32
    let bottom : W32 := p.extractLsb' 32 32
    let n := (bottom - top).toNat
    let r := rewriteStep op w64 p l
    let keeps (st : Nat) : Prop := r = (p, bottom ++ top, st)
    (op = 11 → ((p.extractLsb' 64 32 : W32).toNat ≤ n → keeps 5)
      ∧ (n < (p.extractLsb' 64 32 : W32).toNat → r = (setPayField p false 1 ((bottom + 1).zeroExtend 64), bottom ++ top, 0)))
    ∧ (op = 12 → (n = 0 → keeps 4) ∧ (n ≠ 0 → r = (setPayField p false 1 ((bottom - 1).zeroExtend 64), bottom ++ top, 0)))
    ∧ (op = 13 → (top ≠ l.b.extractLsb' 0 32 → keeps 7)
      ∧ (top = l.b.extractLsb' 0 32 →
          (n = 0 → keeps 4) ∧ (n ≠ 0 → r = (setPayField p false 0 ((top + 1).zeroExtend 64), bottom ++ top, 0)))) := by
  intro top bottom n r keeps
  have hr : r = dequeStep op p l.b := rewriteStep_deque hlo w64 p l
  have hzero : n = 0 ↔ bottom - top = 0 := BitVec.toNat_eq (x := bottom - top) (y := 0) |>.symm
  have hb : l.b.extractLsb' 0 32 = l.b.truncate 32 := BitVec.setWidth_eq_extractLsb' (by decide) |>.symm
  refine ⟨?_, ?_, ?_⟩
  · rintro rfl
    exact ⟨fun hfull => hr.trans (if_pos hfull), fun hroom => hr.trans (if_neg hroom.not_ge)⟩
  · rintro rfl
    exact ⟨fun h0 => hr.trans (if_pos (hzero.1 h0)), fun h0 => hr.trans (if_neg fun e => h0 (hzero.2 e))⟩
  · rintro rfl
    rw [hb]
    exact ⟨fun hne => hr.trans (if_pos hne), fun heq => ⟨fun h0 => hr.trans ((if_neg (not_not.2 heq)).trans (if_pos (hzero.1 h0))),
      fun h0 => hr.trans ((if_neg (not_not.2 heq)).trans (if_neg fun e => h0 (hzero.2 e)))⟩⟩

/-- Settles O48: equations for the visits of a step and for the operations on a payload; for an action alone in its queue, one lemma for each of its
phases and kinds, over what the operations of a visit leave of the queues. -/
theorem ringEvents : Obligations.RingEvents := by
  unfold Obligations.RingEvents
  refine ⟨fun s => ?_, fun p w64 f x _ => ⟨toNat_payField p w64 f, getLsbD_setPayField p w64 f x⟩,
    fun op w64 p l => rewriteStep_cases w64 p l, fun op w64 p l => dequeStep_cases w64 p l,
    untilHolds_iff, fun x => amaxCode_finite, fun p m => ?_, fun a p => ?_, fun sc x sat n m e _ hr => cvtqElement_mxi8 hr rfl, ?_⟩
  · intro due seam
    refine ⟨idle_ringSlotPassage, fun h => if_pos h, fun h => if_neg h, rfl, fun h hdue hleft => exec_ringSlotPassage_left h hdue hleft, rfl,
      fun st core id vs => ⟨s.ringVisits_gone st core id vs, fun a => s.ringVisits_found st core id vs⟩, ⟨_, _, rfl, rfl, rfl, rfl⟩,
      fun h hleft hempty hslots => ?_, idle_ringWatchExpiry, idle_wcapUntilTimeout, fun n x h hleft hempty hslots => ?_,
      s.ringInOrder_eq_false, s.reissue_cons⟩
    · exact (exec_ringSlotPassage_empty h hleft hempty).trans (congrArg _ (State.ringSettle_none (s := s.advanced) hslots))
    · intro now here goes
      have hgo := exec_ringSlotPassage_empty h hleft hempty
      obtain ⟨hlost, hstay, hrevert⟩ := State.ringSettle_one (s := s.advanced) hslots
      exact ⟨fun hl hh => hgo.trans (congrArg _ (hlost hl hh)), fun hl hh hr => hgo.trans (congrArg _ (hstay hl hh hr)),
        fun q hl hr => ⟨fun hh => hgo.trans (congrArg _ ((hrevert q hl hr).1 hh)), fun hh => hgo.trans (congrArg _ ((hrevert q hl hr).2 hh))⟩⟩
  · obtain ⟨hcode, hpend, hhead, hrest, hstep, hlast⟩ := histCommit_parts p
    exact ⟨histMerge_bits p m, hcode, hpend, hhead, hrest, hstep, hlast, fun k e => histScale_eq⟩
  · intro f code all
    exact ⟨fun h => ⟨(historyResults_cvtq h (some p)).1, (historyResults_cvtq h none).1⟩,
      fun h => ⟨historyResults_amxcom h (some p), historyResults_amxcom h none⟩, fun h => (historyResults_cvtq h none).2 rfl⟩
  · intro s core strand c a hstrand hcores hstops hleft hslots hrev w64 ends stays done all pos
    have h : LoneAct s core strand c a := ⟨hstrand, hcores, hstops, hleft, hslots, hrev⟩
    refine ⟨fun hq hm => (h.exec_bypass hq hm).trans (congrArg _ h.stands_eq.symm), fun hq =>
      ⟨fun hent => h.exec_expiry_watch hq hent, fun hent => h.exec_expiry_lost hq hent, fun hent => h.exec_timeout_all hq hent, ?_, ?_, ?_⟩⟩
    · intro hent hphase hlt htime now i x mine goes u
      refine ⟨h.watch_claims hq hent rfl hphase hlt htime, fun hk h0 hm => ?_, fun hk hm => ?_, fun hm h2 => ?_,
        h.watch_alighting hq hent rfl hphase hlt htime⟩
      · exact h.watch_passes hq hent rfl hphase hlt htime (fun e => hm e.1) fun _ => h0
      · exact h.watch_passes hq hent rfl hphase hlt htime (fun e => hm ⟨e.1, e.2.1⟩) fun e => absurd hk (by omega)
      · have land {b : RingAct} {t : State} {fl : W32} (hk : a.kind ≠ 0) :=
          h.watch_performs hq hent rfl hphase hlt htime hm h2 hk (u := t) (b := b) (fl := fl)
        refine ⟨h.watch_present hq hent rfl hphase hlt htime hm h2, h.watch_alights hq hent rfl hphase hlt htime hm h2,
          fun hk => land (by omega) (landedVisit_wcap hk) rfl, fun hk => land (by omega) (landedVisit_rewrite hk) rfl,
          fun hk => h.watch_until hq hent rfl hphase hlt htime hm h2 hk (h.until_lanes hq hent htime hk _),
          fun hk => land (by omega) (landedVisit_history hk) rfl,
          fun hk hmode home hhome => h.watch_homeStore hq hent rfl hphase hlt htime hm h2 hk hmode hhome⟩
    · intro i hent hphase hk now x hi
      exact h.claimed_returns hq hent hi.symm (by omega) hphase
    · intro hent hk now i x mine goes s0 u present
      refine ⟨fun k hphase hki => ?_, fun hphase hlt => h.lost_passes hq hent rfl hk hphase hlt, fun k hphase => ?_, fun k hphase => ?_,
        fun k hphase => ?_, fun k e hphase => ?_⟩
      · exact h.claimed_passes hq hent rfl hk hphase hki
      · exact h.alightWait_passes hq hent rfl hk hphase
      · exact h.home_performs hq hent rfl hk hphase
      · exact h.home_parked hq hent rfl hk hphase
      · exact h.homeFail_passes hq hent rfl hk hphase

end Sys2Proof.Machine
